-- ==== Sys2Proof/Word.lean ====
section
/-! DEFINITION. The word types of the hub: 32-bit registers (R30), bytes, and the 64-bit blocks of a ring slot (R63). -/

namespace Sys2Proof

/-- A word of the local map (R34): every register and memory of the hub is read and written in these. -/
abbrev Word := BitVec 32

/-- One byte of a cell, a frame, a record or the flash. -/
abbrev Byte := BitVec 8

/-- One 64-bit block of a ring slot (R63). -/
abbrev Block := BitVec 64

end Sys2Proof
end

