-- ==== Sys2Proof/Config.lean ====
section
/-! DEFINITION. What the spec leaves open: the free values of the model. Each is an opaque constant with no body, so that
no proof can see its value; `State.free` counts the fresh ones (log entry 3). -/

namespace Sys2Proof.Config

/-- The level a pin presents while nothing fixes it: a floating or contended ball, drawn afresh each time. -/
opaque freeLevel : Nat → Bool

/-- A number the spec leaves open, drawn afresh each time; the user of the value reduces it to its width. -/
opaque freeWord : Nat → Nat

/-- The servo's gains kp and ki, each as a numerator and a denominator less 1, of a term in units of 2^-40 for a θ in units of
2^-16 ns (R365): the spec gives the loop bandwidth (10 Hz for the ring reference, 1 Hz otherwise) and no gains. -/
opaque servoP (ring : Bool) : Nat × Nat
opaque servoI (ring : Bool) : Nat × Nat

/-- Where the search for a free cell of the pool begins (R312): the spec does not say which free cell is taken. -/
opaque cellChoice : Nat → Nat

/-- Byte i of the time reference message where the spec names the quality of the master's source and no register holds
it: clockAccuracy, offsetScaledLogVariance, the grandmaster's identity, stepsRemoved and timeSource (R368). -/
opaque sourceQuality : Nat → Byte

/-- The verification keys in on-chip ROM (R515), by index: the coordinates of a point of the curve P-256. -/
opaque romKey : Nat → Nat × Nat

/-- Lengths of the instruction register and of the boundary-scan register of the JTAG TAP, and the instruction that the bits shifted
through the instruction register select: the spec gives none of them (R589). -/
opaque tapIrLength : Nat
opaque boundaryLength : Nat
opaque tapCode : List Bool → Nat

end Sys2Proof.Config
end

