-- ==== Sys2Proof/Machine/Bits.lean ====
section
/-! DEFINITION. Bit fields, bytes and sparse tables: the named operations every later file uses on words, byte strings
and keyed storage. -/

namespace Sys2Proof.Machine

/-- Bits [hi:lo] of a number, as the spec writes a bit range. -/
def natBits (w hi lo : Nat) : Nat := (w >>> lo) % 2 ^ (hi + 1 - lo)

/-- A number with bits [hi:lo] replaced by the low bits of `v`. -/
def natSetBits (w hi lo v : Nat) : Nat :=
  w - natBits w hi lo * 2 ^ lo + (v % 2 ^ (hi + 1 - lo)) * 2 ^ lo

/-- Bit `i` of a number. -/
def natBit (w i : Nat) : Bool := w.testBit i

/-- A number with bit `i` set or cleared. -/
def natSetBit (w i : Nat) (b : Bool) : Nat := natSetBits w i i (if b then 1 else 0)

/-- 0 or 1. -/
def b2n (b : Bool) : Nat := if b then 1 else 0

/-- `n + 1`, saturating at `top` (every saturating counter of the spec). -/
def satInc (n top : Nat) : Nat := if n < top then n + 1 else top

/-- `n + k`, saturating at `top`. -/
def satAdd (n k top : Nat) : Nat := min (n + k) top

/-- The signed reading of the low `w` bits of `n`. -/
def toSigned (n w : Nat) : Int := if n % 2 ^ w < 2 ^ (w - 1) then (n % 2 ^ w : Nat) else ((n % 2 ^ w : Nat) : Int) - (2 ^ w : Nat)

/-- A signed number as `w` bits of two's complement. -/
def ofSigned (i : Int) (w : Nat) : Nat := (i % ((2 ^ w : Nat) : Int)).toNat

/-- A signed number held within `w` bits by saturation (TIME_DOM_OFFSET). -/
def satSigned (i : Int) (w : Nat) : Int := max (-((2 ^ (w - 1) : Nat) : Int)) (min i (((2 ^ (w - 1) : Nat) : Int) - 1))

/-- Division of a signed number rounded to the nearest integer, halves away from zero. -/
def roundDiv (i : Int) (d : Nat) : Int :=
  if 0 ≤ i then (2 * i + d) / (2 * d) else -((2 * (-i) + d) / (2 * d))

/-! Bytes. -/

/-- A byte from a number. -/
def byte (n : Nat) : Byte := BitVec.ofNat 8 n

/-- The `k` bytes of `n`, most significant first (the big-endian fields of slots, records and cells). -/
def beBytes : Nat → Nat → List Byte
  | 0, _ => []
  | k + 1, n => byte (n >>> (8 * k)) :: beBytes k n

/-- The number whose bytes, most significant first, are `bs`. -/
def beNat (bs : List Byte) : Nat := bs.foldl (fun a b => a * 256 + b.toNat) 0

/-- The number whose bytes, least significant first, are `bs` (the tables and images of the spec). -/
def leNat : List Byte → Nat
  | [] => 0
  | b :: bs => b.toNat + 256 * leNat bs

/-- The `k` bytes of `n`, least significant first. -/
def leBytes : Nat → Nat → List Byte
  | 0, _ => []
  | k + 1, n => byte n :: leBytes k (n / 256)

/-- `k` zero bytes. -/
def zeros (k : Nat) : List Byte := List.replicate k 0

/-- Exactly `k` bytes: cut off, or filled with zeros. -/
def padTo (k : Nat) (bs : List Byte) : List Byte := (bs ++ zeros (k - bs.length)).take k

/-- Bytes [off, off + k) of a byte string, zeros beyond its end. -/
def slice (bs : List Byte) (off k : Nat) : List Byte := padTo k (bs.drop off)

/-- The big-endian number at bytes [off, off + k). -/
def beAt (bs : List Byte) (off k : Nat) : Nat := beNat (slice bs off k)

/-- The little-endian number at bytes [off, off + k). -/
def leAt (bs : List Byte) (off k : Nat) : Nat := leNat (slice bs off k)

/-- The byte at an offset, 0 beyond the end. -/
def byteAt (bs : List Byte) (off : Nat) : Nat := (bs.getD off 0).toNat

/-- A byte string with `new` written at an offset (within its length). -/
def splice (bs : List Byte) (off : Nat) (new : List Byte) : List Byte :=
  bs.take off ++ new ++ bs.drop (off + new.length)

/-- Every byte is 0. -/
def allZero (bs : List Byte) : Bool := bs.all (· == 0)

/-! Sparse tables keyed by a number: ascending keys, no entry equal to the default. -/

/-- The value held under a key, or the default of an unlisted key. -/
def smGet {α : Type} (m : List (Nat × α)) (k : Nat) (dflt : α) : α :=
  match m with
  | [] => dflt
  | (a, v) :: t => if a = k then v else smGet t k dflt

/-- The table with one key set to a value other than the default. -/
def smPut {α : Type} (m : List (Nat × α)) (k : Nat) (x : α) : List (Nat × α) :=
  match m with
  | [] => [(k, x)]
  | (a, v) :: t => if k < a then (k, x) :: (a, v) :: t else if k = a then (k, x) :: t else (a, v) :: smPut t k x

/-- The table with one key set; setting the default removes the entry, so that equal contents are equal lists. -/
def smSet {α : Type} [DecidableEq α] (m : List (Nat × α)) (k : Nat) (x dflt : α) : List (Nat × α) :=
  if x = dflt then m.filter fun e => e.1 != k else smPut m k x

/-- The canonical form of a sparse table: keys strictly rising, no entry equal to the default. -/
def smWf {α : Type} [DecidableEq α] (m : List (Nat × α)) (dflt : α) : Bool :=
  match m with
  | [] => true
  | (_, v) :: [] => decide (v ≠ dflt)
  | (a, v) :: (b, w) :: t => decide (a < b) && decide (v ≠ dflt) && smWf ((b, w) :: t) dflt

/-! Check codes of the ring (R70). -/

/-- One bit into a most-significant-first CRC of width `w` with polynomial `p`. -/
def crcBit (w p : Nat) (c : Nat) (b : Bool) : Nat :=
  let t := (c.testBit (w - 1)) != b
  let c' := (c <<< 1) % 2 ^ w
  if t then c' ^^^ p else c'

/-- One byte into a most-significant-first CRC, most significant bit first. -/
def crcByte (w p : Nat) (c : Nat) (b : Byte) : Nat :=
  [7, 6, 5, 4, 3, 2, 1, 0].foldl (fun c i => crcBit w p c (b.toNat.testBit i)) c

/-- The CRC-16 of shot_check, header_check and the control blocks: polynomial 0x1021, initial value 0xFFFF, most
significant bit first, not complemented (R70). -/
def crc16 (bs : List Byte) : Nat := bs.foldl (crcByte 16 0x1021) 0xFFFF

/-- The CRC-32 of the trailer and of the tables in flash: polynomial 0x04C1_1DB7, initial value 0xFFFF_FFFF, most
significant bit first, complemented (R70). -/
def crc32 (bs : List Byte) : Nat := (bs.foldl (crcByte 32 0x04C11DB7) 0xFFFFFFFF) ^^^ 0xFFFFFFFF

end Sys2Proof.Machine
end

