-- ==== Sys2Proof/Machine/RegTable.lean ====
section
/-! DEFINITION. The local map's registers and memories, one constructor of `Reg` for every register heading and
memory window of the spec (R30, R32, R34), with the field tables of their chapters written as masks. -/

namespace Sys2Proof.Machine

/-- The clock islands of R19 (the bench island's number is the bench index of the address). -/
inductive IslandKind where
  | hopper | ring | timeCore | bench | ethernet | can | host | alwaysOn
  deriving DecidableEq, Repr

/-- Every register and memory window of the local map, under the spec's own name (R30). The windows without a field
table are CAUSE_JOURNAL (R497), GRD_WIN_CMD and GRD_WIN_RESP (R460), SWC_SEG_DESC and SWC_SEG_PAYLOAD (R419), BNCH_PDT
(R245, R246), BNCH_SHARED (R32), HOP_QSTATE (R28) and HOP_CELL (R312). -/
inductive Reg where
  | CHIP_ID | CHIP_REV | CHIP_PROTO | CHIP_HUBNUM | CHIP_UID_LO | CHIP_UID_HI | CHIP_STATUS | CHIP_FABRIC_PAGE
  | RING_CTRL | RING_STATUS | RING_ROUND_LO | RING_ROUND_HI | RING_PORT_STATUS | RING_LINK_DELAY | RING_ERRCNT
  | RING_PAD | RING_MIRROR_CNT | RING_REACH | SLOT_TABLE | RING_START_CTRL | RING_START_STATUS | RING_REFUSE_CNT
  | RING_SPARE_STATUS | RING_HUBMAP_INFO | RING_HUBMAP_UID_LO | RING_HUBMAP_UID_HI | SHOT_OWN | SHOT_FW_DRIVE
  | SHOT_LINE_CFG | SHOT_IMAGE | SHOT_EVENTS | SHOT_FAILSAFE | SETT_CTRL | SETT_STATUS | SETT_INJECT | SETT_MBOX_IN
  | SETT_MBOX_OUT | SETT_STAMP_LO | SETT_STAMP_HI | SETT_EDGE_CNT | SETT_ERR | SETT_REG | SETT_PROG | BNCH_CTRL
  | BNCH_STATUS | BNCH_GROUP_MASK_LO | BNCH_GROUP_MASK_HI | BNCH_GROUP_CMD | BNCH_SYNC_MASK_LO | BNCH_SYNC_MASK_HI
  | BNCH_QUAD_CFG | BNCH_PAD | BNCH_LUT | SETT_SIDE | BNCH_PDT_STATUS | BNCH_PORT_STAT | BNCH_PORT_CNT | DRS_STATUS
  | DRS_CLOCK_LOST | DRS_GROUP_CFG | DRS_CH_CFG | DRS_CH_GAIN | DRS_CH_OFFSET | DRS_CH_RESULT | DRS_CH_RAW
  | DRS_CH_FLAGS | DRS_CMP_CFG | DRS_CMP_LIMIT | DRS_CMP_RELEASE | DRS_CMP_STATUS | HOP_STATUS | HOP_DROP_CNT
  | HOP_SCRUB_CTRL | HOP_QSNAP_SEL | HOP_QSNAP_LO | HOP_QSNAP_HI | HOP_CLASS_CFG | HOP_EP_FREEZE | HOP_HRING_BASE_LO
  | HOP_HRING_BASE_HI | HOP_HRING_CFG | HOP_HRING_TAIL | HOP_HRING_HEAD | HOP_EP_CFG | HOP_LIMIT | HOP_HELD
  | HOP_INTAKE | BRG_CFG | BRG_STATUS | BRG_ACCESS_ERR | BRG_ACCESS_ADDR | BRG_CNT_A | BRG_CNT_B | BRG_TX_SEQ
  | BRG_RX_SEQ | BRG_POLL_CFG | BRG_POLL_ADDR | BRG_POLL_STATUS | TIME_DOM_CFG | TIME_DOM_STATUS | TIME_DOM_OFFSET
  | TIME_DOM_RATE | TIME_MEAS_Q | TIME_MEAS_LO | TIME_MEAS_HI | TIME_SNAP | TIME_SNAP_NS | TIME_SNAP_SEC
  | TIME_SNAP_EXT | TIME_SEL | TIME_UTC | TIME_RING_CFG | TIME_RING_STATUS | TIME_LINK_ASYM | TIME_PPS_CFG
  | TIME_CAP_NS | TIME_CAP_SEC | TIME_TRIG_CFG | TIME_TRIG_PERIOD | TIME_TRIG_PHASE | TIME_PTP_PORT | ETH_MAC_CFG
  | ETH_MAC_STATUS | ETH_SPOIL | ETH_CTRL_CNT | SWC_CFG | SWC_RING_CFG | SWC_PORT_CFG | SWC_PCP_MAP | SWC_LIMIT
  | SWC_HELD | SWC_DROP | SWC_RING_SPOIL | SWC_SAMPLE_CFG | SWC_HUBSET_LO | SWC_HUBSET_HI | SWC_FDB_MAC | SWC_FDB_KEY
  | SWC_FDB_ACT | SWC_GATE_CTRL | SWC_GATE_CYCLE | SWC_GATE_PHASE | SWC_GATE_ENTRY | SWC_SEG_CTRL | SWC_SEG_STATUS
  | CAN_CTRL | CAN_STATUS | CAN_NBT | CAN_DBT | CAN_RX_CFG | CAN_FILT_ID | CAN_FILT_MASK | CAN_REF_CFG | CAN_WAKE_CFG
  | CAN_WAKE_ID | CAN_WAKE_IDMASK | CAN_WAKE_DATA_LO | CAN_WAKE_DATA_HI | CAN_WAKE_DMASK_LO | CAN_WAKE_DMASK_HI
  | CAN_KA_CFG | CAN_KA_MATCH | CAN_CNT | TWIN_CFG | TWIN_HEALTH | TWIN_STATUS | TWIN_PAIR_CFG | TWIN_PAIR_STATUS
  | TWIN_MEMBER | TWIN_OVERRIDE | TWIN_GUARD | TWIN_GUARD_CNT | GRD_CFG | GRD_STATUS | GRD_CNT | GRD_FUSE_KEY
  | GRD_FUSE_CTRL | GRD_WIN_CTRL | GRD_KEY_CFG | GRD_KEY_CTR_LO | GRD_KEY_CTR_HI | GRD_RANGE | FACE_PATH_CFG
  | FACE_RESET | FACE_RESET_STATUS | FACE_RESET_CNT | FACE_VIOL | FACE_VIOL_ADDR | FACE_EP | FACE_LEAF
  | CAUSE_SUMMARY | CAUSE_SUMMARY_EN | CAUSE_FAULT_STATUS | CAUSE_FAULT_CTRL | CAUSE_JOURNAL_PTR | CAUSE_GROUP
  | CAUSE_LEAF | CAUSE_EN | CAUSE_REMOTE_PEND_LO | CAUSE_REMOTE_PEND_HI | CAUSE_REC | CAUSE_REMOTE
  | CAUSE_REMOTE_MASK | CAUSE_HOLE_ADDR | CHIP_RESET | CHIP_RESET_CAUSE | CFG_STATUS | CFG_REFUSE_ADDR
  | CFG_IMAGE_SEQ | CFG_IMAGE_INFO | CFG_BOOT | CFG_FLASH_ADDR | CFG_FLASH_CMD | CFG_FLASH_BUF | UPD_CTRL | UPD_CFG
  | UPD_STATUS | UPD_PROGRESS | UPD_CHUNK_CTRL | UPD_CHUNK | EDGE_STATUS | EDGE_CTRL | EDGE_FEED_CFG | EDGE_FEED_V
  | EDGE_HS_CFG | EDGE_FUSE_CFG | EDGE_RETRY | EDGE_THERM_CFG | EDGE_THERM_MODEL | EDGE_THERM_STATUS | EDGE_RAIL_CFG
  | EDGE_RAIL_STATUS | EDGE_HOLD_CFG | EDGE_HOLD_CFG2 | EDGE_HOLD_STATUS | EDGE_HOLD_CAP | EDGE_LW | PMT_CFG
  | PMT_STATUS | PMT_KIND | TST_BIST_CTRL | TST_BIST_STATUS | TST_MODE | TST_UNLOCK | BNCH_BANK | CAUSE_JOURNAL
  | GRD_WIN_CMD | GRD_WIN_RESP | SWC_SEG_DESC | SWC_SEG_PAYLOAD | BNCH_PDT | BNCH_SHARED | HOP_QSTATE | HOP_CELL
  deriving DecidableEq, Repr

/-- What a register heading of the spec gives (R4 to R8): the address of the first one, the index ranges with their
strides (largest stride first), the island, whether its face is "per resource" (R5), the Reset column (R7), the masks of
its RW, RWL, W1C and WO bits (R6; every other bit is RO or reserved), and the mask of the fields whose Reset entry reads
"kept (v)" (R542). -/
structure RegDesc where
  base : Nat
  dims : List (Nat × Nat) := []
  island : IslandKind := .hopper
  perResource : Bool := false
  reset : Nat := 0
  rw : Nat := 0
  rwl : Nat := 0
  w1c : Nat := 0
  wo : Nat := 0
  kept : Nat := 0
  deriving DecidableEq, Repr

/-- The register headings of the spec's chapters, each with its field table read as masks (R4, R6, R7, R542). -/
def Reg.desc : Reg → RegDesc
  | .CHIP_ID => { base := 0x00000000, reset := 0x10244a31 }
  | .CHIP_REV => { base := 0x00000004, reset := 0xb01 }
  | .CHIP_PROTO => { base := 0x00000008, reset := 0x20300 }
  | .CHIP_HUBNUM => { base := 0x0000000c }
  | .CHIP_UID_LO => { base := 0x00000010 }
  | .CHIP_UID_HI => { base := 0x00000014 }
  | .CHIP_STATUS => { base := 0x00000020 }
  | .CHIP_FABRIC_PAGE => { base := 0x00000040, reset := 0xff000000, rw := 0xff0fffff }
  | .RING_CTRL => { base := 0x00100000, island := .ring, rw := 0x80, rwl := 0xf }
  | .RING_STATUS => { base := 0x00100004, island := .ring }
  | .RING_ROUND_LO => { base := 0x00100008, island := .ring }
  | .RING_ROUND_HI => { base := 0x0010000c, island := .ring }
  | .RING_PORT_STATUS => { base := 0x00100010, dims := [(2, 4)], island := .ring }
  | .RING_LINK_DELAY => { base := 0x00100018, dims := [(2, 4)], island := .ring }
  | .RING_ERRCNT => { base := 0x00100020, dims := [(2, 4)], island := .ring, rw := 0xffffffff }
  | .RING_PAD => { base := 0x00100028, dims := [(2, 4)], island := .ring }
  | .RING_MIRROR_CNT => { base := 0x00100030, island := .ring, rw := 0xffffffff }
  | .RING_REACH => { base := 0x00100100, dims := [(64, 4)], island := .ring }
  | .SLOT_TABLE => { base := 0x00108000, dims := [(2, 0x800), (320, 4)], island := .ring, perResource := true, rwl := 0xb03f }
  | .RING_START_CTRL => { base := 0x00100040, island := .ring, rwl := 0xf1, wo := 0x100 }
  | .RING_START_STATUS => { base := 0x00100044, island := .ring }
  | .RING_REFUSE_CNT => { base := 0x00100048, island := .ring, rw := 0xffffffff }
  | .RING_SPARE_STATUS => { base := 0x0010004c, island := .ring }
  | .RING_HUBMAP_INFO => { base := 0x00100200, dims := [(64, 4)], island := .ring }
  | .RING_HUBMAP_UID_LO => { base := 0x00100300, dims := [(64, 8)], island := .ring }
  | .RING_HUBMAP_UID_HI => { base := 0x00100304, dims := [(64, 8)], island := .ring }
  | .SHOT_OWN => { base := 0x00200000, island := .ring }
  | .SHOT_FW_DRIVE => { base := 0x00200010, dims := [(8, 4)], island := .ring, perResource := true, rw := 1 }
  | .SHOT_LINE_CFG => { base := 0x00200040, dims := [(8, 4)], island := .ring, perResource := true, rwl := 0xfffffcff }
  | .SHOT_IMAGE => { base := 0x00200100, dims := [(64, 4)], island := .ring, reset := 0x10000 }
  | .SHOT_EVENTS => { base := 0x00200200, dims := [(64, 4)], island := .ring, rw := 0xffffffff }
  | .SHOT_FAILSAFE => { base := 0x00200400, dims := [(32, 4)], island := .ring, rwl := 0xffffffff }
  | .SETT_CTRL => { base := 0x01000000, dims := [(16, 0x100000), (64, 0x400)], island := .bench, perResource := true, rw := 0xfc0000, rwl := 0x3e000, wo := 7 }
  | .SETT_STATUS => { base := 0x01000004, dims := [(16, 0x100000), (64, 0x400)], island := .bench, perResource := true }
  | .SETT_INJECT => { base := 0x01000008, dims := [(16, 0x100000), (64, 0x400)], island := .bench, perResource := true, wo := 0xffffffff }
  | .SETT_MBOX_IN => { base := 0x01000010, dims := [(16, 0x100000), (64, 0x400)], island := .bench, perResource := true, wo := 0xffffffff }
  | .SETT_MBOX_OUT => { base := 0x01000014, dims := [(16, 0x100000), (64, 0x400)], island := .bench, perResource := true }
  | .SETT_STAMP_LO => { base := 0x01000018, dims := [(16, 0x100000), (64, 0x400)], island := .bench, perResource := true }
  | .SETT_STAMP_HI => { base := 0x0100001c, dims := [(16, 0x100000), (64, 0x400)], island := .bench, perResource := true }
  | .SETT_EDGE_CNT => { base := 0x01000020, dims := [(16, 0x100000), (64, 0x400)], island := .bench, perResource := true }
  | .SETT_ERR => { base := 0x01000024, dims := [(16, 0x100000), (64, 0x400)], island := .bench, perResource := true, rw := 0xffffffff }
  | .SETT_REG => { base := 0x01000030, dims := [(16, 0x100000), (64, 0x400), (4, 4)], island := .bench, perResource := true }
  | .SETT_PROG => { base := 0x01000100, dims := [(16, 0x100000), (64, 0x400), (64, 4)], island := .bench, perResource := true, rw := 0xffffffff }
  | .BNCH_CTRL => { base := 0x01010000, dims := [(16, 0x100000)], island := .bench, rw := 2, wo := 1 }
  | .BNCH_STATUS => { base := 0x01010004, dims := [(16, 0x100000)], island := .bench }
  | .BNCH_GROUP_MASK_LO => { base := 0x01010010, dims := [(16, 0x100000)], island := .bench, rw := 0xffffffff }
  | .BNCH_GROUP_MASK_HI => { base := 0x01010014, dims := [(16, 0x100000)], island := .bench, rw := 0xffffffff }
  | .BNCH_GROUP_CMD => { base := 0x01010018, dims := [(16, 0x100000)], island := .bench, wo := 7 }
  | .BNCH_SYNC_MASK_LO => { base := 0x01010020, dims := [(16, 0x100000), (4, 8)], island := .bench, rwl := 0xffffffff }
  | .BNCH_SYNC_MASK_HI => { base := 0x01010024, dims := [(16, 0x100000), (4, 8)], island := .bench, rwl := 0xffffffff }
  | .BNCH_QUAD_CFG => { base := 0x01010100, dims := [(16, 0x100000), (16, 4)], island := .bench, reset := 0x3020100, rwl := 0xe3e3e3e3 }
  | .BNCH_PAD => { base := 0x01010200, dims := [(16, 0x100000), (64, 4)], island := .bench, reset := 0x54, rwl := 0xff }
  | .BNCH_LUT => { base := 0x01011000, dims := [(16, 0x100000), (256, 4)], island := .bench, rw := 0xffffffff }
  | .SETT_SIDE => { base := 0x01000028, dims := [(16, 0x100000), (64, 0x400)], island := .bench, perResource := true, rwl := 0xff }
  | .BNCH_PDT_STATUS => { base := 0x01010040, dims := [(16, 0x100000)], island := .bench }
  | .BNCH_PORT_STAT => { base := 0x01010400, dims := [(16, 0x100000), (64, 4)], island := .bench, perResource := true }
  | .BNCH_PORT_CNT => { base := 0x01010500, dims := [(16, 0x100000), (64, 4)], island := .bench, perResource := true, rw := 0xffff }
  | .DRS_STATUS => { base := 0x01020000, dims := [(16, 0x100000)], island := .bench }
  | .DRS_CLOCK_LOST => { base := 0x01020004, dims := [(16, 0x100000)], island := .bench }
  | .DRS_GROUP_CFG => { base := 0x01020010, dims := [(16, 0x100000), (4, 4)], island := .bench, perResource := true, rwl := 0xffffe3ff }
  | .DRS_CH_CFG => { base := 0x01021000, dims := [(16, 0x100000), (32, 0x20)], island := .bench, perResource := true, reset := 0x40, rwl := 0x8003dfff, wo := 0x40000 }
  | .DRS_CH_GAIN => { base := 0x01021004, dims := [(16, 0x100000), (32, 0x20)], island := .bench, perResource := true, reset := 0x3f800000, rw := 0xffffffff }
  | .DRS_CH_OFFSET => { base := 0x01021008, dims := [(16, 0x100000), (32, 0x20)], island := .bench, perResource := true, rw := 0xffffffff }
  | .DRS_CH_RESULT => { base := 0x0102100c, dims := [(16, 0x100000), (32, 0x20)], island := .bench, perResource := true }
  | .DRS_CH_RAW => { base := 0x01021010, dims := [(16, 0x100000), (32, 0x20)], island := .bench, perResource := true }
  | .DRS_CH_FLAGS => { base := 0x01021014, dims := [(16, 0x100000), (32, 0x20)], island := .bench, perResource := true, w1c := 0x1f }
  | .DRS_CMP_CFG => { base := 0x01022000, dims := [(16, 0x100000), (64, 0x10)], island := .bench, perResource := true, reset := 0x10100, rwl := 0xdffffffe }
  | .DRS_CMP_LIMIT => { base := 0x01022004, dims := [(16, 0x100000), (64, 0x10)], island := .bench, perResource := true, reset := 0x7f7fffff, rw := 0xffffffff }
  | .DRS_CMP_RELEASE => { base := 0x01022008, dims := [(16, 0x100000), (64, 0x10)], island := .bench, perResource := true, rw := 0xffffffff }
  | .DRS_CMP_STATUS => { base := 0x0102200c, dims := [(16, 0x100000), (64, 0x10)], island := .bench, perResource := true, rw := 0xffff }
  | .HOP_STATUS => { base := 0x02000000, reset := 0x30000 }
  | .HOP_DROP_CNT => { base := 0x02000004, rw := 0xffffffff }
  | .HOP_SCRUB_CTRL => { base := 0x02000008, rw := 0xffff01 }
  | .HOP_QSNAP_SEL => { base := 0x02000010, wo := 0xfffff }
  | .HOP_QSNAP_LO => { base := 0x02000014 }
  | .HOP_QSNAP_HI => { base := 0x02000018 }
  | .HOP_CLASS_CFG => { base := 0x02000040, dims := [(16, 4)], rwl := 3 }
  | .HOP_EP_FREEZE => { base := 0x02000080, dims := [(32, 4)], rw := 0xffffffff }
  | .HOP_HRING_BASE_LO => { base := 0x02001000, dims := [(16, 0x20)], perResource := true, rw := 0xffffff80 }
  | .HOP_HRING_BASE_HI => { base := 0x02001004, dims := [(16, 0x20)], perResource := true, rw := 0xffffffff }
  | .HOP_HRING_CFG => { base := 0x02001008, dims := [(16, 0x20)], perResource := true, reset := 0x4010000, rw := 0xcfff0000 }
  | .HOP_HRING_TAIL => { base := 0x0200100c, dims := [(16, 0x20)], perResource := true, rw := 0xffff }
  | .HOP_HRING_HEAD => { base := 0x02001010, dims := [(16, 0x20)], perResource := true }
  | .HOP_EP_CFG => { base := 0x02002000, dims := [(1024, 4)], perResource := true, rwl := 0xf0ff00 }
  | .HOP_LIMIT => { base := 0x02010000, dims := [(1024, 0x40), (16, 4)], perResource := true, rwl := 0xffffffff }
  | .HOP_HELD => { base := 0x02020000, dims := [(1024, 0x40), (16, 4)], perResource := true }
  | .HOP_INTAKE => { base := 0x02040000, dims := [(64, 0x1000), (1024, 4)], perResource := true, rwl := 0x800f03ff }
  | .BRG_CFG => { base := 0x00400000, reset := 0x4000000, rwl := 0x8f0f03ff }
  | .BRG_STATUS => { base := 0x00400004 }
  | .BRG_ACCESS_ERR => { base := 0x00400010, w1c := 0x80000000 }
  | .BRG_ACCESS_ADDR => { base := 0x00400014 }
  | .BRG_CNT_A => { base := 0x00400020, rw := 0xffffffff }
  | .BRG_CNT_B => { base := 0x00400024, rw := 0xffffffff }
  | .BRG_TX_SEQ => { base := 0x00400100, dims := [(64, 4)] }
  | .BRG_RX_SEQ => { base := 0x00400200, dims := [(64, 4)] }
  | .BRG_POLL_CFG => { base := 0x00401000, dims := [(64, 8)], reset := 0x10000, rwl := 0xbfff0000 }
  | .BRG_POLL_ADDR => { base := 0x00401004, dims := [(64, 8)], rwl := 0xffffffff }
  | .BRG_POLL_STATUS => { base := 0x00401400, dims := [(64, 4)], reset := 0x80000000, rw := 0xffff }
  | .TIME_DOM_CFG => { base := 0x00300000, dims := [(2, 0x40)], island := .timeCore, rwl := 0xffff0000 }
  | .TIME_DOM_STATUS => { base := 0x00300004, dims := [(2, 0x40)], island := .timeCore, reset := 0xf80000, rw := 0xff00 }
  | .TIME_DOM_OFFSET => { base := 0x00300008, dims := [(2, 0x40)], island := .timeCore }
  | .TIME_DOM_RATE => { base := 0x0030000c, dims := [(2, 0x40)], island := .timeCore }
  | .TIME_MEAS_Q => { base := 0x00300010, dims := [(2, 0x40)], island := .timeCore, reset := 0xf80000, rw := 0x80ff0000 }
  | .TIME_MEAS_LO => { base := 0x00300018, dims := [(2, 0x40)], island := .timeCore, wo := 0xffffffff }
  | .TIME_MEAS_HI => { base := 0x0030001c, dims := [(2, 0x40)], island := .timeCore, wo := 0xffffffff }
  | .TIME_SNAP => { base := 0x00300100, island := .timeCore, wo := 0xffffffff }
  | .TIME_SNAP_NS => { base := 0x00300110, dims := [(2, 0x10)], island := .timeCore }
  | .TIME_SNAP_SEC => { base := 0x00300114, dims := [(2, 0x10)], island := .timeCore }
  | .TIME_SNAP_EXT => { base := 0x00300118, dims := [(2, 0x10)], island := .timeCore }
  | .TIME_SEL => { base := 0x00300200, island := .timeCore, rw := 0x8001ffff }
  | .TIME_UTC => { base := 0x00300204, island := .timeCore, rw := 0xe000ffff }
  | .TIME_RING_CFG => { base := 0x00300300, island := .timeCore, rwl := 0x800f03ff }
  | .TIME_RING_STATUS => { base := 0x00300304, island := .timeCore }
  | .TIME_LINK_ASYM => { base := 0x00300308, dims := [(2, 4)], island := .timeCore, rwl := 0xffff }
  | .TIME_PPS_CFG => { base := 0x00300400, island := .timeCore, reset := 0x640000, rwl := 0xf0ffffff, wo := 0x8000000 }
  | .TIME_CAP_NS => { base := 0x00300410, dims := [(2, 8)], island := .timeCore }
  | .TIME_CAP_SEC => { base := 0x00300414, dims := [(2, 8)], island := .timeCore }
  | .TIME_TRIG_CFG => { base := 0x00300500, dims := [(8, 0x10)], island := .timeCore, rw := 0xef00ffff }
  | .TIME_TRIG_PERIOD => { base := 0x00300504, dims := [(8, 0x10)], island := .timeCore, reset := 0xf4240, rw := 0x3fffffff }
  | .TIME_TRIG_PHASE => { base := 0x00300508, dims := [(8, 0x10)], island := .timeCore, rw := 0x3fffffff }
  | .TIME_PTP_PORT => { base := 0x00300600, dims := [(8, 4)], island := .timeCore, rw := 0x20ffffff, rwl := 0xc0000000 }
  | .ETH_MAC_CFG => { base := 0x00500000, dims := [(8, 0x100)], island := .ethernet, reset := 0x408085f2, rw := 0x80000000, rwl := 0x4780ffff }
  | .ETH_MAC_STATUS => { base := 0x00500004, dims := [(8, 0x100)], island := .ethernet }
  | .ETH_SPOIL => { base := 0x00500010, dims := [(8, 0x100)], island := .ethernet, rw := 0xffffffff }
  | .ETH_CTRL_CNT => { base := 0x00500014, dims := [(8, 0x100)], island := .ethernet, rw := 0xffffffff }
  | .SWC_CFG => { base := 0x00580000, island := .ethernet, reset := 0x70000, rwl := 0x7ffff }
  | .SWC_RING_CFG => { base := 0x00580004, island := .ethernet, rwl := 0xc00003ff }
  | .SWC_PORT_CFG => { base := 0x00580100, dims := [(10, 4)], island := .ethernet, reset := 0x10000, rwl := 0xfff73ff }
  | .SWC_PCP_MAP => { base := 0x00580140, dims := [(10, 4)], island := .ethernet, reset := 0xfac688, rwl := 0xffffff }
  | .SWC_LIMIT => { base := 0x00580200, dims := [(10, 0x20), (8, 4)], island := .ethernet, rwl := 0x3fff }
  | .SWC_HELD => { base := 0x00580400, dims := [(10, 0x20), (8, 4)], island := .ethernet }
  | .SWC_DROP => { base := 0x00580600, dims := [(10, 4)], island := .ethernet, rw := 0xffffffff }
  | .SWC_RING_SPOIL => { base := 0x00580640, island := .ethernet, rw := 0xffffffff }
  | .SWC_SAMPLE_CFG => { base := 0x00580680, dims := [(8, 4)], island := .ethernet, reset := 1, rw := 0xc000ffff }
  | .SWC_HUBSET_LO => { base := 0x00580700, dims := [(16, 8)], island := .ethernet, rwl := 0xffffffff }
  | .SWC_HUBSET_HI => { base := 0x00580704, dims := [(16, 8)], island := .ethernet, rwl := 0xffffffff }
  | .SWC_FDB_MAC => { base := 0x00581000, dims := [(1024, 0x10)], island := .ethernet, rwl := 0xffffffff }
  | .SWC_FDB_KEY => { base := 0x00581004, dims := [(1024, 0x10)], island := .ethernet, rwl := 0x8fffffff }
  | .SWC_FDB_ACT => { base := 0x00581008, dims := [(1024, 0x10)], island := .ethernet, rwl := 0x80f003ff }
  | .SWC_GATE_CTRL => { base := 0x00588000, dims := [(8, 0x400)], island := .ethernet, rwl := 0xc0000000, wo := 1 }
  | .SWC_GATE_CYCLE => { base := 0x00588010, dims := [(8, 0x400), (2, 8)], island := .ethernet, reset := 0xf4240, rw := 0x3fffffff }
  | .SWC_GATE_PHASE => { base := 0x00588014, dims := [(8, 0x400), (2, 8)], island := .ethernet, rw := 0x3fffffff }
  | .SWC_GATE_ENTRY => { base := 0x00588100, dims := [(8, 0x400), (2, 0x100), (64, 4)], island := .ethernet, reset := 0xff000000, rw := 0xffffffff }
  | .SWC_SEG_CTRL => { base := 0x0058a000, island := .ethernet, wo := 1 }
  | .SWC_SEG_STATUS => { base := 0x0058a004, island := .ethernet }
  | .CAN_CTRL => { base := 0x00600000, dims := [(16, 0x400)], island := .can, perResource := true, reset := 0x8000000, rw := 0x98000000, rwl := 0x60000000, wo := 0x6000000 }
  | .CAN_STATUS => { base := 0x00600004, dims := [(16, 0x400)], island := .can, perResource := true }
  | .CAN_NBT => { base := 0x00600008, dims := [(16, 0x400)], island := .can, perResource := true, reset := 0x7e1f1f, rwl := 0xffff7f7f }
  | .CAN_DBT => { base := 0x0060000c, dims := [(16, 0x400)], island := .can, perResource := true, reset := 0x1e77, rwl := 0xff1f1fff }
  | .CAN_RX_CFG => { base := 0x00600010, dims := [(16, 0x400)], island := .can, perResource := true, rwl := 0xfff803ff }
  | .CAN_FILT_ID => { base := 0x00600040, dims := [(16, 0x400), (16, 8)], island := .can, perResource := true, rwl := 0xdfffffff }
  | .CAN_FILT_MASK => { base := 0x00600044, dims := [(16, 0x400), (16, 8)], island := .can, perResource := true, rwl := 0x1fffffff }
  | .CAN_REF_CFG => { base := 0x00600100, dims := [(16, 0x400)], island := .can, perResource := true, reset := 0x3e8, rwl := 0xffffffff }
  | .CAN_WAKE_CFG => { base := 0x00600200, dims := [(16, 0x400)], island := .can, perResource := true, reset := 0x140000, rwl := 0xefff0000 }
  | .CAN_WAKE_ID => { base := 0x00600204, dims := [(16, 0x400)], island := .can, perResource := true, rwl := 0x1fffffff }
  | .CAN_WAKE_IDMASK => { base := 0x00600208, dims := [(16, 0x400)], island := .can, perResource := true, rwl := 0x1fffffff }
  | .CAN_WAKE_DATA_LO => { base := 0x00600210, dims := [(16, 0x400)], island := .can, perResource := true, rwl := 0xffffffff }
  | .CAN_WAKE_DATA_HI => { base := 0x00600214, dims := [(16, 0x400)], island := .can, perResource := true, rwl := 0xffffffff }
  | .CAN_WAKE_DMASK_LO => { base := 0x00600218, dims := [(16, 0x400)], island := .can, perResource := true, rwl := 0xffffffff }
  | .CAN_WAKE_DMASK_HI => { base := 0x0060021c, dims := [(16, 0x400)], island := .can, perResource := true, rwl := 0xffffffff }
  | .CAN_KA_CFG => { base := 0x00600300, dims := [(16, 0x400)], island := .can, perResource := true, reset := 0x64, rwl := 0x87ffffff }
  | .CAN_KA_MATCH => { base := 0x00600304, dims := [(16, 0x400)], island := .can, perResource := true, reset := 0x30000000, rwl := 0xf7ff07ff }
  | .CAN_CNT => { base := 0x00600310, dims := [(16, 0x400)], island := .can, perResource := true, rw := 0xffffffff }
  | .TWIN_CFG => { base := 0x00060000, rwl := 0x9fff03ff }
  | .TWIN_HEALTH => { base := 0x00060004, rw := 0xf }
  | .TWIN_STATUS => { base := 0x00060008, reset := 0x4000000, rw := 0xffff }
  | .TWIN_PAIR_CFG => { base := 0x00060100, dims := [(32, 0x10)], reset := 0xc8, rwl := 0xbf3f1fff }
  | .TWIN_PAIR_STATUS => { base := 0x00060104, dims := [(32, 0x10)] }
  | .TWIN_MEMBER => { base := 0x00060108, dims := [(32, 0x10), (2, 4)] }
  | .TWIN_OVERRIDE => { base := 0x00060400, dims := [(32, 4)], rw := 3 }
  | .TWIN_GUARD => { base := 0x00060800, dims := [(64, 4)], perResource := true, rwl := 0x9f0003ff }
  | .TWIN_GUARD_CNT => { base := 0x00060900, dims := [(64, 4)], perResource := true, rw := 0xffffffff }
  | .GRD_CFG => { base := 0x00050000, reset := 0x80000048, rwl := 0x800000ff }
  | .GRD_STATUS => { base := 0x00050004, rw := 0x3fc00000 }
  | .GRD_CNT => { base := 0x00050008, rw := 0xffffffff }
  | .GRD_FUSE_KEY => { base := 0x00050010, dims := [(4, 4)], wo := 0xffffffff }
  | .GRD_FUSE_CTRL => { base := 0x00050020, wo := 1 }
  | .GRD_WIN_CTRL => { base := 0x00050100, dims := [(16, 4)], perResource := true, rwl := 0xf000000, wo := 0x80000000 }
  | .GRD_KEY_CFG => { base := 0x00050200, dims := [(32, 0x10)], perResource := true, rwl := 0xf000007f }
  | .GRD_KEY_CTR_LO => { base := 0x00050204, dims := [(32, 0x10)], perResource := true }
  | .GRD_KEY_CTR_HI => { base := 0x00050208, dims := [(32, 0x10)], perResource := true }
  | .GRD_RANGE => { base := 0x00050400, dims := [(8, 4)], perResource := true, rwl := 0xffffffff }
  | .FACE_PATH_CFG => { base := 0x00070000, rwl := 0xff }
  | .FACE_RESET => { base := 0x00070010, wo := 0xffff }
  | .FACE_RESET_STATUS => { base := 0x00070014, w1c := 0xffff }
  | .FACE_RESET_CNT => { base := 0x00070018, rw := 0xffffffff }
  | .FACE_VIOL => { base := 0x00070020, w1c := 0x80000000 }
  | .FACE_VIOL_ADDR => { base := 0x00070024 }
  | .FACE_EP => { base := 0x00070100, dims := [(128, 4)], rwl := 0xffffffff }
  | .FACE_LEAF => { base := 0x00070400, dims := [(109, 4)], rwl := 0xffffffff }
  | .CAUSE_SUMMARY => { base := 0x00010000 }
  | .CAUSE_SUMMARY_EN => { base := 0x00010004, rw := 0xffffffff }
  | .CAUSE_FAULT_STATUS => { base := 0x00010008, reset := 0x100 }
  | .CAUSE_FAULT_CTRL => { base := 0x0001000c, wo := 0xc0000000 }
  | .CAUSE_JOURNAL_PTR => { base := 0x00010010 }
  | .CAUSE_GROUP => { base := 0x00010040, dims := [(30, 4)], perResource := true }
  | .CAUSE_LEAF => { base := 0x00010100, dims := [(28, 4)], perResource := true, w1c := 0xffffffff }
  | .CAUSE_EN => { base := 0x00010180, dims := [(28, 4)], perResource := true, rw := 0xffffffff }
  | .CAUSE_REMOTE_PEND_LO => { base := 0x00010200 }
  | .CAUSE_REMOTE_PEND_HI => { base := 0x00010204 }
  | .CAUSE_REC => { base := 0x00011000, dims := [(872, 4)], perResource := true }
  | .CAUSE_REMOTE => { base := 0x00012000, dims := [(64, 4)] }
  | .CAUSE_REMOTE_MASK => { base := 0x00012100, dims := [(64, 4)], rw := 0xffffffff }
  | .CAUSE_HOLE_ADDR => { base := 0x00012200, dims := [(20, 4)], perResource := true }
  | .CHIP_RESET => { base := 0x00000030, wo := 1 }
  | .CHIP_RESET_CAUSE => { base := 0x00000034 }
  | .CFG_STATUS => { base := 0x00020000 }
  | .CFG_REFUSE_ADDR => { base := 0x00020004 }
  | .CFG_IMAGE_SEQ => { base := 0x00020008 }
  | .CFG_IMAGE_INFO => { base := 0x0002000c }
  | .CFG_BOOT => { base := 0x00020010, wo := 0x80000000 }
  | .CFG_FLASH_ADDR => { base := 0x00020100, rw := 0x7ffffff }
  | .CFG_FLASH_CMD => { base := 0x00020104, wo := 3 }
  | .CFG_FLASH_BUF => { base := 0x00020400, dims := [(64, 4)], rw := 0xffffffff }
  | .UPD_CTRL => { base := 0x00030000, wo := 0xf }
  | .UPD_CFG => { base := 0x00030004, reset := 0x64003c, rwl := 0xcfffffff }
  | .UPD_STATUS => { base := 0x00030008, w1c := 0x1000000 }
  | .UPD_PROGRESS => { base := 0x0003000c }
  | .UPD_CHUNK_CTRL => { base := 0x00030010, rw := 0x1fffffff }
  | .UPD_CHUNK => { base := 0x00031000, dims := [(1024, 4)], rw := 0xffffffff }
  | .EDGE_STATUS => { base := 0x00040000, island := .alwaysOn, kept := 0xff018000 }
  | .EDGE_CTRL => { base := 0x00040004, island := .alwaysOn }
  | .EDGE_FEED_CFG => { base := 0x00040010, island := .alwaysOn, reset := 0x5458021c, rwl := 0xffff03ff, kept := 0xffff03ff }
  | .EDGE_FEED_V => { base := 0x00040014, island := .alwaysOn }
  | .EDGE_HS_CFG => { base := 0x00040020, island := .alwaysOn, reset := 0x190323c0, rwl := 0xfffffff8, kept := 0xfffffff8 }
  | .EDGE_FUSE_CFG => { base := 0x00040024, island := .alwaysOn, reset := 0x5006400, rwl := 0xffffff00, kept := 0xffffff00 }
  | .EDGE_RETRY => { base := 0x00040028, island := .alwaysOn, reset := 0x140000, rwl := 0x3ff0000, kept := 0x83ff03ff }
  | .EDGE_THERM_CFG => { base := 0x00040030, island := .alwaysOn, reset := 0x96645546, rwl := 0xffffffff, kept := 0xffffffff }
  | .EDGE_THERM_MODEL => { base := 0x00040034, island := .alwaysOn, reset := 0x32145014, rwl := 0xffffffff, kept := 0xffffffff }
  | .EDGE_THERM_STATUS => { base := 0x00040038, island := .alwaysOn, reset := 0x15401540, kept := 0xffffffff }
  | .EDGE_RAIL_CFG => { base := 0x00040040, island := .alwaysOn, reset := 0x14050000, rwl := 0xffff0700, kept := 0xffff0700 }
  | .EDGE_RAIL_STATUS => { base := 0x00040044, island := .alwaysOn, kept := 0x70000 }
  | .EDGE_HOLD_CFG => { base := 0x00040050, island := .alwaysOn, reset := 0x645050, rwl := 0xffffffff, kept := 0xffffffff }
  | .EDGE_HOLD_CFG2 => { base := 0x00040054, island := .alwaysOn, reset := 0x660a0a, rwl := 0xffffffff, kept := 0xffffffff }
  | .EDGE_HOLD_STATUS => { base := 0x00040058, island := .alwaysOn, kept := 0x30000000 }
  | .EDGE_HOLD_CAP => { base := 0x0004005c, island := .alwaysOn, kept := 0xffff0000 }
  | .EDGE_LW => { base := 0x00040400, dims := [(64, 4)], island := .alwaysOn, w1c := 0x80000000 }
  | .PMT_CFG => { base := 0x00048000, island := .alwaysOn, reset := 0x640010, rwl := 0xff003f, kept := 0xff003f }
  | .PMT_STATUS => { base := 0x00048004, island := .alwaysOn, rw := 0xff }
  | .PMT_KIND => { base := 0x00048010, dims := [(7, 4)], island := .alwaysOn }
  | .TST_BIST_CTRL => { base := 0x00080000, rw := 0xf, wo := 0x80000000 }
  | .TST_BIST_STATUS => { base := 0x00080004 }
  | .TST_MODE => { base := 0x00080010 }
  | .TST_UNLOCK => { base := 0x00080014, wo := 0xffffffff }
  | .BNCH_BANK => { base := 0x01010048, dims := [(16, 0x100000)], island := .bench, reset := 0x300, rwl := 3 }
  | .CAUSE_JOURNAL => { base := 0x0001c000, dims := [(1024, 0x10), (4, 4)] }
  | .GRD_WIN_CMD => { base := 0x00051000, dims := [(16, 0x100), (32, 4)], perResource := true, rw := 0xffffffff }
  | .GRD_WIN_RESP => { base := 0x00051080, dims := [(16, 0x100), (32, 4)], perResource := true }
  | .SWC_SEG_DESC => { base := 0x0058a100, dims := [(64, 4)], island := .ethernet, rw := 0xffffffff }
  | .SWC_SEG_PAYLOAD => { base := 0x00590000, dims := [(16384, 4)], island := .ethernet, rw := 0xffffffff }
  | .BNCH_PDT => { base := 0x01040000, dims := [(16, 0x100000), (4160, 4)], island := .bench, rw := 0xffffffff }
  | .BNCH_SHARED => { base := 0x01080000, dims := [(16, 0x100000), (131072, 4)], island := .bench, rw := 0xffffffff }
  | .HOP_QSTATE => { base := 0x20000000, dims := [(1048576, 8), (2, 4)], perResource := true }
  | .HOP_CELL => { base := 0x21000000, dims := [(196608, 0x80), (32, 4)], perResource := true }

/-- The registers of one 64 KiB or 1 MiB block of R30, by the block's number `address / 0x1_0000` (a bench's blocks by
the offset within the bench, R32). -/
def Reg.inBlock (benchBlock : Bool) (blk : Nat) : List Reg :=
  if benchBlock then
    match blk with
    | 0 => [.SETT_CTRL, .SETT_STATUS, .SETT_INJECT, .SETT_MBOX_IN, .SETT_MBOX_OUT, .SETT_STAMP_LO, .SETT_STAMP_HI,
        .SETT_EDGE_CNT, .SETT_ERR, .SETT_REG, .SETT_PROG, .SETT_SIDE]
    | 1 => [.BNCH_CTRL, .BNCH_STATUS, .BNCH_GROUP_MASK_LO, .BNCH_GROUP_MASK_HI, .BNCH_GROUP_CMD, .BNCH_SYNC_MASK_LO,
        .BNCH_SYNC_MASK_HI, .BNCH_QUAD_CFG, .BNCH_PAD, .BNCH_LUT, .BNCH_PDT_STATUS, .BNCH_PORT_STAT,
        .BNCH_PORT_CNT, .BNCH_BANK]
    | 2 => [.DRS_STATUS, .DRS_CLOCK_LOST, .DRS_GROUP_CFG, .DRS_CH_CFG, .DRS_CH_GAIN, .DRS_CH_OFFSET, .DRS_CH_RESULT,
        .DRS_CH_RAW, .DRS_CH_FLAGS, .DRS_CMP_CFG, .DRS_CMP_LIMIT, .DRS_CMP_RELEASE, .DRS_CMP_STATUS]
    | 4 => [.BNCH_PDT]
    | 8 => [.BNCH_SHARED]
    | 9 => [.BNCH_SHARED]
    | 10 => [.BNCH_SHARED]
    | 11 => [.BNCH_SHARED]
    | 12 => [.BNCH_SHARED]
    | 13 => [.BNCH_SHARED]
    | 14 => [.BNCH_SHARED]
    | 15 => [.BNCH_SHARED]
    | _ => []
  else
    match blk with
    | 0x0 => [.CHIP_ID, .CHIP_REV, .CHIP_PROTO, .CHIP_HUBNUM, .CHIP_UID_LO, .CHIP_UID_HI, .CHIP_STATUS,
        .CHIP_FABRIC_PAGE, .CHIP_RESET, .CHIP_RESET_CAUSE]
    | 0x1 => [.CAUSE_SUMMARY, .CAUSE_SUMMARY_EN, .CAUSE_FAULT_STATUS, .CAUSE_FAULT_CTRL, .CAUSE_JOURNAL_PTR,
        .CAUSE_GROUP, .CAUSE_LEAF, .CAUSE_EN, .CAUSE_REMOTE_PEND_LO, .CAUSE_REMOTE_PEND_HI, .CAUSE_REC,
        .CAUSE_REMOTE, .CAUSE_REMOTE_MASK, .CAUSE_HOLE_ADDR, .CAUSE_JOURNAL]
    | 0x2 => [.CFG_STATUS, .CFG_REFUSE_ADDR, .CFG_IMAGE_SEQ, .CFG_IMAGE_INFO, .CFG_BOOT, .CFG_FLASH_ADDR, .CFG_FLASH_CMD,
        .CFG_FLASH_BUF]
    | 0x3 => [.UPD_CTRL, .UPD_CFG, .UPD_STATUS, .UPD_PROGRESS, .UPD_CHUNK_CTRL, .UPD_CHUNK]
    | 0x4 => [.EDGE_STATUS, .EDGE_CTRL, .EDGE_FEED_CFG, .EDGE_FEED_V, .EDGE_HS_CFG, .EDGE_FUSE_CFG, .EDGE_RETRY,
        .EDGE_THERM_CFG, .EDGE_THERM_MODEL, .EDGE_THERM_STATUS, .EDGE_RAIL_CFG, .EDGE_RAIL_STATUS,
        .EDGE_HOLD_CFG, .EDGE_HOLD_CFG2, .EDGE_HOLD_STATUS, .EDGE_HOLD_CAP, .EDGE_LW, .PMT_CFG,
        .PMT_STATUS, .PMT_KIND]
    | 0x5 => [.GRD_CFG, .GRD_STATUS, .GRD_CNT, .GRD_FUSE_KEY, .GRD_FUSE_CTRL, .GRD_WIN_CTRL, .GRD_KEY_CFG,
        .GRD_KEY_CTR_LO, .GRD_KEY_CTR_HI, .GRD_RANGE, .GRD_WIN_CMD, .GRD_WIN_RESP]
    | 0x6 => [.TWIN_CFG, .TWIN_HEALTH, .TWIN_STATUS, .TWIN_PAIR_CFG, .TWIN_PAIR_STATUS, .TWIN_MEMBER, .TWIN_OVERRIDE,
        .TWIN_GUARD, .TWIN_GUARD_CNT]
    | 0x7 => [.FACE_PATH_CFG, .FACE_RESET, .FACE_RESET_STATUS, .FACE_RESET_CNT, .FACE_VIOL, .FACE_VIOL_ADDR, .FACE_EP,
        .FACE_LEAF]
    | 0x8 => [.TST_BIST_CTRL, .TST_BIST_STATUS, .TST_MODE, .TST_UNLOCK]
    | 0x10 => [.RING_CTRL, .RING_STATUS, .RING_ROUND_LO, .RING_ROUND_HI, .RING_PORT_STATUS, .RING_LINK_DELAY,
        .RING_ERRCNT, .RING_PAD, .RING_MIRROR_CNT, .RING_REACH, .SLOT_TABLE, .RING_START_CTRL,
        .RING_START_STATUS, .RING_REFUSE_CNT, .RING_SPARE_STATUS, .RING_HUBMAP_INFO, .RING_HUBMAP_UID_LO,
        .RING_HUBMAP_UID_HI]
    | 0x20 => [.SHOT_OWN, .SHOT_FW_DRIVE, .SHOT_LINE_CFG, .SHOT_IMAGE, .SHOT_EVENTS, .SHOT_FAILSAFE]
    | 0x30 => [.TIME_DOM_CFG, .TIME_DOM_STATUS, .TIME_DOM_OFFSET, .TIME_DOM_RATE, .TIME_MEAS_Q, .TIME_MEAS_LO,
        .TIME_MEAS_HI, .TIME_SNAP, .TIME_SNAP_NS, .TIME_SNAP_SEC, .TIME_SNAP_EXT, .TIME_SEL, .TIME_UTC,
        .TIME_RING_CFG, .TIME_RING_STATUS, .TIME_LINK_ASYM, .TIME_PPS_CFG, .TIME_CAP_NS, .TIME_CAP_SEC,
        .TIME_TRIG_CFG, .TIME_TRIG_PERIOD, .TIME_TRIG_PHASE, .TIME_PTP_PORT]
    | 0x40 => [.BRG_CFG, .BRG_STATUS, .BRG_ACCESS_ERR, .BRG_ACCESS_ADDR, .BRG_CNT_A, .BRG_CNT_B, .BRG_TX_SEQ, .BRG_RX_SEQ,
        .BRG_POLL_CFG, .BRG_POLL_ADDR, .BRG_POLL_STATUS]
    | 0x50 => [.ETH_MAC_CFG, .ETH_MAC_STATUS, .ETH_SPOIL, .ETH_CTRL_CNT]
    | 0x58 => [.SWC_CFG, .SWC_RING_CFG, .SWC_PORT_CFG, .SWC_PCP_MAP, .SWC_LIMIT, .SWC_HELD, .SWC_DROP, .SWC_RING_SPOIL,
        .SWC_SAMPLE_CFG, .SWC_HUBSET_LO, .SWC_HUBSET_HI, .SWC_FDB_MAC, .SWC_FDB_KEY, .SWC_FDB_ACT,
        .SWC_GATE_CTRL, .SWC_GATE_CYCLE, .SWC_GATE_PHASE, .SWC_GATE_ENTRY, .SWC_SEG_CTRL, .SWC_SEG_STATUS,
        .SWC_SEG_DESC]
    | 0x59 => [.SWC_SEG_PAYLOAD]
    | 0x60 => [.CAN_CTRL, .CAN_STATUS, .CAN_NBT, .CAN_DBT, .CAN_RX_CFG, .CAN_FILT_ID, .CAN_FILT_MASK, .CAN_REF_CFG,
        .CAN_WAKE_CFG, .CAN_WAKE_ID, .CAN_WAKE_IDMASK, .CAN_WAKE_DATA_LO, .CAN_WAKE_DATA_HI,
        .CAN_WAKE_DMASK_LO, .CAN_WAKE_DMASK_HI, .CAN_KA_CFG, .CAN_KA_MATCH, .CAN_CNT]
    | 0x200 => [.HOP_STATUS, .HOP_DROP_CNT, .HOP_SCRUB_CTRL, .HOP_QSNAP_SEL, .HOP_QSNAP_LO, .HOP_QSNAP_HI, .HOP_CLASS_CFG,
        .HOP_EP_FREEZE, .HOP_HRING_BASE_LO, .HOP_HRING_BASE_HI, .HOP_HRING_CFG, .HOP_HRING_TAIL,
        .HOP_HRING_HEAD, .HOP_EP_CFG]
    | 0x201 => [.HOP_LIMIT]
    | 0x202 => [.HOP_HELD]
    | 0x204 => [.HOP_INTAKE]
    | 0x205 => [.HOP_INTAKE]
    | 0x206 => [.HOP_INTAKE]
    | 0x207 => [.HOP_INTAKE]
    | _ => if 0x2000 ≤ blk ∧ blk < 0x2080 then [.HOP_QSTATE] else if 0x2100 ≤ blk ∧ blk < 0x2280 then [.HOP_CELL] else []

/-- A named field of a register: bits [hi:lo] of it, as its field table gives them. -/
structure Fld where
  reg : Reg
  hi : Nat
  lo : Nat
  deriving DecidableEq, Repr

end Sys2Proof.Machine

/-! The fields of the registers, each under its register's name and its own (`F.<REGISTER>_<field>`). -/
namespace Sys2Proof.Machine.F
open Sys2Proof.Machine
def CHIP_ID_part_code : Fld := ⟨.CHIP_ID, 31, 16⟩
def CHIP_ID_vendor_code : Fld := ⟨.CHIP_ID, 15, 4⟩
def CHIP_ID_id_format : Fld := ⟨.CHIP_ID, 3, 0⟩
def CHIP_REV_stepping_letter : Fld := ⟨.CHIP_REV, 15, 8⟩
def CHIP_REV_stepping_number : Fld := ⟨.CHIP_REV, 7, 0⟩
def CHIP_PROTO_kolec_major : Fld := ⟨.CHIP_PROTO, 23, 16⟩
def CHIP_PROTO_kolec_minor_max : Fld := ⟨.CHIP_PROTO, 15, 8⟩
def CHIP_PROTO_kolec_minor_min : Fld := ⟨.CHIP_PROTO, 7, 0⟩
def CHIP_HUBNUM_hub_number : Fld := ⟨.CHIP_HUBNUM, 5, 0⟩
def CHIP_UID_LO_uid_low : Fld := ⟨.CHIP_UID_LO, 31, 0⟩
def CHIP_UID_HI_uid_high : Fld := ⟨.CHIP_UID_HI, 31, 0⟩
def CHIP_STATUS_ring_integrated : Fld := ⟨.CHIP_STATUS, 1, 1⟩
def CHIP_STATUS_cfg_locked : Fld := ⟨.CHIP_STATUS, 0, 0⟩
def CHIP_FABRIC_PAGE_hub : Fld := ⟨.CHIP_FABRIC_PAGE, 31, 24⟩
def CHIP_FABRIC_PAGE_page : Fld := ⟨.CHIP_FABRIC_PAGE, 19, 0⟩
def RING_CTRL_transit_only : Fld := ⟨.RING_CTRL, 7, 7⟩
def RING_CTRL_west_enable : Fld := ⟨.RING_CTRL, 3, 3⟩
def RING_CTRL_east_enable : Fld := ⟨.RING_CTRL, 2, 2⟩
def RING_CTRL_round_len : Fld := ⟨.RING_CTRL, 1, 0⟩
def RING_STATUS_master_hub : Fld := ⟨.RING_STATUS, 31, 26⟩
def RING_STATUS_mode : Fld := ⟨.RING_STATUS, 25, 24⟩
def RING_STATUS_transit_active : Fld := ⟨.RING_STATUS, 23, 23⟩
def RING_STATUS_eg_head : Fld := ⟨.RING_STATUS, 22, 22⟩
def RING_STATUS_wg_head : Fld := ⟨.RING_STATUS, 21, 21⟩
def RING_STATUS_closure_pending : Fld := ⟨.RING_STATUS, 20, 20⟩
def RING_STATUS_closure_refused : Fld := ⟨.RING_STATUS, 19, 19⟩
def RING_STATUS_west_up : Fld := ⟨.RING_STATUS, 17, 17⟩
def RING_STATUS_east_up : Fld := ⟨.RING_STATUS, 16, 16⟩
def RING_ROUND_LO_round_low : Fld := ⟨.RING_ROUND_LO, 31, 0⟩
def RING_ROUND_HI_round_high : Fld := ⟨.RING_ROUND_HI, 31, 0⟩
def RING_PORT_STATUS_state : Fld := ⟨.RING_PORT_STATUS, 31, 28⟩
def RING_PORT_STATUS_lane_swap : Fld := ⟨.RING_PORT_STATUS, 27, 27⟩
def RING_PORT_STATUS_pol_inv : Fld := ⟨.RING_PORT_STATUS, 26, 25⟩
def RING_PORT_STATUS_skew : Fld := ⟨.RING_PORT_STATUS, 24, 15⟩
def RING_PORT_STATUS_retrain_count : Fld := ⟨.RING_PORT_STATUS, 14, 8⟩
def RING_PORT_STATUS_peer_valid : Fld := ⟨.RING_PORT_STATUS, 6, 6⟩
def RING_PORT_STATUS_peer_hub : Fld := ⟨.RING_PORT_STATUS, 5, 0⟩
def RING_LINK_DELAY_link_delay : Fld := ⟨.RING_LINK_DELAY, 23, 0⟩
def RING_ERRCNT_hdr_bad : Fld := ⟨.RING_ERRCNT, 31, 24⟩
def RING_ERRCNT_crc_bad : Fld := ⟨.RING_ERRCNT, 23, 16⟩
def RING_ERRCNT_shot_bad : Fld := ⟨.RING_ERRCNT, 15, 8⟩
def RING_ERRCNT_cut : Fld := ⟨.RING_ERRCNT, 7, 0⟩
def RING_PAD_padding : Fld := ⟨.RING_PAD, 31, 31⟩
def RING_PAD_pad : Fld := ⟨.RING_PAD, 23, 0⟩
def RING_MIRROR_CNT_late : Fld := ⟨.RING_MIRROR_CNT, 31, 16⟩
def RING_MIRROR_CNT_duplicate : Fld := ⟨.RING_MIRROR_CNT, 15, 0⟩
def RING_REACH_eg_reach : Fld := ⟨.RING_REACH, 15, 15⟩
def RING_REACH_wg_reach : Fld := ⟨.RING_REACH, 14, 14⟩
def RING_REACH_eg_hops : Fld := ⟨.RING_REACH, 13, 8⟩
def RING_REACH_wg_hops : Fld := ⟨.RING_REACH, 5, 0⟩
def SLOT_TABLE_granted : Fld := ⟨.SLOT_TABLE, 16, 16⟩
def SLOT_TABLE_spare : Fld := ⟨.SLOT_TABLE, 15, 15⟩
def SLOT_TABLE_mode : Fld := ⟨.SLOT_TABLE, 13, 12⟩
def SLOT_TABLE_owner : Fld := ⟨.SLOT_TABLE, 5, 0⟩
def RING_START_CTRL_handoff : Fld := ⟨.RING_START_CTRL, 8, 8⟩
def RING_START_CTRL_rank : Fld := ⟨.RING_START_CTRL, 7, 4⟩
def RING_START_CTRL_cold_start : Fld := ⟨.RING_START_CTRL, 0, 0⟩
def RING_START_STATUS_phase : Fld := ⟨.RING_START_STATUS, 31, 28⟩
def RING_START_STATUS_ring_minor : Fld := ⟨.RING_START_STATUS, 27, 24⟩
def RING_START_STATUS_backup_pos : Fld := ⟨.RING_START_STATUS, 23, 19⟩
def RING_START_STATUS_is_master : Fld := ⟨.RING_START_STATUS, 18, 18⟩
def RING_START_STATUS_no_master : Fld := ⟨.RING_START_STATUS, 17, 17⟩
def RING_START_STATUS_hubmap_complete : Fld := ⟨.RING_START_STATUS, 16, 16⟩
def RING_START_STATUS_best_candidate : Fld := ⟨.RING_START_STATUS, 5, 0⟩
def RING_REFUSE_CNT_version : Fld := ⟨.RING_REFUSE_CNT, 31, 24⟩
def RING_REFUSE_CNT_round_len : Fld := ⟨.RING_REFUSE_CNT, 23, 16⟩
def RING_REFUSE_CNT_sched_gen : Fld := ⟨.RING_REFUSE_CNT, 15, 8⟩
def RING_REFUSE_CNT_duplicate : Fld := ⟨.RING_REFUSE_CNT, 7, 0⟩
def RING_SPARE_STATUS_state : Fld := ⟨.RING_SPARE_STATUS, 31, 30⟩
def RING_SPARE_STATUS_dir : Fld := ⟨.RING_SPARE_STATUS, 29, 29⟩
def RING_SPARE_STATUS_slot : Fld := ⟨.RING_SPARE_STATUS, 28, 20⟩
def RING_SPARE_STATUS_attempts : Fld := ⟨.RING_SPARE_STATUS, 19, 16⟩
def RING_HUBMAP_INFO_present : Fld := ⟨.RING_HUBMAP_INFO, 31, 31⟩
def RING_HUBMAP_INFO_healthy : Fld := ⟨.RING_HUBMAP_INFO, 30, 30⟩
def RING_HUBMAP_INFO_transit : Fld := ⟨.RING_HUBMAP_INFO, 29, 29⟩
def RING_HUBMAP_INFO_cold_start : Fld := ⟨.RING_HUBMAP_INFO, 28, 28⟩
def RING_HUBMAP_INFO_rank : Fld := ⟨.RING_HUBMAP_INFO, 27, 24⟩
def RING_HUBMAP_INFO_minor_min : Fld := ⟨.RING_HUBMAP_INFO, 23, 20⟩
def RING_HUBMAP_INFO_minor_max : Fld := ⟨.RING_HUBMAP_INFO, 19, 16⟩
def RING_HUBMAP_INFO_fw_major : Fld := ⟨.RING_HUBMAP_INFO, 15, 8⟩
def RING_HUBMAP_INFO_fw_minor : Fld := ⟨.RING_HUBMAP_INFO, 7, 0⟩
def RING_HUBMAP_UID_LO_uid_low : Fld := ⟨.RING_HUBMAP_UID_LO, 31, 0⟩
def RING_HUBMAP_UID_HI_uid_high : Fld := ⟨.RING_HUBMAP_UID_HI, 31, 0⟩
def SHOT_OWN_drive : Fld := ⟨.SHOT_OWN, 23, 16⟩
def SHOT_OWN_last_entry : Fld := ⟨.SHOT_OWN, 15, 0⟩
def SHOT_FW_DRIVE_assert : Fld := ⟨.SHOT_FW_DRIVE, 0, 0⟩
def SHOT_LINE_CFG_face : Fld := ⟨.SHOT_LINE_CFG, 31, 28⟩
def SHOT_LINE_CFG_bench_mask : Fld := ⟨.SHOT_LINE_CFG, 27, 12⟩
def SHOT_LINE_CFG_fw_enable : Fld := ⟨.SHOT_LINE_CFG, 11, 11⟩
def SHOT_LINE_CFG_dresser_enable : Fld := ⟨.SHOT_LINE_CFG, 10, 10⟩
def SHOT_LINE_CFG_stretch : Fld := ⟨.SHOT_LINE_CFG, 7, 0⟩
def SHOT_IMAGE_effective : Fld := ⟨.SHOT_IMAGE, 31, 24⟩
def SHOT_IMAGE_src_wg : Fld := ⟨.SHOT_IMAGE, 17, 17⟩
def SHOT_IMAGE_stale : Fld := ⟨.SHOT_IMAGE, 16, 16⟩
def SHOT_IMAGE_entry : Fld := ⟨.SHOT_IMAGE, 15, 0⟩
def SHOT_EVENTS_stale_events : Fld := ⟨.SHOT_EVENTS, 31, 16⟩
def SHOT_EVENTS_refused : Fld := ⟨.SHOT_EVENTS, 15, 0⟩
def SHOT_FAILSAFE_policy : Fld := ⟨.SHOT_FAILSAFE, 31, 0⟩
def SETT_CTRL_start_pc : Fld := ⟨.SETT_CTRL, 23, 18⟩
def SETT_CTRL_stamp_edge : Fld := ⟨.SETT_CTRL, 17, 16⟩
def SETT_CTRL_cnt_edge : Fld := ⟨.SETT_CTRL, 15, 14⟩
def SETT_CTRL_ext_mbox : Fld := ⟨.SETT_CTRL, 13, 13⟩
def SETT_CTRL_reset : Fld := ⟨.SETT_CTRL, 2, 2⟩
def SETT_CTRL_stop : Fld := ⟨.SETT_CTRL, 1, 1⟩
def SETT_CTRL_start : Fld := ⟨.SETT_CTRL, 0, 0⟩
def SETT_STATUS_state : Fld := ⟨.SETT_STATUS, 31, 29⟩
def SETT_STATUS_stop_cause : Fld := ⟨.SETT_STATUS, 28, 25⟩
def SETT_STATUS_inject_pending : Fld := ⟨.SETT_STATUS, 24, 24⟩
def SETT_STATUS_in_fill : Fld := ⟨.SETT_STATUS, 23, 21⟩
def SETT_STATUS_out_fill : Fld := ⟨.SETT_STATUS, 20, 18⟩
def SETT_STATUS_edges_pending : Fld := ⟨.SETT_STATUS, 17, 16⟩
def SETT_STATUS_flags : Fld := ⟨.SETT_STATUS, 15, 8⟩
def SETT_STATUS_pc : Fld := ⟨.SETT_STATUS, 5, 0⟩
def SETT_INJECT_instruction : Fld := ⟨.SETT_INJECT, 31, 0⟩
def SETT_MBOX_IN_word : Fld := ⟨.SETT_MBOX_IN, 31, 0⟩
def SETT_MBOX_OUT_word : Fld := ⟨.SETT_MBOX_OUT, 31, 0⟩
def SETT_STAMP_LO_quarter : Fld := ⟨.SETT_STAMP_LO, 31, 30⟩
def SETT_STAMP_LO_ns : Fld := ⟨.SETT_STAMP_LO, 29, 0⟩
def SETT_STAMP_HI_valid : Fld := ⟨.SETT_STAMP_HI, 31, 31⟩
def SETT_STAMP_HI_traceable : Fld := ⟨.SETT_STAMP_HI, 30, 30⟩
def SETT_STAMP_HI_domain : Fld := ⟨.SETT_STAMP_HI, 29, 29⟩
def SETT_STAMP_HI_missed : Fld := ⟨.SETT_STAMP_HI, 28, 28⟩
def SETT_STAMP_HI_sec_low : Fld := ⟨.SETT_STAMP_HI, 15, 0⟩
def SETT_EDGE_CNT_count : Fld := ⟨.SETT_EDGE_CNT, 31, 0⟩
def SETT_ERR_overrun : Fld := ⟨.SETT_ERR, 31, 24⟩
def SETT_ERR_late_edges : Fld := ⟨.SETT_ERR, 23, 16⟩
def SETT_ERR_inject_refused : Fld := ⟨.SETT_ERR, 15, 8⟩
def SETT_ERR_stamp_missed : Fld := ⟨.SETT_ERR, 7, 0⟩
def SETT_REG_value : Fld := ⟨.SETT_REG, 31, 0⟩
def SETT_PROG_word : Fld := ⟨.SETT_PROG, 31, 0⟩
def BNCH_CTRL_out_of_service : Fld := ⟨.BNCH_CTRL, 1, 1⟩
def BNCH_CTRL_reset : Fld := ⟨.BNCH_CTRL, 0, 0⟩
def BNCH_STATUS_time_valid : Fld := ⟨.BNCH_STATUS, 27, 27⟩
def BNCH_STATUS_fw_running : Fld := ⟨.BNCH_STATUS, 26, 26⟩
def BNCH_STATUS_out_of_service : Fld := ⟨.BNCH_STATUS, 25, 25⟩
def BNCH_STATUS_queues_frozen : Fld := ⟨.BNCH_STATUS, 24, 24⟩
def BNCH_STATUS_fw_fault_code : Fld := ⟨.BNCH_STATUS, 23, 16⟩
def BNCH_STATUS_contention : Fld := ⟨.BNCH_STATUS, 15, 0⟩
def BNCH_GROUP_MASK_LO_select : Fld := ⟨.BNCH_GROUP_MASK_LO, 31, 0⟩
def BNCH_GROUP_MASK_HI_select : Fld := ⟨.BNCH_GROUP_MASK_HI, 31, 0⟩
def BNCH_GROUP_CMD_at_round : Fld := ⟨.BNCH_GROUP_CMD, 2, 2⟩
def BNCH_GROUP_CMD_op : Fld := ⟨.BNCH_GROUP_CMD, 1, 0⟩
def BNCH_SYNC_MASK_LO_member : Fld := ⟨.BNCH_SYNC_MASK_LO, 31, 0⟩
def BNCH_SYNC_MASK_HI_member : Fld := ⟨.BNCH_SYNC_MASK_HI, 31, 0⟩
def BNCH_QUAD_CFG_drive0 : Fld := ⟨.BNCH_QUAD_CFG, 7, 7⟩
def BNCH_QUAD_CFG_safe0 : Fld := ⟨.BNCH_QUAD_CFG, 6, 5⟩
def BNCH_QUAD_CFG_owner0 : Fld := ⟨.BNCH_QUAD_CFG, 1, 0⟩
def BNCH_QUAD_CFG_drive1 : Fld := ⟨.BNCH_QUAD_CFG, 15, 15⟩
def BNCH_QUAD_CFG_safe1 : Fld := ⟨.BNCH_QUAD_CFG, 14, 13⟩
def BNCH_QUAD_CFG_owner1 : Fld := ⟨.BNCH_QUAD_CFG, 9, 8⟩
def BNCH_QUAD_CFG_drive2 : Fld := ⟨.BNCH_QUAD_CFG, 23, 23⟩
def BNCH_QUAD_CFG_safe2 : Fld := ⟨.BNCH_QUAD_CFG, 22, 21⟩
def BNCH_QUAD_CFG_owner2 : Fld := ⟨.BNCH_QUAD_CFG, 17, 16⟩
def BNCH_QUAD_CFG_drive3 : Fld := ⟨.BNCH_QUAD_CFG, 31, 31⟩
def BNCH_QUAD_CFG_safe3 : Fld := ⟨.BNCH_QUAD_CFG, 30, 29⟩
def BNCH_QUAD_CFG_owner3 : Fld := ⟨.BNCH_QUAD_CFG, 25, 24⟩
def BNCH_PAD_pull : Fld := ⟨.BNCH_PAD, 7, 6⟩
def BNCH_PAD_drive : Fld := ⟨.BNCH_PAD, 5, 4⟩
def BNCH_PAD_slew_fast : Fld := ⟨.BNCH_PAD, 3, 3⟩
def BNCH_PAD_schmitt : Fld := ⟨.BNCH_PAD, 2, 2⟩
def BNCH_PAD_invert : Fld := ⟨.BNCH_PAD, 1, 1⟩
def BNCH_PAD_open_drain : Fld := ⟨.BNCH_PAD, 0, 0⟩
def BNCH_LUT_value : Fld := ⟨.BNCH_LUT, 31, 0⟩
def SETT_SIDE_action : Fld := ⟨.SETT_SIDE, 7, 0⟩
def BNCH_PDT_STATUS_version : Fld := ⟨.BNCH_PDT_STATUS, 15, 8⟩
def BNCH_PDT_STATUS_running : Fld := ⟨.BNCH_PDT_STATUS, 7, 7⟩
def BNCH_PDT_STATUS_count : Fld := ⟨.BNCH_PDT_STATUS, 6, 0⟩
def BNCH_PORT_STAT_state : Fld := ⟨.BNCH_PORT_STAT, 31, 28⟩
def BNCH_PORT_STAT_code : Fld := ⟨.BNCH_PORT_STAT, 23, 16⟩
def BNCH_PORT_STAT_endpoint : Fld := ⟨.BNCH_PORT_STAT, 9, 0⟩
def BNCH_PORT_CNT_records : Fld := ⟨.BNCH_PORT_CNT, 31, 16⟩
def BNCH_PORT_CNT_truncated : Fld := ⟨.BNCH_PORT_CNT, 15, 8⟩
def BNCH_PORT_CNT_refused : Fld := ⟨.BNCH_PORT_CNT, 7, 0⟩
def DRS_STATUS_burst_active : Fld := ⟨.DRS_STATUS, 7, 4⟩
def DRS_STATUS_permit_wait : Fld := ⟨.DRS_STATUS, 3, 0⟩
def DRS_CLOCK_LOST_lost : Fld := ⟨.DRS_CLOCK_LOST, 31, 0⟩
def DRS_GROUP_CFG_enable : Fld := ⟨.DRS_GROUP_CFG, 31, 31⟩
def DRS_GROUP_CFG_record_every : Fld := ⟨.DRS_GROUP_CFG, 30, 23⟩
def DRS_GROUP_CFG_class : Fld := ⟨.DRS_GROUP_CFG, 22, 19⟩
def DRS_GROUP_CFG_dest : Fld := ⟨.DRS_GROUP_CFG, 18, 13⟩
def DRS_GROUP_CFG_endpoint : Fld := ⟨.DRS_GROUP_CFG, 9, 0⟩
def DRS_CH_CFG_enable : Fld := ⟨.DRS_CH_CFG, 31, 31⟩
def DRS_CH_CFG_apply : Fld := ⟨.DRS_CH_CFG, 18, 18⟩
def DRS_CH_CFG_invert : Fld := ⟨.DRS_CH_CFG, 17, 17⟩
def DRS_CH_CFG_member : Fld := ⟨.DRS_CH_CFG, 16, 16⟩
def DRS_CH_CFG_group : Fld := ⟨.DRS_CH_CFG, 15, 14⟩
def DRS_CH_CFG_ratio : Fld := ⟨.DRS_CH_CFG, 12, 0⟩
def DRS_CH_GAIN_gain : Fld := ⟨.DRS_CH_GAIN, 31, 0⟩
def DRS_CH_OFFSET_offset : Fld := ⟨.DRS_CH_OFFSET, 31, 0⟩
def DRS_CH_RESULT_y : Fld := ⟨.DRS_CH_RESULT, 31, 0⟩
def DRS_CH_RAW_x : Fld := ⟨.DRS_CH_RAW, 31, 0⟩
def DRS_CH_FLAGS_apply_pending : Fld := ⟨.DRS_CH_FLAGS, 8, 8⟩
def DRS_CH_FLAGS_sat : Fld := ⟨.DRS_CH_FLAGS, 4, 4⟩
def DRS_CH_FLAGS_nv : Fld := ⟨.DRS_CH_FLAGS, 3, 3⟩
def DRS_CH_FLAGS_of : Fld := ⟨.DRS_CH_FLAGS, 2, 2⟩
def DRS_CH_FLAGS_uf : Fld := ⟨.DRS_CH_FLAGS, 1, 1⟩
def DRS_CH_FLAGS_nx : Fld := ⟨.DRS_CH_FLAGS, 0, 0⟩
def DRS_CMP_CFG_enable : Fld := ⟨.DRS_CMP_CFG, 31, 31⟩
def DRS_CMP_CFG_mode : Fld := ⟨.DRS_CMP_CFG, 30, 30⟩
def DRS_CMP_CFG_channel : Fld := ⟨.DRS_CMP_CFG, 28, 24⟩
def DRS_CMP_CFG_count_k : Fld := ⟨.DRS_CMP_CFG, 23, 16⟩
def DRS_CMP_CFG_release_k : Fld := ⟨.DRS_CMP_CFG, 15, 8⟩
def DRS_CMP_CFG_policy : Fld := ⟨.DRS_CMP_CFG, 7, 6⟩
def DRS_CMP_CFG_shot_en : Fld := ⟨.DRS_CMP_CFG, 5, 5⟩
def DRS_CMP_CFG_line : Fld := ⟨.DRS_CMP_CFG, 4, 2⟩
def DRS_CMP_CFG_event_en : Fld := ⟨.DRS_CMP_CFG, 1, 1⟩
def DRS_CMP_LIMIT_limit : Fld := ⟨.DRS_CMP_LIMIT, 31, 0⟩
def DRS_CMP_RELEASE_release : Fld := ⟨.DRS_CMP_RELEASE, 31, 0⟩
def DRS_CMP_STATUS_active : Fld := ⟨.DRS_CMP_STATUS, 31, 31⟩
def DRS_CMP_STATUS_forced : Fld := ⟨.DRS_CMP_STATUS, 30, 30⟩
def DRS_CMP_STATUS_run : Fld := ⟨.DRS_CMP_STATUS, 23, 16⟩
def DRS_CMP_STATUS_trips : Fld := ⟨.DRS_CMP_STATUS, 15, 0⟩
def HOP_STATUS_broken : Fld := ⟨.HOP_STATUS, 31, 31⟩
def HOP_STATUS_reserve_exhausted : Fld := ⟨.HOP_STATUS, 30, 30⟩
def HOP_STATUS_retired : Fld := ⟨.HOP_STATUS, 29, 18⟩
def HOP_STATUS_free : Fld := ⟨.HOP_STATUS, 17, 0⟩
def HOP_DROP_CNT_intake_full : Fld := ⟨.HOP_DROP_CNT, 31, 24⟩
def HOP_DROP_CNT_unrouted : Fld := ⟨.HOP_DROP_CNT, 23, 16⟩
def HOP_DROP_CNT_unreachable : Fld := ⟨.HOP_DROP_CNT, 15, 8⟩
def HOP_DROP_CNT_lost : Fld := ⟨.HOP_DROP_CNT, 7, 0⟩
def HOP_SCRUB_CTRL_corrected : Fld := ⟨.HOP_SCRUB_CTRL, 23, 8⟩
def HOP_SCRUB_CTRL_burst_active : Fld := ⟨.HOP_SCRUB_CTRL, 1, 1⟩
def HOP_SCRUB_CTRL_burst : Fld := ⟨.HOP_SCRUB_CTRL, 0, 0⟩
def HOP_QSNAP_SEL_queue : Fld := ⟨.HOP_QSNAP_SEL, 19, 0⟩
def HOP_QSNAP_LO_state_low : Fld := ⟨.HOP_QSNAP_LO, 31, 0⟩
def HOP_QSNAP_HI_state_high : Fld := ⟨.HOP_QSNAP_HI, 31, 0⟩
def HOP_CLASS_CFG_path : Fld := ⟨.HOP_CLASS_CFG, 1, 0⟩
def HOP_EP_FREEZE_frozen : Fld := ⟨.HOP_EP_FREEZE, 31, 0⟩
def HOP_HRING_BASE_LO_base : Fld := ⟨.HOP_HRING_BASE_LO, 31, 7⟩
def HOP_HRING_BASE_HI_base : Fld := ⟨.HOP_HRING_BASE_HI, 31, 0⟩
def HOP_HRING_CFG_enable : Fld := ⟨.HOP_HRING_CFG, 31, 31⟩
def HOP_HRING_CFG_dir : Fld := ⟨.HOP_HRING_CFG, 30, 30⟩
def HOP_HRING_CFG_size_log2 : Fld := ⟨.HOP_HRING_CFG, 27, 24⟩
def HOP_HRING_CFG_irq_every : Fld := ⟨.HOP_HRING_CFG, 23, 16⟩
def HOP_HRING_TAIL_tail : Fld := ⟨.HOP_HRING_TAIL, 15, 0⟩
def HOP_HRING_HEAD_stopped : Fld := ⟨.HOP_HRING_HEAD, 31, 31⟩
def HOP_HRING_HEAD_last_result : Fld := ⟨.HOP_HRING_HEAD, 30, 28⟩
def HOP_HRING_HEAD_head : Fld := ⟨.HOP_HRING_HEAD, 15, 0⟩
def HOP_EP_CFG_kind : Fld := ⟨.HOP_EP_CFG, 23, 20⟩
def HOP_EP_CFG_unit : Fld := ⟨.HOP_EP_CFG, 15, 8⟩
def HOP_LIMIT_in_limit : Fld := ⟨.HOP_LIMIT, 31, 16⟩
def HOP_LIMIT_out_limit : Fld := ⟨.HOP_LIMIT, 15, 0⟩
def HOP_HELD_in_held : Fld := ⟨.HOP_HELD, 31, 16⟩
def HOP_HELD_out_held : Fld := ⟨.HOP_HELD, 15, 0⟩
def HOP_INTAKE_valid : Fld := ⟨.HOP_INTAKE, 31, 31⟩
def HOP_INTAKE_class : Fld := ⟨.HOP_INTAKE, 19, 16⟩
def HOP_INTAKE_endpoint : Fld := ⟨.HOP_INTAKE, 9, 0⟩
def BRG_CFG_enable : Fld := ⟨.BRG_CFG, 31, 31⟩
def BRG_CFG_read_timeout : Fld := ⟨.BRG_CFG, 27, 24⟩
def BRG_CFG_class : Fld := ⟨.BRG_CFG, 19, 16⟩
def BRG_CFG_endpoint : Fld := ⟨.BRG_CFG, 9, 0⟩
def BRG_STATUS_general_tags : Fld := ⟨.BRG_STATUS, 31, 24⟩
def BRG_STATUS_guarded_tags : Fld := ⟨.BRG_STATUS, 20, 16⟩
def BRG_STATUS_posted_fill : Fld := ⟨.BRG_STATUS, 6, 0⟩
def BRG_ACCESS_ERR_valid : Fld := ⟨.BRG_ACCESS_ERR, 31, 31⟩
def BRG_ACCESS_ERR_reason : Fld := ⟨.BRG_ACCESS_ERR, 27, 24⟩
def BRG_ACCESS_ERR_merge : Fld := ⟨.BRG_ACCESS_ERR, 23, 20⟩
def BRG_ACCESS_ERR_src_hub : Fld := ⟨.BRG_ACCESS_ERR, 19, 14⟩
def BRG_ACCESS_ERR_remote : Fld := ⟨.BRG_ACCESS_ERR, 13, 13⟩
def BRG_ACCESS_ERR_face : Fld := ⟨.BRG_ACCESS_ERR, 12, 9⟩
def BRG_ACCESS_ADDR_address : Fld := ⟨.BRG_ACCESS_ADDR, 31, 0⟩
def BRG_CNT_A_timeouts : Fld := ⟨.BRG_CNT_A, 31, 16⟩
def BRG_CNT_A_late : Fld := ⟨.BRG_CNT_A, 15, 0⟩
def BRG_CNT_B_lost_cells : Fld := ⟨.BRG_CNT_B, 31, 16⟩
def BRG_CNT_B_stale : Fld := ⟨.BRG_CNT_B, 15, 8⟩
def BRG_CNT_B_malformed : Fld := ⟨.BRG_CNT_B, 7, 4⟩
def BRG_CNT_B_resp_dropped : Fld := ⟨.BRG_CNT_B, 3, 0⟩
def BRG_TX_SEQ_next : Fld := ⟨.BRG_TX_SEQ, 15, 0⟩
def BRG_RX_SEQ_held : Fld := ⟨.BRG_RX_SEQ, 16, 16⟩
def BRG_RX_SEQ_expected : Fld := ⟨.BRG_RX_SEQ, 15, 0⟩
def BRG_POLL_CFG_enable : Fld := ⟨.BRG_POLL_CFG, 31, 31⟩
def BRG_POLL_CFG_hub : Fld := ⟨.BRG_POLL_CFG, 29, 24⟩
def BRG_POLL_CFG_period : Fld := ⟨.BRG_POLL_CFG, 23, 16⟩
def BRG_POLL_ADDR_address : Fld := ⟨.BRG_POLL_ADDR, 31, 0⟩
def BRG_POLL_STATUS_stale : Fld := ⟨.BRG_POLL_STATUS, 31, 31⟩
def BRG_POLL_STATUS_pending : Fld := ⟨.BRG_POLL_STATUS, 30, 30⟩
def BRG_POLL_STATUS_failures : Fld := ⟨.BRG_POLL_STATUS, 15, 0⟩
def TIME_DOM_CFG_src1 : Fld := ⟨.TIME_DOM_CFG, 31, 28⟩
def TIME_DOM_CFG_src2 : Fld := ⟨.TIME_DOM_CFG, 27, 24⟩
def TIME_DOM_CFG_hold_trace : Fld := ⟨.TIME_DOM_CFG, 23, 16⟩
def TIME_DOM_STATUS_state : Fld := ⟨.TIME_DOM_STATUS, 31, 30⟩
def TIME_DOM_STATUS_traceable : Fld := ⟨.TIME_DOM_STATUS, 29, 29⟩
def TIME_DOM_STATUS_on_src2 : Fld := ⟨.TIME_DOM_STATUS, 28, 28⟩
def TIME_DOM_STATUS_ring : Fld := ⟨.TIME_DOM_STATUS, 27, 27⟩
def TIME_DOM_STATUS_step_pending : Fld := ⟨.TIME_DOM_STATUS, 26, 26⟩
def TIME_DOM_STATUS_clock_class : Fld := ⟨.TIME_DOM_STATUS, 23, 16⟩
def TIME_DOM_STATUS_steps : Fld := ⟨.TIME_DOM_STATUS, 15, 8⟩
def TIME_DOM_OFFSET_theta : Fld := ⟨.TIME_DOM_OFFSET, 31, 0⟩
def TIME_DOM_RATE_rate : Fld := ⟨.TIME_DOM_RATE, 31, 0⟩
def TIME_MEAS_Q_traceable : Fld := ⟨.TIME_MEAS_Q, 31, 31⟩
def TIME_MEAS_Q_clock_class : Fld := ⟨.TIME_MEAS_Q, 23, 16⟩
def TIME_MEAS_LO_theta : Fld := ⟨.TIME_MEAS_LO, 31, 0⟩
def TIME_MEAS_HI_theta : Fld := ⟨.TIME_MEAS_HI, 31, 0⟩
def TIME_SNAP_take : Fld := ⟨.TIME_SNAP, 31, 0⟩
def TIME_SNAP_NS_ns : Fld := ⟨.TIME_SNAP_NS, 29, 0⟩
def TIME_SNAP_SEC_sec_low : Fld := ⟨.TIME_SNAP_SEC, 31, 0⟩
def TIME_SNAP_EXT_fraction : Fld := ⟨.TIME_SNAP_EXT, 31, 16⟩
def TIME_SNAP_EXT_sec_high : Fld := ⟨.TIME_SNAP_EXT, 15, 0⟩
def TIME_SEL_auto : Fld := ⟨.TIME_SEL, 31, 31⟩
def TIME_SEL_can : Fld := ⟨.TIME_SEL, 16, 16⟩
def TIME_SEL_bench : Fld := ⟨.TIME_SEL, 15, 0⟩
def TIME_UTC_valid : Fld := ⟨.TIME_UTC, 31, 31⟩
def TIME_UTC_leap61 : Fld := ⟨.TIME_UTC, 30, 30⟩
def TIME_UTC_leap59 : Fld := ⟨.TIME_UTC, 29, 29⟩
def TIME_UTC_offset : Fld := ⟨.TIME_UTC, 15, 0⟩
def TIME_RING_CFG_refresh : Fld := ⟨.TIME_RING_CFG, 31, 31⟩
def TIME_RING_CFG_class : Fld := ⟨.TIME_RING_CFG, 19, 16⟩
def TIME_RING_CFG_endpoint : Fld := ⟨.TIME_RING_CFG, 9, 0⟩
def TIME_RING_STATUS_src_wg : Fld := ⟨.TIME_RING_STATUS, 31, 31⟩
def TIME_RING_STATUS_ref_valid : Fld := ⟨.TIME_RING_STATUS, 30, 30⟩
def TIME_RING_STATUS_disagree : Fld := ⟨.TIME_RING_STATUS, 29, 29⟩
def TIME_RING_STATUS_diff : Fld := ⟨.TIME_RING_STATUS, 23, 0⟩
def TIME_LINK_ASYM_asym : Fld := ⟨.TIME_LINK_ASYM, 15, 0⟩
def TIME_PPS_CFG_out_enable : Fld := ⟨.TIME_PPS_CFG, 31, 31⟩
def TIME_PPS_CFG_out_domain : Fld := ⟨.TIME_PPS_CFG, 30, 30⟩
def TIME_PPS_CFG_cap_src : Fld := ⟨.TIME_PPS_CFG, 29, 28⟩
def TIME_PPS_CFG_cap_now : Fld := ⟨.TIME_PPS_CFG, 27, 27⟩
def TIME_PPS_CFG_cap_missed : Fld := ⟨.TIME_PPS_CFG, 26, 26⟩
def TIME_PPS_CFG_width_ms : Fld := ⟨.TIME_PPS_CFG, 23, 16⟩
def TIME_PPS_CFG_out_offset : Fld := ⟨.TIME_PPS_CFG, 15, 0⟩
def TIME_CAP_NS_quarter : Fld := ⟨.TIME_CAP_NS, 31, 30⟩
def TIME_CAP_NS_ns : Fld := ⟨.TIME_CAP_NS, 29, 0⟩
def TIME_CAP_SEC_sec_low : Fld := ⟨.TIME_CAP_SEC, 31, 0⟩
def TIME_TRIG_CFG_enable : Fld := ⟨.TIME_TRIG_CFG, 31, 31⟩
def TIME_TRIG_CFG_domain : Fld := ⟨.TIME_TRIG_CFG, 30, 30⟩
def TIME_TRIG_CFG_irq : Fld := ⟨.TIME_TRIG_CFG, 29, 29⟩
def TIME_TRIG_CFG_line : Fld := ⟨.TIME_TRIG_CFG, 27, 24⟩
def TIME_TRIG_CFG_bench_mask : Fld := ⟨.TIME_TRIG_CFG, 15, 0⟩
def TIME_TRIG_PERIOD_ns : Fld := ⟨.TIME_TRIG_PERIOD, 29, 0⟩
def TIME_TRIG_PHASE_ns : Fld := ⟨.TIME_TRIG_PHASE, 29, 0⟩
def TIME_PTP_PORT_enable : Fld := ⟨.TIME_PTP_PORT, 31, 31⟩
def TIME_PTP_PORT_tc : Fld := ⟨.TIME_PTP_PORT, 30, 30⟩
def TIME_PTP_PORT_domain : Fld := ⟨.TIME_PTP_PORT, 29, 29⟩
def TIME_PTP_PORT_link_delay : Fld := ⟨.TIME_PTP_PORT, 23, 0⟩
def ETH_MAC_CFG_enable : Fld := ⟨.ETH_MAC_CFG, 31, 31⟩
def ETH_MAC_CFG_guard_exempt : Fld := ⟨.ETH_MAC_CFG, 30, 30⟩
def ETH_MAC_CFG_iface : Fld := ⟨.ETH_MAC_CFG, 26, 24⟩
def ETH_MAC_CFG_autoneg : Fld := ⟨.ETH_MAC_CFG, 23, 23⟩
def ETH_MAC_CFG_speed : Fld := ⟨.ETH_MAC_CFG, 15, 14⟩
def ETH_MAC_CFG_max_frame : Fld := ⟨.ETH_MAC_CFG, 13, 0⟩
def ETH_MAC_STATUS_link_up : Fld := ⟨.ETH_MAC_STATUS, 31, 31⟩
def ETH_MAC_STATUS_paused : Fld := ⟨.ETH_MAC_STATUS, 30, 30⟩
def ETH_MAC_STATUS_rate : Fld := ⟨.ETH_MAC_STATUS, 29, 28⟩
def ETH_MAC_STATUS_pause_left : Fld := ⟨.ETH_MAC_STATUS, 15, 0⟩
def ETH_SPOIL_fcs : Fld := ⟨.ETH_SPOIL, 31, 24⟩
def ETH_SPOIL_runt : Fld := ⟨.ETH_SPOIL, 23, 16⟩
def ETH_SPOIL_oversize : Fld := ⟨.ETH_SPOIL, 15, 8⟩
def ETH_SPOIL_cut : Fld := ⟨.ETH_SPOIL, 7, 0⟩
def ETH_CTRL_CNT_pause : Fld := ⟨.ETH_CTRL_CNT, 31, 16⟩
def ETH_CTRL_CNT_discarded : Fld := ⟨.ETH_CTRL_CNT, 15, 0⟩
def SWC_CFG_ptp_class : Fld := ⟨.SWC_CFG, 18, 16⟩
def SWC_CFG_mgmt_ethertype : Fld := ⟨.SWC_CFG, 15, 0⟩
def SWC_RING_CFG_enable : Fld := ⟨.SWC_RING_CFG, 31, 31⟩
def SWC_RING_CFG_class_base : Fld := ⟨.SWC_RING_CFG, 30, 30⟩
def SWC_RING_CFG_endpoint : Fld := ⟨.SWC_RING_CFG, 9, 0⟩
def SWC_PORT_CFG_pvid : Fld := ⟨.SWC_PORT_CFG, 27, 16⟩
def SWC_PORT_CFG_default_class : Fld := ⟨.SWC_PORT_CFG, 14, 12⟩
def SWC_PORT_CFG_flood_mask : Fld := ⟨.SWC_PORT_CFG, 9, 0⟩
def SWC_PCP_MAP_class : Fld := ⟨.SWC_PCP_MAP, 23, 0⟩
def SWC_LIMIT_pages : Fld := ⟨.SWC_LIMIT, 13, 0⟩
def SWC_HELD_pages : Fld := ⟨.SWC_HELD, 13, 0⟩
def SWC_DROP_full : Fld := ⟨.SWC_DROP, 31, 16⟩
def SWC_DROP_link : Fld := ⟨.SWC_DROP, 15, 8⟩
def SWC_DROP_gate : Fld := ⟨.SWC_DROP, 7, 0⟩
def SWC_RING_SPOIL_partial : Fld := ⟨.SWC_RING_SPOIL, 31, 16⟩
def SWC_RING_SPOIL_timeout : Fld := ⟨.SWC_RING_SPOIL, 15, 8⟩
def SWC_RING_SPOIL_malformed : Fld := ⟨.SWC_RING_SPOIL, 7, 0⟩
def SWC_SAMPLE_CFG_enable : Fld := ⟨.SWC_SAMPLE_CFG, 31, 31⟩
def SWC_SAMPLE_CFG_trunc : Fld := ⟨.SWC_SAMPLE_CFG, 30, 30⟩
def SWC_SAMPLE_CFG_n : Fld := ⟨.SWC_SAMPLE_CFG, 15, 0⟩
def SWC_HUBSET_LO_hubs : Fld := ⟨.SWC_HUBSET_LO, 31, 0⟩
def SWC_HUBSET_HI_hubs : Fld := ⟨.SWC_HUBSET_HI, 31, 0⟩
def SWC_FDB_MAC_mac_low : Fld := ⟨.SWC_FDB_MAC, 31, 0⟩
def SWC_FDB_KEY_valid : Fld := ⟨.SWC_FDB_KEY, 31, 31⟩
def SWC_FDB_KEY_vid : Fld := ⟨.SWC_FDB_KEY, 27, 16⟩
def SWC_FDB_KEY_mac_high : Fld := ⟨.SWC_FDB_KEY, 15, 0⟩
def SWC_FDB_ACT_ring : Fld := ⟨.SWC_FDB_ACT, 31, 31⟩
def SWC_FDB_ACT_hubset : Fld := ⟨.SWC_FDB_ACT, 23, 20⟩
def SWC_FDB_ACT_port_mask : Fld := ⟨.SWC_FDB_ACT, 9, 0⟩
def SWC_GATE_CTRL_enable : Fld := ⟨.SWC_GATE_CTRL, 31, 31⟩
def SWC_GATE_CTRL_domain : Fld := ⟨.SWC_GATE_CTRL, 30, 30⟩
def SWC_GATE_CTRL_active_bank : Fld := ⟨.SWC_GATE_CTRL, 29, 29⟩
def SWC_GATE_CTRL_swap_pending : Fld := ⟨.SWC_GATE_CTRL, 28, 28⟩
def SWC_GATE_CTRL_swap : Fld := ⟨.SWC_GATE_CTRL, 0, 0⟩
def SWC_GATE_CYCLE_ns : Fld := ⟨.SWC_GATE_CYCLE, 29, 0⟩
def SWC_GATE_PHASE_ns : Fld := ⟨.SWC_GATE_PHASE, 29, 0⟩
def SWC_GATE_ENTRY_gates : Fld := ⟨.SWC_GATE_ENTRY, 31, 24⟩
def SWC_GATE_ENTRY_interval : Fld := ⟨.SWC_GATE_ENTRY, 23, 0⟩
def SWC_SEG_CTRL_go : Fld := ⟨.SWC_SEG_CTRL, 0, 0⟩
def SWC_SEG_STATUS_busy : Fld := ⟨.SWC_SEG_STATUS, 31, 31⟩
def SWC_SEG_STATUS_bad_job : Fld := ⟨.SWC_SEG_STATUS, 30, 30⟩
def SWC_SEG_STATUS_dropped : Fld := ⟨.SWC_SEG_STATUS, 29, 16⟩
def SWC_SEG_STATUS_sent : Fld := ⟨.SWC_SEG_STATUS, 10, 0⟩
def CAN_CTRL_enable : Fld := ⟨.CAN_CTRL, 31, 31⟩
def CAN_CTRL_fd_enable : Fld := ⟨.CAN_CTRL, 30, 30⟩
def CAN_CTRL_fc_class : Fld := ⟨.CAN_CTRL, 29, 29⟩
def CAN_CTRL_listen_only : Fld := ⟨.CAN_CTRL, 28, 28⟩
def CAN_CTRL_want_awake : Fld := ⟨.CAN_CTRL, 27, 27⟩
def CAN_CTRL_sleep_now : Fld := ⟨.CAN_CTRL, 26, 26⟩
def CAN_CTRL_recover : Fld := ⟨.CAN_CTRL, 25, 25⟩
def CAN_STATUS_state : Fld := ⟨.CAN_STATUS, 31, 29⟩
def CAN_STATUS_wake_cause : Fld := ⟨.CAN_STATUS, 28, 26⟩
def CAN_STATUS_ref_master : Fld := ⟨.CAN_STATUS, 25, 25⟩
def CAN_STATUS_tec : Fld := ⟨.CAN_STATUS, 23, 16⟩
def CAN_STATUS_rec : Fld := ⟨.CAN_STATUS, 15, 8⟩
def CAN_STATUS_tx_fill : Fld := ⟨.CAN_STATUS, 7, 4⟩
def CAN_NBT_brp : Fld := ⟨.CAN_NBT, 31, 24⟩
def CAN_NBT_tseg1 : Fld := ⟨.CAN_NBT, 23, 16⟩
def CAN_NBT_tseg2 : Fld := ⟨.CAN_NBT, 14, 8⟩
def CAN_NBT_sjw : Fld := ⟨.CAN_NBT, 6, 0⟩
def CAN_DBT_tdc : Fld := ⟨.CAN_DBT, 31, 31⟩
def CAN_DBT_tdc_offset : Fld := ⟨.CAN_DBT, 30, 24⟩
def CAN_DBT_brp : Fld := ⟨.CAN_DBT, 20, 16⟩
def CAN_DBT_tseg1 : Fld := ⟨.CAN_DBT, 12, 8⟩
def CAN_DBT_tseg2 : Fld := ⟨.CAN_DBT, 7, 4⟩
def CAN_DBT_sjw : Fld := ⟨.CAN_DBT, 3, 0⟩
def CAN_RX_CFG_tx_report : Fld := ⟨.CAN_RX_CFG, 31, 31⟩
def CAN_RX_CFG_state_report : Fld := ⟨.CAN_RX_CFG, 30, 30⟩
def CAN_RX_CFG_wake_frame : Fld := ⟨.CAN_RX_CFG, 29, 29⟩
def CAN_RX_CFG_class : Fld := ⟨.CAN_RX_CFG, 28, 25⟩
def CAN_RX_CFG_dest : Fld := ⟨.CAN_RX_CFG, 24, 19⟩
def CAN_RX_CFG_endpoint : Fld := ⟨.CAN_RX_CFG, 9, 0⟩
def CAN_FILT_ID_valid : Fld := ⟨.CAN_FILT_ID, 31, 31⟩
def CAN_FILT_ID_ide : Fld := ⟨.CAN_FILT_ID, 30, 30⟩
def CAN_FILT_ID_id : Fld := ⟨.CAN_FILT_ID, 28, 0⟩
def CAN_FILT_MASK_mask : Fld := ⟨.CAN_FILT_MASK, 28, 0⟩
def CAN_REF_CFG_enable : Fld := ⟨.CAN_REF_CFG, 31, 31⟩
def CAN_REF_CFG_rank : Fld := ⟨.CAN_REF_CFG, 30, 27⟩
def CAN_REF_CFG_base_id : Fld := ⟨.CAN_REF_CFG, 26, 16⟩
def CAN_REF_CFG_period_ms : Fld := ⟨.CAN_REF_CFG, 15, 0⟩
def CAN_WAKE_CFG_fallback : Fld := ⟨.CAN_WAKE_CFG, 31, 31⟩
def CAN_WAKE_CFG_ide : Fld := ⟨.CAN_WAKE_CFG, 30, 30⟩
def CAN_WAKE_CFG_data_check : Fld := ⟨.CAN_WAKE_CFG, 29, 29⟩
def CAN_WAKE_CFG_dlc : Fld := ⟨.CAN_WAKE_CFG, 27, 24⟩
def CAN_WAKE_CFG_dom_filter : Fld := ⟨.CAN_WAKE_CFG, 23, 16⟩
def CAN_WAKE_CFG_error_count : Fld := ⟨.CAN_WAKE_CFG, 5, 0⟩
def CAN_WAKE_ID_id : Fld := ⟨.CAN_WAKE_ID, 28, 0⟩
def CAN_WAKE_IDMASK_mask : Fld := ⟨.CAN_WAKE_IDMASK, 28, 0⟩
def CAN_WAKE_DATA_LO_bytes : Fld := ⟨.CAN_WAKE_DATA_LO, 31, 0⟩
def CAN_WAKE_DATA_HI_bytes : Fld := ⟨.CAN_WAKE_DATA_HI, 31, 0⟩
def CAN_WAKE_DMASK_LO_bytes : Fld := ⟨.CAN_WAKE_DMASK_LO, 31, 0⟩
def CAN_WAKE_DMASK_HI_bytes : Fld := ⟨.CAN_WAKE_DMASK_HI, 31, 0⟩
def CAN_KA_CFG_agree : Fld := ⟨.CAN_KA_CFG, 31, 31⟩
def CAN_KA_CFG_own_id : Fld := ⟨.CAN_KA_CFG, 26, 16⟩
def CAN_KA_CFG_period_ms : Fld := ⟨.CAN_KA_CFG, 15, 0⟩
def CAN_KA_MATCH_timeout_periods : Fld := ⟨.CAN_KA_MATCH, 31, 28⟩
def CAN_KA_MATCH_id : Fld := ⟨.CAN_KA_MATCH, 26, 16⟩
def CAN_KA_MATCH_mask : Fld := ⟨.CAN_KA_MATCH, 10, 0⟩
def CAN_CNT_refused : Fld := ⟨.CAN_CNT, 31, 24⟩
def CAN_CNT_filtered : Fld := ⟨.CAN_CNT, 23, 16⟩
def CAN_CNT_bus_off : Fld := ⟨.CAN_CNT, 15, 8⟩
def CAN_CNT_wakes : Fld := ⟨.CAN_CNT, 7, 0⟩
def TWIN_CFG_enable : Fld := ⟨.TWIN_CFG, 31, 31⟩
def TWIN_CFG_hb_slot : Fld := ⟨.TWIN_CFG, 28, 20⟩
def TWIN_CFG_class : Fld := ⟨.TWIN_CFG, 19, 16⟩
def TWIN_CFG_endpoint : Fld := ⟨.TWIN_CFG, 9, 0⟩
def TWIN_HEALTH_health : Fld := ⟨.TWIN_HEALTH, 3, 0⟩
def TWIN_STATUS_presented : Fld := ⟨.TWIN_STATUS, 31, 28⟩
def TWIN_STATUS_forced : Fld := ⟨.TWIN_STATUS, 27, 26⟩
def TWIN_STATUS_conflicts : Fld := ⟨.TWIN_STATUS, 15, 8⟩
def TWIN_STATUS_malformed : Fld := ⟨.TWIN_STATUS, 7, 0⟩
def TWIN_PAIR_CFG_member : Fld := ⟨.TWIN_PAIR_CFG, 31, 31⟩
def TWIN_PAIR_CFG_peer : Fld := ⟨.TWIN_PAIR_CFG, 29, 24⟩
def TWIN_PAIR_CFG_base : Fld := ⟨.TWIN_PAIR_CFG, 21, 16⟩
def TWIN_PAIR_CFG_holdoff : Fld := ⟨.TWIN_PAIR_CFG, 12, 0⟩
def TWIN_PAIR_STATUS_role : Fld := ⟨.TWIN_PAIR_STATUS, 31, 30⟩
def TWIN_PAIR_STATUS_holdoff : Fld := ⟨.TWIN_PAIR_STATUS, 29, 29⟩
def TWIN_PAIR_STATUS_holder_valid : Fld := ⟨.TWIN_PAIR_STATUS, 28, 28⟩
def TWIN_PAIR_STATUS_eg_missing : Fld := ⟨.TWIN_PAIR_STATUS, 27, 27⟩
def TWIN_PAIR_STATUS_wg_missing : Fld := ⟨.TWIN_PAIR_STATUS, 26, 26⟩
def TWIN_PAIR_STATUS_peer_lost : Fld := ⟨.TWIN_PAIR_STATUS, 25, 25⟩
def TWIN_PAIR_STATUS_holder : Fld := ⟨.TWIN_PAIR_STATUS, 15, 0⟩
def TWIN_MEMBER_valid : Fld := ⟨.TWIN_MEMBER, 31, 31⟩
def TWIN_MEMBER_age : Fld := ⟨.TWIN_MEMBER, 30, 24⟩
def TWIN_MEMBER_claim : Fld := ⟨.TWIN_MEMBER, 15, 0⟩
def TWIN_OVERRIDE_mode : Fld := ⟨.TWIN_OVERRIDE, 1, 0⟩
def TWIN_GUARD_valid : Fld := ⟨.TWIN_GUARD, 31, 31⟩
def TWIN_GUARD_pair : Fld := ⟨.TWIN_GUARD, 28, 24⟩
def TWIN_GUARD_endpoint : Fld := ⟨.TWIN_GUARD, 9, 0⟩
def TWIN_GUARD_CNT_lower : Fld := ⟨.TWIN_GUARD_CNT, 31, 16⟩
def TWIN_GUARD_CNT_other : Fld := ⟨.TWIN_GUARD_CNT, 15, 0⟩
def GRD_CFG_guard_operate : Fld := ⟨.GRD_CFG, 31, 31⟩
def GRD_CFG_timeout : Fld := ⟨.GRD_CFG, 7, 0⟩
def GRD_STATUS_keys_installed : Fld := ⟨.GRD_STATUS, 31, 31⟩
def GRD_STATUS_fuse_burned : Fld := ⟨.GRD_STATUS, 30, 30⟩
def GRD_STATUS_resp_dropped : Fld := ⟨.GRD_STATUS, 29, 22⟩
def GRD_STATUS_outbound : Fld := ⟨.GRD_STATUS, 5, 0⟩
def GRD_CNT_refused : Fld := ⟨.GRD_CNT, 31, 24⟩
def GRD_CNT_duplicate : Fld := ⟨.GRD_CNT, 23, 16⟩
def GRD_CNT_late_resp : Fld := ⟨.GRD_CNT, 15, 8⟩
def GRD_CNT_bad_tag : Fld := ⟨.GRD_CNT, 7, 0⟩
def GRD_FUSE_KEY_key : Fld := ⟨.GRD_FUSE_KEY, 31, 0⟩
def GRD_FUSE_CTRL_burn : Fld := ⟨.GRD_FUSE_CTRL, 0, 0⟩
def GRD_WIN_CTRL_submit : Fld := ⟨.GRD_WIN_CTRL, 31, 31⟩
def GRD_WIN_CTRL_state : Fld := ⟨.GRD_WIN_CTRL, 30, 28⟩
def GRD_WIN_CTRL_face : Fld := ⟨.GRD_WIN_CTRL, 27, 24⟩
def GRD_WIN_CTRL_result : Fld := ⟨.GRD_WIN_CTRL, 7, 0⟩
def GRD_KEY_CFG_face : Fld := ⟨.GRD_KEY_CFG, 31, 28⟩
def GRD_KEY_CFG_state : Fld := ⟨.GRD_KEY_CFG, 27, 26⟩
def GRD_KEY_CFG_generation : Fld := ⟨.GRD_KEY_CFG, 23, 16⟩
def GRD_KEY_CFG_types : Fld := ⟨.GRD_KEY_CFG, 6, 0⟩
def GRD_KEY_CTR_LO_counter : Fld := ⟨.GRD_KEY_CTR_LO, 31, 0⟩
def GRD_KEY_CTR_HI_counter : Fld := ⟨.GRD_KEY_CTR_HI, 31, 0⟩
def GRD_RANGE_base : Fld := ⟨.GRD_RANGE, 31, 12⟩
def GRD_RANGE_pages : Fld := ⟨.GRD_RANGE, 11, 4⟩
def GRD_RANGE_face : Fld := ⟨.GRD_RANGE, 3, 0⟩
def FACE_PATH_CFG_pcie_face : Fld := ⟨.FACE_PATH_CFG, 7, 4⟩
def FACE_PATH_CFG_spi_face : Fld := ⟨.FACE_PATH_CFG, 3, 0⟩
def FACE_RESET_reset : Fld := ⟨.FACE_RESET, 15, 0⟩
def FACE_RESET_STATUS_busy : Fld := ⟨.FACE_RESET_STATUS, 31, 16⟩
def FACE_RESET_STATUS_done : Fld := ⟨.FACE_RESET_STATUS, 15, 0⟩
def FACE_RESET_CNT_resets : Fld := ⟨.FACE_RESET_CNT, 31, 24⟩
def FACE_RESET_CNT_flushed : Fld := ⟨.FACE_RESET_CNT, 23, 0⟩
def FACE_VIOL_valid : Fld := ⟨.FACE_VIOL, 31, 31⟩
def FACE_VIOL_write : Fld := ⟨.FACE_VIOL, 30, 30⟩
def FACE_VIOL_path_face : Fld := ⟨.FACE_VIOL, 29, 26⟩
def FACE_VIOL_owner_face : Fld := ⟨.FACE_VIOL, 25, 22⟩
def FACE_VIOL_merge : Fld := ⟨.FACE_VIOL, 21, 18⟩
def FACE_VIOL_ADDR_address : Fld := ⟨.FACE_VIOL_ADDR, 31, 0⟩
def FACE_EP_face0 : Fld := ⟨.FACE_EP, 3, 0⟩
def FACE_EP_face1 : Fld := ⟨.FACE_EP, 7, 4⟩
def FACE_EP_face2 : Fld := ⟨.FACE_EP, 11, 8⟩
def FACE_EP_face3 : Fld := ⟨.FACE_EP, 15, 12⟩
def FACE_EP_face4 : Fld := ⟨.FACE_EP, 19, 16⟩
def FACE_EP_face5 : Fld := ⟨.FACE_EP, 23, 20⟩
def FACE_EP_face6 : Fld := ⟨.FACE_EP, 27, 24⟩
def FACE_EP_face7 : Fld := ⟨.FACE_EP, 31, 28⟩
def FACE_LEAF_face0 : Fld := ⟨.FACE_LEAF, 3, 0⟩
def FACE_LEAF_face1 : Fld := ⟨.FACE_LEAF, 7, 4⟩
def FACE_LEAF_face2 : Fld := ⟨.FACE_LEAF, 11, 8⟩
def FACE_LEAF_face3 : Fld := ⟨.FACE_LEAF, 15, 12⟩
def FACE_LEAF_face4 : Fld := ⟨.FACE_LEAF, 19, 16⟩
def FACE_LEAF_face5 : Fld := ⟨.FACE_LEAF, 23, 20⟩
def FACE_LEAF_face6 : Fld := ⟨.FACE_LEAF, 27, 24⟩
def FACE_LEAF_face7 : Fld := ⟨.FACE_LEAF, 31, 28⟩
def CAUSE_SUMMARY_chip_fault : Fld := ⟨.CAUSE_SUMMARY, 31, 31⟩
def CAUSE_SUMMARY_remote : Fld := ⟨.CAUSE_SUMMARY, 30, 30⟩
def CAUSE_SUMMARY_group : Fld := ⟨.CAUSE_SUMMARY, 29, 0⟩
def CAUSE_SUMMARY_EN_enable : Fld := ⟨.CAUSE_SUMMARY_EN, 31, 0⟩
def CAUSE_FAULT_STATUS_fault : Fld := ⟨.CAUSE_FAULT_STATUS, 31, 31⟩
def CAUSE_FAULT_STATUS_not_ready : Fld := ⟨.CAUSE_FAULT_STATUS, 8, 8⟩
def CAUSE_FAULT_STATUS_forced : Fld := ⟨.CAUSE_FAULT_STATUS, 6, 6⟩
def CAUSE_FAULT_STATUS_watchdog : Fld := ⟨.CAUSE_FAULT_STATUS, 5, 5⟩
def CAUSE_FAULT_STATUS_refclk : Fld := ⟨.CAUSE_FAULT_STATUS, 4, 4⟩
def CAUSE_FAULT_STATUS_dying_gasp : Fld := ⟨.CAUSE_FAULT_STATUS, 3, 3⟩
def CAUSE_FAULT_STATUS_freeze_failed : Fld := ⟨.CAUSE_FAULT_STATUS, 2, 2⟩
def CAUSE_FAULT_STATUS_queue_broken : Fld := ⟨.CAUSE_FAULT_STATUS, 1, 1⟩
def CAUSE_FAULT_STATUS_pool_exhausted : Fld := ⟨.CAUSE_FAULT_STATUS, 0, 0⟩
def CAUSE_FAULT_CTRL_kick : Fld := ⟨.CAUSE_FAULT_CTRL, 31, 31⟩
def CAUSE_FAULT_CTRL_force : Fld := ⟨.CAUSE_FAULT_CTRL, 30, 30⟩
def CAUSE_JOURNAL_PTR_wrapped : Fld := ⟨.CAUSE_JOURNAL_PTR, 31, 31⟩
def CAUSE_JOURNAL_PTR_next : Fld := ⟨.CAUSE_JOURNAL_PTR, 9, 0⟩
def CAUSE_GROUP_pending : Fld := ⟨.CAUSE_GROUP, 31, 0⟩
def CAUSE_LEAF_leaf : Fld := ⟨.CAUSE_LEAF, 31, 0⟩
def CAUSE_EN_enable : Fld := ⟨.CAUSE_EN, 31, 0⟩
def CAUSE_REMOTE_PEND_LO_pending : Fld := ⟨.CAUSE_REMOTE_PEND_LO, 31, 0⟩
def CAUSE_REMOTE_PEND_HI_pending : Fld := ⟨.CAUSE_REMOTE_PEND_HI, 31, 0⟩
def CAUSE_REC_merge : Fld := ⟨.CAUSE_REC, 31, 28⟩
def CAUSE_REC_level : Fld := ⟨.CAUSE_REC, 27, 26⟩
def CAUSE_REC_recovering : Fld := ⟨.CAUSE_REC, 25, 25⟩
def CAUSE_REC_unit : Fld := ⟨.CAUSE_REC, 23, 16⟩
def CAUSE_REC_code : Fld := ⟨.CAUSE_REC, 15, 0⟩
def CAUSE_REMOTE_value : Fld := ⟨.CAUSE_REMOTE, 31, 0⟩
def CAUSE_REMOTE_MASK_mask : Fld := ⟨.CAUSE_REMOTE_MASK, 31, 0⟩
def CAUSE_HOLE_ADDR_address : Fld := ⟨.CAUSE_HOLE_ADDR, 31, 0⟩
def CHIP_RESET_warm : Fld := ⟨.CHIP_RESET, 0, 0⟩
def CHIP_RESET_CAUSE_warm_count : Fld := ⟨.CHIP_RESET_CAUSE, 15, 8⟩
def CHIP_RESET_CAUSE_last : Fld := ⟨.CHIP_RESET_CAUSE, 1, 0⟩
def CFG_STATUS_state : Fld := ⟨.CFG_STATUS, 31, 28⟩
def CFG_STATUS_slot : Fld := ⟨.CFG_STATUS, 27, 27⟩
def CFG_STATUS_fallback : Fld := ⟨.CFG_STATUS, 26, 26⟩
def CFG_STATUS_refuse_code : Fld := ⟨.CFG_STATUS, 23, 16⟩
def CFG_STATUS_refuse_section : Fld := ⟨.CFG_STATUS, 15, 8⟩
def CFG_REFUSE_ADDR_address : Fld := ⟨.CFG_REFUSE_ADDR, 31, 0⟩
def CFG_IMAGE_SEQ_sequence : Fld := ⟨.CFG_IMAGE_SEQ, 31, 0⟩
def CFG_IMAGE_INFO_fw_major : Fld := ⟨.CFG_IMAGE_INFO, 31, 24⟩
def CFG_IMAGE_INFO_fw_minor : Fld := ⟨.CFG_IMAGE_INFO, 23, 16⟩
def CFG_IMAGE_INFO_sched_gen : Fld := ⟨.CFG_IMAGE_INFO, 14, 8⟩
def CFG_IMAGE_INFO_format : Fld := ⟨.CFG_IMAGE_INFO, 7, 0⟩
def CFG_BOOT_reload : Fld := ⟨.CFG_BOOT, 31, 31⟩
def CFG_BOOT_bootrec_valid : Fld := ⟨.CFG_BOOT, 1, 1⟩
def CFG_BOOT_preferred : Fld := ⟨.CFG_BOOT, 0, 0⟩
def CFG_FLASH_ADDR_address : Fld := ⟨.CFG_FLASH_ADDR, 26, 0⟩
def CFG_FLASH_CMD_busy : Fld := ⟨.CFG_FLASH_CMD, 31, 31⟩
def CFG_FLASH_CMD_error : Fld := ⟨.CFG_FLASH_CMD, 30, 30⟩
def CFG_FLASH_CMD_op : Fld := ⟨.CFG_FLASH_CMD, 1, 0⟩
def CFG_FLASH_BUF_data : Fld := ⟨.CFG_FLASH_BUF, 31, 0⟩
def UPD_CTRL_op : Fld := ⟨.UPD_CTRL, 3, 0⟩
def UPD_CFG_auto_commit : Fld := ⟨.UPD_CFG, 31, 31⟩
def UPD_CFG_allow_gen : Fld := ⟨.UPD_CFG, 30, 30⟩
def UPD_CFG_spacing : Fld := ⟨.UPD_CFG, 27, 16⟩
def UPD_CFG_trial_s : Fld := ⟨.UPD_CFG, 15, 0⟩
def UPD_STATUS_state : Fld := ⟨.UPD_STATUS, 31, 28⟩
def UPD_STATUS_mode : Fld := ⟨.UPD_STATUS, 27, 27⟩
def UPD_STATUS_running_slot : Fld := ⟨.UPD_STATUS, 26, 26⟩
def UPD_STATUS_revert_ok : Fld := ⟨.UPD_STATUS, 25, 25⟩
def UPD_STATUS_op_refused : Fld := ⟨.UPD_STATUS, 24, 24⟩
def UPD_STATUS_reason : Fld := ⟨.UPD_STATUS, 23, 16⟩
def UPD_STATUS_target_seq : Fld := ⟨.UPD_STATUS, 15, 0⟩
def UPD_PROGRESS_controller : Fld := ⟨.UPD_PROGRESS, 31, 31⟩
def UPD_PROGRESS_benches : Fld := ⟨.UPD_PROGRESS, 15, 0⟩
def UPD_CHUNK_CTRL_busy : Fld := ⟨.UPD_CHUNK_CTRL, 31, 31⟩
def UPD_CHUNK_CTRL_length : Fld := ⟨.UPD_CHUNK_CTRL, 28, 16⟩
def UPD_CHUNK_CTRL_index : Fld := ⟨.UPD_CHUNK_CTRL, 15, 0⟩
def UPD_CHUNK_data : Fld := ⟨.UPD_CHUNK, 31, 0⟩
def EDGE_STATUS_state : Fld := ⟨.EDGE_STATUS, 31, 28⟩
def EDGE_STATUS_off_cause : Fld := ⟨.EDGE_STATUS, 27, 24⟩
def EDGE_STATUS_seat_a : Fld := ⟨.EDGE_STATUS, 23, 23⟩
def EDGE_STATUS_seat_b : Fld := ⟨.EDGE_STATUS, 22, 22⟩
def EDGE_STATUS_feed_a_valid : Fld := ⟨.EDGE_STATUS, 21, 21⟩
def EDGE_STATUS_feed_b_valid : Fld := ⟨.EDGE_STATUS, 20, 20⟩
def EDGE_STATUS_or_a_on : Fld := ⟨.EDGE_STATUS, 19, 19⟩
def EDGE_STATUS_or_b_on : Fld := ⟨.EDGE_STATUS, 18, 18⟩
def EDGE_STATUS_hs_on : Fld := ⟨.EDGE_STATUS, 17, 17⟩
def EDGE_STATUS_damaged : Fld := ⟨.EDGE_STATUS, 16, 16⟩
def EDGE_STATUS_flush_skipped : Fld := ⟨.EDGE_STATUS, 15, 15⟩
def EDGE_FEED_CFG_uv_fall : Fld := ⟨.EDGE_FEED_CFG, 31, 24⟩
def EDGE_FEED_CFG_uv_rise : Fld := ⟨.EDGE_FEED_CFG, 23, 16⟩
def EDGE_FEED_CFG_ov : Fld := ⟨.EDGE_FEED_CFG, 9, 0⟩
def EDGE_FEED_V_vina : Fld := ⟨.EDGE_FEED_V, 31, 16⟩
def EDGE_FEED_V_vinb : Fld := ⟨.EDGE_FEED_V, 15, 0⟩
def EDGE_HS_CFG_p_lim : Fld := ⟨.EDGE_HS_CFG, 31, 22⟩
def EDGE_HS_CFG_r_sense : Fld := ⟨.EDGE_HS_CFG, 21, 12⟩
def EDGE_HS_CFG_t_inrush : Fld := ⟨.EDGE_HS_CFG, 11, 4⟩
def EDGE_HS_CFG_diode : Fld := ⟨.EDGE_HS_CFG, 3, 3⟩
def EDGE_FUSE_CFG_trip : Fld := ⟨.EDGE_FUSE_CFG, 31, 20⟩
def EDGE_FUSE_CFG_t_fault : Fld := ⟨.EDGE_FUSE_CFG, 19, 8⟩
def EDGE_RETRY_running : Fld := ⟨.EDGE_RETRY, 31, 31⟩
def EDGE_RETRY_retry : Fld := ⟨.EDGE_RETRY, 25, 16⟩
def EDGE_RETRY_remaining : Fld := ⟨.EDGE_RETRY, 9, 0⟩
def EDGE_THERM_CFG_t_limit : Fld := ⟨.EDGE_THERM_CFG, 31, 24⟩
def EDGE_THERM_CFG_t_restart : Fld := ⟨.EDGE_THERM_CFG, 23, 16⟩
def EDGE_THERM_CFG_t_hot : Fld := ⟨.EDGE_THERM_CFG, 15, 8⟩
def EDGE_THERM_CFG_t_amb : Fld := ⟨.EDGE_THERM_CFG, 7, 0⟩
def EDGE_THERM_MODEL_r1 : Fld := ⟨.EDGE_THERM_MODEL, 31, 24⟩
def EDGE_THERM_MODEL_tau1 : Fld := ⟨.EDGE_THERM_MODEL, 23, 16⟩
def EDGE_THERM_MODEL_r2 : Fld := ⟨.EDGE_THERM_MODEL, 15, 8⟩
def EDGE_THERM_MODEL_tau2 : Fld := ⟨.EDGE_THERM_MODEL, 7, 0⟩
def EDGE_THERM_STATUS_t_fet : Fld := ⟨.EDGE_THERM_STATUS, 31, 16⟩
def EDGE_THERM_STATUS_t_case : Fld := ⟨.EDGE_THERM_STATUS, 15, 0⟩
def EDGE_RAIL_CFG_t_pg : Fld := ⟨.EDGE_RAIL_CFG, 31, 24⟩
def EDGE_RAIL_CFG_gap : Fld := ⟨.EDGE_RAIL_CFG, 23, 16⟩
def EDGE_RAIL_CFG_shed : Fld := ⟨.EDGE_RAIL_CFG, 10, 8⟩
def EDGE_RAIL_STATUS_lost : Fld := ⟨.EDGE_RAIL_STATUS, 18, 16⟩
def EDGE_RAIL_STATUS_pwr_en : Fld := ⟨.EDGE_RAIL_STATUS, 13, 8⟩
def EDGE_RAIL_STATUS_pgood : Fld := ⟨.EDGE_RAIL_STATUS, 5, 0⟩
def EDGE_HOLD_CFG_c_nom : Fld := ⟨.EDGE_HOLD_CFG, 31, 16⟩
def EDGE_HOLD_CFG_v_stop : Fld := ⟨.EDGE_HOLD_CFG, 15, 8⟩
def EDGE_HOLD_CFG_ageing_pct : Fld := ⟨.EDGE_HOLD_CFG, 7, 0⟩
def EDGE_HOLD_CFG2_e_req : Fld := ⟨.EDGE_HOLD_CFG2, 31, 16⟩
def EDGE_HOLD_CFG2_r_hold : Fld := ⟨.EDGE_HOLD_CFG2, 15, 8⟩
def EDGE_HOLD_CFG2_i_quiet : Fld := ⟨.EDGE_HOLD_CFG2, 7, 0⟩
def EDGE_HOLD_STATUS_ready : Fld := ⟨.EDGE_HOLD_STATUS, 31, 31⟩
def EDGE_HOLD_STATUS_disagree : Fld := ⟨.EDGE_HOLD_STATUS, 30, 30⟩
def EDGE_HOLD_STATUS_aged : Fld := ⟨.EDGE_HOLD_STATUS, 29, 29⟩
def EDGE_HOLD_STATUS_cap_valid : Fld := ⟨.EDGE_HOLD_STATUS, 28, 28⟩
def EDGE_HOLD_STATUS_v_hold : Fld := ⟨.EDGE_HOLD_STATUS, 27, 16⟩
def EDGE_HOLD_STATUS_e_v : Fld := ⟨.EDGE_HOLD_STATUS, 15, 0⟩
def EDGE_HOLD_CAP_c_meas : Fld := ⟨.EDGE_HOLD_CAP, 31, 16⟩
def EDGE_HOLD_CAP_e_q : Fld := ⟨.EDGE_HOLD_CAP, 15, 0⟩
def EDGE_LW_valid : Fld := ⟨.EDGE_LW, 31, 31⟩
def EDGE_LW_cause : Fld := ⟨.EDGE_LW, 30, 28⟩
def EDGE_LW_energy : Fld := ⟨.EDGE_LW, 27, 16⟩
def EDGE_LW_sec_low : Fld := ⟨.EDGE_LW, 15, 0⟩
def PMT_CFG_wait_limit : Fld := ⟨.PMT_CFG, 23, 16⟩
def PMT_CFG_budget : Fld := ⟨.PMT_CFG, 5, 0⟩
def PMT_STATUS_in_use : Fld := ⟨.PMT_STATUS, 31, 26⟩
def PMT_STATUS_standing : Fld := ⟨.PMT_STATUS, 25, 20⟩
def PMT_STATUS_waiting : Fld := ⟨.PMT_STATUS, 19, 12⟩
def PMT_STATUS_revoked : Fld := ⟨.PMT_STATUS, 11, 11⟩
def PMT_STATUS_late : Fld := ⟨.PMT_STATUS, 7, 0⟩
def PMT_KIND_granted : Fld := ⟨.PMT_KIND, 23, 16⟩
def PMT_KIND_waiting : Fld := ⟨.PMT_KIND, 15, 8⟩
def PMT_KIND_units : Fld := ⟨.PMT_KIND, 3, 0⟩
def TST_BIST_CTRL_go : Fld := ⟨.TST_BIST_CTRL, 31, 31⟩
def TST_BIST_CTRL_bench : Fld := ⟨.TST_BIST_CTRL, 3, 0⟩
def TST_BIST_STATUS_state : Fld := ⟨.TST_BIST_STATUS, 31, 29⟩
def TST_BIST_STATUS_bench : Fld := ⟨.TST_BIST_STATUS, 27, 24⟩
def TST_BIST_STATUS_unit : Fld := ⟨.TST_BIST_STATUS, 19, 16⟩
def TST_BIST_STATUS_offset : Fld := ⟨.TST_BIST_STATUS, 15, 0⟩
def TST_MODE_unlocked : Fld := ⟨.TST_MODE, 2, 2⟩
def TST_MODE_tmode : Fld := ⟨.TST_MODE, 1, 0⟩
def TST_UNLOCK_code : Fld := ⟨.TST_UNLOCK, 31, 0⟩
def BNCH_BANK_measured : Fld := ⟨.BNCH_BANK, 23, 16⟩
def BNCH_BANK_level : Fld := ⟨.BNCH_BANK, 9, 8⟩
def BNCH_BANK_vio : Fld := ⟨.BNCH_BANK, 1, 0⟩
end Sys2Proof.Machine.F
end

