-- ==== Sys2Proof/Syntax.lean ====
section
/-! DEFINITION. The commands the hub takes: one constructor of `Instr` for every row of the operation table, with the
row's operands, and the small types its operands are made of. -/

namespace Sys2Proof

/-- The two ring ports, and the two directions: the east-going direction leaves by the east port and arrives at the west
port, the west-going direction the other way round (the ring chapter's opening). -/
inductive Side where
  | east | west
  deriving DecidableEq, Repr

/-- The two domains of hub time (R358). -/
inductive Dom where
  | a | b
  deriving DecidableEq, Repr

/-- The width of an access (R34). -/
inductive Width where
  | w8 | w16 | w32 | w64
  deriving DecidableEq, Repr

/-- The paths that access the local map (R35, R37, R475). A bench controller acts with the face of the endpoint it serves;
a remote path is the pair of source hub and issuing path of R347, with the face its cell carries. -/
inductive Path where
  | pcie
  | spi
  | hubController
  | bench (b face : Nat)
  | remote (hub path face : Nat)
  | guarded
  | loader
  deriving DecidableEq, Repr

/-- What the fetch of a program word found in program memory (R174). -/
inductive Ecc where
  | good | corrected | uncorrectable
  deriving DecidableEq, Repr

/-- A producer or consumer of the hopper: the block an endpoint is assigned to (R26, R308). -/
inductive Producer where
  | personality (b : Nat)
  | canChannel (n : Nat)
  | bridge
  | hostRing (r : Nat)
  | dresser (b g : Nat)
  | hubController
  | switchPort
  | twinBlock
  | delayExchange
  deriving DecidableEq, Repr

/-- A CAN frame as it stands on the bus (R423, R426). `data` holds its data bytes. -/
structure CanFrame where
  ide : Bool := false
  rtr : Bool := false
  fdf : Bool := false
  brs : Bool := false
  esi : Bool := false
  id : Nat := 0
  dlc : Nat := 0
  data : List Byte := []
  deriving DecidableEq, Repr

/-- How a transmit attempt on a CAN bus ended (R428, R429). -/
inductive CanTxEnd where
  | sent | lostArbitration | failed
  deriving DecidableEq, Repr

/-- What an asleep channel's decoder saw (R437): a whole classical or FD frame, or a stuff, form or CRC error. -/
inductive CanSeen where
  | frame (f : CanFrame)
  | damaged
  deriving DecidableEq, Repr

/-- What the transfer on an I²C bus brought (R260, R261): the status, the bytes read, how many steps of the transaction were
carried out when it was not done, and whether SDA was held low at START. -/
structure I2cResult where
  status : Nat := 0
  read : List Byte := []
  done : Nat := 0
  heldLow : Bool := false
  deriving DecidableEq, Repr

/-- The consumers whose domain is selected (R375). -/
inductive Consumer where
  | bench (b : Nat)
  | can
  | ethPort (p : Nat)
  | ppsOut
  | trigger (k : Nat)
  deriving DecidableEq, Repr

/-- A sample of the hold-up bank: HOLD_V in mV and I_h in mA (R554). -/
structure BankSample where
  mv : Nat
  ma : Int
  deriving DecidableEq, Repr

/-- The operations of the JTAG TAP (R589): a level of TRST_N, one cycle of TCK with TMS and TDI, and whole scans of an instruction,
SAMPLE/PRELOAD over a number of bits. -/
inductive TapOp where
  | trstLow
  | trstHigh
  | clock (tms tdi : Bool)
  | bypass
  | idcode
  | samplePreload (bits : Nat)
  deriving DecidableEq, Repr

/-- The kinds of permit, in rank order (R564). -/
inductive PermitKind where
  | serdes | crypto | settReload | dresserBurst | deltaApply | scrub | bist
  deriving DecidableEq, Repr

/-- How a BIST run ended (R574, R575): passed, or failed in a unit at an offset. -/
inductive BistResult where
  | passed
  | failed (unit offset : Nat)
  deriving DecidableEq, Repr

/-- The commands of the block, one for each row of the operation table, in the table's order. -/
inductive Instr where
  -- register access
  | registerWrite (p : Path) (w : Width) (addr val : Nat)
  | pairLowRead (p : Path) (addr : Nat)
  | pairHighRead (p : Path) (addr : Nat)
  | pairLowWrite (p : Path) (addr val : Nat)
  | pairHighWrite (p : Path) (addr val : Nat)
  | pcieLongTransaction (bar2 write : Bool) (addr n : Nat) (data : List Nat)
  | bar2Access (write : Bool) (w : Width) (off val : Nat)
  | spiRead (addr : Nat)
  | spiWrite (addr val : Nat)
  | spiOtherCommand (cmd : Nat)
  | spiCsRelease (write : Bool) (addrBytes addr dataBytes val : Nat)
  -- ring links
  | signalDetect (p : Side)
  | cdrLock (p : Side)
  | blockLock (p : Side)
  | deskewComplete (p : Side) (swap : Bool) (polInv skew roundTrip : Nat)
  | trainingTimeout (p : Side)
  | blockLockLoss (p : Side)
  | lossOfSignal (p : Side)
  | remoteFaultReceived (p : Side)
  | portDownTimeout (p : Side)
  | helloSend (p : Side)
  | helloReceived (p : Side) (blk : Block)
  | listenWindowEnd
  | backoffEnd
  | contendSend
  | contendReceived (p : Side) (blk : Block)
  | contentionWindowEnd
  | slotStart (d : Side) (n : Nat)
  | slotArrival (d : Side) (blks : List Block)
  | slotCut (d : Side) (blks : List Block)
  | roundBoundary
  | transitOnlyWrite (p : Path) (on : Bool)
  | handoff (p : Path)
  | reachTimeout (d : Side) (h : Nat)
  | silentTurnEnd
  | masterLost
  | backupTakeover
  | spareRequestTimeout
  -- shot lines
  | shotFwDriveWrite (p : Path) (i val : Nat)
  | shotStretchEnd (i : Nat)
  | shotStaleTimeout (d : Side) (h : Nat)
  -- setts and benches
  | settStart (p : Path) (b s : Nat)
  | settStop (p : Path) (b s : Nat)
  | settReset (p : Path) (b s : Nat)
  | groupStart (p : Path) (b : Nat) (atRound : Bool)
  | groupStop (p : Path) (b : Nat) (atRound : Bool)
  | groupReset (p : Path) (b : Nat) (atRound : Bool)
  | groupCmdAtRound (b : Nat)
  | settProgWrite (p : Path) (b s k val : Nat)
  | settInject (p : Path) (b s val : Nat)
  | pinEdge (b pin : Nat) (level : Option Bool)
  | stampLowRead (p : Path) (b s : Nat)
  | scheduledEdgeDue (b s : Nat)
  | mboxInWrite (p : Path) (b s val : Nat)
  | mboxOutRead (p : Path) (b s : Nat)
  | controllerIrqRaise (b line : Nat) (level : Bool)
  | benchWatchdogExpiry (b : Nat)
  | firmwareException (b code : Nat)
  -- sett instructions: the sett reaches a boundary whose next word holds the opcode
  | jmp (b s : Nat) (e : Ecc)
  | wait (b s : Nat) (e : Ecc)
  | waitSatisfied (b s : Nat)
  | inShift (b s : Nat) (e : Ecc)
  | outShift (b s : Nat) (e : Ecc)
  | push (b s : Nat) (e : Ecc)
  | pull (b s : Nat) (e : Ecc)
  | mov (b s : Nat) (e : Ecc)
  | seti (b s : Nat) (e : Ecc)
  | addi (b s : Nat) (e : Ecc)
  | djnz (b s : Nat) (e : Ecc)
  | stamp (b s : Nat) (e : Ecc)
  | armAt (b s : Nat) (e : Ecc)
  | shot (b s : Nat) (e : Ecc)
  | raise (b s : Nat) (e : Ecc)
  | cnt (b s : Nat) (e : Ecc)
  | crcb (b s : Nat) (e : Ecc)
  | flag (b s : Nat) (e : Ecc)
  | dir (b s : Nat) (e : Ecc)
  | sync (b s : Nat) (e : Ecc)
  | halt (b s : Nat) (e : Ecc)
  | ldt (b s : Nat) (e : Ecc)
  | cmpj (b s : Nat) (e : Ecc)
  | tout (b s : Nat) (e : Ecc)
  | irqw (b s : Nat) (e : Ecc)
  | reservedOpcode (b s : Nat) (e : Ecc)
  | idleTimeoutExpiry (b s : Nat)
  -- port personalities
  | descriptorTableWrite (p : Path) (b off val : Nat)
  | personalityCommand (b k c : Nat)
  | commandTimeDue (b k : Nat)
  | uartTransmit (b k : Nat)
  | uartGapEnd (b k : Nat)
  | spiControllerTransaction (b k : Nat) (miso : List Nat)
  | spiTargetFrame (b k : Nat)
  | i2cTransaction (b k : Nat) (r : I2cResult)
  | hdlcTransmit (b k : Nat)
  | ppsWindowEnd (b k : Nat)
  | debounceExpiry (b k : Nat)
  | chatterQuietExpiry (b k : Nat)
  | supervisedOutputCommand (b k : Nat)
  | supervisionWindowExpiry (b k : Nat)
  -- dresser
  | decimationWindowEnd (b c : Nat) (parityOk : Bool)
  | coefficientApply (p : Path) (b c : Nat)
  | comparatorThresholdWrite (p : Path) (b m : Nat) (release : Bool) (val : Nat)
  -- hopper and host rings
  | enqueue (prod : Producer) (q : Nat) (cell : List Byte)
  | dequeue (prod : Producer) (e c : Nat)
  | heldClear (h : Nat)
  | endpointFreezeWrite (p : Path) (k val : Nat)
  | cellEccError (k : Nat) (readBackOk : Bool)
  | queueStateEccError (q : Nat)
  | queueSnapshot (p : Path) (q : Nat)
  | scrubBurstRequest (p : Path)
  | scrubBurstEnd
  | hostRingEnable (p : Path) (r cfg : Nat)
  | hostRingDisable (p : Path) (r : Nat)
  | hostRingTailWrite (p : Path) (r tail : Nat)
  | sendDescriptor (r : Nat) (desc buf : List Byte)
  | receiveDescriptor (r : Nat) (desc : List Byte)
  | hostMemoryError (r : Nat) (cellTaken statusWritable : Bool)
  -- fabric bridge
  | fabricWriteIssue (p : Path) (w : Width) (fa val : Nat)
  | fabricReadIssue (p : Path) (w : Width) (fa : Nat)
  | postedWriteOffer
  | postedWriteTimeout (i : Nat)
  | bridgeCellApply
  | readRequestApply
  | readResponseReceived
  | readTimeout (tag : Nat)
  -- time core
  | timeSnapshot (p : Path)
  | timeMeasurementWrite (p : Path) (d : Dom) (lo hi : Nat)
  | ppsInEdge (rising : Bool)
  | sourceLossTimeout (d : Dom) (second : Bool)
  | holdTraceExpiry (d : Dom)
  | linkDelayExchange (p : Side) (txAgo rxAgo : Nat)
  | delayCellReceived
  | domainSelectApply (c : Consumer)
  | domainAutoSwitch (c : Consumer)
  | ppsOutEdge (rising : Bool)
  | captureNow (p : Path)
  | triggerTick (k : Nat)
  -- Ethernet and the switch
  | frameReceived (m ago : Nat) (bytes : List Byte) (cut : Bool)
  | pauseFrame (m ago : Nat) (bytes : List Byte)
  | pauseExpiry (m : Nat)
  | frameTransmit (m : Nat)
  | linkChange (m : Nat) (up : Bool) (rate : Nat)
  | macEnableWrite (p : Path) (m : Nat) (on : Bool)
  | gateIntervalChange (m : Nat)
  | gateBankSwap (p : Path) (m : Nat)
  | gateSwapApply (m : Nat)
  | ringFrameCell (c : Nat)
  | ringFrameTimeout (src c : Nat)
  | segmentationGo (p : Path)
  | segmentationJobEnd
  -- CAN channels
  | canFrameReceived (n ago : Nat) (f : CanFrame)
  | canTransmitCommand (n c : Nat)
  | canCommandDue (n i : Nat)
  | canTransmitEnd (n ago : Nat) (r : CanTxEnd)
  | canBusError (n tec rec : Nat)
  | canRecover (p : Path) (n : Nat)
  | busOffRecoveryEnd (n : Nat)
  | canEnable (p : Path) (n : Nat)
  | canDisable (p : Path) (n : Nat)
  | busIdleDetected (n : Nat)
  | canReferenceFrameSend (n : Nat)
  | canRefMasterTimeout (n : Nat)
  | keepAliveSend (n : Nat)
  | lastCallTimeout (n : Nat)
  | sleepEntry (n : Nat)
  | sleepNow (p : Path) (n : Nat)
  | wakeDominant (n tenths : Nat)
  | wakeFrame (n ago : Nat) (x : CanSeen)
  | localWake (n : Nat)
  -- twins
  | twinHealthWrite (p : Path) (val : Nat)
  | healthWatchdogExpiry
  | claimLost (k m : Nat)
  | holdoffEnd (k : Nat)
  -- guarded commands and keys
  | grdSubmit (p : Path) (w : Nat)
  | operateWhole
  | operateFirstPart
  | operateSecondPart
  | heldPartTimeout (hub ep : Nat)
  | claimOverride
  | guardedRegisterWrite
  | keyLoad
  | keyErase
  | keyStoreWrite (s : Nat)
  | grdResponseReceived
  | grdWindowTimeout (w : Nat)
  | fuseBurn (p : Path)
  -- bench service and faces
  | benchOutOfService
  | benchFreezeTimeout (b : Nat)
  | benchReturnToService
  | benchReset
  | faceReset
  | faceResetComplete (f : Nat)
  -- update
  | updateBegin
  | chunkCommit (p : Path) (index len : Nat)
  | deltaVerify
  | updateHandover
  | benchHandover (b : Nat)
  | controllerHandover
  | trialEnd
  | updateCommit
  | updateRollback
  | rollbackBenchStep
  | updateAbort
  | updateRevert
  -- cause tree and the FAULT pair
  | causeLeafClear (p : Path) (w val : Nat)
  | causeEnableWrite (p : Path) (w val : Nat)
  | watchdogKick (p : Path)
  | faultForce (p : Path)
  | controllerWatchdogExpiry
  | faultPairSwap
  | refclkLoss
  -- resets, configuration load and recovery
  | resetN (lowNs pos : Nat)
  | warmReset (p : Path)
  /-- `failed` has bit k set when a flash read of slot k fails (R519). -/
  | configLoad (failed : Nat)
  | ringReady
  | configReload (p : Path)
  | flashReadPage (p : Path)
  | flashProgramPage (p : Path)
  | flashEraseSector (p : Path)
  | flashOperationEnd (ok : Bool)
  | testUnlock (p : Path) (val : Nat)
  | pciePerst (low : Bool)
  -- power edge
  | coldStart (vina vinb vhold : Nat)
  | feedChange (feedB : Bool) (mv : Nat)
  | feedReverse (feedB : Bool)
  | seatingChange (seatB asserted : Bool)
  | seatingDebounced
  | inrushStart
  | inrushEnd
  | inrushTimeout
  | gateCheckFail
  | gateCheckPass
  | shortDetected
  | fuseTrip
  | thermalTrip (t : Nat)
  | retryExpiry
  | pgoodRise (k pos tmode : Nat)
  | railGapExpiry
  | pgoodTimeout
  | pgoodLoss (k : Nat)
  | capacitanceMeasured (mv : Nat)
  | gaugeDisagreement
  | quietPeriodEnd
  | holdupReadyChange (x : BankSample)
  | dyingGasp (cause : Nat)
  | journalFlushEnd (done : Bool)
  | park
  -- power permits and test
  | permitRequest (k : PermitKind) (unit : Nat)
  | permitReturn (k : PermitKind) (unit : Nat)
  | permitWaitLimit (k : PermitKind) (unit : Nat)
  | budgetWrite (p : Path) (budget : Nat)
  | bistGo (p : Path) (b : Nat)
  | bistEnd (r : BistResult)
  | alwaysOnStop
  | registerRead (p : Path) (w : Width) (addr : Nat)
  | pcieLinkChange (up : Bool)
  | jtagTapOperation (op : TapOp)
  | journalEraseComplete
  | benchReloadComplete (b : Nat)
  | hubControllerFrameSend (bytes : List Byte) (c : Nat)
  | correctableEccError
  deriving DecidableEq, Repr

end Sys2Proof
end

