-- ==== Sys2Proof/Machine/State.lean ====
section
/-! DEFINITION. The state of the hub: every register and memory of the local map in one sparse store, and every piece of
state the spec gives the blocks beside their registers. What the spec leaves to a reading or a choice stands in log
entry 2. -/

namespace Sys2Proof.Machine

/-- Why a run stops with a fault. No rule of the spec stops the block, and no meaning answers with a fault: the type is
empty. -/
inductive Fault where
  deriving DecidableEq, Repr

/-- Why a command has no meaning in this model. -/
inductive Refusal where
  /-- Raised by the arms of `exec` whose command has no meaning yet; safe (the model stops where the hub goes on). -/
  | notModelled (mnemonic : String)
  deriving DecidableEq, Repr

/-! Time core (R358 to R392). -/

/-- One domain of hub time beside its registers. Time is counted in units of 2^-39 ns, in which every cycle of R360 is
exact. -/
structure DomainState where
  /-- Hub time since the zero of the PTP timescale (R358), in units of 2^-39 ns. -/
  t : Nat := 0
  /-- The frequency term of the servo (R365), in units of 2^-40. -/
  freq : Int := 0
  /-- Consecutive measurements with |θ| at most 50 ns, and with |θ| above 1 µs (R363). -/
  low : Nat := 0
  high : Nat := 0
  /-- Sources 2 and 3 are valid for the domain (R364). -/
  ppsValid : Bool := false
  fwValid : Bool := false
  /-- Last θ in units of 2^-16 ns, and whether one has been made (R613). -/
  theta : Int := 0
  measured : Bool := false
  /-- Whole seconds from the last TIME_MEAS write, less the steps made since (R364, source 2). -/
  seconds : Int := 0
  /-- Time inaccuracy on entry into holdover, in ns, and the time-core cycle of the entry (R613). -/
  inaccuracy : Nat := 0
  heldSince : Nat := 0
  deriving DecidableEq, Repr

/-- One snapshot of both domains (R362): their times in the domains' units. -/
structure TimeSnap where
  a : Nat := 0
  b : Nat := 0
  deriving DecidableEq, Repr

/-- This hub's stamps of a link-delay exchange (R372): the second of the exchange, and the transmit and the receive stamp,
in units of 2^-16 ns within that second. -/
structure DelayStamps where
  second : Nat := 0
  tx : Nat := 0
  rx : Nat := 0
  /-- The ring island's stamps are marked valid (R22). -/
  valid : Bool := false
  waiting : Bool := false
  deriving DecidableEq, Repr

/-- What a hub keeps of the reference copy of one direction in a round (R363, R370): θ, what the master's source reports, and
whether the ring island's stamp in θ is marked valid (R22). -/
structure RefCopy where
  theta : Int
  valid : Bool
  traceable : Bool
  clockClass : Nat
  deriving DecidableEq, Repr

/-- The time core beside its registers. -/
structure TimeState where
  a : DomainState := {}
  b : DomainState := {}
  /-- The snapshot buffer of each path (R362), by the path's latch number. -/
  snaps : List (Nat × TimeSnap) := []
  /-- The capture in TIME_CAP has not been read through TIME_CAP_NS(0) (R386). -/
  capUnread : Bool := false
  /-- The time-core cycle of the last capture, and whether an edge of PPS_IN made it (R386). -/
  capMade : Option (Nat × Bool) := none
  /-- Changes of domain selection that wait for the whole millisecond of R375, in order of request. -/
  selects : List (Consumer × Dom) := []
  /-- Round and rounds of a step announced in the reference message (R367), when one is pending. -/
  stepRound : Option Nat := none
  stepN : Int := 0
  /-- Domain A steps by this θ (2^-16 ns) at the next round boundary (R366). -/
  ringStep : Option Int := none
  /-- Whole rounds in which the two directions differed by more than, and by at most, 20 ns (R371). -/
  diffHigh : Nat := 0
  diffLow : Nat := 0
  /-- The reference copy of each direction in this round (R370). -/
  refEg : Option RefCopy := none
  refWg : Option RefCopy := none
  /-- The hub has integrated and domain A has not been stepped to the reference yet (R366). -/
  alignDue : Bool := false
  /-- A copy of the followed master has been measured in this round, and consecutive whole rounds without one (R366). -/
  refUsed : Bool := false
  unmeasured : Nat := 0
  /-- Consumers that TIME_SEL.auto has switched and no write has switched back (R377). -/
  autoSwitched : List Consumer := []
  /-- The stamps of the link-delay exchange of each port (R372). -/
  delayEast : DelayStamps := {}
  delayWest : DelayStamps := {}
  /-- The level of PPS_OUT (R383). -/
  ppsOut : Bool := false
  /-- Time-core cycles since power-on reset: the model's count of its idle steps (log entry 1). -/
  cycles : Nat := 0
  deriving DecidableEq, Repr

/-! Shot lines (R153 to R171). -/

/-- The tracked copy of one hub's shot entry in one direction (R162). -/
structure ShotCopy where
  entry : Nat := 0
  fresh : Bool := false
  deriving DecidableEq, Repr

/-- The shot lines beside their registers. -/
structure ShotState where
  /-- The lines each sett asserts, by b × 64 + s, and each comparator, by b × 64 + m (R158). -/
  setts : List (Nat × Nat) := []
  comparators : List (Nat × Nat) := []
  /-- Lines in their stretch after the last release (R161). -/
  stretching : Nat := 0
  /-- Lines asserted since the last slot of each direction (R161). -/
  latchEg : Nat := 0
  latchWg : Nat := 0
  /-- The slot counts of R155. -/
  countEg : Nat := 0
  countWg : Nat := 0
  /-- The own entry as written in the last east-going slot. -/
  lastEntry : Nat := 0
  /-- The tracked copies, by direction × 64 + h with 0 for copies that arrive east-going (R162). -/
  copies : List (Nat × ShotCopy) := []
  deriving DecidableEq, Repr

/-! Permits (R564 to R570). -/

/-- A request that waits for its permit. -/
structure PermitWait where
  kind : PermitKind
  unit : Nat
  late : Bool := false
  /-- The time-core cycle in which the request arrived (R567, R568). -/
  since : Nat := 0
  deriving DecidableEq, Repr

/-- The power governor beside its registers. -/
structure PermitState where
  held : List (PermitKind × Nat) := []
  waiting : List PermitWait := []
  deriving DecidableEq, Repr

/-! Ring (R52 to R152). -/

/-- The hello of one port (R110 to R112). -/
structure HelloState where
  /-- Consecutive valid hellos received with ack = 1. -/
  rxAcks : Nat := 0
  /-- Hellos sent with ack = 1. -/
  txAcks : Nat := 0
  /-- A valid, compatible hello has been received from the peer. -/
  compatible : Bool := false
  /-- The refusal leaf has been set for this peer. -/
  refused : Bool := false
  /-- A valid slot header has arrived since the hello (R116). -/
  headerSeen : Bool := false
  deriving DecidableEq, Repr

/-- What a hub has ready for the next slot it owns in a direction: the payload its owner wrote at the slot's boundary. -/
structure SlotFill where
  slot : Nat
  round : Nat
  valid : Bool
  lastWords : Bool
  payload : List Byte
  deriving DecidableEq, Repr

/-- A command slot that is passing the hub (R128): round_low of its round (128 before the first), whether it has passed in
each direction, and whether its end has been judged. -/
structure CommandPass where
  round : Nat := 128
  east : Bool := false
  west : Bool := false
  judged : Bool := true
  deriving DecidableEq, Repr

/-- The control record that a head of a line carries on for a hub heard only on the side it faces (R152). -/
structure Relay where
  owner : Nat
  record : List Byte
  deriving DecidableEq, Repr

/-- One direction of travel through the hub. -/
structure RingDir where
  /-- The hub generates the positions of the direction since a cut, until the stream returns or the port is declared down
  (R89, R94). A head of a line is shown in RING_STATUS. -/
  generating : Bool := false
  /-- Slot number and round_low of the last slot sent (R96). -/
  lastSlot : Nat := 0
  lastRound : Nat := 0
  /-- Blank slots of an inserted run still to send, the idle blocks that follow them, and whether the hub numbers its slots
  on from the last one sent since a run (R96). -/
  runLeft : Nat := 0
  runIdle : Nat := 0
  afterRun : Bool := false
  /-- Slot number of the last slot received in the direction (R97). -/
  lastReceived : Option Nat := none
  /-- The slots that wait in the master's pad buffer (R81), by slot number. -/
  padBuffer : List (Nat × List Block) := []
  /-- An inserted run has reached the master: what waits in the pad buffer still goes out, and the rest is forwarded (R97). -/
  draining : Bool := false
  /-- Shot field (blocks 1 to 16) and outgoing trust of the latest slot received (R157). -/
  shotField : Option (List Block × Nat) := none
  /-- The payloads written for owned slots that have not left yet (R106). -/
  fills : List SlotFill := []
  /-- Command slots whose passing has been seen before their position ended, as slot numbers (R128). -/
  passed : List Nat := []
  /-- The control records a head carries on (R152). -/
  relays : List Relay := []
  /-- The round at which the direction closes, when a closure is announced (R103). -/
  closing : Option Nat := none
  /-- A quiet round that has begun stays quiet to its end when its closure is cancelled (R107). -/
  quietRound : Option Nat := none
  /-- The closure of this direction was refused; it stays in line mode until the ring is started again (R102). -/
  closureRefused : Bool := false
  deriving DecidableEq, Repr

/-- A mirrored slot that has been delivered (R77). -/
structure Delivered where
  slot : Nat
  sequence : Nat
  round : Nat
  deriving DecidableEq, Repr

/-- What the latest announcement of a hub says beside RING_HUBMAP (R127). -/
structure Announcement where
  /-- It was written after the last break this hub has seen (R102). -/
  fresh : Bool := false
  eastUp : Bool := false
  westUp : Bool := false
  eastDelay : Nat := 0
  westDelay : Nat := 0
  /-- Consecutive command slots of the hub without a valid record (R128). -/
  missed : Nat := 0
  /-- round_low of the latest command slot that held a valid record. -/
  heard : Option Nat := none
  deriving DecidableEq, Repr

/-- The ring island beside its registers. -/
structure RingState where
  helloEast : HelloState := {}
  helloWest : HelloState := {}
  eg : RingDir := {}
  wg : RingDir := {}
  delivered : List Delivered := []
  announcements : List (Nat × Announcement) := []
  /-- The content of the last valid reference slot: round, master, and how many consecutive rounds (R124). -/
  refRound : Option Nat := none
  refMaster : Nat := 0
  refRun : Nat := 0
  /-- A valid reference slot of any master arrived in the present round, and consecutive whole rounds without one (R133). -/
  refSeen : Bool := false
  refMissing : Nat := 0
  /-- The same of the followed master (R138), and reference slots of other masters heard in succession (R124, R138). -/
  masterSeen : Bool := false
  masterMissing : Nat := 0
  refOther : Nat := 0
  /-- Rounds since the loss was declared (R133). -/
  lossRounds : Option Nat := none
  /-- Integrated bitmap, version word, backup list, handoff word and grant table, copied from the reference (R130, R145). -/
  bitmap : Nat := 0
  versionWord : Nat := 0
  backups : List Nat := []
  handoffWord : Nat := 0
  grants : List Nat := []
  /-- Rounds left of the silent turn (R126), rounds integrated (R127), rounds to wait after a withdrawal (R132). -/
  silentLeft : Nat := 0
  roundsIntegrated : Nat := 0
  withdrawnLeft : Nat := 0
  /-- A followed master has given way to another and the hub has not locked to it yet (R139). -/
  relocking : Bool := false
  /-- The master stops originating at the next round boundary (R138). -/
  yielding : Bool := false
  /-- The new master starts at the next round boundary (R122), and has originated its first reference slot. -/
  starting : Bool := false
  originated : Bool := false
  /-- The (rank, hub) pairs relayed or sent, as rank × 64 + hub, with domain A's time then (R121). -/
  contends : List (Nat × Nat) := []
  /-- The lowest pair seen in a contention, in the same form (RING_START_STATUS.best_candidate). -/
  bestSeen : Option (Nat × Nat) := none
  /-- The closure word in force (R73, R103), and the master's RING_REACH flags at the announcement (R107). -/
  closureWord : Nat := 0
  closureReach : List (Nat × Nat) := []
  /-- The closure word this hub has taken up, and the one it has cancelled, which it takes up no more (R107). -/
  closureTaken : Nat := 0
  closureOff : Nat := 0
  /-- A master has lost its last port while it had backups: it is no longer master when a port returns (R135). -/
  lapsing : Bool := false
  /-- The round from which both directions are closed and RING_STATUS.mode reads loop (R103). -/
  loopAt : Option Nat := none
  /-- The round with which loop mode last began: headers of earlier rounds say line mode still (R85, R103). -/
  loopFrom : Option Nat := none
  /-- Contents of mirrored slots that one direction has taken and the other has not, with the direction that took each:
  each is chosen once for both (R76). -/
  mirrorFills : List (Side × SlotFill) := []
  /-- Command slots 1 and 2 as they pass (R128). -/
  pass1 : CommandPass := {}
  pass2 : CommandPass := {}
  /-- The last 58 scrambled bits of each transmit lane, by 2 × port + lane (R52). -/
  scram : List (Nat × Nat) := []
  /-- Firmware major and minor version, from the configuration image (R127). -/
  fwVersion : Nat := 0
  /-- Schedule beside SLOT_TABLE: faces of the entries, generation, preferred spare entries (R140, R141). -/
  slotFaces : List (Nat × Nat) := []
  schedGen : Nat := 0
  /-- The schedule generation of the ring as a hub that is not integrated last heard it; 0 none (R125, R530). -/
  heardGen : Nat := 0
  preferred : List Nat := []
  /-- The spare-slot request of this hub (R143, R148): index of the preferred entry, request number, rounds waited. -/
  spareIndex : Nat := 0
  spareRequest : Nat := 0
  spareRounds : Option Nat := none
  /-- A tracked copy of entry h has been current in the present round, and in the one before (R612), one bit per hub. -/
  currentSeen : Nat := 0
  seenBefore : Nat := 0
  deriving DecidableEq, Repr

/-- The outcomes of an enqueue (R317). -/
inductive EnqResult where
  | accepted | unassigned | notOwner | unrouted | full | unreachable
  deriving DecidableEq, Repr

/-! Outputs. -/

/-! Twins (R439 to R455). -/

/-- A member a hub tracks for one pair, beside TWIN_MEMBER (R445, R446). -/
structure TwinMember where
  hub : Nat := 0
  /-- The round its latest claim is dated with. -/
  round : Nat := 0
  /-- A copy came in the present round by each direction, and consecutive whole rounds in which copies came by the other
  direction alone, up to 3. -/
  egSeen : Bool := false
  wgSeen : Bool := false
  egMissed : Nat := 0
  wgMissed : Nat := 0
  deriving DecidableEq, Repr

/-- The twin block beside its registers. -/
structure TwinState where
  /-- Tracking entries, by 2 × pair + entry. -/
  members : List (Nat × TwinMember) := []
  /-- TWIN_HEALTH has not been written for 100 ms, or not since reset (R442). -/
  healthExpired : Bool := true
  /-- A heartbeat has been sent since integration (R449). -/
  heartbeatSent : Bool := false
  /-- Pairs whose hold-off has ended and whose next heartbeat has not gone: they present priority 0 still (R449). -/
  untilBeat : List Nat := []
  /-- Guard entries that have sent their refusal cell in the present round (R454). -/
  refusedIn : List Nat := []
  deriving DecidableEq, Repr

/-! Hopper (R307 to R339). -/

/-- A cell that holds data: its index, where it came from (R311), its bytes, and an uncorrectable error found in it with
what the read-back gave (R329, R330). -/
structure Cell where
  index : Nat
  srcHub : Nat
  srcEp : Nat
  bytes : List Byte
  bad : Option Bool := none
  cycle : Nat := 0
  deriving DecidableEq, Repr

/-- One queue (R313). -/
structure Queue where
  cells : List Cell := []
  refused : Nat := 0
  broken : Bool := false
  deriving DecidableEq, Repr

/-- A host descriptor ring beside its registers (R333 to R338). -/
structure HostRing where
  /-- Completions since the completion leaf was last set. -/
  completions : Nat := 0
  /-- The endpoint last served, by class (R336). -/
  lastServed : List (Nat × Nat) := []
  deriving DecidableEq, Repr

/-- The hopper beside its registers. -/
structure HopState where
  /-- Queues by queue number (R27). -/
  queues : List (Nat × Queue) := []
  /-- Outgoing queues that hold cells, in the order in which they became non-empty (R324). -/
  order : List Nat := []
  /-- One bit per hub: departures in split slots toward it are held (R325). -/
  heldHubs : Nat := 0
  /-- The last chosen direction toward each hub: 1 east-going, 2 west-going, 0 none yet (R325). -/
  chosen : List (Nat × Nat) := []
  /-- Freeze bits in effect, by word (R328). -/
  frozen : List (Nat × Nat) := []
  /-- Retired cells (R330). -/
  retired : List Nat := []
  /-- The snapshot buffer of each path (R314), by the path's latch number. -/
  snaps : List (Nat × Nat) := []
  rings : List (Nat × HostRing) := []
  deriving DecidableEq, Repr

/-! Guarded commands (R456 to R472). -/

/-- A key slot beside its registers: the key, the record of the counters H − 63 to H as bits from H down, whether a write
of its record to the key store is due, and whether commands wait for that write (R465, R470, R472). -/
structure KeySlot where
  key : Nat := 0
  seen : Nat := 0
  due : Bool := false
  waiting : Bool := false
  deriving DecidableEq, Repr

/-- A held first part of a split operate command (R459). -/
structure HeldPart where
  hub : Nat
  ep : Nat
  slot : Nat
  cls : Nat
  counter : Nat
  bytes : List Byte
  deriving DecidableEq, Repr

/-- The guarded-command engine beside its registers. -/
structure GuardState where
  keys : List (Nat × KeySlot) := []
  /-- Windows whose command waits to depart, in submission order, with the time-core cycle each was queued in (R462). -/
  commands : List (Nat × Nat) := []
  /-- Responses that wait to depart, oldest first, at most 32, with the time-core cycle each was queued in (R462). -/
  responses : List (List Byte × Nat) := []
  /-- Commands for this hub that wait for their check, in arrival order (R464). -/
  inbox : List (List Byte) := []
  /-- Responses for this hub not yet matched to a window (R463). -/
  answers : List (List Byte) := []
  held : List HeldPart := []
  /-- The guarded buffer of each endpoint: source hub, class and cell, at most 16 (R458, R466). -/
  buffers : List (Nat × List (Nat × Nat × List Byte)) := []
  /-- The device key in the fuses, and the key staged for burning (R470). -/
  deviceKey : Nat := 0
  stagedKey : Nat := 0
  deriving DecidableEq, Repr

/-! Power edge (R542 to R563). -/

/-- The power edge beside its registers. -/
structure EdgeState where
  /-- The last-words record of this hub's gasp, its cause, and domain A's time at its start (R557, R559, R561). -/
  lastWords : List Byte := []
  gaspCause : Nat := 0
  gaspTime : Nat := 0
  /-- Seating has been debounced (R544). -/
  debounced : Bool := false
  /-- The rails are being disabled after a late PGOOD or a loss, highest first (R552, R553). -/
  dropping : Bool := false
  /-- Inrush has ended and the gate check goes on (R546, R547); the current has been in fold-back in this inrush, so leaf 839 has been
  set (R546). -/
  gateCheck : Bool := false
  folded : Bool := false
  /-- The sector the next flush goes to has been erased since ring-ready (R561); a flush goes on. -/
  erased : Bool := false
  flushing : Bool := false
  /-- The islands other than always-on are held in reset since the hub last left Run (R545); the always-on island has
  stopped (R542). -/
  held : Bool := false
  stopped : Bool := false
  /-- Clocks of 2 ns since the cold start; the thermal model and the gauge step every 5,000 of them, 10 µs (R549, R554). -/
  tick : Nat := 0
  /-- The nodes of the thermal model below 1/64 °C, in units of 2^-32 °C (R549). -/
  fetFrac : Nat := 0
  caseFrac : Nat := 0
  /-- The tick at which the retry timer last started (R550). -/
  retryFrom : Nat := 0
  /-- HOLD_V in mV and I_h in mA at the gauge's last sample (R554). -/
  bankMv : Nat := 0
  bankMa : Int := 0
  /-- The charge count Q, in units of 10 nC (R556). -/
  charge : Nat := 0
  /-- The charge integrated since the bank began to charge, in units of 10 nC, and HOLD_V then, in mV (R555). -/
  charging : Option (Nat × Nat) := none
  /-- The 10 µs step in which the gasp began (R557). -/
  gaspStep : Nat := 0
  /-- POS[5:0] and TMODE[1:0] as they stood at the last rise of a PGOOD (R587). -/
  strapPos : Nat := 0
  strapTmode : Nat := 0
  deriving DecidableEq, Repr

/-! Chip: straps, paths, flash, loader and test (R35, R36, R499 to R521, R589, R590). -/

/-- The states of the TAP controller of IEEE 1149.1 (R589). -/
inductive TapState where
  | testLogicReset | runTestIdle
  | selectDr | captureDr | shiftDr | exit1Dr | pauseDr | exit2Dr | updateDr
  | selectIr | captureIr | shiftIr | exit1Ir | pauseIr | exit2Ir | updateIr
  deriving DecidableEq, Repr

/-- The instructions of the TAP (R589). -/
inductive TapIns where
  | bypass | idcode | samplePreload
  deriving DecidableEq, Repr

/-- The JTAG port (R589): the controller, the instruction in force, the bits shifted in since the scan began, and whether TRST_N is
low. -/
structure TapPort where
  state : TapState := .testLogicReset
  ins : TapIns := .idcode
  shifted : List Bool := []
  low : Bool := false
  deriving DecidableEq, Repr

/-- The boot record in use, and what the loaded image's flash map names (R511, R514). -/
structure BootInfo where
  slotA : Nat := 0x0100000
  slotB : Nat := 0x2100000
  keyStore : Nat := 0x0002000
  sequence : Nat := 0
  /-- The copy in use, 0 or 1. -/
  copy : Nat := 0
  journal : Nat := 0
  deriving DecidableEq, Repr

/-- Chip-level state beside the registers. -/
structure ChipState where
  /-- The high words latched and the low words held for each path, by latch number × 2^32 + the pair's low address (R35,
  R36). -/
  latched : List (Nat × Option Nat) := []
  held : List (Nat × Option Nat) := []
  /-- The flash devices (R510): the bytes that are not erased (0xFF), by flash address. -/
  flash : List (Nat × Byte) := []
  boot : BootInfo := {}
  /-- The operation in progress in recovery: 0 none, else the op of CFG_FLASH_CMD (R521). -/
  flashOp : Nat := 0
  /-- The revocation fuses of the verification keys (R515). -/
  revoked : Nat := 0
  /-- The window of R504 is open. -/
  unlockWindow : Bool := false
  /-- A warm reset waits for the end of a bench handover (R507). -/
  warmWaiting : Bool := false
  /-- Time-core cycle of the last kick of the hub controller's watchdog (R494). -/
  kicked : Nat := 0
  /-- The PCI Express link is up, and PCIE_PERST_N is low (R590). -/
  linkUp : Bool := false
  perst : Bool := false
  /-- The base address registers BAR0 and BAR2 of the PCI Express function (R39, R590). No row of the command table accesses the
  configuration space they stand in (log entry 53). -/
  bar0 : Nat := 0
  bar2 : Nat := 0
  /-- The JTAG port (R589), in its reset state with TRST_N low. -/
  tap : TapPort := { low := true }
  /-- The hub controller's memory: the firmware of the image it runs (R516). -/
  firmware : List Byte := []
  deriving DecidableEq, Repr

/-! Update (R522 to R541). -/

/-- The update engine beside its registers. -/
structure UpdateState where
  /-- The slot the running image came from (R522). -/
  image : Nat := 0
  /-- The bytes of the delta file consumed so far, and the index of the next chunk (R523). -/
  delta : List Byte := []
  next : Nat := 0
  /-- A chunk waits for the permit (R527). -/
  waiting : Bool := false
  /-- The end of the file has been reached, and the verification goes on (R528). -/
  verifying : Bool := false
  /-- A handover begins at the next round boundary: until then the engine is verified (R529). -/
  begun : Bool := false
  /-- Handover: the next bench, 16 for the hub controller, and the round at which it is taken (R532). -/
  step : Nat := 0
  atRound : Nat := 0
  /-- A rollback goes on with this reason (R538, R539). -/
  rollback : Nat := 0
  /-- Setts started at start_pc under a map value of 0xFF, by b × 64 + s (R535, R539). -/
  restarted : List Nat := []
  /-- A reset of a bench requested during its handover (R536). -/
  benchResets : List Nat := []
  deriving DecidableEq, Repr

/-- The FAULT_A and FAULT_B pins: both low, or opposite with A high or low (R493, R494). -/
inductive FaultPair where
  | low | aHigh | aLow
  deriving DecidableEq, Repr

/-! Fabric bridge (R340 to R357). -/

/-- Who waits for the response of a read: a path, or a poll entry (R353, R356). -/
inductive ReadOrigin where
  | path (p : Path)
  | poll (k : Nat)
  deriving DecidableEq, Repr

/-- One access on its way to the hopper: a posted write in the posted-write buffer, or a read request (R344, R345). -/
structure BridgeOffer where
  write : Bool
  origin : ReadOrigin
  hub : Nat
  face : Nat
  addr : Nat
  /-- Words of a write; how many words a read asks for, and its byte lanes. -/
  words : List Nat := []
  count : Nat := 0
  lanes : Nat := 0
  /-- Tag of a read, when it has one. -/
  tag : Nat := 0
  /-- The time-core cycle in which the access reached the bridge (R353). -/
  since : Nat := 0
  /-- A further access may still be placed in its cell (R343). -/
  fresh : Bool := true
  deriving DecidableEq, Repr

/-- One read tag (R353): the read it carries, with the sequence of its request once sent, and the time-core cycle in which
the read reached the bridge. -/
structure BridgeTag where
  used : Bool := false
  origin : ReadOrigin := .poll 0
  hub : Nat := 0
  face : Nat := 0
  addr : Nat := 0
  count : Nat := 0
  seq : Option Nat := none
  since : Nat := 0
  deriving DecidableEq, Repr

/-- The fabric bridge beside its registers. -/
structure BridgeState where
  /-- Accesses not yet accepted by the hopper, in order of acceptance (R345). -/
  offers : List BridgeOffer := []
  /-- Accesses whose path waits, in the order of issue: for an entry of the full buffer, for a tag of the general pool, or
  behind an access of the same path that waits (R344). -/
  waiting : List BridgeOffer := []
  /-- The general pool, by tag (R353). -/
  tags : List (Nat × BridgeTag) := []
  /-- One bit per hub: a cell has been sent on its stream since the stream last started (R348). -/
  started : Nat := 0
  deriving DecidableEq, Repr

/-! Setts and benches (R172 to R244). -/

/-- Sett states, in the order of SETT_STATUS.state (R175). -/
inductive SettPhase where
  | reset | stopped | running | waiting | halted | trapped
  deriving DecidableEq, Repr

/-- The capture a stamp unit holds (R188 to R190): its time and domain, and the words it gives without missed and the
direction mark. -/
structure Capture where
  lo : Nat
  hi : Nat
  rising : Bool
  t : Nat
  dom : Dom
  deriving DecidableEq, Repr

/-- A pending scheduled edge (R192), late when it goes directly after the one before it (R193). -/
structure SettEdge where
  pin : Nat
  level : Bool
  t : Int
  dom : Dom
  late : Bool := false
  deriving DecidableEq, Repr

/-- The instruction a sett waits in: its word, whether it was injected and the state an injected one returns to, the time at
the start of its first cycle and the domain in force then (R211, R376), the time it waits for, and whether its condition has
been met since it began. -/
structure SettWait where
  word : Nat
  injected : Bool := false
  back : SettPhase := .running
  now : Nat := 0
  dom : Dom := .a
  time : Option (Int × Dom) := none
  met : Bool := false
  deriving DecidableEq, Repr

/-- One sett (R173), beside its registers. -/
structure Sett where
  phase : SettPhase := .reset
  cause : Nat := 0
  pc : Nat := 0
  x : Nat := 0
  y : Nat := 0
  isr : Nat := 0
  osr : Nat := 0
  isrCount : Nat := 0
  osrCount : Nat := 0
  flags : Nat := 0
  inbox : List Nat := []
  outbox : List Nat := []
  edgeCount : Nat := 0
  capture : Option Capture := none
  unread : Bool := false
  missed : Bool := false
  /-- High word of the capture the sett last read through source 7, once it has read one since reset (R35, R229). -/
  highRead : Option Nat := none
  edges : List SettEdge := []
  /-- Target and duration, in ns, of the armed idle timeout, and the domain it runs in (R232, R233, R376). -/
  timeout : Option (Nat × Nat × Dom) := none
  /-- Reference time in domain A and in domain B (R212). -/
  reference : Option (Int × Int) := none
  inject : Option Nat := none
  /-- The state to which the wait that an injection has abandoned would have returned (R180). -/
  abandoned : SettPhase := .running
  wait : Option SettWait := none
  /-- Latches of the controller interrupt lines (R240). -/
  latches : Nat := 0
  /-- A stop with stop_cause 4 takes effect at the next instruction boundary (R184). -/
  contended : Bool := false
  deriving DecidableEq, Repr

/-- One quad pin: driven level and output enable (R208), the last sample of the ball (R187), the level an outside driver puts
on it, the run of drives not applied (R184): the sett cycle of the last one and how many in succession, and the time-core cycle
at which a scheduled edge was last applied (R185). -/
structure Pin where
  out : Bool := false
  enable : Bool := false
  ball : Bool := false
  outside : Option Bool := none
  runCycle : Nat := 0
  runCount : Nat := 0
  edgeAt : Option Nat := none
  deriving DecidableEq, Repr

/-- A bench beside its setts, pins and registers. -/
structure Bench where
  /-- Bench event lines and controller interrupt lines (R239, R240). -/
  events : Nat := 0
  lines : Nat := 0
  /-- Group command to apply at the next round boundary (R178). -/
  atRound : Option Nat := none
  /-- The bench is being reloaded after a bench reset, or on its return to service (R505, R572). -/
  reloading : Bool := false
  returning : Bool := false
  /-- The bench controller's memory: the firmware of the image it runs (R516). -/
  firmware : List Byte := []
  deriving DecidableEq, Repr

/-! Dresser (R282 to R306). -/

/-- A stamp: a time of a domain, with the time-valid and traceable states at its capture (R190). -/
structure Stamp where
  t : Nat := 0
  dom : Dom := .a
  valid : Bool := false
  traceable : Bool := false
  deriving DecidableEq, Repr

/-- A completed window: the decimator's output, and the stamp of its last bit (R286, R305). -/
structure Window where
  x : Int
  stamp : Stamp
  deriving DecidableEq, Repr

/-- One dresser channel beside its registers: the filter (R286), the results still to discard (R285), the windows not yet
scaled, the active coefficients (R294), and whether the latest result had NV or OF (R305). -/
structure DrsChannel where
  i1 : Int := 0
  i2 : Int := 0
  i3 : Int := 0
  z1 : Int := 0
  z2 : Int := 0
  z3 : Int := 0
  n : Nat := 0
  discard : Nat := 2
  windows : List Window := []
  gain : Nat := 0x3F800000
  offset : Nat := 0
  delivered : Bool := false
  bad : Bool := false
  deriving DecidableEq, Repr

/-- One channel group beside its registers: record count and overrun (R254), results since the last record, and a sample
record that waits for the members' windows of the same end (R303). -/
structure DrsGroup where
  seq : Nat := 0
  overrun : Bool := false
  count : Nat := 0
  due : Option Stamp := none
  deriving DecidableEq, Repr

/-- The dressers beside their registers: channels by b × 32 + c, groups by b × 4 + g, and the comparators whose release
has been written, by bench, one bit per comparator (R297). -/
structure DresserState where
  channels : List (Nat × DrsChannel) := []
  groups : List (Nat × DrsGroup) := []
  released : List (Nat × Nat) := []
  deriving DecidableEq, Repr

/-! Port personalities (R245 to R281). -/

/-- A command record held by an instance (R255): its time, 0 for at once, its flags and its payload. -/
structure PortCmd where
  t : Nat := 0
  more : Bool := false
  payload : List Byte := []
  deriving DecidableEq, Repr

/-- A received unit of a frame: its payload bytes, and the stamp of its first edge (R252). -/
structure PortUnit where
  bytes : List Byte
  stamp : Stamp
  deriving DecidableEq, Repr

/-- The periodic signal an instance drives: the time its periods count from, the last period whose leading edge was
applied, and whether the pulse is in progress (R266, R268, R274, R275). -/
structure Wave where
  anchor : Nat := 0
  index : Option Int := none
  high : Bool := false
  deriving DecidableEq, Repr

/-- An instance beside its registers. Each personality uses the fields it needs. -/
structure Port where
  /-- Data were lost before the next record (R254). -/
  overrun : Bool := false
  /-- Commands to execute now, in order, and commands that wait for their time (R255). -/
  due : List PortCmd := []
  timed : List PortCmd := []
  inFrame : Bool := false
  /-- Units of the frame in progress not yet sent, whether a record of it has been sent, an error seen in it, and its
  beginning. -/
  units : List PortUnit := []
  error : Bool := false
  start : Stamp := {}
  /-- Last edge on an input pin of the instance (R279). -/
  lastEdge : Stamp := {}
  /-- HDLC: every byte of the frame (R263). -/
  frame : List Byte := []
  /-- Bits of the unit in progress, oldest first, and the stamp of its first edge. -/
  bits : List Bool := []
  unitStart : Stamp := {}
  /-- A character is being received (R257), or a transition is awaited. -/
  active : Bool := false
  /-- Own transmission ends at this time (R256, mode bit 3). -/
  echoUntil : Nat := 0
  /-- HDLC: ones in succession, and hunting for a flag (R262, R263). -/
  ones : Nat := 0
  hunting : Bool := true
  /-- IRIG-B: leading edge of the element (HDLC: last rising edge of RXCLK), and the last element was a position marker (R265). Asynchronous serial: the
  start bit has not been sampled yet. -/
  rise : Stamp := {}
  position : Bool := false
  /-- PPS input: a pulse came in the present window (R267). -/
  pulseSeen : Bool := false
  /-- Binary input: accepted state, stamp of the edge that began the present level, times of accepted changes (R270). -/
  accepted : Bool := false
  changes : List Nat := []
  blocked : Bool := false
  /-- Supervised output: failed, and the present mismatch has been reported (R273). -/
  failed : Bool := false
  reported : Bool := false
  /-- Trigger: leading edges since the instance started (R274). -/
  edges : Nat := 0
  /-- The signal an instance drives of its own. -/
  wave : Option Wave := none
  /-- SPI target: words of the frame in earlier records, and the beginning of the frame (R252, R259). -/
  sent : Nat := 0
  began : Stamp := {}
  /-- SPI target: payload of the command the frame in progress sends (R259). -/
  sending : List Byte := []
  /-- HDLC: the bit time last measured between rising edges of RXCLK, in domain units (R277). -/
  bitTime : Nat := 0
  /-- Sigma-delta: a clock edge has come since the instance started, and the clock is lost (R276). -/
  clocked : Bool := false
  clockLost : Bool := false
  deriving DecidableEq, Repr

/-! CAN channels (R423 to R438). -/

/-- An entry of a transmit buffer (R428): its frame, one_shot, its time and whether it is eligible, and the identifier
word of its command. -/
structure CanEntry where
  frame : CanFrame := {}
  oneShot : Bool := false
  t : Nat := 0
  due : Bool := true
  idWord : Nat := 0
  deriving DecidableEq, Repr

/-- A channel beside its registers. -/
structure CanChannel where
  /-- The transmit buffer, oldest first. -/
  tx : List CanEntry := []
  /-- Record count (R251), and a record has been refused since the last one sent (R427). -/
  seq : Nat := 0
  error : Bool := false
  /-- Reference frame placed and not yet sent, sequence, stamp of the last one sent, and prev_valid (R432, R433). -/
  reference : Option CanFrame := none
  refSeq : Nat := 0
  refStamp : Option Stamp := none
  refValid : Bool := false
  /-- Byte 0 of a keep-alive that waits for the bus (R435). -/
  keepAlive : Option Nat := none
  /-- 11 consecutive recessive bits, and nothing since (R434). -/
  idle : Bool := false
  /-- No stay-awake for timeout_periods × period_ms; the last call is over; sleep_now has been written (R434, R435). -/
  quiet : Bool := false
  lastCallOver : Bool := false
  sleepAsked : Bool := false
  /-- Error-passive (R430): the counters have shown it since the channel last became error-active. -/
  passive : Bool := false
  /-- enable has been written 0, and takes effect at the end of the frame in progress (R431). -/
  stopping : Bool := false
  /-- Time-core cycles of the last entry to asleep, and of the last wake condition on a channel awake (R438). -/
  slept : Option Nat := none
  roused : Option Nat := none
  deriving DecidableEq, Repr

/-! Ethernet ports and switch (R393 to R422). -/

/-- A stored frame, without its FCS: the port it came from, its ingress stamp when it is an event message (R379), and the
time-core cycle count of its ingress, in units of 2^-40 cycles. -/
structure EthFrame where
  bytes : List Byte := []
  ingress : Nat := 9
  stamp : Option Stamp := none
  arrived : Int := 0
  deriving DecidableEq, Repr

/-- A frame under reassembly (R412). -/
structure RingFrame where
  number : Nat := 0
  next : Nat := 0
  length : Nat := 0
  bytes : List Byte := []
  deriving DecidableEq, Repr

/-- The switch beside its registers. -/
structure SwitchState where
  /-- Egress queues, by 8 × port + class. -/
  queues : List (Nat × List EthFrame) := []
  /-- Frame numbers sent over the ring, by 8 × hub + class (R410), and frames under reassembly, by the same key (R412). -/
  numbers : List (Nat × Nat) := []
  partials : List (Nat × Option RingFrame) := []
  /-- The gate list entry that applies at each MAC (R414), and when its pause ends, in units of 2^-40 cycles (R401). -/
  gates : List (Nat × Nat) := []
  pauseEnd : List (Nat × Nat) := []
  /-- Good frames since the last sample, by MAC (R422). -/
  samples : List (Nat × Nat) := []
  /-- When the last byte of the frame a MAC sends leaves, in units of 2^-40 cycles (R395, R399). -/
  sending : List (Nat × Nat) := []
  /-- Ingress stamp of the last Pdelay_Req of each MAC (R379). -/
  pdelay : List (Nat × Nat) := []
  deriving DecidableEq, Repr

/-- One 66-bit block on a transmit lane (R52, R61, R64): its sync header and its 64 scrambled bits. -/
structure LaneBlock where
  port : Side
  lane : Nat
  sync : Nat
  bits : Nat
  deriving DecidableEq, Repr

/-- A step of an I²C controller on its bus (R260, R261): a START, a byte written, a byte read, with NACK on the last, a STOP,
and clock pulses. -/
inductive I2cStep where
  | start
  | write (v : Byte)
  | read (nack : Bool)
  | stop
  | clocks (n : Nat)
  deriving DecidableEq, Repr

/-- What the hub puts on its outputs while it carries out one command. -/
inductive Out where
  /-- The data of a read returned to a path (R34). -/
  | readData (p : Path) (addr val : Nat)
  /-- A write that a non-posted path gets acknowledged (R34). -/
  | writeDone (p : Path) (addr : Nat)
  /-- An access error returned to a path that waits for an answer (R34); Completer Abort on PCI Express (R41). -/
  | accessError (p : Path) (addr : Nat)
  /-- What the hopper answers a producer (R317, R318). -/
  | enqueued (q : Nat) (r : EnqResult)
  /-- A cell handed to the consumer that dequeued it (R308): the cell, its source hub and its source endpoint. -/
  | cell (e c : Nat) (bytes : List Byte) (srcHub srcEp : Nat)
  /-- A posted write of the hub into host memory (R337). -/
  | hostWrite (addr : Nat) (bytes : List Byte)
  /-- The level of PPS_OUT after an edge (R383). -/
  | pps (level : Bool)
  /-- A slot transmitted in a direction (R62, R67). -/
  | slot (d : Side) (blocks : List Block)
  /-- A control block transmitted by a port: hello, contend or remote fault. -/
  | control (p : Side) (block : Block)
  /-- Idle blocks transmitted by a port (R96, R111). -/
  | idles (p : Side) (n : Nat)
  /-- A change of what the hub drives on a quad pin: its level, or released. -/
  | pin (b p : Nat) (level : Option Bool)
  /-- A frame a MAC sends, with preamble, SFD and FCS, or port 9 hands to the hub controller, without; and its stamp when it is an
  event message (R379): egress at a MAC, ingress at port 9. -/
  | frame (q : Nat) (bytes : List Byte) (stamp : Option Stamp)
  /-- What a MAC advertises in Clause 37 negotiation (R396). -/
  | clause37 (m : Nat) (fullDuplex pause asmDir : Bool)
  /-- A frame a CAN channel has sent on its bus. -/
  | canFrame (n : Nat) (f : CanFrame)
  /-- The bytes the management SPI target sends after the frame's last received byte (R43, R44). -/
  | spi (bytes : List Byte)
  /-- The bits the JTAG TAP shifts out for an instruction (R589), most significant first. -/
  | tap (bits value : Nat)
  /-- The words an SPI instance sends from a time on. -/
  | port (b k t : Nat) (bytes : List Byte)
  /-- The levels an instance puts on the pin of a role from a time on, one bit time each. -/
  | bits (b k r t : Nat) (levels : List Bool)
  /-- A level an instance puts on the pin of a role at a time. -/
  | edge (b k r t : Nat) (level : Bool)
  /-- Edges an instance puts on the pin of a role from a time on, half a period of `rate` Hz apart: how many, and the level before
  the first. -/
  | clock (b k r t rate n : Nat) (idle : Bool)
  /-- What an I²C controller carries out on its bus from a time on (R261). -/
  | i2c (b k t : Nat) (steps : List I2cStep)
  deriving DecidableEq, Repr

/-- The state of the hub. -/
structure State where
  /-- The commands that wait, first in, first out. -/
  pending : List Instr := []
  /-- What the last command put on the outputs. -/
  out : List Out := []
  /-- What the last command put on the lanes of the ring ports, in order of transmission (R52, R64). -/
  line : List LaneBlock := []
  /-- The words of the local map that differ from their Reset column, each as the difference (exclusive or) from it. -/
  regs : List (Nat × Word) := []
  /-- How many fresh free values have been drawn (the model's own field). -/
  free : Nat := 0
  /-- The levels of FAULT_A and FAULT_B (R493, R494). -/
  faultPair : FaultPair := .low
  time : TimeState := {}
  shot : ShotState := {}
  permits : PermitState := {}
  ring : RingState := {}
  twin : TwinState := {}
  hop : HopState := {}
  brg : BridgeState := {}
  /-- Setts and pins, by b × 64 + s, and benches. -/
  setts : List (Nat × Sett) := []
  pins : List (Nat × Pin) := []
  benches : List (Nat × Bench) := []
  drs : DresserState := {}
  /-- Instances, by b × 64 + k. -/
  ports : List (Nat × Port) := []
  /-- CAN channels, and the time-valid indications of the CAN, the Ethernet, the hopper and the ring island (R22). -/
  can : List (Nat × CanChannel) := []
  canTimeValid : Bool := false
  ethTimeValid : Bool := false
  hopTimeValid : Bool := false
  ringTimeValid : Bool := false
  sw : SwitchState := {}
  grd : GuardState := {}
  edge : EdgeState := {}
  chip : ChipState := {}
  upd : UpdateState := {}
  deriving DecidableEq, Repr

/-- The hub right after power-on reset: every register at its Reset column. -/
def State.reset : State := { }

end Sys2Proof.Machine
end

