-- ==== Sys2Proof/Machine/Ops.lean ====
section
/-! DEFINITION. The named operations over the local map: one register store for all of it, fields of its registers, the
outputs of a command, and the fresh free values. -/

namespace Sys2Proof.Machine

/-! Addresses (R4). -/

/-- The offset an index list selects among a register's index ranges (largest stride first). -/
def dimOffset : List (Nat × Nat) → List Nat → Nat
  | (_, stride) :: ds, i :: is => i * stride + dimOffset ds is
  | _, _ => 0

/-- The local address of one register of a heading (R4). -/
def Reg.addr (r : Reg) (ix : List Nat) : Nat := r.desc.base + dimOffset r.desc.dims ix

/-! The store. A word is kept as its difference (exclusive or) from the Reset column, so the word of an unlisted address
is the Reset column's. -/

/-- The Reset column of a heading, as a word (R7). -/
def Reg.resetWord (r : Reg) : Word := BitVec.ofNat 32 r.desc.reset

/-- The stored word of a register. -/
def State.rdw (s : State) (r : Reg) (ix : List Nat := []) : Word := smGet s.regs (r.addr ix) 0 ^^^ r.resetWord

/-- The stored value of a register, as a number. -/
def State.rd (s : State) (r : Reg) (ix : List Nat := []) : Nat := (s.rdw r ix).toNat

/-- The state with one register's word replaced. -/
def State.wrw (s : State) (r : Reg) (ix : List Nat) (w : Word) : State :=
  { s with regs := smSet s.regs (r.addr ix) (w ^^^ r.resetWord) 0 }

/-- The state with one register's value replaced by a number's low 32 bits. -/
def State.wr (s : State) (r : Reg) (ix : List Nat) (v : Nat) : State := s.wrw r ix (BitVec.ofNat 32 v)

/-- The greatest value a field holds. -/
def Fld.top (f : Fld) : Nat := 2 ^ (f.hi + 1 - f.lo) - 1

/-- The bits a field occupies. -/
def Fld.mask (f : Fld) : Nat := f.top * 2 ^ f.lo

/-- The value of a field. -/
def State.get (s : State) (f : Fld) (ix : List Nat := []) : Nat := natBits (s.rd f.reg ix) f.hi f.lo

/-- A field that is not 0. -/
def State.is (s : State) (f : Fld) (ix : List Nat := []) : Bool := s.get f ix != 0

/-- The state with one field replaced. -/
def State.set (s : State) (f : Fld) (ix : List Nat) (v : Nat) : State :=
  s.wr f.reg ix (natSetBits (s.rd f.reg ix) f.hi f.lo v)

/-- The state with one field set from a truth value. -/
def State.setB (s : State) (f : Fld) (ix : List Nat) (b : Bool) : State := s.set f ix (b2n b)

/-- The state with one counter field increased by 1, saturating. -/
def State.inc (s : State) (f : Fld) (ix : List Nat := []) : State := s.set f ix (satInc (s.get f ix) f.top)

/-- The state with one counter field increased by `k`, saturating. -/
def State.add (s : State) (f : Fld) (ix : List Nat) (k : Nat) : State := s.set f ix (satAdd (s.get f ix) k f.top)

/-- A bit of a field that holds one bit per member. -/
def State.bitOf (s : State) (f : Fld) (ix : List Nat) (i : Nat) : Bool := natBit (s.get f ix) i

/-- The state with one bit of such a field set or cleared. -/
def State.setBitOf (s : State) (f : Fld) (ix : List Nat) (i : Nat) (b : Bool) : State :=
  s.set f ix (natSetBit (s.get f ix) i b)

/-- The value of a field in a register word. -/
def Fld.of (f : Fld) (w : Nat) : Nat := natBits w f.hi f.lo

/-- The command record of a guarded-command window (R460). -/
def State.windowCommand (s : State) (w : Nat) : List Byte := (List.range 32).flatMap fun i => leBytes 4 (s.rd .GRD_WIN_CMD [w, i])

/-! Islands held in reset. -/

/-- The hub is in the recovery state (R520). -/
def State.inRecovery (s : State) : Bool := s.get F.CFG_STATUS_state == 6

/-- An island is held in reset: every one but the always-on island by the power edge (R14, R545), and the bench, the
Ethernet, the CAN and the ring island in the recovery state (R520). -/
def State.down (s : State) (k : IslandKind) : Bool :=
  (s.edge.held && k != .alwaysOn) || (s.inRecovery && (k == .bench || k == .ethernet || k == .can || k == .ring))

/-! Outputs and free values. -/

/-- The state with one more output. -/
def State.emit (s : State) (o : Out) : State := { s with out := s.out ++ [o] }

/-- The state with more outputs. -/
def State.emits (s : State) (os : List Out) : State := { s with out := s.out ++ os }

/-- The state at the start of a command: nothing on the outputs yet. -/
def State.clearOut (s : State) : State := { s with out := [], line := [] }

/-- A fresh free level, and the state after it is drawn. -/
def State.drawLevel (s : State) : Bool × State := (Config.freeLevel s.free, { s with free := s.free + 1 })

/-- A fresh free number below 2^w, and the state after it is drawn. -/
def State.drawWord (s : State) (w : Nat) : Nat × State := (Config.freeWord s.free % 2 ^ w, { s with free := s.free + 1 })

/-- The first of two hop counts is the smaller (R322). -/
def nearer (a b : Nat) : Bool := a < b

/-- Apply an update for every member of a list, in order. -/
def State.each {α : Type} (s : State) (xs : List α) (f : State → α → State) : State := xs.foldl f s

/-- Apply an update only when a condition holds. -/
def State.when (s : State) (c : Bool) (f : State → State) : State := if c then f s else s

end Sys2Proof.Machine
end

