-- ==== Sys2Proof/Machine/Cause.lean ====
section
/-! DEFINITION. The cause tree: leaves, records, the journal, the chip-fault state, IRQ_N and the FAULT pair (R483 to
R498). What the spec leaves to a reading or a choice stands in log entries 10, 11 and 49. -/

namespace Sys2Proof.Machine

/-! The journal's time (R497). -/

/-- Whole nanoseconds of a domain's time. -/
def unitsPerNs : Nat := 2 ^ 39

/-- Units of a second. -/
def unitsPerSec : Nat := 1000000000 * unitsPerNs

/-- The seconds of a time in domain units, 48 bits (R358). -/
def secOf (t : Nat) : Nat := t / unitsPerSec % 2 ^ 48

/-- The nanoseconds of a time in domain units (R358). -/
def nsOf (t : Nat) : Nat := t / unitsPerNs % 1000000000

/-- The fraction of a time in domain units, in units of 2^-16 ns (R358). -/
def fracOf (t : Nat) : Nat := t / 2 ^ 23 % 2 ^ 16

/-- The quarter nanosecond of a time in domain units. -/
def quarterOf (t : Nat) : Nat := t / 2 ^ 37 % 4

/-! Leaves and groups (R483, R484). -/

/-- Leaf i of bench b. -/
def benchLeaf (b i : Nat) : Nat := 32 * b + i
/-- Leaf i of the ring region. -/
def ringLeaf (i : Nat) : Nat := 512 + i
/-- Leaf i of the time core. -/
def timeLeaf (i : Nat) : Nat := 544 + i
/-- Leaf i of the hopper. -/
def hopLeaf (i : Nat) : Nat := 576 + i
/-- Leaf i of MAC p. -/
def macLeaf (p i : Nat) : Nat := 608 + 8 * p + i
/-- Leaf i of CAN channel n. -/
def canLeaf (n i : Nat) : Nat := 672 + 4 * n + i
/-- Leaf i of the switch. -/
def switchLeaf (i : Nat) : Nat := 736 + i
/-- Leaf i of the bridge. -/
def bridgeLeaf (i : Nat) : Nat := 752 + i
/-- Leaf i of the guarded commands. -/
def guardLeaf (i : Nat) : Nat := 768 + i
/-- Leaf i of the twins. -/
def twinLeaf (i : Nat) : Nat := 784 + i
/-- Leaf i of the loader and update. -/
def loadLeaf (i : Nat) : Nat := 800 + i
/-- Leaf i of the host. -/
def hostLeaf (i : Nat) : Nat := 816 + i
/-- Leaf i of the power edge. -/
def edgeLeaf (i : Nat) : Nat := 832 + i
/-- Leaf i of the power governor. -/
def governorLeaf (i : Nat) : Nat := 856 + i
/-- Leaf i of the test group. -/
def testLeaf (i : Nat) : Nat := 864 + i

/-- A leaf that R484 assigns to an event: reserved leaves are never set (R485). -/
def leafAssigned (n : Nat) : Bool :=
  if n < 512 then n % 32 < 16
  else if n < 544 then let i := n - 512; !(i == 7 || i == 15 || i ≥ 24)
  else if n < 576 then n - 544 < 17
  else if n < 608 then let i := n - 576; i < 11 || i ≥ 16
  else if n < 672 then (n - 608) % 8 < 2
  else if n < 736 then true
  else if n < 752 then n - 736 < 6
  else if n < 768 then n - 752 < 7
  else if n < 784 then n - 768 < 6
  else if n < 800 then n - 784 < 5
  else if n < 816 then n - 800 < 8
  else if n < 832 then n - 816 < 7
  else if n < 856 then n - 832 < 19
  else if n < 864 then n - 856 < 2
  else if n < 872 then n - 864 < 4
  else false

/-- The level at which a leaf is set (R15, R489): 0 cell, 1 block, 2 region, 3 chip. DEDUCED from the tables of R15 and
R17 and the worked example of R499 (log entry 10). -/
def leafLevel (n : Nat) : Nat :=
  if n < 512 then
    match n % 32 with
    | 0 => 0
    | 1 => 0
    | 2 => 0
    | 3 => 1
    | 5 => 1
    | 6 => 0
    | 9 => 3
    | _ => 2
  else if n == 578 || n == 579 then 3
  else if 856 ≤ n && n < 864 then 3
  else 2

/-- The groups of R484: first leaf and number of leaves. -/
def groupRange (g : Nat) : Nat × Nat :=
  if g < 16 then (32 * g, 32)
  else match g with
    | 16 => (512, 32)
    | 17 => (544, 32)
    | 18 => (576, 32)
    | 19 => (608, 64)
    | 20 => (672, 64)
    | 21 => (736, 16)
    | 22 => (752, 16)
    | 23 => (768, 16)
    | 24 => (784, 16)
    | 25 => (800, 16)
    | 26 => (816, 16)
    | 27 => (832, 24)
    | 28 => (856, 8)
    | 29 => (864, 8)
    | _ => (0, 0)

/-- The group of a leaf. -/
def leafGroup (n : Nat) : Nat :=
  if n < 512 then n / 32 else if n < 544 then 16 else if n < 576 then 17 else if n < 608 then 18 else if n < 672 then 19
  else if n < 736 then 20 else if n < 752 then 21 else if n < 768 then 22 else if n < 784 then 23 else if n < 800 then 24
  else if n < 816 then 25 else if n < 832 then 26 else if n < 856 then 27 else if n < 864 then 28 else 29

/-- The face of a leaf (R474). -/
def State.leafFace (s : State) (n : Nat) : Nat := natBits (s.rd .FACE_LEAF [n / 8]) (4 * (n % 8) + 3) (4 * (n % 8))

/-- Leaf n is set (R483). -/
def State.leafSet (s : State) (n : Nat) : Bool := natBit (s.rd .CAUSE_LEAF [n / 32]) (n % 32)

/-- Leaf n is pending: set and enabled (R486). -/
def State.leafPending (s : State) (n : Nat) : Bool := s.leafSet n && natBit (s.rd .CAUSE_EN [n / 32]) (n % 32)

/-- The entry's CAUSE_HOLE_ADDR of a hole-access leaf (R37). -/
def holeAddrIndex (n : Nat) : Option Nat :=
  if n < 512 then (if n % 32 = 13 then some (n / 32) else none)
  else if n = 816 then some 16 else if n = 817 then some 17 else if n = 753 then some 18 else if n = 585 then some 19
  else none

/-- Append one entry to the journal (R497, R498). -/
def State.journal (s : State) (leaf face word1 : Nat) : State :=
  let i := s.get F.CAUSE_JOURNAL_PTR_next
  let prev := if i = 0 then 1023 else i - 1
  let last := natBits (s.rd .CAUSE_JOURNAL [prev, 0]) 31 16
  let first := i = 0 && !s.is F.CAUSE_JOURNAL_PTR_wrapped
  let seq := if first then 0 else (last + 1) % 2 ^ 16
  let t := s.time.a.t
  let s := s.wr .CAUSE_JOURNAL [i, 0] (seq * 2 ^ 16 + face * 2 ^ 12 + leaf)
  let s := s.wr .CAUSE_JOURNAL [i, 1] word1
  let s := s.wr .CAUSE_JOURNAL [i, 2] (s.get F.TIME_DOM_STATUS_traceable [0] * 2 ^ 31 + nsOf t)
  let s := s.wr .CAUSE_JOURNAL [i, 3] (secOf t % 2 ^ 32)
  let s := s.set F.CAUSE_JOURNAL_PTR_next [] ((i + 1) % 1024)
  s.when (i = 1023) fun s => s.setB F.CAUSE_JOURNAL_PTR_wrapped [] true

/-- An event sets leaf n (R486, R489): a new record, or one more merged into the record of a leaf that is set or whose
block is recovering. `recovering` marks a block that now works to restore what the event disturbed (R490). -/
def State.leaf (s : State) (n : Nat) (unit : Nat := 0) (code : Nat := 0) (recovering : Bool := false) : State :=
  if leafAssigned n then
    let rec0 := s.rd .CAUSE_REC [n]
    let fresh := !s.leafSet n && !s.is F.CAUSE_REC_recovering [n]
    let s := s.wr .CAUSE_LEAF [n / 32] (natSetBit (s.rd .CAUSE_LEAF [n / 32]) (n % 32) true)
    if fresh then
      let w := leafLevel n * 2 ^ 26 + b2n recovering * 2 ^ 25 + unit % 256 * 2 ^ 16 + code % 2 ^ 16
      (s.wr .CAUSE_REC [n] w).journal n (s.leafFace n) w
    else
      let s := s.wr .CAUSE_REC [n] (natSetBits rec0 31 28 (satInc (natBits rec0 31 28) 15))
      s.when recovering fun s => s.setB F.CAUSE_REC_recovering [n] true
  else s

/-- Clearing a leaf clears its record too, unless the record shows recovering = 1 (R490); a hole-access leaf's address
goes with its record (R37), and the quads of the contention leaf with that leaf (BNCH_STATUS.contention). -/
def State.leafClear (s : State) (n : Nat) : State :=
  let s := s.wr .CAUSE_LEAF [n / 32] (natSetBit (s.rd .CAUSE_LEAF [n / 32]) (n % 32) false)
  let s := s.when (n < 512 && n % 32 == 3) fun s => s.set F.BNCH_STATUS_contention [n / 32] 0
  if s.is F.CAUSE_REC_recovering [n] then s
  else
    let s := s.wr .CAUSE_REC [n] 0
    match holeAddrIndex n with
    | some k => s.wr .CAUSE_HOLE_ADDR [k] 0
    | none => s

/-- The block's recovery of leaf n ends (R490): recovering clears, and with the leaf already cleared the record goes. -/
def State.recovered (s : State) (n : Nat) : State :=
  if s.is F.CAUSE_REC_recovering [n] then
    let s := s.setB F.CAUSE_REC_recovering [n] false
    if s.leafSet n then s else s.leafClear n
  else s

/-- The pending leaves of a group as CAUSE_GROUP shows them (R483). -/
def State.groupPending (s : State) (g : Nat) : Nat :=
  let (first, count) := groupRange g
  let per := if g = 19 then 8 else if g = 20 then 4 else 1
  (List.range (count / per)).foldl
    (fun acc u => if (List.range per).any (fun i => s.leafPending (first + u * per + i)) then acc + 2 ^ u else acc) 0

/-- Remote entry k is pending (R496). -/
def State.remotePending (s : State) (k : Nat) : Bool := (s.rd .CAUSE_REMOTE [k] &&& s.rd .CAUSE_REMOTE_MASK [k]) != 0

/-- The chip-fault state (R491). -/
def State.chipFault (s : State) : Bool := s.is F.CAUSE_FAULT_STATUS_fault

/-- CAUSE_SUMMARY as it reads (R483). -/
def State.summary (s : State) : Nat :=
  (List.range 30).foldl (fun acc g => if s.groupPending g != 0 then acc + 2 ^ g else acc) 0
    + b2n ((List.range 64).any s.remotePending) * 2 ^ 30 + b2n s.chipFault * 2 ^ 31

/-- IRQ_N is asserted (R495): it is released while the hopper island is held in reset. -/
def State.irqAsserted (s : State) : Bool := !s.down .hopper && (s.summary &&& s.rd .CAUSE_SUMMARY_EN) != 0

/-- A condition of R491 arises: its bit of CAUSE_FAULT_STATUS, the chip-fault state, one journal entry on entry, and both
pins of the FAULT pair low (R494). -/
def State.enterFault (s : State) (bit : Nat) : State :=
  let was := s.chipFault
  let s := s.wr .CAUSE_FAULT_STATUS [] (natSetBit (natSetBit (s.rd .CAUSE_FAULT_STATUS) bit true) 31 true)
  if was then s
  else
    let s := s.journal 1023 0 (s.rd .CAUSE_FAULT_STATUS)
    { s with faultPair := .low }

end Sys2Proof.Machine
end

