-- ==== Sys2Proof/Machine/Crypto.lean ====
section
/-! DEFINITION. The cryptographic functions the spec names by their standards: AES-128 (FIPS 197), AES-128-CMAC (NIST SP
800-38B), AES key wrap (NIST SP 800-38F) and SHA-256 (FIPS 180-4). Blocks are lists of byte values. -/

namespace Sys2Proof.Machine

/-! AES-128. -/

/-- The S-box, sixteen entries to a number, first entry most significant. -/
def sboxRows : List Nat :=
  [0x637C777BF26B6FC53001672BFED7AB76, 0xCA82C97DFA5947F0ADD4A2AF9CA472C0] ++
  [0xB7FD9326363FF7CC34A5E5F171D83115, 0x04C723C31896059A071280E2EB27B275] ++
  [0x09832C1A1B6E5AA0523BD6B329E32F84, 0x53D100ED20FCB15B6ACBBE394A4C58CF] ++
  [0xD0EFAAFB434D338545F9027F503C9FA8, 0x51A3408F929D38F5BCB6DA2110FFF3D2] ++
  [0xCD0C13EC5F974417C4A77E3D645D1973, 0x60814FDC222A908846EEB814DE5E0BDB] ++
  [0xE0323A0A4906245CC2D3AC629195E479, 0xE7C8376D8DD54EA96C56F4EA657AAE08] ++
  [0xBA78252E1CA6B4C6E8DD741F4BBD8B8A, 0x703EB5664803F60E613557B986C11D9E] ++
  [0xE1F8981169D98E949B1E87E9CE5528DF, 0x8CA1890DBFE6426841992D0FB054BB16]

/-- The entries of the inverse of the S-box, in the same order. -/
def invSboxRows : List Nat :=
  [0x52096AD53036A538BF40A39E81F3D7FB, 0x7CE339829B2FFF87348E4344C4DEE9CB] ++
  [0x547B9432A6C2233DEE4C950B42FAC34E, 0x082EA16628D924B2765BA2496D8BD125] ++
  [0x72F8F66486689816D4A45CCC5D65B692, 0x6C704850FDEDB9DA5E154657A78D9D84] ++
  [0x90D8AB008CBCD30AF7E45805B8B34506, 0xD02C1E8FCA3F0F02C1AFBD0301138A6B] ++
  [0x3A9111414F67DCEA97F2CFCEF0B4E673, 0x96AC7422E7AD3585E2F937E81C75DF6E] ++
  [0x47F11A711D29C5896FB7620EAA18BE1B, 0xFC563E4BC6D279209ADBC0FE78CD5AF4] ++
  [0x1FDDA8338807C731B11210592780EC5F, 0x60517FA919B54A0D2DE57A9F93C99CEF] ++
  [0xA0E03B4DAE2AF5B0C8EBBB3C83539961, 0x172B047EBA77D626E169146355210C7D]

/-- A table of 256 bytes as one number, first entry most significant. -/
def byteTable (rows : List Nat) : Nat := rows.foldl (fun a r => a * 2 ^ 128 + r) 0
def sboxTable : Nat := byteTable sboxRows
def invSboxTable : Nat := byteTable invSboxRows

/-- An entry of a table. -/
def tableByte (table x : Nat) : Nat := (table >>> (2040 - 8 * x)) % 256

/-- SubBytes of one byte. -/
def sbox (x : Nat) : Nat := tableByte sboxTable x

/-- SubBytes of a string of k bytes held as a number, by either table. -/
def subBytes (table : Nat) : Nat → Nat → Nat
  | 0, _ => 0
  | k + 1, b => subBytes table k (b / 256) * 256 + tableByte table (b % 256)

/-- Multiplication by x in GF(2^8) of every byte of a block. -/
def xtime (b : Nat) : Nat :=
  ((b &&& 0x7F7F7F7F7F7F7F7F7F7F7F7F7F7F7F7F) <<< 1) ^^^ (((b >>> 7) &&& 0x01010101010101010101010101010101) * 0x1B)

/-- Every column of a block rotated up by k rows. -/
def rotColumns (k b : Nat) : Nat :=
  let low := (2 ^ (8 * k) - 1) * 0x00000001000000010000000100000001
  ((b <<< (8 * k)) &&& (2 ^ 128 - 1 - low)) ||| ((b >>> (32 - 8 * k)) &&& low)

/-- MixColumns, with the row 2 3 1 1, and its inverse, with the row 14 11 13 9. -/
def mixColumns (b : Nat) : Nat :=
  let b2 := xtime b
  b2 ^^^ rotColumns 1 (b2 ^^^ b) ^^^ rotColumns 2 b ^^^ rotColumns 3 b
def invMixColumns (b : Nat) : Nat :=
  let b2 := xtime b
  let b4 := xtime b2
  let b8 := xtime b4
  (b8 ^^^ b4 ^^^ b2) ^^^ rotColumns 1 (b8 ^^^ b2 ^^^ b) ^^^ rotColumns 2 (b8 ^^^ b4 ^^^ b) ^^^ rotColumns 3 (b8 ^^^ b)

/-- A block rotated left by k of its four columns. -/
def rotBlock (k b : Nat) : Nat := (b <<< (32 * k)) % 2 ^ 128 ||| (b >>> (128 - 32 * k))

/-- Row r of a block, the other rows 0. -/
def rowOf (r b : Nat) : Nat := b &&& (0xFF000000FF000000FF000000FF000000 >>> (8 * r))

/-- ShiftRows and its inverse: row r moves left by r columns, or right. -/
def shiftRows (b : Nat) : Nat :=
  rowOf 0 b ||| rowOf 1 (rotBlock 1 b) ||| rowOf 2 (rotBlock 2 b) ||| rowOf 3 (rotBlock 3 b)
def invShiftRows (b : Nat) : Nat :=
  rowOf 0 b ||| rowOf 1 (rotBlock 3 b) ||| rowOf 2 (rotBlock 2 b) ||| rowOf 3 (rotBlock 1 b)

/-- The next round key, from the last one and the round constant. -/
def nextKey (k rcon : Nat) : Nat :=
  let last := k % 2 ^ 32
  let w0 := (k >>> 96) ^^^ subBytes sboxTable 4 ((last <<< 8) % 2 ^ 32 ||| (last >>> 24)) ^^^ (rcon <<< 24)
  let w1 := ((k >>> 64) % 2 ^ 32) ^^^ w0
  let w2 := ((k >>> 32) % 2 ^ 32) ^^^ w1
  w0 <<< 96 ||| w1 <<< 64 ||| w2 <<< 32 ||| (last ^^^ w2)

/-- The round constants. -/
def aesRcon : List Nat := [1, 2, 4, 8, 16, 32, 64, 128, 0x1B, 0x36]

/-- The keys of the rounds after a key, one for each round constant. -/
def roundKeys (k : Nat) : List Nat → List Nat
  | [] => []
  | r :: rs => nextKey k r :: roundKeys (nextKey k r) rs

/-- The rounds of encryption after the first key; the last one mixes no columns. -/
def aesRounds (b : Nat) : List Nat → Nat
  | [] => b
  | [k] => shiftRows (subBytes sboxTable 16 b) ^^^ k
  | k :: ks => aesRounds (mixColumns (shiftRows (subBytes sboxTable 16 b)) ^^^ k) ks

/-- AES-128 encryption of a block. -/
def aesEncrypt (key blk : Nat) : Nat := aesRounds (blk ^^^ key) (roundKeys key aesRcon)

/-- The rounds of decryption after the first key, with the round keys from the last to the first. -/
def aesInvRounds (b : Nat) : List Nat → Nat
  | [] => b
  | [k] => subBytes invSboxTable 16 (invShiftRows b) ^^^ k
  | k :: ks => aesInvRounds (invMixColumns (subBytes invSboxTable 16 (invShiftRows b) ^^^ k)) ks

/-- AES-128 decryption of a block. -/
def aesDecrypt (key blk : Nat) : Nat :=
  match (roundKeys key aesRcon).reverse with
  | [] => blk
  | k :: ks => aesInvRounds (blk ^^^ k) (ks ++ [key])

/-! AES-128-CMAC. -/

/-- Doubling in GF(2^128). -/
def cmacDouble (n : Nat) : Nat := (2 * n) % 2 ^ 128 ^^^ (if natBit n 127 then 0x87 else 0)

/-- The last block of a message under the subkeys: whole, or padded with a one bit. -/
def cmacLast (key : Nat) (last : List Byte) : Nat :=
  let k1 := cmacDouble (aesEncrypt key 0)
  if last.length = 16 then beNat last ^^^ k1 else beNat (padTo 16 (last ++ [0x80])) ^^^ cmacDouble k1

/-- The tag of a message of n blocks before its last, as a number. -/
def cmacChain (key : Nat) (c : Nat) (msg : List Byte) : Nat → Nat
  | 0 => aesEncrypt key (c ^^^ cmacLast key msg)
  | n + 1 => cmacChain key (aesEncrypt key (c ^^^ beNat (msg.take 16))) (msg.drop 16) n

/-- The tag of a message under a key. -/
def cmacTag (key : Nat) (msg : List Byte) : List Byte := beBytes 16 (cmacChain key 0 msg ((msg.length + 15) / 16 - 1))

/-! AES key wrap (KW). -/

/-- One step of the unwrapping: semiblock register A and the semiblocks, step t. -/
def kwStep (key : Nat) (x : Nat × List Nat) (t : Nat) : Nat × List Nat :=
  let n := x.2.length
  let i := (t - 1) % n
  let b := aesDecrypt key ((x.1 ^^^ t) * 2 ^ 64 + x.2.getD i 0)
  (b / 2 ^ 64, x.2.set i (b % 2 ^ 64))

/-- The key a wrapped text holds under a key, when the integrity check passes. -/
def kwUnwrap (key : Nat) (wrapped : List Byte) : Option Nat :=
  let n := wrapped.length / 8 - 1
  let r := (List.range n).map fun i => beAt wrapped (8 * (i + 1)) 8
  let (a, r) := (List.range (6 * n)).reverse.foldl (fun x t => kwStep key x (t + 1)) (beAt wrapped 0 8, r)
  if a = 0xA6A6A6A6A6A6A6A6 then some (r.foldl (fun a x => a * 2 ^ 64 + x) 0) else none

/-- One step of the wrapping. -/
def kwWrapStep (key : Nat) (x : Nat × List Nat) (t : Nat) : Nat × List Nat :=
  let i := (t - 1) % x.2.length
  let b := aesEncrypt key (x.1 * 2 ^ 64 + x.2.getD i 0)
  (b / 2 ^ 64 ^^^ t, x.2.set i (b % 2 ^ 64))

/-- A key of 128 bits wrapped under a key. -/
def kwWrap (key plain : Nat) : List Byte :=
  let (a, r) := (List.range 12).foldl (fun x t => kwWrapStep key x (t + 1)) (0xA6A6A6A6A6A6A6A6, [plain / 2 ^ 64 % 2 ^ 64, plain % 2 ^ 64])
  beBytes 8 a ++ r.flatMap (beBytes 8)

/-! SHA-256. -/

/-- The round constants. -/
def shaK : List Nat :=
  [0x428A2F98, 0x71374491, 0xB5C0FBCF, 0xE9B5DBA5, 0x3956C25B, 0x59F111F1, 0x923F82A4, 0xAB1C5ED5] ++
  [0xD807AA98, 0x12835B01, 0x243185BE, 0x550C7DC3, 0x72BE5D74, 0x80DEB1FE, 0x9BDC06A7, 0xC19BF174] ++
  [0xE49B69C1, 0xEFBE4786, 0x0FC19DC6, 0x240CA1CC, 0x2DE92C6F, 0x4A7484AA, 0x5CB0A9DC, 0x76F988DA] ++
  [0x983E5152, 0xA831C66D, 0xB00327C8, 0xBF597FC7, 0xC6E00BF3, 0xD5A79147, 0x06CA6351, 0x14292967] ++
  [0x27B70A85, 0x2E1B2138, 0x4D2C6DFC, 0x53380D13, 0x650A7354, 0x766A0ABB, 0x81C2C92E, 0x92722C85] ++
  [0xA2BFE8A1, 0xA81A664B, 0xC24B8B70, 0xC76C51A3, 0xD192E819, 0xD6990624, 0xF40E3585, 0x106AA070] ++
  [0x19A4C116, 0x1E376C08, 0x2748774C, 0x34B0BCB5, 0x391C0CB3, 0x4ED8AA4A, 0x5B9CCA4F, 0x682E6FF3] ++
  [0x748F82EE, 0x78A5636F, 0x84C87814, 0x8CC70208, 0x90BEFFFA, 0xA4506CEB, 0xBEF9A3F7, 0xC67178F2]

/-- Rotation of a word to the right, and addition of words. -/
def ror (k x : Nat) : Nat := (x >>> k) ||| ((x <<< (32 - k)) % 2 ^ 32)
def add32 (xs : List Nat) : Nat := xs.sum % 2 ^ 32

/-- The message schedule grows by one word; the newest word stands first. -/
def shaWord (w : List Nat) : List Nat :=
  let g i := w.getD i 0
  let s0 := ror 7 (g 14) ^^^ ror 18 (g 14) ^^^ (g 14 >>> 3)
  let s1 := ror 17 (g 1) ^^^ ror 19 (g 1) ^^^ (g 1 >>> 10)
  add32 [g 15, s0, g 6, s1] :: w

/-- One round on the eight working words. -/
def shaRound (h : List Nat) (kw : Nat) : List Nat :=
  let g i := h.getD i 0
  let s1 := ror 6 (g 4) ^^^ ror 11 (g 4) ^^^ ror 25 (g 4)
  let ch := (g 4 &&& g 5) ^^^ ((2 ^ 32 - 1 - g 4) &&& g 6)
  let t1 := add32 [g 7, s1, ch, kw]
  let s0 := ror 2 (g 0) ^^^ ror 13 (g 0) ^^^ ror 22 (g 0)
  let maj := (g 0 &&& g 1) ^^^ (g 0 &&& g 2) ^^^ (g 1 &&& g 2)
  [add32 [t1, s0, maj], g 0, g 1, g 2, add32 [g 3, t1], g 4, g 5, g 6]

/-- One block of 64 bytes into the hash value. -/
def shaBlock (h : List Nat) (blk : List Byte) : List Nat :=
  let w := (List.range 48).foldl (fun w _ => shaWord w) ((List.range 16).reverse.map fun i => beAt blk (4 * i) 4)
  List.zipWith (fun a b => add32 [a, b]) h ((List.zipWith (· + ·) shaK w.reverse).foldl shaRound h)

/-- The padded message. -/
def shaPad (m : List Byte) : List Byte := m ++ [0x80] ++ zeros ((119 - m.length % 64) % 64) ++ beBytes 8 (8 * m.length)

/-- SHA-256 of a byte string, as a number of 256 bits. -/
def sha256 (m : List Byte) : Nat :=
  let p := shaPad m
  let h := (List.range (p.length / 64)).foldl (fun h i => shaBlock h ((p.drop (64 * i)).take 64))
    [0x6A09E667, 0xBB67AE85, 0x3C6EF372, 0xA54FF53A, 0x510E527F, 0x9B05688C, 0x1F83D9AB, 0x5BE0CD19]
  h.foldl (fun a x => a * 2 ^ 32 + x) 0

end Sys2Proof.Machine
end

