-- ==== Sys2Proof/Machine/Flash.lean ====
section
/-! DEFINITION. The flash devices as one space of bytes, and the boot record (R510, R511). A byte not listed is erased,
0xFF (log entry 30). What the spec leaves to a reading or a choice stands in log entries 30, 31 and 36. -/

namespace Sys2Proof.Machine

/-- An erased byte. -/
def erased : Byte := 0xFF

/-- `n` bytes from an address on, from a listing that begins at or after that address. -/
def flashTake : Nat → Nat → List (Nat × Byte) → List Byte
  | 0, _, _ => []
  | n + 1, addr, [] => erased :: flashTake n (addr + 1) []
  | n + 1, addr, (a, v) :: t =>
    if a = addr then v :: flashTake n (addr + 1) t else erased :: flashTake n (addr + 1) ((a, v) :: t)

/-- The `n` bytes at a flash address. -/
def flashSlice (m : List (Nat × Byte)) (addr n : Nat) : List Byte := flashTake n addr (m.dropWhile fun e => e.1 < addr)

/-- The entries of a byte string placed at an address, the erased ones left out. -/
def flashEntries : Nat → List Byte → List (Nat × Byte)
  | _, [] => []
  | addr, b :: bs => if b = erased then flashEntries (addr + 1) bs else (addr, b) :: flashEntries (addr + 1) bs

/-- Bytes put at an address, whatever stood there. -/
def flashPut (m : List (Nat × Byte)) (addr : Nat) (bs : List Byte) : List (Nat × Byte) :=
  (m.filter fun e => e.1 < addr) ++ flashEntries addr bs ++ m.filter fun e => addr + bs.length ≤ e.1

/-- Bytes programmed at an address: programming turns ones into zeros only, as NOR flash does (log entry 31). -/
def flashProgram (m : List (Nat × Byte)) (addr : Nat) (bs : List Byte) : List (Nat × Byte) :=
  flashPut m addr (List.zipWith (fun a b : Byte => a &&& b) (flashSlice m addr bs.length) bs)

/-- `n` bytes from an address on erased. -/
def flashErase (m : List (Nat × Byte)) (addr n : Nat) : List (Nat × Byte) :=
  m.filter fun e => e.1 < addr || addr + n ≤ e.1

/-- The bytes at a flash address. -/
def State.flashAt (s : State) (addr n : Nat) : List Byte := flashSlice s.chip.flash addr n

/-- The flash replaced. -/
def State.setFlash (s : State) (m : List (Nat × Byte)) : State := { s with chip := { s.chip with flash := m } }

/-! The boot record (R511). -/

/-- The size of an image slot, 31 MiB, and of an erase sector. -/
def slotSize : Nat := 31 * 0x100000
def sectorSize : Nat := 0x10000

/-- Two ranges of flash do not overlap. -/
def apart (a b : Nat × Nat) : Bool := a.1 + a.2 ≤ b.1 || b.1 + b.2 ≤ a.1

/-- A copy of the boot record is valid. -/
def bootOk (r : List Byte) : Bool :=
  let a : Nat × Nat := (leAt r 16 4, slotSize)
  let b : Nat × Nat := (leAt r 20 4, slotSize)
  let k : Nat × Nat := (leAt r 24 4, 0x2000)
  let boot : Nat × Nat := (0, 0x2000)
  leAt r 0 4 == 0x424F4F54 && leAt r 28 4 == crc32 (r.take 28)
    && [a, b, k].all (fun x => x.1 % sectorSize == 0)
    && apart a b && apart a k && apart b k && apart a boot && apart b boot && apart k boot

/-- Where a copy of the boot record stands. -/
def bootAddr (copy : Nat) : Nat := copy * 0x1000

/-- The boot record of a copy. -/
def State.bootRecord (s : State) (copy : Nat) : List Byte := s.flashAt (bootAddr copy) 32

/-- What a copy of the boot record says. -/
def bootInfo (r : List Byte) (copy : Nat) : BootInfo :=
  { slotA := leAt r 16 4, slotB := leAt r 20 4, keyStore := leAt r 24 4, sequence := leAt r 4 4, copy := copy }

/-- The boot record in use: found valid or not, the preferred slot, and the addresses (R511). -/
def State.findBoot (s : State) : Bool × Nat × BootInfo :=
  let r0 := s.bootRecord 0
  let r1 := s.bootRecord 1
  let pick (r : List Byte) (copy : Nat) : Bool × Nat × BootInfo := (true, byteAt r 8 % 2, bootInfo r copy)
  match bootOk r0, bootOk r1 with
  | true, true => if leAt r0 4 4 < leAt r1 4 4 then pick r1 1 else pick r0 0
  | true, false => pick r0 0
  | false, true => pick r1 1
  | false, false => (false, 0, {})

/-- The copy with the lower sequence is written anew (R540): one above the other's sequence, the slot given as preferred,
every address unchanged. -/
def State.bootWrite (s : State) (slot : Nat) : State :=
  let x := s.chip.boot
  let copy := 1 - x.copy
  let head := leBytes 4 0x424F4F54 ++ leBytes 4 (x.sequence + 1) ++ [byte slot] ++ zeros 7 ++ leBytes 4 x.slotA ++ leBytes 4 x.slotB
    ++ leBytes 4 x.keyStore
  let m := flashErase s.chip.flash (bootAddr copy) 0x1000
  let s := s.setFlash (flashPut m (bootAddr copy) (head ++ leBytes 4 (crc32 head)))
  { s with chip := { s.chip with boot := { x with sequence := x.sequence + 1, copy := copy } } }

/-- The flash address of an image slot. -/
def State.slotAddr (s : State) (slot : Nat) : Nat := if slot = 0 then s.chip.boot.slotA else s.chip.boot.slotB

/-! The journal area (R561). -/

/-- The newest committed flush: its sequence and its sector, from the two sectors of the journal area. -/
def State.committedFlush (s : State) : Option (Nat × Nat) :=
  let at' (k : Nat) : Option Nat :=
    let base := s.chip.boot.journal + k * sectorSize
    let head := s.flashAt base 8
    let tail := s.flashAt (base + 65 * 256) 8
    if leAt head 0 4 = 0x4A524E4C ∧ leAt tail 0 4 = 0x434F4D54 ∧ leAt head 4 4 = leAt tail 4 4 then some (leAt head 4 4) else none
  match at' 0, at' 1 with
  | some a, some b => if a < b then some (b, 1) else some (a, 0)
  | some a, none => some (a, 0)
  | none, some b => some (b, 1)
  | none, none => none

/-- The sector the next flush goes to: the one without the newest committed flush. -/
def State.flushSector (s : State) : Nat := match s.committedFlush with | some (_, k) => 1 - k | none => 0

/-- The 66 pages of a flush (R561): the header page, the journal, and the commit page. -/
def State.flushPages (s : State) : List Byte :=
  let q := (match s.committedFlush with | some (n, _) => n + 1 | none => 0) % 2 ^ 32
  let t := s.edge.gaspTime
  let head := leBytes 4 0x4A524E4C ++ leBytes 4 q ++ leBytes 4 (s.rd .CAUSE_JOURNAL_PTR) ++ leBytes 4 s.edge.gaspCause
    ++ leBytes 8 (t / (1000000000 * 2 ^ 39) % 2 ^ 48) ++ leBytes 4 (t / 2 ^ 39 % 1000000000)
  let entries := (List.range 4096).flatMap fun i => leBytes 4 (s.rd .CAUSE_JOURNAL [i / 4, i % 4])
  padTo 256 head ++ entries ++ padTo 256 (leBytes 4 0x434F4D54 ++ leBytes 4 q)

/-- The journal is flushed (R498, R561). -/
def State.flushJournal (s : State) : State :=
  s.setFlash (flashProgram s.chip.flash (s.chip.boot.journal + s.flushSector * sectorSize) s.flushPages)

end Sys2Proof.Machine
end

