-- ==== Sys2Proof/Machine/Image.lean ====
section
/-! DEFINITION. The configuration image: the curve P-256 of its signatures, its header, its signature block and its
directory, and the checks of a slot (R513 to R515). What the spec leaves to a reading or a choice stands in log entries
39 and 40. -/

namespace Sys2Proof.Machine

/-! The curve P-256 of FIPS 186-5 and its ECDSA check. -/

def p256P : Nat := 2 ^ 256 - 2 ^ 224 + 2 ^ 192 + 2 ^ 96 - 1
def p256N : Nat := 0xFFFFFFFF00000000FFFFFFFFFFFFFFFFBCE6FAADA7179E84F3B9CAC2FC632551
def p256B : Nat := 0x5AC635D8AA3A93E7B3EBBD55769886BC651D06B0CC53B0F63BCE3C3E27D2604B
def p256G : Nat × Nat :=
  (0x6B17D1F2E12C4247F8BCE6E563A440F277037D812DEB33A0F4A13945D898C296,
   0x4FE342E2FE1A7F9B8EE7EB4A7C0F9E162BCE33576B315ECECBB6406837BF51F5)

/-- Powers modulo a number, over the low 256 bits of the exponent. -/
def powMod (x e m : Nat) : Nat :=
  (List.range 256).reverse.foldl (fun a i => let a := a * a % m; if e.testBit i then a * x % m else a) 1

/-- The inverse modulo a prime. -/
def invMod (x m : Nat) : Nat := powMod x (m - 2) m

/-- The sum of two points; none is the point at infinity. -/
def p256Add : Option (Nat × Nat) → Option (Nat × Nat) → Option (Nat × Nat)
  | none, q => q
  | p, none => p
  | some (x1, y1), some (x2, y2) =>
    if x1 = x2 ∧ (y1 + y2) % p256P = 0 then none
    else
      let l :=
        if x1 = x2 then (3 * x1 * x1 + (p256P - 3)) * invMod (2 * y1 % p256P) p256P % p256P
        else (y2 + p256P - y1) * invMod ((x2 + p256P - x1) % p256P) p256P % p256P
      let x3 := (l * l + 2 * p256P - x1 - x2) % p256P
      some (x3, (l * (x1 + p256P - x3) + p256P - y1) % p256P)

/-- A multiple of a point. -/
def p256Mul (k : Nat) (q : Nat × Nat) : Option (Nat × Nat) :=
  (List.range 256).reverse.foldl (fun a i => let a := p256Add a a; if k.testBit i then p256Add a (some q) else a) none

/-- The signature (r, s) over a digest verifies under a public key. -/
def ecdsaOk (key : Nat × Nat) (digest r s : Nat) : Bool :=
  if r = 0 ∨ p256N ≤ r ∨ s = 0 ∨ p256N ≤ s then false
  else
    let w := invMod s p256N
    match p256Add (p256Mul (digest * w % p256N) p256G) (p256Mul (r * w % p256N) key) with
    | some (x, _) => x % p256N == r
    | none => false

/-! The signature block (R513, R515). -/

/-- The signature block of a file ends it. -/
def signatureBlock (file : List Byte) : List Byte := file.drop (file.length - 256)

/-- Step 2: the digest over all bytes but the last 256. -/
def digestOk (file : List Byte) : Bool := beAt (signatureBlock file) 0 32 == sha256 (file.take (file.length - 256))

/-- Step 3: the verification key is one of the four, and not revoked; 0x04 and 0x05 of CFG_STATUS.refuse_code. -/
def State.keyRefusal (s : State) (file : List Byte) : Option Nat :=
  let k := byteAt (signatureBlock file) 32
  if 4 ≤ k then some 4 else if natBit s.chip.revoked k then some 5 else none

/-- Step 4: the signature over the digest. -/
def signatureOk (file : List Byte) : Bool :=
  let b := signatureBlock file
  ecdsaOk (Config.romKey (byteAt b 32)) (beAt b 0 32) (beAt b 64 32) (beAt b 96 32)

/-! Header and directory (R513, R514). -/

/-- A section of the directory. -/
structure Section where
  tag : Nat
  offset : Nat
  length : Nat
  param : Nat
  deriving DecidableEq, Repr

/-- Header fields. -/
def imgSchedGen (img : List Byte) : Nat := byteAt img 5
def imgCount (img : List Byte) : Nat := leAt img 6 2
def imgLength (img : List Byte) : Nat := leAt img 8 4
def imgSequence (img : List Byte) : Nat := leAt img 12 4
def imgMajor (img : List Byte) : Nat := byteAt img 16
def imgMinor (img : List Byte) : Nat := byteAt img 17

/-- The directory. -/
def imgSections (img : List Byte) : List Section :=
  (List.range (imgCount img)).map fun k =>
    let a := 64 + 16 * k
    { tag := leAt img a 4, offset := leAt img (a + 4) 4, length := leAt img (a + 8) 4, param := leAt img (a + 12) 4 }

/-- Section tags. -/
def tagRegs : Nat := 0x52454753
def tagSched : Nat := 0x53434844
def tagTable : Nat := 0x50445442
def tagKeys : Nat := 0x4B455953
def tagBenchFw : Nat := 0x42465752
def tagHubFw : Nat := 0x48465752
def tagMap : Nat := 0x464D4150

/-- The bytes of a section. -/
def sectionBytes (img : List Byte) (x : Section) : List Byte := slice img x.offset x.length

/-- The sections of a tag, with their bytes. -/
def sectionsOf (img : List Byte) (tag : Nat) : List (List Byte) :=
  ((imgSections img).filter (·.tag == tag)).map (sectionBytes img)

/-- The port descriptor table of a bench. -/
def imgTable (img : List Byte) (b : Nat) : List Byte :=
  match (imgSections img).find? fun x => x.tag == tagTable && x.param == b with
  | some x => sectionBytes img x
  | none => []

/-- The register-write pairs, in the order in which they are applied, each with its section's directory index. -/
def imgPairs (img : List Byte) : List (Nat × Nat × Nat) :=
  ((List.range (imgCount img)).zip (imgSections img)).flatMap fun (i, x) =>
    if x.tag = tagRegs then
      let bs := sectionBytes img x
      (List.range (x.length / 8)).map fun k => (i, leAt bs (8 * k) 4, leAt bs (8 * k + 4) 4)
    else []

/-- The journal area the flash map names. -/
def imgJournal (img : List Byte) : Nat := match sectionsOf img tagMap with | x :: _ => leAt x 0 4 | [] => 0

/-- One section obeys its row of R514. -/
def State.sectionOk (s : State) (img : List Byte) (x : Section) : Bool :=
  let placed := x.offset % 16 == 0 && 64 + 16 * imgCount img ≤ x.offset && x.offset + x.length ≤ imgLength img - 256
  let param := if x.tag = tagTable then x.param < 16 && x.length == 16640 else x.param == 0
  let body :=
    if x.tag = tagRegs then x.length % 8 == 0
    else if x.tag = tagKeys then x.length % 32 == 0
    else if x.tag = tagMap then
      let j : Nat × Nat := (leAt (sectionBytes img x) 0 4, 2 * sectorSize)
      let c := s.chip.boot
      j.1 % sectorSize == 0 && apart j (c.slotA, slotSize) && apart j (c.slotB, slotSize) && apart j (c.keyStore, 0x2000)
        && apart j (0, 0x2000)
    else x.tag == tagSched || x.tag == tagTable || x.tag == tagBenchFw || x.tag == tagHubFw
  placed && param && body

/-- The directory names each kind of section as often as R514 says. -/
def countsOk (xs : List Section) : Bool :=
  let n (t : Nat) : Nat := (xs.filter (·.tag == t)).length
  1 ≤ n tagRegs && n tagRegs ≤ 64 && n tagSched == 1 && n tagKeys ≤ 1 && n tagBenchFw == 1 && n tagHubFw == 1 && n tagMap == 1
    && (List.range 16).all fun b => (xs.filter fun x => x.tag == tagTable && x.param == b).length == 1

/-- The first section that overlaps an earlier one or breaks its row; 255 for the directory as a whole. -/
def State.directoryFault (s : State) (img : List Byte) : Option Nat :=
  let xs := imgSections img
  if imgCount img = 0 ∨ 64 < imgCount img ∨ imgLength img < 64 + 16 * imgCount img + 256 then some 255
  else
    let bad := (List.range xs.length).find? fun i =>
      match xs[i]? with
      | some x => !s.sectionOk img x || (xs.take i).any fun y => !apart (x.offset, x.length) (y.offset, y.length)
      | none => false
    match bad with
    | some i => some i
    | none => if countsOk xs then none else some 255

/-! The checks of a slot (R515). -/

/-- Header checks of step 1 but the length. -/
def headerOk (img : List Byte) : Bool :=
  leAt img 0 4 == 0x53434647 && byteAt img 4 == 3 && leAt img 24 2 == 0x1024 && leAt img 26 2 == 0x0B01

/-- The length of step 1; 24 MiB fits every slot of 31 MiB. -/
def lengthOk (img : List Byte) : Bool := imgLength img % 256 == 0 && imgLength img ≤ 25165824 && 320 ≤ imgLength img

/-- The image a slot holds: as many bytes as its header says, none when it has no sound header. -/
def State.slotImage (s : State) (slot : Nat) : List Byte :=
  let a := s.slotAddr slot
  let head := s.flashAt a 64
  if headerOk head && lengthOk head then s.flashAt a (imgLength head) else []

/-- The first check of R515 that a slot fails, as refuse_code and refuse_section; none when it passes them all. -/
def State.slotRefusal (s : State) (slot : Nat) : Option (Nat × Nat) :=
  let head := s.flashAt (s.slotAddr slot) 64
  if !headerOk head then some (1, 255)
  else if !lengthOk head then some (2, 255)
  else
    let img := s.slotImage slot
    if !digestOk img then some (3, 255)
    else match s.keyRefusal img with
      | some c => some (c, 255)
      | none =>
        if !signatureOk img then some (4, 255)
        else (s.directoryFault img).map fun i => (6, i)

end Sys2Proof.Machine
end

