-- ==== Sys2Proof/Machine/Delta.lean ====
section
/-! DEFINITION. The delta file of an update as it comes in chunks: its header, its operations, its sett map, and the
chunk the engine consumes (R522 to R527). What the spec leaves to a reading or a choice stands in log entry 41. -/

namespace Sys2Proof.Machine

/-! The file (R524 to R526). -/

/-- Header fields. -/
def deltaBaseSeq (d : List Byte) : Nat := leAt d 8 4
def deltaTargetLen (d : List Byte) : Nat := leAt d 44 4
def deltaTargetSeq (d : List Byte) : Nat := leAt d 48 4
def deltaFileLen (d : List Byte) : Nat := leAt d 52 4

/-- What the operations read so far come to: the target bytes, a refusal reason, and where the operations ended. -/
structure DeltaRun where
  target : List Byte := []
  reason : Nat := 0
  ended : Option Nat := none
  deriving DecidableEq, Repr

/-- The operations from an offset on, as far as the bytes go (R525): at most `fuel` of them. -/
def deltaOps (base d : List Byte) (limit : Nat) : Nat → Nat → List Byte → DeltaRun
  | 0, _, out => { target := out }
  | fuel + 1, off, out =>
    let left := d.length - off
    if left = 0 then { target := out }
    else
      let add (bs : List Byte) (whole : Bool) (next : Nat) : DeltaRun :=
        if limit < (out ++ bs).length then { target := out, reason := 0x0A }
        else if whole then deltaOps base d limit fuel next (out ++ bs) else { target := out ++ bs }
      match byteAt d off with
      | 0x00 => { target := out, ended := some (off + 1) }
      | 0x01 =>
        if left < 9 then { target := out }
        else
          let a := leAt d (off + 1) 4
          let n := leAt d (off + 5) 4
          if base.length < a + n then { target := out, reason := 0x01 } else add (slice base a n) true (off + 9)
      | 0x02 =>
        if left < 5 then { target := out }
        else
          let n := leAt d (off + 1) 4
          if left < 5 + n then add (d.drop (off + 5)) false off else add (slice d (off + 5) n) true (off + 5 + n)
      | 0x03 =>
        if left < 5 then { target := out }
        else if limit < out.length + leAt d (off + 1) 4 then { target := out, reason := 0x0A }
        else add (zeros (leAt d (off + 1) 4)) true (off + 5)
      | _ => { target := out, reason := 0x01 }

/-- The file read so far, run against the base image. -/
def deltaRun (base d : List Byte) : DeltaRun := deltaOps base d (deltaTargetLen d) d.length 64 []

/-- The sett map at an offset: its number of entries, and the pc map of a sett (R526). -/
def mapCount (d : List Byte) (off : Nat) : Nat := leAt d off 2
def mapEntry (d : List Byte) (off b k : Nat) : Option (List Byte) :=
  ((List.range (mapCount d off)).find? fun i => byteAt d (off + 2 + 66 * i) == b && byteAt d (off + 3 + 66 * i) == k).map
    fun i => slice d (off + 4 + 66 * i) 64

/-- Where the file's signature block begins by its content: behind the sett map. -/
def mapEnd (d : List Byte) (off : Nat) : Nat := off + 2 + 66 * mapCount d off

/-! The engine (R522, R523, R527). -/

/-- The slot the running image came from, and the inactive slot. -/
def State.runningSlot (s : State) : Nat := s.upd.image
def State.inactiveSlot (s : State) : Nat := 1 - s.runningSlot

/-- The state of the update engine. -/
def State.updState (s : State) : Nat := s.get F.UPD_STATUS_state
def State.toUpd (s : State) (st : Nat) : State := s.set F.UPD_STATUS_state [] st

/-- The round boundary from which the engine hands over (R529) has come. -/
def State.handoverBegins (s : State) : State :=
  s.when (s.upd.begun && s.updState == 3) fun s => { (s.toUpd 4) with upd := { s.upd with begun := false } }

/-- The engine refuses the update (R527, leaf 7 of R484): its permit goes back, and no chunk waits. -/
def State.updRefuse (s : State) (reason : Nat) : State :=
  let s := (s.toUpd 7).set F.UPD_STATUS_reason [] reason
  let s := { s with upd := { s.upd with waiting := false, verifying := false } }
  let s := (s.setB F.UPD_CHUNK_CTRL_busy [] false).leaf (loadLeaf 7)
  { s with permits := { held := s.permits.held.filter fun x => x.1 != .deltaApply
                        waiting := s.permits.waiting.filter fun w => w.kind != .deltaApply } }

/-- The reason the header of a delta gives for a refusal (R524, R527). -/
def State.deltaHeader (s : State) (d : List Byte) : Option Nat :=
  let base := s.slotImage s.runningSlot
  if leAt d 0 4 ≠ 0x494D544B ∨ leAt d 56 4 ≠ crc32 (d.take 56) ∨ byteAt d 4 ≠ 1 then some 0x01
  else if deltaBaseSeq d ≠ imgSequence base ∨ slice d 12 32 ≠ slice (signatureBlock base) 0 32 then some 0x02
  else if 25165824 < deltaTargetLen d ∨ deltaTargetSeq d ≤ deltaBaseSeq d then some 0x01
  else none

/-- The target bytes stand in the inactive slot, its sectors erased ahead of them. -/
def State.writeTarget (s : State) (target : List Byte) : State :=
  let a := s.slotAddr s.inactiveSlot
  let sectors := (target.length + sectorSize - 1) / sectorSize
  s.setFlash (flashPut (flashErase s.chip.flash a (sectors * sectorSize)) a target)

/-- The bytes of the chunk. -/
def State.chunkBytes (s : State) : List Byte :=
  ((List.range 1024).flatMap fun k => leBytes 4 (s.rd .UPD_CHUNK [k])).take (s.get F.UPD_CHUNK_CTRL_length)

/-- The chunk that waits is consumed (R523 to R527). -/
def State.chunkConsume (s : State) : State :=
  if !s.upd.waiting then s
  else
    let d := s.upd.delta ++ s.chunkBytes
    let s := { s with upd := { s.upd with delta := d, next := s.upd.next + 1, waiting := false } }
    let s := s.setB F.UPD_CHUNK_CTRL_busy [] false
    if d.length < 64 then s
    else match s.deltaHeader d with
      | some reason => s.updRefuse reason
      | none =>
        let d := d.take (deltaFileLen d)
        let r := deltaRun (s.slotImage s.runningSlot) d
        let s := (s.set F.UPD_STATUS_target_seq [] (deltaTargetSeq d)).writeTarget r.target
        if r.reason ≠ 0 then s.updRefuse r.reason
        else if d.length = deltaFileLen d then { (s.toUpd 2) with upd := { s.upd with delta := d, verifying := true } }
        else s

end Sys2Proof.Machine
end

