-- ==== Sys2Proof/Machine/Permit.lean ====
section
/-! DEFINITION. The power governor: permits, their budget and their grants (R564 to R570), and the commands about them.
What the spec leaves to a reading or a choice stands in log entry 46. -/

namespace Sys2Proof.Machine

/-- The rank of a kind of permit (R564). -/
def permitRank : PermitKind → Nat
  | .serdes => 0 | .crypto => 1 | .settReload => 2 | .dresserBurst => 3 | .deltaApply => 4 | .scrub => 5 | .bist => 6

/-- The units of one permit of a kind (R564). -/
def permitUnits : PermitKind → Nat
  | .serdes => 2 | .crypto => 2 | .settReload => 2 | .dresserBurst => 1 | .deltaApply => 3 | .scrub => 3 | .bist => 4

/-- The kinds in rank order. -/
def permitKinds : List PermitKind := [.serdes, .crypto, .settReload, .dresserBurst, .deltaApply, .scrub, .bist]

/-- Units held by a list of permits. -/
def unitsHeld (l : List (PermitKind × Nat)) : Nat := l.foldl (fun a p => a + permitUnits p.1) 0

/-- Units held now (PMT_STATUS.in_use). -/
def State.unitsInUse (s : State) : Nat := unitsHeld s.permits.held

/-- Units held under dresser-burst permits (PMT_STATUS.standing). -/
def State.unitsStanding (s : State) : Nat := unitsHeld (s.permits.held.filter (fun p => p.1 == .dresserBurst))

/-- A permit is held. -/
def State.permitHeld (s : State) (k : PermitKind) (unit : Nat) : Bool := s.permits.held.contains (k, unit)

/-- A permit is held or its request waits. -/
def State.permitKnown (s : State) (k : PermitKind) (unit : Nat) : Bool :=
  s.permitHeld k unit || s.permits.waiting.any (fun w => w.kind == k && w.unit == unit)

/-- The units of a kind fit: into the budget, and for a dresser burst into its cap (R565, R569). -/
def State.permitFits (s : State) (k : PermitKind) : Bool :=
  s.unitsInUse + permitUnits k ≤ s.get F.PMT_CFG_budget

/-- A dresser burst passes the cap of R565. -/
def State.burstCapped (s : State) (k : PermitKind) : Bool :=
  k == .dresserBurst && s.unitsStanding + permitUnits k + 4 > s.get F.PMT_CFG_budget

/-- One permit is granted: the request leaves the waiting ones; a BIST that waited for it begins to run (R573), a scrub
pass begins (R332), and a chunk that waited is consumed (R527). -/
def State.permitGrant (s : State) (w : PermitWait) : State :=
  let s := { s with permits := { held := s.permits.held ++ [(w.kind, w.unit)],
                                 waiting := s.permits.waiting.erase w } }
  let s := s.when (w.kind == .scrub) fun s => s.setB F.HOP_SCRUB_CTRL_burst_active [] true
  let s := s.when (w.kind == .deltaApply) fun s => s.chunkConsume
  s.when (w.kind == .bist && s.get F.TST_BIST_STATUS_state == 1) fun s => s.set F.TST_BIST_STATUS_state [] 2

/-- The governor examines the waiting requests in the order given, granting those that fit, and stops at the first that
does not, passing over a dresser burst that only its cap holds back (R566). -/
def State.permitScan (s : State) : List PermitWait → State
  | [] => s
  | w :: ws =>
    if s.permitFits w.kind then
      if s.burstCapped w.kind then s.permitScan ws else (s.permitGrant w).permitScan ws
    else s

/-- The waiting requests in rank order, within a rank in order of arrival (R566). -/
def State.permitOrder (s : State) : List PermitWait :=
  permitKinds.flatMap fun k => s.permits.waiting.filter (fun w => w.kind == k)

/-- The governor's examination of the waiting requests: nothing is granted once the permits are revoked (R570). -/
def State.permitExamine (s : State) : State :=
  if s.is F.PMT_STATUS_revoked then s else s.permitScan s.permitOrder

/-- The governor cycle of a time-core cycle (R567): 125 ns hold 62.5 of them. -/
def governorCycle (cycles : Nat) : Nat := 2 * cycles / 125

/-- A request joins the waiting ones: behind those of its kind that came before it, and in the order of the units among those of
its own governor cycle (R567). -/
def insertWait (w : PermitWait) : List PermitWait → List PermitWait
  | [] => [w]
  | x :: xs =>
    if x.kind == w.kind && governorCycle x.since == governorCycle w.since && w.unit < x.unit then w :: x :: xs
    else x :: insertWait w xs

/-- A requester asks for a permit (R566). A request already waiting or granted is not made twice. -/
def State.permitAsk (s : State) (k : PermitKind) (unit : Nat) : State :=
  if s.permitKnown k unit then s
  else
    let w : PermitWait := { kind := k, unit := unit, since := s.time.cycles }
    ({ s with permits := { s.permits with waiting := insertWait w s.permits.waiting } } : State).permitExamine

/-- A holder returns its permit, or a requester withdraws its request (R564, R568). -/
def State.permitGive (s : State) (k : PermitKind) (unit : Nat) : State :=
  if s.permitKnown k unit then
    ({ s with permits := { held := s.permits.held.erase (k, unit),
                           waiting := s.permits.waiting.filter (fun w => !(w.kind == k && w.unit == unit)) } } : State).permitExamine
  else s

/-- A request has waited longer than wait_limit: leaf 856 once, and one more late request (R568). -/
def State.permitLate (s : State) (k : PermitKind) (unit : Nat) : State :=
  if s.permits.waiting.any (fun w => w.kind == k && w.unit == unit && !w.late) then
    let ws := s.permits.waiting.map (fun w => if w.kind == k && w.unit == unit then { w with late := true } else w)
    (({ s with permits := { s.permits with waiting := ws } } : State).inc F.PMT_STATUS_late).leaf (governorLeaf 0) unit
  else s

/-- A write of wait_limit applies to every waiting request at once (R568): one that has waited longer counts as late now. A
millisecond is 500,000 time-core cycles. -/
def State.permitJudge (s : State) : State :=
  let limit := s.get F.PMT_CFG_wait_limit * 500000
  s.each (s.permits.waiting.filter fun w => limit < s.time.cycles - w.since) fun s w => s.permitLate w.kind w.unit

/-- What a holder of a permit does when it is revoked (R570, R541): a port in training stops, and a delta application is
abandoned. -/
def State.holderStops (s : State) (x : PermitKind × Nat) : State :=
  match x.1 with
  | .serdes => s.set F.RING_PORT_STATUS_state [x.2] 0
  | .deltaApply => { (s.toUpd 0).setB F.UPD_CHUNK_CTRL_busy [] false with upd := { image := s.upd.image } }
  | _ => s

/-- Every permit is revoked at the start of a gasp (R570), and every holder stops. A running or waiting BIST ends aborted
(R575). -/
def State.permitRevoke (s : State) : State :=
  let s := { (s.each s.permits.held fun s x => s.holderStops x) with permits := { } }
  let s := s.setB F.PMT_STATUS_revoked [] true
  let s := s.setB F.HOP_SCRUB_CTRL_burst_active [] false
  s.when (s.get F.TST_BIST_STATUS_state == 1 || s.get F.TST_BIST_STATUS_state == 2) fun s => s.set F.TST_BIST_STATUS_state [] 5

/-- PMT_STATUS as it reads. -/
def State.permitStatus (s : State) : Nat :=
  s.unitsInUse * 2 ^ 26 + s.unitsStanding * 2 ^ 20 + (s.permits.waiting.length % 256) * 2 ^ 12
    + s.get F.PMT_STATUS_revoked * 2 ^ 11 + s.get F.PMT_STATUS_late

/-- PMT_KIND(k) as it reads. -/
def State.permitKindWord (s : State) (k : Nat) : Nat :=
  match permitKinds[k]? with
  | some kind =>
    ((s.permits.held.filter (fun p => p.1 == kind)).length % 256) * 2 ^ 16
      + ((s.permits.waiting.filter (fun w => w.kind == kind)).length % 256) * 2 ^ 8 + permitUnits kind
  | none => 0

/-- PERMIT_REQUEST (R566). -/
def execPermitRequest (k : PermitKind) (unit : Nat) (s : State) : Host.Outcome State Fault Refusal :=
  if s.down .hopper then .next s.clearOut else
  .next (s.clearOut.permitAsk k unit)

/-- PERMIT_RETURN (R566). -/
def execPermitReturn (k : PermitKind) (unit : Nat) (s : State) : Host.Outcome State Fault Refusal :=
  if s.down .hopper then .next s.clearOut else
  .next (s.clearOut.permitGive k unit)

/-- PERMIT_WAIT_LIMIT (R568). -/
def execPermitWaitLimit (k : PermitKind) (unit : Nat) (s : State) : Host.Outcome State Fault Refusal :=
  if s.down .hopper then .next s.clearOut else
  .next (s.clearOut.permitLate k unit)

end Sys2Proof.Machine
end

