-- ==== Sys2Proof/Machine/Shot.lean ====
section
/-! DEFINITION. Shot lines: a hub's own lines and their sources, the own entry of each slot, the tracked copies and the
shot image (R153 to R168). What the spec leaves to a reading or a choice stands in log entry 16. -/

namespace Sys2Proof.Machine

/-- The hub's own number (CHIP_HUBNUM). -/
def State.hub (s : State) : Nat := s.get F.CHIP_HUBNUM_hub_number

/-- The hub is integrated: RING_STATUS.mode is not 0b00. -/
def State.integrated (s : State) : Bool := s.get F.RING_STATUS_mode != 0

/-- The dying gasp has begun: the edge is in Gasp or Park (R545, R558). -/
def State.dying (s : State) : Bool := s.get F.EDGE_STATUS_state == 5 || s.get F.EDGE_STATUS_state == 6

/-- The lines asserted by firmware (R158). -/
def State.fwLines (s : State) : Nat :=
  (List.range 8).foldl (fun a i => a + s.get F.SHOT_FW_DRIVE_assert [i] * 2 ^ i) 0

/-- The OR of a table of line masks. -/
def orMasks (m : List (Nat × Nat)) : Nat := m.foldl (fun a e => a ||| e.2) 0

/-- The OR of the sources of the own lines (R158; SHOT_OWN.drive). -/
def State.ownDrive (s : State) : Nat := orMasks s.shot.setts ||| orMasks s.shot.comparators ||| s.fwLines

/-- The own line states: the sources, and the lines in their stretch (R158, R161). -/
def State.ownLines (s : State) : Nat := s.ownDrive ||| s.shot.stretching

/-- The sources of the own lines have changed from `before`: an asserted line is caught by the latch of each direction
and ends its stretch; a line whose last source released it begins its stretch (R161). -/
def State.ownChanged (s : State) (before : Nat) : State :=
  let now := s.ownDrive
  let falling := (List.range 8).filter fun i => natBit before i && !natBit now i && s.is F.SHOT_LINE_CFG_stretch [i]
  let st := (List.range 8).foldl (fun a i => if natBit now i then natSetBit a i false else a) s.shot.stretching
  let st := falling.foldl (fun a i => natSetBit a i true) st
  { s with shot := { s.shot with stretching := st, latchEg := s.shot.latchEg ||| now, latchWg := s.shot.latchWg ||| now } }

/-- A sett of bench b may drive line i (R159). -/
def State.settMayDrive (s : State) (b i : Nat) : Bool := natBit (s.get F.SHOT_LINE_CFG_bench_mask [i]) b

/-- A dresser of bench b may drive line i (R159). -/
def State.dresserMayDrive (s : State) (b i : Nat) : Bool :=
  s.settMayDrive b i && s.is F.SHOT_LINE_CFG_dresser_enable [i]

/-- The lines a sett asserts are replaced (R158, R160). -/
def State.settLines (s : State) (b t : Nat) (lines : Nat) : State :=
  let before := s.ownDrive
  ({ s with shot := { s.shot with setts := smSet s.shot.setts (b * 64 + t) lines 0 } } : State).ownChanged before

/-- The lines a sett asserts now. -/
def State.settLinesOf (s : State) (b t : Nat) : Nat := smGet s.shot.setts (b * 64 + t) 0

/-- The lines a comparator asserts are replaced. -/
def State.comparatorLines (s : State) (b m : Nat) (lines : Nat) : State :=
  let before := s.ownDrive
  ({ s with shot := { s.shot with comparators := smSet s.shot.comparators (b * 64 + m) lines 0 } } : State).ownChanged before

/-- SHOT of a sett (R159, R242): the line is asserted or released, or the SHOT is refused with the bench's leaf 6. -/
def State.settShot (s : State) (b t i : Nat) (assert : Bool) : State :=
  if s.settMayDrive b i then s.settLines b t (natSetBit (s.settLinesOf b t) i assert)
  else s.leaf (benchLeaf b 6) t

/-- A comparator's condition drives its line (R159, R301), where the line permits it; at its beginning a line that does
not permit it sets the bench's leaf 6 with the comparator number. -/
def State.comparatorShot (s : State) (b m i : Nat) (on : Bool) : State :=
  if !on then s.comparatorLines b m 0
  else if s.dresserMayDrive b i then s.comparatorLines b m (2 ^ i)
  else s.leaf (benchLeaf b 6) m

/-! The own entry (R154 to R156). -/

/-- The own entry for the next slot of a direction, which the slot counts in that direction. -/
def State.ownEntry (s : State) (d : Side) : Nat :=
  let valid := s.integrated
  let healthy := s.integrated && !s.is F.RING_STATUS_transit_active && !s.dying
  let count := if d = .east then s.shot.countEg else s.shot.countWg
  let latch := if d = .east then s.shot.latchEg else s.shot.latchWg
  b2n healthy * 2 ^ 13 + b2n valid * 2 ^ 12 + ((count + 1) % 16) * 2 ^ 8 + ((s.ownLines ||| latch) % 256)

/-- A slot is transmitted in a direction (R155, R161): the slot count increases and the direction's latch is emptied. -/
def State.ownEntrySent (s : State) (d : Side) : State :=
  let e := s.ownEntry d
  match d with
  | .east => { s with shot := { s.shot with countEg := (s.shot.countEg + 1) % 16, latchEg := 0, lastEntry := e } }
  | .west => { s with shot := { s.shot with countWg := (s.shot.countWg + 1) % 16, latchWg := 0 } }

/-! Tracked copies and the image (R162 to R167). A direction of travel is named by its side: copies that arrive
east-going have travelled the hops by which the hub reaches the owner west-going (R78). -/

/-- Key of a tracked copy. -/
def copyKey (d : Side) (h : Nat) : Nat := (if d = .east then 0 else 64) + h

/-- The tracked copy of entry h in a direction. -/
def State.copyOf (s : State) (d : Side) (h : Nat) : ShotCopy := smGet s.shot.copies (copyKey d h) {}

/-- Hub h reaches this hub in a direction of travel, and in how many hops (R78, R611). -/
def State.reachedBy (s : State) (d : Side) (h : Nat) : Bool :=
  if d = .east then s.is F.RING_REACH_wg_reach [h] else s.is F.RING_REACH_eg_reach [h]

/-- The hops hub h takes to reach this hub in a direction of travel (R78). -/
def State.hopsBy (s : State) (d : Side) (h : Nat) : Nat :=
  if d = .east then s.get F.RING_REACH_wg_hops [h] else s.get F.RING_REACH_eg_hops [h]

/-- The tracked copy is current: updated within 1.0 µs and its direction reaches this hub (R163). -/
def State.copyCurrent (s : State) (d : Side) (h : Nat) : Bool := (s.copyOf d h).fresh && s.reachedBy d h

/-- The direction whose copy the image takes (R164): the nearer current one, east-going on a tie. -/
def State.imageSource (s : State) (h : Nat) : Option Side :=
  match s.copyCurrent .east h, s.copyCurrent .west h with
  | true, true => if nearer (s.hopsBy .west h) (s.hopsBy .east h) then some .west else some .east
  | true, false => some .east
  | false, true => some .west
  | false, false => none

/-- The image takes entry h anew from the tracked copies (R164); an entry that becomes stale is counted, and sets the
shot-stale leaf when its hub is in the hub map (R167). -/
def State.imageRefresh (s : State) (h : Nat) : State :=
  if h = s.hub then s
  else
    match s.imageSource h with
    | some d =>
      let s := s.set F.SHOT_IMAGE_entry [h] (s.copyOf d h).entry
      let s := s.setB F.SHOT_IMAGE_src_wg [h] (d == .west)
      s.setB F.SHOT_IMAGE_stale [h] false
    | none =>
      if s.is F.SHOT_IMAGE_stale [h] then s
      else
        let s := s.setB F.SHOT_IMAGE_stale [h] true
        let s := s.inc F.SHOT_EVENTS_stale_events [h]
        s.when (s.is F.RING_HUBMAP_INFO_present [h]) fun s => s.leaf (ringLeaf 16)

/-- The failsafe policy of a line (R166). -/
def State.failsafe (s : State) (line : Nat) : Nat :=
  natBits (s.rd .SHOT_FAILSAFE [line / 16]) (2 * (line % 16) + 1) (2 * (line % 16))

/-- The effective state of a line (R165, R166). -/
def State.lineState (s : State) (line : Nat) : Bool :=
  let h := line / 8
  let i := line % 8
  if h = s.hub then natBit s.ownLines i
  else
    let e := s.get F.SHOT_IMAGE_entry [h]
    if !s.is F.SHOT_IMAGE_stale [h] && natBit e 13 then natBit e i
    else match s.failsafe line with
      | 1 => true
      | 2 => false
      | _ => natBit e i

/-- The stale flag of hub h as the benches see it (R168). -/
def State.hubStale (s : State) (h : Nat) : Bool := if h = s.hub then false else s.is F.SHOT_IMAGE_stale [h]

/-- SHOT_IMAGE(h) as it reads. -/
def State.imageWord (s : State) (h : Nat) : Nat :=
  let eff := (List.range 8).foldl (fun a i => a + b2n (s.lineState (8 * h + i)) * 2 ^ i) 0
  if h = s.hub then eff * 2 ^ 24 + s.shot.lastEntry
  else natSetBits (s.rd .SHOT_IMAGE [h]) 31 24 eff

/-- SHOT_OWN as it reads. -/
def State.shotOwnWord (s : State) : Nat := (s.ownDrive % 256) * 2 ^ 16 + s.shot.lastEntry

/-- A copy of entry h that passed the trust test arrives in a direction (R162): it sets the reach flag (R611), and with a
newer sequence, or a stale tracked copy, it updates the tracked copy; a copy that fails only the sequence test is counted
as refused. -/
def State.copyArrives (s : State) (d : Side) (h entry : Nat) : State :=
  if h = s.hub || !natBit entry 12 then s
  else
    let current := s.copyCurrent d h
    let s := if d = .east then s.setB F.RING_REACH_wg_reach [h] true else s.setB F.RING_REACH_eg_reach [h] true
    let held := natBits (s.copyOf d h).entry 11 8
    let diff := (natBits entry 11 8 + 16 - held) % 16
    if !current || (1 ≤ diff && diff ≤ 7) then
      let s := { s with shot := { s.shot with copies := smSet s.shot.copies (copyKey d h) { entry := entry, fresh := true } {} } }
      let s := { s with ring := { s.ring with currentSeen := natSetBit s.ring.currentSeen h true } }
      s.imageRefresh h
    else s.inc F.SHOT_EVENTS_refused [h]

/-- 1.0 µs has passed since a tracked copy was last updated (R163). -/
def State.copyStale (s : State) (d : Side) (h : Nat) : State :=
  let c := s.copyOf d h
  let s := { s with shot := { s.shot with copies := smSet s.shot.copies (copyKey d h) { c with fresh := false } {} } }
  s.imageRefresh h

/-- A write of SHOT_FW_DRIVE (R158, R159): a 1 while fw_enable is 0 is ignored with the ring's leaf 18. -/
def State.fwDriveWrite (s : State) (i val : Nat) : State :=
  if val % 2 = 1 ∧ ¬ s.is F.SHOT_LINE_CFG_fw_enable [i] then s.leaf (ringLeaf 18)
  else
    let before := s.ownDrive
    (s.set F.SHOT_FW_DRIVE_assert [i] (val % 2)).ownChanged before

/-- SHOT_STRETCH_END (R161): the stretch of line i ends. -/
def execShotStretchEnd (i : Nat) (s : State) : Host.Outcome State Fault Refusal :=
  if s.down .ring then .next s.clearOut else
  let s := s.clearOut
  .next { s with shot := { s.shot with stretching := natSetBit s.shot.stretching i false } }

/-- SHOT_STALE_TIMEOUT (R163, R167). -/
def execShotStaleTimeout (d : Side) (h : Nat) (s : State) : Host.Outcome State Fault Refusal :=
  if s.down .ring then .next s.clearOut else
  .next (s.clearOut.copyStale d h)

/-- A reach flag of hub h clears (R611), and the tracked copy whose direction no longer reaches this hub is stale (R163).
The direction names the way this hub reaches h. -/
def State.reachLost (s : State) (d : Side) (h : Nat) : State :=
  let s := if d = .east then s.setB F.RING_REACH_eg_reach [h] false else s.setB F.RING_REACH_wg_reach [h] false
  s.imageRefresh h

end Sys2Proof.Machine
end

