-- ==== Sys2Proof/Machine/Time.lean ====
section
/-! DEFINITION. The time core: the two domains, their sources and servos, snapshots, captures, domain selection, PPS and
the ring reference (R358 to R392). Angles of time θ are in units of 2^-16 ns unless a name says otherwise. What the spec
leaves to a reading or a choice stands in log entries 26 and 3. -/

namespace Sys2Proof.Machine

/-- A domain beside its registers. -/
def State.dom (s : State) (d : Dom) : DomainState := match d with | .a => s.time.a | .b => s.time.b

/-- The state with one domain replaced. -/
def State.setDom (s : State) (d : Dom) (x : DomainState) : State :=
  match d with
  | .a => { s with time := { s.time with a := x } }
  | .b => { s with time := { s.time with b := x } }

/-- The index of a domain's registers. -/
def domIx : Dom → List Nat
  | .a => [0]
  | .b => [1]

/-- The domain of a selection bit: 0 A, 1 B. -/
def domOf (bit : Nat) : Dom := if bit % 2 = 1 then .b else .a

/-- The selection bit of a domain. -/
def domBit : Dom → Nat
  | .a => 0
  | .b => 1

/-- The time of a domain in units of 2^-39 ns. -/
def State.now (s : State) (d : Dom) : Nat := (s.dom d).t

/-- The time of a domain in units of 2^-16 ns. -/
def State.now16 (s : State) (d : Dom) : Nat := s.now d / 2 ^ 23

/-- A time of 2^-16 ns units as domain units. -/
def from16 (t : Nat) : Nat := t * 2 ^ 23

/-- One second in units of 2^-16 ns. -/
def sec16 : Nat := 1000000000 * 2 ^ 16

/-- ±500 ppm in units of 2^-40 (R360). -/
def rateLimit : Int := 549755813

/-- A rate held within ±500 ppm. -/
def clampRate (r : Int) : Int := max (-rateLimit) (min r rateLimit)

/-- The rate adjustment of a domain (R360). -/
def State.rate (s : State) (d : Dom) : Int := toSigned (s.rd .TIME_DOM_RATE (domIx d)) 32

/-- The rate adjustment set. -/
def State.setRate (s : State) (d : Dom) (r : Int) : State := s.wr .TIME_DOM_RATE (domIx d) (ofSigned (clampRate r) 32)

/-- The domain states of R363. -/
def freeRun : Nat := 0
def acquiring : Nat := 1
def locked : Nat := 2
def holdover : Nat := 3

/-- A domain's state. -/
def State.domState (s : State) (d : Dom) : Nat := s.get F.TIME_DOM_STATUS_state (domIx d)

/-- A domain's traceability. -/
def State.traceable (s : State) (d : Dom) : Bool := s.is F.TIME_DOM_STATUS_traceable (domIx d)

/-- A change of a domain's state, which sets the domain's leaf (R484, time core 4 and 5). -/
def State.toDomState (s : State) (d : Dom) (st : Nat) : State :=
  if s.domState d = st then s
  else
    let s := s.set F.TIME_DOM_STATUS_state (domIx d) st
    let s := s.when (st == freeRun || st == acquiring) fun s => s.setB F.TIME_DOM_STATUS_traceable (domIx d) false
    s.leaf (timeLeaf (4 + domBit d))

/-- A step of a domain by θ (R358, R365 to R367), counted in TIME_DOM_STATUS.steps. -/
def State.domStep (s : State) (d : Dom) (theta : Int) : State :=
  let x := s.dom d
  let t := ((x.t : Int) + theta * (2 ^ 23 : Nat)).toNat
  let s := s.setDom d { x with t := t, seconds := x.seconds - roundDiv theta sec16 }
  s.inc F.TIME_DOM_STATUS_steps (domIx d)

/-- This hub is ring time master. -/
def State.isMaster (s : State) : Bool := s.is F.RING_START_STATUS_is_master

/-- Domain A follows the ring reference: integrated, and not the ring time master (R366). -/
def State.followsRing (s : State) : Bool := s.integrated && !s.isMaster

/-- The configured source codes of a domain (R364). -/
def State.src1 (s : State) (d : Dom) : Nat := s.get F.TIME_DOM_CFG_src1 (domIx d)
def State.src2 (s : State) (d : Dom) : Nat := s.get F.TIME_DOM_CFG_src2 (domIx d)

/-- A source code is valid now: source 4 while domain A is not in free-run, the others while measurements come (R364). -/
def State.sourceValid (s : State) (d : Dom) (second : Bool) : Bool :=
  let code := if second then s.src2 d else s.src1 d
  if code = 4 then d == .b && s.domState .a != freeRun
  else if code = 2 then (s.dom d).ppsValid
  else if code = 3 then (s.dom d).fwValid
  else false

/-- The source in use: src1 while it is valid, else src2 while it is valid, else none (R364). -/
def State.sourceInUse (s : State) (d : Dom) : Option Nat :=
  if s.sourceValid d false then some (s.src1 d) else if s.sourceValid d true then some (s.src2 d) else none

/-- on_src2 shows the source in use. -/
def State.showSource (s : State) (d : Dom) : State :=
  s.setB F.TIME_DOM_STATUS_on_src2 (domIx d) (!s.sourceValid d false && s.sourceValid d true)

/-- A domain may step by its own measurements (R365 to R367): B always; A only on a master chosen at cold start that has
not yet originated a reference slot. -/
def State.mayStep (s : State) (d : Dom) : Bool :=
  match d with
  | .b => true
  | .a => s.isMaster && !s.ring.originated

/-- The round length in ns (R59). -/
def State.roundNs (s : State) : Nat :=
  match s.get F.RING_CTRL_round_len with | 0 => 10000 | 1 => 20000 | _ => 40000

/-- The round length in units of 2^-16 ns. -/
def State.round16 (s : State) : Nat := s.roundNs * 2 ^ 16

/-- The number of slots per direction (R59). -/
def State.slotsPerDir (s : State) : Nat := s.roundNs / 125

/-- The current round number (R60). -/
def State.round (s : State) : Nat := s.rd .RING_ROUND_HI * 2 ^ 32 + s.rd .RING_ROUND_LO

/-- The round number set. -/
def State.setRound (s : State) (r : Nat) : State := (s.wr .RING_ROUND_LO [] (r % 2 ^ 32)).wr .RING_ROUND_HI [] (r / 2 ^ 32)

/-- A gain times θ (R365): proportional to it, and 0 at θ = 0. -/
def gainTerm (g : Nat × Nat) (theta : Int) : Int := roundDiv (theta * (g.1 : Int)) (g.2 + 1)

/-- The servo slews a domain by a measurement (R365): f ← f + ki × θ, rate ← f + kp × θ. -/
def State.slew (s : State) (d : Dom) (ring : Bool) (theta : Int) : State :=
  let x := s.dom d
  let f := x.freq + gainTerm (Config.servoI ring) theta
  (s.setDom d { x with freq := f }).setRate d (f + gainTerm (Config.servoP ring) theta)

/-- The master slews the remainder of a step with a rate no more than 10 ppm away from its frequency term (R367). -/
def State.slewRemainder (s : State) (theta : Int) : State :=
  let x := s.dom .a
  let f := x.freq + gainTerm (Config.servoI false) theta
  let ppm10 : Int := 10995116
  (s.setDom .a { x with freq := f }).setRate .a (f + max (-ppm10) (min (gainTerm (Config.servoP false) theta) ppm10))

/-- A measurement with θ becomes the domain's last one: TIME_DOM_OFFSET (2^-8 ns, saturating) and the run counts of
R363. -/
def State.recordTheta (s : State) (d : Dom) (theta : Int) : State :=
  let x := s.dom d
  let mag := theta.natAbs
  let x := { x with theta := theta, measured := true,
                    low := if mag ≤ 50 * 2 ^ 16 then satInc x.low 8 else 0,
                    high := if mag > 1000 * 2 ^ 16 then satInc x.high 4 else 0 }
  (s.setDom d x).wr .TIME_DOM_OFFSET (domIx d) (ofSigned (satSigned (theta / 256) 32) 32)

/-- The run counts begin anew when a domain changes state. -/
def State.clearRuns (s : State) (d : Dom) : State := s.setDom d { s.dom d with low := 0, high := 0 }

/-- The state changes a measurement makes (R363): a valid source ends free-run and holdover; 4 measurements above 1 µs end
locked; 8 of at most 50 ns lock. -/
def State.measureState (s : State) (d : Dom) (traceable : Bool) : State :=
  let st := s.domState d
  let s := s.when (st == freeRun || st == holdover) fun s =>
    let low := (s.dom d).low
    let s := (s.clearRuns d).toDomState d acquiring
    s.setDom d { s.dom d with low := min low 1 }
  let s := s.when (st == locked && (s.dom d).high ≥ 4) fun s => (s.clearRuns d).toDomState d acquiring
  let s := s.when (s.domState d == acquiring && (s.dom d).low ≥ 8) fun s => s.toDomState d locked
  s.when (s.domState d == locked) fun s => s.setB F.TIME_DOM_STATUS_traceable (domIx d) traceable

/-- A step announced by a master whose ring is integrated: N whole rounds, at least 4 rounds ahead, and the remainder
slewed (R367). A step already pending stands. -/
def State.announceStep (s : State) (theta : Int) : State :=
  let n := roundDiv theta s.round16
  let rest := theta - n * (s.round16 : Nat)
  if n = 0 || s.time.stepRound.isSome then s.slewRemainder rest
  else
    let s := { s with time := { s.time with stepRound := some (s.round + 5), stepN := n } }
    (s.setB F.TIME_DOM_STATUS_step_pending [0] true).slewRemainder rest

/-- The ring takes its round from domain A (R359): a master that steps A before its first reference slot takes it anew. -/
def State.roundFollows (s : State) (d : Dom) : State :=
  s.when (d == .a && s.isMaster) fun s => s.setRound (s.now16 .a / s.round16)

/-- A measurement of a domain by its source in use (R363, R365, R367). -/
def State.measure (s : State) (d : Dom) (theta : Int) (traceable : Bool) (clockClass : Nat) : State :=
  let s := s.recordTheta d theta
  let s := s.set F.TIME_DOM_STATUS_clock_class (domIx d) clockClass
  let s := s.measureState d traceable
  let st := s.domState d
  if (st == freeRun || st == acquiring) && theta.natAbs ≥ 1000 * 2 ^ 16 then
    if s.mayStep d then (s.domStep d theta).roundFollows d
    else if d == .a && s.isMaster then s.announceStep theta
    else s.slew d false theta
  else s.slew d false theta

/-- A firmware measurement (R364): TIME_MEAS in units of 0.5 ns, with TIME_MEAS_Q. It gives source 2 its whole seconds,
makes source 3 valid, and is applied when source 3 is in use. -/
def State.timeMeasurement (s : State) (d : Dom) (lo hi : Nat) : State :=
  let half := toSigned (lo % 2 ^ 32 + hi % 2 ^ 32 * 2 ^ 32) 64
  let theta := half * (2 ^ 15 : Nat)
  let x := s.dom d
  let s := s.setDom d { x with seconds := roundDiv theta sec16, fwValid := true }
  let s := s.showSource d
  if d == .a && s.followsRing then s
  else if s.sourceInUse d = some 3 then
    s.measure d theta (s.is F.TIME_MEAS_Q_traceable (domIx d)) (s.get F.TIME_MEAS_Q_clock_class (domIx d))
  else s

/-- A PPS edge as a measurement of source 2 (R364, R382): the phase against the nearest whole second, and the whole
seconds from the last TIME_MEAS write. -/
def State.ppsMeasurement (s : State) (d : Dom) : State :=
  let x := s.dom d
  let s := s.setDom d { x with ppsValid := true }
  let s := s.showSource d
  if d == .a && s.followsRing then s
  else if s.sourceInUse d = some 2 then
    let phase := s.now16 d % sec16
    let near : Int := if 2 * phase ≤ sec16 then -(phase : Int) else (sec16 - phase : Nat)
    s.measure d (near + x.seconds * (sec16 : Nat)) (s.is F.TIME_MEAS_Q_traceable (domIx d))
      (s.get F.TIME_MEAS_Q_clock_class (domIx d))
  else s

/-- Time inaccuracy of domain A in ns (R613). -/
def State.timeInaccuracy (s : State) : Nat :=
  let x := s.time.a
  let last := (x.theta.natAbs + 65535) / 65536
  let v := if s.domState .a = locked then last + 4
    else if s.domState .a = acquiring then (if x.measured then last else 2 ^ 32 - 1)
    else if s.domState .a = holdover then x.inaccuracy + 100 * ((s.time.cycles - x.heldSince) / 500000000)
    else 2 ^ 32 - 1
  min v (2 ^ 32 - 1)

/-- Every source of a domain is lost: from locked or acquiring it enters holdover (R363), traceable only with hold_trace
seconds to keep it, and it keeps its frequency term (R392). -/
def State.enterHoldover (s : State) (d : Dom) : State :=
  let st := s.domState d
  if st == locked || st == acquiring then
    let inacc := s.timeInaccuracy
    let keep := s.traceable d && s.is F.TIME_DOM_CFG_hold_trace (domIx d)
    let s := (s.clearRuns d).setDom d { s.dom d with inaccuracy := inacc, heldSince := s.time.cycles, low := 0, high := 0 }
    let s := s.toDomState d holdover
    let s := s.setB F.TIME_DOM_STATUS_traceable (domIx d) keep
    s.setRate d (s.dom d).freq
  else s

/-- A domain with no valid source left enters holdover. -/
def State.checkSources (s : State) (d : Dom) : State :=
  let s := s.showSource d
  if (d == .a && s.followsRing) || (s.sourceInUse d).isSome then s else s.enterHoldover d

/-- One cycle of the 500 MHz time-core clock for one domain: 2 ns × (1 + rate × 2^-40) (R360). -/
def State.domCycle (s : State) (d : Dom) : State :=
  let x := s.dom d
  s.setDom d { x with t := x.t + (2 ^ 40 + s.rate d).toNat }

/-- Domain B under source 4 equals domain A in every cycle (R364, R365). -/
def State.followA (s : State) : State :=
  let s := s.showSource .b
  if s.sourceInUse .b = some 4 then
    let s := s.setDom .b { s.dom .b with t := s.now .a, freq := s.time.a.freq }
    let s := s.setRate .b (s.rate .a)
    let s := s.recordTheta .b 0
    let s := s.set F.TIME_DOM_STATUS_clock_class [1] (s.get F.TIME_DOM_STATUS_clock_class [0])
    s.measureState .b (s.traceable .a)
  else s

/-- One time-core cycle. -/
def State.timeCycle (s : State) : State :=
  let s := ((s.domCycle .a).domCycle .b).followA
  { s with time := { s.time with cycles := s.time.cycles + 1 } }

/-! Snapshots and captures. -/

/-- A snapshot of both domains for a path (R362). -/
def State.timeSnap (s : State) (latch : Nat) : State :=
  { s with time := { s.time with snaps := smSet s.time.snaps latch { a := s.now .a, b := s.now .b } {} } }

/-- A path's snapshot of a domain. -/
def State.snapOf (s : State) (latch d : Nat) : Nat :=
  let x := smGet s.time.snaps latch {}
  if d = 0 then x.a else x.b

/-- A capture of both domains (R386), at an edge of PPS_IN or by cap_now; one that was not read is missed. With both in one
time-core cycle the edge is captured, and cap_now has no effect. -/
def State.capture (s : State) (edge : Bool) : State :=
  let now := s.time.cycles
  if !edge ∧ s.time.capMade = some (now, true) then s
  else
  let missed := s.time.capUnread && !(edge && s.time.capMade == some (now, false))
  let s := s.when missed fun s => (s.setB F.TIME_PPS_CFG_cap_missed [] true).leaf (timeLeaf 6)
  let put (s : State) (d : Nat) (t : Nat) : State :=
    (s.wr .TIME_CAP_NS [d] (quarterOf t * 2 ^ 30 + nsOf t)).wr .TIME_CAP_SEC [d] (secOf t % 2 ^ 32)
  let s := put (put s 0 (s.now .a)) 1 (s.now .b)
  { s with time := { s.time with capUnread := true, capMade := some (now, edge) } }

/-- TIME_CAP_NS(0) has been read (R386). -/
def State.captureRead (s : State) : State :=
  let s := s.setB F.TIME_PPS_CFG_cap_missed [] false
  { s with time := { s.time with capUnread := false } }

/-! Domain selection (R375, R377). -/

/-- The domain a consumer reads. -/
def State.domOfConsumer (s : State) (c : Consumer) : Dom :=
  match c with
  | .bench b => domOf (s.rd .TIME_SEL / 2 ^ b)
  | .can => domOf (s.get F.TIME_SEL_can)
  | .ethPort p => domOf (s.get F.TIME_PTP_PORT_domain [p])
  | .ppsOut => domOf (s.get F.TIME_PPS_CFG_out_domain)
  | .trigger k => domOf (s.get F.TIME_TRIG_CFG_domain [k])

/-- The consumer's selection bit is rewritten. -/
def State.setConsumer (s : State) (c : Consumer) (d : Dom) : State :=
  match c with
  | .bench b => s.wr .TIME_SEL [] (natSetBits (s.rd .TIME_SEL) b b (domBit d))
  | .can => s.set F.TIME_SEL_can [] (domBit d)
  | .ethPort p => s.set F.TIME_PTP_PORT_domain [p] (domBit d)
  | .ppsOut => s.set F.TIME_PPS_CFG_out_domain [] (domBit d)
  | .trigger k => s.set F.TIME_TRIG_CFG_domain [k] (domBit d)

/-- PPS_OUT may be high (R383): enabled, and its domain not in free-run. -/
def State.ppsMay (s : State) : Bool := s.is F.TIME_PPS_CFG_out_enable && s.domState (s.domOfConsumer .ppsOut) != freeRun

/-- PPS_OUT goes low when it may not be high any more (R383). -/
def State.ppsSettle (s : State) : State :=
  s.when (s.time.ppsOut && !s.ppsMay) fun s => ({ s with time := { s.time with ppsOut := false } } : State).emit (.pps false)

/-- A consumer goes to a domain. -/
def State.switchTo (s : State) (c : Consumer) (d : Dom) : State := (s.setConsumer c d).ppsSettle

/-- A change of selection is asked for: it waits for the whole millisecond of the new domain (R375); the newest request
of a consumer counts, and a consumer that was switched and is sent back by the write may be switched again (R377). -/
def State.selectDomain (s : State) (c : Consumer) (d : Dom) : State :=
  let rest := s.time.selects.filter (fun e => !(e.1 == c))
  if s.domOfConsumer c = d then { s with time := { s.time with selects := rest } }
  else { s with time := { s.time with
           selects := rest ++ [(c, d)], autoSwitched := s.time.autoSwitched.filter (fun e => !(e == c)) } }

/-- The other domain. -/
def otherDom : Dom → Dom
  | .a => .b
  | .b => .a

/-- The number of a consumer in a leaf's record (CAUSE_REC.unit): its bench, MAC or trigger, and the CAN island. -/
def consumerUnit : Consumer → Nat
  | .bench b => b
  | .can => 17
  | .ethPort p => p
  | .ppsOut => 0
  | .trigger k => k

/-! The ring reference (R366 to R371). -/

/-- A step of N rounds announced in the reference takes effect, and the round numbering continues from the stepped time
(R60, R367). -/
def State.ringStepN (s : State) : State :=
  match s.time.stepRound with
  | some r =>
    if r ≤ s.round then
      let n := s.time.stepN
      let s := s.domStep .a (n * (s.round16 : Nat))
      let s := s.setRound ((s.round : Int) + n).toNat
      let s := { s with time := { s.time with stepRound := none, stepN := 0 } }
      s.setB F.TIME_DOM_STATUS_step_pending [0] false
    else s
  | none => s

/-- A reference measurement of domain A (R366, R370): it slews; when the fourth in succession exceeds 1 µs, domain A
steps at the next round boundary. -/
def State.measureRing (s : State) (theta : Int) (traceable : Bool) (clockClass : Nat) : State :=
  let s := s.recordTheta .a theta
  let s := s.set F.TIME_DOM_STATUS_clock_class [0] clockClass
  let wasHigh := (s.dom .a).high ≥ 4
  let s := s.measureState .a traceable
  let s := s.when wasHigh fun s => { (s.clearRuns .a) with time := { (s.clearRuns .a).time with ringStep := some theta } }
  s.slew .a true theta

/-- TIME_SNAPSHOT (R362): a write to TIME_SNAP; its register write is judged in the access file. -/
def State.snapshotFor (s : State) (latch : Nat) : State := s.timeSnap latch

/-- PPS_IN_EDGE (R382, R386): an edge of the polarity in cap_src is stamped, captured, and measures every domain whose
source in use is 2. -/
def execPpsInEdge (rising : Bool) (s : State) : Host.Outcome State Fault Refusal :=
  if s.down .timeCore then .next s.clearOut else
  let s := s.clearOut
  let sel := s.get F.TIME_PPS_CFG_cap_src
  if (sel = 1 ∧ rising) ∨ (sel = 2 ∧ ¬ rising) then .next (((s.capture true).ppsMeasurement .a).ppsMeasurement .b)
  else .next s

/-- SOURCE_LOSS_TIMEOUT (R363, R364): no measurement of a source for its time, so it is lost. -/
def execSourceLossTimeout (d : Dom) (second : Bool) (s : State) : Host.Outcome State Fault Refusal :=
  if s.down .timeCore then .next s.clearOut else
  let s := s.clearOut
  let x := s.dom d
  let code := if second then s.src2 d else s.src1 d
  let s := s.setDom d (if code = 2 then { x with ppsValid := false } else if code = 3 then { x with fwValid := false } else x)
  .next (s.checkSources d)

/-- HOLD_TRACE_EXPIRY (R363): hold_trace seconds in holdover have passed, so traceable clears. -/
def execHoldTraceExpiry (d : Dom) (s : State) : Host.Outcome State Fault Refusal :=
  if s.down .timeCore then .next s.clearOut else
  let s := s.clearOut
  .next (s.when (s.domState d == holdover) fun s => s.setB F.TIME_DOM_STATUS_traceable (domIx d) false)

/-- DOMAIN_SELECT_APPLY (R375): the pending change of a consumer takes effect. -/
def execDomainSelectApply (c : Consumer) (s : State) : Host.Outcome State Fault Refusal :=
  if s.down .timeCore then .next s.clearOut else
  let s := s.clearOut
  match s.time.selects.find? (fun e => e.1 == c) with
  | some (_, d) =>
    let s := s.switchTo c d
    .next { s with time := { s.time with selects := s.time.selects.filter (fun e => !(e.1 == c)) } }
  | none => .next s

/-- DOMAIN_AUTO_SWITCH (R377): with auto = 1, a consumer whose domain is not traceable is switched to the other domain
when that one is locked and traceable, and the domain-switch leaf is set; it returns only by a write. -/
def execDomainAutoSwitch (c : Consumer) (s : State) : Host.Outcome State Fault Refusal :=
  if s.down .timeCore then .next s.clearOut else
  let s := s.clearOut
  let d := s.domOfConsumer c
  let o := otherDom d
  if s.is F.TIME_SEL_auto ∧ ¬ s.time.autoSwitched.contains c ∧ ¬ s.traceable d ∧ s.domState o = locked ∧ s.traceable o then
    let s := s.switchTo c o
    let s := { s with time := { s.time with selects := s.time.selects.filter (fun e => !(e.1 == c)),
                                            autoSwitched := s.time.autoSwitched ++ [c] } }
    .next (s.leaf (timeLeaf 2) (consumerUnit c))
  else .next s

/-- PPS_OUT_EDGE (R383): PPS_OUT rises at the whole second plus offset while enabled and its domain is not in free-run,
and falls after width_ms. -/
def execPpsOutEdge (rising : Bool) (s : State) : Host.Outcome State Fault Refusal :=
  if s.down .timeCore then .next s.clearOut else
  let s := s.clearOut
  let lvl := rising && s.ppsMay
  .next (({ s with time := { s.time with ppsOut := lvl } } : State).emit (.pps lvl))

end Sys2Proof.Machine
end

