-- ==== Sys2Proof/Machine/Twin.lean ====
section
/-! DEFINITION. Twins: claims, heartbeats, tracking, holders, roles and hold-off (R439 to R455). What the spec leaves to
a reading or a choice stands in log entry 34. -/

namespace Sys2Proof.Machine

/-! A claim's fields (R440). -/

/-- A claim from its priority, health and hub number. -/
def claimOf (priority health hub : Nat) : Nat := (priority % 64) * 2 ^ 10 + (health % 16) * 2 ^ 6 + hub % 64

/-- The health of a claim. -/
def claimHealth (c : Nat) : Nat := natBits c 9 6

/-- The hub number of a claim. -/
def claimHub (c : Nat) : Nat := natBits c 5 0

/-- A cause that forces the presented health to 0 holds now (R442). -/
def State.healthForced (s : State) : Bool := s.twin.healthExpired || s.chipFault || s.dying

/-- TWIN_STATUS.forced: the gasp outranks the FAULT pair, which outranks the watchdog. -/
def State.forcedCode (s : State) : Nat :=
  if s.dying then 3 else if s.chipFault then 2 else if s.twin.healthExpired then 1 else 0

/-- The health presented without an override (R441, R442). -/
def State.presentedHealth (s : State) : Nat := if s.healthForced then 0 else s.get F.TWIN_HEALTH_health

/-- This hub is a member of pair k. -/
def State.twinMember (s : State) (k : Nat) : Bool := s.is F.TWIN_PAIR_CFG_member [k]

/-- The claim this hub presents for pair k (R441): the first row that applies. After hold-off the base priority is
presented from the next heartbeat on (R449). -/
def State.ownClaim (s : State) (k : Nat) : Nat :=
  let base := s.get F.TWIN_PAIR_CFG_base [k]
  let health := s.get F.TWIN_HEALTH_health
  let mode := s.get F.TWIN_OVERRIDE_mode [k]
  if mode = 2 then claimOf base 0 s.hub
  else if s.healthForced then claimOf base 0 s.hub
  else if mode = 1 then claimOf 63 health s.hub
  else if s.is F.TWIN_PAIR_STATUS_holdoff [k] || s.twin.untilBeat.contains k then claimOf 0 health s.hub
  else claimOf base health s.hub

/-- The tracking entry m of pair k. -/
def State.trackOf (s : State) (k m : Nat) : TwinMember := smGet s.twin.members (2 * k + m) {}

/-- The tracking entry replaced. -/
def State.setTrack (s : State) (k m : Nat) (x : TwinMember) : State :=
  { s with twin := { s.twin with members := smSet s.twin.members (2 * k + m) x {} } }

/-- Rounds since the claim of an entry (TWIN_MEMBER.age). -/
def State.claimAge (s : State) (k m : Nat) : Nat := min (s.round - (s.trackOf k m).round) 127

/-- The entry's claim counts (R446). -/
def State.claimCounts (s : State) (k m : Nat) : Bool := s.is F.TWIN_MEMBER_valid [k, m] && s.claimAge k m ≤ 2

/-- The counted claims of the other members of pair k. -/
def State.otherClaims (s : State) (k : Nat) : List Nat :=
  ([0, 1].filter fun m => s.claimCounts k m).map fun m => s.get F.TWIN_MEMBER_claim [k, m]

/-- The counted claims of pair k, the hub's own among them (R447). -/
def State.countedClaims (s : State) (k : Nat) : List Nat :=
  (if s.twinMember k then [s.ownClaim k] else []) ++ s.otherClaims k

/-- The highest claim with health 1 to 15, if any. -/
def bestClaim (cs : List Nat) : Option Nat :=
  (cs.filter fun c => claimHealth c != 0).foldl (fun a c => match a with | none => some c | some b => some (max b c)) none

/-- The holder's claim of pair k as this hub sees it (R447). -/
def State.holder (s : State) (k : Nat) : Option Nat := bestClaim (s.countedClaims k)

/-- Another member of pair k has a counted claim with health 1 to 15 (R449). -/
def State.healthyOther (s : State) (k : Nat) : Bool := (s.otherClaims k).any fun c => claimHealth c != 0

/-- The role of this hub in pair k (R448). -/
def State.twinRole (s : State) (k : Nat) : Nat :=
  if !s.twinMember k then 0
  else if claimHealth (s.ownClaim k) = 0 then 3
  else if s.holder k = some (s.ownClaim k) then 1
  else 2

/-- The hold-off of pair k ends (R449): the base priority is presented from the next heartbeat on. -/
def State.endHoldoff (s : State) (k : Nat) : State :=
  if s.is F.TWIN_PAIR_STATUS_holdoff [k] then
    let s := s.setB F.TWIN_PAIR_STATUS_holdoff [k] false
    { s with twin := { s.twin with untilBeat := s.twin.untilBeat.filter (· != k) ++ [k] } }
  else s

/-- Pair k is judged anew (R447 to R449): hold-off ends early without a healthy other member; the holder and the role are
shown, and a change of holder hub sets its leaf. -/
def State.twinRefresh (s : State) (k : Nat) : State :=
  let s := s.when (!s.healthyOther k) fun s => s.endHoldoff k
  let before := if s.is F.TWIN_PAIR_STATUS_holder_valid [k] then some (claimHub (s.get F.TWIN_PAIR_STATUS_holder [k])) else none
  let now := s.holder k
  let s := s.setB F.TWIN_PAIR_STATUS_holder_valid [k] now.isSome
  let s := s.set F.TWIN_PAIR_STATUS_holder [k] (now.getD 0)
  let s := s.set F.TWIN_PAIR_STATUS_role [k] (s.twinRole k)
  s.when (before != now.map claimHub) fun s => s.leaf (twinLeaf 3)

/-- The 32 pairs. -/
def allPairs : List Nat := List.range 32

/-- Every pair is judged anew. -/
def State.twinRefreshAll (s : State) : State := s.each allPairs fun s k => s.twinRefresh k

/-- A member enters hold-off (R449), provided a healthy other member is counted; a hold-off of 0 ends at once. -/
def State.enterHoldoff (s : State) (k : Nat) : State :=
  s.when (s.twinMember k && s.healthyOther k && s.is F.TWIN_PAIR_CFG_holdoff [k]) fun s => s.setB F.TWIN_PAIR_STATUS_holdoff [k] true

/-- The presented health of every pair may have changed from `before` (by pair): a change from 0 to 1–15 enters hold-off
(R449); then every pair is judged anew. -/
def State.healthChanged (s : State) (before : List Nat) : State :=
  let s := s.each allPairs fun s k =>
    s.when (claimHealth (before.getD k 0) == 0 && claimHealth (s.ownClaim k) != 0) fun s => s.enterHoldoff k
  s.twinRefreshAll

/-- The claims presented now, by pair. -/
def State.ownClaims (s : State) : List Nat := allPairs.map s.ownClaim

/-- A cause begins to force health to 0 (R442): leaf 4 of the twins, and every pair judged anew. -/
def State.healthForcedNow (s : State) : State := (s.leaf (twinLeaf 4)).twinRefreshAll

/-- A condition of R491 arises; entering the chip-fault state forces the presented health to 0 (R442). -/
def State.raiseFault (s : State) (bit : Nat) : State :=
  let was := s.chipFault
  let s := s.enterFault bit
  if was then s else s.healthForcedNow

/-- TWIN_HEALTH written (R442): the watchdog restarts. -/
def State.healthWrite (s : State) (val : Nat) : State :=
  let before := s.ownClaims
  let s := s.set F.TWIN_HEALTH_health [] val
  ({ s with twin := { s.twin with healthExpired := false } } : State).healthChanged before

/-- The override of a pair set by a claim-override command (R450). -/
def State.overrideWrite (s : State) (k mode : Nat) : State :=
  let before := s.ownClaims
  (s.set F.TWIN_OVERRIDE_mode [k] mode).healthChanged before

/-! Heartbeats (R443, R445). -/

/-- The member mask of this hub. -/
def State.memberMask (s : State) : Nat := allPairs.foldl (fun a k => a + b2n (s.twinMember k) * 2 ^ k) 0

/-- The heartbeat cell (R443). -/
def State.heartbeat (s : State) : List Byte :=
  let claims := allPairs.flatMap fun k => beBytes 2 (if s.twinMember k then s.ownClaim k else 0)
  [byte 0x71, byte s.hub] ++ zeros 4 ++ beBytes 2 (s.hub * 2 ^ 10 + 0x3E0) ++ beBytes 4 s.memberMask ++ zeros 4 ++ claims ++ zeros 48

/-- A heartbeat begins: base priorities held back since hold-off ended are presented again, and the first heartbeat after
integration may begin hold-off (R449), whose claim it then carries, so that a handover is never faster than the hold-off
(DEDUCED, log entry 34). -/
def State.heartbeatBegins (s : State) : State :=
  let s := { s with twin := { s.twin with untilBeat := [] } }
  if s.twin.heartbeatSent then s.twinRefreshAll
  else
    let s := { s with twin := { s.twin with heartbeatSent := true } }
    (s.each allPairs fun s k => s.enterHoldoff k).twinRefreshAll

/-- A direction by which no copy of some tracked member came for 3 rounds while the other brought them is missing (R446). -/
def State.showMissing (s : State) (k : Nat) : State :=
  let live := ([0, 1].filter fun m => s.is F.TWIN_MEMBER_valid [k, m]).map (s.trackOf k)
  (s.setB F.TWIN_PAIR_STATUS_eg_missing [k] (live.any fun x => x.egMissed == 3)).setB F.TWIN_PAIR_STATUS_wg_missing [k]
    (live.any fun x => x.wgMissed == 3)

/-- A member's claim stops counting (R446): its entry is freed, and a lost peer is shown and sets its leaf. -/
def State.claimLost (s : State) (k m : Nat) : State :=
  if s.is F.TWIN_MEMBER_valid [k, m] && s.claimAge k m > 2 then
    let h := (s.trackOf k m).hub
    let s := ((s.setTrack k m {}).wr .TWIN_MEMBER [k, m] 0).showMissing k
    let s := s.when (s.twinMember k && h == s.get F.TWIN_PAIR_CFG_peer [k]) fun s =>
      (s.setB F.TWIN_PAIR_STATUS_peer_lost [k] true).leaf (twinLeaf 1)
    s.twinRefresh k
  else s

/-- The tracking entry a hub's claim for pair k goes to (R445): its own, else a free one. A pair has two members, so where
this hub is one of them it tracks one other (DEDUCED, log entry 34). -/
def State.trackSlot (s : State) (k h : Nat) : Option Nat :=
  let free := [0, 1].find? fun m => !s.is F.TWIN_MEMBER_valid [k, m]
  let taken := [0, 1].any fun m => s.is F.TWIN_MEMBER_valid [k, m]
  ([0, 1].find? fun m => s.is F.TWIN_MEMBER_valid [k, m] && (s.trackOf k m).hub == h).or
    (if s.twinMember k && taken then none else free)

/-- One claim of a heartbeat of a pair (R445): it becomes the member's latest claim, dated with round r, unless a later one
is known; a member whose claim no longer counts makes room first (R446); a third member is counted and ignored. -/
def State.recordClaim (s : State) (d : Side) (k claim r : Nat) : State :=
  let h := claimHub claim
  let s := s.each ([0, 1].filter fun m => (s.trackOf k m).hub != h) fun s m => s.claimLost k m
  match s.trackSlot k h with
  | none => (s.inc F.TWIN_STATUS_conflicts).leaf (twinLeaf 0)
  | some m =>
    let old := s.is F.TWIN_MEMBER_valid [k, m]
    let x := if old then s.trackOf k m else {}
    let later := old && decide (r < x.round)
    let x := { x with hub := h, round := max x.round r }
    let x := if d = .east then { x with egSeen := true, egMissed := 0 } else { x with wgSeen := true, wgMissed := 0 }
    let s := s.setTrack k m x
    let s := (s.when (!later) fun s => s.wr .TWIN_MEMBER [k, m] (2 ^ 31 + min (s.round - x.round) 127 * 2 ^ 24 + claim)).showMissing k
    let s := s.when (h == s.get F.TWIN_PAIR_CFG_peer [k]) fun s => s.setB F.TWIN_PAIR_STATUS_peer_lost [k] false
    s.twinRefresh k

/-- The round nearest the current one that a 16-bit sequence stands for. -/
def State.roundOfSequence (s : State) (q : Nat) : Nat :=
  let ahead := (q + 2 ^ 16 - s.round % 2 ^ 16) % 2 ^ 16
  if ahead < 2 ^ 15 then s.round + ahead else s.round + ahead - 2 ^ 16

/-- Position 4 of a mirrored slot from an owner, in a direction, examined for a heartbeat (R445). The hub's own
heartbeats are not tracked: its own claim counts from the moment it is presented (R447). -/
def State.heartbeatReceived (s : State) (d : Side) (owner sequence : Nat) (cell : List Byte) : State :=
  if !s.is F.TWIN_CFG_enable || byteAt cell 0 != 0x71 || beAt cell 6 2 != owner * 2 ^ 10 + 0x3E0 || owner = s.hub then s
  else
    let mask := beAt cell 8 4
    (allPairs.filter fun k => natBit mask k).foldl
      (fun s k =>
        let claim := beAt cell (16 + 2 * k) 2
        if claimHub claim != owner then s.inc F.TWIN_STATUS_malformed
        else s.recordClaim d k claim (s.roundOfSequence sequence)) s

/-- Consecutive rounds by which a direction is missing: one more where only the other direction brought copies, none where
this one did. -/
def missedRounds (here there : Bool) (n : Nat) : Nat :=
  if here then 0 else if there then satInc n 3 else if n = 3 then 3 else 0

/-- A round begins (R446): ages and missing directions are shown; a member whose direction becomes missing sets the leaf. -/
def State.twinRound (s : State) : State :=
  let s := s.each (allPairs.flatMap fun k => [(k, 0), (k, 1)]) fun s km =>
    let (k, m) := km
    s.when (s.is F.TWIN_MEMBER_valid [k, m]) fun s =>
      let x := s.trackOf k m
      let y := { x with egMissed := missedRounds x.egSeen x.wgSeen x.egMissed,
                        wgMissed := missedRounds x.wgSeen x.egSeen x.wgMissed, egSeen := false, wgSeen := false }
      let new := (y.egMissed == 3 && x.egMissed != 3) || (y.wgMissed == 3 && x.wgMissed != 3)
      (((s.setTrack k m y).set F.TWIN_MEMBER_age [k, m] (s.claimAge k m)).showMissing k).when new fun s => s.leaf (twinLeaf 2)
  ({ s with twin := { s.twin with refusedIn := [] } } : State).twinRefreshAll

/-! Claim-guarded endpoints (R451, R452). -/

/-- The guard entry of an endpoint. -/
def State.guardOf (s : State) (e : Nat) : Option Nat :=
  (List.range 64).find? fun n => s.is F.TWIN_GUARD_valid [n] && s.get F.TWIN_GUARD_endpoint [n] == e

/-- A cell from a source hub may reach a guarded endpoint: its source is the holder of the pair (R452). -/
def State.guardPasses (s : State) (n src : Nat) : Bool :=
  match s.holder (s.get F.TWIN_GUARD_pair [n]) with
  | some c => claimHub c == src
  | none => false

/-- The counted claim of a hub in a pair, or 0. -/
def State.claimOfHub (s : State) (k h : Nat) : Nat := ((s.countedClaims k).find? fun c => claimHub c == h).getD 0

/-- A refusal is counted (R452): lower from a counted member with a lower claim, other else, and always other for an
ordinary cell while the endpoint takes commands only as guarded commands (R456). -/
def State.guardCount (s : State) (n src : Nat) (ordinary : Bool) : State :=
  let k := s.get F.TWIN_GUARD_pair [n]
  if !(ordinary && s.is F.GRD_CFG_guard_operate) && (s.holder k).isSome && (s.countedClaims k).any (fun c => claimHub c == src) then s.inc F.TWIN_GUARD_CNT_lower [n]
  else s.inc F.TWIN_GUARD_CNT_other [n]

/-- The refusal cell for a refused cell (R454). -/
def State.refusalCell (s : State) (n src : Nat) (cell : List Byte) : List Byte :=
  let k := s.get F.TWIN_GUARD_pair [n]
  [byte 0x72, byte k] ++ beBytes 2 ((s.holder k).getD 0) ++ beBytes 2 (s.claimOfHub k src) ++ zeros 2
    ++ beBytes 2 (s.get F.TWIN_GUARD_endpoint [n]) ++ zeros 6 ++ slice cell 0 16 ++ zeros 96

/-- TWIN_STATUS as it reads. -/
def State.twinStatusWord (s : State) : Nat :=
  s.presentedHealth * 2 ^ 28 + s.forcedCode * 2 ^ 26 + s.get F.TWIN_STATUS_conflicts * 2 ^ 8 + s.get F.TWIN_STATUS_malformed

/-- HEALTH_WATCHDOG_EXPIRY (R442): the presented health is forced to 0. -/
def execHealthWatchdogExpiry (s : State) : Host.Outcome State Fault Refusal :=
  if s.down .hopper then .next s.clearOut else
  let s := s.clearOut
  .next ({ s with twin := { s.twin with healthExpired := true } } : State).healthForcedNow

/-- CLAIM_LOST (R446). -/
def execClaimLost (k m : Nat) (s : State) : Host.Outcome State Fault Refusal :=
  if s.down .hopper then .next s.clearOut else
  .next (s.clearOut.claimLost k m)

/-- HOLDOFF_END (R449): the member presents its base priority. -/
def execHoldoffEnd (k : Nat) (s : State) : Host.Outcome State Fault Refusal :=
  if s.down .hopper then .next s.clearOut else
  .next ((s.clearOut.endHoldoff k).twinRefresh k)

end Sys2Proof.Machine
end

