-- ==== Sys2Proof/Machine/Hopper.lean ====
section
/-! DEFINITION. The hopper: queues, cells, limits, enqueue, departure, arrival, freeze, memory errors and host
descriptor rings (R307 to R339). What the spec leaves to a reading or a choice stands in log entries 23 and 3. -/

namespace Sys2Proof.Machine

/-! Queue numbers (R27). -/

/-- The queue from endpoint e, in class c, toward hub d (R27). -/
def queueNo (e c d : Nat) : Nat := e * 1024 + c * 64 + d
/-- Endpoint of a queue. -/
def queueEp (q : Nat) : Nat := q / 1024 % 1024
/-- Class of a queue. -/
def queueClass (q : Nat) : Nat := q / 64 % 16
/-- Destination hub of a queue. -/
def queueDest (q : Nat) : Nat := q % 64

/-- The cells the pool holds. -/
def poolCells : Nat := 196608

/-- A queue's content. -/
def State.queue (s : State) (q : Nat) : Queue := smGet s.hop.queues q {}

/-- A queue's content replaced. -/
def State.setQueue (s : State) (q : Nat) (x : Queue) : State :=
  { s with hop := { s.hop with queues := smSet s.hop.queues q x {} } }

/-- A refused enqueue or a dropped arrival is counted in its queue, saturating at 255 (R313). -/
def State.queueRefused (s : State) (q : Nat) : State := s.setQueue q { s.queue q with refused := satInc (s.queue q).refused 255 }

/-- The intake queue of endpoint e in class c (R307). -/
def State.intakeQueue (s : State) (e c : Nat) : Nat := queueNo e c s.hub

/-- A queue number names an intake queue of this hub. -/
def State.isIntake (s : State) (q : Nat) : Bool := queueDest q == s.hub

/-- Cells in an endpoint's intake queue of a class (HOP_HELD.in_held). -/
def State.inHeld (s : State) (e c : Nat) : Nat := (s.queue (s.intakeQueue e c)).cells.length

/-- Cells in an endpoint's outgoing queues of a class (HOP_HELD.out_held). -/
def State.outHeld (s : State) (e c : Nat) : Nat :=
  s.hop.queues.foldl
    (fun a x => if queueEp x.1 = e ∧ queueClass x.1 = c ∧ queueDest x.1 ≠ s.hub then a + x.2.cells.length else a) 0

/-- Cells that hold data. -/
def State.cellsHeld (s : State) : Nat := s.hop.queues.foldl (fun a x => a + x.2.cells.length) 0

/-- HOP_STATUS as it reads. -/
def State.hopStatusWord (s : State) : Nat :=
  natSetBits (s.rd .HOP_STATUS) 17 0 (poolCells - s.cellsHeld - s.hop.retired.length)

/-! Cells. -/

/-- Indices in use: cells that hold data and retired cells. -/
def State.usedCells (s : State) : List Nat := s.hop.queues.flatMap (fun x => x.2.cells.map (·.index)) ++ s.hop.retired

/-- The first index from `start` on, going round the pool, that is not in use. -/
def freeFrom (used : List Nat) : Nat → Nat → Nat
  | 0, k => k
  | fuel + 1, k => if used.contains k then freeFrom used fuel ((k + 1) % poolCells) else k

/-- A free cell of the pool is taken. -/
def State.takeIndex (s : State) : Nat × State :=
  (freeFrom s.usedCells poolCells (Config.cellChoice s.free % poolCells), { s with free := s.free + 1 })

/-- A cell is appended to a queue. -/
def State.appendCell (s : State) (q : Nat) (srcHub srcEp : Nat) (bytes : List Byte) : State :=
  let (k, s) := s.takeIndex
  let x := s.queue q
  let s := s.setQueue q { x with cells := x.cells ++ [{ index := k, srcHub := srcHub, srcEp := srcEp, bytes := padTo 128 bytes, cycle := s.time.cycles }] }
  if s.isIntake q || s.hop.order.contains q then s else { s with hop := { s.hop with order := s.hop.order ++ [q] } }

/-- Bytes 6–7 of a delivered cell hold bits [47:32] of the hub's own seconds (R311). -/
def State.deliveredBytes (s : State) (cell : List Byte) : List Byte := splice (padTo 128 cell) 6 (beBytes 2 (secOf s.time.a.t / 2 ^ 32))

/-- A cell in a queue goes when its uncorrectable error reaches the head (R329, R330): it is counted as lost, and its cell
returns to the pool or is retired; the exhausted reserve escalates to chip level. -/
def State.loseCell (s : State) (c : Cell) (readBackOk : Bool) : State :=
  let s := (s.inc F.HOP_DROP_CNT_lost).leaf (hopLeaf 1)
  if readBackOk then s
  else
    let s := { s with hop := { s.hop with retired := s.hop.retired ++ [c.index] } }
    let s := s.set F.HOP_STATUS_retired [] (min s.hop.retired.length 4095)
    if s.hop.retired.length > 2048 && !s.is F.HOP_STATUS_reserve_exhausted then
      ((s.setB F.HOP_STATUS_reserve_exhausted [] true).leaf (hopLeaf 2)).raiseFault 0
    else s

/-- The number of cells at the front of a list that hold an uncorrectable error. -/
def badFront : List Cell → Nat
  | [] => 0
  | c :: cs => if c.bad.isSome then 1 + badFront cs else 0

/-- Cells with an uncorrectable error at the head of a queue are discarded, and the queue goes on with its next (R329). -/
def State.dropBad (s : State) (q : Nat) : State :=
  let cs := (s.queue q).cells
  let n := badFront cs
  let s := s.setQueue q { s.queue q with cells := cs.drop n }
  let s := (cs.take n).foldl (fun s c => s.loseCell c (c.bad.getD true)) s
  if (s.queue q).cells.isEmpty then { s with hop := { s.hop with order := s.hop.order.erase q } } else s

/-- The oldest good cell of a queue. -/
def headCell (cs : List Cell) : Option Cell := cs.find? (fun c => c.bad.isNone)

/-- The oldest good cell is taken from a queue, discarding bad ones before it. -/
def State.popCell (s : State) (q : Nat) : Option Cell × State :=
  let s := s.dropBad q
  match (s.queue q).cells with
  | [] => (none, s)
  | c :: cs => (some c, (s.setQueue q { s.queue q with cells := cs }).dropBad q)

/-! Endpoints, limits and freeze. -/

/-- Kind and unit of an endpoint (R308). -/
def State.epKind (s : State) (e : Nat) : Nat := s.get F.HOP_EP_CFG_kind [e]
def State.epUnit (s : State) (e : Nat) : Nat := s.get F.HOP_EP_CFG_unit [e]

/-- Kind and unit of the endpoints a producer is assigned (R26). -/
def producerKind : Producer → Nat × Nat
  | .personality b => (1, b)
  | .canChannel n => (2, n)
  | .bridge => (3, 0)
  | .hostRing r => (4, r)
  | .dresser b g => (5, 4 * b + g)
  | .hubController => (6, 0)
  | .switchPort => (7, 0)
  | .twinBlock => (7, 1)
  | .delayExchange => (7, 2)

/-- The block assigned to an endpoint is this producer. -/
def State.assignedTo (s : State) (p : Producer) (e : Nat) : Bool :=
  let (kind, unit) := producerKind p
  s.epKind e == kind && (kind == 3 || kind == 6 || s.epUnit e == unit)

/-- The block that dequeues an endpoint's intake queues (R26, R308): the assigned one, but the hub controller for the
twin endpoint. -/
def State.consumes (s : State) (p : Producer) (e : Nat) : Bool :=
  if s.epKind e == 7 && s.epUnit e == 1 then p == .hubController else s.assignedTo p e

/-- Face of an endpoint (R473). -/
def State.epFace (s : State) (e : Nat) : Nat := natBits (s.rd .FACE_EP [e / 8]) (4 * (e % 8) + 3) (4 * (e % 8))

/-- A reset of a face is in progress (R479). -/
def State.faceBusy (s : State) (f : Nat) : Bool := s.bitOf F.FACE_RESET_STATUS_busy [] f

/-- The bench an endpoint serves: personalities and dresser groups (R571). -/
def State.epBench (s : State) (e : Nat) : Option Nat :=
  if s.epKind e = 1 then some (s.epUnit e) else if s.epKind e = 5 then some (s.epUnit e / 4) else none

/-- The endpoint is frozen now (R328): by its HOP_EP_FREEZE bit in effect, or with its bench (R571). -/
def State.frozen (s : State) (e : Nat) : Bool :=
  natBit (smGet s.hop.frozen (e / 32) 0) (e % 32)
    || (match s.epBench e with | some b => s.is F.BNCH_STATUS_queues_frozen [b] | none => false)

/-- Freezing takes effect: the HOP_EP_FREEZE bits as written, and the queues of every bench out of service (R328, R571). -/
def State.applyFreeze (s : State) : State :=
  let fr := (List.range 32).foldl (fun m k => smSet m k (s.rd .HOP_EP_FREEZE [k]) 0) s.hop.frozen
  let s := { s with hop := { s.hop with frozen := fr } }
  s.each (List.range 16) fun s b =>
    s.when (s.is F.BNCH_STATUS_out_of_service [b]) fun s => s.setB F.BNCH_STATUS_queues_frozen [b] true

/-- Queue state as the queue-state window and the snapshots show it (R313). -/
def State.queueState (s : State) (q : Nat) : Nat :=
  let x := s.queue q
  let head := match x.cells.head? with | some c => c.index | none => 0
  let tail := match x.cells.getLast? with | some c => c.index | none => 0
  let held := queueDest q != s.hub && natBit s.hop.heldHubs (queueDest q)
  head * 2 ^ 46 + tail * 2 ^ 28 + x.cells.length * 2 ^ 10 + b2n (s.frozen (queueEp q)) * 2 ^ 9 + b2n held * 2 ^ 8 + x.refused

/-- The bytes of cell k in the cell window (R312): a free cell reads as 0. -/
def State.cellBytes (s : State) (k : Nat) : List Byte :=
  match (s.hop.queues.flatMap (·.2.cells)).find? (fun c => c.index == k) with
  | some c => c.bytes
  | none => zeros 128

/-- The queue that holds cell k. -/
def State.queueOfCell (s : State) (k : Nat) : Option Nat :=
  (s.hop.queues.find? fun x => x.2.cells.any fun c => c.index == k).map (·.1)

/-! Enqueue (R317). -/

/-- The intake entry of a source hub and endpoint: class and endpoint, when valid. -/
def State.intakeEntry (s : State) (src e : Nat) : Option (Nat × Nat) :=
  if s.is F.HOP_INTAKE_valid [src, e] then some (s.get F.HOP_INTAKE_class [src, e], s.get F.HOP_INTAKE_endpoint [src, e])
  else none

/-- An intake queue takes no more: at its in_limit, broken, or of a face whose reset is in progress (R315, R331, R479). -/
def State.intakeFull (s : State) (e c : Nat) : Bool :=
  s.inHeld e c ≥ s.get F.HOP_LIMIT_in_limit [e, c] || (s.queue (s.intakeQueue e c)).broken || s.faceBusy (s.epFace e)

/-- The outcome of an enqueue to queue q by a producer (R317, R331, R479): the first row that applies. -/
def State.enqueueOutcome (s : State) (p : Producer) (q : Nat) : EnqResult :=
  let e := queueEp q
  let c := queueClass q
  let d := queueDest q
  if s.epKind e = 0 then .unassigned
  else if !s.assignedTo p e then .notOwner
  else if s.faceBusy (s.epFace e) then .full
  else if d = s.hub then
    match s.intakeEntry s.hub e with
    | none => .unrouted
    | some (c', E) => if s.intakeFull E c' then .full else .accepted
  else if s.integrated && s.is F.RING_START_STATUS_hubmap_complete && !s.is F.RING_HUBMAP_INFO_present [d] then .unreachable
  else if s.outHeld e c ≥ s.get F.HOP_LIMIT_out_limit [e, c] || (s.queue q).broken then .full
  else .accepted

/-- A cell is appended to an intake queue without the claim check (R307, R311). -/
def State.deliverTo (s : State) (E c srcHub srcEp : Nat) (cell : List Byte) : State :=
  s.appendCell (s.intakeQueue E c) srcHub srcEp (s.deliveredBytes cell)

/-- A cell bound for an intake queue, checked against its claim guard (R452), and appended when it passes. With
guard_operate = 1 a claim-guarded endpoint takes no ordinary cell at all (R456). A refused cell is counted, and answered by a
refusal cell at most once per guarded endpoint and round (R454). A refusal cell for this hub itself is such a cell too: each one
that follows is of another endpoint, so as many as there are entries, 64, are the longest run. -/
def State.deliverChecked (s : State) : Nat → Nat → Nat → Nat → Nat → List Byte → State
  | 0, _, _, _, _, _ => s
  | more + 1, E, c, srcHub, srcEp, cell =>
    match s.guardOf E with
    | none => s.deliverTo E c srcHub srcEp cell
    | some n =>
      if !s.is F.GRD_CFG_guard_operate && s.guardPasses n srcHub then s.deliverTo E c srcHub srcEp cell
      else
        let s := s.guardCount n srcHub true
        if s.twin.refusedIn.contains n then s
        else
          let s := { s with twin := { s.twin with refusedIn := s.twin.refusedIn ++ [n] } }
          let q := queueNo (s.get F.TWIN_CFG_endpoint) (s.get F.TWIN_CFG_class) srcHub
          let back := s.refusalCell n srcHub cell
          match s.enqueueOutcome .twinBlock q with
          | .accepted =>
            if queueDest q = s.hub then
              match s.intakeEntry s.hub (queueEp q) with
              | some (c', E') => s.deliverChecked more E' c' s.hub (queueEp q) back
              | none => s
            else s.appendCell q s.hub (queueEp q) back
          | _ => s.queueRefused q

/-- The delivery of a cell to an intake queue. -/
def State.deliver (s : State) (E c srcHub srcEp : Nat) (cell : List Byte) : State := s.deliverChecked 65 E c srcHub srcEp cell

/-- A producer enqueues a cell to queue q (R317, R318); during a gasp nothing is enqueued (R558). -/
def State.enqueue (s : State) (p : Producer) (q : Nat) (cell : List Byte) : EnqResult × State :=
  if s.dying then (.full, s)
  else match s.enqueueOutcome p q with
  | .accepted =>
    if queueDest q = s.hub then
      match s.intakeEntry s.hub (queueEp q) with
      | some (c', E) => (.accepted, s.deliver E c' s.hub (queueEp q) cell)
      | none => (.unrouted, s.queueRefused q)
    else (.accepted, s.appendCell q s.hub (queueEp q) cell)
  | r => (r, s.queueRefused q)

/-! Arrival (R327). -/

/-- One cell position of a received slot owned by hub `owner` (R327); during a gasp nothing is enqueued (R558). -/
def State.cellArrives (s : State) (owner : Nat) (cell : List Byte) : State :=
  let route := beAt cell 6 2
  let d := route / 2 ^ 10
  let e := route % 2 ^ 10
  if d = owner ∨ s.dying then s
  else if d ≠ s.hub then s
  else match s.intakeEntry owner e with
    | none => (s.inc F.HOP_DROP_CNT_unrouted).leaf (hopLeaf 5)
    | some (c', E) =>
      if s.intakeFull E c' then
        ((s.inc F.HOP_DROP_CNT_intake_full).queueRefused (s.intakeQueue E c')).leaf (hopLeaf 4)
      else s.deliver E c' owner e cell

/-- The five positions of a payload (R68). -/
def State.payloadArrives (s : State) (owner : Nat) (payload : List Byte) : State :=
  (List.range 5).foldl (fun s i => s.cellArrives owner (slice payload (128 * i) 128)) s

/-! Departure (R320 to R325). -/

/-- The chosen direction of a cell toward hub d in a split slot (R322). -/
def State.chosenDirection (s : State) (d : Nat) : Option Side :=
  let eg := s.is F.RING_REACH_eg_reach [d]
  let wg := s.is F.RING_REACH_wg_reach [d]
  if eg && wg then (if nearer (s.get F.RING_REACH_wg_hops [d]) (s.get F.RING_REACH_eg_hops [d]) then some .west else some .east)
  else if eg then some .east else if wg then some .west else none

/-- The chosen direction toward a hub may have changed: a change from one direction to the other holds every outgoing
queue toward it (R325). -/
def State.checkHeld (s : State) (d : Nat) : State :=
  match s.chosenDirection d with
  | none => s
  | some dir =>
    let code := if dir = .east then 1 else 2
    let was := smGet s.hop.chosen d 0
    let s := { s with hop := { s.hop with chosen := smSet s.hop.chosen d code 0 } }
    if was = 0 ∨ was = code then s else { s with hop := { s.hop with heldHubs := natSetBit s.hop.heldHubs d true } }

/-- A queue has a cell eligible for an owned slot of a face, enqueued at least 500 ns, 250 time-core cycles, ago: split in
direction `dir`, or mirrored (R320 to R323). -/
def State.queueEligible (s : State) (face : Nat) (dir : Option Side) (q : Nat) : Bool :=
  let d := queueDest q
  let path := s.get F.HOP_CLASS_CFG_path [queueClass q]
  s.epFace (queueEp q) == face && !s.frozen (queueEp q) && !(s.queue q).broken &&
    (headCell (s.queue q).cells).any (fun c => c.cycle + 250 ≤ s.time.cycles) &&
    (match dir with
     | some x => path != 1 && !natBit s.hop.heldHubs d && s.chosenDirection d == some x
     | none => path != 0 && (s.chosenDirection d).isSome)

/-- The queue served next: the highest class with an eligible cell, and within it the first in order (R324). -/
def State.nextQueue (s : State) (face : Nat) (dir : Option Side) : Option Nat :=
  ((List.range 16).reverse.flatMap fun c => s.hop.order.filter (fun q => queueClass q == c)).find? (s.queueEligible face dir)

/-- One cell departs from a queue: the route field is written (R310), and the queue rejoins at the end while it still
holds cells (R324). -/
def State.departFrom (s : State) (q : Nat) : List Byte × State :=
  match s.popCell q with
  | (some c, s) =>
    let rest := s.hop.order.erase q
    let order := if (s.queue q).cells.isEmpty then rest else rest ++ [q]
    (splice c.bytes 6 (beBytes 2 (queueDest q * 2 ^ 10 + queueEp q)), { s with hop := { s.hop with order := order } })
  | (none, s) => ([], s)

/-- An empty cell position of a slot this hub owns (R310). -/
def State.emptyPosition (s : State) : List Byte := zeros 6 ++ beBytes 2 (s.hub * 2 ^ 10) ++ zeros 120

/-- The hopper fills up to `n` positions of an owned slot, each with its cell or empty (R324): the positions, and whether
any holds a cell. -/
def State.fillPositions (s : State) (face : Nat) (dir : Option Side) : Nat → List Byte × Bool × State
  | 0 => ([], false, s)
  | n + 1 =>
    match s.nextQueue face dir with
    | some q =>
      let (cell, s) := s.departFrom q
      let (rest, _, s) := s.fillPositions face dir n
      (cell ++ rest, true, s)
    | none => (List.flatten (List.replicate (n + 1) s.emptyPosition), false, s)

/-- Every cell queued toward hub d is discarded and counted (R326). -/
def State.unreachable (s : State) (d : Nat) : State :=
  if d = s.hub then s
  else
    let n := s.hop.queues.foldl (fun a x => if queueDest x.1 = d then a + x.2.cells.length else a) 0
    if n = 0 then s
    else
      let qs := (s.hop.queues.filter fun x => queueDest x.1 == d).map (·.1)
      let s := qs.foldl (fun s q => s.setQueue q { s.queue q with cells := [] }) s
      let s := { s with hop := { s.hop with order := s.hop.order.filter fun q => queueDest q != d } }
      (s.add F.HOP_DROP_CNT_unreachable [] n).leaf (hopLeaf 0)

/-! Dequeue. -/

/-- The oldest cell of an endpoint's guarded buffer is taken (R466). It came in a guarded record, whose source endpoint is
0x3E1 (R457). -/
def State.takeGuarded (s : State) (e : Nat) : Option Cell × State :=
  match smGet s.grd.buffers e [] with
  | (h, _, bytes) :: rest =>
    (some { index := 0, srcHub := h, srcEp := 0x3E1, bytes := padTo 128 bytes },
      { s with grd := { s.grd with buffers := smSet s.grd.buffers e rest [] } })
  | [] => (none, s)

/-- An endpoint's guarded buffer has a cell to give (R328, R466). -/
def State.guardedWaits (s : State) (e : Nat) : Bool := !s.frozen e && !(smGet s.grd.buffers e []).isEmpty

/-- The class of the cell that the guarded buffer of an endpoint gives next (R458). -/
def State.guardedClass (s : State) (e : Nat) : Nat :=
  match smGet s.grd.buffers e [] with
  | (_, c, _) :: _ => c
  | [] => 0

/-- A consumer takes the oldest cell of an endpoint's guarded buffer (R466), else of one intake queue (R308); nothing is
taken from a frozen endpoint or a broken queue (R328, R331). -/
def State.dequeue (s : State) (p : Producer) (e c : Nat) : Option Cell × State :=
  if s.consumes p e && !s.frozen e then
    match s.takeGuarded e with
    | (some x, s) => (some x, s)
    | (none, s) => if (s.queue (s.intakeQueue e c)).broken then (none, s) else s.popCell (s.intakeQueue e c)
  else (none, s)

/-- The oldest cell of an intake queue, left where it is. -/
def State.peekIntake (s : State) (e c : Nat) : Option Cell :=
  if !s.frozen e && !(s.queue (s.intakeQueue e c)).broken then headCell (s.queue (s.intakeQueue e c)).cells else none

/-- ENQUEUE (R317, R318). -/
def execEnqueue (prod : Producer) (q : Nat) (cell : List Byte) (s : State) : Host.Outcome State Fault Refusal :=
  if s.down .hopper then .next s.clearOut else
  let (r, s) := s.clearOut.enqueue prod q cell
  .next (s.emit (.enqueued q r))

/-- DEQUEUE (R308). -/
def execDequeue (prod : Producer) (e c : Nat) (s : State) : Host.Outcome State Fault Refusal :=
  if s.down .hopper then .next s.clearOut else
  match s.clearOut.dequeue prod e c with
  | (some x, s) => .next (s.emit (.cell e c x.bytes x.srcHub x.srcEp))
  | (none, s) => .next s

/-- HELD_CLEAR (R325): the transit time of the former direction has passed. -/
def execHeldClear (h : Nat) (s : State) : Host.Outcome State Fault Refusal :=
  if s.down .hopper then .next s.clearOut else
  let s := s.clearOut
  .next { s with hop := { s.hop with heldHubs := natSetBit s.hop.heldHubs h false } }

/-- CELL_ECC_ERROR (R329, R330): an uncorrectable error in an occupied cell; the cell goes when it reaches the head. -/
def execCellEccError (k : Nat) (readBackOk : Bool) (s : State) : Host.Outcome State Fault Refusal :=
  if s.down .hopper then .next s.clearOut else
  let s := s.clearOut
  match s.queueOfCell k with
  | some q =>
    let x := s.queue q
    let s := s.setQueue q { x with cells := x.cells.map fun c => if c.index = k then { c with bad := some readBackOk } else c }
    .next (s.dropBad q)
  | none => .next s

/-- QUEUE_STATE_ECC_ERROR (R331): the queue is broken, and the error is handled at chip level. -/
def execQueueStateEccError (q : Nat) (s : State) : Host.Outcome State Fault Refusal :=
  if s.down .hopper then .next s.clearOut else
  let s := s.clearOut
  let s := s.setQueue q { s.queue q with broken := true }
  .next (((s.setB F.HOP_STATUS_broken [] true).leaf (hopLeaf 3)).raiseFault 1)

/-- CORRECTABLE_ECC_ERROR (R329). -/
def execCorrectableEccError (s : State) : Host.Outcome State Fault Refusal :=
  if s.down .hopper then .next s.clearOut else
  .next (s.clearOut.inc F.HOP_SCRUB_CTRL_corrected)

/-- SCRUB_BURST_END (R332): the pass ends, returns its permit, and clears burst. -/
def execScrubBurstEnd (s : State) : Host.Outcome State Fault Refusal :=
  if s.down .hopper then .next s.clearOut else
  let s := s.clearOut
  if s.permitHeld .scrub 0 then
    let s := (s.setB F.HOP_SCRUB_CTRL_burst_active [] false).setB F.HOP_SCRUB_CTRL_burst [] false
    .next ((s.permitGive .scrub 0).leaf (hopLeaf 8))
  else .next s

/-! Host descriptor rings (R333 to R338). -/

/-- A ring beside its registers. -/
def State.ringOf (s : State) (r : Nat) : HostRing := smGet s.hop.rings r {}

/-- A ring beside its registers, replaced. -/
def State.setRing (s : State) (r : Nat) (x : HostRing) : State := { s with hop := { s.hop with rings := smSet s.hop.rings r x {} } }

/-- Descriptors posted and not yet processed (R333). -/
def State.ringPosted (s : State) (r : Nat) : Nat :=
  (s.get F.HOP_HRING_TAIL_tail [r] + 2 ^ 16 - s.get F.HOP_HRING_HEAD_head [r]) % 2 ^ 16

/-- The host address of the descriptor at head (R333). -/
def State.ringDescAddr (s : State) (r : Nat) : Nat :=
  s.rd .HOP_HRING_BASE_HI [r] * 2 ^ 32 + s.rd .HOP_HRING_BASE_LO [r]
    + 16 * (s.get F.HOP_HRING_HEAD_head [r] % 2 ^ s.get F.HOP_HRING_CFG_size_log2 [r])

/-- A ring runs in a direction: enabled, with a descriptor posted, and host memory within reach: it is not while PCIE_PERST_N
holds the link down (R590). -/
def State.ringRuns (s : State) (r dir : Nat) : Bool :=
  s.is F.HOP_HRING_CFG_enable [r] && s.get F.HOP_HRING_CFG_dir [r] == dir && s.ringPosted r != 0 && !s.chip.perst

/-- The descriptor at head completes with a result: head advances, and the completion leaf is set after every irq_every
completions and when head reaches tail (R335, R337). -/
def State.ringComplete (s : State) (r result : Nat) : State :=
  let s := s.set F.HOP_HRING_HEAD_last_result [r] result
  let s := s.set F.HOP_HRING_HEAD_head [r] ((s.get F.HOP_HRING_HEAD_head [r] + 1) % 2 ^ 16)
  let n := (s.ringOf r).completions + 1
  let whole := decide (n ≥ s.get F.HOP_HRING_CFG_irq_every [r])
  let s := s.setRing r { s.ringOf r with completions := if whole then 0 else n }
  s.when (whole || s.ringPosted r == 0) fun s => s.leaf (hopLeaf (16 + r)) r

/-- The ring stops at a host memory error (R338). -/
def State.ringStop (s : State) (r : Nat) : State :=
  let s := s.setB F.HOP_HRING_CFG_enable [r] false
  let s := s.set F.HOP_HRING_HEAD_last_result [r] 4
  (s.setB F.HOP_HRING_HEAD_stopped [r] true).leaf (hopLeaf 7) r 0 true

/-- The result code of an enqueue outcome in a descriptor (R334). -/
def sendResult : EnqResult → Nat
  | .accepted => 0
  | .full => 1
  | .unassigned => 2
  | .notOwner => 2
  | .unrouted => 3
  | .unreachable => 3

/-- The endpoints of a ring, in number order (HOP_EP_CFG kind 4). -/
def State.ringEndpoints (s : State) (r : Nat) : List Nat := (List.range 1024).filter (s.assignedTo (.hostRing r))

/-- The endpoint a receive ring takes its next cell from (R336): the highest class that has a cell, and within it the
endpoints in round-robin order after the last served. -/
def State.ringNext (s : State) (r : Nat) : Option (Nat × Nat) :=
  let eps := s.ringEndpoints r
  (List.range 16).reverse.foldl (fun found c => match found with
    | some x => some x
    | none =>
      let last := smGet (s.ringOf r).lastServed c 1024
      let order := eps.filter (fun e => last < e) ++ eps.filter (fun e => e ≤ last)
      (order.find? fun e => (s.peekIntake e c).isSome).map fun e => (e, c)) none

/-- A receive ring takes its next cell, with the intake queue it reports (R334, R336): a guarded buffer of one of its endpoints
before any intake queue, reported as the intake queue of the class its command named (R458, R466; DESIGN CHOICE, log entry 36). -/
def State.ringTake (s : State) (r : Nat) : Option (Nat × Cell) × State :=
  match (s.ringEndpoints r).find? s.guardedWaits with
  | some e =>
    let q := s.intakeQueue e (s.guardedClass e)
    match s.takeGuarded e with
    | (some x, s) => (some (q, x), s)
    | (none, s) => (none, s)
  | none =>
    match s.ringNext r with
    | some (e, c) =>
      let q := s.intakeQueue e c
      match s.popCell q with
      | (some x, s) => (some (q, x), s.setRing r { s.ringOf r with lastServed := smSet (s.ringOf r).lastServed c e 1024 })
      | (none, s) => (none, s)
    | none => (none, s)

/-- A ring serves an endpoint of a face whose reset is in progress (R479). -/
def State.ringInReset (s : State) (r : Nat) : Bool := (s.ringEndpoints r).any fun e => s.faceBusy (s.epFace e)

/-- SEND_DESCRIPTOR (R335): the buffer is read, the cell enqueued, the status written, and head advances. `desc` is the
descriptor at head and `buf` its buffer in host memory. A ring that serves an endpoint of a face in reset completes its
descriptor with result 1 (R479). -/
def execSendDescriptor (r : Nat) (desc buf : List Byte) (s : State) : Host.Outcome State Fault Refusal :=
  if s.down .hopper then .next s.clearOut else
  let s := s.clearOut
  if s.ringRuns r 0 then
    let q := leAt desc 8 4 % 2 ^ 20
    let addr := s.ringDescAddr r
    let (res, s) := if s.ringInReset r then (EnqResult.full, s.queueRefused q) else s.enqueue (.hostRing r) q (padTo 128 buf)
    let s := s.emit (.hostWrite (addr + 12) (leBytes 4 (2 ^ 31 + sendResult res * 2 ^ 28)))
    .next (s.ringComplete r (sendResult res))
  else .next s

/-- RECEIVE_DESCRIPTOR (R336): the next cell is written to the buffer, then bytes 8–15 of the descriptor. A ring that
serves an endpoint of a face in reset completes its descriptor with result 1 (R479). -/
def execReceiveDescriptor (r : Nat) (desc : List Byte) (s : State) : Host.Outcome State Fault Refusal :=
  if s.down .hopper then .next s.clearOut else
  let s := s.clearOut
  if s.ringRuns r 1 then
    let addr := s.ringDescAddr r
    if s.ringInReset r then
      .next ((s.emit (.hostWrite (addr + 8) (leBytes 4 0 ++ leBytes 4 (2 ^ 31 + 2 ^ 28)))).ringComplete r 1)
    else match s.ringTake r with
      | (some (q, x), s) =>
        let s := s.emit (.hostWrite (leAt desc 0 8 / 128 * 128) x.bytes)
        let status := 2 ^ 31 + x.srcHub * 2 ^ 22 + x.srcEp * 2 ^ 12
        let s := s.emit (.hostWrite (addr + 8) (leBytes 4 q ++ leBytes 4 status))
        .next (s.ringComplete r 0)
      | (none, s) => .next s
  else .next s

/-- HOST_MEMORY_ERROR (R338): the descriptor ends with result 4 where the status can still be written, the ring stops, and
a cell a receive ring had taken is lost. -/
def execHostMemoryError (r : Nat) (cellTaken statusWritable : Bool) (s : State) : Host.Outcome State Fault Refusal :=
  if s.down .hopper then .next s.clearOut else
  let s := s.clearOut
  if s.is F.HOP_HRING_CFG_enable [r] && s.ringPosted r != 0 then
    let s := s.when (statusWritable && !s.chip.perst) fun s => s.emit (.hostWrite (s.ringDescAddr r + 12) (leBytes 4 (2 ^ 31 + 4 * 2 ^ 28)))
    let s := s.when (cellTaken && s.get F.HOP_HRING_CFG_dir [r] == 1) fun s =>
      match s.ringTake r with
      | (some _, s) => s.inc F.HOP_DROP_CNT_lost
      | (none, s) => s
    .next (s.ringStop r)
  else .next s

end Sys2Proof.Machine
end

