-- ==== Sys2Proof/Machine/PortTable.lean ====
section
/-! DEFINITION. The port descriptor table as it stands in a bench's window, the instances it describes, and the records
they and the dresser send (R245 to R254). What the spec leaves to a reading or a choice stands in log entry 21. -/

namespace Sys2Proof.Machine

/-! The table (R245, R246). -/

/-- Byte `off` of the table of bench b. -/
def State.pdtByte (s : State) (b off : Nat) : Nat := natBits (s.rd .BNCH_PDT [b, off / 4]) (8 * (off % 4) + 7) (8 * (off % 4))

/-- Byte `off` of descriptor k. -/
def State.descByte (s : State) (b k off : Nat) : Nat := s.pdtByte b (0x100 + 0x100 * k + off)

/-- The little-endian number in the bytes [off, off + n) of descriptor k. -/
def State.descNum (s : State) (b k off n : Nat) : Nat :=
  (List.range n).foldr (fun i a => s.descByte b k (off + i) + 256 * a) 0

/-- Fields of descriptor k (R246). -/
def State.descCode (s : State) (b k : Nat) : Nat := s.descByte b k 0
def State.descInUse (s : State) (b k : Nat) : Bool := natBit (s.descByte b k 1) 7
def State.descEndpointValid (s : State) (b k : Nat) : Bool := natBit (s.descByte b k 1) 6
def State.descEndpoint (s : State) (b k : Nat) : Nat := s.descNum b k 2 2 % 1024
def State.descQuad (s : State) (b k : Nat) : Nat := s.descByte b k 4 % 16
def State.descSetts (s : State) (b k : Nat) : Nat := s.descByte b k 5 % 16
def State.descClass (s : State) (b k : Nat) : Nat := s.descByte b k 6 % 16
def State.descDest (s : State) (b k : Nat) : Nat := s.descByte b k 7 % 64
def State.descTimeout (s : State) (b k : Nat) : Nat := s.descNum b k 8 4

/-- The lowest sett j of the quad set in setts: the pin of the single-pin personalities (R247). -/
def State.descPin (s : State) (b k : Nat) : Nat := ((List.range 4).find? fun j => natBit (s.descSetts b k) j).getD 0

/-- The pin of the bench that plays role r of an instance (R247). -/
def State.rolePin (s : State) (b k r : Nat) : Nat :=
  let code := s.descCode b k
  let j := if 0x06 ≤ code ∧ code ≤ 0x0C then s.descPin b k else r
  4 * s.descQuad b k + j

/-- The divider k of a driven modulator clock of ⌊125,000,000 ÷ k⌋ Hz (R275); 0 for any other value. -/
def sdDivider (w : Nat) : Nat := ((List.range 126).find? fun d => d ≥ 5 && 125000000 / d == w).getD 0

/-- An instance runs: its descriptor is in use and the instance has started (BNCH_PORT_STAT.state). -/
def State.portRuns (s : State) (b k : Nat) : Bool :=
  let st := s.get F.BNCH_PORT_STAT_state [b, k]
  k < 64 && s.descInUse b k && st != 0 && st != 6

/-- The instances that run on a bench. -/
def State.runningPorts (s : State) (b : Nat) : List Nat := (List.range 64).filter (s.portRuns b)

/-- Instance k of bench b. -/
def State.port (s : State) (b k : Nat) : Port := smGet s.ports (b * 64 + k) {}

/-- An instance replaced, and changed. -/
def State.setPort (s : State) (b k : Nat) (x : Port) : State := { s with ports := smSet s.ports (b * 64 + k) x {} }
def State.onPort (s : State) (b k : Nat) (f : Port → Port) : State := s.setPort b k (f (s.port b k))

/-- The instance whose setts include a sett of the bench. -/
def State.portOfSett (s : State) (b t : Nat) : Option Nat :=
  (s.runningPorts b).find? fun k => s.descQuad b k == t / 4 && natBit (s.descSetts b k) (t % 4)

/-- A mailbox overrun of a sett of an instance sets overrun in the record in progress (R254). -/
def State.portOverrun (s : State) (b t : Nat) : State :=
  match s.portOfSett b t with
  | some k => s.onPort b k fun x => { x with overrun := true }
  | none => s

/-! Stamps and records (R251 to R254). -/

/-- The stamp of now on a bench (R190). -/
def State.stampNow (s : State) (b : Nat) : Stamp :=
  let dom := s.domOfConsumer (.bench b)
  { t := s.now dom, dom := dom, valid := s.is F.BNCH_STATUS_time_valid [b],
    traceable := s.is F.TIME_DOM_STATUS_traceable [if dom = .a then 0 else 1] }

/-- A stamp's time rounded to a quarter nanosecond, halves to the earlier one (R188). -/
def stampTime (x : Stamp) : Nat := (x.t + 2 ^ 36 - 1) / 2 ^ 37 * 2 ^ 37

/-- The record header of R251, padded payload behind it. `flags` holds truncated, error, overrun, aborted and more in
their places; the time flags come from the stamp. -/
def recordCell (type flags residue seq : Nat) (x : Stamp) (payload : List Byte) : List Byte :=
  let t := stampTime x
  let tf := b2n x.valid * 16 + b2n x.traceable * 8 + b2n (x.dom == .b) * 4
  [byte type, byte (flags ||| tf), byte residue, byte payload.length] ++ beBytes 2 seq ++ beBytes 6 (secOf t)
    ++ beBytes 4 (quarterOf t * 2 ^ 30 + nsOf t) ++ padTo 112 payload

/-- Flag bits of a record (R251). -/
def flagTruncated : Nat := 128
def flagError : Nat := 64
def flagOverrun : Nat := 32
def flagAborted : Nat := 2
def flagMore : Nat := 1

/-- An instance offers a record to the hopper (R249, R253, R254). -/
def State.portRecord (s : State) (b k flags residue : Nat) (x : Stamp) (payload : List Byte) : State :=
  let n := s.get F.BNCH_PORT_CNT_records [b, k]
  let fl := flags ||| (if (s.port b k).overrun then flagOverrun else 0)
  let cell := recordCell (s.descCode b k) fl residue n x payload
  let s := s.onPort b k fun p => { p with overrun := false }
  let s := s.set F.BNCH_PORT_CNT_records [b, k] ((n + 1) % 2 ^ 16)
  match s.enqueue (.personality b) (queueNo (s.descEndpoint b k) (s.descClass b k) (s.descDest b k)) cell with
  | (.accepted, s) => s
  | (_, s) => (s.inc F.BNCH_PORT_CNT_refused [b, k]).onPort b k fun p => { p with overrun := true }

/-- The state BNCH_PORT_STAT shows. -/
def State.portShow (s : State) (b k st : Nat) : State := s.set F.BNCH_PORT_STAT_state [b, k] st

end Sys2Proof.Machine
end

