-- ==== Sys2Proof/Machine/Dresser.lean ====
section
/-! DEFINITION. The dresser: the sinc3 decimator, scaling into binary32 with one rounding, comparators, and channel
groups (R282 to R306). What the spec leaves to a reading or a choice stands in log entry 22. -/

namespace Sys2Proof.Machine

/-! Binary32 as integer multiples of 2^-149 (R289 to R291). -/

/-- A binary32 word is a NaN or an infinity (R292). -/
def notFinite (w : Nat) : Bool := natBits w 30 23 == 255

/-- The magnitude of a finite binary32 word in units of 2^-149. -/
def magOf (w : Nat) : Nat :=
  let e := natBits w 30 23
  let m := natBits w 22 0
  if e = 0 then m else (2 ^ 23 + m) * 2 ^ (e - 1)

/-- A finite binary32 word as a multiple of 2^-149. -/
def valueOf (w : Nat) : Int := if natBit w 31 then -(magOf w : Int) else magOf w

/-- A quotient rounded to nearest, ties to even. -/
def roundEven (m d : Nat) : Nat :=
  let q := m / d
  let r := m % d
  if 2 * r > d ∨ (2 * r = d ∧ q % 2 = 1) then q + 1 else q

/-- The binary32 magnitude nearest to m × 2^-149, ties to even; infinity from the overflow threshold on (R289, R291). -/
def roundMag (m : Nat) : Nat :=
  if m < 2 ^ 24 then m
  else
    let k := m.log2 - 23
    let w := (k + 1) * 2 ^ 23 + (roundEven m (2 ^ k) - 2 ^ 23)
    min w 0x7F800000

/-- The result of scaling: y, and the flags NX (bit 0), UF (bit 1), OF (bit 2) and NV (bit 3) of R291. UF is never set. -/
structure Scaled where
  y : Nat
  flags : Nat
  deriving DecidableEq, Repr

/-- y = round(x × gain + offset) (R289 to R291). -/
def scale (x : Int) (gain offset : Nat) : Scaled :=
  let exact := x * valueOf gain + valueOf offset
  if exact = 0 then
    let product := x * valueOf gain
    let psign := decide (x < 0) != natBit gain 31
    { y := if product = 0 ∧ psign = true ∧ natBit offset 31 = true then 0x80000000 else 0, flags := 0 }
  else
    let m := exact.natAbs
    let w := roundMag m
    let overflow := w == 0x7F800000
    let nx := overflow || magOf w != m
    { y := w + (if exact < 0 then 2 ^ 31 else 0), flags := b2n nx + b2n overflow * 4 }

/-- The result under a parity failure of a coefficient (R291). -/
def scaledInvalid : Scaled := { y := 0x7FC00000, flags := 8 }

/-! Channels, groups and comparators as state. -/

/-- Channel c of bench b. -/
def State.chan (s : State) (b c : Nat) : DrsChannel := smGet s.drs.channels (b * 32 + c) {}
def State.setChan (s : State) (b c : Nat) (x : DrsChannel) : State :=
  { s with drs := { s.drs with channels := smSet s.drs.channels (b * 32 + c) x {} } }

/-- Group g of bench b. -/
def State.group (s : State) (b g : Nat) : DrsGroup := smGet s.drs.groups (b * 4 + g) {}
def State.setGroup (s : State) (b g : Nat) (x : DrsGroup) : State :=
  { s with drs := { s.drs with groups := smSet s.drs.groups (b * 4 + g) x {} } }

/-- The channel of data pin r of a sigma-delta instance, when it has one (R275). -/
def State.dataChannel (s : State) (b k r : Nat) : Option Nat :=
  let c := s.descByte b k (20 + r)
  if r ≠ 1 ∧ c = 0xFF then none else some (c % 32)

/-- The sigma-delta instance that names a channel (R275). -/
def State.channelPort (s : State) (b c : Nat) : Option Nat :=
  (List.range 64).find? fun k =>
    s.descInUse b k && s.descCode b k == 0x0D && [1, 2, 3].any fun r => s.dataChannel b k r == some c

/-- The channel produces results: enabled, and named by an instance (R282). -/
def State.channelOn (s : State) (b c : Nat) : Bool := s.is F.DRS_CH_CFG_enable [b, c] && (s.channelPort b c).isSome

/-- The members of a group (R302). -/
def State.groupMembers (s : State) (b g : Nat) : List Nat :=
  (List.range 32).filter fun c =>
    s.is F.DRS_CH_CFG_enable [b, c] && s.is F.DRS_CH_CFG_member [b, c] && s.get F.DRS_CH_CFG_group [b, c] == g

/-- The modulator clock of a channel as 125,000,000 ÷ k: k, or 0 for an external input (R275). -/
def State.clockDivider (s : State) (b c : Nat) : Nat :=
  match s.channelPort b c with
  | some k => sdDivider (s.descNum b k 16 4)
  | none => 0

/-- A group is in burst mode (R306): more than 200,000 records per second. -/
def State.groupBursts (s : State) (b g : Nat) : Bool :=
  match s.groupMembers b g with
  | c :: _ =>
    let n := s.get F.DRS_CH_CFG_ratio [b, c] * s.get F.DRS_GROUP_CFG_record_every [b, g]
    let d := s.clockDivider b c
    n != 0 && (if d = 0 then 25000000 > 200000 * n else 125000000 > 200000 * n * d)
  | [] => false

/-- An enabled group in burst mode asks for its permit; any other returns its permit, or withdraws its request (R306, R564). -/
def State.burstAsk (s : State) (b : Nat) : State :=
  s.each (List.range 4) fun s g =>
    if s.is F.DRS_GROUP_CFG_enable [b, g] && s.groupBursts b g then s.permitAsk .dresserBurst (4 * b + g)
    else s.permitGive .dresserBurst (4 * b + g)

/-- Every dresser-burst permit of a bench is returned (R571). -/
def State.burstGive (s : State) (b : Nat) : State :=
  s.each (List.range 4) fun s g => s.permitGive .dresserBurst (4 * b + g)

/-- DRS_STATUS as it reads. -/
def State.dresserStatusWord (s : State) (b : Nat) : Nat :=
  (List.range 4).foldl (fun a g =>
    let held := s.permitHeld .dresserBurst (4 * b + g)
    let waits := s.permitKnown .dresserBurst (4 * b + g) && !held
    a + b2n held * 2 ^ (4 + g) + b2n waits * 2 ^ g) 0

/-! Records of the dresser (R303 to R305). -/

/-- A group offers a record (R303, R304, R254). -/
def State.groupRecord (s : State) (b g type flags : Nat) (x : Stamp) (payload : List Byte) : State :=
  if s.is F.DRS_GROUP_CFG_enable [b, g] && (!s.groupBursts b g || s.permitHeld .dresserBurst (4 * b + g)) then
    let gr := s.group b g
    let fl := flags ||| (if gr.overrun then flagOverrun else 0)
    let cell := recordCell type fl 0 gr.seq x payload
    let q := queueNo (s.get F.DRS_GROUP_CFG_endpoint [b, g]) (s.get F.DRS_GROUP_CFG_class [b, g]) (s.get F.DRS_GROUP_CFG_dest [b, g])
    let s := s.setGroup b g { gr with seq := (gr.seq + 1) % 2 ^ 16, overrun := false }
    match s.enqueue (.dresser b g) q cell with
    | (.accepted, s) => s
    | (_, s) => s.setGroup b g { s.group b g with overrun := true }
  else s

/-- The sample record of a group: member mask and the latest result of each member (R304, R305). -/
def State.sampleRecord (s : State) (b g : Nat) (x : Stamp) : State :=
  let ms := s.groupMembers b g
  let mask := ms.foldl (fun a c => a + 2 ^ c) 0
  let bad := ms.any fun c => (s.chan b c).bad
  s.groupRecord b g 0xD5 (if bad then flagError else 0) x (beBytes 4 mask ++ ms.flatMap fun c => beBytes 4 (s.rd .DRS_CH_RESULT [b, c]))

/-- The sample record that is due goes as it stands (R303). -/
def State.sendNow (s : State) (b g : Nat) : State :=
  match (s.group b g).due with
  | some x => (s.setGroup b g { s.group b g with due := none }).sampleRecord b g x
  | none => s

/-- A member has an unscaled window that ended no later than a stamp. -/
def State.windowLeft (s : State) (b g : Nat) (x : Stamp) : Bool :=
  (s.groupMembers b g).any fun c => (s.chan b c).windows.any fun w => decide (w.stamp.t ≤ x.t)

/-- A sample record that is due goes (R303): at once where the clocks are external; else when every member's window of the
same end is scaled, since driven members end their windows in one dresser cycle. -/
def State.sendDue (s : State) (b g : Nat) : State :=
  match (s.group b g).due, (s.groupMembers b g).head? with
  | some x, some c => if s.clockDivider b c ≠ 0 ∧ s.windowLeft b g x = true then s else s.sendNow b g
  | _, _ => s

/-- A result of a channel counts toward its group's records on the pacing channel (R303). -/
def State.countResult (s : State) (b c : Nat) (x : Stamp) : State :=
  let g := s.get F.DRS_CH_CFG_group [b, c]
  if s.is F.DRS_CH_CFG_member [b, c] then
    let every := s.get F.DRS_GROUP_CFG_record_every [b, g]
    let s :=
      if (s.groupMembers b g).head? = some c ∧ every ≠ 0 then
        let gr := s.group b g
        if gr.count + 1 ≥ every then
          let s := s.sendNow b g
          s.setGroup b g { s.group b g with count := 0, due := some x }
        else s.setGroup b g { gr with count := gr.count + 1 }
      else s
    s.sendDue b g
  else s

/-! Comparators (R296 to R301). -/

/-- The release level of comparator m (R297): the limit until the release is written. -/
def State.cmpRelease (s : State) (b m : Nat) : Nat :=
  if natBit (smGet s.drs.released b 0) m then s.rd .DRS_CMP_RELEASE [b, m] else s.rd .DRS_CMP_LIMIT [b, m]

/-- An event record of comparator m (R304, R305). -/
def State.cmpEvent (s : State) (b m : Nat) (holds forced : Bool) (x : Stamp) (y raw : Nat) : State :=
  let c := s.get F.DRS_CMP_CFG_channel [b, m]
  if s.is F.DRS_CMP_CFG_event_en [b, m] && s.is F.DRS_CH_CFG_member [b, c] then
    s.groupRecord b (s.get F.DRS_CH_CFG_group [b, c]) 0xD6 0 x
      ([byte m, byte (b2n holds + b2n forced * 2)] ++ zeros 2 ++ beBytes 4 y ++ beBytes 4 raw)
  else s

/-- A comparator's condition begins or ends (R297, R298, R300): run, trips, the line and the event record. -/
def State.cmpChange (s : State) (b m : Nat) (holds forced : Bool) (x : Stamp) (y raw : Nat) : State :=
  let s := (s.setB F.DRS_CMP_STATUS_active [b, m] holds).setB F.DRS_CMP_STATUS_forced [b, m] forced
  let s := s.set F.DRS_CMP_STATUS_run [b, m] 0
  let s := s.when holds fun s => s.inc F.DRS_CMP_STATUS_trips [b, m]
  let s := s.when (s.is F.DRS_CMP_CFG_shot_en [b, m]) fun s => s.comparatorShot b m (s.get F.DRS_CMP_CFG_line [b, m]) holds
  s.cmpEvent b m holds forced x y raw

/-- The settings of comparator m change while its condition holds (R158, R300): the line follows them, and is released when
the comparator is no source of it any more. -/
def State.cmpFollow (s : State) (old : State) (b m : Nat) : State :=
  let ix := [b, m]
  let wants (t : State) : Bool := t.is F.DRS_CMP_CFG_enable ix && t.is F.DRS_CMP_CFG_shot_en ix
  let line (t : State) : Nat := t.get F.DRS_CMP_CFG_line ix
  if !s.is F.DRS_CMP_STATUS_active ix || (wants s == wants old && line s == line old) then s
  else if wants s && s.dresserMayDrive b (line s) then s.comparatorLines b m (2 ^ line s)
  else (s.comparatorLines b m 0).when (wants s) fun s => s.leaf (benchLeaf b 6) m

/-- The test of comparator m (R296), and its release test (R297). -/
def State.cmpTest (s : State) (b m y : Nat) : Bool :=
  let a := y % 2 ^ 31
  let l := s.rd .DRS_CMP_LIMIT [b, m]
  if s.is F.DRS_CMP_CFG_mode [b, m] then a < l else a ≥ l
def State.cmpReleaseTest (s : State) (b m y : Nat) : Bool :=
  let a := y % 2 ^ 31
  let r := s.cmpRelease b m
  if s.is F.DRS_CMP_CFG_mode [b, m] then a ≥ r else a < r

/-- A valid result reaches comparator m (R297). -/
def State.cmpResult (s : State) (b m : Nat) (x : Stamp) (y raw : Nat) : State :=
  let active := s.is F.DRS_CMP_STATUS_active [b, m]
  let pass := if active then s.cmpReleaseTest b m y else s.cmpTest b m y
  let run := if pass then s.get F.DRS_CMP_STATUS_run [b, m] + 1 else 0
  let need := if active then s.get F.DRS_CMP_CFG_release_k [b, m] else s.get F.DRS_CMP_CFG_count_k [b, m]
  if pass && run ≥ need then s.cmpChange b m (!active) false x y raw
  else s.set F.DRS_CMP_STATUS_run [b, m] (min run 255)

/-- The invalid policy of comparator m (R298). -/
def State.cmpInvalid (s : State) (b m : Nat) (x : Stamp) (y raw : Nat) : State :=
  let active := s.is F.DRS_CMP_STATUS_active [b, m]
  match s.get F.DRS_CMP_CFG_policy [b, m] with
  | 1 => if active then s else s.cmpChange b m true true x y raw
  | 2 => if active then s.cmpChange b m false true x y raw else s.set F.DRS_CMP_STATUS_run [b, m] 0
  | _ => s

/-- The comparators that watch a channel. -/
def State.watchers (s : State) (b c : Nat) : List Nat :=
  (List.range 64).filter fun m => s.is F.DRS_CMP_CFG_enable [b, m] && s.get F.DRS_CMP_CFG_channel [b, m] == c

/-- Every comparator condition of a bench ends, and every line the dresser asserts is released (R301). -/
def State.cmpEndAll (s : State) (b : Nat) : State :=
  s.each (List.range 64) fun s m =>
    let s := (s.setB F.DRS_CMP_STATUS_active [b, m] false).setB F.DRS_CMP_STATUS_forced [b, m] false
    (s.set F.DRS_CMP_STATUS_run [b, m] 0).comparatorLines b m 0

/-! Bits and windows (R283 to R287). -/

/-- The filter of a channel is cleared (R285): DRS_CH_RESULT keeps its result, and so does its mark for R305. -/
def State.clearFilter (s : State) (b c : Nat) : State :=
  let x := s.chan b c
  s.setChan b c { gain := x.gain, offset := x.offset, bad := x.bad }

/-- One bit of a channel (R286). -/
def State.dresserBit (s : State) (b c : Nat) (bit : Bool) (stamp : Stamp) : State :=
  if s.channelOn b c then
    let x := s.chan b c
    let u : Int := if bit != s.is F.DRS_CH_CFG_invert [b, c] then 1 else -1
    let i1 := x.i1 + u
    let i2 := x.i2 + i1
    let i3 := x.i3 + i2
    if x.n + 1 ≥ s.get F.DRS_CH_CFG_ratio [b, c] then
      let c1 := i3 - x.z1
      let c2 := c1 - x.z2
      let c3 := c2 - x.z3
      let v := min (max c3 (-2147483648)) 2147483647
      let s := s.when (v != c3) fun s => s.setB F.DRS_CH_FLAGS_sat [b, c] true
      s.setChan b c { x with i1 := i1, i2 := i2, i3 := i3, z1 := i3, z2 := c1, z3 := c2, n := 0,
                             windows := x.windows ++ [{ x := v, stamp := stamp }] }
    else s.setChan b c { x with i1 := i1, i2 := i2, i3 := i3, n := x.n + 1 }
  else s

/-- The modulator clock of a channel is lost (R276, R285, R298). -/
def State.channelLost (s : State) (b c : Nat) (stamp : Stamp) : State :=
  let was := (s.chan b c).delivered
  let y := if was then s.rd .DRS_CH_RESULT [b, c] else 0
  let raw := if was then s.rd .DRS_CH_RAW [b, c] else 0
  let s := s.setBitOf F.DRS_CLOCK_LOST_lost [b] c true
  let x := s.chan b c
  let s := (s.setChan b c { x with n := 0, windows := [] }).sendDue b (s.get F.DRS_CH_CFG_group [b, c])
  s.each (s.watchers b c) fun s m => s.cmpInvalid b m stamp y raw

/-- The modulator clock of a channel recovers (R276, R285, R298). -/
def State.channelRecovers (s : State) (b c : Nat) : State :=
  let s := (s.setBitOf F.DRS_CLOCK_LOST_lost [b] c false).clearFilter b c
  s.each (s.watchers b c) fun s m => s.set F.DRS_CMP_STATUS_run [b, m] 0

/-- A result is delivered (R289 to R293, R296 to R303). -/
def State.deliverResult (s : State) (b c : Nat) (w : Window) (parityOk : Bool) : State :=
  let x := s.chan b c
  let r := if parityOk then scale w.x x.gain x.offset else scaledInvalid
  let raw := ofSigned w.x 32
  let s := s.setChan b c { x with delivered := true, bad := natBit r.flags 3 || natBit r.flags 2 }
  let s := (s.wr .DRS_CH_RESULT [b, c] r.y).wr .DRS_CH_RAW [b, c] raw
  let s := s.wr .DRS_CH_FLAGS [b, c] (s.rd .DRS_CH_FLAGS [b, c] ||| r.flags)
  let s := s.when (!parityOk) fun s => s.leaf (benchLeaf b 11) c
  let s := s.each (s.watchers b c) fun s m =>
    if parityOk then s.cmpResult b m w.stamp r.y raw else s.cmpInvalid b m w.stamp r.y raw
  s.countResult b c w.stamp

/-- The oldest complete window of a channel is scaled (R285, R286). -/
def State.windowEnd (s : State) (b c : Nat) (parityOk : Bool) : State :=
  let x := s.chan b c
  match x.windows with
  | w :: rest =>
    let s := s.setChan b c { x with windows := rest }
    if x.discard > 0 then
      (s.setChan b c { s.chan b c with discard := x.discard - 1 }).sendDue b (s.get F.DRS_CH_CFG_group [b, c])
    else s.deliverResult b c w parityOk
  | [] => s

/-- DECIMATION_WINDOW_END (R286): a window that D bits have completed. -/
def execDecimationWindowEnd (b c : Nat) (parityOk : Bool) (s : State) : Host.Outcome State Fault Refusal :=
  if s.down .bench then .next s.clearOut else
  .next (s.clearOut.windowEnd b c parityOk)

/-! Register effects (R292, R294, R297, R299). -/

/-- The staging coefficients of a channel become the active ones (R294). -/
def State.coefficientsApply (s : State) (b c : Nat) : State :=
  s.setChan b c { s.chan b c with gain := s.rd .DRS_CH_GAIN [b, c], offset := s.rd .DRS_CH_OFFSET [b, c] }

/-- The staging coefficients of every channel of a bench become active (R294). -/
def State.coefficientsApplyAll (s : State) (b : Nat) : State := s.each (List.range 32) fun s c => s.coefficientsApply b c

/-- A level is +0 or positive and finite (R297). -/
def levelOk (v : Nat) : Bool := !natBit v 31 && !notFinite v

/-- The relation of limit and release under a mode (R297). -/
def levelsOk (under : Bool) (limit release : Nat) : Bool := if under then limit ≤ release else release ≤ limit

/-- A write of DRS_CMP_LIMIT or DRS_CMP_RELEASE (R297, R299): none when it is refused under R9. -/
def State.thresholdWrite (s : State) (b m : Nat) (release : Bool) (v : Nat) : Option State :=
  let under := s.is F.DRS_CMP_CFG_mode [b, m]
  let written := natBit (smGet s.drs.released b 0) m
  let ok := levelOk v &&
    (if release then levelsOk under (s.rd .DRS_CMP_LIMIT [b, m]) v
     else !written || levelsOk under v (s.rd .DRS_CMP_RELEASE [b, m]))
  if ok then
    let s := if release then
        let s := s.wr .DRS_CMP_RELEASE [b, m] v
        { s with drs := { s.drs with released := smSet s.drs.released b (natSetBit (smGet s.drs.released b 0) m true) 0 } }
      else s.wr .DRS_CMP_LIMIT [b, m] v
    some (s.set F.DRS_CMP_STATUS_run [b, m] 0)
  else none

end Sys2Proof.Machine
end

