-- ==== Sys2Proof/Machine/Operands.lean ====
section
/-! DEFINITION. The operand forms of the sett instructions: the word's fields, the checks of R206 on them, and the data
operations of SETI, ADDI, MOV, IN, OUT and LDT (R204 to R226). -/

namespace Sys2Proof.Machine

/-! The word (R204). -/

/-- Opcode, side field and delay. -/
def insOp (w : Nat) : Nat := natBits w 31 27
def insDelay (w : Nat) : Nat := natBits w 26 24
def insSide (w : Nat) : Nat := natBits w 23 20

/-- A bit count in which 0 stands for 32 (R214). -/
def bitCount (w : Nat) : Nat := if natBits w 4 0 = 0 then 32 else natBits w 4 0

/-- The operands of JMP are not as R214 and R215 lay them out. -/
def badJmp (w : Nat) : Bool :=
  let cond := natBits w 19 16
  let sel := natBits w 15 13
  natBits w 12 6 != 0 || cond == 15
    || (if cond = 5 ∨ cond = 6 then false else if cond = 7 ∨ cond = 8 then sel ≥ 4 else sel != 0)

/-- The operands of WAIT are not as R214 and R235 lay them out. -/
def badWait (w : Nat) : Bool :=
  let pol := natBit w 15
  let ix := natBits w 11 0
  natBits w 13 12 != 0 ||
    match natBits w 19 16 with
    | 0 => ix ≥ 4
    | 1 => ix ≥ 8 || (ix ≥ 4 && pol)
    | 2 => ix ≥ 8
    | 3 => ix ≥ 512
    | 4 => ix ≥ 64
    | 5 => ix ≥ 16
    | 6 => ix ≥ 16
    | 7 => ix ≥ 8 || pol
    | _ => true

/-- An instruction word traps before it executes, and with which stop_cause (R206); a barrier group is judged by the sett. -/
def badWord (w : Nat) : Option Nat :=
  let reg := natBits w 19 18
  let n := bitCount w
  let bad : Bool := match insOp w with
    | 0x00 => badJmp w
    | 0x01 => badWait w
    | 0x02 => natBits w 13 5 != 0 || natBits w 19 17 > 5 || (natBits w 19 17 == 0 && n > 4)
    | 0x03 => natBits w 13 5 != 0 || natBits w 19 17 > 4 || (natBits w 19 17 ≤ 1 && n > 4)
    | 0x04 => natBits w 18 0 != 0
    | 0x05 => natBits w 18 0 != 0
    | 0x06 => natBits w 8 0 != 0 || natBits w 19 16 > 5 || natBits w 15 12 > 12 || natBits w 11 9 == 7
    | 0x07 => natBits w 17 16 == 3
    | 0x08 => reg > 1 || natBits w 17 16 != 0
    | 0x09 => reg > 1 || natBits w 17 6 != 0
    | 0x0A => natBits w 16 0 != 0 || reg == 3 || (natBit w 17 && reg != 1)
    | 0x0B => natBits w 13 0 != 0
    | 0x0C => natBits w 18 3 != 0
    | 0x0D => natBits w 17 4 != 0 || reg == 3
    | 0x0E => natBits w 17 0 != 0
    | 0x0F => natBits w 16 5 != 0
    | 0x10 => natBits w 7 0 != 0 || (reg != 3 && natBits w 17 16 != 0)
    | 0x11 => natBits w 11 0 != 0
    | 0x12 => natBits w 19 2 != 0
    | 0x13 => natBits w 19 0 != 0
    | 0x14 => natBits w 15 8 != 0 || reg > 1 || natBits w 17 16 == 3
    | 0x15 => false
    | 0x16 => natBit w 13 && natBits w 12 0 != 0
    | 0x17 => natBits w 19 4 != 0
    | _ => true
  if insOp w ≥ 0x18 then some 1 else if bad then some 2 else none

/-! Data operations. -/

/-- A 32-bit value. -/
def word32 (n : Nat) : Nat := n % 2 ^ 32

/-- SETI's new value of a register (R219). -/
def setiValue (mode imm old : Nat) : Nat :=
  match mode with
  | 0 => imm
  | 1 => imm * 2 ^ 16 + old % 2 ^ 16
  | _ => ofSigned (toSigned imm 16) 32

/-- ADDI's new value of a register (R219). -/
def addiValue (simm old : Nat) : Nat := word32 (old + ofSigned (toSigned simm 16) 32)

/-- The reversal of the 32 bit positions (R220). -/
def reverseBits (v : Nat) : Nat := (List.range 32).foldl (fun a i => a * 2 + b2n (natBit v i)) 0

/-- The number of leading 0 bits of a 32-bit value (R220). -/
def leadingZeros (v : Nat) : Nat := ((List.range 32).takeWhile fun i => !natBit v (31 - i)).length

/-- MOV's transform (R220). -/
def movTransform (op v : Nat) : Nat :=
  match op with
  | 1 => 2 ^ 32 - 1 - word32 v
  | 2 => word32 (2 ^ 32 - word32 v)
  | 3 => leNat (beBytes 4 v)
  | 4 => reverseBits v
  | 5 => ((List.range 32).filter (natBit v)).length
  | 6 => leadingZeros v
  | _ => word32 v

/-- IN's new ISR (R221): `data` holds the low n bits of the source. -/
def shiftIn (right : Bool) (n isr data : Nat) : Nat :=
  let d := data % 2 ^ n
  if right then isr / 2 ^ n ||| word32 (d * 2 ^ (32 - n)) else word32 (isr * 2 ^ n) ||| d

/-- OUT's data and new OSR (R222). -/
def shiftOut (top : Bool) (n osr : Nat) : Nat × Nat :=
  if top then (osr / 2 ^ (32 - n), word32 (osr * 2 ^ n)) else (osr % 2 ^ n, osr / 2 ^ n)

/-- LDT's table index (R225). -/
def ldtIndex (isrc imm x y : Nat) : Nat :=
  match isrc with
  | 0 => imm
  | 1 => (x + imm) % 256
  | _ => (y + imm) % 256

/-! Time operands (R211): a time in domain units from v quarters. -/

/-- A quarter nanosecond in domain units. -/
def quarterUnits : Nat := 2 ^ 37

/-- Mode 0: the instant with this ns and quarter that lies within half a second of now (R211); none when ns is a second or
more (R213). `unit` and `sec` are a nanosecond and a second in domain units. -/
def absoluteTime (unit sec : Nat) (v : Nat) (now : Nat) : Option Int :=
  let ns := natBits v 29 0
  if ns ≥ 1000000000 then none
  else
    let sub : Int := ns * unit + natBits v 31 30 * quarterUnits
    let k := ((now : Int) - (sec : Int) / 2 - sub + (sec : Int) - 1) / (sec : Int)
    some (k * (sec : Int) + sub)

end Sys2Proof.Machine
end

