-- ==== Sys2Proof/Machine/Flags.lean ====
section
/-! DEFINITION. The conditions and flags of the sett instructions: JMP's and CMPJ's relations, FLAG's actions, and the CRC
of CRCB (R215, R217, R226, R241). -/

namespace Sys2Proof.Machine

/-- The relations of X and Y that JMP tests (R215). -/
def jmpRelation (cond x y : Nat) : Bool :=
  match cond with
  | 1 => x == y
  | 2 => x != y
  | 3 => x < y
  | _ => toSigned x 32 < toSigned y 32

/-- CMPJ's relation (R217). -/
def cmpRelation (rel v imm : Nat) : Bool :=
  match rel with
  | 0 => v == imm
  | 1 => v != imm
  | 2 => v < imm
  | _ => (v &&& imm) != 0

/-- FLAG's new flags (R241): op 0 sets, 1 clears, 2 inverts, 3 copies a pin level, in the flags of the mask. -/
def flagAction (op mask flags : Nat) (pin : Bool) : Nat :=
  (List.range 8).foldl (fun a k =>
    if natBit mask k then natSetBit a k (match op with | 0 => true | 1 => false | 2 => !natBit flags k | _ => pin) else a) flags

/-- Width and polynomials of CRCB (R226): w, p, p reflected. -/
def crcPoly (poly : Nat) : Nat × Nat × Nat :=
  match poly with
  | 0 => (16, 0x1021, 0x8408)
  | 1 => (16, 0x8005, 0xA001)
  | 2 => (32, 0x04C11DB7, 0xEDB88320)
  | _ => (8, 0x07, 0xE0)

/-- One bit into the CRC of CRCB (R226). -/
def crcbBit (w p pr : Nat) (reflect : Bool) (c : Nat) (b : Bool) : Nat :=
  if reflect then
    let t := natBit c 0 != b
    let c' := c / 2
    if t then c' ^^^ pr else c'
  else crcBit w p c b

/-- CRCB's new Y (R226). -/
def crcbValue (poly : Nat) (reflect : Bool) (n x y : Nat) : Nat :=
  let (w, p, pr) := crcPoly poly
  let bits := (List.range n).map fun k => natBit x (if reflect then k else n - 1 - k)
  y / 2 ^ w * 2 ^ w + bits.foldl (crcbBit w p pr reflect) (y % 2 ^ w)

end Sys2Proof.Machine
end

