-- ==== Sys2Proof/Machine/Sett.lean ====
section
/-! DEFINITION. Quad pins and setts: drives, samples, stamps, edges, and the meaning of every sett instruction (R172 to
R244). What the spec leaves to a reading or a choice stands in log entries 17, 18 and 19. -/

namespace Sys2Proof.Machine

/-! Setts, pins and benches as state. -/

/-- Sett k of bench b. -/
def State.sett (s : State) (b k : Nat) : Sett := smGet s.setts (b * 64 + k) {}

/-- A sett replaced. -/
def State.setSett (s : State) (b k : Nat) (x : Sett) : State := { s with setts := smSet s.setts (b * 64 + k) x {} }

/-- A sett changed. -/
def State.onSett (s : State) (b k : Nat) (f : Sett → Sett) : State := s.setSett b k (f (s.sett b k))

/-- Pin p of bench b. -/
def State.pinOf (s : State) (b p : Nat) : Pin := smGet s.pins (b * 64 + p) {}

/-- A pin replaced. -/
def State.setPin (s : State) (b p : Nat) (x : Pin) : State := { s with pins := smSet s.pins (b * 64 + p) x {} }

/-- Bench b beside its registers. -/
def State.benchOf (s : State) (b : Nat) : Bench := smGet s.benches b {}

/-- A bench replaced. -/
def State.setBench (s : State) (b : Nat) (x : Bench) : State := { s with benches := smSet s.benches b x {} }

/-- Quad pin j of a sett's quad, as a pin of the bench (R172). -/
def quadPin (k j : Nat) : Nat := 4 * (k / 4) + j % 4

/-- Entries in use of the edge unit (R192, R232). -/
def entriesUsed (t : Sett) : Nat := t.edges.length + b2n t.timeout.isSome

/-- The state code of SETT_STATUS (R175). -/
def phaseCode : SettPhase → Nat
  | .reset => 0
  | .stopped => 1
  | .running => 2
  | .waiting => 3
  | .halted => 4
  | .trapped => 5

/-- SETT_STATUS as it reads. -/
def State.settStatusWord (s : State) (b k : Nat) : Nat :=
  let t := s.sett b k
  phaseCode t.phase * 2 ^ 29 + t.cause * 2 ^ 25 + b2n t.inject.isSome * 2 ^ 24 + t.inbox.length * 2 ^ 21
    + t.outbox.length * 2 ^ 18 + entriesUsed t * 2 ^ 16 + t.flags * 2 ^ 8 + t.pc

/-! Waits that an event meets while they last (R235, R236). -/

/-- The wait of a sett is met. -/
def State.meet (s : State) (b k : Nat) : State :=
  s.onSett b k fun t => match t.wait with
    | some x => { t with wait := some { x with met := true } }
    | none => t

/-- The waits that now hold on a bench event line or a controller line are met (R235). -/
def State.meetLines (s : State) (b : Nat) : State :=
  s.each (List.range 64) fun s k =>
    match (s.sett b k).wait with
    | some x =>
      let lines := if natBits x.word 19 16 = 5 then some (s.benchOf b).events
        else if natBits x.word 19 16 = 6 then some (s.benchOf b).lines else none
      match lines with
      | some l => s.when (insOp x.word == 1 && natBit l (natBits x.word 3 0) == natBit x.word 15) fun s => s.meet b k
      | none => s
    | none => s

/-- The waits on a pin that an edge to a logical level meets (R235, R236). -/
def State.meetPin (s : State) (b p : Nat) (level : Bool) : State :=
  s.each ((List.range 4).map fun i => 4 * (p / 4) + i) fun s k =>
    match (s.sett b k).wait with
    | some x =>
      let here := insOp x.word == 1 && natBits x.word 1 0 == p % 4
      let hit := match natBits x.word 19 16 with
        | 0 => natBit x.word 15 == level
        | 1 => natBit x.word 2 || natBit x.word 15 == level
        | _ => false
      s.when (here && hit) fun s => s.meet b k
    | none => s

/-! Edges at a ball (R187 to R191). -/

/-- An edge selection takes an edge (SETT_CTRL.stamp_edge, cnt_edge). -/
def qualifies (sel : Nat) (rising : Bool) : Bool := natBit sel (if rising then 0 else 1)

/-- The capture of an edge now (R188, R190): the time rounded to a quarter nanosecond, halves to the earlier one. -/
def State.captureNow (s : State) (b : Nat) (rising : Bool) : Capture :=
  let dom := s.domOfConsumer (.bench b)
  let d := if dom = .a then 0 else 1
  let t := (s.now dom + quarterUnits / 2 - 1) / quarterUnits * quarterUnits
  { lo := quarterOf t * 2 ^ 30 + nsOf t
    hi := s.get F.BNCH_STATUS_time_valid [b] * 2 ^ 31 + s.get F.TIME_DOM_STATUS_traceable [d] * 2 ^ 30 + d * 2 ^ 29
            + secOf t % 2 ^ 16
    rising := rising, t := t, dom := dom }

/-- A qualifying edge is captured; one that had not been read is lost (R189). -/
def State.stampEdge (s : State) (b k : Nat) (rising : Bool) : State :=
  let t := s.sett b k
  let s := s.setSett b k { t with capture := some (s.captureNow b rising), unread := true, missed := t.missed || t.unread }
  s.when t.unread fun s => s.inc F.SETT_ERR_stamp_missed [b, k]

/-- The ball of a pin takes a level: the own pin's stamp unit and edge counter, and the waits of the quad, see the edge. -/
def State.ballLevel (s : State) (b p : Nat) (level : Bool) : State :=
  let x := s.pinOf b p
  if x.ball = level then s
  else
    let s := s.setPin b p { x with ball := level }
    let rising := level != s.is F.BNCH_PAD_invert [b, p]
    let alive := (s.sett b p).phase != .reset
    let s := s.when (alive && qualifies (s.get F.SETT_CTRL_stamp_edge [b, p]) rising) fun s => s.stampEdge b p rising
    let s := s.when (alive && qualifies (s.get F.SETT_CTRL_cnt_edge [b, p]) rising) fun s =>
      s.onSett b p fun t => { t with edgeCount := word32 (t.edgeCount + 1) }
    s.meetPin b p rising

/-- What a pin drives onto its ball: nothing, or a level. -/
def State.pinDrive (s : State) (b p : Nat) (x : Pin) : Option Bool :=
  if x.enable then
    let level := x.out != s.is F.BNCH_PAD_invert [b, p]
    if s.is F.BNCH_PAD_open_drain [b, p] && level then none else some level
  else none

/-- The bank of a bench is supplied (R552, R584): always outside the reset of the power edge; in it, while its rail's enable is
raised. -/
def State.bankPowered (s : State) (b : Nat) : Bool :=
  !s.edge.held || s.bitOf F.EDGE_RAIL_STATUS_pwr_en [] (if b < 8 then 3 else 4)

/-- The level a pad's pull gives its ball: BNCH_PAD.pull, and no pull while the bank is unpowered (R591). -/
def State.padPull (s : State) (b p : Nat) : Option Bool :=
  if s.bankPowered b then
    match s.get F.BNCH_PAD_pull [b, p] with
    | 1 => some false
    | 2 => some true
    | _ => none
  else none

/-- The level of a ball: what the hub drives, else what an outside driver drives, else the pull; none where nothing fixes it, or
where the hub and an outside driver drive opposite levels (R187). -/
def State.ballAt (s : State) (b p : Nat) : Option Bool :=
  let x := s.pinOf b p
  match s.pinDrive b p x, x.outside with
  | some d, some o => if d = o then some d else none
  | some d, none => some d
  | none, some o => some o
  | none, none => s.padPull b p

/-- A ball without a defined level floats (R187). -/
def State.floats (s : State) (b p : Nat) : Bool := (s.ballAt b p).isNone

/-- The ball takes the level that holds on it, when there is one. -/
def State.settleBall (s : State) (b p : Nat) : State :=
  match s.ballAt b p with
  | some level => s.ballLevel b p level
  | none => s

/-- A sample of a ball (R187): a ball without a defined level is read afresh. -/
def State.sample (s : State) (b p : Nat) : Bool × State :=
  if s.floats b p then
    let (v, s) := s.drawLevel
    (v, s.ballLevel b p v)
  else ((s.pinOf b p).ball, s)

/-- The logical level of quad pin j as an instruction reads it (R210). -/
def State.readPin (s : State) (b k j : Nat) : Bool × State :=
  let p := quadPin k j
  let (v, s) := s.sample b p
  (v != s.is F.BNCH_PAD_invert [b, p], s)

/-- The logical levels of `n` quad pins from j on: bit i is the level of pin (j + i) mod 4 (R221). -/
def State.readPins (s : State) (b k j : Nat) : Nat → Nat × State
  | 0 => (0, s)
  | n + 1 =>
    let (v, s) := s.readPins b k j n
    let (l, s) := s.readPin b k (j + n)
    (v + b2n l * 2 ^ n, s)

/-! Drives (R182 to R186, R208). -/

/-- A pin's output is replaced: the ball follows what is driven, and a ball the hub lets go follows the outside driver or its
pull. -/
def State.output (s : State) (b p : Nat) (x : Pin) : State :=
  let before := s.pinDrive b p (s.pinOf b p)
  let after := s.pinDrive b p x
  let s := s.setPin b p x
  if before = after then s else (s.emit (.pin b p after)).settleBall b p

/-- BNCH_PAD of a pin has been written; `old` is the state before. What the hub drives at the ball stays, since the register
changes only while the pin is in its safe state or undriven (R186), but for a high level of a pin that now is open-drain; the
ball follows a new pull. -/
def State.padWritten (s old : State) (b p : Nat) : State :=
  if s.rd .BNCH_PAD [b, p] = old.rd .BNCH_PAD [b, p] then s
  else
  let x := s.pinOf b p
  let before := old.pinDrive b p x
  let x := { x with out := (x.out != old.is F.BNCH_PAD_invert [b, p]) != s.is F.BNCH_PAD_invert [b, p] }
  let after := s.pinDrive b p x
  let s := (s.setPin b p x).when (before != after) fun s => s.emit (.pin b p after)
  s.settleBall b p

/-- The owner of a quad pin, as a sett of the quad, and whether the pin may be driven (R182). -/
def State.owner (s : State) (b p : Nat) : Nat :=
  natBits (s.rd .BNCH_QUAD_CFG [b, p / 4]) (8 * (p % 4) + 1) (8 * (p % 4))
def State.driveEnabled (s : State) (b p : Nat) : Bool := natBit (s.rd .BNCH_QUAD_CFG [b, p / 4]) (8 * (p % 4) + 7)

/-- The sett that owns a pin. -/
def State.ownerSett (s : State) (b p : Nat) : Nat := 4 * (p / 4) + s.owner b p

/-- The present sett cycle (R205): two time-core cycles. -/
def State.settCycle (s : State) : Nat := s.time.cycles / 2

/-- A drive that is not applied (R183, R184). -/
def State.contention (s : State) (b k p : Nat) : State :=
  let x := s.pinOf b p
  let c := s.settCycle
  let n := if x.runCount ≠ 0 ∧ x.runCycle = c then x.runCount else if x.runCount ≠ 0 ∧ x.runCycle + 1 = c then x.runCount + 1 else 1
  let s := s.setPin b p { x with runCycle := c, runCount := if n ≥ 64 then 0 else n }
  let s := s.setBitOf F.BNCH_STATUS_contention [b] (p / 4) true
  let s := s.leaf (benchLeaf b 3) (p / 4) (k * 256 + p % 4)
  s.when (n ≥ 64) fun s => (s.leaf (benchLeaf b 4) k 4).onSett b k fun t => { t with contended := true }

/-- A drive by sett k to a pin: applied when the sett owns the pin and the pin may be driven (R182, R183). The pins of a
bench out of service stay in their safe states (R571). -/
def State.drive (s : State) (b k p : Nat) (f : Pin → Pin) : State :=
  if s.is F.BNCH_STATUS_out_of_service [b] then s
  else if s.owner b p = k % 4 ∧ s.driveEnabled b p then s.output b p (f (s.pinOf b p))
  else s.contention b k p

/-- A program drive of a pin's level: a scheduled edge applied at the same instant takes precedence (R185). -/
def State.driveOut (s : State) (b k p : Nat) (level : Bool → Bool) : State :=
  s.drive b k p fun x => if x.edgeAt = some s.time.cycles then x else { x with out := level x.out }

/-- A drive of a level, of a level by a scheduled edge, and of an output enable. -/
def State.driveLevel (s : State) (b k p : Nat) (level : Bool) : State := s.driveOut b k p fun _ => level
def State.driveEdge (s : State) (b k p : Nat) (level : Bool) : State :=
  s.drive b k p fun x => { x with out := level, edgeAt := some s.time.cycles }
def State.driveEnable (s : State) (b k p : Nat) (on : Bool) : State := s.drive b k p fun x => { x with enable := on }

/-- A pin goes to its safe state (R186). -/
def State.safePin (s : State) (b p : Nat) : State :=
  let x := s.pinOf b p
  let inv := s.is F.BNCH_PAD_invert [b, p]
  match natBits (s.rd .BNCH_QUAD_CFG [b, p / 4]) (8 * (p % 4) + 6) (8 * (p % 4) + 5) with
  | 0 => s.output b p { x with enable := false }
  | 1 => s.output b p { x with enable := true, out := inv }
  | 2 => s.output b p { x with enable := true, out := !inv }
  | _ => s

/-- The pins a sett owns. -/
def State.ownedPins (s : State) (b k : Nat) : List Nat :=
  ((List.range 4).map (fun j => quadPin k j)).filter fun p => s.ownerSett b p == k

/-- The pins a sett owns go to their safe states. -/
def State.safeOwned (s : State) (b k : Nat) : State := s.each (s.ownedPins b k) fun s p => s.safePin b p

/-- The side actions of an instruction (R207), but for the pins its operand drives (R185). -/
def State.sideSet (s : State) (b k w : Nat) (driven : Nat → Bool) : State :=
  s.each ((List.range 4).filter fun j => !driven j) fun s j =>
    let bit := natBit (insSide w) j
    let p := quadPin k j
    match natBits (s.rd .SETT_SIDE [b, k]) (2 * j + 1) (2 * j) with
    | 1 => s.driveLevel b k p bit
    | 2 => s.when bit fun s => s.driveOut b k p fun v => !v
    | 3 => s.when bit fun s => (s.driveLevel b k p true).drive b k p fun x => { x with out := false }
    | _ => s

/-! Traps and stops (R175, R186, R206). -/

/-- A sett traps (R186, R194, R206). -/
def State.trap (s : State) (b k cause : Nat) : State :=
  let s := s.onSett b k fun t =>
    { t with phase := .trapped, cause := cause, edges := [], timeout := none, inject := none, wait := none, contended := false }
  let s := s.leaf (benchLeaf b 0) k
  let s := s.when (!(s.ownedPins b k).isEmpty) fun s => s.leaf (benchLeaf b 5) (k / 4)
  s.safeOwned b k

/-- A sett is stopped (R176): a wait ends with no effect. -/
def State.stopSett (s : State) (b k cause : Nat) : State :=
  s.onSett b k fun t => { t with phase := .stopped, cause := cause, wait := none, contended := false }

/-! Scheduled edges (R192 to R194). -/

/-- The oldest pending edge is applied, and with it the late ones directly behind it. -/
def State.applyEdges (s : State) (b k : Nat) : List SettEdge → State
  | [] => s.onSett b k fun t => { t with edges := [] }
  | e :: rest =>
    let s := s.driveEdge b k (quadPin k e.pin) e.level
    match rest with
    | r :: _ => if r.late then s.applyEdges b k rest else s.onSett b k fun t => { t with edges := rest }
    | [] => s.onSett b k fun t => { t with edges := [] }

/-- A sett with persistent contention stops at its boundary (R184). -/
def State.stopContended (s : State) (b k : Nat) : State :=
  let t := s.sett b k
  if t.contended then
    (if t.phase = .running ∨ t.phase = .waiting then s.stopSett b k 4 else s.onSett b k fun t => { t with contended := false })
  else s

/-- An edge is armed (R193): late when its time has passed or precedes that of the edge armed before it. -/
def State.armEdge (s : State) (b k pin : Nat) (level : Bool) (T : Int) (dom : Dom) : State :=
  let t := s.sett b k
  let behind := t.edges.any fun e => decide (T - (s.now dom : Int) < e.t - (s.now e.dom : Int))
  let late := behind || decide (T < (s.now dom : Int))
  let e : SettEdge := { pin := pin, level := level, t := T, dom := dom, late := late && !t.edges.isEmpty }
  let s := s.when late fun s => s.inc F.SETT_ERR_late_edges [b, k]
  if late && t.edges.isEmpty then s.driveEdge b k (quadPin k pin) level
  else s.setSett b k { t with edges := t.edges ++ [e] }

/-- The reference time is set to T, in both domains (R212). -/
def State.setReference (s : State) (b k : Nat) (T : Int) (dom : Dom) : State :=
  let diff := (s.now .b : Int) - (s.now .a : Int)
  s.onSett b k fun t => { t with reference := some (if dom = .a then (T, T + diff) else (T - diff, T)) }

/-- The time of an operand and its domain, for an instruction whose first cycle began at `now` of domain `dom` (R211, R376);
none when a mode-0 operand is not valid (R213). -/
def timeOperand (t : Sett) (now : Nat) (dom : Dom) (mode v : Nat) : Option (Int × Dom) :=
  let rel : Int := (word32 v * quarterUnits : Nat)
  match mode with
  | 0 => (absoluteTime unitsPerNs unitsPerSec v now).map fun T => (T, dom)
  | 1 => some (now + rel, dom)
  | 2 => match t.capture with
    | some c => some ((c.t : Int) + rel, c.dom)
    | none => some (now + rel, dom)
  | _ => match t.reference with
    | some (ra, rb) => some ((if dom = .a then ra else rb) + rel, dom)
    | none => some (now + rel, dom)

/-! The stamp as a sett reads it (R228, R229). -/

/-- The low and high word of the capture held, the direction in bit 27. -/
def stampWords (t : Sett) : Nat × Nat :=
  match t.capture with
  | some c => (c.lo, c.hi + b2n t.missed * 2 ^ 28 + b2n c.rising * 2 ^ 27)
  | none => (0, b2n t.missed * 2 ^ 28)

/-- The high word as SETT_STAMP_HI shows it. -/
def stampHigh (t : Sett) : Nat :=
  (match t.capture with | some c => c.hi | none => 0) + b2n t.missed * 2 ^ 28

/-- The capture counts as read (R189). -/
def State.stampRead (s : State) (b k : Nat) : State := s.onSett b k fun t => { t with unread := false, missed := false }

/-! Mailboxes (R195 to R199). -/

/-- Words are discarded at a full OUT mailbox (R198, R254). -/
def State.overrun (s : State) (b k : Nat) : State := ((s.inc F.SETT_ERR_overrun [b, k]).leaf (benchLeaf b 2) k).portOverrun b k

/-! Waiting (R235 to R240). -/

/-- Members of a barrier group. -/
def State.syncMember (s : State) (b g k : Nat) : Bool :=
  if k < 32 then natBit (s.rd .BNCH_SYNC_MASK_LO [b, g]) k else natBit (s.rd .BNCH_SYNC_MASK_HI [b, g]) (k - 32)

/-- A sett waits at a SYNC on group g. -/
def atBarrier (t : Sett) (g : Nat) : Bool :=
  match t.wait with
  | some x => t.phase == .waiting && insOp x.word == 0x12 && natBits x.word 1 0 == g
  | none => false

/-- The barrier is open for sett k (R238): every other running or waiting member waits at it. -/
def State.barrierOpen (s : State) (b g k : Nat) : Bool :=
  (List.range 64).all fun m =>
    m == k || !s.syncMember b g m ||
      (let t := s.sett b m; !(t.phase == .running || t.phase == .waiting) || atBarrier t g)

/-- The condition of a WAIT holds now (R235). -/
def State.waitHolds (s : State) (b k w : Nat) (time : Option (Int × Dom)) : Bool × State :=
  let pol := natBit w 15
  let ix := natBits w 11 0
  match natBits w 19 16 with
  | 0 =>
    let (v, s) := s.readPin b k ix
    (v == pol, s)
  | 1 => (false, (s.readPin b k ix).2)
  | 2 => (natBit (s.sett b k).flags ix == pol, s)
  | 3 => (s.lineState ix == pol, s)
  | 4 => (s.hubStale ix == pol, s)
  | 5 => (natBit (s.benchOf b).events ix == pol, s)
  | 6 => (natBit (s.benchOf b).lines ix == pol, s)
  | _ => match time with
    | some (T, dom) => (decide (T ≤ (s.now dom : Int)), s)
    | none => (true, s)

/-- The instruction can complete now: its condition holds, or it does not wait. -/
def State.ready (s : State) (b k w : Nat) (time : Option (Int × Dom)) : Bool × State :=
  let t := s.sett b k
  match insOp w with
  | 0x01 => s.waitHolds b k w time
  | 0x04 => (!natBit w 19 || t.outbox.length < 4, s)
  | 0x05 => (!natBit w 19 || !t.inbox.isEmpty, s)
  | 0x0A => ((match natBits w 19 18 with | 2 => t.unread | 1 => !natBit w 17 || t.outbox.length ≤ 2 | _ => true), s)
  | 0x0B => (entriesUsed t < 2, s)
  | 0x12 => (s.barrierOpen b (natBits w 1 0) k, s)
  | 0x16 => (t.timeout.isSome || entriesUsed t < 2, s)
  | 0x17 => (natBit t.latches (natBits w 3 0), s)
  | _ => (true, s)

/-! The effect of each opcode, when it completes. The program counter already names the next program instruction. -/

/-- A register named by a 2-bit field (R214). -/
def regOf (t : Sett) : Nat → Nat
  | 0 => t.x
  | 1 => t.y
  | 2 => t.isr
  | _ => t.osr

/-- A register named by a 2-bit field, replaced. -/
def setRegOf (t : Sett) (r v : Nat) : Sett :=
  match r with
  | 0 => { t with x := v }
  | 1 => { t with y := v }
  | 2 => { t with isr := v }
  | _ => { t with osr := v }

/-- The program counter takes a target. -/
def State.jump (s : State) (b k target : Nat) : State := s.onSett b k fun t => { t with pc := target % 64 }

/-- JMP (R215). -/
def State.doJmp (s : State) (b k w : Nat) : State :=
  let t := s.sett b k
  let sel := natBits w 15 13
  let (c, s) := match natBits w 19 16 with
    | 0 => (true, s)
    | 5 => (natBit t.flags sel, s)
    | 6 => (!natBit t.flags sel, s)
    | 7 => s.readPin b k sel
    | 8 => let (v, s) := s.readPin b k sel; (!v, s)
    | 9 => (t.unread, s)
    | 10 => (!t.inbox.isEmpty, s)
    | 11 => (decide (t.outbox.length < 4), s)
    | 12 => (decide (entriesUsed t < 2), s)
    | 13 => (t.osrCount == 0, s)
    | 14 => (t.timeout.isSome, s)
    | cond => (jmpRelation cond t.x t.y, s)
  if c then s.jump b k (natBits w 5 0) else s

/-- IN (R221). -/
def State.doIn (s : State) (b k w : Nat) : State :=
  let n := bitCount w
  let t := s.sett b k
  let (data, s) := match natBits w 19 17 with
    | 0 => s.readPins b k (natBits w 16 15) n
    | 1 => (t.x, s)
    | 2 => (t.y, s)
    | 3 => (0, s)
    | 4 => (2 ^ 32 - 1, s)
    | _ => (t.edgeCount, s)
  s.onSett b k fun t => { t with isr := shiftIn (natBit w 14) n t.isr data, isrCount := min (t.isrCount + n) 32 }

/-- OUT (R222). -/
def State.doOut (s : State) (b k w : Nat) : State :=
  let n := bitCount w
  let j := natBits w 16 15
  let (data, osr) := shiftOut (natBit w 14) n (s.sett b k).osr
  let s := s.onSett b k fun t => { t with osr := osr, osrCount := t.osrCount - n }
  match natBits w 19 17 with
  | 0 => s.each (List.range n) fun s i => s.driveLevel b k (quadPin k (j + i)) (natBit data i)
  | 1 => s.each (List.range n) fun s i => s.driveEnable b k (quadPin k (j + i)) (natBit data i)
  | 2 => s.onSett b k fun t => { t with x := data }
  | 3 => s.onSett b k fun t => { t with y := data }
  | _ => s

/-- PUSH (R223). -/
def State.doPush (s : State) (b k : Nat) : State :=
  let t := s.sett b k
  let s := if t.outbox.length < 4 then s.setSett b k { t with outbox := t.outbox ++ [t.isr] } else s.overrun b k
  s.onSett b k fun t => { t with isr := 0, isrCount := 0 }

/-- PULL (R224). -/
def State.doPull (s : State) (b k : Nat) : State :=
  s.onSett b k fun t => match t.inbox with
    | v :: rest => { t with osr := v, osrCount := 32, inbox := rest }
    | [] => t

/-- MOV (R220, R229). -/
def State.doMov (s : State) (b k w : Nat) : State :=
  let t := s.sett b k
  let (v, s) := match natBits w 15 12 with
    | 0 => (t.x, s)
    | 1 => (t.y, s)
    | 2 => (t.isr, s)
    | 3 => (t.osr, s)
    | 4 => (t.flags, s)
    | 5 => s.readPins b k 0 4
    | 6 => (t.edgeCount, s)
    | 7 => ((stampWords t).1, (s.setSett b k { t with highRead := some (stampWords t).2 }).stampRead b k)
    | 8 => (t.highRead.getD (stampWords t).2, s)
    | 10 => (t.pc, s)
    | 11 => (t.isrCount, s)
    | 12 => (t.osrCount, s)
    | _ => (0, s)
  let v := movTransform (natBits w 11 9) v
  s.onSett b k fun t => match natBits w 19 16 with
    | 0 => { t with x := v }
    | 1 => { t with y := v }
    | 2 => { t with isr := v, isrCount := 32 }
    | 3 => { t with osr := v, osrCount := 32 }
    | 4 => { t with flags := v % 256 }
    | _ => { t with pc := v % 64 }

/-- SETI (R219). -/
def State.doSeti (s : State) (b k w : Nat) : State :=
  let r := natBits w 19 18
  s.onSett b k fun t => setRegOf t r (setiValue (natBits w 17 16) (natBits w 15 0) (regOf t r))

/-- ADDI (R219). -/
def State.doAddi (s : State) (b k w : Nat) : State :=
  let r := natBits w 19 18
  s.onSett b k fun t => setRegOf t r (addiValue (natBits w 15 0) (regOf t r))

/-- DJNZ (R216). -/
def State.doDjnz (s : State) (b k w : Nat) : State :=
  let r := natBits w 19 18
  let v := word32 (regOf (s.sett b k) r + 2 ^ 32 - 1)
  let s := s.onSett b k fun t => setRegOf t r v
  if v ≠ 0 then s.jump b k (natBits w 5 0) else s

/-- STAMP (R228). -/
def State.doStamp (s : State) (b k w : Nat) : State :=
  let t := s.sett b k
  let (lo, hi) := stampWords t
  let s := s.stampRead b k
  if natBits w 19 18 = 1 then
    if t.outbox.length ≤ 2 then s.onSett b k fun t => { t with outbox := t.outbox ++ [lo, hi] } else s.overrun b k
  else s.onSett b k fun t => { t with x := lo, y := hi }

/-- AT (R211 to R213, R231): T counts from the start of the first cycle, in the domain in force then (R376). -/
def State.doAt (s : State) (b k : Nat) (i : SettWait) : State :=
  let t := s.sett b k
  let w := i.word
  match timeOperand t i.now i.dom (natBits w 16 15) (if natBit w 14 then t.y else t.x) with
  | none => s.inc F.SETT_ERR_late_edges [b, k]
  | some (T, dom) => (s.armEdge b k (natBits w 19 18) (natBit w 17) T dom).setReference b k T dom

/-- SHOT (R242). -/
def State.doShot (s : State) (b k w : Nat) : State := s.settShot b k (natBits w 2 0) (natBit w 19)

/-- The bench event lines take a value, and waits on them see it. -/
def State.setEvents (s : State) (b v : Nat) : State := (s.setBench b { s.benchOf b with events := v }).meetLines b

/-- RAISE (R239). -/
def State.doRaise (s : State) (b k w : Nat) : State :=
  let _ := k
  let e := natBits w 3 0
  let was := (s.benchOf b).events
  match natBits w 19 18 with
  | 1 => s.setEvents b (natSetBit was e true)
  | 2 => s.setEvents b (natSetBit was e false)
  | _ => (s.setEvents b (natSetBit was e true)).setEvents b was

/-- CNT (R230). -/
def State.doCnt (s : State) (b k w : Nat) : State :=
  s.onSett b k fun t =>
    let t := if natBit w 19 then { t with y := t.edgeCount } else { t with x := t.edgeCount }
    if natBit w 18 then { t with edgeCount := 0 } else t

/-- CRCB (R226). -/
def State.doCrcb (s : State) (b k w : Nat) : State :=
  s.onSett b k fun t => { t with y := crcbValue (natBits w 19 18) (natBit w 17) (bitCount w) t.x t.y }

/-- FLAG (R241). -/
def State.doFlag (s : State) (b k w : Nat) : State :=
  let op := natBits w 19 18
  let (pin, s) := if op = 3 then s.readPin b k (natBits w 17 16) else (false, s)
  s.onSett b k fun t => { t with flags := flagAction op (natBits w 15 8) t.flags pin }

/-- DIR (R227). -/
def State.doDir (s : State) (b k w : Nat) : State :=
  s.each ((List.range 4).filter fun j => natBit (natBits w 19 16) j) fun s j =>
    s.driveEnable b k (quadPin k j) (natBit (natBits w 15 12) j)

/-- LDT (R225). -/
def State.doLdt (s : State) (b k w : Nat) : State :=
  let t := s.sett b k
  let v := s.rd .BNCH_LUT [b, ldtIndex (natBits w 17 16) (natBits w 7 0) t.x t.y]
  s.setSett b k (setRegOf t (natBits w 19 18) v)

/-- CMPJ (R217). -/
def State.doCmpj (s : State) (b k w : Nat) : State :=
  let t := s.sett b k
  let v := match natBits w 19 18 with | 0 => t.x | 1 => t.y | 2 => t.flags | _ => t.isr
  if cmpRelation (natBits w 17 16) v (natBits w 15 6) then s.jump b k (natBits w 5 0) else s

/-- TOUT (R232, R233, R376): a duration of 0 cancels. -/
def State.doTout (s : State) (b k : Nat) (i : SettWait) : State :=
  s.onSett b k fun t =>
    let w := i.word
    let dur := if natBit w 13 then t.x else natBits w 12 0 * 16
    { t with timeout := if dur = 0 then none else some (natBits w 19 14, dur, i.dom) }

/-- IRQW (R240). -/
def State.doIrqw (s : State) (b k w : Nat) : State :=
  s.onSett b k fun t => { t with latches := natSetBit t.latches (natBits w 3 0) false }

/-- HALT (R218). -/
def State.doHalt (s : State) (b k : Nat) : State := s.onSett b k fun t => { t with phase := .halted }

/-- The effect of a completed instruction. -/
def State.effect (s : State) (b k : Nat) (i : SettWait) : State :=
  let w := i.word
  match insOp w with
  | 0x00 => s.doJmp b k w
  | 0x02 => s.doIn b k w
  | 0x03 => s.doOut b k w
  | 0x04 => s.doPush b k
  | 0x05 => s.doPull b k
  | 0x06 => s.doMov b k w
  | 0x07 => s.doSeti b k w
  | 0x08 => s.doAddi b k w
  | 0x09 => s.doDjnz b k w
  | 0x0A => s.doStamp b k w
  | 0x0B => s.doAt b k i
  | 0x0C => s.doShot b k w
  | 0x0D => s.doRaise b k w
  | 0x0E => s.doCnt b k w
  | 0x0F => s.doCrcb b k w
  | 0x10 => s.doFlag b k w
  | 0x11 => s.doDir b k w
  | 0x13 => s.doHalt b k
  | 0x14 => s.doLdt b k w
  | 0x15 => s.doCmpj b k w
  | 0x16 => s.doTout b k i
  | 0x17 => s.doIrqw b k w
  | _ => s

/-- An instruction completes (R205): the program counter goes on, but for an injected one; the effect; and an injected
instruction returns to the state before it (R180). -/
def State.complete (s : State) (b k : Nat) (x : SettWait) : State :=
  let s := s.onSett b k fun t =>
    { t with phase := .running, wait := none, pc := if x.injected then t.pc else (t.pc + 1) % 64 }
  let s := s.effect b k x
  let s := s.onSett b k fun t => if t.phase = .running then { t with phase := x.back } else t
  s.stopContended b k

/-- The instruction of a sett that waits completes. -/
def State.completeWaiting (s : State) (b k : Nat) : State :=
  match (s.sett b k).wait with
  | some x => s.complete b k x
  | none => s

/-- A barrier opens: every member that waits at it completes in the same cycle (R238). -/
def State.openBarrier (s : State) (b g : Nat) : State :=
  let ms := (List.range 64).filter fun m => s.syncMember b g m && atBarrier (s.sett b m) g
  s.each ms fun s m => s.completeWaiting b m

/-- What a waiting sett waits for is looked at: it completes when its condition holds (R209). -/
def State.checkWait (s : State) (b k : Nat) : State :=
  match (s.sett b k).wait with
  | some x =>
    let (ok, s) := if x.met then (true, s) else s.ready b k x.word x.time
    if ok then (if insOp x.word = 0x12 then s.openBarrier b (natBits x.word 1 0) else s.complete b k x) else s
  | none => s

/-- The first cycle of a WAIT on time computes T and sets the reference (R211, R212); an operand that is not valid ends the
wait at once (R213). -/
def State.beginWait (s : State) (b k w : Nat) : Option (Int × Dom) × State :=
  if insOp w = 1 ∧ natBits w 19 16 = 7 then
    let t := s.sett b k
    let dom := s.domOfConsumer (.bench b)
    match timeOperand t (s.now dom) dom (natBits w 1 0) (if natBit w 2 then t.y else t.x) with
    | some (T, dom) => (some (T, dom), s.setReference b k T dom)
    | none => (none, s.inc F.SETT_ERR_late_edges [b, k])
  else (none, s)

/-- Quad pins an OUT to pins drives (R185). -/
def outDrives (w j : Nat) : Bool :=
  insOp w == 0x03 && natBits w 19 17 == 0 && (j + 4 - natBits w 16 15) % 4 < bitCount w

/-- An instruction that drives output enables: DIR, and OUT to enables (R222, R227). Neither waits nor samples a pin. -/
def enablesWord (w : Nat) : Bool := insOp w == 0x11 || (insOp w == 0x03 && natBits w 19 17 == 1)

/-- Such an instruction of sett k disables quad pin j. -/
def State.disables (s : State) (b k w j : Nat) : Bool :=
  if insOp w = 0x11 then natBit (natBits w 19 16) j && !natBit (natBits w 15 12) j
  else
    let n := bitCount w
    let i := (j + 4 - natBits w 16 15) % 4
    i < n && !natBit (shiftOut (natBit w 14) n (s.sett b k).osr).1 i

/-- The drives of one instruction act on a pin at one instant (R207, R208): an output that the instruction disables is off before
its level changes, and one that it enables shows the level its side action gives it. -/
def State.sideWithEnables (s : State) (b k w : Nat) : State :=
  let off := (List.range 4).filter fun j => s.disables b k w j && s.owner b (quadPin k j) == k % 4 && s.driveEnabled b (quadPin k j)
  (s.each off fun s j => s.driveEnable b k (quadPin k j) false).sideSet b k w (outDrives w)

/-- An instruction begins (R205): it completes or waits, on what stands at the start of its first cycle, and its side actions
reach the balls with its own drives, after what it samples (R207, R208, R210, R236). -/
def State.beginWord (s : State) (b k w : Nat) (injected : Bool) (back : SettPhase) : State :=
  let s := s.onSett b k fun t => { t with phase := .running, wait := none }
  let dom := s.domOfConsumer (.bench b)
  let now := s.now dom
  let (time, s) := s.beginWait b k w
  let x : SettWait := { word := w, injected := injected, back := back, now := now, dom := dom, time := time }
  let s := s.onSett b k fun t => { t with phase := .waiting, wait := some x }
  let s := if enablesWord w then (s.sideWithEnables b k w).checkWait b k else (s.checkWait b k).sideSet b k w (outDrives w)
  s.stopContended b k

/-- The word a sett would execute next, and whether it was injected. -/
def State.nextWord (s : State) (b k : Nat) : Nat × Bool :=
  let t := s.sett b k
  match t.inject with
  | some w => (w, true)
  | none => (s.rd .SETT_PROG [b, k, t.pc], false)

/-- The state an injected instruction returns to (R180): running, unless it was injected in stopped or halted. -/
def injectedBack (t : Sett) : SettPhase :=
  match t.phase with
  | .stopped => .stopped
  | .halted => .halted
  | .waiting => t.abandoned
  | _ => .running

/-- A sett reaches an instruction boundary at which it executes a word: running, or with an injected word pending. -/
def Sett.fetches (t : Sett) : Bool :=
  match t.phase with
  | .running => true
  | .waiting => t.inject.isSome
  | .stopped => t.inject.isSome
  | .halted => t.inject.isSome
  | _ => false

/-- The trap of a word, barrier membership included (R206). -/
def State.wordTrap (s : State) (b k w : Nat) : Option Nat :=
  match badWord w with
  | some c => some c
  | none => if insOp w = 0x12 ∧ ¬ s.syncMember b (natBits w 1 0) k then some 2 else none

/-- The sett fetches its next word (R174), which traps, or begins when its opcode is `op` (any opcode when `op` is none). A
sett that reaches no boundary, or whose next word holds another opcode, does nothing. -/
def State.instruction (s : State) (op : Option Nat) (b k : Nat) (e : Ecc) : State :=
  let t := s.sett b k
  if !t.fetches then s
  else
    let (w, injected) := s.nextWord b k
    if !injected && e == .uncorrectable then (s.leaf (benchLeaf b 1) k).trap b k 3
    else
      let s' := s.when (!injected && e == .corrected) fun s => s.leaf (benchLeaf b 1) k
      match s.wordTrap b k w with
      | some c => if op = none ∨ op = some (insOp w) then s'.trap b k c else s
      | none =>
        if op = some (insOp w) then
          let s' := s'.onSett b k fun t => { t with inject := none }
          s'.beginWord b k w injected (if injected then injectedBack t else .running)
        else s

/-! The instructions: each is a sett's boundary whose next word holds its opcode. -/

/-- JMP (R215). -/
def execJmp (b k : Nat) (e : Ecc) (s : State) : Host.Outcome State Fault Refusal :=
  if s.down .bench then .next s.clearOut else
  .next (s.clearOut.instruction (some 0x00) b k e)
/-- WAIT (R235). -/
def execWait (b k : Nat) (e : Ecc) (s : State) : Host.Outcome State Fault Refusal :=
  if s.down .bench then .next s.clearOut else
  .next (s.clearOut.instruction (some 0x01) b k e)
/-- IN (R221). -/
def execInShift (b k : Nat) (e : Ecc) (s : State) : Host.Outcome State Fault Refusal :=
  if s.down .bench then .next s.clearOut else
  .next (s.clearOut.instruction (some 0x02) b k e)
/-- OUT (R222). -/
def execOutShift (b k : Nat) (e : Ecc) (s : State) : Host.Outcome State Fault Refusal :=
  if s.down .bench then .next s.clearOut else
  .next (s.clearOut.instruction (some 0x03) b k e)
/-- PUSH (R223). -/
def execPush (b k : Nat) (e : Ecc) (s : State) : Host.Outcome State Fault Refusal :=
  if s.down .bench then .next s.clearOut else
  .next (s.clearOut.instruction (some 0x04) b k e)
/-- PULL (R224). -/
def execPull (b k : Nat) (e : Ecc) (s : State) : Host.Outcome State Fault Refusal :=
  if s.down .bench then .next s.clearOut else
  .next (s.clearOut.instruction (some 0x05) b k e)
/-- MOV (R220). -/
def execMov (b k : Nat) (e : Ecc) (s : State) : Host.Outcome State Fault Refusal :=
  if s.down .bench then .next s.clearOut else
  .next (s.clearOut.instruction (some 0x06) b k e)
/-- SETI (R219). -/
def execSeti (b k : Nat) (e : Ecc) (s : State) : Host.Outcome State Fault Refusal :=
  if s.down .bench then .next s.clearOut else
  .next (s.clearOut.instruction (some 0x07) b k e)
/-- ADDI (R219). -/
def execAddi (b k : Nat) (e : Ecc) (s : State) : Host.Outcome State Fault Refusal :=
  if s.down .bench then .next s.clearOut else
  .next (s.clearOut.instruction (some 0x08) b k e)
/-- DJNZ (R216). -/
def execDjnz (b k : Nat) (e : Ecc) (s : State) : Host.Outcome State Fault Refusal :=
  if s.down .bench then .next s.clearOut else
  .next (s.clearOut.instruction (some 0x09) b k e)
/-- STAMP (R228). -/
def execStamp (b k : Nat) (e : Ecc) (s : State) : Host.Outcome State Fault Refusal :=
  if s.down .bench then .next s.clearOut else
  .next (s.clearOut.instruction (some 0x0A) b k e)
/-- AT (R231). -/
def execArmAt (b k : Nat) (e : Ecc) (s : State) : Host.Outcome State Fault Refusal :=
  if s.down .bench then .next s.clearOut else
  .next (s.clearOut.instruction (some 0x0B) b k e)
/-- SHOT (R242). -/
def execShot (b k : Nat) (e : Ecc) (s : State) : Host.Outcome State Fault Refusal :=
  if s.down .bench then .next s.clearOut else
  .next (s.clearOut.instruction (some 0x0C) b k e)
/-- RAISE (R239). -/
def execRaise (b k : Nat) (e : Ecc) (s : State) : Host.Outcome State Fault Refusal :=
  if s.down .bench then .next s.clearOut else
  .next (s.clearOut.instruction (some 0x0D) b k e)
/-- CNT (R230). -/
def execCnt (b k : Nat) (e : Ecc) (s : State) : Host.Outcome State Fault Refusal :=
  if s.down .bench then .next s.clearOut else
  .next (s.clearOut.instruction (some 0x0E) b k e)
/-- CRCB (R226). -/
def execCrcb (b k : Nat) (e : Ecc) (s : State) : Host.Outcome State Fault Refusal :=
  if s.down .bench then .next s.clearOut else
  .next (s.clearOut.instruction (some 0x0F) b k e)
/-- FLAG (R241). -/
def execFlag (b k : Nat) (e : Ecc) (s : State) : Host.Outcome State Fault Refusal :=
  if s.down .bench then .next s.clearOut else
  .next (s.clearOut.instruction (some 0x10) b k e)
/-- DIR (R227). -/
def execDir (b k : Nat) (e : Ecc) (s : State) : Host.Outcome State Fault Refusal :=
  if s.down .bench then .next s.clearOut else
  .next (s.clearOut.instruction (some 0x11) b k e)
/-- SYNC (R238). -/
def execSync (b k : Nat) (e : Ecc) (s : State) : Host.Outcome State Fault Refusal :=
  if s.down .bench then .next s.clearOut else
  .next (s.clearOut.instruction (some 0x12) b k e)
/-- HALT (R218). -/
def execHalt (b k : Nat) (e : Ecc) (s : State) : Host.Outcome State Fault Refusal :=
  if s.down .bench then .next s.clearOut else
  .next (s.clearOut.instruction (some 0x13) b k e)
/-- LDT (R225). -/
def execLdt (b k : Nat) (e : Ecc) (s : State) : Host.Outcome State Fault Refusal :=
  if s.down .bench then .next s.clearOut else
  .next (s.clearOut.instruction (some 0x14) b k e)
/-- CMPJ (R217). -/
def execCmpj (b k : Nat) (e : Ecc) (s : State) : Host.Outcome State Fault Refusal :=
  if s.down .bench then .next s.clearOut else
  .next (s.clearOut.instruction (some 0x15) b k e)
/-- TOUT (R232). -/
def execTout (b k : Nat) (e : Ecc) (s : State) : Host.Outcome State Fault Refusal :=
  if s.down .bench then .next s.clearOut else
  .next (s.clearOut.instruction (some 0x16) b k e)
/-- IRQW (R240). -/
def execIrqw (b k : Nat) (e : Ecc) (s : State) : Host.Outcome State Fault Refusal :=
  if s.down .bench then .next s.clearOut else
  .next (s.clearOut.instruction (some 0x17) b k e)
/-- RESERVED_OPCODE (R206): the next word traps, whatever its opcode. -/
def execReservedOpcode (b k : Nat) (e : Ecc) (s : State) : Host.Outcome State Fault Refusal :=
  if s.down .bench then .next s.clearOut else
  .next (s.clearOut.instruction none b k e)

/-- WAIT_SATISFIED (R209): the condition a sett waits for has come to hold. -/
def execWaitSatisfied (b k : Nat) (s : State) : Host.Outcome State Fault Refusal :=
  if s.down .bench then .next s.clearOut else
  let s := s.clearOut
  .next (if (s.sett b k).phase = .waiting ∧ (s.sett b k).inject = none then s.checkWait b k else s)

end Sys2Proof.Machine
end

