-- ==== Sys2Proof/Machine/Wave.lean ====
section
/-! DEFINITION. The periodic signals that instances drive on their own: the IRIG-B generator (R264, R266), the PPS output
(R268), the scheduled trigger (R274), the driven modulator clock (R275, R284) and TXCLK (R262). What the spec leaves to a
reading or a choice stands in log entries 24 and 52. -/

namespace Sys2Proof.Machine

/-! The time of day of an IRIG-B frame (R266, R385). -/

/-- The UTC day since 1970 and the second of day of a second of hub time: TIME_UTC.offset is taken off, and the last second
of a day with 61 or 59 seconds is coded as its leap flag says (log entry 24). -/
def State.utcOf (s : State) (sec : Nat) : Nat × Nat :=
  let u : Int := (sec : Int) - toSigned (s.get F.TIME_UTC_offset) 16
  let day := (u / 86400).toNat
  let tod := (u % 86400).toNat
  if s.is F.TIME_UTC_leap61 ∧ tod = 0 then (day - 1, 86400)
  else if s.is F.TIME_UTC_leap59 ∧ tod = 86399 then (day + 1, 0)
  else (day, tod)

/-- The Gregorian year, and the day of that year from 1, of a day since 1970: counted from 1 March of the year 0 in eras of
400 years. -/
def civilDay (day : Nat) : Nat × Nat :=
  let z := day + 719468
  let era := z / 146097
  let doe := z % 146097
  let yoe := (doe - doe / 1460 + doe / 36524 - doe / 146096) / 365
  let year := era * 400 + yoe
  let fromMarch := doe - (365 * yoe + yoe / 4 - yoe / 100)
  let leap := year % 4 = 0 ∧ (year % 100 ≠ 0 ∨ year % 400 = 0)
  if fromMarch ≥ 306 then (year + 1, fromMarch - 305) else (year, fromMarch + if leap then 61 else 60)

/-- Element e of a frame, 0 zero, 1 one, 2 position: the code digit chooses the expressions, `cf` holds the control-function
bits. The places are those of IRIG Standard 200 (log entry 24). -/
def irigFrame (digit cf year day tod e : Nat) : Nat :=
  if e = 0 ∨ e % 10 = 9 then 2
  else
    let t := min tod 86399
    let field (first n v : Nat) : Bool := decide (first ≤ e ∧ e < first + n) && natBit v (e - first)
    let bcd (first n v d : Nat) : Bool := field first n (v / d % 10)
    let sec := tod - t / 60 * 60
    let time := bcd 1 4 sec 1 || bcd 6 3 sec 10 || bcd 10 4 (t / 60 % 60) 1 || bcd 15 3 (t / 60 % 60) 10
      || bcd 20 4 (t / 3600) 1 || bcd 25 2 (t / 3600) 10 || bcd 30 4 day 1 || bcd 35 4 day 10 || bcd 40 2 day 100
    let years := digit ≥ 4 && (bcd 50 4 year 1 || bcd 55 4 year 10)
    let control := [0, 1, 4, 5].contains digit
      && ((digit < 4 && field 50 9 cf) || field 60 9 (cf / 2 ^ 9) || field 70 9 (cf / 2 ^ 18))
    let straight := [0, 3, 4, 7].contains digit && (field 80 9 tod || field 90 8 (tod / 2 ^ 9))
    b2n (time || years || control || straight)

/-- The element an instance sends at a time of hub time. -/
def State.irigOut (s : State) (b k t : Nat) : Nat :=
  let (day, tod) := s.utcOf (t / unitsPerSec)
  let (year, doy) := civilDay day
  irigFrame (s.descByte b k 16) (s.descNum b k 20 4) year doy tod (t % unitsPerSec / (unitsPerSec / 100))

/-! The signal of an instance. -/

/-- An instance drives a signal of its own. -/
def State.waves (s : State) (b k : Nat) : Bool :=
  match s.descCode b k with
  | 0x05 => s.descNum b k 16 4 != 0
  | 0x07 => true
  | 0x09 => true
  | 0x0C => true
  | 0x0D => s.descNum b k 16 4 != 0
  | _ => false

/-- The role of the pin the signal is driven on. -/
def State.waveRole (s : State) (b k : Nat) : Nat := if s.descCode b k = 0x05 then 2 else 0

/-- The level of the pulse: that from each leading edge to the trailing edge. -/
def State.waveLevel (s : State) (b k : Nat) : Bool :=
  match s.descCode b k with
  | 0x0C => s.descByte b k 28 == 0
  | 0x0D => s.descByte b k 20 == 0
  | _ => true

/-- Periods of the signal, and in how many seconds. -/
def State.waveRate (s : State) (b k : Nat) : Nat × Nat :=
  let w := s.descNum b k 16 4
  match s.descCode b k with
  | 0x05 => (w, 1)
  | 0x07 => (100, 1)
  | 0x0C => (1000000000 / w, 1)
  | 0x0D => (125000000, sdDivider w)
  | _ => (1, 1)

/-- The time of the leading edge of period i, and the width of the pulse that begins there, in domain units. -/
def State.waveLead (s : State) (b k anchor : Nat) (i : Int) : Nat :=
  let (num, den) := s.waveRate b k
  ((anchor : Int) + i * (den * unitsPerSec : Nat) / (num : Int)).toNat
def State.waveWidth (s : State) (b k t : Nat) : Nat :=
  let (num, den) := s.waveRate b k
  match s.descCode b k with
  | 0x07 => [2, 5, 8].getD (s.irigOut b k t) 2 * 1000000 * unitsPerNs
  | 0x09 => s.descNum b k 16 4 * unitsPerNs
  | 0x0C => s.descNum b k 20 4 * unitsPerNs
  | _ => den * unitsPerSec / (2 * num)

/-- The time the periods of an instance that starts now count from: the next whole second, with the offset of a PPS output
(R268) and the phase of a trigger (R274). -/
def State.waveAnchor (s : State) (b k : Nat) : Nat :=
  let now := s.now (s.domOfConsumer (.bench b))
  let second (off : Int) : Nat := ((((now : Int) - off) / (unitsPerSec : Int) + 1) * (unitsPerSec : Int) + off).toNat
  match s.descCode b k with
  | 0x09 => second (toSigned (s.descNum b k 20 4) 32 * (unitsPerNs : Int))
  | 0x0C => second 0 + s.descNum b k 24 4 * unitsPerNs
  | _ => second 0

/-- The edge of a signal that is due: whether it is a leading one, its period, and its time. Periods that passed unapplied
are left out, and after a step of the domain the periods go on from its new time (log entry 52). -/
def State.waveDue (s : State) (b k : Nat) : Option (Bool × Int × Nat) :=
  match (s.port b k).wave with
  | some w =>
    let now := s.now (s.domOfConsumer (.bench b))
    let (num, den) := s.waveRate b k
    let i : Int := ((now : Int) - (w.anchor : Int)) * (num : Int) / (den * unitsPerSec : Nat)
    match w.high, w.index with
    | true, some j =>
      let t := s.waveLead b k w.anchor j
      let trail := t + s.waveWidth b k t
      if trail ≤ now ∨ now < t then some (false, j, trail) else none
    | _, some j => if i = j then none else some (true, i, s.waveLead b k w.anchor i)
    | _, none => if 0 ≤ i then some (true, i, s.waveLead b k w.anchor i) else none
  | none => none

end Sys2Proof.Machine
end

