-- ==== Sys2Proof/Machine/Port.lean ====
section
/-! DEFINITION. Port personalities: what an instance receives from its pins, the records it sends, and the commands it
executes (R245 to R281). What the spec leaves to a reading or a choice stands in log entries 18, 20, 21, 24 and 52. -/

namespace Sys2Proof.Machine

/-! Parameters. -/

/-- Bits of an asynchronous character after the start bit: data, parity and stop bits (R256). -/
def State.uartBits (s : State) (b k : Nat) : Nat :=
  s.descByte b k 20 + b2n (s.descByte b k 21 != 0) + s.descByte b k 22

/-- A pin an instance drives (R247). -/
def State.drivesRole (s : State) (b k r : Nat) : Bool :=
  match s.descCode b k with
  | 0x01 => r == 1 || r == 2
  | 0x02 => r != 2
  | 0x03 => r == 2
  | 0x05 => r == 3 || (r == 2 && s.descNum b k 16 4 != 0)
  | 0x07 => true
  | 0x09 => true
  | 0x0B => r == 0
  | 0x0C => true
  | 0x0D => r == 0 && s.descNum b k 16 4 != 0
  | _ => false

/-- Pin j of the quad has a role in an instance that names its pins by their numbers (R247, R256, R275). -/
def State.roleUsed (s : State) (b k j : Nat) : Bool :=
  match s.descCode b k with
  | 0x01 => j < 2 || (j == 2 && natBit (s.descByte b k 24) 2)
  | 0x04 => j < 2
  | 0x0D => j == 0 || (s.dataChannel b k j).isSome
  | _ => true

/-- The role of a pin of the bench in an instance (R247), when it has one. -/
def State.roleOf (s : State) (b k p : Nat) : Option Nat :=
  let code := s.descCode b k
  if p / 4 ≠ s.descQuad b k then none
  else if 0x06 ≤ code ∧ code ≤ 0x0C then
    if p % 4 = s.descPin b k then some 0
    else if code = 0x0B ∧ s.descByte b k 16 ≠ 0 ∧ p % 4 = s.descByte b k 16 % 4 then some 1
    else none
  else if s.roleUsed b k (p % 4) then some (p % 4) else none

/-- The idle timeout of an instance in ns (R277, R278): the descriptor's, or the default. The default of HDLC counts the bit
time last measured on RXCLK (log entry 24). -/
def State.portTimeout (s : State) (b k : Nat) : Nat :=
  let t := s.descTimeout b k
  let v := s.descNum b k 16 4
  if t ≠ 0 then t
  else match s.descCode b k with
    | 0x01 => 2 * (s.uartBits b k + 1) * 1000000000 / v
    | 0x03 => 64 * 1000000000 / v
    | 0x04 => 10000000
    | 0x05 => 16 * (s.port b k).bitTime / unitsPerNs
    | 0x06 => 20000000
    | _ => if v = 0 then 10000 else 64 * sdDivider v

/-- The receiving sett of an instance, whose own pin is the watched input: its idle timeout is armed, or cancelled
(R277). -/
def State.armIdle (s : State) (b k : Nat) : State :=
  s.onSett b (s.rolePin b k 0) fun t => { t with timeout := some (0, s.portTimeout b k, s.domOfConsumer (.bench b)) }
def State.cancelIdle (s : State) (b k : Nat) : State := s.onSett b (s.rolePin b k 0) fun t => { t with timeout := none }

/-! Frames (R252, R277 to R281). -/

/-- A frame begins. -/
def State.frameBegin (s : State) (b k : Nat) (x : Stamp) : State :=
  (s.onPort b k fun p =>
    { p with inFrame := true, units := [], error := false, start := x, bits := [], sent := 0, began := x }).portShow b k 2

/-- An instance is out of frame. -/
def State.frameOut (s : State) (b k : Nat) : State :=
  ((s.onPort b k fun p => { p with inFrame := false, units := [], error := false, bits := [], active := false }).portShow
    b k 1).cancelIdle b k

/-- The payload of units. -/
def unitBytes (us : List PortUnit) : List Byte := us.flatMap (·.bytes)

/-- The longest run of units at the front of a frame that fits 112 payload bytes. -/
def fitUnits (us : List PortUnit) : Nat :=
  us.foldl (fun a _ => if (unitBytes (us.take (a + 1))).length ≤ 112 ∧ a < us.length then a + 1 else a) 0

/-- The leading units of a frame are sent as one record with more = 1 (R252). -/
def State.sendMore (s : State) (b k : Nat) : State :=
  let p := s.port b k
  let n := fitUnits p.units
  let rest := p.units.drop n
  let start := match rest.head? with | some u => u.stamp | none => p.start
  (s.portRecord b k flagMore 0 p.start (unitBytes (p.units.take n))).onPort b k fun p =>
    { p with units := rest, start := start, sent := p.sent + n }

/-- A unit of a frame is complete (R252): what no longer fits one record, with `hold` units held back, goes ahead. -/
def State.addUnit (s : State) (b k hold : Nat) (u : PortUnit) : State :=
  let s := s.onPort b k fun p => { p with units := p.units ++ [u] }
  let us := (s.port b k).units
  if (unitBytes (us.take (us.length - hold))).length > 112 then s.sendMore b k else s

/-- Units that no longer fit one record, FCS bytes held back among them, go ahead when a frame closes (R252). -/
def State.splitLong (s : State) (b k : Nat) : State :=
  if (unitBytes (s.port b k).units).length > 112 then s.sendMore b k else s

/-- A frame closes (R252, R281): one last record, unless it has no unit and no residue. -/
def State.frameClose (s : State) (b k flags residue : Nat) (x : Stamp) : State :=
  let p := s.port b k
  let s := if p.units.isEmpty ∧ residue = 0 then s
    else s.portRecord b k flags residue x ((unitBytes p.units).take 112)
  s.frameOut b k

/-- The input of an instance stopped within a frame (R279). -/
def State.truncateFrame (s : State) (b k : Nat) : State :=
  let p := s.port b k
  let residue := min p.bits.length 31
  if p.units.isEmpty ∧ residue = 0 then s.frameOut b k
  else ((s.inc F.BNCH_PORT_CNT_truncated [b, k]).splitLong b k).frameClose b k flagTruncated residue p.lastEdge

/-! Asynchronous serial (R256, R257). -/

/-- Time from the start edge to the middle of bit i of a character, in domain units. -/
def State.uartMiddle (s : State) (b k i : Nat) : Nat := (2 * i + 1) * unitsPerSec / (2 * s.descNum b k 16 4)

/-- A character's bits after the start bit are judged: value, and whether parity and stop bits are right (R257). -/
def State.uartJudge (s : State) (b k : Nat) (bits : List Bool) : Nat × Bool :=
  let n := s.descByte b k 20
  let data := bits.take n
  let v := data.foldr (fun x a => b2n x + 2 * a) 0
  let ones := (data.filter id).length
  let par := s.descByte b k 21
  let got := bits.getD n false
  let parityOk := match par with
    | 0 => true
    | 1 => (ones + b2n got) % 2 == 0
    | 2 => (ones + b2n got) % 2 == 1
    | 3 => got
    | _ => !got
  (v, parityOk && (bits.drop (n + b2n (par != 0))).all id)

/-- A whole character has been sampled (R257). A discarded echo opens no frame: the frame begins with the first character kept. -/
def State.uartChar (s : State) (b k : Nat) : State :=
  let p := s.port b k
  let (v, ok) := s.uartJudge b k p.bits
  let s := (s.onPort b k fun p => { p with active := false, bits := [] }).cancelIdle b k
  if natBit (s.descByte b k 24) 3 ∧ p.unitStart.t < p.echoUntil then (if p.units.isEmpty then s.frameOut b k else s)
  else
    let n := if s.descByte b k 20 = 9 then 2 else 1
    (s.onPort b k fun p => { p with error := p.error || !ok }).addUnit b k 0 { bytes := beBytes n v, stamp := p.unitStart }

/-- One bit sample of a character: the start bit must be low in its middle, else the receiver starts again. -/
def State.uartBit (s : State) (b k : Nat) (level : Bool) : State :=
  let p := s.port b k
  if p.position ∧ level then
    let s := (s.onPort b k fun p => { p with active := false, position := false }).cancelIdle b k
    if p.units.isEmpty then s.frameOut b k else s
  else if p.position then s.onPort b k fun p => { p with position := false }
  else
    let s := s.onPort b k fun p => { p with bits := p.bits ++ [level] }
    if (s.port b k).bits.length ≥ s.uartBits b k then s.uartChar b k else s

/-- The samples of a character that fall before time t, all at one level; `all` takes every sample that is left. -/
def State.uartSamples (s : State) (b k : Nat) (level all : Bool) (t : Nat) : Nat → State
  | 0 => s
  | n + 1 =>
    let p := s.port b k
    let i := p.bits.length + (if p.position then 0 else 1)
    if p.active ∧ (all ∨ p.unitStart.t + s.uartMiddle b k i < t) then
      (s.uartBit b k level).uartSamples b k level all t n
    else s

/-- An edge on RX (R257). `position` of the instance marks that the start bit has not been sampled yet. -/
def State.uartEdge (s : State) (b k : Nat) (level : Bool) (x : Stamp) : State :=
  if natBit (s.descByte b k 24) 0 then
    let s := s.uartSamples b k (!level) false x.t 20
    let p := s.port b k
    if p.active || level then s
    else
      let s := if p.inFrame then s else s.frameBegin b k x
      (s.onPort b k fun p => { p with active := true, bits := [], unitStart := x, position := true }).armIdle b k
  else s

/-- The level of a role pin as the instance reads it. -/
def State.roleLevel (s : State) (b k r : Nat) : Bool :=
  let p := s.rolePin b k r
  (s.pinOf b p).ball != s.is F.BNCH_PAD_invert [b, p]

/-- The gap of R257 has passed: the frame is closed as a record. -/
def State.uartGap (s : State) (b k : Nat) : State :=
  let s := s.uartSamples b k (s.roleLevel b k 0) true 0 20
  let p := s.port b k
  if p.inFrame then s.frameClose b k (if p.error then flagError else 0) 0 p.start else s

/-! SPI target (R258, R259). -/

/-- A word of SPI bits, in the order of byte 22, as payload bytes (R258). -/
def State.spiWord (s : State) (b k : Nat) (bits : List Bool) : List Byte :=
  let order := if s.descByte b k 22 = 0 then bits else bits.reverse
  beBytes ((s.descByte b k 21 + 7) / 8) (order.foldl (fun a x => 2 * a + b2n x) 0)

/-- Bytes of one word. -/
def State.spiBytes (s : State) (b k : Nat) : Nat := (s.descByte b k 21 + 7) / 8

/-- A sampling edge of SCLK: rising when CPOL and CPHA are equal. -/
def State.spiSamples (s : State) (b k : Nat) (rising : Bool) : Bool :=
  let mode := s.descByte b k 20
  (natBit mode 1 == natBit mode 0) == rising

/-- One bit on MOSI. -/
def State.spiBit (s : State) (b k : Nat) (level : Bool) (x : Stamp) : State :=
  let p := s.port b k
  let first := if p.bits.isEmpty then x else p.unitStart
  let bits := p.bits ++ [level]
  if bits.length ≥ s.descByte b k 21 then
    (s.onPort b k fun p => { p with bits := [] }).addUnit b k 0 { bytes := s.spiWord b k bits, stamp := first }
  else s.onPort b k fun p => { p with bits := bits, unitStart := first }

/-- The words of the command that was the oldest pending one at CS_N falling, or all ones where none was, were sent in a target
frame (R259). The words sent are shown from the start of the frame, and a command shorter than the frame is followed by ones. -/
def State.spiSent (s : State) (b k : Nat) : State :=
  let p := s.port b k
  let n := (p.sent + p.units.length + b2n (!p.bits.isEmpty)) * s.spiBytes b k
  s.emit (.port b k p.began.t ((p.sending ++ List.replicate n 255).take n))

/-- A target frame begins at CS_N falling and takes the oldest pending command (R259). -/
def State.spiTargetOpen (s : State) (b k : Nat) (x : Stamp) : State :=
  ((s.frameBegin b k x).onPort b k fun p =>
    { p with due := p.due.drop 1, sending := match p.due with | c :: _ => c.payload | [] => [] }).armIdle b k

/-- A target frame that has ended is returned as a record (R259). -/
def State.spiTargetClose (s : State) (b k : Nat) : State :=
  let p := s.port b k
  if p.active then (s.spiSent b k).frameClose b k 0 (min p.bits.length 31) p.start else s

/-- An edge on SCLK or CS_N of a target (R259, R277). -/
def State.spiTargetEdge (s : State) (b k role : Nat) (level : Bool) (x : Stamp) : State :=
  match role with
  | 3 =>
    if level then
      (if (s.port b k).inFrame then (s.onPort b k fun p => { p with active := true, inFrame := false }).cancelIdle b k else s)
    else (s.spiTargetClose b k).spiTargetOpen b k x
  | 0 => if (s.port b k).inFrame && s.spiSamples b k level then s.spiBit b k (s.roleLevel b k 1) x else s
  | _ => s

/-! HDLC (R262, R263). -/

/-- The frame check sequence of ISO/IEC 13239 over bytes: FCS-16 or FCS-32, sent low byte first. -/
def hdlcFcs (long : Bool) (bs : List Byte) : List Byte :=
  let bits := bs.flatMap fun x => (List.range 8).map fun i => natBit x.toNat i
  let w := if long then 32 else 16
  let pr := if long then 0xEDB88320 else 0x8408
  let c := bits.foldl (crcbBit w 0 pr true) (2 ^ w - 1)
  leBytes (w / 8) (2 ^ w - 1 - c)

/-- Bytes of the frame check sequence of an instance. -/
def State.fcsLen (s : State) (b k : Nat) : Nat := if s.descByte b k 20 = 0 then 2 else 4

/-- A received frame ends at a flag (R263): the flag's bits are taken off, the frame check sequence is checked and removed. -/
def State.hdlcClose (s : State) (b k : Nat) : State :=
  let p := s.port b k
  let n := p.bits.length
  let us := if n < 7 then p.units.dropLast else p.units
  let all := if n < 7 then p.frame.dropLast else p.frame
  let residue := if p.units.isEmpty ∨ n ≥ 7 then 0 else (n + 1) % 8
  if all.isEmpty ∧ residue = 0 then s.frameOut b k
  else
    let f := s.fcsLen b k
    let body := all.take (all.length - f)
    let ok := all.length ≥ 4 && decide (hdlcFcs (f == 4) body = all.drop (all.length - f))
    let keep := us.take (us.length - f)
    let s := (s.onPort b k fun p => { p with units := keep }).splitLong b k
    let p := s.port b k
    let s := s.portRecord b k (if ok then 0 else flagError) residue p.start (unitBytes p.units)
    s.frameOut b k

/-- A flag has been received: it ends the frame and opens the next (R263). -/
def State.hdlcFlag (s : State) (b k : Nat) (x : Stamp) : State :=
  let s := if (s.port b k).inFrame then s.hdlcClose b k else s
  let s := (s.frameBegin b k x).armIdle b k
  s.onPort b k fun p => { p with frame := [], hunting := false, ones := 0 }

/-- An abort closes the frame (R263). -/
def State.hdlcAbort (s : State) (b k : Nat) : State :=
  let p := s.port b k
  let n := p.bits.length
  let us := if n < 6 then p.units.dropLast else p.units
  let s := s.onPort b k fun p => { p with units := us, hunting := true, ones := 7 }
  if p.inFrame then
    let residue := if n ≥ 6 then n - 6 else if p.units.isEmpty then 0 else n + 2
    if us.isEmpty ∧ residue = 0 then s.frameOut b k
    else
      let s := s.splitLong b k
      s.frameClose b k flagAborted residue (s.port b k).start
  else s

/-- One data bit of a frame; a frame longer than max_frame closes with error (R263). -/
def State.hdlcData (s : State) (b k : Nat) (bit : Bool) (x : Stamp) : State :=
  let p := s.port b k
  let first := if p.bits.isEmpty then x else p.unitStart
  let bits := p.bits ++ [bit]
  if bits.length = 8 then
    let v := byte (bits.foldr (fun y a => b2n y + 2 * a) 0)
    let f := s.fcsLen b k
    let limit := s.descNum b k 22 2
    let s := s.onPort b k fun p => { p with bits := [], frame := p.frame ++ [v] }
    let s := s.addUnit b k (f + 1) { bytes := [v], stamp := first }
    let p := s.port b k
    if p.frame.length > limit + f then
      let sent := p.frame.length - p.units.length
      let s := s.onPort b k fun p => { p with units := p.units.take (limit - sent), hunting := true }
      s.frameClose b k flagError 0 p.start
    else s
  else s.onPort b k fun p => { p with bits := bits, unitStart := first }

/-- A rising edge of RXCLK (R263); the time since the one before it is the bit time. -/
def State.hdlcBit (s : State) (b k : Nat) (bit : Bool) (x : Stamp) : State :=
  let s := s.onPort b k fun p => { p with bitTime := x.t - p.rise.t, rise := x }
  let p := s.port b k
  if bit then
    let ones := p.ones + 1
    let s := s.onPort b k fun p => { p with ones := min ones 7 }
    if ones = 7 then s.hdlcAbort b k
    else if p.inFrame ∧ ones < 7 then s.hdlcData b k true x
    else s
  else
    let s := s.onPort b k fun p => { p with ones := 0 }
    if p.ones = 6 then s.hdlcFlag b k x
    else if p.inFrame ∧ p.ones ≠ 5 then s.hdlcData b k false x
    else s

/-! IRIG-B decode (R264, R265). -/

/-- The element a high time stands for (R265): 0 zero, 1 one, 2 position, 3 invalid. -/
def irigElement (width : Nat) : Nat :=
  let half := 500000 * unitsPerNs
  let near (c : Nat) : Bool := c * 1000000 * unitsPerNs ≤ width + half && width ≤ c * 1000000 * unitsPerNs + half
  if near 2 then 0 else if near 5 then 1 else if near 8 then 2 else 3

/-- The decimal digit in elements [first, first + n) of a frame, least significant first. -/
def irigDigit (els : List Nat) (first n : Nat) : Nat :=
  (List.range n).foldl (fun a i => a + (if els.getD (first + i) 0 = 1 then 2 ^ i else 0)) 0

/-- A number of `n` bytes in a frame, from its decimal digits (first element, number of elements), least significant digit
first. A number with an element that is neither a zero nor a one, or that was not received, is a free value. -/
def State.irigNumber (s : State) (els : List Nat) (n : Nat) (digits : List (Nat × Nat)) : List Byte × State :=
  if digits.all fun (first, w) => (List.range w).all fun i => els.getD (first + i) 3 ≤ 1 then
    (beBytes n (digits.foldr (fun (first, w) a => irigDigit els first w + 10 * a) 0), s)
  else
    let (v, s) := s.drawWord (8 * n)
    (beBytes n v, s)

/-- The 32 payload bytes of a decoded frame (R265). The places of the digits and markers are those of IRIG Standard 200
(log entry 24). The codes of elements that were not received are free values. -/
def State.irigPayload (s : State) (digit : Nat) (els : List Nat) (truncated : Bool) : List Byte × State :=
  let (v, s) := if els.length < 100 then s.drawWord 200 else (0, s)
  let code (i : Nat) : Nat := els.getD i (natBits v (2 * i + 1) (2 * i))
  let codes := (List.range 25).map fun i => byte (code (4 * i) * 64 + code (4 * i + 1) * 16 + code (4 * i + 2) * 4 + code (4 * i + 3))
  let marks := (List.range 100).all fun i => (els.getD i 3 == 2) == (i == 0 || i % 10 == 9)
  let year := digit ≥ 4
  let b25 := b2n (marks && !truncated) * 128 + b2n (els.all (· != 3)) * 64 + b2n year * 32
  let (day, s) := s.irigNumber els 2 [(30, 4), (35, 4), (40, 2)]
  let (hour, s) := s.irigNumber els 1 [(20, 4), (25, 2)]
  let (minute, s) := s.irigNumber els 1 [(10, 4), (15, 3)]
  let (second, s) := s.irigNumber els 1 [(1, 4), (6, 3)]
  let (inCentury, s) := if year then s.irigNumber els 1 [(50, 4), (55, 4)] else ([0], s)
  (codes ++ [byte b25] ++ day ++ hour ++ minute ++ second ++ inCentury, s)

/-- The elements received so far, from the units of the frame. -/
def irigElements (us : List PortUnit) : List Nat := us.map fun u => byteAt u.bytes 0

/-- An edge on the IRIG-B input (R265): an element ends at its falling edge. -/
def State.irigEdge (s : State) (b k : Nat) (level : Bool) (x : Stamp) : State :=
  if level then s.onPort b k fun p => { p with rise := x }
  else
    let p := s.port b k
    let e := irigElement (x.t - p.rise.t)
    let u : PortUnit := { bytes := [byte e], stamp := p.rise }
    let s := s.onPort b k fun p => { p with position := e == 2 }
    if p.inFrame then
      let s := s.onPort b k fun p => { p with units := p.units ++ [u] }
      let us := (s.port b k).units
      if us.length ≥ 100 then
        let (pl, s) := s.irigPayload (s.descByte b k 16) (irigElements us) false
        (s.portRecord b k 0 0 p.start pl).frameOut b k
      else s
    else if p.position && e == 2 then
      ((s.frameBegin b k p.rise).onPort b k fun p => { p with units := [u] }).armIdle b k
    else s

/-- An IRIG-B frame cut short (R279): its elements so far, byte 25 [7] cleared. -/
def State.irigTruncate (s : State) (b k : Nat) : State :=
  let p := s.port b k
  let s := s.inc F.BNCH_PORT_CNT_truncated [b, k]
  let (pl, s) := s.irigPayload (s.descByte b k 16) (irigElements p.units) true
  ((s.portRecord b k flagTruncated 0 p.lastEdge pl).frameOut b k).onPort b k fun p => { p with position := false }

/-! PPS input (R267). -/

/-- Signed offset of a time from the nearest whole second, in domain units. -/
def wholeOffset (t : Nat) : Int :=
  let r := t % unitsPerSec
  if 2 * r ≤ unitsPerSec then r else (r : Int) - unitsPerSec

/-- A PPS record: status and signed offset in ns (R267). -/
def ppsPayload (status : Nat) (offset : Int) : List Byte :=
  [byte status] ++ zeros 3 ++ beBytes 4 (ofSigned (roundDiv offset unitsPerNs) 32)

/-- An edge on a PPS input (R267). -/
def State.ppsEdge (s : State) (b k : Nat) (level : Bool) (x : Stamp) : State :=
  if level == (s.descByte b k 16 == 0) then
    let off := wholeOffset (stampTime x)
    let inside := decide (off.natAbs ≤ s.descNum b k 20 4 * unitsPerNs)
    let s := s.when inside fun s => s.onPort b k fun p => { p with pulseSeen := true }
    s.portRecord b k 0 0 x (ppsPayload (if inside then 0 else 2) off)
  else s

/-- The window around a whole second has ended: a missing pulse is recorded (R267). It has no edge, and its offset is a free
value. -/
def State.ppsWindow (s : State) (b k : Nat) : State :=
  if (s.port b k).pulseSeen then s.onPort b k fun p => { p with pulseSeen := false }
  else
    let (v, s) := s.drawWord 32
    s.portRecord b k 0 0 (s.stampNow b) (byte 1 :: (zeros 3 ++ beBytes 4 v))

/-! Binary input (R269 to R271). -/

/-- A binary-input record (R270). -/
def State.binaryRecord (s : State) (b k reason count : Nat) (x : Stamp) : State :=
  s.portRecord b k 0 0 x ([byte (b2n (s.port b k).accepted), byte reason] ++ beBytes 2 (min count 65535))

/-- The accepted changes within the chatter window that ends at a time. -/
def State.changesIn (s : State) (b k t : Nat) : List Nat :=
  (s.port b k).changes.filter fun c => t < c + s.descNum b k 22 2 * 1000000 * unitsPerNs

/-- A new level is accepted (R270, R271). -/
def State.binaryAccept (s : State) (b k : Nat) (level : Bool) (x : Stamp) : State :=
  let recent := s.changesIn b k x.t ++ [x.t]
  let s := s.onPort b k fun p => { p with accepted := level, changes := recent, active := false }
  let limit := s.descByte b k 20
  if (s.port b k).blocked then s
  else if limit ≠ 0 ∧ recent.length > limit then
    ((s.onPort b k fun p => { p with blocked := true }).portShow b k 3).binaryRecord b k 1 recent.length x
  else s.binaryRecord b k 0 recent.length x

/-- An edge on a binary input: a change that differs from the accepted state waits for the debounce, or is accepted at once
with debounce_ns = 0 (R270). -/
def State.binaryEdge (s : State) (b k : Nat) (level : Bool) (x : Stamp) : State :=
  let s := s.onPort b k fun p => { p with unitStart := x, active := level != p.accepted }
  if (s.port b k).active && s.descNum b k 16 4 == 0 then s.binaryAccept b k level x else s

/-- debounce_ns has passed without an edge (R270). -/
def State.binaryDebounced (s : State) (b k : Nat) : State :=
  let p := s.port b k
  if p.active then s.binaryAccept b k (!p.accepted) p.unitStart else s

/-- quiet_ms has passed without an accepted change: the chatter block ends (R271). -/
def State.binaryQuiet (s : State) (b k : Nat) : State :=
  if (s.port b k).blocked then
    let x := s.stampNow b
    let s := (s.onPort b k fun p => { p with blocked := false }).portShow b k 1
    s.binaryRecord b k 2 (s.changesIn b k x.t).length x
  else s

/-! Supervised binary output (R272, R273). -/

/-- The readback pin of an instance (R272). -/
def State.readbackPin (s : State) (b k : Nat) : Nat :=
  if s.descByte b k 16 = 0 then s.rolePin b k 0 else 4 * s.descQuad b k + s.descByte b k 16 % 4

/-- The readback level. -/
def State.readback (s : State) (b k : Nat) : Bool :=
  let p := s.readbackPin b k
  (s.pinOf b p).ball != s.is F.BNCH_PAD_invert [b, p]

/-- The commanded level. -/
def State.commanded (s : State) (b k : Nat) : Bool := (s.pinOf b (s.rolePin b k 0)).out

/-- An edge on the readback pin (R272): a match ends a mismatch, and byte 24 [1] reports every readback. The second byte of
such a report is a free value. -/
def State.readbackEdge (s : State) (b k : Nat) (x : Stamp) : State :=
  let level := s.readback b k
  let s := s.when (level == s.commanded b k) fun s => s.onPort b k fun p => { p with reported := false }
  s.when (natBit (s.descByte b k 24) 1) fun s =>
    let (v, s) := s.drawWord 8
    s.portRecord b k 0 0 x [byte (b2n level), byte v]

/-- The drive pin of a supervised output is driven (R272, R273): a new drive may be reported again, and where the readback
is the drive pin's own pad, a change of its level is a readback. -/
def State.supervisedDrive (s : State) (b k : Nat) (f : State → State) : State :=
  let before := s.readback b k
  let s := (f s).onPort b k fun p => { p with reported := false }
  s.when (s.readbackPin b k == s.rolePin b k 0 && s.readback b k != before) fun s => s.readbackEdge b k (s.stampNow b)

/-- A mismatch has lasted longer than the window: a supervision failure (R273). -/
def State.superviseExpired (s : State) (b k : Nat) : State :=
  let level := s.readback b k
  if level != s.commanded b k && !(s.port b k).reported then
    let s := s.onPort b k fun p => { p with reported := true }
    let s := s.portRecord b k flagError 0 (s.stampNow b) [byte (b2n level), 0x10]
    let s := s.leaf (benchLeaf b 12) (s.descQuad b k)
    s.when (natBit (s.descByte b k 24) 0) fun s =>
      ((s.safePin b (s.rolePin b k 0)).onPort b k fun p => { p with failed := true }).portShow b k 4
  else s

/-! Sigma-delta (R275, R276). -/

/-- The channels of an instance with their data pins. -/
def State.sdChannels (s : State) (b k : Nat) : List (Nat × Nat) :=
  [1, 2, 3].filterMap fun r => (s.dataChannel b k r).map fun c => (r, c)

/-- An edge of the modulator clock (R275, R276, R277): the channels that are marked clock-lost recover, and at the first
edge of a driven clock a window begins (R284). -/
def State.sdEdge (s : State) (b k : Nat) (rising : Bool) (x : Stamp) : State :=
  let first := !(s.port b k).clocked && s.descNum b k 16 4 != 0
  let s := s.each (s.sdChannels b k) fun s (_, c) =>
    let s := s.when (natBit (s.get F.DRS_CLOCK_LOST_lost [b]) c) fun s => s.channelRecovers b c
    s.when first fun s => s.setChan b c { s.chan b c with n := 0 }
  let s := (s.onPort b k fun p => { p with clocked := true, clockLost := false, inFrame := true }).portShow b k 2
  let s := s.armIdle b k
  if rising == (s.descByte b k 20 == 0) then
    s.each (s.sdChannels b k) fun s rc => s.dresserBit b rc.2 (s.roleLevel b k rc.1) x
  else s

/-- The modulator clock is lost (R276). -/
def State.sdLost (s : State) (b k : Nat) : State :=
  let x := s.stampNow b
  let s := (s.onPort b k fun p => { p with clockLost := true }).portShow b k 5
  let s := s.leaf (benchLeaf b 10) (s.descQuad b k)
  s.each (s.sdChannels b k) fun s rc => s.channelLost b rc.2 x

/-! Scheduled trigger (R274). -/

/-- A leading edge of a trigger output: every nth produces a record. -/
def State.triggerEdge (s : State) (b k : Nat) (x : Stamp) : State :=
  let n := (s.port b k).edges + 1
  let every := s.descNum b k 30 2
  let s := s.onPort b k fun p => { p with edges := n }
  if every ≠ 0 ∧ n % every = 0 then s.portRecord b k 0 0 x (beBytes 4 n) else s

/-! I²C controller (R260, R261, R277, R279). -/

/-- The address bytes of a transaction: written, and before a read. A 10-bit address takes two bytes, and a read repeats
its first one behind them (log entry 24). -/
def i2cAddress (ten : Bool) (a : Nat) (read : Bool) : List I2cStep :=
  if ten then [.write (byte (0xF0 + a / 256 * 2 + b2n read))] else [.write (byte (a * 2 + b2n read))]
def i2cFull (ten : Bool) (a : Nat) : List I2cStep := i2cAddress ten a false ++ if ten then [.write (byte a)] else []

/-- What a command has the controller carry out, from its START on without the STOP (R261). -/
def i2cSteps (pl : List Byte) : List I2cStep :=
  let ten := natBit (byteAt pl 0) 7
  let a := beAt pl 1 2
  let w := byteAt pl 3
  let r := byteAt pl 4
  let written : List I2cStep := if w = 0 then [] else .start :: i2cFull ten a ++ (slice pl 5 w).map .write
  let read : List I2cStep :=
    if r = 0 then []
    else (if ten && w == 0 then .start :: i2cFull ten a else []) ++ .start :: i2cAddress ten a true
      ++ (List.range r).map fun i => .read (i + 1 == r)
  if w = 0 ∧ r = 0 then [.start] else written ++ read

/-- A controller whose command is to be executed issues START: it is in a frame (R277). -/
def State.i2cBegin (s : State) (b k : Nat) : State :=
  let p := s.port b k
  if s.descCode b k ≠ 0x04 ∨ p.inFrame = true ∨ p.due = [] then s else (s.frameBegin b k (s.stampNow b)).armIdle b k

/-- The transaction ends with its STOP and its answer, and the next command begins. -/
def State.i2cEnd (s : State) (b k status : Nat) (x : Stamp) (steps : List I2cStep) (read : List Byte) : State :=
  let s := s.emit (.i2c b k x.t (steps ++ [.stop]))
  let s := s.portRecord b k (if status = 0 then 0 else flagError) 0 x (byte status :: read)
  (s.frameOut b k).i2cBegin b k

/-- SCL was held low beyond the idle timeout (R279): the command is answered with status 0x04. -/
def State.i2cGiveUp (s : State) (b k : Nat) : State :=
  (s.onPort b k fun p => { p with due := p.due.drop 1 }).i2cEnd b k 4 (s.stampNow b) [] []

/-! Edges and expiries (R187, R233, R279). -/

/-- An edge at a pin reaches an instance in a role. -/
def State.portEdge (s : State) (b k role : Nat) (level : Bool) : State :=
  let x := s.stampNow b
  let s := if s.drivesRole b k role then s else s.onPort b k fun p => { p with lastEdge := x }
  match s.descCode b k with
  | 0x01 => if role = 0 then s.uartEdge b k level x else s
  | 0x03 => s.spiTargetEdge b k role level x
  | 0x05 => if role = 0 ∧ level = true then s.hdlcBit b k (s.roleLevel b k 1) x else s
  | 0x06 => s.irigEdge b k level x
  | 0x08 => s.ppsEdge b k level x
  | 0x0A => s.binaryEdge b k level x
  | 0x0B => if role = 1 ∨ s.readbackPin b k = s.rolePin b k 0 then s.readbackEdge b k x else s
  | 0x0D => if role = 0 ∧ s.descNum b k 16 4 = 0 then s.sdEdge b k level x else s
  | _ => s

/-- A pin of the bench is driven by an instance that runs. -/
def State.instanceDrives (s : State) (b p : Nat) : Bool :=
  (s.runningPorts b).any fun k => match s.roleOf b k p with | some r => s.drivesRole b k r | none => false

/-- The outside driver of a pin that its ball's level shows: none where the hub itself drives that level. -/
def State.driverSeen (s : State) (b p : Nat) (level : Option Bool) : Option Bool :=
  if s.pinDrive b p (s.pinOf b p) = level then none else level

/-- The ball of a pin changes (R187): an outside driver puts a level on it, or nothing outside drives it any more and the pull is
left. A ball that floats is read at once. The pin of an instance that drives it takes the level as the instance's own. -/
def State.ballChange (s : State) (b p : Nat) (level : Option Bool) : State :=
  match level with
  | some l =>
    if s.instanceDrives b p then (s.setPin b p { s.pinOf b p with outside := none }).ballLevel b p l
    else
      let s := s.setPin b p { s.pinOf b p with outside := s.driverSeen b p level }
      (s.sample b p).2.settleBall b p
  | none => ((s.setPin b p { s.pinOf b p with outside := none }).sample b p).2.settleBall b p

/-- The level of a ball whose bench is held in reset: nothing samples it. -/
def State.ballOnly (s : State) (b p : Nat) (level : Option Bool) : State :=
  if b < 16 ∧ p < 64 then
    let s := s.setPin b p { s.pinOf b p with outside := s.driverSeen b p level }
    match s.ballAt b p with
    | some v => s.setPin b p { s.pinOf b p with ball := v }
    | none => s
  else s

/-- PIN_EDGE (R187): the sett side of the pin, and every instance it belongs to. -/
def execPinEdge (b pin : Nat) (level : Option Bool) (s : State) : Host.Outcome State Fault Refusal :=
  let s := s.clearOut
  if s.down .bench then .next (s.ballOnly b pin level)
  else if b < 16 ∧ pin < 64 then
    let before := (s.pinOf b pin).ball
    let s := s.ballChange b pin level
    let after := (s.pinOf b pin).ball
    if before = after then .next s
    else
      let l := after != s.is F.BNCH_PAD_invert [b, pin]
      .next (s.each (s.runningPorts b) fun s k => match s.roleOf b k pin with
        | some r => s.portEdge b k r l
        | none => s)
  else .next s

/-- The idle timeout of a sett expires (R233): flag 7, the entry freed, a WAIT with tb = 1 ended. -/
def State.settIdle (s : State) (b k : Nat) : State :=
  match (s.sett b k).timeout with
  | some (target, _) =>
    let s := s.onSett b k fun t => { t with timeout := none, flags := natSetBit t.flags 7 true }
    match (s.sett b k).wait with
    | some x =>
      if insOp x.word = 1 ∧ natBit x.word 14 = true then
        s.onSett b k fun t => { t with phase := x.back, wait := none, pc := target % 64 }
      else s
    | none => s
  | none => s

/-- What an instance does when the idle timeout of its receiving sett expires (R276, R279, R281). -/
def State.portIdle (s : State) (b k : Nat) : State :=
  let p := s.port b k
  match s.descCode b k with
  | 0x01 =>
    let s := s.uartSamples b k (s.roleLevel b k 0) false (s.stampNow b).t 20
    if p.inFrame && (s.port b k).active then s.truncateFrame b k else s
  | 0x03 => if p.inFrame then (s.spiSent b k).truncateFrame b k else s
  | 0x04 => if p.inFrame then s.i2cGiveUp b k else s
  | 0x05 => if p.inFrame then (s.truncateFrame b k).onPort b k fun p => { p with hunting := true, ones := 0 } else s
  | 0x06 => if p.inFrame then s.irigTruncate b k else s
  | 0x0D => if p.clocked && !p.clockLost then s.sdLost b k else s
  | _ => s

/-- IDLE_TIMEOUT_EXPIRY (R233, R276, R279). -/
def execIdleTimeoutExpiry (b k : Nat) (s : State) : Host.Outcome State Fault Refusal :=
  if s.down .bench then .next s.clearOut else
  let s := s.clearOut
  if (s.sett b k).timeout.isSome then
    let s := s.settIdle b k
    .next (s.each (s.runningPorts b) fun s i => if s.rolePin b i 0 = k then s.portIdle b i else s)
  else .next s

/-! Commands (R255). -/

/-- The payload of a command obeys the rules of its personality (R256 to R273). -/
def State.payloadOk (s : State) (b k : Nat) (pl : List Byte) : Bool :=
  match s.descCode b k with
  | 0x01 => natBit (s.descByte b k 24) 1 && (s.descByte b k 20 != 9 || pl.length % 2 == 0)
  | 0x02 => s.spiBytes b k != 0 && pl.length % s.spiBytes b k == 0
  | 0x03 => s.spiBytes b k != 0 && pl.length % s.spiBytes b k == 0
  | 0x04 =>
    let w := byteAt pl 3
    pl.length == 5 + w && w ≤ 107 && byteAt pl 4 ≤ 111 && natBits (byteAt pl 0) 6 0 == 0
      && beAt pl 1 2 < (if natBit (byteAt pl 0) 7 then 1024 else 128)
  | 0x05 => true
  | 0x0B => pl.length == 8 && (beAt pl 4 4 == 0 || beAt pl 4 4 ≥ 1000)
  | _ => false

/-- A command is refused with an error record (R255). -/
def State.commandRefused (s : State) (b k code : Nat) : State := s.portRecord b k flagError 0 (s.stampNow b) [byte code]

/-- A command record delivered to an instance (R255). -/
def State.portCommand (s : State) (b k : Nat) (cell : List Byte) : State :=
  let len := byteAt cell 3
  let pl := slice cell 16 (min len 112)
  let t := beAt cell 6 6 * unitsPerSec + natBits (beAt cell 12 4) 29 0 * unitsPerNs + natBits (beAt cell 12 4) 31 30 * quarterUnits
  let now := s.now (s.domOfConsumer (.bench b))
  let c : PortCmd := { t := t, more := natBit (byteAt cell 1) 0, payload := pl }
  if byteAt cell 0 ≠ s.descCode b k ∨ len > 112 ∨ beAt cell 4 2 ≠ 0 ∨ natBits (beAt cell 12 4) 29 0 ≥ 1000000000 ∨ !s.payloadOk b k pl then
    s.commandRefused b k 1
  else if t ≠ 0 ∧ (t < now ∨ now + 10 * unitsPerSec < t) then s.commandRefused b k 2
  else if t = 0 then (s.onPort b k fun p => { p with due := p.due ++ [c] }).i2cBegin b k
  else s.onPort b k fun p => { p with timed := p.timed ++ [c] }

/-- PERSONALITY_COMMAND (R249, R255): the instance takes a cell of one class of its endpoint. -/
def execPersonalityCommand (b k c : Nat) (s : State) : Host.Outcome State Fault Refusal :=
  if s.down .bench then .next s.clearOut else
  let s := s.clearOut
  if s.portRuns b k ∧ s.descEndpointValid b k = true ∧ s.descCode b k ≠ 0x0D then
    match s.dequeue (.personality b) (s.descEndpoint b k) c with
    | (some x, s) => .next (s.portCommand b k x.bytes)
    | (none, s) => .next s
  else .next s

/-- A command inserted into a list in the order of times, behind those of its own time. -/
def insertCmd (c : PortCmd) : List PortCmd → List PortCmd
  | [] => [c]
  | x :: rest => if x.t ≤ c.t then x :: insertCmd c rest else c :: x :: rest

/-- COMMAND_TIME_DUE (R255): the commands whose time has come are executed, in the order of their times. -/
def execCommandTimeDue (b k : Nat) (s : State) : Host.Outcome State Fault Refusal :=
  if s.down .bench then .next s.clearOut else
  let s := s.clearOut
  let now := s.now (s.domOfConsumer (.bench b))
  let p := s.port b k
  let due := (p.timed.filter fun c => c.t ≤ now).foldl (fun a c => insertCmd c a) []
  .next ((s.setPort b k { p with due := p.due ++ due, timed := p.timed.filter fun c => now < c.t }).i2cBegin b k)

/-- The next command of an instance of a personality that executes now. -/
def State.takeCommandOf (s : State) (b k code : Nat) : Option PortCmd × State :=
  if s.portRuns b k ∧ s.descCode b k = code then
    match (s.port b k).due with
    | c :: rest => (some c, s.onPort b k fun p => { p with due := rest })
    | [] => (none, s)
  else (none, s)

/-- The levels of a character on TX (R256, R257): start bit, data with the least significant bit first, parity, stop bits. -/
def State.uartLevels (s : State) (b k v : Nat) : List Bool :=
  let data := (List.range (s.descByte b k 20)).map (natBit v)
  let odd := (data.filter id).length % 2 == 1
  let parity := match s.descByte b k 21 with
    | 0 => []
    | 1 => [odd]
    | 2 => [!odd]
    | 3 => [true]
    | _ => [false]
  false :: data ++ parity ++ List.replicate (s.descByte b k 22) true

/-- The levels of a payload. -/
def State.uartLine (s : State) (b k : Nat) (pl : List Byte) : List Bool :=
  let n := if s.descByte b k 20 = 9 then 2 else 1
  (List.range (pl.length / n)).flatMap fun i => s.uartLevels b k (beAt pl (n * i) n)

/-- UART_TRANSMIT (R256, R257): the payload leaves as characters. Its first start bit falls at the command's time, or at once;
with DE on pin 2 a bit time later, since DE rises one bit time before it and falls one bit time after the last stop bit. -/
def execUartTransmit (b k : Nat) (s : State) : Host.Outcome State Fault Refusal :=
  if s.down .bench then .next s.clearOut else
  match s.clearOut.takeCommandOf b k 0x01 with
  | (some c, s) =>
    let rate := s.descNum b k 16 4
    let de := natBit (s.descByte b k 24) 2
    let bitTime := unitsPerSec / rate
    let t := if c.t = 0 then s.now (s.domOfConsumer (.bench b)) + (if de then bitTime else 0) else c.t
    let line := s.uartLine b k c.payload
    let stop := t + line.length * unitsPerSec / rate
    let s := s.onPort b k fun p => { p with echoUntil := stop }
    let s := s.when de fun s => s.emit (.edge b k 2 (t - bitTime) true)
    let s := s.emit (.bits b k 1 t line)
    .next (s.when de fun s => s.emit (.edge b k 2 (stop + bitTime) false))
  | (none, s) => .next s

/-- UART_GAP_END (R257). -/
def execUartGapEnd (b k : Nat) (s : State) : Host.Outcome State Fault Refusal :=
  if s.down .bench then .next s.clearOut else
  let s := s.clearOut
  .next (if s.portRuns b k ∧ s.descCode b k = 0x01 then s.uartGap b k else s)

/-- The bits of a payload on MOSI: each word's word_bits in the order of byte 22 (R258). -/
def State.spiLevels (s : State) (b k : Nat) (pl : List Byte) : List Bool :=
  let n := s.spiBytes b k
  let w := s.descByte b k 21
  (List.range (pl.length / n)).flatMap fun i =>
    (List.range w).map fun j => natBit (beAt pl (n * i) n) (if s.descByte b k 22 = 0 then w - 1 - j else j)

/-- What a controller puts on its pins for one transaction that begins at time t (R258, R259): CS_N low; after cs_setup_ns the
edges of SCLK, two for each bit, from the level CPOL; MOSI, whose bits change at the edges that are not sampled (with CPHA = 0 the
first one stands from CS_N on); CS_N high cs_hold_ns after the last edge. -/
def State.spiWires (s : State) (b k t : Nat) (pl : List Byte) : List Out :=
  let rate := s.descNum b k 16 4
  let levels := s.spiLevels b k pl
  let first := t + s.descNum b k 24 2 * unitsPerNs
  let edge (j : Nat) := first + j * unitsPerSec / (2 * rate)
  let mode := s.descByte b k 20
  [.edge b k 3 t false, .clock b k 0 first rate (2 * levels.length) (natBit mode 1)] ++
    (if natBit mode 0 then [.bits b k 1 first levels]
     else [.edge b k 1 t (levels.headD true), .bits b k 1 (edge 1) (levels.drop 1)]) ++
    [.edge b k 3 (edge (2 * levels.length - 1) + s.descNum b k 26 2 * unitsPerNs) true]

/-- SPI_CONTROLLER_TRANSACTION (R259): `miso` holds the words that came back, one for each word sent. -/
def execSpiControllerTransaction (b k : Nat) (miso : List Nat) (s : State) : Host.Outcome State Fault Refusal :=
  if s.down .bench then .next s.clearOut else
  match s.clearOut.takeCommandOf b k 0x02 with
  | (some c, s) =>
    let n := s.spiBytes b k
    let x := s.stampNow b
    let words := (List.range (c.payload.length / n)).map fun i => miso.getD i 0 % 2 ^ s.descByte b k 21
    .next ((s.emits (.port b k x.t c.payload :: s.spiWires b k x.t c.payload)).portRecord b k 0 0 x (words.flatMap (beBytes n)))
  | (none, s) => .next s

/-- SPI_TARGET_FRAME (R259). -/
def execSpiTargetFrame (b k : Nat) (s : State) : Host.Outcome State Fault Refusal :=
  if s.down .bench then .next s.clearOut else
  let s := s.clearOut
  .next (if s.portRuns b k ∧ s.descCode b k = 0x03 then s.spiTargetClose b k else s)

/-- What the bus brought can be the outcome of a command (R260, R261): one of the six states, all bytes asked for when it is
done, and a bus held low only where SDA was low at START. -/
def State.i2cResultOk (s : State) (b k : Nat) (c : PortCmd) (r : I2cResult) : Bool :=
  let n := byteAt c.payload 4
  r.status ≤ 5 && (if r.status = 0 then r.read.length == n else r.read.length ≤ n)
    && (r.status != 5 || r.heldLow) && (!r.heldLow || r.status == 5 || s.descByte b k 17 == 1)

/-- I2C_TRANSACTION (R260, R261): `r` holds what the bus brought. With recover, a bus whose SDA is held low gets nine clock
pulses and a STOP first. -/
def execI2cTransaction (b k : Nat) (r : I2cResult) (s : State) : Host.Outcome State Fault Refusal :=
  if s.down .bench then .next s.clearOut else
  match s.clearOut.takeCommandOf b k 0x04 with
  | (some c, t) =>
    if s.i2cResultOk b k c r then
      let clear := if r.heldLow ∧ s.descByte b k 17 = 1 then [.clocks 9, .stop] else []
      let steps := match r.status with
        | 0 => i2cSteps c.payload
        | 5 => []
        | _ => (i2cSteps c.payload).take r.done
      .next (t.i2cEnd b k r.status (s.stampNow b) (clear ++ steps) r.read)
    else .next s.clearOut
  | (none, s) => .next s

/-- The commands of one transmit sequence: those with more = 1 and the one that ends it (R263). -/
def takeSequence : List PortCmd → Option (List PortCmd × List PortCmd)
  | [] => none
  | c :: rest =>
    if c.more then (takeSequence rest).map fun (a, r) => (c :: a, r) else some ([c], rest)

/-- Bit stuffing (R262): a zero follows five ones in succession. -/
def hdlcStuff (bits : List Bool) : List Bool :=
  (bits.foldl (fun (a, n) x =>
    if x then (if n = 4 then (a ++ [true, false], 0) else (a ++ [true], n + 1)) else (a ++ [false], 0)) (([], 0) : List Bool × Nat)).1

/-- A flag, and bytes as bits, least significant first. -/
def hdlcFlagBits : List Bool := [false, true, true, true, true, true, true, false]
def lsbBits (bs : List Byte) : List Bool := bs.flatMap fun x => (List.range 8).map (natBit x.toNat)

/-- A transmitted frame on TXD (R262, R263): min_flags flags, the stuffed bytes with their FCS, and the closing flag. -/
def State.hdlcLine (s : State) (b k : Nat) (body : List Byte) : List Bool :=
  (List.range (s.descByte b k 21)).flatMap (fun _ => hdlcFlagBits)
    ++ hdlcStuff (lsbBits (body ++ hdlcFcs (s.fcsLen b k == 4) body)) ++ hdlcFlagBits

/-- HDLC_TRANSMIT (R263): a command, or a sequence of commands, leaves as one frame with its FCS. -/
def execHdlcTransmit (b k : Nat) (s : State) : Host.Outcome State Fault Refusal :=
  if s.down .bench then .next s.clearOut else
  let s := s.clearOut
  if s.portRuns b k ∧ s.descCode b k = 0x05 then
    match takeSequence (s.port b k).due with
    | some (cs, rest) =>
      let body := cs.flatMap (·.payload)
      let s := s.onPort b k fun p => { p with due := rest }
      .next (s.emit (.bits b k 3 (s.now (s.domOfConsumer (.bench b))) (s.hdlcLine b k body)))
    | none => .next s
  else .next s

/-- PPS_WINDOW_END (R267). -/
def execPpsWindowEnd (b k : Nat) (s : State) : Host.Outcome State Fault Refusal :=
  if s.down .bench then .next s.clearOut else
  let s := s.clearOut
  .next (if s.portRuns b k ∧ s.descCode b k = 0x08 then s.ppsWindow b k else s)

/-- DEBOUNCE_EXPIRY (R270). -/
def execDebounceExpiry (b k : Nat) (s : State) : Host.Outcome State Fault Refusal :=
  if s.down .bench then .next s.clearOut else
  let s := s.clearOut
  .next (if s.portRuns b k ∧ s.descCode b k = 0x0A then s.binaryDebounced b k else s)

/-- CHATTER_QUIET_EXPIRY (R271). -/
def execChatterQuietExpiry (b k : Nat) (s : State) : Host.Outcome State Fault Refusal :=
  if s.down .bench then .next s.clearOut else
  let s := s.clearOut
  .next (if s.portRuns b k ∧ s.descCode b k = 0x0A then s.binaryQuiet b k else s)

/-- A pulse waits until the edge unit has room for its return edge (R192). -/
def State.pulseWaits (s : State) (b k : Nat) : Bool :=
  match (s.port b k).due with
  | c :: _ =>
    beAt c.payload 4 4 != 0 && !((s.port b k).failed && !natBit (byteAt c.payload 0) 7)
      && entriesUsed (s.sett b (s.ownerSett b (s.rolePin b k 0))) ≥ 2
  | [] => false

/-- SUPERVISED_OUTPUT_COMMAND (R273): the drive pin takes the state, and a pulse returns it after its width. -/
def execSupervisedOutputCommand (b k : Nat) (s : State) : Host.Outcome State Fault Refusal :=
  if s.down .bench ∨ s.pulseWaits b k = true then .next s.clearOut else
  match s.clearOut.takeCommandOf b k 0x0B with
  | (some c, s) =>
    if (s.port b k).failed ∧ !natBit (byteAt c.payload 0) 7 then .next (s.commandRefused b k 3)
    else
      let s := s.when (s.port b k).failed fun s =>
        (s.onPort b k fun p => { p with failed := false }).portShow b k 1
      let p := s.rolePin b k 0
      let own := s.ownerSett b p
      let level := natBit (byteAt c.payload 0) 0
      let s := s.supervisedDrive b k fun s => (s.driveLevel b own p level).driveEnable b own p true
      let width := beAt c.payload 4 4
      let dom := s.domOfConsumer (.bench b)
      .next (s.when (width ≠ 0) fun s => s.armEdge b own (p % 4) (!level) ((s.now dom : Int) + (width * unitsPerNs : Nat)) dom)
  | (none, s) => .next s

/-! Scheduled edges (R192, R266, R268, R274, R275). -/

/-- The edge of an instance's signal that is due is applied to its pin; a trigger counts its leading edges, and the edges of a
driven modulator clock are its clock edges. -/
def State.waveEdge (s : State) (b k : Nat) (lead : Bool) (i : Int) (t : Nat) : State :=
  let p := s.rolePin b k (s.waveRole b k)
  let level := s.waveLevel b k == lead
  let x := { s.stampNow b with t := t }
  let s := s.driveEdge b (s.ownerSett b p) p level
  let s := s.onPort b k fun q => { q with wave := q.wave.map fun w => { w with index := some i, high := lead } }
  match s.descCode b k with
  | 0x0C => s.when lead fun s => s.triggerEdge b k x
  | 0x0D => s.sdEdge b k level x
  | _ => s

/-- The instances whose signal a sett applies: it owns the pin, and has not trapped. -/
def State.wavesOf (s : State) (b t : Nat) : List Nat :=
  if (s.sett b t).phase = .trapped ∨ (s.sett b t).phase = .reset then []
  else (s.runningPorts b).filter fun k => s.waves b k && s.ownerSett b (s.rolePin b k (s.waveRole b k)) == t

/-- The edges of the signals of a sett that are due are applied, at most one of each. -/
def State.applyWaves (s : State) (b t : Nat) : State :=
  s.each (s.wavesOf b t) fun s k => match s.waveDue b k with
    | some (lead, i, at') => s.waveEdge b k lead i at'
    | none => s

/-- The pending edges of a sett whose time has come are applied; those on the drive pin of a supervised output are new drives
of it (R273). -/
def State.applyPending (s : State) (b t : Nat) : State :=
  match (s.sett b t).edges with
  | e :: rest =>
    if (s.now e.dom : Int) < e.t then s
    else
      let outs := (s.runningPorts b).filter fun k => s.descCode b k == 0x0B && s.rolePin b k 0 == quadPin t e.pin
      let go (s : State) : State := s.applyEdges b t (e :: rest)
      let s := match outs with
        | k :: _ => s.supervisedDrive b k go
        | [] => go s
      s.stopContended b t
  | [] => s

/-- SCHEDULED_EDGE_DUE (R192, R193): the time of the oldest pending edge of a sett has come, or that of an edge of a signal
one of its instances drives. -/
def execScheduledEdgeDue (b k : Nat) (s : State) : Host.Outcome State Fault Refusal :=
  if s.down .bench then .next s.clearOut else
  .next ((s.clearOut.applyPending b k).applyWaves b k)

/-- SUPERVISION_WINDOW_EXPIRY (R273). -/
def execSupervisionWindowExpiry (b k : Nat) (s : State) : Host.Outcome State Fault Refusal :=
  if s.down .bench then .next s.clearOut else
  let s := s.clearOut
  .next (if s.portRuns b k ∧ s.descCode b k = 0x0B then s.superviseExpired b k else s)

/-! Start of the instances of a bench (R245, R505). -/

/-- The signal of an instance that starts: its pin is driven at the level before the first pulse (log entry 52). -/
def State.waveStart (s : State) (b k : Nat) : State :=
  if s.waves b k then
    let p := s.rolePin b k (s.waveRole b k)
    let own := s.ownerSett b p
    let s := s.onPort b k fun q => { q with wave := some { anchor := s.waveAnchor b k } }
    (s.driveLevel b own p (!s.waveLevel b k)).driveEnable b own p true
  else s

/-- Instance k starts: out of frame; a signal of its own begins; a binary input takes its level, and reports it when initial
is 1 (R269, R270). -/
def State.startInstance (s : State) (b k : Nat) : State :=
  let s := s.setPort b k {}
  let s := s.wr .BNCH_PORT_STAT [b, k] (1 * 2 ^ 28 + s.descCode b k * 2 ^ 16 + s.descEndpoint b k)
  if s.descCode b k = 0x0A then
    let s := s.onPort b k fun p => { p with accepted := s.roleLevel b k 0 }
    s.when (s.descByte b k 26 == 1) fun s => s.binaryRecord b k 3 0 (s.stampNow b)
  else s.waveStart b k

/-- Every instance in use starts (BNCH_PDT_STATUS). -/
def State.startInstances (s : State) (b : Nat) : State :=
  let ks := (List.range 64).filter (s.descInUse b)
  let s := s.wr .BNCH_PDT_STATUS [b] (2 * 2 ^ 8 + 2 ^ 7 + ks.length)
  let s := s.each ((List.range 64).filter fun k => !s.descInUse b k) fun s k => s.wr .BNCH_PORT_STAT [b, k] 0
  (s.each ks fun s k => s.startInstance b k).burstAsk b

/-- Every instance of a bench stops (BNCH_PORT_STAT state 6). -/
def State.stopInstances (s : State) (b : Nat) : State :=
  s.each (s.runningPorts b) fun s k => (s.setPort b k {}).portShow b k 6

end Sys2Proof.Machine
end

