-- ==== Sys2Proof/Machine/Bench.lean ====
section
/-! DEFINITION. Control of setts and benches: start, stop, reset, groups, injection, mailboxes, controller lines,
firmware faults, out of service and bench reset (R175 to R202, R505, R571). What the spec leaves to a reading or a
choice stands in log entries 19, 43 and 38. -/

namespace Sys2Proof.Machine

/-! Sett control (R176 to R178). -/

/-- Start command (R176): from stopped at start_pc, from halted at the program counter; ignored in any other state. -/
def State.startSett (s : State) (b k : Nat) : State :=
  let t := s.sett b k
  match t.phase with
  | .stopped => s.setSett b k { t with phase := .running, pc := s.get F.SETT_CTRL_start_pc [b, k] }
  | .halted => s.setSett b k { t with phase := .running }
  | _ => s

/-- Stop command (R176). -/
def State.stopCommand (s : State) (b k : Nat) : State :=
  match (s.sett b k).phase with
  | .running => s.stopSett b k 5
  | .waiting => s.stopSett b k 5
  | _ => s

/-- Sett reset (R160, R177, R240): everything the rule names is cleared, the sett's shot assertions are released, its pins
go to their safe states, and at the boundary that ends the reset the sett is stopped, but for a sett whose bench is in reset. -/
def State.resetSett (s : State) (b k : Nat) : State :=
  let t := s.sett b k
  let s := s.setSett b k { phase := if t.phase = .reset then .reset else .stopped, cause := t.cause }
  (s.settLines b k 0).safeOwned b k

/-- The command bits of SETT_CTRL written together: reset before stop before start (R176). A reset asked for while the bench is
being reset is ignored (R507). -/
def State.settCommand (s : State) (b k bits : Nat) : State :=
  if natBit bits 2 then (if (s.benchOf b).reloading then s else s.resetSett b k)
  else if natBit bits 1 then s.stopCommand b k
  else if natBit bits 0 then s.startSett b k
  else s

/-- The setts selected by the group masks (R178). -/
def State.groupSetts (s : State) (b : Nat) : List Nat :=
  (List.range 64).filter fun k =>
    if k < 32 then natBit (s.rd .BNCH_GROUP_MASK_LO [b]) k else natBit (s.rd .BNCH_GROUP_MASK_HI [b]) (k - 32)

/-- A group command is applied to every selected sett (R178). -/
def State.groupApply (s : State) (b op : Nat) : State :=
  s.each (s.groupSetts b) fun s k => s.settCommand b k (match op with | 1 => 1 | 2 => 2 | 3 => 4 | _ => 0)

/-- A write of BNCH_GROUP_CMD (R178): applied at once, or at the next round boundary of domain A. -/
def State.groupWrite (s : State) (b val : Nat) : State :=
  let op := natBits val 1 0
  if op = 0 then s
  else if natBit val 2 then s.setBench b { s.benchOf b with atRound := some op }
  else s.groupApply b op

/-- GROUP_CMD_AT_ROUND (R178): the sett boundary at the round boundary has come. -/
def execGroupCmdAtRound (b : Nat) (s : State) : Host.Outcome State Fault Refusal :=
  if s.down .bench then .next s.clearOut else
  let s := s.clearOut
  match (s.benchOf b).atRound with
  | some op => .next ((s.setBench b { s.benchOf b with atRound := none }).groupApply b op)
  | none => .next s

/-- A write of SETT_INJECT (R180, R181): a wait is abandoned, that of an injected instruction too (R244). -/
def State.injectWrite (s : State) (b k val : Nat) : State :=
  let t := s.sett b k
  if t.phase = .reset ∨ t.phase = .trapped ∨ t.inject.isSome then s.inc F.SETT_ERR_inject_refused [b, k]
  else
    let back := match t.wait with | some x => (if x.injected then x.back else .running) | none => .running
    s.setSett b k { t with inject := some (word32 val), abandoned := back, wait := none }

/-- A write of program memory may be applied (R179). -/
def State.progWritable (s : State) (b k : Nat) : Bool :=
  let t := s.sett b k
  t.phase != .running && t.phase != .waiting

/-! Mailboxes (R196, R199). -/

/-- A path may access the mailboxes of a sett of bench b (R199). -/
def State.mboxAllowed (s : State) (p : Path) (b k : Nat) : Bool :=
  s.is F.SETT_CTRL_ext_mbox [b, k] || (match p with | .bench i _ => i == b | _ => false)

/-- A word is appended to the IN mailbox; none when it is full (R196). -/
def State.mboxAppend (s : State) (b k val : Nat) : Option State :=
  let t := s.sett b k
  if t.inbox.length < 4 then some (s.setSett b k { t with inbox := t.inbox ++ [word32 val] }) else none

/-- The oldest word of the OUT mailbox is removed; none when it is empty (R196). -/
def State.mboxTake (s : State) (b k : Nat) : Option (Nat × State) :=
  let t := s.sett b k
  match t.outbox with
  | v :: rest => some (v, s.setSett b k { t with outbox := rest })
  | [] => none

/-! Controller lines (R240). -/

/-- The bench controller sets the level of a controller interrupt line; a raise sets every sett's latch (R240). -/
def State.raiseLine (s : State) (b line : Nat) (level : Bool) : State :=
  let s := s.setBench b { s.benchOf b with lines := natSetBit (s.benchOf b).lines line level }
  let s := if level then s.each (List.range 64) fun s k => s.onSett b k fun t => { t with latches := natSetBit t.latches line true }
    else s
  s.meetLines b

/-- CONTROLLER_IRQ_RAISE (R240). -/
def execControllerIrqRaise (b line : Nat) (level : Bool) (s : State) : Host.Outcome State Fault Refusal :=
  if s.down .bench then .next s.clearOut else
  let s := s.clearOut
  .next (if b < 16 ∧ line < 16 then s.raiseLine b line level else s)

/-! Service (R571) and firmware faults (R202). -/

/-- Every quad pin of a bench goes to its safe state (R186). -/
def State.safeBench (s : State) (b : Nat) : State := s.each (List.range 64) fun s p => s.safePin b p

/-- A sett of a bench that goes out of service: stopped with stop_cause 6, its pending edges discarded (R194, R571). -/
def State.serviceStop (s : State) (b k : Nat) : State :=
  let s := s.onSett b k fun t =>
    let t := { t with edges := [], timeout := none, inject := none, wait := none }
    if t.phase = .reset then t else { t with phase := .stopped, cause := 6 }
  s.settLines b k 0

/-- Bench b goes out of service (R571); a bench already out of service is left as it is (R572). -/
def State.benchOut (s : State) (b : Nat) : State :=
  if s.is F.BNCH_STATUS_out_of_service [b] then s
  else
    let s := s.each (List.range 64) fun s k => s.serviceStop b k
    let s := (s.cmpEndAll b).stopInstances b
    let s := (s.leaf (benchLeaf b 8) b 0 true).setB F.BNCH_STATUS_fw_running [b] false
    let s := (s.safeBench b).burstGive b
    (s.setB F.BNCH_STATUS_out_of_service [b] true).setB F.BNCH_CTRL_out_of_service [b] true

/-- A firmware fault of bench b (R202): recorded, and the bench takes itself out of service. -/
def State.firmwareFault (s : State) (b code : Nat) : State :=
  ((s.set F.BNCH_STATUS_fw_fault_code [b] code).leaf (benchLeaf b 7) b).benchOut b

/-- BENCH_FREEZE_TIMEOUT (R203, R571): the queues could not be frozen within 2 rounds. -/
def execBenchFreezeTimeout (b : Nat) (s : State) : Host.Outcome State Fault Refusal :=
  if s.down .bench then .next s.clearOut else
  let s := s.clearOut
  if s.is F.BNCH_STATUS_out_of_service [b] && !s.is F.BNCH_STATUS_queues_frozen [b] then
    .next ((s.leaf (benchLeaf b 9) b).raiseFault 2)
  else .next s

/-! Bench reset (R505). -/

/-- A pin whose bench island restarts, with its pad at the Reset column: what it drives, and the ball with its pull-down (R591).
Where the hub and an outside driver disagree the ball keeps its last sample. -/
def restartedPin (x : Pin) (drive : Option Bool) : Pin :=
  { out := drive.getD false
    enable := drive.isSome
    ball := match drive, x.outside with
      | some d, some o => if d = o then d else x.ball
      | some d, none => d
      | none, o => o.getD false
    outside := x.outside }

/-- The pins of bench b at its restart. At power-on reset and RESET_N they are inputs with a pull-down (R591); at any other
restart (`keep`) they are in their safe states already and stay so, whatever the pads' registers return to (R186). -/
def State.pinsRestart (s : State) (b : Nat) (keep : Bool) : State :=
  let drive (k : Nat) (x : Pin) : Option Bool := s.pinDrive b (k % 64) x
  let gone := s.pins.filter fun e => e.1 / 64 == b && !keep && (drive e.1 e.2).isSome
  let s := s.emits (gone.map fun e => .pin b (e.1 % 64) none)
  { s with pins := (s.pins.map fun e =>
      if e.1 / 64 = b then (e.1, restartedPin e.2 (if keep then drive e.1 e.2 else none)) else e).filter fun e => e.2 != {} }

/-- Bench island b restarts (R500, R502): its registers return to their Reset column, its memories are cleared, and its
setts, pins, instances and dresser with them; its dresser-burst permits are returned (R503). The latches of R35 and the held
low words of R36 stay, those of its own controller too (DESIGN CHOICE, log entry 38). -/
def State.benchRestart (s : State) (b : Nat) (keep : Bool) : State :=
  let s := if keep then (s.safeBench b).pinsRestart b true else s.pinsRestart b false
  let s := s.each (List.range 64) fun s k => s.settLines b k 0
  let s := (s.cmpEndAll b).burstGive b
  let s := s.permitGive .settReload b
  let here (k : Nat) : Bool := k / 0x100000 == 16 + b
  { s with
    regs := s.regs.filter fun e => !here e.1
    setts := (s.setts.filter fun e => e.1 / 64 != b)
    benches := smSet s.benches b {} {}
    ports := s.ports.filter fun e => e.1 / 64 != b
    drs := { channels := s.drs.channels.filter fun e => e.1 / 32 != b
             groups := s.drs.groups.filter fun e => e.1 / 4 != b
             released := smSet s.drs.released b 0 0 } }

/-- Steps 1 and 2 of a bench reset (R505): pins safe, the island restarted, its endpoints frozen; a BIST of the bench is
aborted (R575); the reload waits for its permit. The bench stays out of service when it was, and a return to service goes
on. -/
def State.benchResetBegin (s : State) (b : Nat) : State :=
  let s := s.when (s.get F.TST_BIST_STATUS_bench == b && (s.get F.TST_BIST_STATUS_state == 1 || s.get F.TST_BIST_STATUS_state == 2))
    fun s => (s.set F.TST_BIST_STATUS_state [] 5).permitGive .bist 0
  let out := s.is F.BNCH_STATUS_out_of_service [b]
  let back := (s.benchOf b).returning
  let s := s.benchRestart b true
  let s := s.setBench b { reloading := true, returning := back }
  let s := (s.setB F.BNCH_STATUS_out_of_service [b] out).setB F.BNCH_CTRL_out_of_service [b] out
  (s.setB F.BNCH_STATUS_queues_frozen [b] true).permitAsk .settReload b

/-- The class of a bank voltage in units of 20 mV (R585). -/
def bankClass (m : Nat) : Nat :=
  if 1620 ≤ 20 * m ∧ 20 * m ≤ 1980 then 0 else if 2250 ≤ 20 * m ∧ 20 * m ≤ 2750 then 1
  else if 3000 ≤ 20 * m ∧ 20 * m ≤ 3600 then 2 else 3

/-- The reset of bench island b ends (R175, R177): its setts are stopped, and its bank is measured (R585): the voltage found
and the outcome of the island's calibration (R22) are free values. -/
def State.benchRelease (s : State) (b : Nat) : State :=
  let s := s.each (List.range 64) fun s k => s.onSett b k fun t => { t with phase := .stopped }
  let (m, s) := s.drawWord 8
  let s := (s.set F.BNCH_BANK_measured [b] m).set F.BNCH_BANK_level [b] (bankClass m)
  let (ok, s) := s.drawLevel
  let s := s.setB F.BNCH_STATUS_time_valid [b] ok
  s.when (!ok) fun s => s.leaf (timeLeaf 3) b

end Sys2Proof.Machine
end

