-- ==== Sys2Proof/Machine/Bridge.lean ====
section
/-! DEFINITION. The fabric bridge: issue, the posted-write buffer, cells, streams, tags, time-outs and polls (R340 to
R357). What a target does with a cell stands in the fabric file, beside the accesses to the local map. What the spec
leaves to a reading or a choice stands in log entries 25 and 7. -/

namespace Sys2Proof.Machine

/-! Paths. -/

/-- Face of a path (R475). -/
def State.pathFace (s : State) : Path → Nat
  | .pcie => s.get F.FACE_PATH_CFG_pcie_face
  | .spi => s.get F.FACE_PATH_CFG_spi_face
  | .hubController => 0
  | .bench _ f => f
  | .remote _ _ f => f
  | .guarded => 0
  | .loader => 0

/-- The paths that can issue fabric accesses (the chapter's opening, R43). -/
def pathIssues : Path → Bool
  | .pcie => true
  | .hubController => true
  | .bench _ _ => true
  | _ => false

/-- Path code of byte 16 (R342). -/
def originCode : ReadOrigin → Nat
  | .path .pcie => 0
  | .path .hubController => 1
  | .path (.bench b _) => 2 + b
  | .path _ => 0
  | .poll _ => 18

/-- The leaf of an access refused under R34, by path (R37). -/
def refusedLeaf : Path → Option Nat
  | .pcie => some (hostLeaf 2)
  | .spi => some (hostLeaf 3)
  | .bench b _ => some (benchLeaf b 14)
  | .hubController => some (hopLeaf 10)
  | _ => none

/-- The leaf of an access to a hole, by path (R37). -/
def holeLeaf : Path → Option Nat
  | .pcie => some (hostLeaf 0)
  | .spi => some (hostLeaf 1)
  | .remote _ _ _ => some (bridgeLeaf 1)
  | .bench b _ => some (benchLeaf b 13)
  | .hubController => some (hopLeaf 9)
  | .guarded => some (hopLeaf 9)
  | .loader => none

/-- A leaf of R37 with the address of the access in unit and code. -/
def State.addressLeaf (s : State) (n : Option Nat) (addr : Nat) : State :=
  match n with
  | some n => s.leaf n (addr / 2 ^ 16 % 256) (addr % 2 ^ 16)
  | none => s

/-! Errors (BRG_ACCESS_ERR). -/

/-- A posted-write error is recorded, or merged into the record that stands (R344, R345, R348, R352), and the bridge's
leaf is set. `hub` is the source hub of a remote error, else the target hub. -/
def State.accessRecord (s : State) (reason hub : Nat) (remote : Bool) (face addr : Nat) : State :=
  let s :=
    if s.is F.BRG_ACCESS_ERR_valid then s.inc F.BRG_ACCESS_ERR_merge
    else
      (s.wr .BRG_ACCESS_ERR [] (2 ^ 31 + reason * 2 ^ 24 + hub % 64 * 2 ^ 14 + b2n remote * 2 ^ 13 + face % 16 * 2 ^ 9)).wr
        .BRG_ACCESS_ADDR [] (if reason = 5 then 0 else addr)
  if reason = 1 ∨ reason = 2 then s.addressLeaf (some (bridgeLeaf 0)) addr else s.leaf (bridgeLeaf 0)

/-! Streams (R348). -/

/-- The stream toward hub h starts again: sequence 0, with first = 1 on its next cell. -/
def State.streamRestart (s : State) (h : Nat) : State :=
  let s := s.set F.BRG_TX_SEQ_next [h] 0
  { s with brg := { s.brg with started := natSetBit s.brg.started h false } }

/-- An arriving cell of source hub `src` is checked against its stream: whether it is applied, and the state after. -/
def State.streamCheck (s : State) (src : Nat) (first : Bool) (seq face : Nat) : Bool × State :=
  let expected := s.get F.BRG_RX_SEQ_expected [src]
  let next (s : State) : State := (s.setB F.BRG_RX_SEQ_held [src] true).set F.BRG_RX_SEQ_expected [src] ((seq + 1) % 2 ^ 16)
  let gap := (seq + 2 ^ 16 - expected) % 2 ^ 16
  if first || !s.is F.BRG_RX_SEQ_held [src] || gap == 0 then (true, next s)
  else if gap ≤ 32767 then
    let s := (s.add F.BRG_CNT_B_lost_cells [] gap).leaf (bridgeLeaf 3)
    (true, next (s.accessRecord 5 src true face 0))
  else (false, s.inc F.BRG_CNT_B_stale)

/-! Cells (R342). -/

/-- The kinds of bridge cell. -/
def cellWrite : Nat := 0x11
def cellRead : Nat := 0x12
def cellResponse : Nat := 0x13

/-- A bridge cell from its fields. -/
def bridgeCell (kind face : Nat) (first : Bool) (n tag seq addr lanes status refused path : Nat) (words : List Nat) : List Byte :=
  [byte kind, byte (face * 16 + b2n first), byte n, byte tag] ++ beBytes 2 seq ++ zeros 2 ++ beBytes 4 addr
    ++ [byte lanes, byte status] ++ beBytes 2 refused ++ [byte path] ++ zeros 15
    ++ padTo 64 (words.flatMap (beBytes 4)) ++ zeros 32

/-- Word k of a bridge cell. -/
def cellWord (c : List Byte) (k : Nat) : Nat := beAt c (32 + 4 * k) 4

/-- The number of words of a bridge cell. -/
def cellCount (c : List Byte) : Nat := byteAt c 2

/-- Malformed (R342): a reserved kind, a number of words outside 1 to 16, or a nonzero field that must be 0. -/
def cellMalformed (c : List Byte) : Bool :=
  let kind := byteAt c 0
  let n := cellCount c
  let used := if kind = cellRead ∨ (kind = cellResponse ∧ byteAt c 13 = 2) then 0 else n
  !(kind == cellWrite || kind == cellRead || kind == cellResponse) || natBits (byteAt c 1) 3 1 != 0 || n == 0 || n > 16
    || (kind == cellWrite && byteAt c 3 != 0) || (kind != cellRead && byteAt c 12 != 0)
    || (kind != cellResponse && (byteAt c 13 != 0 || beAt c 14 2 != 0))
    || !allZero (slice c 17 15) || !allZero (slice c (32 + 4 * used) (64 - 4 * used)) || !allZero (slice c 96 32)

/-- A malformed cell is counted. -/
def State.malformedCell (s : State) : State := (s.inc F.BRG_CNT_B_malformed).leaf (bridgeLeaf 4)

/-! Tags (R353 to R355). -/

/-- A tag of the general pool. -/
def State.tagOf (s : State) (t : Nat) : BridgeTag := smGet s.brg.tags t {}

/-- A tag replaced. -/
def State.setTag (s : State) (t : Nat) (x : BridgeTag) : State :=
  { s with brg := { s.brg with tags := smSet s.brg.tags t x {} } }

/-- General tags in use. -/
def State.tagsUsed (s : State) : Nat := ((List.range 240).filter fun t => (s.tagOf t).used).length

/-- The lowest free tag of the general pool. -/
def State.freeTag (s : State) : Option Nat := (List.range 240).find? fun t => !(s.tagOf t).used

/-- Cells in the posted-write buffer. -/
def State.postedFill (s : State) : Nat := (s.brg.offers.filter (·.write)).length

/-- One failed poll (R357). -/
def State.pollFailed (s : State) (k : Nat) : State :=
  let s := (s.setB F.BRG_POLL_STATUS_stale [k] true).setB F.BRG_POLL_STATUS_pending [k] false
  (s.inc F.BRG_POLL_STATUS_failures [k]).leaf (bridgeLeaf 5) k

/-- Whoever waits for a read receives an error for each of its words (R41, R350, R354, R357). -/
def State.readFails (s : State) (o : ReadOrigin) (hub addr n : Nat) : State :=
  match o with
  | .path p => (List.range n).foldl (fun s k => s.emit (.accessError p (hub * 2 ^ 32 + addr + 4 * k))) s
  | .poll k => s.pollFailed k

/-! Offers to the hopper (R345). -/

/-- The queue toward hub h (R340). -/
def State.bridgeQueue (s : State) (h : Nat) : Nat := queueNo (s.get F.BRG_CFG_endpoint) (s.get F.BRG_CFG_class) h

/-- The cell an access departs in. -/
def State.offerCell (s : State) (o : BridgeOffer) : List Byte :=
  let first := !natBit s.brg.started o.hub
  let seq := s.get F.BRG_TX_SEQ_next [o.hub]
  if o.write then bridgeCell cellWrite o.face first o.words.length 0 seq o.addr 0 0 0 (originCode o.origin) o.words
  else bridgeCell cellRead o.face first o.count o.tag seq o.addr o.lanes 0 0 (originCode o.origin) []

/-- One access is offered to the hopper: whether it stays (refused as full), and the state after (R345, R348). -/
def State.offerOne (s : State) (o : BridgeOffer) : Bool × State :=
  let seq := s.get F.BRG_TX_SEQ_next [o.hub]
  match s.enqueue .bridge (s.bridgeQueue o.hub) (s.offerCell o) with
  | (.accepted, s) =>
    let s := s.set F.BRG_TX_SEQ_next [o.hub] ((seq + 1) % 2 ^ 16)
    let s := { s with brg := { s.brg with started := natSetBit s.brg.started o.hub true } }
    (false, s.when (!o.write) fun s => s.setTag o.tag { s.tagOf o.tag with seq := some seq })
  | (.full, s) => (true, s)
  | (_, s) =>
    if o.write then (false, s.accessRecord 4 o.hub false o.face o.addr)
    else (false, (s.setTag o.tag {}).readFails o.origin o.hub o.addr o.count)

/-- Accesses are offered in order: writes until one stays in the buffer; reads that no earlier access to the same hub
holds back (R345, R349). `kept` holds what stays, and `stuck` a write that stays. -/
def State.offerList (s : State) (kept : List BridgeOffer) (stuck : Bool) : List BridgeOffer → List BridgeOffer × State
  | [] => (kept, s)
  | o :: rest =>
    if (o.write && stuck) || kept.any (fun x => x.hub == o.hub) then s.offerList (kept ++ [o]) stuck rest
    else
      let (stays, s) := s.offerOne o
      if stays then s.offerList (kept ++ [o]) (stuck || o.write) rest else s.offerList kept stuck rest

/-- Two accesses travel in one cell (R343): 32-bit accesses that one path issued one after the other, of the same kind, to
the same target, contiguous, at most 16 words, within 64 bytes. -/
def joins (o x : BridgeOffer) : Bool :=
  let n := if o.write then o.words.length else o.count
  o.fresh && o.write == x.write && o.origin == x.origin && o.face == x.face && o.hub == x.hub
    && (if x.write then x.words.length == 1 else x.count == 1 && x.lanes == 0x0F && o.lanes == 0x0F)
    && o.addr + 4 * n == x.addr && n < 16 && o.addr / 64 == x.addr / 64

/-- The access in whose cell a new one travels, when there is one: the newest of its path, and the newest to its target, so
that the order of R349 holds. -/
def State.joined (s : State) (x : BridgeOffer) : Option BridgeOffer :=
  match s.brg.offers.reverse.find? fun o => o.origin == x.origin || o.hub == x.hub with
  | some o => if joins o x then some o else none
  | none => none

/-- An access may be accepted now (R344): a write finds an entry of the buffer, a read a free tag or the cell of the read
before it. A read of a face whose reset is in progress waits until its intake resumes (R479; DESIGN CHOICE, log entry 37). -/
def State.hasRoom (s : State) (x : BridgeOffer) : Bool :=
  if x.write then s.postedFill < 64 else !s.faceBusy x.face && (s.freeTag.isSome || (s.joined x).isSome)

/-- An access is accepted (R343, R344): placed in the cell of the one before it, or in a new one, with a tag for a read. A
64-bit access is never joined by another. -/
def State.acceptAccess (s : State) (x : BridgeOffer) : State :=
  let old := s.brg.offers
  match s.joined x with
  | some o =>
    let o' := { o with words := o.words ++ x.words, count := o.count + x.count }
    let s := { s with brg := { s.brg with offers := old.map fun y => if y = o then o' else y } }
    s.when (!x.write) fun s => s.setTag o.tag { s.tagOf o.tag with count := o'.count }
  | none =>
    let t := s.freeTag.getD 0
    let x := { x with tag := if x.write then 0 else t, fresh := x.words.length ≤ 1 ∧ x.count ≤ 1 }
    let kept := old.map fun y => if y.origin = x.origin then { y with fresh := false } else y
    let s := { s with brg := { s.brg with offers := kept ++ [x] } }
    s.when (!x.write) fun s =>
      s.setTag t { used := true, origin := x.origin, hub := x.hub, face := x.face, addr := x.addr, count := x.count, since := x.since }

/-- The paths that wait go on, in their order, where there is room and no earlier access of the same path waits (R344). -/
def State.admitList (s : State) (kept : List BridgeOffer) : List BridgeOffer → State
  | [] => { s with brg := { s.brg with waiting := kept } }
  | o :: rest =>
    if kept.any (fun x => x.origin == o.origin) || !s.hasRoom o then s.admitList (kept ++ [o]) rest
    else (s.acceptAccess o).admitList kept rest
def State.admitWaiting (s : State) : State := s.admitList [] s.brg.waiting

/-- The bridge's turn at the hopper. `writes` says whether posted writes are offered in it. -/
def State.bridgeTurn (s : State) (writes : Bool) : State :=
  let (kept, s) := s.offerList [] (!writes) s.brg.offers
  ({ s with brg := { s.brg with offers := kept } }).admitWaiting

/-- A tag is freed; a read that waits for one takes it (R344, R353). -/
def State.freeTagOf (s : State) (t : Nat) : State := ((s.setTag t {}).admitWaiting).bridgeTurn false

/-! Issue (R343, R344). -/

/-- Hub h is integrated in the ring of this hub (R24, R130). -/
def State.hubIntegrated (s : State) (h : Nat) : Bool := s.integrated && natBit s.ring.bitmap h

/-- The bridge carries no access to hub h (R24, R340). -/
def State.notReachable (s : State) (h : Nat) : Bool := 64 ≤ h || !s.hubIntegrated h || !s.is F.BRG_CFG_enable

/-- Bytes of an access. -/
def widthBytes : Width → Nat
  | .w8 => 1
  | .w16 => 2
  | .w32 => 4
  | .w64 => 8

/-- An access that passed the checks of R344 is accepted, or its path waits. -/
def State.issueAccess (s : State) (x : BridgeOffer) : State :=
  let b := s.brg
  ({ s with brg := { b with waiting := b.waiting ++ [{ x with since := s.time.cycles }] } } : State).admitWaiting

/-- A write to another hub is issued (R344). -/
def State.issueWrite (s : State) (p : Path) (w : Width) (hub addr val : Nat) : State :=
  let face := s.pathFace p
  if s.notReachable hub then s.accessRecord 3 hub false face addr
  else if widthBytes w < 4 ∨ addr % widthBytes w ≠ 0 then (s.addressLeaf (refusedLeaf p) addr).accessRecord 1 hub false face addr
  else
    let words := if widthBytes w = 8 then [val % 2 ^ 32, val / 2 ^ 32 % 2 ^ 32] else [val % 2 ^ 32]
    let x : BridgeOffer := { write := true, origin := .path p, hub := hub, face := face, addr := addr, words := words }
    s.issueAccess x

/-- A read of `n` words from another hub is issued (R344), with the byte lanes of a narrow one; its request is offered at the
bridge's turn, behind every earlier write. -/
def State.issueRead (s : State) (o : ReadOrigin) (face hub addr n lanes : Nat) : State :=
  if s.notReachable hub then s.readFails o hub addr n
  else s.issueAccess { write := false, origin := o, hub := hub, face := face, addr := addr, count := n, lanes := lanes }

/-- A read by a path: judged for alignment (R34, R344), and refused while a reset of its face is in progress (R479). -/
def State.issuePathRead (s : State) (p : Path) (w : Width) (hub addr : Nat) : State :=
  let face := s.pathFace p
  if s.notReachable hub then s.emit (.accessError p (hub * 2 ^ 32 + addr))
  else if addr % widthBytes w ≠ 0 then
    (s.addressLeaf (refusedLeaf p) addr).emit (.accessError p (hub * 2 ^ 32 + addr))
  else if s.faceBusy face then s.emit (.accessError p (hub * 2 ^ 32 + addr))
  else
    let n := if widthBytes w = 8 then 2 else 1
    let lanes := if widthBytes w ≥ 4 then 0x0F else (2 ^ widthBytes w - 1) * 2 ^ (addr % 4)
    s.issueRead (.path p) face hub (addr / 4 * 4) n lanes

/-- Poll entry k issues its read (R356). -/
def State.pollIssue (s : State) (k hub : Nat) : State :=
  let s := s.setB F.BRG_POLL_STATUS_pending [k] true
  (s.issueRead (.poll k) 0 hub (s.rd .BRG_POLL_ADDR [k]) 1 0x0F).bridgeTurn false

/-! Responses and time-outs (R350, R354, R355). -/

/-- A word arrives for a poll entry: it is written to the remote-summary register (R356). -/
def State.pollAnswered (s : State) (k v : Nat) : State :=
  ((s.wr .CAUSE_REMOTE [k] v).setB F.BRG_POLL_STATUS_stale [k] false).setB F.BRG_POLL_STATUS_pending [k] false

/-- The words of an accepted response reach whoever waits (R350, R356, R357). -/
def State.readAnswered (s : State) (x : BridgeTag) (c : List Byte) : State :=
  let status := byteAt c 13
  match x.origin with
  | .poll k => if status = 0 then s.pollAnswered k (cellWord c 0) else s.pollFailed k
  | .path p =>
    (List.range x.count).foldl (fun s k =>
      let a := x.hub * 2 ^ 32 + x.addr + 4 * k
      if status > 1 ∨ natBit (beAt c 14 2) k then s.emit (.accessError p a) else s.emit (.readData p a (cellWord c k))) s

/-- A response arrives from hub `src` (R355): accepted only when its tag is in use and its hub and sequence match, and
discarded while a reset of the tag's face is in progress (R479). -/
def State.responseArrives (s : State) (src : Nat) (c : List Byte) : State :=
  let t := byteAt c 3
  let x := s.tagOf t
  if x.used && x.hub == src && x.seq == some (beAt c 4 2) && !s.faceBusy x.face then (s.readAnswered x c).freeTagOf t
  else s.inc F.BRG_CNT_A_late

/-- A read times out (R354): its path or poll entry receives its error, and its tag is freed. A read not yet enqueued is
never sent. -/
def State.readExpires (s : State) (t : Nat) : State :=
  let x := s.tagOf t
  if x.used then
    let s := { s with brg := { s.brg with offers := s.brg.offers.filter fun o => o.write || o.tag != t } }
    let s := ((s.inc F.BRG_CNT_A_timeouts).leaf (bridgeLeaf 2)).readFails x.origin x.hub x.addr x.count
    s.freeTagOf t
  else s

/-- The i-th read that waits for a tag times out (R354). -/
def State.waitExpires (s : State) (i : Nat) : State :=
  match (s.brg.waiting.filter fun o => !o.write)[i]? with
  | some o =>
    let s := { s with brg := { s.brg with waiting := s.brg.waiting.erase o } }
    let s := ((s.inc F.BRG_CNT_A_timeouts).leaf (bridgeLeaf 2)).readFails o.origin o.hub o.addr o.count
    s.admitWaiting.bridgeTurn false
  | none => s

/-- The i-th cell of the posted-write buffer has waited for a read time-out: it is discarded and recorded (R345). -/
def State.postedExpires (s : State) (i : Nat) : State :=
  match (s.brg.offers.filter (·.write))[i]? with
  | some o =>
    let s := { s with brg := { s.brg with offers := s.brg.offers.erase o } }
    ((s.accessRecord 4 o.hub false o.face o.addr).admitWaiting).bridgeTurn false
  | none => s

/-- POSTED_WRITE_OFFER (R345): the bridge's next hopper turn. -/
def execPostedWriteOffer (s : State) : Host.Outcome State Fault Refusal :=
  if s.down .hopper then .next s.clearOut else
  .next (s.clearOut.bridgeTurn true)

/-- POSTED_WRITE_TIMEOUT (R345). -/
def execPostedWriteTimeout (i : Nat) (s : State) : Host.Outcome State Fault Refusal :=
  if s.down .hopper then .next s.clearOut else
  .next (s.clearOut.postedExpires i)

/-- READ_TIMEOUT (R354) of a tag; 256 + i names the i-th read that waits for a tag. -/
def execReadTimeout (tag : Nat) (s : State) : Host.Outcome State Fault Refusal :=
  if s.down .hopper then .next s.clearOut else
  .next (if tag < 240 then s.clearOut.readExpires tag else if tag < 256 then s.clearOut else s.clearOut.waitExpires (tag - 256))

end Sys2Proof.Machine
end

