-- ==== Sys2Proof/Machine/Can.lean ====
section
/-! DEFINITION. The CAN channels: frames and the hopper, fault confinement, time reference messages, sleep and wake
(R423 to R438). What the spec leaves to a reading or a choice stands in log entries 32, 33 and 10. -/

namespace Sys2Proof

/-! Frames (R423, R426). -/

/-- Data bytes of a DLC; classical frames hold at most 8, remote frames none. -/
def dlcBytes (fdf : Bool) (dlc : Nat) : Nat :=
  if dlc ≤ 8 then dlc
  else if !fdf then 8
  else [12, 16, 20, 24, 32, 48, 64].getD (dlc - 9) 64

/-- Data bytes of a frame. -/
def CanFrame.count (f : CanFrame) : Nat := if f.rtr then 0 else dlcBytes f.fdf f.dlc

/-- A frame of a format the channel supports (R423), with as many data bytes as its DLC says. -/
def CanFrame.ok (f : CanFrame) : Bool :=
  !(f.rtr && f.fdf) && (f.fdf || !f.brs && !f.esi) && f.dlc < 16 && f.id < 2 ^ (if f.ide then 29 else 11)
    && f.data.length == f.count

/-- The identifier word of a record (R426). -/
def CanFrame.idWord (f : CanFrame) : Nat := Machine.b2n f.ide * 2 ^ 31 + Machine.b2n f.rtr * 2 ^ 30 + Machine.b2n f.fdf * 2 ^ 29 + f.id

/-- The arbitration field as a number: the lower one wins (ISO 11898-1). -/
def CanFrame.key (f : CanFrame) : Nat :=
  if f.ide then f.id / 2 ^ 18 * 2 ^ 21 + 3 * 2 ^ 19 + f.id % 2 ^ 18 * 2 + Machine.b2n f.rtr
  else f.id * 2 ^ 21 + Machine.b2n f.rtr * 2 ^ 20

end Sys2Proof

namespace Sys2Proof.Machine

/-- A channel, replaced, and changed. -/
def State.canOf (s : State) (n : Nat) : CanChannel := smGet s.can n {}
def State.setCan (s : State) (n : Nat) (x : CanChannel) : State := { s with can := smSet s.can n x {} }
def State.onCan (s : State) (n : Nat) (f : CanChannel → CanChannel) : State := s.setCan n (f (s.canOf n))

/-- CAN_STATUS.state. -/
def State.canState (s : State) (n : Nat) : Nat := s.get F.CAN_STATUS_state [n]

/-- CAN_STATUS as it reads: tx_fill counts the transmit buffer. -/
def State.canStatusWord (s : State) (n : Nat) : Nat := natSetBits (s.rd .CAN_STATUS [n]) 7 4 (s.canOf n).tx.length

/-- The channel takes part in the traffic of its bus: error-active, error-passive or in last call. -/
def State.canOnBus (s : State) (n : Nat) : Bool := s.canState n == 2 || s.canState n == 3 || s.canState n == 6

/-- The channel's error state by its counters (ISO 11898-1): error-passive from 128 on. -/
def State.canPassive (s : State) (n : Nat) : Bool :=
  s.get F.CAN_STATUS_tec [n] ≥ 128 || s.get F.CAN_STATUS_rec [n] ≥ 128

/-! Records (R425 to R429). -/

/-- The stamp of an instant `ago` units of hub time before now, in the domain of the channels (R375, R426). -/
def State.canStamp (s : State) (ago : Nat) : Stamp :=
  let dom := s.domOfConsumer .can
  { t := s.now dom - ago, dom := dom, valid := s.canTimeValid, traceable := s.traceable dom }

/-- The channel offers a record to the hopper; a refused one is counted and marks the next one sent (R427). -/
def State.canRecord (s : State) (n type : Nat) (x : Stamp) (payload : List Byte) : State :=
  let c := s.canOf n
  let cell := recordCell type (if c.error then flagError else 0) 0 c.seq x payload
  let s := s.onCan n fun c => { c with seq := (c.seq + 1) % 2 ^ 16 }
  match s.enqueue (.canChannel n)
      (queueNo (s.get F.CAN_RX_CFG_endpoint [n]) (s.get F.CAN_RX_CFG_class [n]) (s.get F.CAN_RX_CFG_dest [n])) cell with
  | (.accepted, s) => s.onCan n fun c => { c with error := false }
  | (_, s) => ((s.inc F.CAN_CNT_refused [n]).leaf (canLeaf n 3) n).onCan n fun c => { c with error := true }

/-- A transmit result (R429). -/
def State.canResult (s : State) (n code : Nat) (x : Stamp) (idWord : Nat) : State :=
  s.when (s.is F.CAN_RX_CFG_tx_report [n]) fun s => s.canRecord n 0xC3 x ([byte code, 0, 0, 0] ++ beBytes 4 idWord)

/-- Every transmit entry is discarded with one result (R430, R431). -/
def State.canDiscardAll (s : State) (n code : Nat) : State :=
  let es := (s.canOf n).tx
  let s := s.onCan n fun c => { c with tx := [] }
  s.each es fun s e => s.canResult n code (s.canStamp 0) e.idWord

/-- A change of state (R430): shown, and reported with state_report = 1. -/
def State.toCanState (s : State) (n st : Nat) : State :=
  if s.canState n = st then s
  else
    let s := s.set F.CAN_STATUS_state [n] st
    s.when (s.is F.CAN_RX_CFG_state_report [n]) fun s =>
      s.canRecord n 0xC4 (s.canStamp 0) [byte st, byte (s.get F.CAN_STATUS_tec [n]), byte (s.get F.CAN_STATUS_rec [n]), 0]

/-- The error state the counters give is shown, unless the channel is in last call. -/
def State.canShowErrors (s : State) (n : Nat) : State :=
  if s.canState n = 2 ∨ s.canState n = 3 then s.toCanState n (if s.canPassive n then 3 else 2) else s

/-- The counters take new values: entering error-passive sets its leaf (R430). -/
def State.canCounters (s : State) (n tec rec : Nat) : State :=
  let was := (s.canOf n).passive
  let s := (s.set F.CAN_STATUS_tec [n] (min tec 255)).set F.CAN_STATUS_rec [n] (min rec 255)
  let s := s.onCan n fun c => { c with passive := s.canPassive n }
  (s.when (!was && s.canPassive n) fun s => s.leaf (canLeaf n 1) n).canShowErrors n

/-! Sleep by agreement (R434, R435). -/

/-- The channel enters last call when all of R435 holds: one keep-alive with byte 0 = 0x00. -/
def State.canTryLastCall (s : State) (n : Nat) : State :=
  let c := s.canOf n
  if (s.canState n = 2 ∨ s.canState n = 3) ∧ s.is F.CAN_KA_CFG_agree [n] ∧ !s.is F.CAN_CTRL_want_awake [n] ∧ c.quiet
      ∧ c.tx = [] then
    (s.toCanState n 6).onCan n fun c => { c with keepAlive := some 0, lastCallOver := false }
  else s

/-- The error state of a channel awake: error-passive or error-active. -/
def State.canErrorState (s : State) (n : Nat) : Nat := if (s.canOf n).passive then 3 else 2

/-- The channel returns from last call to awake (R435). -/
def State.canReturnAwake (s : State) (n : Nat) : State :=
  if s.canState n = 6 then
    (s.toCanState n (s.canErrorState n)).onCan n fun c => { c with lastCallOver := false, keepAlive := none }
  else s

/-- The channel goes asleep when last call is over or sleep_now is asked for, its transmit buffer is empty and the bus is
idle (R434); the error count of wake frames starts at 0 (R437). A wake condition of this instant keeps it awake (R438). -/
def State.canTrySleep (s : State) (n : Nat) : State :=
  let c := s.canOf n
  if (s.canState n = 6 ∧ c.lastCallOver ∨ s.canOnBus n ∧ c.sleepAsked) ∧ c.tx = [] ∧ c.idle then
    if c.roused = some s.time.cycles then (s.canReturnAwake n).onCan n fun c => { c with sleepAsked := false }
    else
      let s := s.toCanState n 7
      let s := s.set F.CAN_WAKE_CFG_error_count [n] 0
      s.onCan n fun c => { c with reference := none, keepAlive := none, lastCallOver := false, sleepAsked := false, quiet := false,
                                  slept := some s.time.cycles }
  else s

/-- A wake condition (R436, R438): the channel wakes and integrates; one that arises at the bus idle at which it went asleep, or
is about to, keeps it awake. -/
def State.canWake (s : State) (n cause : Nat) : State :=
  if s.canState n = 7 then
    if (s.canOf n).slept = some s.time.cycles then s.toCanState n (s.canErrorState n)
    else
      let s := ((s.set F.CAN_STATUS_wake_cause [n] cause).inc F.CAN_CNT_wakes [n]).leaf (canLeaf n 2) n
      (s.toCanState n 1).onCan n fun c => { c with refValid := false, idle := false, quiet := false, passive := false }
  else s.when (s.canOnBus n) fun s => s.onCan n fun c => { c with roused := some s.time.cycles }

/-- want_awake changes: 1 wakes or keeps awake, 0 may let the last call begin (R435, R436). -/
def State.canWantAwake (s : State) (n : Nat) : State :=
  if s.is F.CAN_CTRL_want_awake [n] then (s.canWake n 4).canReturnAwake n else s.canTryLastCall n

/-- sleep_now is written (R434). -/
def State.canSleepNow (s : State) (n : Nat) : State :=
  if s.canState n = 0 ∨ s.canState n = 7 then s
  else (s.onCan n fun c => { c with sleepAsked := true, roused := none }).canTrySleep n

/-! Reception (R427). -/

/-- Filter k passes a frame. -/
def State.canFilterPasses (s : State) (n : Nat) (f : CanFrame) (k : Nat) : Bool :=
  s.is F.CAN_FILT_ID_valid [n, k] && s.is F.CAN_FILT_ID_ide [n, k] == f.ide
    && ((f.id ^^^ s.get F.CAN_FILT_ID_id [n, k]) &&& s.get F.CAN_FILT_MASK_mask [n, k]) == 0

/-- A valid received frame is delivered, or counted when no filter passes it (R426, R427). -/
def State.canDeliver (s : State) (n : Nat) (f : CanFrame) (x : Stamp) : State :=
  match (List.range 16).find? (s.canFilterPasses n f) with
  | some k =>
    s.canRecord n 0xC1 x (beBytes 4 f.idWord
      ++ [byte (b2n f.brs * 128 + b2n f.esi * 64 + f.dlc), byte f.count, byte k, 0] ++ f.data)
  | none => s.inc F.CAN_CNT_filtered [n]

/-- A received frame is a stay-awake (R435). -/
def State.canStayAwake (s : State) (n : Nat) (f : CanFrame) : Bool :=
  ((f.id ^^^ s.get F.CAN_KA_MATCH_id [n]) &&& s.get F.CAN_KA_MATCH_mask [n]) == 0 && f.dlc ≥ 1 && natBit (byteAt f.data 0) 0

/-- A received frame is a reference frame of a rank below the channel's own (R432, R433). -/
def State.canLowerReference (s : State) (n : Nat) (f : CanFrame) : Bool :=
  let base := s.get F.CAN_REF_CFG_base_id [n]
  !f.ide && !f.fdf && !f.rtr && f.dlc == 8 && base ≤ f.id && f.id < base + s.get F.CAN_REF_CFG_rank [n]

/-- Becoming master of the bus, or ceasing to be, sets the loss leaf (R433). -/
def State.canMaster (s : State) (n : Nat) (on : Bool) : State :=
  if s.is F.CAN_STATUS_ref_master [n] = on then s
  else
    ((s.setB F.CAN_STATUS_ref_master [n] on).leaf (canLeaf n 3) n).onCan n fun c =>
      { c with refValid := false, reference := none }

/-- The receive error counter after a valid frame (ISO 11898-1): one less, or from above 127 a value from 119 to 127. -/
def State.canReceivedOk (s : State) (n : Nat) : State :=
  let tec := s.get F.CAN_STATUS_tec [n]
  let rec0 := s.get F.CAN_STATUS_rec [n]
  if rec0 > 127 then
    let (v, s) := s.drawWord 32
    s.canCounters n tec (119 + v % 9)
  else s.canCounters n tec (rec0 - 1)

/-- The channel stops (R431): every transmit entry is discarded with result 0x05, and it is off. -/
def State.canStop (s : State) (n : Nat) : State :=
  let s := ((s.canDiscardAll n 5).canMaster n false).toCanState n 0
  (s.onCan n fun c => { c with reference := none, keepAlive := none, idle := false, quiet := false, lastCallOver := false,
                               sleepAsked := false, stopping := false, passive := false }).recovered (canLeaf n 0)

/-- A frame has ended: a stop that waited for it takes effect (R431). -/
def State.canFrameEnd (s : State) (n : Nat) : State := if (s.canOf n).stopping then s.canStop n else s

/-- CAN_FRAME_RECEIVED (R427): a frame valid under ISO 11898-1, whose start of frame fell `ago` units of hub time ago. -/
def execCanFrameReceived (n ago : Nat) (f : CanFrame) (s : State) : Host.Outcome State Fault Refusal :=
  if s.down .can then .next s.clearOut else
  let s := s.clearOut
  if s.canOnBus n ∧ f.ok ∧ (!f.fdf || s.is F.CAN_CTRL_fd_enable [n]) then
    let s := s.onCan n fun c => { c with idle := false }
    let s := s.canReceivedOk n
    let s := s.canDeliver n f (s.canStamp ago)
    let s := s.when (s.canStayAwake n f) fun s => (s.onCan n fun c => { c with quiet := false }).canReturnAwake n
    .next ((s.when (s.is F.CAN_STATUS_ref_master [n] && s.canLowerReference n f) fun s => s.canMaster n false).canFrameEnd n)
  else .next s

/-! Transmission (R428, R429). -/

/-- The frame a command asks for, when its length, DLC, reserved bits and flags agree with one another (R426, R428). -/
def State.canCommandFrame (s : State) (n : Nat) (cell : List Byte) : Option CanFrame :=
  let w := beAt cell 16 4
  let b4 := byteAt cell 20
  let len := byteAt cell 3
  let f : CanFrame := {
    ide := natBit w 31
    rtr := natBit w 30
    fdf := natBit w 29
    brs := natBit b4 7
    esi := natBit b4 6
    id := natBits w 28 0
    dlc := natBits b4 3 0
    data := slice cell 24 (len - 8) }
  if byteAt cell 0 = 0xC2 ∧ byteAt cell 1 &&& 131 = 0 ∧ beAt cell 4 2 = 0 ∧ byteAt cell 2 = 0 ∧ 8 ≤ len ∧ len ≤ 72 ∧ natBits b4 5 4 = 0
      ∧ byteAt cell 21 = len - 8 ∧ natBits (byteAt cell 22) 7 1 = 0 ∧ byteAt cell 23 = 0
      ∧ natBits (beAt cell 12 4) 29 0 < 1000000000 ∧ f.ok ∧ (!f.fdf || s.is F.CAN_CTRL_fd_enable [n]) then
    some f
  else none

/-- A command record is taken into the transmit buffer, or discarded with its result (R428 to R430); its arrival ends a last
call (R435). -/
def State.canTakeCommand (s : State) (n : Nat) (cell : List Byte) : State :=
  let s := s.canReturnAwake n
  let idWord := beAt cell 16 4
  let now := s.now (s.domOfConsumer .can)
  let t := beAt cell 6 6 * unitsPerSec + natBits (beAt cell 12 4) 29 0 * unitsPerNs + natBits (beAt cell 12 4) 31 30 * quarterUnits
  match s.canCommandFrame n cell with
  | none => s.canResult n 3 (s.canStamp 0) idWord
  | some f =>
    if t ≠ 0 ∧ (t < now ∨ now + 10 * unitsPerSec < t) then s.canResult n 4 (s.canStamp 0) idWord
    else if s.is F.CAN_CTRL_fc_class [n] ∧ (s.canState n = 4 ∨ s.canState n = 5) then s.canResult n 1 (s.canStamp 0) idWord
    else
      let e : CanEntry := { frame := f, oneShot := natBit (byteAt cell 22) 0, t := t, due := t == 0, idWord := idWord }
      s.onCan n fun c => { c with tx := c.tx ++ [e] }

/-- A class of the endpoint's intake queues has a cell to give, or the guarded buffer has. -/
def State.canCellWaits (s : State) (n c : Nat) : Bool :=
  let e := s.get F.CAN_RX_CFG_endpoint [n]
  (s.peekIntake e c).isSome || s.guardedWaits e

/-- CAN_TRANSMIT_COMMAND (R425, R428): the channel takes a cell of class c of its endpoint, when no higher class has one
and an entry is free. -/
def execCanTransmitCommand (n c : Nat) (s : State) : Host.Outcome State Fault Refusal :=
  if s.down .can then .next s.clearOut else
  let s := s.clearOut
  if s.canState n ≠ 0 ∧ s.canState n ≠ 7 ∧ (s.canOf n).tx.length < 8 ∧ s.canCellWaits n c
      ∧ ((List.range 16).filter fun k => c < k).all (fun k => (s.peekIntake (s.get F.CAN_RX_CFG_endpoint [n]) k).isNone) then
    match s.dequeue (.canChannel n) (s.get F.CAN_RX_CFG_endpoint [n]) c with
    | (some x, s) => .next (s.canTakeCommand n x.bytes)
    | (none, s) => .next s
  else .next s

/-- CAN_COMMAND_DUE (R428): entry i becomes eligible once its hub time has come. -/
def execCanCommandDue (n i : Nat) (s : State) : Host.Outcome State Fault Refusal :=
  if s.down .can then .next s.clearOut else
  let s := s.clearOut
  match (s.canOf n).tx[i]? with
  | some e =>
    if e.t ≤ s.now (s.domOfConsumer .can) then .next (s.onCan n fun c => { c with tx := c.tx.set i { e with due := true } })
    else .next s
  | none => .next s

/-- What the channel offers to the bus. -/
inductive CanOffer where
  | reference (f : CanFrame)
  | keepAlive (f : CanFrame)
  | entry (i : Nat) (e : CanEntry)
  deriving DecidableEq, Repr

/-- The frame of an offer. -/
def CanOffer.frame : CanOffer → CanFrame
  | .reference f => f
  | .keepAlive f => f
  | .entry _ e => e.frame

/-- The channel's keep-alive with a byte 0 (R435). -/
def State.keepAliveFrame (s : State) (n v : Nat) : CanFrame := { id := s.get F.CAN_KA_CFG_own_id [n], dlc := 1, data := [byte v] }

/-- The better of two offers: the one that wins arbitration, and the earlier one between equals. -/
def betterOffer : Option CanOffer → CanOffer → Option CanOffer
  | none, o => some o
  | some b, o => if o.frame.key < b.frame.key then some o else some b

/-- What the channel offers now (R428, R433): its reference frame ahead of everything, else the frame that would win
arbitration among the eligible entries and a waiting keep-alive. -/
def State.canOffer (s : State) (n : Nat) : Option CanOffer :=
  let c := s.canOf n
  match c.reference with
  | some f => some (.reference f)
  | none =>
    let es := ((List.range c.tx.length).zip c.tx).filterMap fun (i, e) => if e.due then some (CanOffer.entry i e) else none
    let ks := match c.keepAlive with
      | some v => [CanOffer.keepAlive (s.keepAliveFrame n v)]
      | none => []
    (es ++ ks).foldl betterOffer none

/-- An offered frame has been sent (R429, R432). -/
def State.canSent (s : State) (n ago : Nat) (o : CanOffer) : State :=
  let x := s.canStamp ago
  let s := s.emit (.canFrame n o.frame)
  let s := s.canCounters n (s.get F.CAN_STATUS_tec [n] - 1) (s.get F.CAN_STATUS_rec [n])
  match o with
  | .reference _ => s.onCan n fun c =>
      { c with reference := none, refSeq := (c.refSeq + 1) % 16, refStamp := some x, refValid := true }
  | .keepAlive _ => s.onCan n fun c => { c with keepAlive := none }
  | .entry i e => ((s.onCan n fun c => { c with tx := c.tx.eraseIdx i }).canResult n 0 x e.idWord).canTryLastCall n

/-- An attempt has failed, through arbitration or through an error (R428, R433). -/
def State.canFailed (s : State) (n : Nat) (o : CanOffer) : State :=
  match o with
  | .reference _ => s.onCan n fun c => { c with reference := none, refValid := false }
  | .keepAlive _ => s
  | .entry i e =>
    if e.oneShot then
      ((s.onCan n fun c => { c with tx := c.tx.eraseIdx i }).canResult n 2 (s.canStamp 0) e.idWord).canTryLastCall n
    else s

/-- CAN_TRANSMIT_END (R428, R429): the attempt with the frame offered ends; its start of frame fell `ago` units ago. -/
def execCanTransmitEnd (n ago : Nat) (r : CanTxEnd) (s : State) : Host.Outcome State Fault Refusal :=
  if s.down .can then .next s.clearOut else
  let s := s.clearOut
  if s.canOnBus n ∧ !s.is F.CAN_CTRL_listen_only [n] then
    match s.canOffer n with
    | some o =>
      let s := s.onCan n fun c => { c with idle := false }
      .next ((if r = .sent then s.canSent n ago o else s.canFailed n o).canFrameEnd n)
    | none => .next s
  else .next s

/-! Fault confinement (R430) and enable (R431). -/

/-- The channel begins its recovery from bus-off (R430). -/
def State.canRecoverBegin (s : State) (n : Nat) : State :=
  let s := s.toCanState n 5
  s.when (s.leafSet (canLeaf n 0)) fun s => s.setB F.CAUSE_REC_recovering [canLeaf n 0] true

/-- The channel enters bus-off (R430). -/
def State.canBusOff (s : State) (n : Nat) : State :=
  let s := ((s.toCanState n 4).inc F.CAN_CNT_bus_off [n]).leaf (canLeaf n 0) n
  let s := s.onCan n fun c => { c with reference := none, refValid := false, idle := false, lastCallOver := false }
  if s.is F.CAN_CTRL_fc_class [n] then s.canDiscardAll n 1 else s.canRecoverBegin n

/-- CAN_BUS_ERROR (R430): a bus error leaves the counters at new values; a transmit counter above 255 is bus-off. -/
def execCanBusError (n tec rec : Nat) (s : State) : Host.Outcome State Fault Refusal :=
  if s.down .can then .next s.clearOut else
  let s := s.clearOut
  if s.canOnBus n then
    let s := (s.onCan n fun c => { c with idle := false }).canCounters n tec rec
    .next ((if tec > 255 then s.canBusOff n else s).canFrameEnd n)
  else .next s

/-- recover is written (R430): ignored in any state other than bus-off, and in class 0, which recovers by itself. -/
def State.canRecover (s : State) (n : Nat) : State :=
  if s.canState n = 4 then s.canRecoverBegin n else s

/-- BUS_OFF_RECOVERY_END (R430). -/
def execBusOffRecoveryEnd (n : Nat) (s : State) : Host.Outcome State Fault Refusal :=
  if s.down .can then .next s.clearOut else
  let s := s.clearOut
  if s.canState n = 5 then .next (((s.canCounters n 0 0).toCanState n 2).recovered (canLeaf n 0)) else .next s

/-- enable is written 1 (R431): a channel that is off starts integrating; an asleep one wakes (R436); a stop that still waits for
the end of a frame is taken back. -/
def State.canEnable (s : State) (n : Nat) : State :=
  if s.canState n = 0 then ((s.set F.CAN_STATUS_tec [n] 0).set F.CAN_STATUS_rec [n] 0).toCanState n 1
  else (s.when (s.canOf n).stopping fun s => s.onCan n fun c => { c with stopping := false }).canWake n 4

/-- A frame is in progress at a channel (R431): it takes part in the bus, and has seen traffic since the bus was last idle, or has
a frame to send on the idle bus. -/
def State.canFrameInProgress (s : State) (n : Nat) : Bool :=
  s.canOnBus n && (!(s.canOf n).idle || (!s.is F.CAN_CTRL_listen_only [n] && (s.canOffer n).isSome))

/-- enable is written 0 (R431): the channel stops at once, or at the end of the frame in progress. -/
def State.canDisable (s : State) (n : Nat) : State :=
  if s.canState n = 0 then s
  else if s.canFrameInProgress n then s.onCan n fun c => { c with stopping := true }
  else s.canStop n

/-- BUS_IDLE_DETECTED (R431, R434, R438): 11 consecutive recessive bits. -/
def execBusIdleDetected (n : Nat) (s : State) : Host.Outcome State Fault Refusal :=
  if s.down .can then .next s.clearOut else
  let s := s.clearOut
  if s.canState n = 0 ∨ s.canState n = 7 then .next s
  else if (s.canOf n).stopping then .next (s.canStop n)
  else
    let s := s.onCan n fun c => { c with idle := true }
    let s := if s.canState n = 1 then s.toCanState n 2 else s
    .next ((s.canTryLastCall n).canTrySleep n)

/-! Time reference messages (R432, R433). -/

/-- The reference frame of now (R432). -/
def State.referenceFrame (s : State) (n : Nat) : CanFrame × State :=
  let c := s.canOf n
  let r := s.get F.CAN_REF_CFG_rank [n]
  let dom := s.domOfConsumer .can
  let (sec, ns, s) := match c.refStamp with
    | some x => (secOf (stampTime x) % 2 ^ 16, nsOf (stampTime x), s)
    | none =>
      let (a, s) := s.drawWord 16
      let (b, s) := s.drawWord 30
      (a, b, s)
  let b1 := b2n (s.traceable dom) * 128 + b2n c.refValid * 64 + domBit dom * 32
  ({ id := s.get F.CAN_REF_CFG_base_id [n] + r, dlc := 8,
     data := [byte (r * 16 + c.refSeq), byte b1] ++ beBytes 2 sec ++ beBytes 4 ns }, s)

/-- CAN_REFERENCE_FRAME_SEND (R433): an instant of the period has come. -/
def execCanReferenceFrameSend (n : Nat) (s : State) : Host.Outcome State Fault Refusal :=
  if s.down .can then .next s.clearOut else
  let s := s.clearOut
  if s.is F.CAN_REF_CFG_enable [n] ∧ s.is F.CAN_STATUS_ref_master [n] ∧ s.canOnBus n then
    let (f, s) := s.referenceFrame n
    .next (s.onCan n fun c => { c with reference := some f })
  else .next s

/-- CAN_REF_MASTER_TIMEOUT (R433): no reference frame of a lower rank for 2 + r periods. -/
def execCanRefMasterTimeout (n : Nat) (s : State) : Host.Outcome State Fault Refusal :=
  if s.down .can then .next s.clearOut else
  let s := s.clearOut
  .next (s.when (s.is F.CAN_REF_CFG_enable [n] && s.canState n != 0) fun s => s.canMaster n true)

/-! Sleep and wake (R434 to R438). -/

/-- KEEP_ALIVE_SEND (R435): a keep-alive period has passed. -/
def execKeepAliveSend (n : Nat) (s : State) : Host.Outcome State Fault Refusal :=
  if s.down .can then .next s.clearOut else
  let s := s.clearOut
  if s.is F.CAN_KA_CFG_agree [n] ∧ s.is F.CAN_CTRL_want_awake [n] ∧ s.canOnBus n then
    .next (s.onCan n fun c => { c with keepAlive := some 1 })
  else .next s

/-- LAST_CALL_TIMEOUT (R435): no stay-awake has arrived for timeout_periods × period_ms. -/
def execLastCallTimeout (n : Nat) (s : State) : Host.Outcome State Fault Refusal :=
  if s.down .can then .next s.clearOut else
  let s := s.clearOut
  .next (s.when (s.canOnBus n) fun s => (s.onCan n fun c => { c with quiet := true }).canTryLastCall n)

/-- SLEEP_ENTRY (R434, R435): one period_ms has passed since the channel entered last call, or a sleep asked for waits. -/
def execSleepEntry (n : Nat) (s : State) : Host.Outcome State Fault Refusal :=
  if s.down .can then .next s.clearOut else
  let s := s.clearOut
  let s := s.when (s.canState n == 6) fun s => s.onCan n fun c => { c with lastCallOver := true }
  .next (s.canTrySleep n)

/-- WAKE_DOMINANT (R436): a dominant level of so many tenths of a microsecond at CANn_RX. -/
def execWakeDominant (n tenths : Nat) (s : State) : Host.Outcome State Fault Refusal :=
  if s.down .can then .next s.clearOut else
  let s := s.clearOut
  .next (s.when (!s.is F.CAN_RX_CFG_wake_frame [n] && s.get F.CAN_WAKE_CFG_dom_filter [n] ≤ tenths) fun s => s.canWake n 1)

/-- The data of a frame have a bit in common with the mask of R437. -/
def State.wakeDataOk (s : State) (n : Nat) (f : CanFrame) : Bool :=
  f.dlc == s.get F.CAN_WAKE_CFG_dlc [n]
    && ((leAt f.data 0 4 &&& s.rd .CAN_WAKE_DMASK_LO [n]) != 0 || (leAt f.data 4 4 &&& s.rd .CAN_WAKE_DMASK_HI [n]) != 0)

/-- A frame is a wake frame (R437). -/
def State.isWakeFrame (s : State) (n : Nat) (f : CanFrame) : Bool :=
  !f.fdf && f.ok && f.ide == s.is F.CAN_WAKE_CFG_ide [n]
    && ((f.id ^^^ s.get F.CAN_WAKE_ID_id [n]) &&& s.get F.CAN_WAKE_IDMASK_mask [n]) == 0
    && (!s.is F.CAN_WAKE_CFG_data_check [n] || s.wakeDataOk n f)

/-- A frame with an error raises the error count, and at 32 with fallback = 1 the channel wakes (R436, R437). -/
def State.wakeError (s : State) (n : Nat) : State :=
  let k := min (s.get F.CAN_WAKE_CFG_error_count [n] + 1) 32
  let s := s.set F.CAN_WAKE_CFG_error_count [n] k
  s.when (k == 32 && s.is F.CAN_WAKE_CFG_fallback [n]) fun s => s.canWake n 3

/-- WAKE_FRAME (R437): the asleep channel judges what its decoder saw. -/
def execWakeFrame (n ago : Nat) (x : CanSeen) (s : State) : Host.Outcome State Fault Refusal :=
  if s.down .can then .next s.clearOut else
  let s := s.clearOut
  if s.canState n = 7 ∧ s.is F.CAN_RX_CFG_wake_frame [n] then
    match x with
    | .damaged => .next (s.wakeError n)
    | .frame f =>
      if f.fdf then .next (if s.is F.CAN_CTRL_fd_enable [n] then s else s.wakeError n)
      else
        let x := s.canStamp ago
        let t := s.set F.CAN_WAKE_CFG_error_count [n] (s.get F.CAN_WAKE_CFG_error_count [n] - 1)
        .next (if s.isWakeFrame n f then (t.canWake n 2).canDeliver n f x else t)
  else .next s

/-- LOCAL_WAKE (R436): want_awake or enable has been written 1, or a cell has arrived in an intake queue of the endpoint. -/
def execLocalWake (n : Nat) (s : State) : Host.Outcome State Fault Refusal :=
  if s.down .can then .next s.clearOut else
  .next ((s.clearOut.canWake n 4).canReturnAwake n)

end Sys2Proof.Machine
end

