-- ==== Sys2Proof/Machine/Face.lean ====
section
/-! DEFINITION. The reset of a face: its begin, and its completion (R478 to R482). What the spec leaves to a reading or
a choice stands in log entry 37. -/

namespace Sys2Proof.Machine

/-- A face reset is refused (R478). -/
def State.faceResetRefused (s : State) (f : Nat) : Bool := f == 0 || 16 ≤ f || s.faceBusy f

/-- Queues of a face that hold cells. -/
def State.faceQueues (s : State) (f : Nat) : List Nat :=
  (s.hop.queues.map (·.1)).filter fun q => s.epFace (queueEp q) == f && !(s.queue q).cells.isEmpty

/-- One queue is flushed (R479, step 4): its cells return to the pool. -/
def State.flushQueue (s : State) (q : Nat) : State :=
  let n := (s.queue q).cells.length
  let s := s.setQueue q { s.queue q with cells := [] }
  let s := { s with hop := { s.hop with order := s.hop.order.erase q } }
  s.add F.FACE_RESET_CNT_flushed [] n

/-- Command windows of a face in state sent time out (R479, step 3). -/
def State.faceWindows (s : State) (f : Nat) : State :=
  s.each ((List.range 16).filter fun w => s.get F.GRD_WIN_CTRL_face [w] == f && s.get F.GRD_WIN_CTRL_state [w] == 2)
    fun s w => (s.set F.GRD_WIN_CTRL_state [w] 4).leaf (guardLeaf 3) w

/-- A reset of face f begins (R479): intake stops with the busy bit, its sent windows time out, and its queues are
flushed. -/
def State.faceResetBegin (s : State) (f : Nat) : State :=
  let s := s.setBitOf F.FACE_RESET_STATUS_busy [] f true
  let s := s.faceWindows f
  s.each (s.faceQueues f) fun s q => s.flushQueue q

/-- A tag of a read of face f is not yet freed (R479, steps 3 and 6). -/
def State.faceReads (s : State) (f : Nat) : Bool := (List.range 240).any fun t => (s.tagOf t).used && (s.tagOf t).face == f

/-- FACE_RESET_COMPLETE (R479, step 6): the flush is done and the last tag of the face is freed; its intake resumes, and with it the
reads that wait for a tag. -/
def execFaceResetComplete (f : Nat) (s : State) : Host.Outcome State Fault Refusal :=
  if s.down .hopper then .next s.clearOut else
  let s := s.clearOut
  if s.faceBusy f ∧ !s.faceReads f then
    let s := (s.setBitOf F.FACE_RESET_STATUS_busy [] f false).setBitOf F.FACE_RESET_STATUS_done [] f true
    .next (((s.inc F.FACE_RESET_CNT_resets).leaf (guardLeaf 5) f).admitWaiting.bridgeTurn false)
  else .next s

end Sys2Proof.Machine
end

