-- ==== Sys2Proof/Machine/Map.lean ====
section
/-! DEFINITION. The local map read the other way: from an address to the register that holds it, and the face of every
register (R4, R5, R30, R32, R473, R474). What the spec leaves to a reading or a choice stands in log entry 37. -/

namespace Sys2Proof.Machine

/-- The index list of an offset among a register's index ranges; none when the offset names no copy of it. -/
def dimIndex : List (Nat × Nat) → Nat → Option (List Nat)
  | [], off => if off = 0 then some [] else none
  | (count, stride) :: ds, off =>
    if off / stride < count then (dimIndex ds (off % stride)).map fun is => off / stride :: is else none

/-- The copy of a register at an address. -/
def Reg.indexAt (r : Reg) (addr : Nat) : Option (List Nat) :=
  if r.desc.base ≤ addr then dimIndex r.desc.dims (addr - r.desc.base) else none

/-- The registers of the block an address lies in (R30, R32). -/
def blockRegs (addr : Nat) : List Reg :=
  if 0x01000000 ≤ addr ∧ addr < 0x02000000 then Reg.inBlock true (addr % 0x100000 / 0x10000)
  else Reg.inBlock false (addr / 0x10000)

/-- The register or memory word at a word address; none is a hole. SLOT_TABLE entries beyond the slots of a direction are
holes (R140). -/
def State.regAt (s : State) (addr : Nat) : Option (Reg × List Nat) :=
  match (blockRegs addr).findSome? fun r => (r.indexAt addr).map fun ix => (r, ix) with
  | some (Reg.SLOT_TABLE, ix) => if ix.getD 1 0 < s.slotsPerDir then some (Reg.SLOT_TABLE, ix) else none
  | x => x

/-! Faces (R473, R474). -/

/-- The face of an instance: of its endpoint, when its descriptor is in use. -/
def State.portFace (s : State) (b k : Nat) : Nat :=
  if s.descInUse b k ∧ s.descEndpointValid b k then s.epFace (s.descEndpoint b k) else 0

/-- The face of a sett: of the instance whose setts include it (R5). -/
def State.settFace (s : State) (b t : Nat) : Nat :=
  match (List.range 64).find? fun k => s.descInUse b k && s.descQuad b k == t / 4 && natBit (s.descSetts b k) (t % 4) with
  | some k => s.portFace b k
  | none => 0

/-- The faces of a dresser group, channel and comparator: of the group's endpoint; 0 outside every group. -/
def State.groupFace (s : State) (b g : Nat) : Nat := s.epFace (s.get F.DRS_GROUP_CFG_endpoint [b, g])
def State.channelFace (s : State) (b c : Nat) : Nat :=
  if s.is F.DRS_CH_CFG_member [b, c] then s.groupFace b (s.get F.DRS_CH_CFG_group [b, c]) else 0
def State.comparatorFace (s : State) (b m : Nat) : Nat := s.channelFace b (s.get F.DRS_CMP_CFG_channel [b, m])

/-- The face of a host ring: of the first endpoint assigned to it. -/
def State.ringFace (s : State) (r : Nat) : Nat :=
  match (List.range 1024).find? fun e => s.assignedTo (.hostRing r) e with
  | some e => s.epFace e
  | none => 0

/-- The leaf whose hole address an entry of CAUSE_HOLE_ADDR holds (R37). -/
def holeAddrLeaf (k : Nat) : Nat := if k < 16 then benchLeaf k 13 else [816, 817, 753, 585].getD (k - 16) 816

/-- The face that owns one copy of a register (R473, R474). -/
def State.regFace (s : State) (r : Reg) (ix : List Nat) : Nat :=
  let i := ix.getD 0 0
  let j := ix.getD 1 0
  if !r.desc.perResource then 0
  else match r with
    | .SLOT_TABLE => smGet s.ring.slotFaces (i * 512 + j) 0
    | .SHOT_FW_DRIVE => s.get F.SHOT_LINE_CFG_face [i]
    | .SHOT_LINE_CFG => s.get F.SHOT_LINE_CFG_face [i]
    | .BNCH_PORT_STAT => s.portFace i j
    | .BNCH_PORT_CNT => s.portFace i j
    | .DRS_GROUP_CFG => s.groupFace i j
    | .DRS_CH_CFG => s.channelFace i j
    | .DRS_CH_GAIN => s.channelFace i j
    | .DRS_CH_OFFSET => s.channelFace i j
    | .DRS_CH_RESULT => s.channelFace i j
    | .DRS_CH_RAW => s.channelFace i j
    | .DRS_CH_FLAGS => s.channelFace i j
    | .DRS_CMP_CFG => s.comparatorFace i j
    | .DRS_CMP_LIMIT => s.comparatorFace i j
    | .DRS_CMP_RELEASE => s.comparatorFace i j
    | .DRS_CMP_STATUS => s.comparatorFace i j
    | .HOP_HRING_BASE_LO => s.ringFace i
    | .HOP_HRING_BASE_HI => s.ringFace i
    | .HOP_HRING_CFG => s.ringFace i
    | .HOP_HRING_TAIL => s.ringFace i
    | .HOP_HRING_HEAD => s.ringFace i
    | .HOP_EP_CFG => s.epFace i
    | .HOP_LIMIT => s.epFace i
    | .HOP_HELD => s.epFace i
    | .HOP_INTAKE => s.epFace (s.get F.HOP_INTAKE_endpoint [i, j])
    | .TWIN_GUARD => s.epFace (s.get F.TWIN_GUARD_endpoint [i])
    | .TWIN_GUARD_CNT => s.epFace (s.get F.TWIN_GUARD_endpoint [i])
    | .GRD_WIN_CTRL => s.get F.GRD_WIN_CTRL_face [i]
    | .GRD_WIN_CMD => s.get F.GRD_WIN_CTRL_face [i]
    | .GRD_WIN_RESP => s.get F.GRD_WIN_CTRL_face [i]
    | .GRD_KEY_CFG => s.get F.GRD_KEY_CFG_face [i]
    | .GRD_KEY_CTR_LO => s.get F.GRD_KEY_CFG_face [i]
    | .GRD_KEY_CTR_HI => s.get F.GRD_KEY_CFG_face [i]
    | .GRD_RANGE => s.get F.GRD_RANGE_face [i]
    | .CAUSE_REC => s.leafFace i
    | .CAUSE_HOLE_ADDR => s.leafFace (holeAddrLeaf i)
    | .HOP_QSTATE => s.epFace (queueEp i)
    | .HOP_CELL => match s.queueOfCell i with | some q => s.epFace (queueEp q) | none => 0
    | _ =>
      if r.desc.island = .can then s.epFace (s.get F.CAN_RX_CFG_endpoint [i])
      else if r.desc.island = .bench then s.settFace i j
      else 0

/-- The guarded range an address lies in (R456). -/
def State.guardedRange (s : State) (addr : Nat) : Option Nat :=
  (List.range 8).find? fun k =>
    let base := s.get F.GRD_RANGE_base [k] * 4096
    base ≤ addr && addr < base + s.get F.GRD_RANGE_pages [k] * 4096

end Sys2Proof.Machine
end

