-- ==== Sys2Proof/Machine/Guarded.lean ====
section
/-! DEFINITION. Guarded commands and keys: issuing, the check, the counters, the responses, and the commands whose
effect stays within the engine: operate, claim override, key management and face reset (R456 to R472). What the spec
leaves to a reading or a choice stands in log entries 35 and 36. -/

namespace Sys2Proof.Machine

/-! Key slots (R465, R469 to R472). -/

/-- A key slot. -/
def State.keySlot (s : State) (k : Nat) : KeySlot := smGet s.grd.keys k {}
def State.setKeySlot (s : State) (k : Nat) (x : KeySlot) : State := { s with grd := { s.grd with keys := smSet s.grd.keys k x {} } }

/-- State and generation of a slot, and its highest accepted counter H. -/
def State.keyState (s : State) (k : Nat) : Nat := s.get F.GRD_KEY_CFG_state [k]
def State.keyGeneration (s : State) (k : Nat) : Nat := s.get F.GRD_KEY_CFG_generation [k]
def State.keyCounter (s : State) (k : Nat) : Nat := s.rd .GRD_KEY_CTR_HI [k] * 2 ^ 32 + s.rd .GRD_KEY_CTR_LO [k]
def State.setKeyCounter (s : State) (k h : Nat) : State :=
  (s.wr .GRD_KEY_CTR_LO [k] (h % 2 ^ 32)).wr .GRD_KEY_CTR_HI [k] (h / 2 ^ 32 % 2 ^ 32)

/-- A counter has been accepted within the window of 64; a counter lies below the window (R465). -/
def State.counterSeen (s : State) (k c : Nat) : Bool :=
  let h := s.keyCounter k
  c ≤ h && h < c + 64 && natBit (s.keySlot k).seen (h - c)
def State.counterOld (s : State) (k c : Nat) : Bool := c + 63 < s.keyCounter k

/-- The record of a slot falls due for the key store (R472), under the crypto bulk permit. -/
def State.keyStoreDue (s : State) (k : Nat) : State :=
  (s.setKeySlot k { s.keySlot k with due := true }).permitAsk .crypto k

/-- A counter is accepted (R465); H passing a multiple of 65,536 makes the record due (R472). -/
def State.acceptCounter (s : State) (k c : Nat) : State :=
  let h := s.keyCounter k
  let x := s.keySlot k
  if c > h then
    let seen := if c < h + 64 then (x.seen * 2 ^ (c - h) + 1) % 2 ^ 64 else 1
    let s := (s.setKeyCounter k c).setKeySlot k { x with seen := seen }
    s.when (h / 65536 < c / 65536) fun s => s.keyStoreDue k
  else s.setKeySlot k { x with seen := natSetBit x.seen (h - c) true }

/-- A key is written to a slot (R471): the next generation, state loaded, H = 0 and an empty counter record. -/
def State.keyWrite (s : State) (k key : Nat) : State :=
  let s := (s.set F.GRD_KEY_CFG_generation [k] (s.keyGeneration k + 1)).set F.GRD_KEY_CFG_state [k] 1
  ((s.setKeyCounter k 0).setKeySlot k { key := key }).keyStoreDue k

/-- A slot is erased (R471). -/
def State.keyEraseSlot (s : State) (k : Nat) : State :=
  let s := (s.set F.GRD_KEY_CFG_generation [k] (s.keyGeneration k + 1)).set F.GRD_KEY_CFG_state [k] 2
  (s.setKeySlot k { s.keySlot k with key := 0 }).keyStoreDue k

/-! The key store in flash (R470, R472, R511): two copies of 4 KiB, a record of 128 bytes for each slot in each. What a record looks
like is a DESIGN CHOICE (log entry 36): its sequence, state, generation, face and types, the saved counter, the key wrapped
under the device key, and a CRC. -/

/-- Where the record of slot k stands in a copy. -/
def State.storeAddr (s : State) (copy k : Nat) : Nat := s.chip.boot.keyStore + 0x1000 * copy + 128 * k

/-- A record of the key store, and whether it is complete (R472). -/
def State.storeBytes (s : State) (copy k : Nat) : List Byte := s.flashAt (s.storeAddr copy k) 44
def storeOk (r : List Byte) : Bool := (byteAt r 4 == 1 || byteAt r 4 == 2) && leAt r 40 4 == crc32 (r.take 40)

/-- Fields of a record of the key store. -/
def storeSequence (r : List Byte) : Nat := leAt r 0 4
def storeCounter (r : List Byte) : Nat := leAt r 8 8
def storeWrapped (r : List Byte) : List Byte := slice r 16 24

/-- The current copy of a slot's record, and the record: the complete one with the higher sequence. -/
def State.storeCurrent (s : State) (k : Nat) : Option (Nat × List Byte) :=
  let r0 := s.storeBytes 0 k
  let r1 := s.storeBytes 1 k
  match storeOk r0, storeOk r1 with
  | true, true => if storeSequence r0 < storeSequence r1 then some (1, r1) else some (0, r0)
  | true, false => some (0, r0)
  | false, true => some (1, r1)
  | false, false => none

/-- The record of a slot as it goes to the key store, with a sequence. -/
def State.storeRecord (s : State) (k sequence : Nat) : List Byte :=
  let head := leBytes 4 sequence
    ++ [byte (s.keyState k), byte (s.keyGeneration k), byte (s.get F.GRD_KEY_CFG_face [k]), byte (s.get F.GRD_KEY_CFG_types [k])]
    ++ leBytes 8 (s.keyCounter k) ++ kwWrap s.grd.deviceKey (s.keySlot k).key
  head ++ leBytes 4 (crc32 head)

/-- The record of a slot is written to the alternate copy, which is then current (R472). -/
def State.storeWrite (s : State) (k : Nat) : State :=
  let (copy, sequence) := match s.storeCurrent k with | some (c, r) => (1 - c, storeSequence r + 1) | none => (0, 1)
  s.setFlash (flashPut s.chip.flash (s.storeAddr copy k) (s.storeRecord k sequence))

/-- KEY_STORE_WRITE (R472): a due record is written to the alternate copy, which becomes current, and the permit returns. -/
def execKeyStoreWrite (k : Nat) (s : State) : Host.Outcome State Fault Refusal :=
  if s.down .hopper then .next s.clearOut else
  let s := s.clearOut
  let x := s.keySlot k
  if k < 32 ∧ x.due ∧ s.permitHeld .crypto k then
    let s := (s.storeWrite k).setKeySlot k { x with due := false, waiting := false }
    .next ((s.permitGive .crypto k).leaf (guardLeaf 4) k)
  else .next s

/-! Records (R457, R458). -/

/-- Fields of the header. -/
def recType (r : List Byte) : Nat := byteAt r 1
def recTarget (r : List Byte) : Nat := byteAt r 2
def recIssuer (r : List Byte) : Nat := byteAt r 3
def recSlot (r : List Byte) : Nat := byteAt r 4
def recGeneration (r : List Byte) : Nat := byteAt r 5
def recCounter (r : List Byte) : Nat := beAt r 8 8

/-- Fields of the bodies (R458). -/
def bodyEndpoint (r : List Byte) : Nat := beAt r 16 2
def bodyClass (r : List Byte) : Nat := byteAt r 18
def bodyFragment (r : List Byte) : Nat := byteAt r 19
def bodyAddress (r : List Byte) : Nat := beAt r 16 4
def bodyCount (r : List Byte) : Nat := byteAt r 20
def bodyWord (r : List Byte) (i : Nat) : Nat := beAt r (24 + 4 * i) 4
def bodyOp (r : List Byte) : Nat := byteAt r 16

/-- Bytes [a, b) of a record are all 0. -/
def zeroFrom (r : List Byte) (a b : Nat) : Bool := allZero (slice r a (b - a))

/-- The body holds what its type allows, and 0 where it must (R458, R459). -/
def bodyOk (r : List Byte) : Bool :=
  match recType r with
  | 1 => bodyEndpoint r < 1024 && bodyClass r < 16 && zeroFrom r 20 24
      && (bodyFragment r == 0 || bodyFragment r == 0x80 || (bodyFragment r == 1 && zeroFrom r 64 112))
  | 2 => byteAt r 16 < 32 && byteAt r 17 < 3 && zeroFrom r 18 112
  | 3 => 1 ≤ bodyCount r && bodyCount r ≤ 16 && zeroFrom r 21 24 && zeroFrom r (24 + 4 * bodyCount r) 112
  | 4 => zeroFrom r 24 112
  | 5 => (bodyOp r == 1 || (bodyOp r == 2 && zeroFrom r 24 48)) && byteAt r 17 < 32 && zeroFrom r 18 24 && zeroFrom r 48 112
  | 6 => byteAt r 16 < 16 && zeroFrom r 17 112
  | 7 => byteAt r 16 < 16 && 1 ≤ byteAt r 17 && byteAt r 17 ≤ 3 && zeroFrom r 18 112
  | _ => false

/-- A record is well formed (R457, R464). -/
def recordOk (r : List Byte) : Bool := recTarget r < 64 && recIssuer r < 64 && recSlot r < 32 && bodyOk r

/-- The message the tag covers (R458). -/
def tagMessage (r : List Byte) : List Byte := splice (slice r 0 112) 6 [0, 0]

/-! The check (R464). -/

/-- The faces of the resources a command names (R464). -/
def State.namedFaces (s : State) (r : List Byte) : List Nat :=
  match recType r with
  | 1 => [s.epFace (bodyEndpoint r)]
  | 3 => (List.range (bodyCount r)).map fun i =>
      let a := bodyAddress r + 4 * i
      match s.guardedRange a, s.regAt a with
      | some k, _ => s.get F.GRD_RANGE_face [k]
      | none, some (x, ix) => s.regFace x ix
      | none, none => 0
  | 5 => [s.get F.GRD_KEY_CFG_face [byteAt r 17]]
  | 6 => [byteAt r 16]
  | _ => [0]

/-- The type is permitted in the slot, and every named resource lies in its face, or the slot in face 0 (R464). -/
def State.recordPermitted (s : State) (r : List Byte) : Bool :=
  let k := recSlot r
  let f := s.get F.GRD_KEY_CFG_face [k]
  natBit (s.get F.GRD_KEY_CFG_types [k]) (recType r - 1) && (f == 0 || (s.namedFaces r).all (· == f))

/-- What the check of a record comes to, before its execution. -/
inductive Verdict where
  /-- Refused, with its result. -/
  | result (code : Nat)
  /-- A counter already accepted: discarded silently. -/
  | duplicate
  | pass
  deriving DecidableEq, Repr

/-- The first failing row of R464. -/
def State.verdict (s : State) (r : List Byte) : Verdict :=
  let k := recSlot r
  let x := s.keySlot k
  if !s.is F.GRD_STATUS_keys_installed then .result 1
  else if !recordOk r then .result 6
  else if s.keyState k ≠ 1 ∨ x.waiting then .result 1
  else if recGeneration r ≠ s.keyGeneration k then .result 3
  else if slice r 112 16 ≠ cmacTag x.key (tagMessage r) then .result 2
  else if !s.recordPermitted r then .result 5
  else if s.counterSeen k (recCounter r) then .duplicate
  else if s.counterOld k (recCounter r) then .result 4
  else .pass

/-! Responses (R457, R462, R463). -/

/-- A response record with its tag (R457), by the snapshot the check took: detail bytes 16 to 23. -/
def State.responseTo (s : State) (r : List Byte) (result : Nat) (detail : List Byte) : List Byte :=
  let k := recSlot r % 32
  let body := [0x52, byte result] ++ slice r 2 3 ++ [byte (s.keyGeneration k), 0, 0] ++ slice r 8 8 ++ padTo 96 detail
  body ++ (if s.keyState k = 1 then cmacTag (s.keySlot k).key body else zeros 16)

/-- A response is queued for the issuing hub, or discarded and counted at a full queue (R462); a response to this hub
needs no ring. `snap` is the state of the check's snapshot (R464). -/
def State.respond (s snap : State) (r : List Byte) (result : Nat) (detail : List Byte) : State :=
  let x := snap.responseTo r result detail
  if recIssuer r % 64 = s.hub then { s with grd := { s.grd with answers := s.grd.answers ++ [x] } }
  else if s.grd.responses.length < 32 then { s with grd := { s.grd with responses := s.grd.responses ++ [(x, s.time.cycles)] } }
  else s.inc F.GRD_STATUS_resp_dropped

/-- A refused command is counted (R464). -/
def State.countRefused (s : State) : State := (s.inc F.GRD_CNT_refused).leaf (guardLeaf 1)

/-- How the execution of a command that passed its check ends. -/
inductive GuardEnd where
  | executed
  | held
  | claim
  | refused (reason : Nat)
  deriving DecidableEq, Repr

/-- The response to a command whose execution has ended, under the key and generation of its snapshot (R457, R471). -/
def State.guardEnd (s snap : State) (r : List Byte) (e : GuardEnd) : State :=
  match e with
  | .executed => s.respond snap r 0 []
  | .held => s.respond snap r 0 [0, 0x80]
  | .claim => s.respond snap r 7 []
  | .refused reason => s.countRefused.respond snap r 8 [byte reason]

/-- A record that belongs to no guarded command: it only fails its check. -/
def strayRecord (r : List Byte) : Bool := !recordOk r

/-- The engine takes the record at the front of its arrival queue when it is one of `own`, or a stray one, checks it, and
runs it when the check passes (R464). -/
def State.guardRun (s : State) (own : List Byte → Bool) (run : List Byte → State → GuardEnd × State) : State :=
  match s.grd.inbox with
  | r :: rest =>
    if own r || strayRecord r then
      let snap := s
      let s := { s with grd := { s.grd with inbox := rest } }
      match s.verdict r with
      | .result c =>
        let s := s.countRefused
        let s := s.when (c == 2) fun s => (s.inc F.GRD_CNT_bad_tag).leaf (guardLeaf 0) (recSlot r)
        s.respond snap r c (if c = 4 then beBytes 8 (s.keyCounter (recSlot r) - 63) else [])
      | .duplicate => s.inc F.GRD_CNT_duplicate
      | .pass =>
        let (e, s) := run r (s.acceptCounter (recSlot r) (recCounter r))
        s.guardEnd snap r e
    else s
  | [] => s

/-! Operate (R455, R459, R466). -/

/-- A cell of an operate command of class c reaches the endpoint's guarded buffer, after the claim check (R455, R466). -/
def State.operateCell (s : State) (e src c : Nat) (cell : List Byte) : GuardEnd × State :=
  let claimed := match s.guardOf e with
    | some n => s.guardPasses n src
    | none => true
  if !claimed then
    (.claim, match s.guardOf e with | some n => s.guardCount n src false | none => s)
  else
    let cells := smGet s.grd.buffers e []
    if cells.length ≥ 16 then (.refused 3, s)
    else (.executed, { s with grd := { s.grd with buffers := smSet s.grd.buffers e (cells ++ [(src, c, padTo 128 cell)]) [] } })

/-- The held first part of an issuing hub and endpoint (R459). -/
def State.heldPart (s : State) (h e : Nat) : Option HeldPart := s.grd.held.find? fun x => x.hub == h && x.ep == e
def State.dropHeld (s : State) (h e : Nat) : State :=
  { s with grd := { s.grd with held := s.grd.held.filter fun x => !(x.hub == h && x.ep == e) } }

/-- OPERATE_WHOLE (R466). -/
def execOperateWhole (s : State) : Host.Outcome State Fault Refusal :=
  if s.down .hopper then .next s.clearOut else
  .next (s.clearOut.guardRun (fun r => recType r == 1 && bodyFragment r == 0) fun r s =>
    s.operateCell (bodyEndpoint r) (recIssuer r) (bodyClass r) (slice r 24 88))

/-- OPERATE_FIRST_PART (R459): held; one it replaces is discarded and counted. -/
def execOperateFirstPart (s : State) : Host.Outcome State Fault Refusal :=
  if s.down .hopper then .next s.clearOut else
  .next (s.clearOut.guardRun (fun r => recType r == 1 && bodyFragment r == 0x80) fun r s =>
    let s := s.when (s.heldPart (recIssuer r) (bodyEndpoint r)).isSome fun s => s.inc F.GRD_CNT_refused
    let s := s.dropHeld (recIssuer r) (bodyEndpoint r)
    let x : HeldPart := {
      hub := recIssuer r, ep := bodyEndpoint r, slot := recSlot r, cls := bodyClass r, counter := recCounter r, bytes := slice r 24 88 }
    (.held, { s with grd := { s.grd with held := s.grd.held ++ [x] } }))

/-- OPERATE_SECOND_PART (R459): joined to its held first part, or refused. -/
def execOperateSecondPart (s : State) : Host.Outcome State Fault Refusal :=
  if s.down .hopper then .next s.clearOut else
  .next (s.clearOut.guardRun (fun r => recType r == 1 && bodyFragment r == 1) fun r s =>
    match s.heldPart (recIssuer r) (bodyEndpoint r) with
    | some x =>
      if x.slot = recSlot r ∧ x.cls = bodyClass r ∧ x.counter + 1 = recCounter r then
        (s.dropHeld x.hub x.ep).operateCell x.ep x.hub x.cls (x.bytes ++ slice r 24 40)
      else (.refused 5, s)
    | none => (.refused 5, s))

/-- HELD_PART_TIMEOUT (R459). -/
def execHeldPartTimeout (hub ep : Nat) (s : State) : Host.Outcome State Fault Refusal :=
  if s.down .hopper then .next s.clearOut else
  let s := s.clearOut
  .next (s.when (s.heldPart hub ep).isSome fun s => (s.dropHeld hub ep).inc F.GRD_CNT_refused)

/-! Claim override, keys and face reset. -/

/-- CLAIM_OVERRIDE (R450). -/
def execClaimOverride (s : State) : Host.Outcome State Fault Refusal :=
  if s.down .hopper then .next s.clearOut else
  .next (s.clearOut.guardRun (fun r => recType r == 2) fun r s => (.executed, s.overrideWrite (byteAt r 16) (byteAt r 17)))

/-- KEY_LOAD (R458, R471): the new key comes wrapped under the command slot's own key. -/
def execKeyLoad (s : State) : Host.Outcome State Fault Refusal :=
  if s.down .hopper then .next s.clearOut else
  .next (s.clearOut.guardRun (fun r => recType r == 5 && bodyOp r == 1) fun r s =>
    match kwUnwrap (s.keySlot (recSlot r)).key (slice r 24 24) with
    | some key => (.executed, s.keyWrite (byteAt r 17) key)
    | none => (.refused 1, s))

/-- KEY_ERASE (R471). -/
def execKeyErase (s : State) : Host.Outcome State Fault Refusal :=
  if s.down .hopper then .next s.clearOut else
  .next (s.clearOut.guardRun (fun r => recType r == 5 && bodyOp r == 2) fun r s => (.executed, s.keyEraseSlot (byteAt r 17)))

/-- FACE_RESET (R478, R479). -/
def execFaceReset (s : State) : Host.Outcome State Fault Refusal :=
  if s.down .hopper then .next s.clearOut else
  .next (s.clearOut.guardRun (fun r => recType r == 6) fun r s =>
    if s.faceResetRefused (byteAt r 16) then (.refused 4, s) else (.executed, s.faceResetBegin (byteAt r 16)))

/-! Windows (R460 to R463). -/

/-- A window's state and result. -/
def State.setWindow (s : State) (w st result : Nat) : State :=
  (s.set F.GRD_WIN_CTRL_state [w] st).set F.GRD_WIN_CTRL_result [w] result

/-- A window is queued or sent: its record and its submit are closed (R460). -/
def State.windowBusy (s : State) (w : Nat) : Bool :=
  let st := s.get F.GRD_WIN_CTRL_state [w]
  st == 1 || st == 2

/-- A record is submitted (R461). -/
def State.submitWindow (s : State) (w : Nat) : State :=
  let r := s.windowCommand w
  let t := recTarget r % 64
  if byteAt r 0 ≠ 0x51 ∨ recIssuer r ≠ s.hub then s.setWindow w 5 6
  else if t = s.hub then
    let s := s.setWindow w 2 0
    { s with grd := { s.grd with inbox := s.grd.inbox ++ [r] } }
  else if !s.is F.RING_HUBMAP_INFO_present [t] then s.setWindow w 5 9
  else
    let s := s.setWindow w 1 0
    { s with grd := { s.grd with commands := s.grd.commands ++ [(w, s.time.cycles)] } }

/-- A response matches a window in state sent (R463). -/
def State.answersWindow (s : State) (x : List Byte) (w : Nat) : Bool :=
  let r := s.windowCommand w
  s.get F.GRD_WIN_CTRL_state [w] == 2 && byteAt x 2 == byteAt r 2 && byteAt x 4 == byteAt r 4 && slice x 8 8 == slice r 8 8

/-- GRD_RESPONSE_RECEIVED (R463). -/
def execGrdResponseReceived (s : State) : Host.Outcome State Fault Refusal :=
  if s.down .hopper then .next s.clearOut else
  let s := s.clearOut
  match s.grd.answers with
  | x :: rest =>
    let s := { s with grd := { s.grd with answers := rest } }
    match (List.range 16).find? (s.answersWindow x) with
    | some w =>
      let s := s.each (List.range 32) fun s i => s.wr .GRD_WIN_RESP [w, i] (leAt x (4 * i) 4)
      .next ((s.setWindow w 3 (byteAt x 1)).leaf (guardLeaf 2) w)
    | none => .next (s.inc F.GRD_CNT_late_resp)
  | [] => .next s

/-- GRD_WINDOW_TIMEOUT (R463). -/
def execGrdWindowTimeout (w : Nat) (s : State) : Host.Outcome State Fault Refusal :=
  if s.down .hopper then .next s.clearOut else
  let s := s.clearOut
  .next (s.when (s.get F.GRD_WIN_CTRL_state [w] == 2) fun s => (s.set F.GRD_WIN_CTRL_state [w] 4).leaf (guardLeaf 3) w)

/-- GRD_STATUS as it reads: the records of the outbound queue (R462). -/
def State.grdStatusWord (s : State) : Nat :=
  natSetBits (s.rd .GRD_STATUS) 5 0 (s.grd.commands.length + s.grd.responses.length)

/-- burn is written (R470): ignored after the configuration lock or when a key is already burned. -/
def State.fuseBurn (s : State) : State :=
  if s.is F.CHIP_STATUS_cfg_locked ∨ s.is F.GRD_STATUS_fuse_burned then s
  else
    let s := { s with grd := { s.grd with deviceKey := s.grd.stagedKey } }
    s.setB F.GRD_STATUS_fuse_burned [] true

end Sys2Proof.Machine
end

