-- ==== Sys2Proof/Machine/Slot.lean ====
section
/-! DEFINITION. The slot and the control blocks of the ring as strings of 64-bit blocks (R63 to R70, R110, R120), and as
the lanes carry them (R52, R64). What the spec leaves to a reading or a choice stands in log entries 14 and 51. -/

namespace Sys2Proof.Machine

/-- A block from a number. -/
def blockOf (n : Nat) : Block := BitVec.ofNat 64 n

/-- The eight bytes of a block, most significant first (R63). -/
def blockBytes (b : Block) : List Byte := beBytes 8 b.toNat

/-- The bytes of blocks. -/
def blocksBytes (bs : List Block) : List Byte := bs.flatMap blockBytes

/-- Blocks from bytes, eight at a time. -/
def bytesBlocks : Nat → List Byte → List Block
  | 0, _ => []
  | n + 1, bs => blockOf (beNat (slice bs 0 8)) :: bytesBlocks n (bs.drop 8)

/-- Block k of a slot, 0 where it has not arrived. -/
def blk (bs : List Block) (k : Nat) : Nat := (bs.getD k 0).toNat

/-! The header (R65, R66). -/

/-- The fields of a header. -/
structure Header where
  slot : Nat := 0
  round : Nat := 0
  owner : Nat := 0
  mode : Nat := 0
  major : Nat := 2
  minor : Nat := 0
  dir : Nat := 0
  line : Bool := false
  generated : Bool := false
  payloadValid : Bool := false
  spare : Bool := false
  lastWords : Bool := false
  roundLen : Nat := 0
  quiet : Bool := false
  schedGen : Nat := 0
  deriving DecidableEq, Repr

/-- CRC-16 over bits [63:16] of a block (R65). -/
def blockCheck (n : Nat) : Nat := crc16 (beBytes 6 (n / 2 ^ 16))

/-- A block whose bits [15:0] are the check of the others. -/
def checked (n : Nat) : Nat := n / 2 ^ 16 * 2 ^ 16 + blockCheck n

/-- The header block of its fields (R65). -/
def Header.block (h : Header) : Nat :=
  checked (h.slot % 2 ^ 9 * 2 ^ 55 + h.round % 2 ^ 7 * 2 ^ 48 + h.owner % 64 * 2 ^ 42 + h.mode % 4 * 2 ^ 40
    + h.major % 16 * 2 ^ 36 + h.minor % 16 * 2 ^ 32 + h.dir % 2 * 2 ^ 31 + b2n h.line * 2 ^ 30 + b2n h.generated * 2 ^ 29
    + b2n h.payloadValid * 2 ^ 28 + b2n h.spare * 2 ^ 27 + b2n h.lastWords * 2 ^ 26 + h.roundLen % 4 * 2 ^ 24
    + b2n h.quiet * 2 ^ 23 + h.schedGen % 128 * 2 ^ 16)

/-- The fields of a header block (R65). -/
def headerOf (w : Nat) : Header :=
  { slot := natBits w 63 55, round := natBits w 54 48, owner := natBits w 47 42, mode := natBits w 41 40,
    major := natBits w 39 36, minor := natBits w 35 32, dir := natBits w 31 31, line := natBit w 30, generated := natBit w 29,
    payloadValid := natBit w 28, spare := natBit w 27, lastWords := natBit w 26, roundLen := natBits w 25 24,
    quiet := natBit w 23, schedGen := natBits w 22 16 }

/-- A header is valid for a hub of a round length (R66). -/
def headerValid (w roundLen : Nat) : Bool :=
  natBits w 15 0 == blockCheck w && (headerOf w).major == 2 && (headerOf w).roundLen == roundLen && (headerOf w).mode != 3

/-! Block 97 and the trailer (R69, R70). -/

/-- Block 97 of its fields: correction in units of 2^-16 ns, hop count and trust. -/
def block97 (correction : Int) (hops trust : Nat) : Nat := ofSigned correction 48 * 2 ^ 16 + hops % 64 * 2 ^ 10 + trust % 64 * 2 ^ 4

/-- The correction of block 97. -/
def correctionOf (w : Nat) : Int := toSigned (natBits w 63 16) 48
/-- The hop count of block 97. -/
def hopsOf (w : Nat) : Nat := natBits w 15 10
/-- The trust of block 97. -/
def trustOf (w : Nat) : Nat := natBits w 9 4

/-- crc32 over blocks 0 and 17–96 (R70). -/
def slotCrc (bs : List Block) : Nat := crc32 (blocksBytes (bs.take 1 ++ (bs.drop 17).take 80))

/-- shot_check over blocks 1–16 and 97 (R70). -/
def slotShotCheck (bs : List Block) : Nat := crc16 (blocksBytes ((bs.drop 1).take 16 ++ (bs.drop 97).take 1))

/-- The crc32, sequence and shot_check a slot carries. -/
def trailerCrc (bs : List Block) : Nat := natBits (blk bs 98) 63 32
def trailerSeq (bs : List Block) : Nat := natBits (blk bs 98) 31 16
def trailerShot (bs : List Block) : Nat := natBits (blk bs 98) 15 0

/-- The crc32 of a received slot is correct. -/
def crcOk (bs : List Block) : Bool := trailerCrc bs == slotCrc bs

/-- The shot_check of a received slot is correct. -/
def shotOk (bs : List Block) : Bool := trailerShot bs == slotShotCheck bs

/-- A slot is poisoned: both checks are the complement of their correct values (R89). -/
def poisoned (bs : List Block) : Bool :=
  trailerCrc bs == (slotCrc bs ^^^ 0xFFFFFFFF) && trailerShot bs == (slotShotCheck bs ^^^ 0xFFFF)

/-- Block 99 (R64). -/
def alignment : Nat := 0xB4 * 2 ^ 56 + 0xA55AC33C * 2 ^ 24

/-- The payload bytes of a slot (R63). -/
def slotPayload (bs : List Block) : List Byte := blocksBytes ((bs.drop 17).take 80)

/-- The shot field blocks of a slot. -/
def slotShots (bs : List Block) : List Block := (bs.drop 1).take 16

/-- Shot entry h of shot field blocks (R67). -/
def entryOf (shots : List Block) (h : Nat) : Nat := natBits (blk shots (h / 4)) (63 - 16 * (h % 4)) (48 - 16 * (h % 4))

/-- Shot field blocks with entry h replaced. -/
def setEntry (shots : List Block) (h e : Nat) : List Block :=
  shots.set (h / 4) (blockOf (natSetBits (blk shots (h / 4)) (63 - 16 * (h % 4)) (48 - 16 * (h % 4)) e))

/-- How many blocks of a slot have left again when its stream stops after `k` blocks: block 0 leaves 120 ns, 96 blocks,
after it arrived (R61, R62), and blocks 1 to 16 have left when block 98 arrives (R88; DEDUCED, log entry 14). -/
def blocksSent (k : Nat) : Nat := if k < 99 then k - 96 else 17

/-- Shot field blocks with the valid bit cleared in every entry but this hub's and those in the blocks already sent (R89). -/
def clearUnsent (shots : List Block) (own sent : Nat) : List Block :=
  (List.range 64).foldl (fun bs h =>
    if h = own ∨ h / 4 + 1 < sent then bs else setEntry bs h (natSetBit (entryOf bs h) 12 false)) shots

/-- An empty shot field. -/
def noShots : List Block := List.replicate 16 0

/-- A whole slot of its parts (R63): `syndrome` is exclusive-ored into crc32 and, with `poison`, shot_check is
complemented, so a damaged or poisoned payload stays recognisable. -/
def slotOf (hdr : Nat) (shots : List Block) (payload : List Byte) (b97 seq : Nat) (syndrome : Nat := 0) (poison : Bool := false) :
    List Block :=
  let bs := [blockOf hdr] ++ shots ++ bytesBlocks 80 payload ++ [blockOf b97]
  let crc := slotCrc bs ^^^ syndrome
  let chk := slotShotCheck bs ^^^ (if poison then 0xFFFF else 0)
  bs ++ [blockOf (crc * 2 ^ 32 + seq % 2 ^ 16 * 2 ^ 16 + chk), blockOf alignment]

/-! Control blocks. -/

/-- The block type of a control block. -/
def blockType (w : Nat) : Nat := natBits w 63 56

/-- A remote-fault block (R93). -/
def remoteFault : Nat := 0xB5 * 2 ^ 56

/-- An idle block. -/
def idleBlock : Nat := 0x1E * 2 ^ 56

/-- The check of a hello or contend block: a CRC-16 over bits [55:16], as in R70 (R110, R120). -/
def controlCheck (n : Nat) : Nat := crc16 (beBytes 5 (natBits n 55 16))

/-- A hello block (R110) of a hub that speaks minor versions 0 to 3. -/
def helloBlock (hub roundLen : Nat) (ack : Bool) : Nat :=
  let n := 0xB6 * 2 ^ 56 + hub % 64 * 2 ^ 50 + 2 * 2 ^ 46 + 3 * 2 ^ 42 + roundLen % 4 * 2 ^ 36 + b2n ack * 2 ^ 35
  n + controlCheck n

/-- A hello or contend block of a type arrives sound. -/
def controlSound (n type : Nat) : Bool := blockType n == type && natBits n 15 0 == controlCheck n

/-- A contend block (R120). -/
def contendBlock (hub rank : Nat) : Nat :=
  let n := 0xB7 * 2 ^ 56 + hub % 64 * 2 ^ 50 + rank % 16 * 2 ^ 46
  n + controlCheck n

/-! Line coding (R52, R64). -/

/-- 32 bits through the self-synchronising scrambler x^58 + x^39 + 1, the first bit most significant: the scrambled bits and
the last 58 of them. -/
def scramble32 (h d : Nat) : Nat × Nat :=
  let o := (d ^^^ h / 2 ^ 7 ^^^ h / 2 ^ 26) % 2 ^ 32
  (o, (h * 2 ^ 32 + o) % 2 ^ 58)

/-- The descrambler of 32 bits. -/
def descramble32 (h o : Nat) : Nat × Nat := ((o ^^^ h / 2 ^ 7 ^^^ h / 2 ^ 26) % 2 ^ 32, (h * 2 ^ 32 + o) % 2 ^ 58)

/-- A block through the scrambler, most significant bit first (R52; the order of the bits in a byte is a DESIGN CHOICE, log
entry 51). -/
def scramble (h w : Nat) : Nat × Nat :=
  let (a, h) := scramble32 h (w / 2 ^ 32 % 2 ^ 32)
  let (b, h) := scramble32 h (w % 2 ^ 32)
  (a * 2 ^ 32 + b, h)

/-- A block through the descrambler. -/
def descramble (h w : Nat) : Nat × Nat :=
  let (a, h) := descramble32 h (w / 2 ^ 32 % 2 ^ 32)
  let (b, h) := descramble32 h (w % 2 ^ 32)
  (a * 2 ^ 32 + b, h)

/-- The sync header of a data and of a control block (R64). -/
def syncOf (control : Bool) : Nat := if control then 2 else 1

end Sys2Proof.Machine
end

