-- ==== Sys2Proof/Machine/Ring.lean ====
section
/-! DEFINITION. The ring island: ports and training, hello, election, integration, the hub map, mastership, closure,
grants and spare slots (R52 to R152). What the spec leaves to a reading or a choice stands in log entries 12, 13, 14, 15
and 51. -/

namespace Sys2Proof.Machine

/-! Directions and ports. The east-going direction arrives at the west port and leaves by the east port. -/

/-- Index of a side or a direction: 0 east, 1 west. -/
def sideIx : Side → Nat
  | .east => 0
  | .west => 1

/-- The other side. -/
def otherSide : Side → Side
  | .east => .west
  | .west => .east

/-- The port a direction arrives at. -/
def rxPort (d : Side) : Side := otherSide d

/-- One direction's state. -/
def State.rdir (s : State) (d : Side) : RingDir := match d with | .east => s.ring.eg | .west => s.ring.wg

/-- One direction's state replaced. -/
def State.setRdir (s : State) (d : Side) (x : RingDir) : State :=
  match d with
  | .east => { s with ring := { s.ring with eg := x } }
  | .west => { s with ring := { s.ring with wg := x } }

/-- A port's hello state. -/
def State.hello (s : State) (p : Side) : HelloState := match p with | .east => s.ring.helloEast | .west => s.ring.helloWest

/-- A port's hello state replaced. -/
def State.setHello (s : State) (p : Side) (x : HelloState) : State :=
  match p with
  | .east => { s with ring := { s.ring with helloEast := x } }
  | .west => { s with ring := { s.ring with helloWest := x } }

/-- RING_PORT_STATUS.state of a port. -/
def State.portState (s : State) (p : Side) : Nat := s.get F.RING_PORT_STATUS_state [sideIx p]

/-- RING_PORT_STATUS.state set. -/
def State.setPortState (s : State) (p : Side) (v : Nat) : State := s.set F.RING_PORT_STATUS_state [sideIx p] v

/-- A port is up. -/
def State.portUp (s : State) (p : Side) : Bool := s.portState p == 6

/-- A port may train (RING_CTRL). -/
def State.portEnabled (s : State) (p : Side) : Bool :=
  match p with | .east => s.is F.RING_CTRL_east_enable | .west => s.is F.RING_CTRL_west_enable

/-- Leaf i of a port (R484). -/
def portLeaf (p : Side) (i : Nat) : Nat := ringLeaf (8 * sideIx p + i)

/-- The hub is head of the line of a direction. -/
def State.isHead (s : State) (d : Side) : Bool :=
  match d with | .east => s.is F.RING_STATUS_eg_head | .west => s.is F.RING_STATUS_wg_head

/-- RING_STATUS head bit set. -/
def State.setHead (s : State) (d : Side) (v : Bool) : State :=
  match d with | .east => s.setB F.RING_STATUS_eg_head [] v | .west => s.setB F.RING_STATUS_wg_head [] v

/-- The master pads a direction. -/
def State.isPadding (s : State) (d : Side) : Bool := s.is F.RING_PAD_padding [sideIx d]

/-- The start-up phases of RING_START_STATUS. -/
def State.phase (s : State) : Nat := s.get F.RING_START_STATUS_phase
/-- The start-up phase set. -/
def State.setPhase (s : State) (v : Nat) : State := s.set F.RING_START_STATUS_phase [] v

/-- The hub's die number. -/
def State.uid (s : State) : Nat := s.rd .CHIP_UID_HI * 2 ^ 32 + s.rd .CHIP_UID_LO

/-- The (rank, hub) pair of this hub, as rank × 64 + hub. -/
def State.ownPair (s : State) : Nat := s.get F.RING_START_CTRL_rank * 64 + s.hub

/-- The (rank, hub) pair of a hub of the hub map. A hub that has announced no rank stands above every one that has (DESIGN
CHOICE, log entry 13). -/
def State.pairOf (s : State) (h : Nat) : Nat :=
  if h = s.hub then s.ownPair
  else (if s.is F.RING_HUBMAP_INFO_present [h] then s.get F.RING_HUBMAP_INFO_rank [h] else 16) * 64 + h

/-- The link delay of a port in units of 2^-16 ns. -/
def State.linkDelay16 (s : State) (p : Side) : Nat := s.get F.RING_LINK_DELAY_link_delay [sideIx p] * 2 ^ 8

/-- The announcement of hub h beside the registers. -/
def State.ann (s : State) (h : Nat) : Announcement := smGet s.ring.announcements h {}

/-- The announcement of hub h, replaced. -/
def State.setAnn (s : State) (h : Nat) (x : Announcement) : State :=
  { s with ring := { s.ring with announcements := smSet s.ring.announcements h x {} } }

/-- After a break only an announcement written later counts (R102). -/
def State.portsUnseen (s : State) : State := s.each (List.range 64) fun s h => s.setAnn h { s.ann h with fresh := false }

/-- The ring mode changes: its leaf 21. -/
def State.setMode (s : State) (m : Nat) : State :=
  if s.get F.RING_STATUS_mode = m then s
  else
    let s := (s.set F.RING_STATUS_mode [] m).setB F.CHIP_STATUS_ring_integrated [] (m != 0)
    (s.when (m == 2) fun s => s.portsUnseen).leaf (ringLeaf 21)

/-- TIME_DOM_STATUS(A).ring shows whether domain A follows the ring. -/
def State.showRing (s : State) : State := s.setB F.TIME_DOM_STATUS_ring [0] s.followsRing

/-! The lanes (R52, R61, R64). -/

/-- One block leaves by a lane of a port, through the lane's scrambler. -/
def State.sendBlock (s : State) (p : Side) (lane : Nat) (control : Bool) (b : Block) : State :=
  let key := 2 * sideIx p + lane
  let (w, h) := scramble (smGet s.ring.scram key 0) b.toNat
  { s with ring := { s.ring with scram := smSet s.ring.scram key h 0 },
           line := s.line ++ [{ port := p, lane := lane, sync := syncOf control, bits := w }] }

/-- Blocks leave by a port, block k on lane k mod 2 (R61); the last of a slot, block 99, is a control block (R64). -/
def State.sendBlocks (s : State) (p : Side) : Nat → List Block → State
  | _, [] => s
  | k, b :: bs => (s.sendBlock p (k % 2) (k == 99) b).sendBlocks p (k + 1) bs

/-- A control block leaves by a port. -/
def State.sendControl (s : State) (p : Side) (b : Block) : State := (s.emit (.control p b)).sendBlock p 0 true b

/-- Idle blocks leave by a port (R96, R111), on both lanes in turn. -/
def State.sendIdles (s : State) (p : Side) (n : Nat) : State :=
  if n = 0 then s else (List.range n).foldl (fun s k => s.sendBlock p (k % 2) true (blockOf idleBlock)) (s.emit (.idles p n))

/-! The schedule (R71, R72, R74). -/

/-- The owner, mode and spare mark a slot position has now: slots 0–2 by rule, the others from SLOT_TABLE. -/
def State.slotEntry (s : State) (d : Side) (n : Nat) : Nat × Nat × Bool :=
  if n = 0 then (s.get F.RING_STATUS_master_hub, 2, false)
  else if n = 1 then (2 * (s.round % 32), 2, false)
  else if n = 2 then (2 * (s.round % 32) + 1, 2, false)
  else
    let w := s.rd .SLOT_TABLE [sideIx d, n]
    let spare := F.SLOT_TABLE_spare.of w = 1
    let granted := F.SLOT_TABLE_granted.of w = 1
    if spare ∧ ¬ granted then (0, 0, true) else (F.SLOT_TABLE_owner.of w, F.SLOT_TABLE_mode.of w, false)

/-- SLOT_TABLE entry n as it reads (R71, R72). -/
def State.slotTableWord (s : State) (d n : Nat) : Nat :=
  if n ≤ 2 then
    if s.integrated then
      let (owner, _, _) := s.slotEntry .east n
      2 * 2 ^ 12 + owner
    else 0
  else s.rd .SLOT_TABLE [d, n]

/-- A position goes out blank for want of a hub: the command slot of a hub that is not integrated (R72), and slot 0 while no
reference slots come (R134). -/
def State.slotBlank (s : State) (d : Side) (n : Nat) : Bool :=
  let owner := (s.slotEntry d n).1
  if n = 0 then !s.isMaster && s.ring.refMissing ≥ 3
  else n ≤ 2 && owner != s.hub && !natBit s.ring.bitmap owner

/-- The hub owns a position: named as owner with mode split or mirrored (R320). -/
def State.ownsSlot (s : State) (d : Side) (n : Nat) : Bool :=
  let (owner, mode, _) := s.slotEntry d n
  owner == s.hub && (mode == 1 || mode == 2)

/-- The hub owns some scheduled slot. -/
def State.ownsScheduled (s : State) : Bool :=
  (List.range s.slotsPerDir).any fun n => 3 ≤ n && (s.ownsSlot .east n || s.ownsSlot .west n)

/-- A direction is quiet: the round before it closes, to its end when the closure is cancelled in it (R104, R107). -/
def State.quiet (s : State) (d : Side) : Bool :=
  (s.rdir d).closing == some (s.round + 1) || (s.rdir d).quietRound == some s.round

/-- The Kolec minor version of the ring lies in this hub's range 0–3 (R115). -/
def State.versionOk (s : State) : Bool := s.get F.RING_START_STATUS_ring_minor ≤ 3

/-- The hub may write payload (R104, R108, R115, R126, R139). -/
def State.mayWrite (s : State) (d : Side) : Bool :=
  s.integrated && s.phase != 5 && !s.is F.RING_STATUS_transit_active && !s.quiet d && s.versionOk && !s.ring.relocking

/-! Grants (R145 to R147). -/

/-- The fields of a grant table entry (R145). -/
def grantValid (w : Nat) : Bool := natBit w 31
def grantDir (w : Nat) : Nat := natBits w 30 30
def grantEnding (w : Nat) : Bool := natBit w 29
def grantSlot (w : Nat) : Nat := natBits w 28 20
def grantOwner (w : Nat) : Nat := natBits w 19 14
def grantEffective (w : Nat) : Nat := natBits w 13 7

/-- A grant table entry of its fields. -/
def grantWord (dir : Nat) (ending : Bool) (slot owner effective : Nat) : Nat :=
  2 ^ 31 + dir % 2 * 2 ^ 30 + b2n ending * 2 ^ 29 + slot % 512 * 2 ^ 20 + owner % 64 * 2 ^ 14 + effective % 128 * 2 ^ 7

/-- The 64 entries of the grant table. -/
def State.grantTable (s : State) : List Nat := (s.ring.grants ++ List.replicate 64 0).take 64

/-- The grant table replaced. -/
def State.setGrants (s : State) (g : List Nat) : State := { s with ring := { s.ring with grants := g } }

/-- A grant entry takes effect in SLOT_TABLE (R146): mirrored entries in both directions. -/
def State.applyGrant (s : State) (w : Nat) : State :=
  let n := grantSlot w
  let mirrored := s.get F.SLOT_TABLE_mode [0, n] = 2
  let dirs := if mirrored then [0, 1] else [grantDir w]
  s.each dirs fun s d =>
    let s := s.setB F.SLOT_TABLE_granted [d, n] (!grantEnding w)
    s.set F.SLOT_TABLE_owner [d, n] (if grantEnding w then 0 else grantOwner w)

/-- The grants of this round take effect, and the master removes the entries that ended in the round before (R146). -/
def State.grantRound (s : State) : State :=
  let now := s.round % 128
  let due := s.grantTable.filter fun w => grantValid w && grantEffective w == now
  let s := due.foldl (fun s w => s.applyGrant w) s
  s.setGrants (s.grantTable.map fun w =>
    if grantValid w && grantEnding w && grantEffective w == (s.round + 127) % 128 then 0 else w)

/-- The spare entries of SLOT_TABLE as the schedule gives them, granted to none (R141). -/
def State.clearGrants (s : State) : State :=
  s.each (List.range s.slotsPerDir) fun s n => s.each [0, 1] fun s d =>
    s.when (s.is F.SLOT_TABLE_spare [d, n]) fun s => (s.setB F.SLOT_TABLE_granted [d, n] false).set F.SLOT_TABLE_owner [d, n] 0

/-- A hub that integrates takes up the grants in force and no others: those whose effective round is not one of the next 8,
and those that end later (R145, R146; DESIGN CHOICE, log entry 15). -/
def State.grantsInForce (s : State) : State :=
  (s.grantTable.filter grantValid).foldl (fun s w =>
    let ahead := (grantEffective w + 128 - s.round % 128) % 128
    let future := 1 ≤ ahead && ahead ≤ 8
    if grantEnding w then (if future then s.applyGrant (natSetBit w 29 false) else s.applyGrant w)
    else if future then s else s.applyGrant w) s.clearGrants

/-- A grant entry names a slot position (the direction of a mirrored entry is ignored). -/
def State.grantNames (s : State) (w dir n : Nat) : Bool :=
  grantValid w && grantSlot w == n && (s.get F.SLOT_TABLE_mode [0, n] == 2 || grantDir w == dir)

/-- The master serves a spare-slot request (R144, R147): a release ends the owner's grant; a free spare entry is granted,
effective 4 rounds after the reference slot of the next round announces it (R146); any other request is ignored. -/
def State.serveRequest (s : State) (owner : Nat) (release : Bool) (dir n : Nat) : State :=
  let eff := (s.round + 5) % 128
  let table := s.grantTable
  if release then
    s.setGrants (table.map fun w =>
      if s.grantNames w dir n && grantOwner w == owner && !grantEnding w then grantWord (grantDir w) true n owner eff else w)
  else
    let word := s.rd .SLOT_TABLE [dir, n]
    if F.SLOT_TABLE_spare.of word = 1 ∧ n ≥ 3 ∧ n < s.slotsPerDir ∧ ¬ table.any (fun w => s.grantNames w dir n) then
      match table.findIdx? (fun w => !grantValid w) with
      | some i => s.setGrants (table.set i (grantWord dir false n owner eff))
      | none => s
    else s

/-- The master ends every grant of a hub whose hub-map entry is cleared (R147). -/
def State.endGrants (s : State) (h : Nat) : State :=
  let eff := (s.round + 5) % 128
  s.setGrants (s.grantTable.map fun w =>
    if grantValid w && grantOwner w == h && !grantEnding w then grantWord (grantDir w) true (grantSlot w) h eff else w)

/-! Training (R52 to R58). -/

/-- SIGNAL_DETECT (R55, R56, R149): training begins once the permit is held, which is asked for from ring-ready on. -/
def execSignalDetect (p : Side) (s : State) : Host.Outcome State Fault Refusal :=
  if s.down .ring then .next s.clearOut else
  let s := s.clearOut
  if s.portEnabled p ∧ (s.portState p = 0 ∨ s.portState p = 7) then
    let s := (s.setPortState p 1).inc F.RING_PORT_STATUS_retrain_count [sideIx p]
    .next (s.when (s.get F.CFG_STATUS_state == 5) fun s => s.permitAsk .serdes (sideIx p))
  else .next s

/-- CDR_LOCK (R55): from signal, once the permit is granted (R56). -/
def execCdrLock (p : Side) (s : State) : Host.Outcome State Fault Refusal :=
  if s.down .ring then .next s.clearOut else
  let s := s.clearOut
  .next (s.when (s.portState p == 1 && s.permitHeld .serdes (sideIx p)) fun s => s.setPortState p 2)

/-- BLOCK_LOCK (R55). -/
def execBlockLock (p : Side) (s : State) : Host.Outcome State Fault Refusal :=
  if s.down .ring then .next s.clearOut else
  let s := s.clearOut
  .next (s.when (s.portState p == 2) fun s => s.setPortState p 3)

/-- DESKEW_COMPLETE (R54, R55, R57): the lane facts are shown, the link delay is half the round trip (in units of 2^-8
ns), the permit is returned, and the port is deskewed. A skew above 40 ns fails training. -/
def execDeskewComplete (p : Side) (swap : Bool) (polInv skew roundTrip : Nat) (s : State) : Host.Outcome State Fault Refusal :=
  if s.down .ring then .next s.clearOut else
  let s := s.clearOut
  if s.portState p = 3 then
    if (toSigned skew 10).natAbs ≤ 320 then
      let ix := [sideIx p]
      let s := (s.setB F.RING_PORT_STATUS_lane_swap ix swap).set F.RING_PORT_STATUS_pol_inv ix polInv
      let s := s.set F.RING_PORT_STATUS_skew ix skew
      let s := s.set F.RING_LINK_DELAY_link_delay ix (roundTrip / 2)
      let s := (s.setPortState p 4).permitGive .serdes (sideIx p)
      .next (s.setHello p {})
    else .next (((s.setPortState p 0).permitGive .serdes (sideIx p)).leaf (portLeaf p 1) (sideIx p) 0 true)
  else .next s

/-- TRAINING_TIMEOUT (R55): the training-failure leaf, and again from down; the permit is returned (R564). -/
def execTrainingTimeout (p : Side) (s : State) : Host.Outcome State Fault Refusal :=
  if s.down .ring then .next s.clearOut else
  let s := s.clearOut
  if 1 ≤ s.portState p ∧ s.portState p ≤ 3 ∧ s.permitHeld .serdes (sideIx p) then
    .next (((s.setPortState p 0).permitGive .serdes (sideIx p)).leaf (portLeaf p 1) (sideIx p) 0 true)
  else .next s

/-! Breaks (R82 to R96, R107). -/

/-- A closure that has been announced is cancelled in every direction that has not closed, also one due at c + 2 when the
port goes down from round c on (R107; DESIGN CHOICE, log entry 14): the hub that owns the failed port at once, and the master
withdraws the word, which is not taken up again. A quiet round that has begun lasts to its boundary. -/
def State.cancelClosure (s : State) : State :=
  let clear (x : RingDir) : RingDir := match x.closing with
    | some c =>
      if s.round < c then { x with closing := none, quietRound := if c = s.round + 1 then some s.round else x.quietRound,
                                        padBuffer := if x.draining then x.padBuffer else [] }
      else x
    | none => x
  let s := { s with ring := { s.ring with eg := clear s.ring.eg, wg := clear s.ring.wg, loopAt := none, closureReach := [],
                                          closureOff := s.ring.closureTaken } }
  let s := s.when (s.isMaster && s.ring.closureWord != 0) fun s => { s with ring := { s.ring with closureWord := 0 } }
  s.setB F.RING_STATUS_closure_pending [] ((s.ring.eg.closing).isSome || (s.ring.wg.closing).isSome)

/-- The master's RING_REACH flags, as bit 0 east-going and bit 1 west-going by hub. -/
def State.reachFlags (s : State) : List (Nat × Nat) :=
  (List.range 64).foldl (fun m h => smSet m h (s.get F.RING_REACH_eg_reach [h] + 2 * s.get F.RING_REACH_wg_reach [h]) 0) []

/-- A hub reached at the announcement is no longer reached in a direction in which it was: the master withdraws (R107). -/
def State.checkClosureReach (s : State) : State :=
  if s.isMaster && s.ring.closureReach.any (fun x => x.2 &&& smGet s.reachFlags x.1 0 != x.2) then s.cancelClosure else s

/-- The blank slots of an inserted run: as long as the last pad announced for the direction (R96). -/
def State.runLength (s : State) (d : Side) : Nat := s.get F.RING_PAD_pad [sideIx d] / (125 * 256)

/-- The idle blocks that fill the remainder of a run of less than 125 ns (R96): a block lasts 1.25 ns (R61), and a part of one
is left out (DESIGN CHOICE, log entry 14). -/
def State.runIdles (s : State) (d : Side) : Nat := s.get F.RING_PAD_pad [sideIx d] % (125 * 256) / 320

/-- A slot that has come k + 1 links has passed hub h: h lies between its owner and this hub, or is this hub (R78). -/
def State.hubPassed (s : State) (d : Side) (k h : Nat) : Bool := h == s.hub || (s.reachedBy d h && s.hopsBy d h < k + 1)

/-- Cells of a sound split slot that have not passed their destination are lost where the slot is dropped, and counted there
(R101; the counter is a DESIGN CHOICE, log entry 14). -/
def State.slotLost (s : State) (d : Side) (bs : List Block) : State :=
  let h := headerOf (blk bs 0)
  let unpassed (i : Nat) : Bool :=
    let dest := beAt (slotPayload bs) (128 * i + 6) 2 / 2 ^ 10
    dest != h.owner && !s.hubPassed d (hopsOf (blk bs 97)) dest
  s.when (crcOk bs && h.payloadValid && h.mode == 1 && (List.range 5).any unpassed) fun s =>
    s.inc F.RING_ERRCNT_cut [sideIx (rxPort d)]

/-- Everything written for owned slots of a direction that has not left is given up; what split slots held is lost, and
counted (R101). -/
def State.loseFills (s : State) (d : Side) : State :=
  let lost := (s.rdir d).fills.filter fun f => f.valid && (s.slotEntry d f.slot).2.1 == 1
  let s := lost.foldl (fun s _ => s.inc F.RING_ERRCNT_cut [sideIx (rxPort d)]) s
  s.setRdir d { s.rdir d with fills := [], relays := [] }

/-- No slot of an earlier integration leaves any more, nor does a reference copy or a step of one count (R126, R366, R370). -/
def State.forgetSlots (s : State) : State :=
  let s := (s.loseFills .east).loseFills .west
  { s with ring := { s.ring with mirrorFills := [] },
           time := { s.time with refEg := none, refWg := none, ringStep := none, diffHigh := 0, diffLow := 0 } }

/-- The hub becomes head of the line of a direction (R82, R96): line mode, and unless it is the master a run of blank
slots follows. A hub that is not integrated has no slot timing of its own and generates nothing. What waits in a master's
pad buffer is dropped there (R101). -/
def State.becomeHead (s : State) (d : Side) : State :=
  if s.integrated && !s.isHead d then
    let s := (s.rdir d).padBuffer.foldl (fun s e => s.slotLost d e.2) s
    let s := (s.setHead d true).setMode 2
    let s := s.setRdir d { s.rdir d with runLeft := if s.isMaster then 0 else s.runLength d,
                                         runIdle := if s.isMaster then 0 else s.runIdles d, afterRun := !s.isMaster,
                                         generating := false, padBuffer := [], draining := false, shotField := none }
    s.setB F.RING_PAD_padding [sideIx d] false
  else s

/-- The hub stops being head of a direction: it forwards its input again. -/
def State.leaveHead (s : State) (d : Side) : State :=
  (s.setHead d false).setRdir d { (s.setHead d false).rdir d with generating := false, runLeft := 0, runIdle := 0, afterRun := false,
                                                                  relays := [] }

/-- A port is declared down (R92, R93, R107): its leaf, remote fault sent, the direction that arrives by it headed here,
and an announced closure cancelled. -/
def State.portDown (s : State) (p : Side) : State :=
  let s := (s.setPortState p 7).leaf (portLeaf p 0) (sideIx p) 0 true
  let s := if p = .east then s.setB F.RING_STATUS_east_up [] false else s.setB F.RING_STATUS_west_up [] false
  let s := (s.setHello p {}).setB F.RING_PORT_STATUS_peer_valid [sideIx p] false
  let s := s.cancelClosure.portsUnseen
  let s := s.when (s.isMaster && s.integrated && !s.portUp (otherSide p) && !s.ring.backups.isEmpty) fun s =>
    { s with ring := { s.ring with lapsing := true } }
  let s := s.becomeHead (rxPort p)
  let s := s.when s.integrated fun s => s.setMode 2
  s.sendControl p (blockOf remoteFault)

/-- A port that is declared down: one in hello or up. One still training falls back to down (R55). -/
def State.portFails (s : State) (p : Side) : State :=
  if s.portState p = 4 ∨ s.portState p = 5 ∨ s.portState p = 6 then s.portDown p
  else if 1 ≤ s.portState p ∧ s.portState p ≤ 3 then s.setPortState p 0
  else s

/-- BLOCK_LOCK_LOSS (R58, R92). -/
def execBlockLockLoss (p : Side) (s : State) : Host.Outcome State Fault Refusal :=
  if s.down .ring then .next s.clearOut else
  .next (s.clearOut.portFails p)

/-- LOSS_OF_SIGNAL (R92). -/
def execLossOfSignal (p : Side) (s : State) : Host.Outcome State Fault Refusal :=
  if s.down .ring then .next s.clearOut else
  .next (s.clearOut.portFails p)

/-- REMOTE_FAULT_RECEIVED (R92). -/
def execRemoteFaultReceived (p : Side) (s : State) : Host.Outcome State Fault Refusal :=
  if s.down .ring then .next s.clearOut else
  let s := s.clearOut
  .next (s.when (4 ≤ s.portState p && s.portState p ≤ 6) fun s => s.portDown p)

/-- PORT_DOWN_TIMEOUT (R92, R116): no valid header for 375 ns; it does not apply before the first header after the
hello. -/
def execPortDownTimeout (p : Side) (s : State) : Host.Outcome State Fault Refusal :=
  if s.down .ring then .next s.clearOut else
  let s := s.clearOut
  .next (s.when (s.portState p == 6 && (s.hello p).headerSeen) fun s => s.portDown p)

/-- REACH_TIMEOUT (R611, R163, R102, R107, R325). -/
def execReachTimeout (d : Side) (h : Nat) (s : State) : Host.Outcome State Fault Refusal :=
  if s.down .ring then .next s.clearOut else
  .next (((s.clearOut.reachLost d h).checkHeld h).checkClosureReach.portsUnseen)

/-! Hello (R110 to R112). -/

/-- A master that regains a port after it lost both has lost mastership to the part of its backups (R135): it leaves
integration and joins again by listening (DESIGN CHOICE, log entry 13). -/
def State.mastershipLapses (s : State) : State :=
  if s.ring.lapsing then
    let s := (((s.setMode 0).setPhase 4).leaveHead .east).leaveHead .west
    let s := s.setB F.RING_START_STATUS_is_master [] false
    let s := (s.setB F.RING_PAD_padding [0] false).setB F.RING_PAD_padding [1] false
    let s := { s with ring := { s.ring with closureWord := 0, loopAt := none, yielding := false, refRun := 0, refRound := none,
                                            lapsing := false } }
    (s.forgetSlots.showRing).leaf (ringLeaf 22)
  else s

/-- The port enters the up state (R111): the port-down and training records end, and a first port begins the start-up. -/
def State.portBecomesUp (s : State) (p : Side) : State :=
  let s := s.mastershipLapses
  let s := s.setPortState p 6
  let s := if p = .east then s.setB F.RING_STATUS_east_up [] true else s.setB F.RING_STATUS_west_up [] true
  let s := (s.recovered (portLeaf p 0)).recovered (portLeaf p 1)
  let s := s.setHello p { s.hello p with headerSeen := false }
  s.when (s.phase == 0) fun s => s.setPhase (if s.is F.RING_START_CTRL_cold_start then 1 else 4)

/-- The hello completes when three acks have come in a row and three have been sent (R111). -/
def State.helloCheck (s : State) (p : Side) : State :=
  if s.portState p = 5 ∧ (s.hello p).rxAcks ≥ 3 ∧ (s.hello p).txAcks ≥ 3 then s.portBecomesUp p else s

/-- The link hello of a deskewed port is in progress (R55). -/
def State.helloBegins (s : State) (p : Side) : State := s.when (s.portState p == 4) fun s => s.setPortState p 5

/-- Blocks of a direction in 1 µs, at 51.2 Gbit/s (R52). -/
def blocksPerUs : Nat := 800

/-- HELLO_SEND (R111): a hello block, and idle blocks up to the next one, 1 µs later. -/
def execHelloSend (p : Side) (s : State) : Host.Outcome State Fault Refusal :=
  if s.down .ring then .next s.clearOut else
  let s := s.clearOut
  if s.portState p = 4 ∨ s.portState p = 5 then
    let s := s.helloBegins p
    let x := s.hello p
    let s := s.sendControl p (blockOf (helloBlock s.hub (s.get F.RING_CTRL_round_len) x.compatible))
    let s := s.sendIdles p (blocksPerUs - 1)
    let s := s.setHello p { x with txAcks := if x.compatible then satInc x.txAcks 3 else 0 }
    .next (s.helloCheck p)
  else .next s

/-- Why a port refuses its peer (R112): version, round length or equal number. A hello that shows more than one reason counts
under the first in this order (DESIGN CHOICE, log entry 13). -/
def State.helloRefusal (s : State) (w : Nat) : Option Fld :=
  if natBits w 49 46 ≠ 2 then some F.RING_REFUSE_CNT_version
  else if natBits w 37 36 ≠ s.get F.RING_CTRL_round_len then some F.RING_REFUSE_CNT_round_len
  else if natBits w 41 38 > 3 ∨ natBits w 45 42 < natBits w 41 38 then some F.RING_REFUSE_CNT_version
  else if natBits w 55 50 = s.hub then some F.RING_REFUSE_CNT_duplicate
  else none

/-- HELLO_RECEIVED (R110 to R112): a sound hello block of the peer. -/
def execHelloReceived (p : Side) (blk : Block) (s : State) : Host.Outcome State Fault Refusal :=
  if s.down .ring then .next s.clearOut else
  let s := s.clearOut
  let w := blk.toNat
  if s.portState p = 4 ∨ s.portState p = 5 then
    let s := s.helloBegins p
    let x := s.hello p
    if controlSound w 0xB6 then
      let s := (s.set F.RING_PORT_STATUS_peer_hub [sideIx p] (natBits w 55 50)).setB F.RING_PORT_STATUS_peer_valid [sideIx p] true
      match s.helloRefusal w with
      | some cnt =>
        let s := s.setHello p { x with compatible := false, rxAcks := 0, txAcks := 0, refused := true }
        .next (if x.refused then s else (s.inc cnt).leaf (portLeaf p 2) (sideIx p))
      | none =>
        let ack := natBit w 35
        let s := s.setHello p { x with compatible := true, refused := false, rxAcks := if ack then satInc x.rxAcks 3 else 0 }
        .next (s.helloCheck p)
    else .next (s.setHello p { x with rxAcks := 0 })
  else .next s

/-! Cold start (R118 to R122). -/

/-- LISTEN_WINDOW_END (R118, R119). -/
def execListenWindowEnd (s : State) : Host.Outcome State Fault Refusal :=
  if s.down .ring then .next s.clearOut else
  let s := s.clearOut
  .next (s.when (s.phase == 1) fun s => s.setPhase 2)

/-- BACKOFF_END (R119): the contention window begins. -/
def execBackoffEnd (s : State) : Host.Outcome State Fault Refusal :=
  if s.down .ring then .next s.clearOut else
  let s := s.clearOut
  .next (s.when (s.phase == 2) fun s =>
    let s := (s.setPhase 3).set F.RING_START_STATUS_best_candidate [] s.hub
    { s with ring := { s.ring with bestSeen := some (s.ownPair, s.now .a) } })

/-- 2 ms in domain units (R121). -/
def twoMs : Nat := 2000000 * unitsPerNs

/-- A pair recorded within the preceding 2 ms that is lower than another. -/
def State.lowerPair (s : State) (seen : Option (Nat × Nat)) (pair : Nat) : Bool :=
  match seen with
  | some (p, t) => p < pair && s.now .a - t ≤ twoMs
  | none => false

/-- A contend block with a lower pair has been relayed or sent in the preceding 2 ms (R121). -/
def State.lowerContend (s : State) (pair : Nat) : Bool := s.ring.contends.any fun e => s.lowerPair (some e) pair

/-- A contend block has been relayed or sent: it is kept for 2 ms, and no earlier one that is no lower beside it. -/
def State.contended (s : State) (pair : Nat) : State :=
  let kept := s.ring.contends.filter fun e => s.lowerPair (some e) pair
  { s with ring := { s.ring with contends := kept ++ [(pair, s.now .a)] } }

/-- A candidate has been seen: the lowest of a contention is shown as its best (RING_START_STATUS). -/
def State.candidateSeen (s : State) (pair : Nat) : State :=
  if s.lowerPair s.ring.bestSeen pair then s
  else
    let s := s.set F.RING_START_STATUS_best_candidate [] (pair % 64)
    { s with ring := { s.ring with bestSeen := some (pair, s.now .a) } }

/-- CONTEND_SEND (R119, R120). -/
def execContendSend (s : State) : Host.Outcome State Fault Refusal :=
  if s.down .ring then .next s.clearOut else
  let s := s.clearOut
  if s.phase = 3 then
    let b := blockOf (contendBlock s.hub (s.get F.RING_START_CTRL_rank))
    let s := s.when (s.portUp .east) fun s => s.sendControl .east b
    let s := s.when (s.portUp .west) fun s => s.sendControl .west b
    .next (s.when (s.portUp .east || s.portUp .west) fun s => s.contended s.ownPair)
  else .next s

/-- CONTEND_RECEIVED (R121): relayed out of the other port unless a lower one has gone out in 2 ms; a candidate that sees
a lower pair stops contending and waits for reference slots. -/
def execContendReceived (p : Side) (blk : Block) (s : State) : Host.Outcome State Fault Refusal :=
  if s.down .ring then .next s.clearOut else
  let s := s.clearOut
  let w := blk.toNat
  if s.portUp p ∧ controlSound w 0xB7 then
    let pair := natBits w 49 46 * 64 + natBits w 55 50
    let relay := !s.lowerContend pair && s.portUp (otherSide p)
    let s := s.when relay fun s => (s.sendControl (otherSide p) blk).contended pair
    let s := s.candidateSeen pair
    .next (s.when ((s.phase == 2 || s.phase == 3) && pair < s.ownPair) fun s => s.setPhase 4)
  else .next s

/-- The hub becomes ring time master (R122, R134, R136). -/
def State.takeMastership (s : State) : State :=
  let s := (s.setB F.RING_START_STATUS_is_master [] true).set F.RING_STATUS_master_hub [] s.hub
  let s := (s.set F.RING_START_STATUS_backup_pos [] 0).setB F.RING_START_STATUS_no_master [] false
  let s := { s with ring := { s.ring with backups := s.ring.backups.filter (fun h => h != s.hub), refMissing := 0, lossRounds := none } }
  (s.showRing).leaf (ringLeaf 22)

/-- A new master in loop mode starts line mode as head of both directions (R134). -/
def State.lineMaster (s : State) : State :=
  s.when (s.get F.RING_STATUS_mode == 1) fun s => (s.becomeHead .east).becomeHead .west

/-- A new master acts for the domain A of the ring: the sources in TIME_DOM_CFG(A) apply (R366). -/
def State.sourcesApply (s : State) : State := s.checkSources .a

/-- CONTENTION_WINDOW_END (R122): a candidate that has seen no lower block becomes master and starts at the next round
boundary, taking the round number from its own time core. -/
def execContentionWindowEnd (s : State) : Host.Outcome State Fault Refusal :=
  if s.down .ring then .next s.clearOut else
  let s := s.clearOut
  if s.phase = 3 then
    let s := s.setRound (s.now16 .a / s.round16)
    let s := (s.setPhase 6).takeMastership
    .next { s with ring := { s.ring with starting := true, originated := false } }
  else .next s

/-! Mastership (R133 to R138). -/

/-- No reference slot has come for three rounds (R133, R137): a part in which no backup is reached has no master. -/
def State.referenceLost (s : State) : State :=
  let reached := s.ring.backups.any fun h => h < 64 && (h == s.hub || s.is F.RING_REACH_eg_reach [h] || s.is F.RING_REACH_wg_reach [h])
  s.when (!reached && !s.is F.RING_START_STATUS_no_master) fun s =>
    (s.setB F.RING_START_STATUS_no_master [] true).leaf (ringLeaf 23)

/-- MASTER_LOST (R133): a backup declares the master lost after three whole rounds without a reference. -/
def execMasterLost (s : State) : Host.Outcome State Fault Refusal :=
  if s.down .ring then .next s.clearOut else
  let s := s.clearOut
  if s.followsRing ∧ s.get F.RING_START_STATUS_backup_pos ≠ 0 ∧ s.ring.refMissing ≥ 3 ∧ s.ring.lossRounds = none then
    .next { s with ring := { s.ring with lossRounds := some 0 } }
  else .next s

/-- The hubs whose tracked copies are current now, one bit each: those from which the next round starts (R612). -/
def State.currentHubs (s : State) : Nat :=
  (List.range 64).foldl (fun a h => if s.copyCurrent .east h || s.copyCurrent .west h then a + 2 ^ h else a) 0

/-- The round's record of current copies begins anew, on every hub (R612). -/
def State.seenRound (s : State) : State :=
  { s with ring := { s.ring with currentSeen := s.currentHubs, seenBefore := s.ring.currentSeen } }

/-- The integrated bitmap of the master (R612): its own bit, and every hub whose tracked copy is or was current in the
round that ended, with those of `seen`. -/
def State.masterBitmap (s : State) (seen : Nat := 0) : State :=
  let bm := (List.range 64).foldl (fun a h =>
    if h = s.hub ∨ s.copyCurrent .east h ∨ s.copyCurrent .west h ∨ natBit (s.ring.currentSeen ||| seen) h then a + 2 ^ h else a) 0
  { s with ring := { s.ring with bitmap := bm } }

/-- BACKUP_TAKEOVER (R133, R134): backup k becomes master k − 1 rounds after the loss, unless a reference has arrived. -/
def execBackupTakeover (s : State) : Host.Outcome State Fault Refusal :=
  if s.down .ring then .next s.clearOut else
  let s := s.clearOut
  match s.ring.lossRounds with
  | some n =>
    if s.get F.RING_START_STATUS_backup_pos ≤ n + 1 then
      let s := (s.takeMastership.lineMaster.sourcesApply).masterBitmap s.ring.seenBefore
      .next { s with ring := { s.ring with originated := true } }
    else .next s
  | none => .next s

/-- A handoff announced by the master to backup 1, 5 rounds ahead, where R136 asks for at least 4 (DESIGN CHOICE, log entry
13); refused with the ring's leaf 18 when
there is no backup or a handoff is pending. -/
def State.announceHandoff (s : State) : State :=
  if s.isMaster then
    match s.ring.backups with
    | h :: _ =>
      if h < 64 ∧ ¬ natBit s.ring.handoffWord 63 then
        { s with ring := { s.ring with handoffWord := 2 ^ 63 + h * 2 ^ 56 + (s.round + 5) % 2 ^ 48 } }
      else s.leaf (ringLeaf 18)
    | [] => s.leaf (ringLeaf 18)
  else s

/-- A master becomes a backup (R136, R138). What waits in its pad buffers is dropped (R101). -/
def State.giveUpMastership (s : State) : State :=
  let s := [Side.east, .west].foldl (fun s d =>
    let s := (s.rdir d).padBuffer.foldl (fun s e => s.slotLost d e.2) s
    s.setRdir d { s.rdir d with padBuffer := [], draining := false }) s
  let s := s.setB F.RING_START_STATUS_is_master [] false
  let s := (s.setB F.RING_PAD_padding [0] false).setB F.RING_PAD_padding [1] false
  let s := { s with ring := { s.ring with closureWord := 0, yielding := false, refSeen := true, refMissing := 0,
                                          masterSeen := true, masterMissing := 0 },
                    time := { s.time with refUsed := true, unmeasured := 0 } }
  (s.showRing).leaf (ringLeaf 22)

/-- A master that yields (R138, R139): it heads no direction whose stream comes in, and locks to the winner's timing. -/
def State.yieldMastership (s : State) : State :=
  let s := s.giveUpMastership
  let s := [Side.east, .west].foldl (fun s d => s.when (s.isHead d && s.portUp (rxPort d)) fun s => s.leaveHead d) s
  { s with ring := { s.ring with relocking := true, refRound := none } }

/-- A handoff takes effect at its round (R136): the new master pads the directions that are padded. -/
def State.handoffRound (s : State) : State :=
  let w := s.ring.handoffWord
  if natBit w 63 && natBits w 47 0 == s.round % 2 ^ 48 then
    let h := natBits w 61 56
    let s := { s with ring := { s.ring with handoffWord := 0 } }
    if h = s.hub then
      let s := s.takeMastership.sourcesApply
      let s := [0, 1].foldl (fun s d => s.setB F.RING_PAD_padding [d] (s.is F.RING_PAD_pad [d])) s
      { s with ring := { s.ring with originated := true } }
    else
      let s := if s.isMaster then s.giveUpMastership
        else s.when (s.get F.RING_STATUS_master_hub != h) fun s => s.leaf (ringLeaf 22)
      let s := s.set F.RING_STATUS_master_hub [] h
      { s with ring := { s.ring with refMaster := h } }
  else s

/-- Insert into a list kept in ascending order of a key. -/
def insertBy (key : Nat → Nat) (x : Nat) : List Nat → List Nat
  | [] => [x]
  | y :: ys => if key x < key y then x :: y :: ys else y :: insertBy key x ys

/-- The backup list of a master (R131): the integrated cold-start capable hubs other than itself in order of (rank, hub),
at most 16. -/
def State.backupList (s : State) : List Nat :=
  let hs := (List.range 64).filter fun h =>
    h != s.hub && natBit s.ring.bitmap h && s.is F.RING_HUBMAP_INFO_present [h] && s.is F.RING_HUBMAP_INFO_cold_start [h]
  (hs.foldl (fun l h => insertBy s.pairOf h l) []).take 16

/-- This hub's position on the backup list. -/
def State.showBackup (s : State) : State :=
  let pos := match s.ring.backups.findIdx? (fun h => h == s.hub) with | some i => i + 1 | none => 0
  s.set F.RING_START_STATUS_backup_pos [] (if s.isMaster then 0 else pos)

/-- The hub map is complete: every hub of the integrated bitmap is present, this hub counting as present (R129). No bitmap is
complete while none has been heard. -/
def State.showComplete (s : State) : State :=
  s.setB F.RING_START_STATUS_hubmap_complete []
    (s.ring.bitmap != 0 && (List.range 64).all fun h => !natBit s.ring.bitmap h || h == s.hub || s.is F.RING_HUBMAP_INFO_present [h])

/-- The highest minor version within the ranges of every integrated hub (R113). -/
def State.commonMinor (s : State) : Nat :=
  (List.range 64).foldl (fun a h =>
    if h ≠ s.hub ∧ natBit s.ring.bitmap h ∧ s.is F.RING_HUBMAP_INFO_present [h] then min a (s.get F.RING_HUBMAP_INFO_minor_max [h]) else a) 3

/-- The master keeps the version word: a change is announced 5 rounds ahead, where R114 asks for at least 4 (R113, R114; DESIGN
CHOICE, log entry 13). -/
def State.masterVersion (s : State) : State :=
  let cur := s.get F.RING_START_STATUS_ring_minor
  let want := s.commonMinor
  if natBit s.ring.versionWord 59 then s
  else if want = cur then { s with ring := { s.ring with versionWord := cur * 2 ^ 60 } }
  else { s with ring := { s.ring with versionWord := cur * 2 ^ 60 + 2 ^ 59 + want * 2 ^ 52 + (s.round + 5) % 2 ^ 48 } }

/-- A change of the ring minor version takes effect at its round (R114). -/
def State.versionRound (s : State) : State :=
  let w := s.ring.versionWord
  if natBit w 59 && natBits w 47 0 == s.round % 2 ^ 48 then
    let v := natBits w 55 52
    let s := s.set F.RING_START_STATUS_ring_minor [] v
    { s with ring := { s.ring with versionWord := v * 2 ^ 60 } }
  else s

/-! Integration (R117, R124 to R126, R132, R139). -/

/-- A direction whose receive port is not up has its head here (R82). -/
def State.headAtEnds (s : State) : State :=
  [Side.east, .west].foldl (fun s d => s.when (!s.portUp (rxPort d)) fun s => s.becomeHead d) s

/-- Domain A steps to the reference at integration (R366): from free-run and holdover it acquires, and a change of source
leaves any other state as it is (R363, R364). -/
def State.alignRing (s : State) (theta : Int) : State :=
  let s := ({ s with time := { s.time with alignDue := false } } : State).domStep .a theta
  s.when (s.domState .a == freeRun || s.domState .a == holdover) fun s => (s.clearRuns .a).toDomState .a acquiring

/-- The hub integrates with a master (R124, R126, R143, R366): slot timing and round locked, the mode taken from the
reference, a silent turn of 32 rounds, its spare-slot request begun anew, and domain A stepped to the reference with the
first copy that is measured. -/
def State.integrate (s : State) (master r : Nat) (line : Bool) (theta : Option Int) : State :=
  let s := (s.setRound r).set F.RING_STATUS_master_hub [] master
  let s := s.setMode (if line then 2 else 1)
  let s := (s.forgetSlots.setPhase 5).setB F.RING_START_STATUS_no_master [] false
  let s := { s with ring := { s.ring with silentLeft := 32, roundsIntegrated := 0, relocking := false, refSeen := true, refMissing := 0,
                                          masterSeen := true, masterMissing := 0, lossRounds := none, delivered := [],
                                          spareIndex := 0, spareRounds := none },
                    time := { s.time with alignDue := true, refUsed := true, unmeasured := 0 },
                    twin := { s.twin with heartbeatSent := false } }
  let s := (s.set F.RING_SPARE_STATUS_state [] 0).showRing
  match theta with
  | some th => s.alignRing th
  | none => s

/-- The hub leaves integration: it forwards under R117. -/
def State.leaveIntegration (s : State) : State :=
  let s := (((s.setMode 0).setPhase 7).leaveHead .east).leaveHead .west
  let s := s.setB F.RING_START_STATUS_is_master [] false
  let s := (s.setB F.RING_PAD_padding [0] false).setB F.RING_PAD_padding [1] false
  let s := { s with ring := { s.ring with refRun := 0, refRound := none, silentLeft := 0, relocking := false,
                                          closureWord := 0, loopAt := none, yielding := false, lossRounds := none,
                                          lapsing := false },
                    time := { s.time with alignDue := false } }
  s.forgetSlots.showRing.checkSources .a

/-- Integration is refused or ended, counted in RING_REFUSE_CNT with its leaf (R114, R125, R132, R139). -/
def State.refuseIntegration (s : State) (cnt : Fld) : State := (s.leaveIntegration.inc cnt).leaf (ringLeaf 19)

/-- The hub withdraws (R132): it tries again after 64 rounds. -/
def State.withdraw (s : State) : State :=
  let s := s.refuseIntegration F.RING_REFUSE_CNT_duplicate
  { s with ring := { s.ring with withdrawnLeft := 64 } }

/-- A hub of the hub map whose minor range excludes this hub's 0–3 would leave no common version (R114). -/
def State.noCommonVersion (s : State) : Bool :=
  (List.range 64).any fun h => h != s.hub && s.is F.RING_HUBMAP_INFO_present [h] && s.get F.RING_HUBMAP_INFO_minor_min [h] > 3

/-- Every hub copies the master's facts about the ring from a reference payload (R130, R145). -/
def State.copyMap (s : State) (pl : List Byte) : State :=
  let s := { s with ring := { s.ring with bitmap := beAt pl 344 8, versionWord := beAt pl 352 8,
                                          backups := ((slice pl 360 16).map (fun b : Byte => b.toNat)).filter (fun h => h < 64),
                                          handoffWord := beAt pl 376 8,
                                          grants := (List.range 64).map fun i => beAt pl (88 + 4 * i) 4 } }
  let s := s.set F.RING_START_STATUS_ring_minor [] (natBits (beAt pl 352 8) 63 60)
  (s.showBackup).showComplete

/-- A reference slot of a master other than the one a listening hub has heard, and of a higher pair, is passed over while
that one is still heard (R138; five in succession end it: DESIGN CHOICE, log entry 13). -/
def State.passedOver (s : State) (master : Nat) : Bool :=
  s.ring.refRound.isSome && master != s.ring.refMaster && s.pairOf s.ring.refMaster < s.pairOf master && s.ring.refOther < 5

/-- A hub that is not integrated hears a valid reference slot of a master for round r (R118, R124, R125, R130, R138); it
integrates only once it is ring-ready (R503). -/
def State.hearReference (s : State) (master r gen : Nat) (line : Bool) (theta : Option Int) (pl : List Byte) : State :=
  if s.passedOver master then { s with ring := { s.ring with refOther := s.ring.refOther + 1 } }
  else
    let late := s.ring.refMaster == master && r < s.ring.refRound.getD 0
    let s := ({ s with ring := { s.ring with refOther := 0, heardGen := gen } } : State).when (!late) fun s => s.copyMap pl
    if late then s
    else if s.ring.withdrawnLeft > 0 || s.get F.CFG_STATUS_state != 5 then s
    else if gen ≠ s.ring.schedGen then
      let s := { s with ring := { s.ring with refRound := none, refRun := 0 } }
      if s.phase = 7 then s else ((s.setPhase 7).inc F.RING_REFUSE_CNT_sched_gen).leaf (ringLeaf 19)
    else if s.noCommonVersion then
      if s.phase = 7 then s else ((s.setPhase 7).inc F.RING_REFUSE_CNT_version).leaf (ringLeaf 19)
    else
      let s := s.when (s.phase != 4) fun s => s.setPhase 4
      let locks := s.ring.refRound = some (r - 1) ∧ r ≥ 1 ∧ s.ring.refMaster = master
      let s := { s with ring := { s.ring with refRound := some r, refMaster := master } }
      if locks then s.integrate master r line theta else s

/-! The hub map (R127, R128, R132). -/

/-- The control record of this hub (R127, R143). -/
def State.controlRecord (s : State) : List Byte :=
  let b4 := b2n (s.is F.RING_START_CTRL_cold_start) * 128 + b2n (!s.is F.RING_STATUS_transit_active && !s.dying) * 64
    + b2n (s.is F.RING_STATUS_transit_active) * 32 + b2n (s.portUp .east) * 16 + b2n (s.portUp .west) * 8
  let req := match s.get F.RING_SPARE_STATUS_state with
    | 1 =>
      let n := s.get F.RING_SPARE_STATUS_slot
      [byte (128 + s.get F.RING_SPARE_STATUS_dir * 32 + n / 256), byte n] ++ beBytes 2 s.ring.spareRequest
    | _ => zeros 4
  [byte 1, byte s.hub, byte (2 * 16 + 3), byte (s.get F.RING_START_CTRL_rank), byte b4, byte (s.ring.schedGen % 128)]
    ++ beBytes 2 (s.hub * 2 ^ 10 + 0x3E3) ++ beBytes 8 s.uid
    ++ beBytes 4 (s.get F.RING_LINK_DELAY_link_delay [0]) ++ beBytes 4 (s.get F.RING_LINK_DELAY_link_delay [1])
    ++ beBytes 2 s.ring.fwVersion ++ beBytes 2 (min s.ring.roundsIntegrated 65535) ++ zeros 4 ++ req ++ zeros 92

/-- The hub map has changed: a failed requester tries again from its first entry (R148), and completeness is shown. -/
def State.hubMapChanged (s : State) : State :=
  let s := s.when (s.get F.RING_SPARE_STATUS_state == 3) fun s =>
    let s := { s with ring := { s.ring with spareIndex := 0, spareRounds := none } }
    s.set F.RING_SPARE_STATUS_state [] 0
  let s := s.set F.RING_SPARE_STATUS_attempts [] 0
  s.showComplete

/-- RING_HUBMAP_INFO of a control record (R127, R128). -/
def infoWord (r : List Byte) : Nat :=
  let b4 := byteAt r 4
  2 ^ 31 + natBits b4 6 6 * 2 ^ 30 + natBits b4 5 5 * 2 ^ 29 + natBits b4 7 7 * 2 ^ 28 + byteAt r 3 % 16 * 2 ^ 24
    + byteAt r 3 / 16 * 2 ^ 20 + byteAt r 2 % 16 * 2 ^ 16 + byteAt r 24 * 2 ^ 8 + byteAt r 25

/-- What a control record written in a round with this round_low says beside it (R127). -/
def announcementOf (r : List Byte) (round : Nat) : Announcement :=
  { fresh := true, eastUp := natBit (byteAt r 4) 4, westUp := natBit (byteAt r 4) 3, eastDelay := beAt r 16 4 % 2 ^ 24,
    westDelay := beAt r 20 4 % 2 ^ 24, missed := 0, heard := some round }

/-- A control record of hub h, written in a round with this round_low, is entered into the hub map (R128), and its spare-slot
request is served by the master (R144). A hub in its silent turn that learns of a hub it shares no version with is refused
(R114). -/
def State.enterRecord (s : State) (h : Nat) (r : List Byte) (round : Nat) : State :=
  let was := s.is F.RING_HUBMAP_INFO_present [h]
  let s := s.wr .RING_HUBMAP_INFO [h] (infoWord r)
  let s := (s.wr .RING_HUBMAP_UID_LO [h] (beAt r 12 4)).wr .RING_HUBMAP_UID_HI [h] (beAt r 8 4)
  let s := s.setAnn h (announcementOf r round)
  let s := if was then s.showComplete else (s.streamRestart h).hubMapChanged
  let s := s.when (s.phase == 5 && byteAt r 3 / 16 > 3) fun s => s.refuseIntegration F.RING_REFUSE_CNT_version
  s.when (s.isMaster && natBit (byteAt r 32) 7) fun s =>
    s.serveRequest h (natBit (byteAt r 32) 6) (natBits (byteAt r 32) 5 5) (byteAt r 32 % 2 * 256 + byteAt r 33)

/-- This hub's own announcement as it passes is entered too (R128); nothing starts or ends with it. -/
def State.enterOwn (s : State) (r : List Byte) (round : Nat) : State :=
  let s := (s.wr .RING_HUBMAP_INFO [s.hub] (infoWord r)).wr .RING_HUBMAP_UID_LO [s.hub] (beAt r 12 4)
  let s := s.wr .RING_HUBMAP_UID_HI [s.hub] (beAt r 8 4)
  (s.setAnn s.hub (announcementOf r round)).showComplete

/-- A record of this hub's own number with another die number (R132). -/
def State.duplicateRecord (s : State) (r : List Byte) : State :=
  let own := min s.ring.roundsIntegrated 65535
  let theirs := beAt r 26 2
  if own < 64 then s.withdraw
  else if theirs < 64 then s
  else if beAt r 8 8 < s.uid then s.withdraw
  else s

/-- The control record in position 0 of a valid copy of a command slot of hub `owner`, written in a round with this
round_low (R127, R128, R132). -/
def State.recordArrives (s : State) (owner : Nat) (r : List Byte) (round : Nat) : State :=
  if byteAt r 0 = 1 ∧ byteAt r 1 = owner then
    if owner = s.hub then (if beAt r 8 8 = s.uid ∨ ¬ s.integrated then s.enterOwn r round else s.duplicateRecord r)
    else s.enterRecord owner r round
  else s

/-- A master serves its own request as its command slot ends, in the order of the slots (R144). -/
def State.serveOwn (s : State) : State :=
  s.when (s.isMaster && s.get F.RING_SPARE_STATUS_state == 1) fun s =>
    s.serveRequest s.hub false (s.get F.RING_SPARE_STATUS_dir) (s.get F.RING_SPARE_STATUS_slot)

/-- A command slot of hub h with this round_low has ended (R128): without a valid record twice in succession, present
clears; cells toward it are discarded (R326) and the master ends its grants (R147). -/
def State.commandSlotPassed (s : State) (h round : Nat) : State :=
  let x := s.ann h
  if h = s.hub then s.serveOwn
  else if x.heard = some round then s
  else
    let s := s.setAnn h { x with missed := satInc x.missed 2 }
    if x.missed ≥ 1 ∧ s.is F.RING_HUBMAP_INFO_present [h] then
      let s := s.setB F.RING_HUBMAP_INFO_present [h] false
      let s := s.when s.isMaster fun s => s.endGrants h
      (s.hubMapChanged).unreachable h
    else s

/-- The hub of command slot 1 or 2 of a round (R72). -/
def commandHub (n round : Nat) : Nat := 2 * (round % 32) + (n - 1)

/-- Command slot n as it passes. -/
def State.cmdPass (s : State) (n : Nat) : CommandPass := if n = 1 then s.ring.pass1 else s.ring.pass2

/-- Command slot n as it passes, replaced. -/
def State.setCmdPass (s : State) (n : Nat) (x : CommandPass) : State :=
  if n = 1 then { s with ring := { s.ring with pass1 := x } } else { s with ring := { s.ring with pass2 := x } }

/-- The end of command slot n is judged, once (R128). -/
def State.judgePass (s : State) (n : Nat) : State :=
  let x := s.cmdPass n
  if x.judged then s
  else (s.setCmdPass n { x with judged := true }).commandSlotPassed (commandHub n x.round) x.round

/-- A direction brings a stream of slots to this hub. -/
def State.streams (s : State) (d : Side) : Bool := s.portUp (rxPort d) && (s.hello (rxPort d)).headerSeen

/-- Command slot n of a round passes in a direction, blank or not, or its position passes (R128): it has ended once it has
passed in each that brings a stream; one that has not when the next passes has ended then. -/
def State.commandPasses (s : State) (d : Side) (n round : Nat) : State :=
  let s := if (s.cmdPass n).round = round then s else (s.judgePass n).setCmdPass n { round := round, judged := false }
  let x := s.cmdPass n
  let x := if d = .east then { x with east := true } else { x with west := true }
  let s := s.setCmdPass n x
  if (x.east || !s.streams .east) && (x.west || !s.streams .west) then s.judgePass n else s

/-! Spare-slot requests of this hub (R143, R148). -/

/-- The valid preferred entries of this hub: direction and slot. -/
def State.preferredList (s : State) : List (Nat × Nat) :=
  (s.ring.preferred.filter (fun w => natBit w 31)).map fun w => (natBits w 30 30, natBits w 8 0)

/-- The entry this hub asks for has been granted to it. -/
def State.grantSeen (s : State) (dir n : Nat) : Bool :=
  s.grantTable.any fun w => s.grantNames w dir n && grantOwner w == s.hub && !grantEnding w

/-- The request for the current preferred entry is shown, and goes out in the announcement. -/
def State.requestEntry (s : State) (dir n : Nat) : State :=
  let s := (s.set F.RING_SPARE_STATUS_state [] 1).set F.RING_SPARE_STATUS_dir [] dir
  let s := (s.set F.RING_SPARE_STATUS_slot [] n).inc F.RING_SPARE_STATUS_attempts
  { s with ring := { s.ring with spareRequest := (s.ring.spareRequest + 1) % 2 ^ 16, spareRounds := some 0 } }

/-- The next request at a command slot of this hub, after its silent turn (R143, R148). -/
def State.nextRequest (s : State) : State :=
  if s.get F.RING_SPARE_STATUS_state = 0 then
    match s.preferredList[s.ring.spareIndex]? with
    | some (dir, n) => s.requestEntry dir n
    | none => s
  else s

/-- A grant of this hub's request is seen. Its end leaves the state granted, and the hub asks no more until it integrates
again (DESIGN CHOICE, log entry 15). -/
def State.checkGrant (s : State) : State :=
  if s.get F.RING_SPARE_STATUS_state = 1 ∧ s.grantSeen (s.get F.RING_SPARE_STATUS_dir) (s.get F.RING_SPARE_STATUS_slot) then
    let s := s.set F.RING_SPARE_STATUS_state [] 2
    { s with ring := { s.ring with spareRounds := none } }
  else s

/-- SPARE_REQUEST_TIMEOUT (R148): no grant within 8 rounds: the next preferred entry, or failed with its leaf. -/
def execSpareRequestTimeout (s : State) : Host.Outcome State Fault Refusal :=
  if s.down .ring then .next s.clearOut else
  let s := s.clearOut
  match s.ring.spareRounds with
  | some n =>
    if s.get F.RING_SPARE_STATUS_state = 1 ∧ n ≥ 8 then
      let s := { s with ring := { s.ring with spareIndex := s.ring.spareIndex + 1, spareRounds := none } }
      if s.ring.spareIndex < s.preferredList.length then .next (s.set F.RING_SPARE_STATUS_state [] 0)
      else .next ((s.set F.RING_SPARE_STATUS_state [] 3).leaf (ringLeaf 20))
    else .next s
  | none => .next s

/-- Hubs heard in a direction alone: they lie beyond the end of the line (R152). -/
def State.heardOnly (s : State) (d : Side) (h : Nat) : Bool :=
  h != s.hub && s.copyCurrent d h && !s.copyCurrent (otherSide d) h

/-- The hubs beyond the end of the line are connected on this side alone: one of them has announced a port that is not up. -/
def State.segmentOpen (s : State) (d : Side) : Bool :=
  (List.range 64).any fun h => s.heardOnly d h && s.is F.RING_HUBMAP_INFO_present [h] && !((s.ann h).eastUp && (s.ann h).westUp)

/-- A head of a line carries on what a hub heard only on the side it faces writes (R152): of two heads that hear the same hubs
the east-going one (DESIGN CHOICE, log entry 14). -/
def State.relaysFor (s : State) (d : Side) (h : Nat) : Bool := s.isHead d && s.heardOnly d h && (d == .east || s.segmentOpen d)

/-! Closure (R102 to R107). -/

/-- The number of integrated hubs. -/
def State.hubCount (s : State) : Nat := ((List.range 64).filter fun h => natBit s.ring.bitmap h).length

/-- Both ports of a link from this hub's port p are up: the peer of its hello is an integrated hub (R102, R123). -/
def State.peerIntegrated (s : State) (p : Side) : Bool :=
  s.is F.RING_PORT_STATUS_peer_valid [sideIx p] && natBit s.ring.bitmap (s.get F.RING_PORT_STATUS_peer_hub [sideIx p])

/-- Every port of every link is up, as the announcements show them, this hub's own ports as they are (R102, R123). A hub
more hops away than the integrated hubs account for shows a link whose ports no announcement shows (DEDUCED, log entry 14). -/
def State.allLinksUp (s : State) : Bool :=
  s.portUp .east && s.portUp .west && s.peerIntegrated .east && s.peerIntegrated .west &&
    (List.range 64).all fun h => !natBit s.ring.bitmap h || h == s.hub
      || ((s.ann h).fresh && (s.ann h).eastUp && (s.ann h).westUp
          && (!s.is F.RING_REACH_eg_reach [h] || s.get F.RING_REACH_eg_hops [h] < s.hubCount)
          && (!s.is F.RING_REACH_wg_reach [h] || s.get F.RING_REACH_wg_hops [h] < s.hubCount))

/-- The loop delay L of a direction in units of 2^-8 ns (R79): 120 ns a hub, and the receive delays of its links. -/
def State.loopDelay (s : State) (d : Side) : Nat :=
  s.hubCount * 120 * 256 + (List.range 64).foldl (fun a h =>
    if natBit s.ring.bitmap h then
      a + (if h = s.hub then s.get F.RING_LINK_DELAY_link_delay [sideIx (rxPort d)]
           else if d = .east then (s.ann h).westDelay else (s.ann h).eastDelay)
    else a) 0

/-- Loop mode is possible in a direction (R80). -/
def State.loopPossible (s : State) (d : Side) : Bool := s.loopDelay d + 200 * 256 ≤ s.roundNs * 256

/-- The closure word of a code and round (R73). -/
def closureOf (code round : Nat) : Nat := code * 2 ^ 62 + round % 2 ^ 48

/-- A hub takes a closure word (R103, R107): the directions it names close at their rounds; a withdrawn word cancels. A word it
has cancelled, or that finds one of its ports down, it does not take up. -/
def State.takeClosureWord (s : State) (w : Nat) : State :=
  let code := natBits w 63 62
  let c := natBits w 47 0
  if code = 0 then
    let s := s.when (s.is F.RING_STATUS_closure_pending && (s.ring.eg.closing.getD 0 > s.round || s.ring.wg.closing.getD 0 > s.round))
      fun s => s.cancelClosure
    { s with ring := { s.ring with closureTaken := 0, closureOff := 0 } }
  else if s.is F.RING_STATUS_closure_pending || w == s.ring.closureOff || c ≤ s.round then s
  else if !s.portUp .east || !s.portUp .west then { s with ring := { s.ring with closureOff := w } }
  else
    let s : State := { s with ring := { s.ring with closureTaken := w } }
    let s := s.when (code == 1 || code == 3) fun s => s.setRdir .east { s.rdir .east with closing := some c }
    let s := s.when (code == 2) fun s => s.setRdir .west { s.rdir .west with closing := some c }
    let s := s.when (code == 3) fun s => s.setRdir .west { s.rdir .west with closing := some (c + 2) }
    let s := s.when (code == 3) fun s => { s with ring := { s.ring with loopAt := some (c + 3) } }
    s.setB F.RING_STATUS_closure_pending [] true

/-- Closure of a direction is refused: it runs in line mode until the ring is started again (R80, R102). -/
def State.refuseClosure (s : State) (d : Side) : State :=
  ((s.setRdir d { s.rdir d with closureRefused := true }).setB F.RING_STATUS_closure_refused [] true).leaf (ringLeaf 17)

/-- A closure that is pending is withdrawn when the hub map is no longer complete, or when loop mode is no longer possible in
a direction it names (R80, R102; the hub map is a DESIGN CHOICE, log entry 14). -/
def State.checkClosure (s : State) : State :=
  let bad (d : Side) : Bool := (match (s.rdir d).closing with | some c => s.round < c | none => false) && !s.loopPossible d
  if s.ring.closureWord != 0 && (!s.is F.RING_START_STATUS_hubmap_complete || bad .east || bad .west) then s.cancelClosure else s

/-- A padded direction in which loop mode is no longer possible returns to line mode, with the master as its head (R80). -/
def State.checkPads (s : State) : State :=
  [Side.east, .west].foldl (fun s d => s.when (s.isPadding d && !s.loopPossible d) fun s => (s.refuseClosure d).becomeHead d) s

/-- The master attempts a closure when the hub map is complete and every link is up (R102, R103, R123), and announces it 4
rounds ahead, the least R103 allows (DESIGN CHOICE, log entry 14). -/
def State.attemptClosure (s : State) : State :=
  if s.isMaster && s.ring.originated && s.get F.RING_STATUS_mode == 2 && !s.is F.RING_STATUS_closure_pending && s.ring.closureWord == 0
      && s.is F.RING_START_STATUS_hubmap_complete && s.allLinksUp then
    let may (d : Side) : Bool := !s.isPadding d && !(s.rdir d).closureRefused
    let refuse (s : State) (d : Side) : State := s.when (may d && !s.loopPossible d) fun s => s.refuseClosure d
    let eg := may .east && s.loopPossible .east
    let wg := may .west && s.loopPossible .west
    let s := refuse (refuse s .east) .west
    let code := b2n eg + 2 * b2n wg
    if code = 0 then s
    else
      let w := closureOf code (s.round + 4)
      let s := { s with ring := { s.ring with closureWord := w, closureReach := s.reachFlags } }
      (s.setB F.RING_STATUS_closure_refused [] (s.ring.eg.closureRefused || s.ring.wg.closureRefused)).takeClosureWord w
  else s

/-- A direction closes at its round (R105): the head forwards again, and the master pads, filling the positions from what
arrived one pad and 120 ns earlier. -/
def State.closeDirection (s : State) (d : Side) : State :=
  if (s.rdir d).closing = some s.round then
    let s := (s.setRdir d { s.rdir d with closing := none, shotField := none, lastReceived := none }).leaveHead d
    s.when s.isMaster fun s =>
      if s.loopPossible d then
        let pad := s.roundNs * 256 - s.loopDelay d
        (s.setB F.RING_PAD_padding [sideIx d] true).set F.RING_PAD_pad [sideIx d] pad
      else (s.refuseClosure d).becomeHead d
  else s

/-- The closings of this round, and the loop reached (R103, R105). -/
def State.closureRound (s : State) : State :=
  let s := (s.closeDirection .east).closeDirection .west
  let s := s.when (s.ring.loopAt == some s.round) fun s =>
    ({ s with ring := { s.ring with loopAt := none, loopFrom := some s.round, closureReach := [] } } : State).setMode 1
  let pending := s.ring.eg.closing.isSome || s.ring.wg.closing.isSome
  let s := s.when (!pending && s.isMaster && s.ring.loopAt == none) fun s => { s with ring := { s.ring with closureWord := 0, closureReach := [] } }
  s.setB F.RING_STATUS_closure_pending [] pending

/-! Mirrored delivery (R77). -/

/-- A copy with sequence q is too old to be delivered: more than 8 rounds (R77). -/
def State.tooOld (s : State) (q : Nat) : Bool := (s.round + 2 ^ 16 - q) % 2 ^ 16 > 8

/-- A valid copy of mirrored slot n with sequence q may be delivered: at most 8 rounds old, and not delivered yet; a
dropped copy is counted. -/
def State.mirrorDeliver (s : State) (n q : Nat) : Bool × State :=
  if s.tooOld q then (false, s.inc F.RING_MIRROR_CNT_late)
  else if s.ring.delivered.any (fun x => x.slot == n && x.sequence == q && s.round - x.round ≤ 8) then
    (false, s.inc F.RING_MIRROR_CNT_duplicate)
  else (true, { s with ring := { s.ring with delivered := s.ring.delivered ++ [{ slot := n, sequence := q, round := s.round }] } })

/-! The reference payload (R73, R130, R368). -/

/-- The time reference message for an emit time in units of 2^-16 ns (R368, R369). -/
def State.timeMessage (s : State) (emit : Nat) : List Byte :=
  let t := from16 emit
  let b1 := s.get F.TIME_DOM_STATUS_traceable [0] * 128 + b2n (s.domState .a == holdover) * 64 + s.get F.TIME_UTC_leap61 * 32
    + s.get F.TIME_UTC_leap59 * 16 + s.get F.TIME_UTC_valid * 8 + b2n s.time.stepRound.isSome * 4
  let quality (a n : Nat) : List Byte := (List.range n).map fun i => Config.sourceQuality (a + i)
  let identity := if (s.sourceInUse .a).isSome then quality 8 8 else beBytes 8 s.uid
  [byte 1, byte b1] ++ beBytes 2 (s.get F.TIME_UTC_offset) ++ [byte (s.get F.TIME_DOM_STATUS_clock_class [0])] ++ quality 5 3
    ++ identity ++ quality 16 3 ++ [0] ++ beBytes 6 (secOf t) ++ beBytes 4 (nsOf t) ++ beBytes 2 (fracOf t)
    ++ beBytes 6 (s.time.stepRound.getD 0) ++ zeros 2 ++ beBytes 8 (ofSigned s.time.stepN 64) ++ beBytes 4 s.timeInaccuracy ++ zeros 12

/-- Grant table, bitmap, version, backups and handoff: bytes 88–639 (R73, R130, R145). -/
def State.mapPayload (s : State) : List Byte :=
  let backups := (s.ring.backups ++ List.replicate 16 0xFF).take 16
  s.grantTable.flatMap (beBytes 4) ++ beBytes 8 s.ring.bitmap ++ beBytes 8 s.ring.versionWord ++ backups.map byte
    ++ beBytes 8 s.ring.handoffWord ++ zeros 256

/-- The reference payload of the master for a direction (R73). -/
def State.refPayload (s : State) (emit : Nat) : List Byte :=
  let pad (d : Nat) : Nat := if s.is F.RING_PAD_padding [d] then s.get F.RING_PAD_pad [d] else 0
  s.timeMessage emit ++ beBytes 8 s.round ++ beBytes 4 (pad 0) ++ beBytes 4 (pad 1) ++ beBytes 8 s.ring.closureWord ++ s.mapPayload

/-- The emit time of slot 0 that leaves `later` (in units of 2^-16 ns) from now: round × round length in loop mode, domain A
then in line mode (R369). -/
def State.emitTime (s : State) (d : Side) (later : Nat := 0) : Nat :=
  if s.isPadding d then s.round * s.round16 else s.now16 .a + later

/-- The master's own facts are brought up to date for the next reference payload; a direction it does not pad has pad 0
(R73). -/
def State.refreshMaster (s : State) : State :=
  let s := s.masterBitmap
  let s := { s with ring := { s.ring with backups := s.backupList } }
  let s := [0, 1].foldl (fun s d => s.when (!s.is F.RING_PAD_padding [d]) fun s => s.set F.RING_PAD_pad [d] 0) s
  (s.masterVersion).showComplete

/-- The word of a step announced in a reference message (R367): a step whose round has begun was made then, or came too late
to be made. -/
def State.copyStep (s : State) (pl : List Byte) : State :=
  let round := beAt pl 32 6
  let step := natBit (byteAt pl 1) 2 && round > s.round
  let s := { s with time := { s.time with stepRound := if step then some round else none,
                                          stepN := if step then toSigned (beAt pl 40 8) 64 else 0 } }
  s.setB F.TIME_DOM_STATUS_step_pending [0] step

/-- An integrated hub copies the master's facts from a reference payload (R73, R96, R103, R130, R367, R385). -/
def State.copyReference (s : State) (pl : List Byte) : State :=
  let s := s.copyMap pl
  let s := (s.set F.RING_PAD_pad [0] (beAt pl 72 4 % 2 ^ 24)).set F.RING_PAD_pad [1] (beAt pl 76 4 % 2 ^ 24)
  let s := s.copyStep pl
  let s := s.when (natBit (byteAt pl 1) 3) fun s =>
    let s := (s.setB F.TIME_UTC_valid [] true).set F.TIME_UTC_offset [] (beAt pl 2 2)
    (s.setB F.TIME_UTC_leap61 [] (natBit (byteAt pl 1) 5)).setB F.TIME_UTC_leap59 [] (natBit (byteAt pl 1) 4)
  s.takeClosureWord (beAt pl 80 8)

/-! Measuring the reference (R369 to R371). -/

/-- The emit time a reference payload carries, in units of 2^-16 ns. -/
def emitOf (pl : List Byte) : Nat := (beAt pl 20 6 * 1000000000 + beAt pl 26 4 % 2 ^ 30) * 2 ^ 16 + beAt pl 30 2

/-- θ of a reference copy of a direction, stamped now (R370). -/
def State.refTheta (s : State) (d : Side) (emit : Nat) (correction : Int) : Int :=
  let p := rxPort d
  let asym := toSigned (s.get F.TIME_LINK_ASYM_asym [sideIx p]) 16 * 256
  (emit : Int) + correction + (s.linkDelay16 p : Int) + asym - (s.now16 .a : Int)

/-- The direction whose copy is measured: the one in which the master reaches this hub in fewer hops, east-going on a
tie (R370). -/
def State.refDirection (s : State) : Side :=
  let m := s.get F.RING_STATUS_master_hub
  if nearer (s.hopsBy .west m) (s.hopsBy .east m) then .west else .east

/-- The measurement of the round is made with the copy of a direction (R366, R370). -/
def State.refMeasured (s : State) (d : Side) (c : RefCopy) : State :=
  let s := s.setB F.TIME_RING_STATUS_src_wg [] (d == .west)
  let s := { s with time := { s.time with refUsed := true, unmeasured := 0 } }
  let s := s.setB F.TIME_RING_STATUS_ref_valid [] true
  if s.time.alignDue then s.alignRing c.theta else s.measureRing c.theta c.traceable c.clockClass

/-- A reference copy of the followed master arrives in a direction: it is measured at once when it is the preferred one,
and otherwise kept for the end of the round (R370). -/
def State.refCopy (s : State) (d : Side) (c : RefCopy) : State :=
  let s := match d with
    | .east => { s with time := { s.time with refEg := some c } }
    | .west => { s with time := { s.time with refWg := some c } }
  if d = s.refDirection then s.refMeasured d c else s

/-- The difference between the two directions in a round, the other less the one used (R371). -/
def State.refDiff (s : State) (diff : Int) : State :=
  let s := s.set F.TIME_RING_STATUS_diff [] (ofSigned (satSigned (diff / 4096) 24) 24)
  let big := diff.natAbs > 20 * 2 ^ 16
  let s := { s with time := { s.time with diffHigh := if big then satInc s.time.diffHigh 16 else 0,
                                          diffLow := if big then 0 else satInc s.time.diffLow 16 } }
  let s := s.when (s.time.diffHigh == 16 && !s.is F.TIME_RING_STATUS_disagree) fun s =>
    (s.setB F.TIME_RING_STATUS_disagree [] true).leaf (timeLeaf 1)
  s.when (s.time.diffLow == 16) fun s => s.setB F.TIME_RING_STATUS_disagree [] false

/-- The end of a round's measurement: a lone copy of the other direction is used (R370), and the two directions are compared;
a round without both breaks the counts of consecutive rounds (R371). -/
def State.refRoundEnd (s : State) : State :=
  let pref := s.refDirection
  let used := if pref = .east then s.time.refEg else s.time.refWg
  let other := if pref = .east then s.time.refWg else s.time.refEg
  let s := match used, other with
    | none, some c => s.refMeasured (otherSide pref) c
    | none, none => s.setB F.TIME_RING_STATUS_ref_valid [] false
    | _, _ => s
  let s := match used, other with
    | some u, some o => s.refDiff (o.theta - u.theta)
    | _, _ => { s with time := { s.time with diffHigh := 0, diffLow := 0 } }
  { s with time := { s.time with refEg := none, refWg := none } }

/-- A step of domain A called for by four large measurements is made at the round boundary (R366). -/
def State.ringStepRound (s : State) : State :=
  match s.time.ringStep with
  | some th => ({ (s.domStep .a th) with time := { (s.domStep .a th).time with ringStep := none } } : State).leaf (timeLeaf 0)
  | none => s

/-- A hub that follows a master takes up one with a lower pair, or any once its own has gone (R138, R139): it writes nothing
until it has locked to a master of other timing, and heads no direction in which that master's slots come to it. -/
def State.follow (s : State) (d : Side) (m r : Nat) (alive : Bool) : State :=
  let s := (s.set F.RING_STATUS_master_hub [] m).leaf (ringLeaf 22)
  let relock := alive || r + 1 < s.round || s.round + 1 < r
  let s := { s with ring := { s.ring with relocking := relock, refMaster := m, refRound := none,
                                          delivered := if relock then [] else s.ring.delivered } }
  s.when (relock && s.isHead d) fun s => s.leaveHead d

/-- A copy with sequence q of the followed master's reference slot for round r is delivered (R77): the first of its round, or
for a hub that has not locked to that master's rounds yet, one no older than the last. -/
def State.referenceDelivered (s : State) (r q : Nat) : Bool × State :=
  if s.ring.relocking then (s.ring.refRound.getD 0 ≤ r, s) else s.mirrorDeliver 0 q

/-- The followed master's reference slot for round r arrives at a hub that is integrated (R139, R366, R370): a hub that
relocks takes its round at the second in succession. What it says is copied from the copy that is delivered (R77). -/
def State.referenceTaken (s : State) (m r q : Nat) (pl : List Byte) : State :=
  let (ok, s) := s.referenceDelivered r q
  let s := { s with ring := { s.ring with masterSeen := true, masterMissing := 0 } }
  let locks := s.ring.refRound = some (r - 1) ∧ r ≥ 1
  let s := { s with ring := { s.ring with refRound := some r, refMaster := m } }
  let s := if s.ring.relocking && locks then { (s.setRound r) with ring := { (s.setRound r).ring with relocking := false } } else s
  s.when ok fun s => s.copyReference pl

/-- A valid reference slot arrives (R124, R130, R133, R138, R139, R370): from the followed master, from another, or heard by
a hub that is not integrated. A copy of the followed master too old to be delivered is not used (R77, R370); a copy of another
is not delivered. -/
def State.referenceArrives (s : State) (d : Side) (h : Header) (pl : List Byte) (correction : Int) (b97 : Bool) (seq : Nat) : State :=
  let m := h.owner
  let r := beAt pl 64 8
  let theta := s.refTheta d (emitOf pl) correction
  if m = s.hub then s.when s.isMaster fun s => (s.mirrorDeliver 0 seq).2
  else if !s.integrated then
    let s := s.hearReference m r h.schedGen h.line (if b97 then some theta else none) pl
    if s.integrated then ((s.copyReference pl).grantsInForce).headAtEnds else s
  else
    let s := { s with ring := { s.ring with refSeen := true, refMissing := 0, lossRounds := none } }
    if s.isMaster then
      if s.pairOf m < s.ownPair then { s with ring := { s.ring with yielding := true } } else s
    else
      let cur := s.get F.RING_STATUS_master_hub
      let alive := s.ring.masterMissing < 3
      let s := s.when (m != cur && (s.pairOf m < s.pairOf cur || !alive)) fun s => s.follow d m r alive
      if m ≠ s.get F.RING_STATUS_master_hub then s
      else if s.ring.relocking && h.schedGen != s.ring.schedGen then
        ({ s with ring := { s.ring with heardGen := h.schedGen } } : State).refuseIntegration F.RING_REFUSE_CNT_sched_gen
      else if !s.ring.relocking && s.tooOld seq then s.inc F.RING_MIRROR_CNT_late
      else
        let s := s.setB F.RING_START_STATUS_no_master [] false
        let s := s.referenceTaken m r seq pl
        if b97 then s.refCopy d { theta := theta, valid := s.ringTimeValid, traceable := natBit (byteAt pl 1) 7, clockClass := byteAt pl 4 } else s

/-! Reach (R78). -/

/-- A payload written by hub h arrives in a direction after k forwarding hubs (R78): the hop counts of both, the chosen
direction toward h, and the image's choice are judged anew. -/
def State.hopsLearned (s : State) (d : Side) (h k : Nat) : State :=
  if h = s.hub then s
  else
    let s := if d = .east then s.set F.RING_REACH_wg_hops [h] (k + 1) else s.set F.RING_REACH_eg_hops [h] (k + 1)
    (s.checkHeld h).imageRefresh h

end Sys2Proof.Machine
end

