-- ==== Sys2Proof/Machine/RingSlot.lean ====
section
/-! DEFINITION. Slots at a hub: what it emits, generates and fills at a slot boundary, and what it forwards and takes of
an arriving, cut or poisoned slot (R60 to R101, R126 to R128, R157, R320 to R327, R443, R445, R462, R559, R560). What
the spec leaves to a reading or a choice stands in log entries 14, 15 and 16. -/

namespace Sys2Proof.Machine

/-! Guarded records in command slots (R462). -/

/-- A guarded record as it departs: its route field names the slot's owner (R457). -/
def State.routedRecord (s : State) (r : List Byte) : List Byte := splice (padTo 128 r) 6 (beBytes 2 (s.hub * 2 ^ 10 + 0x3E1))

/-- A record queued in a cycle is eligible for the slot whose block 0 leaves now: 500 ns, 250 cycles, have passed (R462). -/
def State.recordEligible (s : State) (since : Nat) : Bool := since + 250 ≤ s.time.cycles

/-- The next queued command departs, when it is eligible, and its window becomes sent (R462). -/
def State.takeCommand (s : State) : Option (List Byte) × State :=
  match s.grd.commands with
  | (w, since) :: ws =>
    if s.recordEligible since then
      let s := { s with grd := { s.grd with commands := ws } }
      (some (s.windowCommand w), s.set F.GRD_WIN_CTRL_state [w] 2)
    else (none, s)
  | [] => (none, s)

/-- The oldest pending response departs, when it is eligible (R462). -/
def State.takeResponse (s : State) : Option (List Byte) × State :=
  match s.grd.responses with
  | (r, since) :: rs => if s.recordEligible since then (some r, { s with grd := { s.grd with responses := rs } }) else (none, s)
  | [] => (none, s)

/-- One position of a command slot: its own kind first, then the other (R462). -/
def State.guardPosition (s : State) (commandFirst : Bool) : List Byte × State :=
  let (a, s) := if commandFirst then s.takeCommand else s.takeResponse
  match a with
  | some r => (s.routedRecord r, s)
  | none =>
    let (b, s) := if commandFirst then s.takeResponse else s.takeCommand
    match b with
    | some r => (s.routedRecord r, s)
    | none => (s.emptyPosition, s)

/-- The payload of a command slot this hub owns: the control record and four guarded positions (R127, R462). -/
def State.commandPayload (s : State) : List Byte × State :=
  let s := s.nextRequest
  let rec0 := s.controlRecord
  let (p1, s) := s.guardPosition true
  let (p2, s) := s.guardPosition true
  let (p3, s) := s.guardPosition false
  let (p4, s) := s.guardPosition false
  (rec0 ++ p1 ++ p2 ++ p3 ++ p4, s)

/-! Filling an owned slot. -/

/-- The face of an owned slot (R141, R320). -/
def State.slotFace (s : State) (d : Side) (n : Nat) : Nat := smGet s.ring.slotFaces (sideIx d * 512 + n) 0

/-- The slot carries this hub's heartbeat (R443). -/
def State.isHeartbeatSlot (s : State) (d : Side) (n : Nat) : Bool :=
  s.is F.TWIN_CFG_enable && s.get F.TWIN_CFG_hb_slot == n && (s.slotEntry d n).2.1 == 2

/-- The last words as they are sent now (R559): bytes 24 and 25 carry the sequence of the newest journal entry. -/
def State.lastWordsNow (s : State) : List Byte :=
  let next := s.get F.CAUSE_JOURNAL_PTR_next
  let seq := natBits (s.rd .CAUSE_JOURNAL [if next = 0 then 1023 else next - 1, 0]) 31 16
  let r := padTo 128 s.edge.lastWords
  r.take 24 ++ beBytes 2 seq ++ r.drop 26

/-- The payload this hub writes into a scheduled slot it owns (R320 to R324, R443, R559). -/
def State.scheduledFill (s : State) (d : Side) (n : Nat) : SlotFill × State :=
  let s := s.applyFreeze
  if s.dying then
    ({ slot := n, round := s.round, valid := true, lastWords := true,
       payload := s.lastWordsNow ++ List.flatten (List.replicate 4 s.emptyPosition) }, s)
  else
    let hb := s.isHeartbeatSlot d n
    let dir := if (s.slotEntry d n).2.1 = 1 then some d else none
    let s := s.when hb fun s => s.heartbeatBegins
    let beat := s.heartbeat
    let (cells, any, s) := s.fillPositions (s.slotFace d n) dir (if hb then 4 else 5)
    ({ slot := n, round := s.round, valid := any || hb, lastWords := false, payload := cells ++ (if hb then beat else []) }, s)

/-- A payload this hub has written for slot n that has not left in a direction (R106). -/
def State.keptFill (s : State) (d : Side) (n : Nat) : Option SlotFill := (s.rdir d).fills.find? (fun f => f.slot == n)

/-- What one direction has taken for mirrored slot n, and the other has not come to yet: its content, or that it passed the slot
by without payload (R76). -/
def State.mirrorEntry (s : State) (d : Side) (n : Nat) : Option SlotFill :=
  (s.ring.mirrorFills.find? (fun e => e.1 == d && e.2.slot == n && s.round ≤ e.2.round + 1)).map (·.2)

/-- The same of the other direction. -/
def State.otherFill (s : State) (d : Side) (n : Nat) : Option SlotFill := s.mirrorEntry (otherSide d) n

/-- The contents of mirrored slot n kept for the other direction are given up. -/
def State.dropMirror (s : State) (n : Nat) : State :=
  { s with ring := { s.ring with mirrorFills := s.ring.mirrorFills.filter (fun e => e.2.slot != n) } }

/-- A payload is kept until it leaves in a direction, one for each slot. -/
def State.keepFill (s : State) (d : Side) (f : SlotFill) : State :=
  s.setRdir d { s.rdir d with fills := (s.rdir d).fills.filter (fun g => g.slot != f.slot) ++ [f] }

/-- The payload of slot n has left in a direction, or is given up. -/
def State.dropFill (s : State) (d : Side) (n : Nat) : State :=
  s.setRdir d { s.rdir d with fills := (s.rdir d).fills.filter (fun g => g.slot != n) }

/-- A payload this hub writes anew for a position it owns. -/
def State.newFill (s : State) (d : Side) (n : Nat) : SlotFill × State :=
  if n ≤ 2 then
    let (p, s) := s.commandPayload
    ({ slot := n, round := s.round, valid := true, lastWords := false, payload := p }, s)
  else s.scheduledFill d n

/-- A payload that could not leave because its port has gone down is lost, and counted (R101; DESIGN CHOICE, log entry 14). -/
def State.loseFill (s : State) (d : Side) (n : Nat) : State :=
  match s.keptFill d n with
  | some f => (s.dropFill d n).when f.valid fun s => s.inc F.RING_ERRCNT_cut [sideIx (rxPort d)]
  | none => s

/-- The content of a split slot position this hub owns: what did not leave in an earlier round waits for this one (R106). -/
def State.splitFill (s : State) (d : Side) (n : Nat) : State :=
  let s := s.when (!s.portUp d) fun s => s.loseFill d n
  match (if s.dying then none else (s.keptFill d n).filter (·.valid)) with
  | some f => s.keepFill d { f with round := s.round }
  | none =>
    let (f, s) := s.newFill d n
    s.keepFill d f

/-- A content that waits for this round is of it: its sequence, the control record of a command slot, and the claims of a
heartbeat (R70, R127, R443, R444). -/
def State.renewFill (s : State) (d : Side) (f : SlotFill) : SlotFill × State :=
  let f := { f with round := s.round }
  if f.slot ≤ 2 then ({ f with payload := s.controlRecord ++ f.payload.drop 128 }, s)
  else if s.isHeartbeatSlot d f.slot then
    let s := s.heartbeatBegins
    ({ f with payload := f.payload.take 512 ++ s.heartbeat }, s)
  else (f, s)

/-- The content of a mirrored slot position this hub owns, chosen once for both directions (R76): what the other direction
has taken, or what has left in neither (R106), or new content; where the other direction has passed the slot by, it is this
one's alone. -/
def State.mirroredFill (s : State) (d : Side) (n : Nat) : State :=
  let alone := match s.otherFill d n with | some f => !f.valid | none => false
  match (s.otherFill d n).filter (·.valid) with
  | some f => (s.dropMirror n).keepFill d f
  | none =>
    let waits := !s.dying && s.ring.mirrorFills.any (fun e => e.1 == d && e.2.slot == n && e.2.valid)
    let (f, s) := match (if waits then s.keptFill d n else none) with
      | some f => s.renewFill d f
      | none => s.newFill d n
    let s := (s.dropMirror n).keepFill d f
    if alone then s else { s with ring := { s.ring with mirrorFills := s.ring.mirrorFills ++ [(d, f)] } }

/-- A direction passes mirrored slot n by without payload: what the other has taken is its alone, and one that comes to the slot
later chooses for itself (R76, R104). -/
def State.mirrorSkip (s : State) (d : Side) (n : Nat) : State :=
  if (s.otherFill d n).isSome then s.dropMirror n
  else if (s.mirrorEntry d n).isSome then s
  else
    let skip : SlotFill := { slot := n, round := s.round, valid := false, lastWords := false, payload := [] }
    { s with ring := { s.ring with mirrorFills := s.ring.mirrorFills.filter (fun e => e.2.slot != n || e.2.valid) ++ [(d, skip)] } }

/-- The content of a slot position this hub owns is chosen (R76, R106, R320). -/
def State.ownFill (s : State) (d : Side) (n : Nat) : State :=
  if (s.slotEntry d n).2.1 = 2 then (if s.mayWrite d then s.mirroredFill d n else s.mirrorSkip d n)
  else s.when (s.mayWrite d) fun s => s.splitFill d n

/-! Emitting. -/

/-- The header this hub writes for a position (R65, R82, R86): owner and mode of the schedule, blank where the position is to
go out blank. It names this hub's round, also where an inserted run has moved its slot timing past a round boundary (R96;
DESIGN CHOICE, log entry 14). -/
def State.headerFor (s : State) (d : Side) (n : Nat) (valid lastWords generated : Bool) (blank : Bool := false) : Header :=
  let (owner, mode, spare) := if blank || s.slotBlank d n then (0, 0, (s.slotEntry d n).2.2) else s.slotEntry d n
  { slot := n, round := s.round % 128, owner := if mode = 0 then 0 else owner, mode := mode,
    minor := s.get F.RING_START_STATUS_ring_minor, dir := sideIx d, line := s.get F.RING_STATUS_mode == 2, generated := generated,
    payloadValid := valid, spare := spare, lastWords := lastWords, roundLen := s.get F.RING_CTRL_round_len, quiet := s.quiet d,
    schedGen := s.ring.schedGen }

/-- A slot leaves by a direction's transmit port (R155): the own entry counts, and the position is remembered (R96). -/
def State.sendSlot (s : State) (d : Side) (bs : List Block) : State :=
  let h := headerOf (blk bs 0)
  let s := ((s.ownEntrySent d).emit (.slot d bs)).sendBlocks d 0 bs
  s.setRdir d { s.rdir d with lastSlot := h.slot, lastRound := h.round }

/-- A head of a line carries on the entry of every hub whose copies come to it only on the side it faces (R152; DESIGN
CHOICE, log entry 14). -/
def State.relayShots (s : State) (d : Side) (shots : List Block) : List Block :=
  if s.isHead d then
    (List.range 64).foldl (fun bs h =>
      if s.relaysFor d h then setEntry bs h (s.copyOf d h).entry else bs) shots
  else shots

/-- The shot field this hub sends with no received one: its own entry, the others not valid. -/
def State.ownShots (s : State) (d : Side) : List Block := setEntry (s.relayShots d noShots) s.hub (s.ownEntry d)

/-- The payload of a position this hub owns and writes nothing into: empty cell positions (R310). -/
def State.emptyPayload (s : State) : List Byte := List.flatten (List.replicate 5 s.emptyPosition)

/-- What a position of this hub that holds nothing carries: empty cell positions where it is a scheduled slot of its own
(R310), and zeros otherwise. -/
def State.blankPayload (s : State) (d : Side) (n : Nat) : List Byte :=
  if 3 ≤ n ∧ s.ownsSlot d n then s.emptyPayload else zeros 640

/-- The content of a position this hub owns, which leaves `later` from now: the reference payload for slot 0 of the master,
unless the round is quiet (R104), else what it has written, while it may write (R104, R108, R126, R139). -/
def State.content (s : State) (d : Side) (n : Nat) (later : Nat := 0) : Option SlotFill :=
  if n = 0 then
    if s.isMaster && !s.quiet d then
      some { slot := 0, round := s.round, valid := true, lastWords := false, payload := s.refPayload (s.emitTime d later) }
    else none
  else if s.mayWrite d then (s.keptFill d n).filter (·.valid)
  else none

/-- The master has originated a reference slot (R122). -/
def State.noteOriginated (s : State) (n : Nat) : State :=
  if n = 0 ∧ s.isMaster then { s with ring := { s.ring with originated := true } } else s

/-- A position this hub writes leaves with its content or without payload (R65, R69, R70): the payload's own round, or 0
without one (DESIGN CHOICE, log entry 14), correction and hop count 0. What may not leave now waits. -/
def State.sendOwn (s : State) (d : Side) (n : Nat) (c : Option SlotFill) (hdr : Header) (shots : List Block) (trust : Nat) : State :=
  let payload := match c with | some f => f.payload | none => s.blankPayload d n
  let hdr := { hdr with payloadValid := c.isSome, lastWords := match c with | some f => f.lastWords | none => false }
  let seq := match c with | some f => f.round | none => 0
  let s := s.sendSlot d (slotOf hdr.block shots payload (block97 0 0 trust) seq)
  (s.when (s.mayWrite d) fun s => s.dropFill d n).noteOriginated n

/-- This hub owns the position it is about to send. -/
def State.ownsPosition (s : State) (d : Side) (n : Nat) : Bool := (n = 0 && s.isMaster) || (n ≥ 1 && s.ownsSlot d n)

/-- The control record a head carries on in position n: that of the hub whose command slot it is (R72, R152). -/
def State.relayFor (s : State) (d : Side) (n : Nat) : Option Relay :=
  if (n == 1 || n == 2) && !s.quiet d && s.relaysFor d (commandHub n s.round) then
    (s.rdir d).relays.find? fun r => r.owner == commandHub n s.round
  else none

/-- A control record carried on by a head leaves in its hub's next command slot, written anew (R69, R152). -/
def State.sendRelay (s : State) (d : Side) (n : Nat) (r : Relay) : State :=
  let hdr := { s.headerFor d n true false true with owner := r.owner, mode := 2 }
  let s := s.setRdir d { s.rdir d with relays := (s.rdir d).relays.filter (fun x => x.owner != r.owner) }
  let payload := padTo 128 r.record ++ List.flatten (List.replicate 4 s.emptyPosition)
  s.sendSlot d (slotOf hdr.block (s.ownShots d) payload (block97 0 0 63) s.round)

/-- A position generated by this hub (R82, R86), which leaves `later` from now: its own content, or a slot without payload, with
generated = 1 unless the hub is the master; under R86 a position of another hub goes out blank. -/
def State.generateSlot (s : State) (d : Side) (n : Nat) (blank : Bool) (later : Nat := 0) : State :=
  if s.portUp d then
    let owned := s.ownsPosition d n
    match (if owned then none else s.relayFor d n) with
    | some r => s.sendRelay d n r
    | none =>
      s.sendOwn d n (if owned then s.content d n later else none) (s.headerFor d n false false (!s.isMaster) (blank && !owned)) (s.ownShots d) 63
  else s

/-- One blank slot of an inserted run (R96): slot number and round of the last slot sent, repeated. -/
def State.runSlot (s : State) (d : Side) : State :=
  let x := s.rdir d
  let s := s.setRdir d { x with runLeft := x.runLeft - 1 }
  if s.portUp d then
    let hdr : Header := { slot := x.lastSlot, round := x.lastRound, minor := s.get F.RING_START_STATUS_ring_minor, dir := sideIx d,
                          line := true, generated := true, roundLen := s.get F.RING_CTRL_round_len, schedGen := s.ring.schedGen }
    s.sendSlot d (slotOf hdr.block (s.ownShots d) (zeros 640) (block97 0 0 63) 0)
  else s

/-- The idle blocks that end an inserted run leave before the slot after it (R96). -/
def State.endRun (s : State) (d : Side) : State :=
  let n := (s.rdir d).runIdle
  let s := s.setRdir d { s.rdir d with runIdle := 0 }
  s.when (s.portUp d) fun s => s.sendIdles d n

/-- The position that begins in a direction: the one given, or, since an inserted run, the one after the last sent (R96). -/
def State.positionOf (s : State) (d : Side) (n : Nat) : Nat :=
  if (s.rdir d).afterRun then ((s.rdir d).lastSlot + 1) % s.slotsPerDir else n

/-- The time of the hop through a hub, 120.0 ns in units of 2^-16 ns (R62). -/
def transitTime : Nat := 120 * 2 ^ 16

/-- 120.0 ns and the receive link delay of a direction, in units of 2^-16 ns (R69). -/
def State.hopTime (s : State) (d : Side) : Nat := transitTime + s.linkDelay16 (rxPort d)

/-- Block 97 of a slot that goes on (R69, R79): the correction and the hop count carried on; a block 97 that a cut slot never
brought is sent as 0 (R89). -/
def renewed97 (w : Nat) (add trust : Nat) (missing : Bool) : Nat :=
  if missing then 0 else block97 (correctionOf w + (add : Int)) (hopsOf w + 1) trust

/-- The payload of a slot still stands as its owner wrote it: written in this round or the one before, and so passing for the
first time (R72, R79; DEDUCED, log entry 14). -/
def State.standsAt (s : State) (seq : Nat) : Bool := (s.round + 2 ^ 16 - seq) % 2 ^ 16 ≤ 1

/-- The shot field and the trust the padding master sends (R157): those of the latest slot whose block 0 arrived, or, when
none has since the loop closed, its own entry alone (trust 63: DESIGN CHOICE, log entry 14). -/
def State.padShots (s : State) (d : Side) : List Block × Nat :=
  match (s.rdir d).shotField with
  | some (bs, t) => (setEntry bs s.hub (s.ownEntry d), t)
  | none => (s.ownShots d, 63)

/-- The header of a returning slot's next round (R79): of the schedule, but for a payload that stands the owner who wrote
it. -/
def State.padHeader (s : State) (d : Side) (n : Nat) (h : Header) (valid : Bool) : Header :=
  let hdr := s.headerFor d n valid (valid && h.lastWords) false
  if valid then { hdr with owner := h.owner, mode := h.mode } else hdr

/-- The master in loop mode emits a position (R79, R105, R157): its own content, or what arrived one pad earlier with its
correction carried on and its checks as wrong as they were (R87, R90), or a blank slot where nothing arrived. A payload that
has come round once goes no further. -/
def State.padSlot (s : State) (d : Side) (n : Nat) : State :=
  let x := s.rdir d
  let b := smGet x.padBuffer n []
  let rest := smSet x.padBuffer n [] []
  let s := s.setRdir d { x with padBuffer := rest, draining := x.draining && !rest.isEmpty }
  if s.portUp d then
    let (shots, trust) := s.padShots d
    if s.ownsPosition d n then s.sendOwn d n (s.content d n) (s.headerFor d n false false false) shots trust
    else if b.isEmpty then s.sendSlot d (slotOf (s.headerFor d n false false false true).block shots (zeros 640) (block97 0 0 trust) 0)
    else
      let h := headerOf (blk b 0)
      let stands := s.standsAt (trailerSeq b) && h.owner != s.hub
      let hdr := s.padHeader d n h (h.payloadValid && h.slot == n && stands)
      let b97 := renewed97 (blk b 97) (s.hopTime d + s.get F.RING_PAD_pad [sideIx d] * 2 ^ 8) trust (b.length == 99)
      let payload := if h.payloadValid && !stands then zeros 640 else slotPayload b
      s.sendSlot d (slotOf hdr.block shots payload b97 (if hdr.payloadValid then trailerSeq b else 0) (trailerCrc b ^^^ slotCrc b) (poisoned b))
  else s.slotLost d b

/-- The master pads a position: it pads the direction, or the position still waits in its buffer (R97). -/
def State.padsNow (s : State) (d : Side) (n : Nat) : Bool :=
  s.isMaster && (s.isPadding d || ((s.rdir d).draining && !(smGet (s.rdir d).padBuffer n []).isEmpty))

/-- Position n − 1 has passed in a direction: a command slot that nothing brought has passed with it (R128). -/
def State.positionPasses (s : State) (d : Side) (n : Nat) : State :=
  if n = 2 ∨ n = 3 then
    let x := s.rdir d
    let s := s.setRdir d { x with passed := x.passed.filter (· != n - 1) }
    s.when (!x.passed.contains (n - 1)) fun s => s.commandPasses d (n - 1) (s.round % 128)
  else s

/-- SLOT_START (R60, R82, R96, R105, R320): the position begins in a direction; this hub selects what it owns, and sends
the position when it generates the direction or, as master in loop mode, pads it. -/
def execSlotStart (d : Side) (n : Nat) (s : State) : Host.Outcome State Fault Refusal :=
  if s.down .ring then .next s.clearOut else
  let s := s.clearOut
  if s.integrated ∧ n < s.slotsPerDir then
    if (s.rdir d).runLeft > 0 then .next (s.runSlot d)
    else
      let n := s.positionOf d n
      let s := (s.positionPasses d n).when ((s.rdir d).runIdle != 0) fun s => s.endRun d
      let s := s.when (n ≥ 1 && s.ownsSlot d n) fun s => s.ownFill d n
      if s.isHead d then .next (s.generateSlot d n false)
      else if s.padsNow d n then .next (s.padSlot d n)
      else if (s.rdir d).generating then .next (s.generateSlot d n true)
      else .next s
  else .next s

/-! Receiving. -/

/-- An error on a port's receive side: its counter and its leaf. -/
def State.portError (s : State) (p : Side) (cnt : Fld) (leaf : Nat) : State :=
  (s.inc cnt [sideIx p]).leaf (portLeaf p leaf) (sideIx p)

/-- The shot entries of a sound shot field are taken (R88, R162): those within the trust, by hops in the direction. -/
def State.takeEntries (s : State) (d : Side) (shots : List Block) (trust : Nat) : State :=
  (List.range 64).foldl (fun s h => if s.hopsBy d h ≤ trust then s.copyArrives d h (entryOf shots h) else s) s

/-- The trust this hub sends for a received slot (R88). -/
def trustOut (bs : List Block) : Nat := if shotOk bs then min (trustOf (blk bs 97) + 1) 63 else 1

/-- The hub owns the position of a received slot and is integrated: a command slot by the round its header names (R72). -/
def State.ownsArrived (s : State) (d : Side) (h : Header) : Bool :=
  s.integrated && (if h.slot = 0 then s.isMaster else if h.slot ≤ 2 then commandHub h.slot h.round == s.hub else s.ownsSlot d h.slot)

/-- A slot of an inserted run (R96, R97): blank, and its number repeats the one before it in the direction. No hub owns its
position. -/
def State.isRunSlot (s : State) (d : Side) (h : Header) : Bool :=
  h.generated && h.line && h.mode == 0 && (s.rdir d).lastReceived == some h.slot

/-- What this hub sends in an owned slot that arrives: what it wrote at the slot's start; a command slot whose start it has not
seen, or whose other copy it has sent already, is filled as it arrives (R76, R127). -/
def State.arrivedContent (s : State) (d : Side) (h : Header) : Option SlotFill × State :=
  let s := s.when (1 ≤ h.slot && h.slot ≤ 2 && (s.keptFill d h.slot).isNone) fun s =>
    if s.mayWrite d then s.mirroredFill d h.slot else s.mirrorSkip d h.slot
  (s.content d h.slot transitTime, s)

/-- A command payload of this hub has come round to it under another hub's turn (R72, R79): every hub has seen it once, and it goes
no further (R81; DEDUCED, log entry 14). -/
def State.comeRound (s : State) (h : Header) : Bool :=
  s.integrated && h.payloadValid && h.mode == 2 && (h.slot == 1 || h.slot == 2) && h.owner == s.hub

/-- The slot leaves again, cut-through (R62, R69, R84, R87 to R90): a position this hub owns with its own header and payload,
every other with the own entry, block 97 and shot_check renewed and the rest as received. `sent` is how many blocks had left
when the slot was found cut or poisoned, `missing` that its block 97 never came. What a tail or a head drops is lost (R83, R101). -/
def State.forwardSlot (s : State) (d : Side) (bs : List Block) (cut : Bool) (sent : Nat := 17) (missing : Bool := false) : State :=
  let h := headerOf (blk bs 0)
  if s.isMaster && s.isPadding d then s
  else if !s.portUp d || s.isHead d then s.slotLost d bs
  else
    let shots := setEntry (slotShots bs) s.hub (s.ownEntry d)
    let trust := if cut then 1 else trustOut bs
    if s.ownsArrived d h && !s.isRunSlot d h then
      let (c, s) := s.arrivedContent d h
      let shots := if cut then clearUnsent shots s.hub sent else shots
      let hdr := { s.headerFor d h.slot false false h.generated with round := h.round, line := h.line || s.get F.RING_STATUS_mode == 2 }
      let hdr := if h.slot = 1 ∨ h.slot = 2 then { hdr with owner := s.hub, mode := 2 } else hdr
      s.sendOwn d h.slot c hdr shots trust
    else if s.comeRound h && !cut then
      let hdr := { h with owner := commandHub h.slot h.round, payloadValid := false, lastWords := false }
      s.sendSlot d (slotOf hdr.block shots (zeros 640) (renewed97 (blk bs 97) (s.hopTime d) trust false) 0)
    else
      let b97 := renewed97 (blk bs 97) (s.hopTime d) trust missing
      let syndrome := if cut then 0xFFFFFFFF else trailerCrc bs ^^^ slotCrc bs
      s.sendSlot d (slotOf (blk bs 0) shots (slotPayload bs) b97 (trailerSeq bs) syndrome cut)

/-- Last words in position 0 (R560): EDGE_LW of the owner, from the first copy after valid was cleared. -/
def State.lastWordsArrive (s : State) (owner : Nat) (cell : List Byte) : State :=
  if ¬ s.is F.EDGE_LW_valid [owner] then
    s.wr .EDGE_LW [owner] (2 ^ 31 + byteAt cell 2 % 8 * 2 ^ 28 + min (beAt cell 4 2) 4095 * 2 ^ 16 + beAt cell 8 6 % 2 ^ 16)
  else s

/-- A guarded record of a command slot (R463, R464): a command for this hub waits for its check, a response for its
window. The arrival queue holds 32 records and never overflows (R467). -/
def State.guardedArrives (s : State) (r : List Byte) : State :=
  if byteAt r 0 = 0x51 ∧ byteAt r 2 % 64 = s.hub then
    if s.grd.inbox.length < 32 then { s with grd := { s.grd with inbox := s.grd.inbox ++ [r] } } else s
  else if byteAt r 0 = 0x52 ∧ byteAt r 3 % 64 = s.hub then { s with grd := { s.grd with answers := s.grd.answers ++ [r] } }
  else s

/-- A head of a line keeps the control record of a hub heard only on the side it faces, for the hub's next command slot (R152;
DESIGN CHOICE, log entry 14). -/
def State.keepRelay (s : State) (d : Side) (h : Header) (bs : List Block) : State :=
  if s.relaysFor d h.owner then
    let x := s.rdir d
    s.setRdir d { x with relays := x.relays.filter (fun y => y.owner != h.owner) ++ [{ owner := h.owner, record := slice (slotPayload bs) 0 128 }] }
  else s

/-- The payload of a command slot (R77, R127, R128, R464): its control record, and the guarded records of each copy, which the hub
takes whether it is integrated or not and in transit-only mode too. In transit-only mode a copy is not counted as delivered (R108;
DESIGN CHOICE, log entry 14). -/
def State.takeCommandSlot (s : State) (d : Side) (h : Header) (bs : List Block) : State :=
  let pl := slotPayload bs
  let seq := trailerSeq bs
  let s := s.when (!s.integrated || !s.tooOld seq) fun s => s.recordArrives h.owner (slice pl 0 128) (seq % 128)
  let s := s.keepRelay d h bs
  let s := [1, 2, 3, 4].foldl (fun s i => s.guardedArrives (slice pl (128 * i) 128)) s
  if s.integrated && !s.is F.RING_STATUS_transit_active then (s.mirrorDeliver h.slot seq).2 else s

/-- The payload of a sound split or mirrored slot numbered 3 or above at an integrated hub (R77, R327). In transit-only mode
nothing is delivered, nor counted as a copy dropped (R108; DESIGN CHOICE, log entry 14). A hub that locks to another master's timing loses the cells of split slots in flight, counted (R139). -/
def State.takeScheduled (s : State) (d : Side) (bs : List Block) : State :=
  let h := headerOf (blk bs 0)
  let pl := slotPayload bs
  if s.is F.RING_STATUS_transit_active then s
  else if h.mode = 2 then
    let (ok, s) := s.mirrorDeliver h.slot (trailerSeq bs)
    if ok then s.payloadArrives h.owner pl else s
  else if s.ring.relocking then s.inc F.RING_ERRCNT_cut [sideIx (rxPort d)]
  else s.payloadArrives h.owner pl

/-- The payload of a sound slot with payload_valid = 1 (R68, R73, R77, R127, R327, R443, R560). A slot numbered 3 or above that
is neither split nor mirrored delivers nothing (R68); last words and heartbeats are read before duplicates are judged, at
every hub (R445, R560). -/
def State.takePayload (s : State) (d : Side) (bs : List Block) : State :=
  let h := headerOf (blk bs 0)
  let pl := slotPayload bs
  let seq := trailerSeq bs
  let s := s.when h.lastWords fun s => s.lastWordsArrive h.owner (slice pl 0 128)
  if h.slot = 0 then
    s.referenceArrives d h pl (correctionOf (blk bs 97)) (shotOk bs) seq
  else if h.slot ≤ 2 then s.takeCommandSlot d h bs
  else
    let s := s.when (h.mode == 2) fun s => s.heartbeatReceived d h.owner seq (slice pl 512 128)
    s.when (s.integrated && h.mode != 0) fun s => s.takeScheduled d bs

/-- A hub in loop mode that receives a valid header with line = 1 enters line mode (R85). A header of the round before loop
mode began was sent in line mode and says nothing of a break (R103; DEDUCED, log entry 14). -/
def State.lineEntry (s : State) (h : Header) : State :=
  let early := s.ring.loopFrom == some s.round && h.round != s.round % 128
  if h.line && !early && s.get F.RING_STATUS_mode == 1 then s.setMode 2 else s

/-- The position a header that is not valid stands for: the one after the last received, or after the last sent since. -/
def State.nextPosition (s : State) (d : Side) : Nat := (((s.rdir d).lastReceived.getD (s.rdir d).lastSlot) + 1) % s.slotsPerDir

/-- The shot field of the latest slot whose block 0 has arrived is kept, for a master that pads (R157), with the trust R88 gives
it. -/
def State.keepShots (s : State) (d : Side) (bs : List Block) (cut : Bool) : State :=
  s.setRdir d { s.rdir d with shotField := some (slotShots bs, if cut then 1 else trustOut bs) }

/-- A slot in a position passes a direction (R128): a command slot is marked. -/
def State.slotPasses (s : State) (d : Side) (n round : Nat) : State :=
  if n = 1 ∨ n = 2 then
    (s.setRdir d { s.rdir d with passed := (s.rdir d).passed.filter (· != n) ++ [n] }).commandPasses d n round
  else s

/-- The position whose header is not valid is generated here (R86), unless this hub generates the direction already; none of its shot entries are taken here (DESIGN CHOICE,
log entry 16). -/
def State.badHeader (s : State) (d : Side) (bs : List Block) (cut : Bool) : State :=
  let n := s.nextPosition d
  let s := (s.portError (rxPort d) F.RING_ERRCNT_hdr_bad 3).keepShots d bs cut
  let s := s.setRdir d { s.rdir d with lastReceived := some n }
  let s := if s.integrated && !s.isHead d && !(s.rdir d).generating && !(s.isMaster && s.isPadding d) then
    s.generateSlot d n true transitTime else s
  s.slotPasses d n (s.round % 128)

/-- A valid header arrives (R92, R94, R116): the stream is back. -/
def State.goodHeader (s : State) (d : Side) (h : Header) : State :=
  let p := rxPort d
  let s := s.setHello p { s.hello p with headerSeen := true }
  (s.setRdir d { s.rdir d with generating := false }).lineEntry h

/-- The position at which the master sends a returning slot again: the same of the next round while it pads (R79); what comes in
the quiet round before it pads goes out one pad later, in an earlier position (R105). -/
def State.padPosition (s : State) (d : Side) (n : Nat) : Option Nat :=
  let back := s.loopDelay d / (125 * 256)
  if !s.isMaster then none
  else if s.isPadding d then some n
  else if (s.rdir d).closing == some (s.round + 1) && back ≤ n then some (n - back)
  else none

/-- The master keeps a returning slot for the position at which it sends it again (R79, R105), and its shot field for the
positions until then (R157). -/
def State.keepForPad (s : State) (d : Side) (bs : List Block) (cut : Bool) : State :=
  let s := s.keepShots d bs cut
  match s.padPosition d (headerOf (blk bs 0)).slot with
  | some k => s.setRdir d { s.rdir d with padBuffer := smSet (s.rdir d).padBuffer k bs [] }
  | none => s

/-- The shot field and block 97 of a slot are used (R78, R88). -/
def State.useShots (s : State) (d : Side) (bs : List Block) : State :=
  if shotOk bs then
    let h := headerOf (blk bs 0)
    let s := s.when (h.payloadValid && h.mode != 0) fun s => s.hopsLearned d h.owner (hopsOf (blk bs 97))
    s.takeEntries d (slotShots bs) (trustOf (blk bs 97))
  else s

/-- Every direction chosen toward a hub, judged anew (R325). -/
def State.checkHeldAll (s : State) : State := (List.range 64).foldl (fun s h => s.checkHeld h) s

/-- A slot of an inserted run reaches the master (R97): its entries are taken, it is dropped, and from then on the direction is
forwarded; what waits in the pad buffer still goes out, with the latest shot field (R157). -/
def State.runArrives (s : State) (d : Side) (bs : List Block) : State :=
  let s := ((s.keepShots d bs false).useShots d bs).checkHeldAll
  let s := s.when (s.isPadding d) fun s => s.setRdir d { s.rdir d with draining := !(s.rdir d).padBuffer.isEmpty }
  s.setB F.RING_PAD_padding [sideIx d] false

/-- A poisoned or cut slot as it waits in the pad buffer: poisoned, its unreceived blocks 0 (R89, R90); one whose block 97 never
came waits without its last block. -/
def poisonedSlot (bs : List Block) (missing : Bool) : List Block :=
  List.take (if missing then 99 else 100)
  (slotOf (blk bs 0) (slotShots bs) (slotPayload bs) (blk bs 97) (trailerSeq bs) 0xFFFFFFFF true)

/-- A slot that arrives cut or poisoned (R89, R90): nothing is taken of it, and it leaves complete where
this hub owns it, and poisoned otherwise. -/
def State.cutArrives (s : State) (d : Side) (bs : List Block) (sent : Nat) (missing : Bool := false) : State :=
  let h := headerOf (blk bs 0)
  let s := s.portError (rxPort d) F.RING_ERRCNT_cut 6
  let s := (s.forwardSlot d bs true sent missing).keepForPad d (poisonedSlot bs missing) true
  (s.setRdir d { s.rdir d with lastReceived := some h.slot }).slotPasses d h.slot h.round

/-- A sound header's slot arrives whole and is not poisoned (R62, R69, R87, R88). -/
def State.wholeArrives (s : State) (d : Side) (bs : List Block) : State :=
  let h := headerOf (blk bs 0)
  let p := rxPort d
  let s := s.when (!crcOk bs) fun s => s.portError p F.RING_ERRCNT_crc_bad 4
  let s := s.when (!shotOk bs) fun s => s.portError p F.RING_ERRCNT_shot_bad 5
  let s := s.forwardSlot d bs false
  let s := s.setRdir d { s.rdir d with lastReceived := some h.slot }
  let s := s.keepForPad d bs false
  let s := s.useShots d bs
  let s := s.when (crcOk bs && h.payloadValid) fun s => s.takePayload d bs
  (s.slotPasses d h.slot h.round).checkHeldAll

/-- SLOT_ARRIVAL (R62 to R101): a whole slot arrives in a direction. -/
def execSlotArrival (d : Side) (blks : List Block) (s : State) : Host.Outcome State Fault Refusal :=
  if s.down .ring then .next s.clearOut else
  let s := s.clearOut
  if !s.portUp (rxPort d) then .next s
  else if !headerValid (blk blks 0) (s.get F.RING_CTRL_round_len) then .next (s.badHeader d blks false)
  else
    let h := headerOf (blk blks 0)
    let s := s.goodHeader d h
    if s.isMaster && s.isRunSlot d h then .next (s.runArrives d blks)
    else if poisoned blks then .next (s.cutArrives d blks 17)
    else .next (s.wholeArrives d blks)

/-- SLOT_CUT (R89): the stream stops inside a slot after the blocks given. An owned slot is completed, another goes out
poisoned, and the positions after it are generated here. -/
def execSlotCut (d : Side) (blks : List Block) (s : State) : Host.Outcome State Fault Refusal :=
  if s.down .ring then .next s.clearOut else
  let s := s.clearOut
  if !s.portUp (rxPort d) || blks.isEmpty then .next s
  else
    let whole := (blks ++ List.replicate 100 (0 : Block)).take 100
    let s := if !headerValid (blk blks 0) (s.get F.RING_CTRL_round_len) then s.badHeader d whole true
      else (s.goodHeader d (headerOf (blk blks 0))).cutArrives d whole (blocksSent blks.length) (blks.length < 98)
    .next (s.setRdir d { s.rdir d with generating := s.integrated })

/-- TRANSIT_ONLY change at the round boundary (R108, R577). -/
def State.transitRound (s : State) : State :=
  let want := s.is F.RING_CTRL_transit_only
  if want = s.is F.RING_STATUS_transit_active then s
  else (s.setB F.RING_STATUS_transit_active [] want).leaf (testLeaf 3)

/-- SILENT_TURN_END (R126): after 32 rounds the hub writes its slots and its announcement. -/
def execSilentTurnEnd (s : State) : Host.Outcome State Fault Refusal :=
  if s.down .ring then .next s.clearOut else
  let s := s.clearOut
  if s.phase = 5 ∧ s.ring.silentLeft = 0 then .next (s.setPhase 6) else .next s

end Sys2Proof.Machine
end

