-- ==== Sys2Proof/Machine/Switch.lean ====
section
/-! DEFINITION. The Ethernet ports and the switch: MACs, spoiled frames, pause, classes and forwarding, frames over the
ring, time-aware gates, segmentation and sampling, with the IEEE 1588 stamps and corrections (R379 to R381, R393 to
R422). What the spec leaves to a reading or a choice stands in log entries 28 and 29. -/

namespace Sys2Proof.Machine

/-- Leaves of the switch (R484). -/
def switchInvalid : Nat := switchLeaf 0

/-- Time-core cycles since power-on, in units of 2^-40 cycles. -/
def State.localTime (s : State) : Nat := s.time.cycles * 2 ^ 40

/-! Frames. -/

/-- The frame has an 802.1Q tag (R394). -/
def ethTagged (f : List Byte) : Bool := beAt f 12 2 == 0x8100

/-- EtherType of a frame, behind its tag when it has one. -/
def etherType (f : List Byte) : Nat := if ethTagged f then beAt f 16 2 else beAt f 12 2

/-- Offset of what follows the EtherType. -/
def ethBody (f : List Byte) : Nat := if ethTagged f then 18 else 14

/-- A frame with the EtherType of PTP (R402 to R404). -/
def ptpEtherType (f : List Byte) : Bool := etherType f == 0x88F7

/-- A PTP frame on the transport of R378, untagged or priority-tagged (VID 0); its message type, and whether it is an event
message (IEEE 1588: types 0 to 3). -/
def isPtp (f : List Byte) : Bool := ptpEtherType f && (!ethTagged f || beAt f 14 2 % 4096 == 0)
def ptpType (f : List Byte) : Nat := byteAt f (ethBody f) % 16
def ptpEvent (f : List Byte) : Bool := isPtp f && ptpType f < 4

/-- A Sync message, and a peer-delay message (IEEE 1588: types 2, 3 and 0xA). -/
def ptpSync (f : List Byte) : Bool := isPtp f && ptpType f == 0
def ptpPdelay (f : List Byte) : Bool := isPtp f && (ptpType f == 2 || ptpType f == 3 || ptpType f == 10)

/-- twoStepFlag of a PTP message. -/
def ptpTwoStep (f : List Byte) : Bool := natBit (byteAt f (ethBody f + 6)) 1

/-- A frame for a reserved address, 01-80-C2-00-00-00 to 01-80-C2-00-00-0F (R404). -/
def reservedAddress (f : List Byte) : Bool := beAt f 0 6 / 16 == 0x0180C200000

/-- A frame that is never forwarded: MAC control (R400), and a reserved address but for PTP (R404). -/
def notForwarded (f : List Byte) : Bool := etherType f == 0x8808 || (reservedAddress f && !isPtp f)

/-- Length from destination address through FCS, and pages (R394, R406). -/
def frameLength (f : List Byte) : Nat := f.length + 4
def framePages (f : List Byte) : Nat := (frameLength f + 255) / 256

/-- The FCS (IEEE 802.3): the same CRC-32 as the HDLC frame check sequence of 4 bytes. -/
def ethFcs (f : List Byte) : List Byte := hdlcFcs true f

/-- Byte time at a link rate (ETH_MAC_STATUS.rate), in tenths of a nanosecond. -/
def byteTime (rate : Nat) : Nat := [8000, 800, 80, 32].getD rate 80

/-! Ports. -/

/-- The MAC's link is up. -/
def State.linkUp (s : State) (m : Nat) : Bool := s.is F.ETH_MAC_CFG_enable [m] && s.is F.ETH_MAC_STATUS_link_up [m]

/-- The speed of a port as a link rate: fixed by the interface and by SGMII without negotiation, else the link's (R394). -/
def State.portRate (s : State) (m : Nat) : Nat :=
  match s.get F.ETH_MAC_CFG_iface [m] with
  | 2 => 3
  | 1 => 2
  | _ => if s.is F.ETH_MAC_CFG_autoneg [m] then s.get F.ETH_MAC_STATUS_rate [m] else s.get F.ETH_MAC_CFG_speed [m]

/-- An egress queue, replaced. -/
def State.swQueue (s : State) (q c : Nat) : List EthFrame := smGet s.sw.queues (8 * q + c) []
def State.setSwQueue (s : State) (q c : Nat) (x : List EthFrame) : State :=
  { s with sw := { s.sw with queues := smSet s.sw.queues (8 * q + c) x [] } }

/-- SWC_HELD: pages held in an egress queue (R406). -/
def State.swHeld (s : State) (q c : Nat) : Nat := (s.swQueue q c).foldl (fun a f => a + framePages f.bytes) 0

/-- The time of n bytes at a MAC's rate, in units of 2^-40 cycles. -/
def State.bytesTime (s : State) (m n : Nat) : Nat := n * byteTime (s.get F.ETH_MAC_STATUS_rate [m]) * 2 ^ 40 / 20

/-- A frame leaves a MAC now; and the MAC may not begin another, since a frame leaves or the 12 bytes of interframe gap after
it have not passed (R395). -/
def State.inFlight (s : State) (m : Nat) : Bool := s.localTime < smGet s.sw.sending m 0
def State.macBusy (s : State) (m : Nat) : Bool :=
  let t := smGet s.sw.sending m 0
  t != 0 && s.localTime < t + s.bytesTime m 12

/-- Egress queues of a port are flushed and the frame in transmission is lost, each frame counted in SWC_DROP.link (R399). -/
def State.flushPort (s : State) (q : Nat) : State :=
  let s := s.add F.SWC_DROP_link [q] (b2n (s.inFlight q))
  let s : State := { s with sw := { s.sw with sending := smSet s.sw.sending q 0 0 } }
  s.each (List.range 8) fun s c =>
    let n := (s.swQueue q c).length
    (s.setSwQueue q c []).add F.SWC_DROP_link [q] n

/-! Classes (R402, R403). -/

/-- The class of a frame from a MAC (R402). -/
def State.ingressClass (s : State) (q : Nat) (f : List Byte) : Nat :=
  if ptpEtherType f then s.get F.SWC_CFG_ptp_class
  else if ethTagged f then
    let pcp := byteAt f 14 / 32
    natBits (s.rd .SWC_PCP_MAP [q]) (3 * pcp + 2) (3 * pcp)
  else s.get F.SWC_PORT_CFG_default_class [q]

/-- Class 7 is kept only by time and management traffic (R403). -/
def State.keepClass (s : State) (f : List Byte) (c : Nat) : Nat :=
  let m := s.get F.SWC_CFG_mgmt_ethertype
  if c = 7 ∧ !ptpEtherType f ∧ (m = 0 ∨ etherType f ≠ m) then 6 else c

/-! Forwarding (R404). -/

/-- Where a frame goes: ports 0–7 and 9 as a mask, and the hub set of port 8 when it goes there. -/
structure Egress where
  ports : Nat := 0
  hubset : Option Nat := none
  deriving DecidableEq, Repr

/-- The forwarding entry with a key (R404, R405). -/
def State.fdbEntry (s : State) (mac vid : Nat) : Option Nat :=
  (List.range 1024).find? fun n =>
    s.is F.SWC_FDB_KEY_valid [n] && s.get F.SWC_FDB_KEY_mac_high [n] == mac / 2 ^ 32
      && s.rd .SWC_FDB_MAC [n] == mac % 2 ^ 32 && s.get F.SWC_FDB_KEY_vid [n] == vid

/-- VID of a frame at an ingress port (R404). -/
def State.frameVid (s : State) (q : Nat) (f : List Byte) : Nat :=
  let v := beAt f 14 2 % 4096
  if ethTagged f && v != 0 then v else s.get F.SWC_PORT_CFG_pvid [q]

/-- The egress of a frame by its key (R404), before the exceptions. The spec gives a flood toward port 8 no hub set: it is
a free value. -/
def State.lookup (s : State) (q : Nat) (f : List Byte) : Egress × State :=
  match s.fdbEntry (beAt f 0 6) (s.frameVid q f) with
  | some n =>
    ({ ports := natSetBit (s.get F.SWC_FDB_ACT_port_mask [n]) 8 false,
       hubset := if s.is F.SWC_FDB_ACT_ring [n] then some (s.get F.SWC_FDB_ACT_hubset [n]) else none }, s)
  | none =>
    let m := s.get F.SWC_PORT_CFG_flood_mask [q]
    if natBit m 8 then
      let (k, s) := s.drawWord 4
      ({ ports := natSetBit m 8 false, hubset := some k }, s)
    else ({ ports := m }, s)

/-- The egress with the exceptions of R404 for frames with the EtherType of PTP, and without the ingress port. -/
def Egress.limit (e : Egress) (q : Nat) (f : List Byte) : Egress :=
  let e := if ptpEtherType f then { ports := natSetBit e.ports 9 true, hubset := none } else e
  let e := if ptpPdelay f ∧ q ≠ 9 then { ports := 512, hubset := none } else e
  { ports := natSetBit e.ports q false, hubset := if q = 8 then none else e.hubset }

/-! Frames over the ring (R409 to R411). -/

/-- The cells of a copy (R410). -/
def ringCells (c number : Nat) (f : List Byte) : List (List Byte) :=
  let n := (f.length + 111) / 112
  (List.range n).map fun i =>
    let part := (f.drop (112 * i)).take 112
    [0x31, byte (b2n (i == 0) * 128 + b2n (i + 1 == n) * 64 + c * 8)] ++ beBytes 2 number ++ [byte i, byte part.length, 0, 0]
      ++ beBytes 2 f.length ++ zeros 6 ++ padTo 112 part

/-- One copy of a frame is sent to a hub, or dropped whole (R411). -/
def State.ringCopy (s : State) (c : Nat) (f : List Byte) (h : Nat) : Bool × State :=
  let e := s.get F.SWC_RING_CFG_endpoint
  let hc := if s.is F.SWC_RING_CFG_class_base then c + 8 else c
  let n := smGet s.sw.numbers (8 * h + c) 0
  let cells := ringCells c n f
  if s.outHeld e hc + cells.length ≤ s.get F.HOP_LIMIT_out_limit [e, hc] then
    match cells with
    | [] => (false, s)
    | x :: rest =>
      match s.enqueue .switchPort (queueNo e hc h) x with
      | (.accepted, s) =>
        let s := { s with sw := { s.sw with numbers := smSet s.sw.numbers (8 * h + c) ((n + 1) % 2 ^ 16) 0 } }
        (true, s.each rest fun s y => (s.enqueue .switchPort (queueNo e hc h) y).2)
      | (_, s) => (false, s.inc F.SWC_DROP_full [8])
  else (false, s.inc F.SWC_DROP_full [8])

/-- The hubs of a hub set. -/
def State.hubSet (s : State) (k : Nat) : List Nat :=
  let m := s.rd .SWC_HUBSET_HI [k] * 2 ^ 32 + s.rd .SWC_HUBSET_LO [k]
  (List.range 64).filter fun h => natBit m h && h != s.hub

/-- A frame goes to port 8 (R411): one copy for each hub of the set. With port 8 off it is dropped. -/
def State.ringSend (s : State) (c : Nat) (f : List Byte) (k : Nat) : Bool × State :=
  if s.is F.SWC_RING_CFG_enable then
    (s.hubSet k).foldl (fun (ok, s) h => let (r, s) := s.ringCopy c f h; (ok || r, s)) (false, s)
  else (false, s.inc F.SWC_DROP_full [8])

/-! Admission (R406). -/

/-- A frame at one egress queue: dropped while the MAC's link is down (R399), admitted within the limit, else dropped. -/
def State.admitAt (s : State) (q c : Nat) (f : EthFrame) : Bool × State :=
  if q < 8 ∧ !s.linkUp q then (false, s.inc F.SWC_DROP_link [q])
  else if s.swHeld q c + framePages f.bytes ≤ s.get F.SWC_LIMIT_pages [q, c] then
    (true, s.setSwQueue q c (s.swQueue q c ++ [f]))
  else (false, s.inc F.SWC_DROP_full [q])

/-- A frame is admitted to every egress it has; whether some egress took it. -/
def State.admitFrame (s : State) (e : Egress) (c : Nat) (f : EthFrame) : Bool × State :=
  let (ok, s) := ((List.range 10).filter (natBit e.ports ·)).foldl
    (fun (ok, s) q => let (r, s) := s.admitAt q c f; (ok || r, s)) (false, s)
  match e.hubset with
  | some k => let (r, s) := s.ringSend c f.bytes k; (ok || r, s)
  | none => (ok, s)

/-- A good frame of an ingress port is looked up and admitted (R404, R406). -/
def State.forward (s : State) (q c : Nat) (f : EthFrame) : Bool × State :=
  if notForwarded f.bytes then (false, s.when (q < 8) fun s => s.inc F.ETH_CTRL_CNT_discarded [q])
  else
    let (e, s) := s.lookup q f.bytes
    s.admitFrame (e.limit q f.bytes) c f

/-! Reception at a MAC (R397 to R401, R422). -/

/-- What R397 makes of a received frame. -/
inductive Received where
  | cut | runt | oversize | fcs | good
  deriving DecidableEq, Repr

/-- The first row of R397 that applies. -/
def State.classify (s : State) (m : Nat) (bytes : List Byte) (cut : Bool) : Received :=
  let body := bytes.take (bytes.length - 4)
  if cut then .cut
  else if bytes.length < 64 then .runt
  else if bytes.length > s.get F.ETH_MAC_CFG_max_frame [m] then .oversize
  else if bytes.drop (bytes.length - 4) ≠ ethFcs body then .fcs
  else .good

/-- The sample of a good frame (R422): a copy of its beginning to port 9 in class 0. -/
def State.sampleFrame (s : State) (m : Nat) (bytes : List Byte) (x : Stamp) : State :=
  if s.is F.SWC_SAMPLE_CFG_enable [m] then
    let k := smGet s.sw.samples m 0 + 1
    if k = s.get F.SWC_SAMPLE_CFG_n [m] then
      let s := { s with sw := { s.sw with samples := smSet s.sw.samples m 0 0 } }
      let n := if s.is F.SWC_SAMPLE_CFG_trunc [m] then 128 else 64
      let t := stampTime x
      let copy := [byte m, byte (b2n (n < bytes.length) * 128)] ++ beBytes 2 bytes.length ++ beBytes 6 (secOf t)
        ++ beBytes 4 (nsOf t) ++ [0, 0] ++ bytes.take n
      match s.admitAt 9 0 { bytes := copy, ingress := m } with
      | (true, s) => s
      | (false, s) => s.leaf (switchLeaf 5) m
    else { s with sw := { s.sw with samples := smSet s.sw.samples m k 0 } }
  else s

/-- A PAUSE is obeyed (R401): it stops, stops for another time, or ends the pause. -/
def State.pauseFor (s : State) (m time : Nat) : State :=
  let s := s.inc F.ETH_CTRL_CNT_pause [m]
  let s := s.setB F.ETH_MAC_STATUS_paused [m] (time != 0)
  let stop := s.localTime + time * 64 * byteTime (s.get F.ETH_MAC_STATUS_rate [m]) * 2 ^ 40 / 20
  { s with sw := { s.sw with pauseEnd := smSet s.sw.pauseEnd m (if time = 0 then 0 else stop) 0 } }

/-- ETH_MAC_STATUS.pause_left as it reads: quanta of the pause that remain. -/
def State.pauseLeft (s : State) (m : Nat) : Nat :=
  if s.is F.ETH_MAC_STATUS_paused [m] then
    let q := 64 * byteTime (s.get F.ETH_MAC_STATUS_rate [m]) * 2 ^ 40 / 20
    (smGet s.sw.pauseEnd m 0 - s.localTime + q - 1) / q
  else 0

/-- A MAC control frame (R400). -/
def State.macControl (s : State) (m : Nat) (f : List Byte) : State :=
  if beAt f (ethBody f) 2 = 1 then s.pauseFor m (beAt f (ethBody f + 2) 2) else s.inc F.ETH_CTRL_CNT_discarded [m]

/-- A stamp at time t of a port's domain (R379). -/
def State.ethStampAt (s : State) (m t : Nat) : Stamp :=
  let dom := s.domOfConsumer (.ethPort m)
  { t := t, dom := dom, valid := s.ethTimeValid, traceable := s.traceable dom }

/-- A stamp of `ago` units of hub time before now in a port's domain (R379). -/
def State.ethStamp (s : State) (m ago : Nat) : Stamp := s.ethStampAt m (s.now (s.domOfConsumer (.ethPort m)) - ago)

/-- From the first byte of the preamble to the message timestamp point at egress (R379, R395): preamble and SFD, 8 byte times, in
units of 2^-40 cycles. -/
def State.preambleTime (s : State) (m : Nat) : Nat := s.bytesTime m 8

/-- The time of a port's domain at which the message timestamp point of a frame that begins now leaves the balls (R379). -/
def State.egressTime (s : State) (m : Nat) : Nat :=
  let dom := s.domOfConsumer (.ethPort m)
  s.now dom + s.preambleTime m * (2 ^ 40 + s.rate dom).toNat / 2 ^ 40

/-- A good frame of a MAC: sampled, stamped when it is an event message, and forwarded (R379, R400 to R404, R422). -/
def State.goodFrame (s : State) (m ago : Nat) (bytes : List Byte) : State :=
  let f := bytes.take (bytes.length - 4)
  let x := s.ethStamp m ago
  let s := s.sampleFrame m bytes x
  if etherType f = 0x8808 then s.macControl m f
  else
    let stamped := ptpEvent f && s.is F.TIME_PTP_PORT_enable [m]
    let s := s.when (stamped && ptpType f == 2) fun s => { s with sw := { s.sw with pdelay := smSet s.sw.pdelay m x.t 0 } }
    (s.forward m (s.keepClass f (s.ingressClass m f))
      { bytes := f, ingress := m, stamp := if stamped then some x else none, arrived := (s.localTime : Int) - (ago : Nat) }).2

/-- A received frame (R397, R398). -/
def State.frameIn (s : State) (m ago : Nat) (bytes : List Byte) (cut : Bool) : State :=
  match s.classify m bytes cut with
  | .cut => s.inc F.ETH_SPOIL_cut [m]
  | .runt => s.inc F.ETH_SPOIL_runt [m]
  | .oversize => s.inc F.ETH_SPOIL_oversize [m]
  | .fcs => s.inc F.ETH_SPOIL_fcs [m]
  | .good => s.goodFrame m ago bytes

/-- FRAME_RECEIVED (R397): a frame with its FCS, whose timestamp point passed `ago` units of hub time ago. -/
def execFrameReceived (m ago : Nat) (bytes : List Byte) (cut : Bool) (s : State) : Host.Outcome State Fault Refusal :=
  if s.down .ethernet then .next s.clearOut else
  let s := s.clearOut
  .next (s.when (m < 8 && s.linkUp m) fun s => s.frameIn m ago bytes cut)

/-- PAUSE_FRAME (R400, R401): a received frame that is a PAUSE. -/
def execPauseFrame (m ago : Nat) (bytes : List Byte) (s : State) : Host.Outcome State Fault Refusal :=
  if s.down .ethernet then .next s.clearOut else
  let s := s.clearOut
  .next (s.when (m < 8 && s.linkUp m && etherType bytes == 0x8808 && beAt bytes (ethBody bytes) 2 == 1) fun s =>
    s.frameIn m ago bytes false)

/-- PAUSE_EXPIRY (R401): the time of the pause has run out. -/
def execPauseExpiry (m : Nat) (s : State) : Host.Outcome State Fault Refusal :=
  if s.down .ethernet then .next s.clearOut else
  let s := s.clearOut
  .next (s.when (m < 8) fun s =>
    let s := s.setB F.ETH_MAC_STATUS_paused [m] false
    { s with sw := { s.sw with pauseEnd := smSet s.sw.pauseEnd m 0 0 } })

/-! Gates (R414 to R418). -/

/-- The active bank of a MAC. -/
def State.gateBank (s : State) (m : Nat) : Nat := s.get F.SWC_GATE_CTRL_active_bank [m]

/-- The gate list of a bank: gates and interval of the entries before the first interval of 0 (R414). -/
def State.gateList (s : State) (m k : Nat) : List (Nat × Nat) :=
  ((List.range 64).map fun i => (s.get F.SWC_GATE_ENTRY_gates [m, k, i], s.get F.SWC_GATE_ENTRY_interval [m, k, i])).takeWhile
    fun x => x.2 != 0

/-- A bank is valid (R414, R417). -/
def State.gateValidAt (s : State) (m k rate : Nat) : Bool :=
  let xs := s.gateList m k
  let cycle := s.get F.SWC_GATE_CYCLE_ns [m, k]
  let need := (s.get F.ETH_MAC_CFG_max_frame [m] + 8) * byteTime rate
  cycle != 0 && 1000000000 % cycle == 0 && (xs.map (·.2)).sum == cycle
    && xs.any fun x => x.1 == 0x80 && need ≤ 10 * x.2

/-- A bank is valid at the port's present speed. -/
def State.gateValid (s : State) (m k : Nat) : Bool := s.gateValidAt m k (s.portRate m)

/-- Time since the present cycle of the gates began, in units of 2^-39 ns (R414). -/
def State.gatePosition (s : State) (m : Nat) : Nat :=
  let k := s.gateBank m
  let dom := domOf (s.get F.SWC_GATE_CTRL_domain [m])
  let cycle := s.get F.SWC_GATE_CYCLE_ns [m, k] * unitsPerNs
  let phase := s.get F.SWC_GATE_PHASE_ns [m, k] * unitsPerNs
  (s.now dom % unitsPerSec + unitsPerSec - phase % unitsPerSec) % cycle

/-- The entry at a position of a gate list, with the time left in it. -/
def gateAt : List (Nat × Nat) → Nat → Nat → Option (Nat × Nat)
  | [], _, _ => none
  | (_, iv) :: rest, i, pos => if pos < iv * unitsPerNs then some (i, iv * unitsPerNs - pos) else gateAt rest (i + 1) (pos - iv * unitsPerNs)

/-- Time, in units, until the gate of class c closes, over consecutive entries from entry i with `left` to go; none when
it never closes (R415). -/
def gateOpenFor (xs : List (Nat × Nat)) (c i left : Nat) : Option Nat :=
  if xs.all fun x => natBit x.1 c then none
  else if natBit (xs.getD i (0, 0)).1 c then
    let later := (xs.drop (i + 1) ++ xs.take i).takeWhile fun x => natBit x.1 c
    some (left + (later.map (·.2)).sum * unitsPerNs)
  else some 0

/-- The longest time the gate of class c stays open in a cycle, none when it never closes (R416). -/
def gateLongest (xs : List (Nat × Nat)) (c : Nat) : Option Nat :=
  (List.range xs.length).foldl
    (fun a i => match a, gateOpenFor xs c i ((xs.getD i (0, 0)).2 * unitsPerNs) with
      | some m, some t => some (max m t)
      | _, _ => none) (some 0)

/-- How a head frame stands at the gates: it fits now, it must wait, or it can never fit (R408, R415, R416). -/
inductive GateFit where
  | fits | waits | never
  deriving DecidableEq, Repr

/-- The gates and a frame of class c at MAC m. -/
def State.gateFit (s : State) (m c : Nat) (f : List Byte) : GateFit :=
  if s.is F.SWC_GATE_CTRL_enable [m] then
    let xs := s.gateList m (s.gateBank m)
    let need := (max (frameLength f) 64 + 8) * byteTime (s.get F.ETH_MAC_STATUS_rate [m]) * unitsPerNs
    let within (t : Option Nat) : Bool := match t with | some t => need ≤ 10 * t | none => true
    if !within (gateLongest xs c) then .never
    else match gateAt xs 0 (s.gatePosition m) with
      | some (i, left) => if i = smGet s.sw.gates m 0 ∧ within (gateOpenFor xs c i left) then .fits else .waits
      | none => .waits
  else .fits

/-- GATE_INTERVAL_CHANGE (R414): the entry that hub time selects applies. -/
def execGateIntervalChange (m : Nat) (s : State) : Host.Outcome State Fault Refusal :=
  if s.down .ethernet then .next s.clearOut else
  let s := s.clearOut
  match gateAt (s.gateList m (s.gateBank m)) 0 (s.gatePosition m) with
  | some (i, _) => .next { s with sw := { s.sw with gates := smSet s.sw.gates m i 0 } }
  | none => .next s

/-- swap is written (R418). -/
def State.gateSwap (s : State) (m : Nat) : State :=
  if s.is F.SWC_GATE_CTRL_swap_pending [m] ∨ !s.gateValid m (1 - s.gateBank m) then s.leaf switchInvalid m
  else s.setB F.SWC_GATE_CTRL_swap_pending [m] true

/-- GATE_SWAP_APPLY (R418): the whole second of the gate domain has come. -/
def execGateSwapApply (m : Nat) (s : State) : Host.Outcome State Fault Refusal :=
  if s.down .ethernet then .next s.clearOut else
  let s := s.clearOut
  .next (s.when (s.is F.SWC_GATE_CTRL_swap_pending [m]) fun s =>
    let s := (s.setB F.SWC_GATE_CTRL_swap_pending [m] false).set F.SWC_GATE_CTRL_active_bank [m] (1 - s.gateBank m)
    { s with sw := { s.sw with gates := smSet s.sw.gates m 0 0 } })

/-- A write to the cycle, phase or entries of bank k of MAC m is ignored (R418). The loader's own pairs are not: they give bank 0,
active from reset, the valid list that R417 asks of an image. -/
def State.gateBankHeld (s : State) (p : Path) (m k : Nat) : Bool :=
  p != .loader && (s.gateBank m == k || s.is F.SWC_GATE_CTRL_swap_pending [m])

/-! Transmission (R380, R381, R395, R408). -/

/-- correctionField increased by an addend in units of 2^-16 ns, saturating (R380, R381). -/
def addCorrection (f : List Byte) (add : Int) : List Byte :=
  let off := ethBody f + 8
  let v := toSigned (beAt f off 8) 64
  let top : Int := ((2 ^ 63 : Nat) : Int) - 1
  splice f off (beBytes 8 (ofSigned (if v = top ∨ top < v + add then top else v + add) 64))

/-- What the hardware writes into a PTP message at egress (R379 to R381): the correction of the transparent clock, the
originTimestamp of a one-step Sync of this hub, and the turnaround time of its one-step Pdelay_Resp. -/
def State.ptpEgress (s : State) (m : Nat) (f : EthFrame) : List Byte :=
  let b := f.bytes
  if f.ingress < 8 then
    if ptpSync b ∧ s.is F.TIME_PTP_PORT_tc [f.ingress] ∧ s.is F.TIME_PTP_PORT_tc [m] then
      let cycles := ((s.localTime : Int) + s.preambleTime m - f.arrived).toNat
      let rate := s.rate (s.domOfConsumer (.ethPort f.ingress))
      let residence := cycles * (2 ^ 40 + rate).toNat / 2 ^ 63
      addCorrection b (residence + s.get F.TIME_PTP_PORT_link_delay [f.ingress] * 256 : Nat)
    else b
  else if s.is F.TIME_PTP_PORT_enable [m] ∧ !ptpTwoStep b then
    let now := s.egressTime m
    if ptpSync b then splice b (ethBody b + 34) (beBytes 6 (secOf now) ++ beBytes 4 (nsOf now))
    else if isPtp b ∧ ptpType b = 3 then addCorrection b ((now - smGet s.sw.pdelay m 0) / 2 ^ 23 : Nat)
    else b
  else b

/-- Head frames of a class that can never fit are discarded and counted (R416). -/
def State.gateDrops (s : State) (m c : Nat) : Nat → State
  | 0 => s
  | fuel + 1 =>
    match s.swQueue m c with
    | f :: rest =>
      if s.gateFit m c f.bytes = .never then
        (((s.setSwQueue m c rest).inc F.SWC_DROP_gate [m]).leaf (switchLeaf 3) m).gateDrops m c fuel
      else s
    | [] => s

/-- The class MAC m serves next (R401, R408). -/
def State.nextClass (s : State) (m : Nat) : Option Nat :=
  [7, 6, 5, 4, 3, 2, 1, 0].find? fun c =>
    (!s.is F.ETH_MAC_STATUS_paused [m] || (c == 7 && s.is F.ETH_MAC_CFG_guard_exempt [m]))
      && (match s.swQueue m c with | f :: _ => s.gateFit m c f.bytes == .fits | [] => false)

/-- Preamble and SFD (R395). -/
def ethPreamble : List Byte := List.replicate 7 0x55 ++ [0xD5]

/-- MAC m sends a frame: behind preamble and SFD, padded to 60 bytes before its FCS, corrected, and with a new FCS (R394,
R395). -/
def State.sendFrame (s : State) (m : Nat) (f : EthFrame) : State :=
  let b := s.ptpEgress m f
  let b := padTo (max 60 b.length) b
  let ends := s.localTime + s.bytesTime m (12 + b.length)
  let s : State := { s with sw := { s.sw with sending := smSet s.sw.sending m ends 0 } }
  let stamp := if ptpEvent b && s.is F.TIME_PTP_PORT_enable [m] then some (s.ethStampAt m (s.egressTime m)) else none
  s.emit (.frame m (ethPreamble ++ b ++ ethFcs b) stamp)

/-- FRAME_TRANSMIT (R408): egress MAC m takes its next frame; port 9 hands its next frame to the hub controller. -/
def execFrameTransmit (m : Nat) (s : State) : Host.Outcome State Fault Refusal :=
  if s.down .ethernet then .next s.clearOut else
  let s := s.clearOut
  if m < 8 ∧ s.macBusy m = true then .next s
  else if m < 8 ∧ s.linkUp m then
    let s := s.each (List.range 8) fun s c => s.gateDrops m c (s.swQueue m c).length
    match s.nextClass m with
    | some c =>
      match s.swQueue m c with
      | f :: rest => .next ((s.setSwQueue m c rest).sendFrame m f)
      | [] => .next s
    | none => .next s
  else if m = 9 then
    match [7, 6, 5, 4, 3, 2, 1, 0].find? fun c => !(s.swQueue 9 c).isEmpty with
    | some c =>
      match s.swQueue 9 c with
      | f :: rest => .next ((s.setSwQueue 9 c rest).emit (.frame 9 f.bytes f.stamp))
      | [] => .next s
    | none => .next s
  else .next s

/-! Links (R396, R399). -/

/-- The rate of a link that comes up (R394): fixed by the interface, and by speed in SGMII without negotiation; else what the
PHY reports, 10, 100 or 1,000 Mbit/s. -/
def State.linkRate (s : State) (m rate : Nat) : Nat :=
  if s.get F.ETH_MAC_CFG_iface [m] = 0 ∧ s.is F.ETH_MAC_CFG_autoneg [m] then min rate 2 else s.portRate m

/-- The link of a MAC goes up or down (R399). -/
def State.setLink (s : State) (m : Nat) (up : Bool) : State :=
  if s.is F.ETH_MAC_STATUS_link_up [m] = up then s
  else
    let s := (s.setB F.ETH_MAC_STATUS_link_up [m] up).leaf (macLeaf m 0) m
    s.when (!up) fun s => s.flushPort m

/-- A MAC that begins Clause 37 negotiation advertises full duplex, PAUSE = 1 and ASM_DIR = 1 (R394, R396). -/
def State.advertise (s : State) (m : Nat) : State :=
  s.when (s.is F.ETH_MAC_CFG_enable [m] && s.get F.ETH_MAC_CFG_iface [m] == 1 && s.is F.ETH_MAC_CFG_autoneg [m]) fun s =>
    s.emit (.clause37 m true true true)

/-- LINK_CHANGE (R399): a MAC that is off holds its link down (R396). -/
def execLinkChange (m : Nat) (up : Bool) (rate : Nat) (s : State) : Host.Outcome State Fault Refusal :=
  if s.down .ethernet then .next s.clearOut else
  let s := s.clearOut
  if m < 8 then
    if up then
      .next (s.when (s.is F.ETH_MAC_CFG_enable [m]) fun s => (s.set F.ETH_MAC_STATUS_rate [m] (s.linkRate m rate)).setLink m true)
    else .next ((s.setLink m false).when (s.is F.ETH_MAC_STATUS_link_up [m]) fun s => s.advertise m)
  else .next s

/-- enable of a MAC is written (R396, R399). -/
def State.macEnable (s : State) (m : Nat) (on : Bool) : State :=
  let s := s.setB F.ETH_MAC_CFG_enable [m] on
  if on then s else s.setLink m false

/-! Reassembly (R412, R413). -/

/-- The frame under reassembly in a context, replaced. -/
def State.ringContext (s : State) (h c : Nat) : Option RingFrame := smGet s.sw.partials (8 * h + c) none
def State.setRingContext (s : State) (h c : Nat) (x : Option RingFrame) : State :=
  { s with sw := { s.sw with partials := smSet s.sw.partials (8 * h + c) x none } }

/-- The partial frame of a context is dropped and counted, when there is one (R412). -/
def State.dropPartial (s : State) (h c : Nat) : State :=
  match s.ringContext h c with
  | some _ => ((s.setRingContext h c none).inc F.SWC_RING_SPOIL_partial).leaf (switchLeaf 4)
  | none => s

/-- After a cell has begun or extended a frame (R412, R413). -/
def State.ringFrameTest (s : State) (h c : Nat) (last : Bool) (x : RingFrame) : State :=
  let s := s.setRingContext h c (some x)
  if !last then s
  else if x.bytes.length = x.length then
    let s := s.setRingContext h c none
    (s.forward 8 (s.keepClass x.bytes c) { bytes := x.bytes, ingress := 8, arrived := s.localTime }).2
  else s.dropPartial h c

/-- A cell that the layout of R410 does not allow. -/
def ringCellBad (cell : List Byte) : Bool :=
  byteAt cell 0 != 0x31 || byteAt cell 1 % 8 != 0 || !allZero (slice cell 10 6)
    || !allZero ((cell.drop 16).drop (byteAt cell 5)) || (natBit (byteAt cell 1) 7 && byteAt cell 4 != 0)

/-- A cell for the ring port (R412). -/
def State.ringCell (s : State) (h : Nat) (cell : List Byte) : State :=
  let b1 := byteAt cell 1
  let c := b1 / 8 % 8
  let number := beAt cell 2 2
  let i := byteAt cell 4
  let data := slice cell 16 (min (byteAt cell 5) 112)
  if ringCellBad cell then ((s.inc F.SWC_RING_SPOIL_malformed).leaf (switchLeaf 4)).dropPartial h c
  else if natBit b1 7 then
    (s.dropPartial h c).ringFrameTest h c (natBit b1 6) { number := number, next := 1, length := beAt cell 8 2, bytes := data }
  else
    match s.ringContext h c with
    | some x =>
      if number = x.number ∧ i = x.next then
        s.ringFrameTest h c (natBit b1 6) { x with next := i + 1, bytes := x.bytes ++ data }
      else s.dropPartial h c
    | none => s

/-- RING_FRAME_CELL (R412): the switch takes a cell of hopper class c of the port-8 endpoint. -/
def execRingFrameCell (c : Nat) (s : State) : Host.Outcome State Fault Refusal :=
  if s.down .ethernet then .next s.clearOut else
  let s := s.clearOut
  if s.is F.SWC_RING_CFG_enable then
    match s.dequeue .switchPort (s.get F.SWC_RING_CFG_endpoint) c with
    | (some x, s) => .next (s.ringCell x.srcHub x.bytes)
    | (none, s) => .next s
  else .next s

/-- RING_FRAME_TIMEOUT (R412): a partial frame has received no cell for 4 rounds. -/
def execRingFrameTimeout (src c : Nat) (s : State) : Host.Outcome State Fault Refusal :=
  if s.down .ethernet then .next s.clearOut else
  let s := s.clearOut
  match s.ringContext src c with
  | some _ => .next (((s.setRingContext src c none).inc F.SWC_RING_SPOIL_timeout).leaf (switchLeaf 4))
  | none => .next s

/-! Segmentation (R419 to R421). -/

/-- The descriptor and the payload of the job. -/
def State.segDesc (s : State) : List Byte := (List.range 64).flatMap fun i => leBytes 4 (s.rd .SWC_SEG_DESC [i])
def State.segPayload (s : State) (off n : Nat) : List Byte :=
  (List.range n).map fun i => byte (natBits (s.rd .SWC_SEG_PAYLOAD [(off + i) / 4]) (8 * ((off + i) % 4) + 7) (8 * ((off + i) % 4)))

/-- A job's fields (R419). -/
def segHdr (d : List Byte) : Nat := leAt d 0 2
def segMss (d : List Byte) : Nat := leAt d 2 2
def segLen (d : List Byte) : Nat := leAt d 4 4
def segClass (d : List Byte) : Nat := byteAt d 8
def segMask (d : List Byte) : Nat := leAt d 10 2
def segPatch (d : List Byte) (k : Nat) : Nat := leAt d (16 + 4 * k) 4

/-- Bytes a patch point writes (R420). -/
def patchSize (kind : Nat) : Nat := [0, 2, 2, 4, 2, 1].getD kind 0

/-- A patch point is allowed (R420, R421). -/
def patchOk (hdr w : Nat) : Bool :=
  let kind := natBits w 31 24
  kind ≤ 5 && (kind == 0 || natBits w 23 16 + patchSize kind ≤ hdr)

/-- Every field of a job lies in its range (R419, R421). -/
def segFieldsOk (d : List Byte) : Bool :=
  let hdr := segHdr d
  14 ≤ hdr && hdr ≤ 128 && 1 ≤ segMss d && segMss d ≤ 9202 && 1 ≤ segLen d && segLen d ≤ 65536 && segClass d < 8
    && byteAt d 9 == 0 && segMask d < 256 && allZero (slice d 12 4) && allZero (slice d 48 16)
    && allZero (slice d (64 + hdr) (128 - hdr)) && allZero (slice d 192 64)
    && (List.range 8).all fun k => patchOk hdr (segPatch d k)

/-- The IPv4 header checksum over 20 bytes (RFC 791). -/
def ipChecksum (h : List Byte) : Nat :=
  let sum := (List.range 10).foldl (fun a i => a + beAt h (2 * i) 2) 0
  let sum := sum % 65536 + sum / 65536
  let sum := sum % 65536 + sum / 65536
  65535 - sum

/-- One patch point applied to the header of segment i (R420). -/
def applyPatch (d : List Byte) (i p : Nat) (last : Bool) (h : List Byte) (w : Nat) : List Byte :=
  let off := natBits w 23 16
  let op := natBits w 15 0
  let tmpl := slice d 64 128
  match natBits w 31 24 with
  | 1 => splice h off (beBytes 2 (ofSigned ((segHdr d : Int) - op + p) 16))
  | 2 => splice h off (beBytes 2 (beAt tmpl off 2 + op * i))
  | 3 => splice h off (beBytes 4 (beAt tmpl off 4 + i * segMss d))
  | 4 => splice h off (beBytes 2 (ipChecksum (slice (splice h off [0, 0]) op 20)))
  | 5 => if last then h else splice h off [byte (byteAt h off &&& (255 - op % 256))]
  | _ => h

/-- Segment i of a job (R420). -/
def State.segment (s : State) (d : List Byte) (n i : Nat) : List Byte :=
  let p := min (segMss d) (segLen d - i * segMss d)
  let h := (List.range 8).foldl (fun h k => applyPatch d i p (i + 1 == n) h (segPatch d k)) (slice d 64 (segHdr d))
  h ++ s.segPayload (i * segMss d) p

/-- Where the frames of a job go (R419). -/
def State.segEgress (s : State) (d : List Byte) : Egress × State :=
  if segMask d ≠ 0 then ({ ports := segMask d }, s)
  else
    let t := slice d 64 (segHdr d)
    let (e, s) := s.lookup 9 t
    (if notForwarded t then {} else e.limit 9 t, s)

/-- go is written (R421): every segment is admitted, or counted as dropped, in order. A segment whose EtherType is 0x8808 goes
nowhere (R400). -/
def State.segGo (s : State) : State :=
  if s.is F.SWC_SEG_STATUS_busy then s.leaf switchInvalid
  else
    let d := s.segDesc
    let (e, s) := s.segEgress d
    let fits := (List.range 8).all fun m => !natBit e.ports m || segHdr d + segMss d + 4 ≤ s.get F.ETH_MAC_CFG_max_frame [m]
    if !segFieldsOk d ∨ !fits then ((s.wr .SWC_SEG_STATUS [] 0).setB F.SWC_SEG_STATUS_bad_job [] true).leaf (switchLeaf 2)
    else
      let n := (segLen d + segMss d - 1) / segMss d
      let s := (s.wr .SWC_SEG_STATUS [] 0).setB F.SWC_SEG_STATUS_busy [] true
      s.each (List.range n) fun s i =>
        let f := s.segment d n i
        let e := if etherType f = 0x8808 then {} else e
        match s.admitFrame e (segClass d) { bytes := f, ingress := 9, arrived := s.localTime } with
        | (true, s) => s.inc F.SWC_SEG_STATUS_sent
        | (false, s) => s.inc F.SWC_SEG_STATUS_dropped

/-- SEGMENTATION_JOB_END (R421). -/
def execSegmentationJobEnd (s : State) : Host.Outcome State Fault Refusal :=
  if s.down .ethernet then .next s.clearOut else
  let s := s.clearOut
  .next (s.when (s.is F.SWC_SEG_STATUS_busy) fun s => (s.setB F.SWC_SEG_STATUS_busy [] false).leaf (switchLeaf 1))

/-- HUB_CONTROLLER_FRAME_SEND (R402, R404, R406): the hub controller gives port 9 a frame, without FCS, with its class. -/
def execHubControllerFrameSend (bytes : List Byte) (c : Nat) (s : State) : Host.Outcome State Fault Refusal :=
  if s.down .ethernet then .next s.clearOut else
  let s := s.clearOut
  .next (s.when (14 ≤ bytes.length && bytes.length ≤ 9212 && c < 8) fun s =>
    (s.forward 9 c { bytes := bytes, ingress := 9, arrived := s.localTime }).2)

end Sys2Proof.Machine
end

