-- ==== Sys2Proof/Machine/Reset.lean ====
section
/-! DEFINITION. Resets: the restart of each island, power-on, RESET_N and warm resets, ring-ready, the watchdog and the
FAULT pair, recovery's flash operations, test unlock and PCI Express reset (R491 to R508, R520, R521, R590). The writes that ask for some of these come through the register access file. What the spec leaves to a
reading or a choice stands in log entry 38. -/

namespace Sys2Proof.Machine

/-! Islands of addresses (R30). -/

def alwaysOnAddr (a : Nat) : Bool := 0x40000 ≤ a && a < 0x50000
def ringAddr (a : Nat) : Bool := 0x100000 ≤ a && a < 0x300000
def timeAddr (a : Nat) : Bool := 0x300000 ≤ a && a < 0x400000
def ethAddr (a : Nat) : Bool := 0x500000 ≤ a && a < 0x600000
def canAddr (a : Nat) : Bool := 0x600000 ≤ a && a < 0x700000
def benchAddr (a : Nat) : Bool := 0x1000000 ≤ a && a < 0x2000000
def causeAddr (a : Nat) : Bool := 0x10000 ≤ a && a < 0x20000
def hopperAddr (a : Nat) : Bool :=
  !(alwaysOnAddr a || ringAddr a || timeAddr a || ethAddr a || canAddr a || benchAddr a)

/-- The registers of a range of addresses return to their Reset column, and its memories are cleared (R502). -/
def State.clearRegs (s : State) (gone : Nat → Bool) : State := { s with regs := s.regs.filter fun e => !gone e.1 }

/-- The permits of some kinds are returned, and their requests withdrawn (R503, R568, R570). -/
def State.permitDrop (s : State) (kinds : List PermitKind) : State :=
  ({ s with permits := { held := s.permits.held.filter fun x => !kinds.contains x.1
                         waiting := s.permits.waiting.filter fun w => !kinds.contains w.kind } } : State).permitExamine

/-! Restarts (R500, R502). -/

/-- The outcome of the time calibration of an island (R22) is a free level; a failure sets the time core's leaf 3. -/
def State.calibrate (s : State) (unit : Nat) : Bool × State :=
  let (ok, s) := s.drawLevel
  (ok, s.when (!ok) fun s => s.leaf (timeLeaf 3) unit)

/-- The hopper island restarts: what the straps, the die and the fuses fix stays. `keepCause`
leaves the cause tree and the journal as they are (R512). -/
def State.hopperRestart (s : State) (keepCause : Bool) : State :=
  let fixed (a : Nat) : Bool := a == 0x0C || a == 0x10 || a == 0x14 || a == 0x34 || (keepCause && causeAddr a)
  let tmode := s.get F.TST_MODE_tmode
  let burned := s.get F.GRD_STATUS_fuse_burned
  let s := s.clearRegs fun a => hopperAddr a && !fixed a
  let s := (s.set F.TST_MODE_tmode [] tmode).set F.GRD_STATUS_fuse_burned [] burned
  let s := { s with
    hop := {}
    edge := { s.edge with erased := false }
    brg := {}
    twin := {}
    grd := { deviceKey := s.grd.deviceKey }
    upd := {}
    chip := { s.chip with
      latched := s.chip.latched.filter fun e => e.1 < 2 * 2 ^ 32
      held := s.chip.held.filter fun e => e.1 < 2 * 2 ^ 32
      flashOp := 0, warmWaiting := false, kicked := 0, boot := {}, firmware := [] } }
  s.permitDrop [.crypto, .deltaApply, .scrub, .bist]

/-- The Ethernet island restarts: MACs and switch. -/
def State.ethRestart (s : State) : State :=
  let s := { (s.clearRegs ethAddr) with sw := {} }
  let (ok, s) := s.calibrate 16
  { s with ethTimeValid := ok }

/-- The CAN island restarts. -/
def State.canRestart (s : State) : State :=
  let s := { (s.clearRegs canAddr) with can := [] }
  let (ok, s) := s.calibrate 17
  { s with canTimeValid := ok }

/-- The hopper island restarts and starts again, with its calibration. -/
def State.hopperStarts (s : State) (keepCause : Bool) : State :=
  let (ok, s) := (s.hopperRestart keepCause).calibrate 19
  { s with hopTimeValid := ok }

/-- The ring and the time-core island restart: both domains at 0 s in free-run with rate 0 (R361). -/
def State.ringTimeRestart (s : State) : State :=
  ({ (s.clearRegs fun a => ringAddr a || timeAddr a) with ring := {}, shot := {}, time := {} } : State).permitDrop [.serdes]

/-- The ring island starts, with its calibration. -/
def State.ringStarts (s : State) : State :=
  let (ok, s) := s.calibrate 18
  { s with ringTimeValid := ok }

/-- The FAULT pair is low during every reset (R494). -/
def State.pairLow (s : State) : State := { s with faultPair := .low }

/-- RESET_N (R500, R502, R504): every island except always-on, with the hub number from POS[5:0]. The fields of the always-on
island keep their values, those without a mark 'kept' too: R7 gives a field its Reset value after RESET_N, R500 and R502 leave that
island unrestarted, and the model follows R500 and R502 (DESIGN CHOICE, log entry 38). -/
def State.coldReset (s : State) (pos : Nat) : State :=
  let s := ({ s with permits := {} } : State).each (List.range 16) fun s b => s.benchRestart b false
  let s := (s.hopperStarts false).ringTimeRestart.ringStarts
  let s := { s with chip := { s.chip with latched := [], held := [], linkUp := false, bar0 := 0, bar2 := 0, unlockWindow := false } }
  let s := s.each (List.range 16) fun s b => s.benchRelease b
  let s := s.ethRestart.canRestart
  let s := (s.set F.CHIP_HUBNUM_hub_number [] pos).set F.CHIP_RESET_CAUSE_last [] 1
  (s.set F.CHIP_RESET_CAUSE_warm_count [] 0).pairLow

/-- Power-on reset (R500, R504, R542, R570): every island; in the always-on island what is not kept. TMODE[1:0] is latched,
and the window of the test unlock opens. -/
def State.powerOnReset (s : State) (pos tmode : Nat) : State :=
  let s : State := { s with permits := {}, edge := { s.edge with held := false } }
  let s := s.clearRegs fun a => (0x40400 ≤ a && a < 0x40500) || a == 0x48004
  let s := (s.setB F.EDGE_HOLD_STATUS_disagree [] false).coldReset pos
  let s := (s.set F.TST_MODE_tmode [] tmode).set F.CHIP_RESET_CAUSE_last [] 0
  { s with chip := { s.chip with unlockWindow := tmode % 4 != 0 } }

/-- RESET_N (R501, R507): ignored below 200 ns, complete from 1 µs on, and between them either, as a free level. It is
ignored from the start of the gasp until the hub parks. -/
def execResetN (lowNs pos : Nat) (s : State) : Host.Outcome State Fault Refusal :=
  let s := s.clearOut
  if s.edge.held ∨ s.dying ∨ lowNs < 200 then .next s
  else if 1000 ≤ lowNs then .next (s.coldReset pos)
  else
    let (taken, s) := s.drawLevel
    .next (if taken then s.coldReset pos else s)

/-! Warm reset (R503, R507). -/

/-- The hub leaves integration at once and forwards under R117; it integrates again after ring-ready. Domain A goes on
with its own sources (R366). -/
def State.leaveRing (s : State) : State :=
  if s.integrated then
    let s := s.leaveIntegration.setPhase 4
    { s with ring := { s.ring with starting := false, withdrawnLeft := 0 } }
  else s

/-- The warm reset itself. -/
def State.warmNow (s : State) : State :=
  let count := satInc (s.get F.CHIP_RESET_CAUSE_warm_count) 255
  let s := (s.permitDrop [.crypto, .settReload, .dresserBurst, .deltaApply, .scrub, .bist]).leaveRing
  let s := s.each (List.range 8) fun s i => s.fwDriveWrite i 0
  let s := s.each (List.range 16) fun s b => s.benchRestart b true
  let s := s.hopperStarts false
  let s := s.each (List.range 16) fun s b => s.benchRelease b
  let s := s.ethRestart.canRestart
  ((s.set F.CHIP_RESET_CAUSE_last [] 2).set F.CHIP_RESET_CAUSE_warm_count [] count).pairLow

/-- A handover of a bench is in progress (R507): the benches are being taken. -/
def State.handingOver (s : State) : Bool :=
  (s.get F.UPD_STATUS_state == 4 || s.get F.UPD_STATUS_state == 6) && s.round == s.upd.atRound

/-- A power-on or RESET_N reset is in progress: the load it runs has not begun (R507). -/
def State.coldInProgress (s : State) : Bool := s.get F.CFG_STATUS_state == 0 && s.get F.CHIP_RESET_CAUSE_last != 2

/-- CHIP_RESET.warm is written with 1 (R500, R507): at once, or when the bench handover in progress ends; ignored during a reset
that restarts more islands. -/
def State.warmWrite (s : State) : State :=
  if s.coldInProgress then s
  else if s.handingOver then { s with chip := { s.chip with warmWaiting := true } } else s.warmNow

/-! Ring-ready, watchdog and FAULT pair (R149, R491 to R494, R508). -/

/-- The hub is ring-ready. -/
def State.ringReady (s : State) : Bool := s.get F.CFG_STATUS_state == 5

/-- RING_READY (R149, R494, R508): lock reported, the key-store writes of the load complete (R470), and firmware started: the benches' firmware runs and starts its
instances, the watchdog begins, and the SerDes permits of the enabled ports are asked for. -/
def execRingReady (s : State) : Host.Outcome State Fault Refusal :=
  if s.down .hopper then .next s.clearOut else
  let s := s.clearOut
  let busy := (List.range 32).any fun k => (s.keySlot k).waiting
  if s.is F.CHIP_STATUS_cfg_locked ∧ s.get F.CFG_STATUS_state = 4 ∧ !busy then
    let s := s.each [Side.east, Side.west] fun s p => s.when (s.portEnabled p && s.portState p != 6) fun s => s.permitAsk .serdes (sideIx p)
    let s := s.each (List.range 16) fun s b => (s.setB F.BNCH_STATUS_fw_running [b] true).startInstances b
    let s := (s.set F.CFG_STATUS_state [] 5).setB F.CAUSE_FAULT_STATUS_not_ready [] false
    .next { s with chip := { s.chip with kicked := s.time.cycles }, edge := { s.edge with erased := false } }
  else .next s

/-- The watchdog is kicked (R494). -/
def State.kick (s : State) : State := { s with chip := { s.chip with kicked := s.time.cycles } }

/-- CONTROLLER_WATCHDOG_EXPIRY (R494): from ring-ready on. -/
def execControllerWatchdogExpiry (s : State) : Host.Outcome State Fault Refusal :=
  if s.down .hopper then .next s.clearOut else
  let s := s.clearOut
  .next (s.when s.ringReady fun s => s.raiseFault 5)

/-- REFCLK_LOSS (R491). -/
def execRefclkLoss (s : State) : Host.Outcome State Fault Refusal := .next (s.clearOut.when (!s.edge.held) fun s => (s.leaf (timeLeaf 16)).raiseFault 4)

/-- FAULT_PAIR_SWAP (R493, R494): a healthy, ring-ready hub drives opposite levels and swaps them, A high first. -/
def execFaultPairSwap (s : State) : Host.Outcome State Fault Refusal :=
  let s := s.clearOut
  if s.ringReady ∧ ¬ s.chipFault then
    .next { s with faultPair := match s.faultPair with | .aHigh => .aLow | _ => .aHigh }
  else .next { s with faultPair := .low }

/-! Recovery (R520, R521). -/

/-- CFG_BOOT.reload is written with 1 (R521): a new load from the boot record follows, as at power-on; ignored outside recovery.
The islands held in recovery start again, each with its calibration (R22), and every bench measures its bank (R585). -/
def State.reload (s : State) : State :=
  if s.inRecovery then
    let s := (s.wr .CFG_STATUS [] 0).ringStarts
    let s := s.each (List.range 16) fun s b => s.benchRelease b
    s.ethRestart.canRestart
  else s

/-- A write of CFG_FLASH_CMD (R521): ignored while busy; an address that the operation does not allow is refused. -/
def State.flashCommand (s : State) (op : Nat) : State :=
  if s.is F.CFG_FLASH_CMD_busy ∨ op = 0 then s
  else
    let unit := if op = 3 then sectorSize else 256
    if s.get F.CFG_FLASH_ADDR_address % unit ≠ 0 then s.setB F.CFG_FLASH_CMD_error [] true
    else
      let s := (s.setB F.CFG_FLASH_CMD_busy [] true).setB F.CFG_FLASH_CMD_error [] false
      { s with chip := { s.chip with flashOp := op } }

/-- The flash buffer as bytes. -/
def State.flashBuffer (s : State) : List Byte := (List.range 64).flatMap fun k => leBytes 4 (s.rd .CFG_FLASH_BUF [k])

/-- FLASH_OPERATION_END (R521, R527): the operation is complete, or has failed. A failure with no operation of the CFG_
registers in progress is one of the update engine's erases and programs. An erase is suspended in a gasp and does not end (R558). -/
def execFlashOperationEnd (ok : Bool) (s : State) : Host.Outcome State Fault Refusal :=
  if s.down .hopper then .next s.clearOut else
  let s := s.clearOut
  let op := s.chip.flashOp
  if op = 3 ∧ s.dying then .next s
  else if op = 0 then .next (if !ok && (s.updState == 1 || s.updState == 2) then (s.updRefuse 0x04).permitExamine else s)
  else
    let addr := s.get F.CFG_FLASH_ADDR_address
    let s := { s with chip := { s.chip with flashOp := 0 } }
    let s := (s.setB F.CFG_FLASH_CMD_busy [] false).setB F.CFG_FLASH_CMD_error [] (!ok)
    if !ok then .next s
    else match op with
      | 1 =>
        let page := s.flashAt addr 256
        .next (s.each (List.range 64) fun s k => s.wr .CFG_FLASH_BUF [k] (leAt page (4 * k) 4))
      | 2 => .next (s.setFlash (flashProgram s.chip.flash addr s.flashBuffer))
      | _ => .next (s.setFlash (flashErase s.chip.flash addr sectorSize))

/-- JOURNAL_ERASE_COMPLETE (R561): the sector that does not hold the newest committed flush has been erased. -/
def execJournalEraseComplete (s : State) : Host.Outcome State Fault Refusal :=
  if s.down .hopper then .next s.clearOut else
  let s := s.clearOut
  if s.ringReady ∧ ¬ s.dying then
    let s := s.setFlash (flashErase s.chip.flash (s.chip.boot.journal + s.flushSector * sectorSize) sectorSize)
    .next { s with edge := { s.edge with erased := true } }
  else .next s

/-! Test unlock and PCI Express (R499, R504, R590). -/

/-- TST_UNLOCK is written (R504): inside the window factory test is unlocked, outside it test leaf 2 is set. -/
def State.testUnlock (s : State) : State :=
  if s.chip.unlockWindow && s.get F.CFG_STATUS_state == 0 then s.setB F.TST_MODE_unlocked [] true else s.leaf (testLeaf 2)

/-- The PCI Express link goes up or down (R484): a change sets host leaf 5. -/
def State.pcieLink (s : State) (up : Bool) : State :=
  if s.chip.linkUp = up then s
  else ({ s with chip := { s.chip with linkUp := up } } : State).leaf (hostLeaf 5)

/-- The configuration space of the PCI Express function in reset (R590). -/
def State.pcieReset (s : State) : State := { s with chip := { s.chip with bar0 := 0, bar2 := 0 } }

/-- PCIE_PERST (R590): while PCIE_PERST_N is low the link is held down and the configuration space is in reset. -/
def execPciePerst (low : Bool) (s : State) : Host.Outcome State Fault Refusal :=
  let s := { s.clearOut with chip := { s.clearOut.chip with perst := low } }
  .next (s.when low fun s => (s.pcieLink false).pcieReset)

/-- PCIE_LINK_CHANGE (R484, R590): the link cannot come up while it is held down. -/
def execPcieLinkChange (up : Bool) (s : State) : Host.Outcome State Fault Refusal :=
  let s := s.clearOut
  .next (if up && (s.chip.perst || s.edge.held || s.dying) then s else s.pcieLink up)

end Sys2Proof.Machine
end

