-- ==== Sys2Proof/Machine/Live.lean ====
section
/-! DEFINITION. What every register reads as, and what reading it changes (R6, R8, R33 to R35, R476, R488). What the
spec leaves to a reading or a choice stands in log entries 8 and 10. -/

namespace Sys2Proof.Machine

/-! Paths (R35, R347). -/

/-- The latch number of a path. -/
def pathLatch : Path → Nat
  | .pcie => 0
  | .spi => 1
  | .hubController => 2
  | .guarded => 3
  | .loader => 4
  | .bench b _ => 16 + b
  | .remote h p _ => 1024 + 256 * h + p

/-- A path that does not wait for the outcome of a write. -/
def postedPath : Path → Bool
  | .pcie => true
  | .remote _ _ _ => true
  | _ => false

/-- The designated pairs: the register of the high word of a low word (R35). -/
def highOf : Reg → Option Reg
  | .CHIP_UID_LO => some .CHIP_UID_HI
  | .RING_ROUND_LO => some .RING_ROUND_HI
  | .RING_HUBMAP_UID_LO => some .RING_HUBMAP_UID_HI
  | .SETT_STAMP_LO => some .SETT_STAMP_HI
  | .TIME_MEAS_LO => some .TIME_MEAS_HI
  | .TIME_CAP_NS => some .TIME_CAP_SEC
  | .GRD_KEY_CTR_LO => some .GRD_KEY_CTR_HI
  | _ => none

/-- The register of the low word of a high word. -/
def lowOf : Reg → Option Reg
  | .CHIP_UID_HI => some .CHIP_UID_LO
  | .RING_ROUND_HI => some .RING_ROUND_LO
  | .RING_HUBMAP_UID_HI => some .RING_HUBMAP_UID_LO
  | .SETT_STAMP_HI => some .SETT_STAMP_LO
  | .TIME_MEAS_HI => some .TIME_MEAS_LO
  | .TIME_CAP_SEC => some .TIME_CAP_NS
  | .GRD_KEY_CTR_HI => some .GRD_KEY_CTR_LO
  | _ => none

/-- A register with read side effects (R33): the OUT mailbox, and the low word of a designated pair. -/
def readSideEffects (r : Reg) : Bool := r == .SETT_MBOX_OUT || (highOf r).isSome

/-! Leaves as a face sees them (R488). -/

/-- The leaves of word w that a path of face f may read, or write, as a mask; a reserved leaf is none (R8, R485). -/
def State.leafMask (s : State) (f w : Nat) (write : Bool) : Nat :=
  (List.range 32).foldl (fun a j =>
    let g := s.leafFace (32 * w + j)
    a + b2n (leafAssigned (32 * w + j) && (f == 0 || g == f || (!write && g == 0))) * 2 ^ j) 0

/-- The pending leaves of a group for a path of face f. -/
def State.groupSeen (s : State) (f g : Nat) : Nat :=
  let (first, count) := groupRange g
  let per := if g = 19 then 8 else if g = 20 then 4 else 1
  let seen (n : Nat) : Bool := s.leafPending n && (f == 0 || s.leafFace n == f || s.leafFace n == 0)
  (List.range (count / per)).foldl
    (fun acc u => acc + b2n ((List.range per).any fun i => seen (first + u * per + i)) * 2 ^ u) 0

/-- A bitmap of remote entries pending, from entry `first` on (R496). -/
def State.remoteBits (s : State) (first : Nat) : Nat :=
  (List.range 32).foldl (fun a j => a + b2n (s.remotePending (first + j)) * 2 ^ j) 0

/-! The word a register reads as. -/

/-- BRG_STATUS as it reads. -/
def State.bridgeStatusWord (s : State) : Nat :=
  s.tagsUsed * 2 ^ 24 + ((List.range 16).filter s.windowBusy).length * 2 ^ 16 + s.postedFill

/-- TWIN_MEMBER(k, m) as it reads (R445). -/
def State.twinMemberWord (s : State) (k m : Nat) : Nat :=
  let w := s.rd .TWIN_MEMBER [k, m]
  if s.is F.TWIN_MEMBER_valid [k, m] then natSetBits w 30 24 (s.claimAge k m) else w

/-- A snapshot word of the time core for a path (R362). -/
def State.snapWord (s : State) (p : Path) (d : Nat) (r : Reg) : Nat :=
  let t := s.snapOf (pathLatch p) d
  match r with
  | .TIME_SNAP_NS => nsOf t
  | .TIME_SNAP_SEC => secOf t % 2 ^ 32
  | _ => fracOf t * 2 ^ 16 + secOf t / 2 ^ 32

/-- The word of a register as it stands, without the latch of R35. -/
def State.liveWord (s : State) (p : Path) (r : Reg) (ix : List Nat) : Nat :=
  let i := ix.getD 0 0
  let j := ix.getD 1 0
  let f := s.pathFace p
  let stored := s.rd r ix
  match r with
  | .SETT_STATUS => s.settStatusWord i j
  | .SETT_STAMP_LO => (stampWords (s.sett i j)).1
  | .SETT_STAMP_HI => stampHigh (s.sett i j)
  | .SETT_REG => regOf (s.sett i j) (ix.getD 2 0)
  | .SETT_EDGE_CNT => (s.sett i j).edgeCount
  | .DRS_STATUS => s.dresserStatusWord i
  | .DRS_CMP_RELEASE => s.cmpRelease i j
  | .HOP_STATUS => s.hopStatusWord
  | .HOP_QSNAP_LO => smGet s.hop.snaps (pathLatch p) 0 % 2 ^ 32
  | .HOP_QSNAP_HI => smGet s.hop.snaps (pathLatch p) 0 / 2 ^ 32
  | .HOP_HELD => s.inHeld i j * 2 ^ 16 + s.outHeld i j
  | .HOP_QSTATE => if j = 0 then s.queueState i % 2 ^ 32 else s.queueState i / 2 ^ 32
  | .HOP_CELL => leAt (s.cellBytes i) (4 * j) 4
  | .SLOT_TABLE => s.slotTableWord i j
  | .RING_REACH => if i = s.hub then 0 else stored
  | .SHOT_OWN => s.shotOwnWord
  | .SHOT_IMAGE => s.imageWord i
  | .BRG_STATUS => s.bridgeStatusWord
  | .TIME_SNAP_NS => s.snapWord p i r
  | .TIME_SNAP_SEC => s.snapWord p i r
  | .TIME_SNAP_EXT => s.snapWord p i r
  | .ETH_MAC_STATUS => natSetBits stored 15 0 (s.pauseLeft i)
  | .SWC_HELD => s.swHeld i j
  | .CAN_STATUS => s.canStatusWord i
  | .TWIN_STATUS => s.twinStatusWord
  | .TWIN_MEMBER => s.twinMemberWord i j
  | .GRD_STATUS => s.grdStatusWord
  | .CAUSE_SUMMARY => s.summary
  | .CAUSE_GROUP => s.groupSeen f i
  | .CAUSE_LEAF => stored &&& s.leafMask f i false
  | .CAUSE_EN => stored &&& s.leafMask f i false
  | .CAUSE_REMOTE_PEND_LO => s.remoteBits 0
  | .CAUSE_REMOTE_PEND_HI => s.remoteBits 32
  | .PMT_STATUS => s.permitStatus
  | .PMT_KIND => s.permitKindWord i
  | _ => stored

/-- What a read returns: WO fields and reserved bits read 0 (R6, R8). -/
def State.readWord (s : State) (p : Path) (r : Reg) (ix : List Nat) : Nat :=
  s.liveWord p r ix &&& (2 ^ 32 - 1 - r.desc.wo % 2 ^ 32)

/-! Latches (R35, R36). -/

/-- The key of a pair's latches: one for each path and pair (DESIGN CHOICE, log entry 8). -/
def latchKey (p : Path) (lowAddr : Nat) : Nat := pathLatch p * 2 ^ 32 + lowAddr

def State.latched (s : State) (p : Path) (lowAddr : Nat) : Option Nat := smGet s.chip.latched (latchKey p lowAddr) none
def State.setLatched (s : State) (p : Path) (lowAddr : Nat) (v : Option Nat) : State :=
  { s with chip := { s.chip with latched := smSet s.chip.latched (latchKey p lowAddr) v none } }
def State.heldLow (s : State) (p : Path) (lowAddr : Nat) : Option Nat := smGet s.chip.held (latchKey p lowAddr) none
def State.setHeldLow (s : State) (p : Path) (lowAddr : Nat) (v : Option Nat) : State :=
  { s with chip := { s.chip with held := smSet s.chip.held (latchKey p lowAddr) v none } }

/-- What reading the low word of a pair changes beside the latch (R189, R386). -/
def State.pairReadEffect (s : State) (r : Reg) (ix : List Nat) : State :=
  match r with
  | .SETT_STAMP_LO => s.stampRead (ix.getD 0 0) (ix.getD 1 0)
  | .TIME_CAP_NS => if ix.getD 0 0 = 0 then s.captureRead else s
  | _ => s

/-- A 32-bit read of a register that is not refused: its word, and the state after (R35, R196). none is an empty OUT
mailbox. -/
def State.readReg (s : State) (p : Path) (r : Reg) (ix : List Nat) : Option (Nat × State) :=
  let addr := r.addr ix
  match r with
  | .SETT_MBOX_OUT => s.mboxTake (ix.getD 0 0) (ix.getD 1 0)
  | _ =>
    match highOf r, lowOf r with
    | some h, _ =>
      let lo := s.readWord p r ix
      some (lo, (s.setLatched p addr (some (s.readWord p h ix))).pairReadEffect r ix)
    | none, some _ =>
      match s.latched p (addr - 4) with
      | some v => some (v, s)
      | none => some (s.readWord p r ix, s)
    | none, none => some (s.readWord p r ix, s)

end Sys2Proof.Machine
end

