-- ==== Sys2Proof/Machine/RegWrite.lean ====
section
/-! DEFINITION. What a write that is not refused does to a register: the fields it changes (R6, R8, R9, R610), and the
effect its chapter gives it. What the spec leaves to a reading or a choice stands in log entry 8. -/

namespace Sys2Proof.Machine

/-! Fields a write leaves (R9, R109, R333, R387, R418, R610). -/

/-- The bits of a word outside a mask. -/
def outside (w mask : Nat) : Nat := w &&& (2 ^ 32 - 1 - mask % 2 ^ 32)

/-- The bits of a field, when a condition holds. -/
def keepIf (c : Bool) (f : Fld) : Nat := if c then f.mask else 0

/-- The two-bit fields of a word that hold 0b11, as a mask. -/
def threes (w : Nat) : Nat :=
  (List.range 16).foldl (fun a j => a + if natBits w (2 * j + 1) (2 * j) = 3 then 3 * 2 ^ (2 * j) else 0) 0

/-- A source code of a domain that R364 reserves. -/
def reservedSource (d code : Nat) : Bool := !(code == 0 || code == 2 || code == 3 || (code == 4 && d == 1))

/-- A change of comparator mode would break the relation of its levels (R297). -/
def State.breaksRelation (s : State) (b m w : Nat) : Bool :=
  !levelsOk (F.DRS_CMP_CFG_mode.of w != 0) (s.rd .DRS_CMP_LIMIT [b, m]) (s.cmpRelease b m)

/-- The bits of the fields to which a written word gives a reserved encoding, or a value the register does not take as it
stands. Whether HOP_EP_CFG.unit is reserved is judged by the kind written with it (DESIGN CHOICE, log entry 8). -/
def State.reservedBits (s : State) (p : Path) (r : Reg) (ix : List Nat) (w : Nat) : Nat :=
  let i := ix.getD 0 0
  let j := ix.getD 1 0
  let low (f : Fld) (n : Nat) : Nat := keepIf (f.of w < n) f
  let differs (c : Bool) (f : Fld) : Nat := keepIf (c && f.of w != f.of (s.rd r ix)) f
  match r with
  | .RING_CTRL => keepIf (F.RING_CTRL_round_len.of w == 3) F.RING_CTRL_round_len
      ||| keepIf (s.isMaster && F.RING_CTRL_transit_only.of w == 1) F.RING_CTRL_transit_only
  | .SLOT_TABLE => keepIf (F.SLOT_TABLE_mode.of w == 3) F.SLOT_TABLE_mode
  | .SHOT_FAILSAFE => threes w
  | .TIME_DOM_CFG => keepIf (reservedSource i (F.TIME_DOM_CFG_src1.of w)) F.TIME_DOM_CFG_src1
      ||| keepIf (reservedSource i (F.TIME_DOM_CFG_src2.of w)) F.TIME_DOM_CFG_src2
  | .TIME_PPS_CFG => keepIf (F.TIME_PPS_CFG_cap_src.of w == 3) F.TIME_PPS_CFG_cap_src ||| low F.TIME_PPS_CFG_width_ms 1
  | .TIME_TRIG_PERIOD => keepIf (s.is F.TIME_TRIG_CFG_enable [i]) F.TIME_TRIG_PERIOD_ns
  | .TIME_TRIG_PHASE => keepIf (s.is F.TIME_TRIG_CFG_enable [i]) F.TIME_TRIG_PHASE_ns
  | .HOP_CLASS_CFG => keepIf (F.HOP_CLASS_CFG_path.of w == 3) F.HOP_CLASS_CFG_path
  | .HOP_HRING_BASE_LO => keepIf (s.is F.HOP_HRING_CFG_enable [i]) F.HOP_HRING_BASE_LO_base
  | .HOP_HRING_BASE_HI => keepIf (s.is F.HOP_HRING_CFG_enable [i]) F.HOP_HRING_BASE_HI_base
  | .HOP_HRING_CFG => low F.HOP_HRING_CFG_size_log2 4 ||| low F.HOP_HRING_CFG_irq_every 1
      ||| differs (s.is F.HOP_HRING_CFG_enable [i]) F.HOP_HRING_CFG_size_log2
  | .HOP_HRING_TAIL =>
      let posted := (F.HOP_HRING_TAIL_tail.of w + 2 ^ 16 - s.get F.HOP_HRING_HEAD_head [i]) % 2 ^ 16
      keepIf (2 ^ s.get F.HOP_HRING_CFG_size_log2 [i] < posted) F.HOP_HRING_TAIL_tail
  | .HOP_EP_CFG => keepIf (7 < F.HOP_EP_CFG_kind.of w) F.HOP_EP_CFG_kind
      ||| keepIf (F.HOP_EP_CFG_kind.of w == 7 && 2 < F.HOP_EP_CFG_unit.of w) F.HOP_EP_CFG_unit
  | .ETH_MAC_CFG => keepIf (2 < F.ETH_MAC_CFG_iface.of w) F.ETH_MAC_CFG_iface
      ||| keepIf (F.ETH_MAC_CFG_speed.of w == 3) F.ETH_MAC_CFG_speed
      ||| low F.ETH_MAC_CFG_max_frame 1522 ||| keepIf (9216 < F.ETH_MAC_CFG_max_frame.of w) F.ETH_MAC_CFG_max_frame
  | .SWC_SAMPLE_CFG => low F.SWC_SAMPLE_CFG_n 1
  | .SWC_GATE_CYCLE => keepIf (s.gateBankHeld p i j) F.SWC_GATE_CYCLE_ns
  | .SWC_GATE_PHASE => keepIf (s.gateBankHeld p i j) F.SWC_GATE_PHASE_ns
  | .SWC_GATE_ENTRY => if s.gateBankHeld p i j then 2 ^ 32 - 1 else 0
  | .BNCH_PAD => keepIf (F.BNCH_PAD_pull.of w == 3) F.BNCH_PAD_pull
  | .BNCH_BANK => keepIf (F.BNCH_BANK_vio.of w == 3) F.BNCH_BANK_vio
  | .DRS_CH_CFG => low F.DRS_CH_CFG_ratio 16 ||| keepIf (4096 < F.DRS_CH_CFG_ratio.of w) F.DRS_CH_CFG_ratio
  | .DRS_CH_GAIN => keepIf (notFinite w) F.DRS_CH_GAIN_gain
  | .DRS_CH_OFFSET => keepIf (notFinite w) F.DRS_CH_OFFSET_offset
  | .DRS_CMP_CFG => low F.DRS_CMP_CFG_count_k 1 ||| low F.DRS_CMP_CFG_release_k 1
      ||| keepIf (F.DRS_CMP_CFG_policy.of w == 3) F.DRS_CMP_CFG_policy ||| keepIf (s.breaksRelation i j w) F.DRS_CMP_CFG_mode
  | .BRG_CFG => low F.BRG_CFG_read_timeout 1
  | .BRG_POLL_CFG => low F.BRG_POLL_CFG_period 1
  | .BRG_POLL_ADDR => keepIf (w % 4 != 0) F.BRG_POLL_ADDR_address
  | .CAN_NBT => low F.CAN_NBT_tseg2 1
  | .CAN_WAKE_CFG => low F.CAN_WAKE_CFG_dom_filter 5 ||| keepIf (50 < F.CAN_WAKE_CFG_dom_filter.of w) F.CAN_WAKE_CFG_dom_filter
  | .CAN_KA_MATCH => low F.CAN_KA_MATCH_timeout_periods 2
  | .TWIN_PAIR_CFG => low F.TWIN_PAIR_CFG_base 1 ||| keepIf (F.TWIN_PAIR_CFG_base.of w == 63) F.TWIN_PAIR_CFG_base
      ||| keepIf (6000 < F.TWIN_PAIR_CFG_holdoff.of w) F.TWIN_PAIR_CFG_holdoff
  | .GRD_CFG => low F.GRD_CFG_timeout 66
  | .UPD_CFG => low F.UPD_CFG_spacing 1 ||| low F.UPD_CFG_trial_s 1
  | .UPD_CHUNK_CTRL => low F.UPD_CHUNK_CTRL_length 1 ||| keepIf (4096 < F.UPD_CHUNK_CTRL_length.of w) F.UPD_CHUNK_CTRL_length
  | .EDGE_HS_CFG => low F.EDGE_HS_CFG_p_lim 1 ||| low F.EDGE_HS_CFG_r_sense 1 ||| low F.EDGE_HS_CFG_t_inrush 1
  | .EDGE_FUSE_CFG => low F.EDGE_FUSE_CFG_t_fault 1
  | .EDGE_RETRY => low F.EDGE_RETRY_retry 1 ||| keepIf (600 < F.EDGE_RETRY_retry.of w) F.EDGE_RETRY_retry
  | .EDGE_THERM_MODEL => low F.EDGE_THERM_MODEL_tau1 1 ||| low F.EDGE_THERM_MODEL_tau2 1
  | .EDGE_RAIL_CFG => low F.EDGE_RAIL_CFG_t_pg 1
  | .EDGE_HOLD_CFG2 => low F.EDGE_HOLD_CFG2_r_hold 1
  | .PMT_CFG => low F.PMT_CFG_wait_limit 1 ||| low F.PMT_CFG_budget 4
  | _ => 0

/-- The invalid-setting leaf of a register's block, where its block has one (R484). -/
def invalidLeaf (addr : Nat) : Option Nat :=
  if ringAddr addr then some (ringLeaf 18)
  else if timeAddr addr then some (timeLeaf 7)
  else if 0x2000000 ≤ addr ∧ addr < 0x2100000 then some (hopLeaf 6)
  else if 0x500000 ≤ addr ∧ addr < 0x580000 then some (macLeaf (addr / 0x100 % 8) 1)
  else if 0x580000 ≤ addr ∧ addr < 0x600000 then some switchInvalid
  else if benchAddr addr then some (benchLeaf (addr / 0x100000 - 16) 15)
  else if 0x48000 ≤ addr ∧ addr < 0x50000 then some (governorLeaf 1)
  else if 0x40000 ≤ addr ∧ addr < 0x48000 then some (edgeLeaf 18)
  else none

/-- Fields whose change waits for the selected domain's whole millisecond (R375): not stored by the write itself. -/
def deferredBits : Reg → Nat
  | .TIME_SEL => F.TIME_SEL_can.mask ||| F.TIME_SEL_bench.mask
  | .TIME_TRIG_CFG => F.TIME_TRIG_CFG_domain.mask
  | .TIME_PTP_PORT => F.TIME_PTP_PORT_domain.mask
  | .TIME_PPS_CFG => F.TIME_PPS_CFG_out_domain.mask
  | _ => 0

/-- The bits of a register that a write may change: RW fields, and RWL fields before the lock. -/
def Reg.openBits (r : Reg) (locked : Bool) : Nat := r.desc.rw ||| if locked then 0 else r.desc.rwl

/-- The fields a write changes are written, W1C bits cleared, reserved encodings turned away under R9, and locked fields
left under R610. A reserved code written over the same reserved code, such as TWIN_PAIR_CFG.base = 0 over its reset value, changes no
field: the words are compared, and leaf 800 is not set (log entry 8). -/
def State.storeWord (s : State) (p : Path) (locked : Bool) (r : Reg) (ix : List Nat) (w : Nat) : State :=
  let w := w % 2 ^ 32
  let bad := s.reservedBits p r ix w &&& r.openBits locked
  let live := outside (outside (r.openBits locked) bad) (deferredBits r)
  let stored := s.rd r ix
  let differs := locked && (w ^^^ s.readWord p r ix) &&& r.desc.rwl != 0
  let s := s.wr r ix (outside (outside stored live ||| (w &&& live)) (w &&& r.desc.w1c))
  let s := s.when (bad != 0) fun s => match invalidLeaf (r.addr ix) with | some n => s.leaf n (if 608 ≤ n ∧ n < 672 then (n - 608) / 8 else 0) | none => s
  s.when differs fun s => s.leaf (loadLeaf 0)

/-! Effects. -/

/-- The owner of a quad pin changes: pending edges of the former owner on that pin are discarded (R194). The spec does not say
whether a pin in its safe state, or released after a reset, takes a new safe state when the load or reload writes
BNCH_QUAD_CFG.safe: here the pin stays as it was (log entry 18). -/
def State.ownersChanged (s : State) (old : State) (b q : Nat) : State :=
  s.each (List.range 4) fun s j =>
    let p := 4 * q + j
    if old.owner b p = s.owner b p then s
    else s.onSett b (old.ownerSett b p) fun t => { t with edges := t.edges.filter fun e => e.pin % 4 != j }

/-- The selections TIME_SEL asks for (R375). -/
def State.selectAll (s : State) (w : Nat) : State :=
  let s := s.each (List.range 16) fun s b => s.selectDomain (.bench b) (domOf (w / 2 ^ b))
  s.selectDomain .can (domOf (w / 2 ^ 16))

/-- A host ring is enabled (R333, R338). The recovery that leaf 7 of the hopper shows ends with the last ring that had stopped
(R490). -/
def State.hringEnable (s : State) (r : Nat) : State :=
  let s := ((s.wr .HOP_HRING_HEAD [r] 0).wr .HOP_HRING_TAIL [r] 0).setRing r {}
  s.when ((List.range 16).all fun k => !s.is F.HOP_HRING_HEAD_stopped [k]) fun s => s.recovered (hopLeaf 7)

/-- A BIST of a bench is started (R573). -/
def State.bistStart (s : State) (b : Nat) : State :=
  let s := ((s.wr .TST_BIST_STATUS [] 0).set F.TST_BIST_STATUS_state [] 1).set F.TST_BIST_STATUS_bench [] b
  s.permitAsk .bist 0

/-- A chunk is committed (R523, R527). -/
def State.chunkGo (s : State) : State :=
  if s.updState ≠ 1 ∨ s.get F.UPD_CHUNK_CTRL_index ≠ s.upd.next then (s.updRefuse 0x03).permitExamine
  else
    let s := s.setB F.UPD_CHUNK_CTRL_busy [] true
    let s := { s with upd := { s.upd with waiting := true } }
    if s.permitHeld .deltaApply 0 then s.chunkConsume.permitExamine else s.permitAsk .deltaApply 0

/-- The command bits of CAN_CTRL (R430, R431, R434 to R436). -/
def State.canWritten (s : State) (n w : Nat) : State :=
  let s := if F.CAN_CTRL_enable.of w = 1 then s.canEnable n else s.canDisable n
  let s := s.canWantAwake n
  let s := s.when (F.CAN_CTRL_recover.of w == 1) fun s => s.canRecover n
  s.when (F.CAN_CTRL_sleep_now.of w == 1) fun s => s.canSleepNow n

/-- What a write does beside the fields it stores; `old` is the state before it. -/
def State.afterWrite (s : State) (old : State) (p : Path) (locked : Bool) (r : Reg) (ix : List Nat) (w : Nat) : State :=
  let i := ix.getD 0 0
  let j := ix.getD 1 0
  let bit (n : Nat) (f : State → State) : State := s.when (natBit w n) f
  match r with
  | .RING_START_CTRL => bit 8 fun s => s.announceHandoff
  | .SETT_CTRL => s.settCommand i j (w % 8)
  | .BNCH_GROUP_CMD => s.groupWrite i w
  | .BNCH_QUAD_CFG => s.ownersChanged old i j
  | .BNCH_PAD => s.padWritten old i j
  | .DRS_CH_CFG =>
    let s := s.when (s.is F.DRS_CH_CFG_enable ix && !old.is F.DRS_CH_CFG_enable ix) fun s => s.clearFilter i j
    let s := s.when (natBit w 18) fun s => s.coefficientsApply i j
    s.when (p != .loader && !locked) fun s => s.burstAsk i
  | .DRS_CMP_CFG => s.cmpFollow old i j
  | .DRS_GROUP_CFG => s.when (p != .loader && !locked) fun s => s.burstAsk i
  | .HOP_SCRUB_CTRL => bit 0 fun s => s.permitAsk .scrub 0
  | .HOP_QSNAP_SEL =>
    { s with hop := { s.hop with snaps := smSet s.hop.snaps (pathLatch p) (s.queueState (w % 2 ^ 20)) 0 } }
  | .HOP_HRING_CFG => s.when (s.is F.HOP_HRING_CFG_enable ix && !old.is F.HOP_HRING_CFG_enable ix) fun s => s.hringEnable i
  | .TIME_SNAP => s.timeSnap (pathLatch p)
  | .TIME_SEL => s.selectAll w
  | .TIME_DOM_CFG => if locked then s else (s.showSource (domOf i)).checkSources (domOf i)
  | .TIME_PPS_CFG =>
    let s := s.when (natBit w 27) fun s => s.capture false
    let s := s.ppsSettle
    if locked then s else s.selectDomain .ppsOut (domOf (F.TIME_PPS_CFG_out_domain.of w))
  | .TIME_TRIG_CFG => s.selectDomain (.trigger i) (domOf (F.TIME_TRIG_CFG_domain.of w))
  | .TIME_PTP_PORT => s.selectDomain (.ethPort i) (domOf (F.TIME_PTP_PORT_domain.of w))
  | .ETH_MAC_CFG => (s.macEnable i (s.is F.ETH_MAC_CFG_enable ix)).when (!old.is F.ETH_MAC_CFG_enable ix) fun s => s.advertise i
  | .SWC_SAMPLE_CFG => { s with sw := { s.sw with samples := smSet s.sw.samples i 0 0 } }
  | .SWC_GATE_CTRL => bit 0 fun s => s.gateSwap i
  | .SWC_SEG_CTRL => bit 0 fun s => s.segGo
  | .CAN_CTRL => s.canWritten i w
  | .TWIN_CFG => s.twinRefreshAll
  | .TWIN_PAIR_CFG => s.twinRefreshAll
  | .TWIN_GUARD => s.twinRefreshAll
  | .GRD_FUSE_KEY => { s with grd := { s.grd with stagedKey := natSetBits s.grd.stagedKey (32 * i + 31) (32 * i) w } }
  | .GRD_FUSE_CTRL => bit 0 fun s => s.fuseBurn
  | .GRD_WIN_CTRL => bit 31 fun s => s.submitWindow i
  | .CAUSE_FAULT_CTRL => ((bit 31 fun s => s.kick)).when (natBit w 30) fun s => s.raiseFault 6
  | .CHIP_RESET => bit 0 fun s => s.warmWrite
  | .CFG_BOOT => bit 31 fun s => s.reload
  | .CFG_FLASH_CMD => s.flashCommand (w % 4)
  | .UPD_CHUNK_CTRL => s.chunkGo
  | .TST_BIST_CTRL => bit 31 fun s => s.bistStart (w % 16)
  | .TST_UNLOCK => s.testUnlock
  | .PMT_CFG => s.permitJudge.permitExamine
  | _ => s

/-- Bits of a CAUSE_LEAF word that are cleared: each clears its record too (R487, R490). -/
def State.leavesClear (s : State) (w mask : Nat) : State :=
  s.each (List.range 32) fun s j => s.when (natBit mask j) fun s => s.leafClear (32 * w + j)

/-- The lock holds for a path: the loader writes before it (R50). -/
def State.lockedFor (s : State) (p : Path) : Bool := s.is F.CHIP_STATUS_cfg_locked && p != .loader

/-- A 32-bit write to a register that is not refused under R34, by face or as guarded. none is a refusal by the register's
own chapter: a full mailbox (R196), or the high word of a pair without a held low word (R36). -/
def State.writeReg (s : State) (p : Path) (r : Reg) (ix : List Nat) (w : Nat) : Option State :=
  let i := ix.getD 0 0
  let j := ix.getD 1 0
  let locked := s.lockedFor p
  let plain : State := (s.storeWord p locked r ix w).afterWrite s p locked r ix w
  let threshold (release : Bool) : State :=
    match s.thresholdWrite i j release w with
    | some t => t
    | none => s.leaf (benchLeaf i 15)
  match r with
  | .SETT_MBOX_IN => s.mboxAppend i j w
  | .SETT_INJECT => some (s.injectWrite i j w)
  | .TIME_MEAS_LO => some (s.setHeldLow p (r.addr ix) (some w))
  | .TIME_MEAS_HI =>
    match s.heldLow p (r.addr ix - 4) with
    | some lo => some ((s.setHeldLow p (r.addr ix - 4) none).timeMeasurement (domOf i) lo w)
    | none => none
  | .DRS_CMP_LIMIT => some (threshold false)
  | .DRS_CMP_RELEASE => some (threshold true)
  | .SHOT_FW_DRIVE => some (s.fwDriveWrite i w)
  | .TIME_UTC => some (if s.followsRing then s else plain)
  | .TWIN_HEALTH => some (s.healthWrite (w % 16))
  | .CAUSE_LEAF => some (s.leavesClear i (w &&& s.leafMask (s.pathFace p) i true))
  | .CAUSE_EN =>
    let m := s.leafMask (s.pathFace p) i true
    some (s.wr .CAUSE_EN ix (outside (s.rd .CAUSE_EN ix) m ||| (w &&& m)))
  | .BNCH_PDT => some (if locked then s.leaf (loadLeaf 0) else plain)
  | .BRG_ACCESS_ERR => some (if natBit w 31 then (s.wr .BRG_ACCESS_ERR [] 0).wr .BRG_ACCESS_ADDR [] 0 else s)
  | .FACE_VIOL => some (if natBit w 31 then (s.wr .FACE_VIOL [] 0).wr .FACE_VIOL_ADDR [] 0 else s)
  | _ => some plain

end Sys2Proof.Machine
end

