-- ==== Sys2Proof/Machine/Access.lean ====
section
/-! DEFINITION. Accesses to the local map: the judgement of an access by width, alignment, target, island, face and
guarded range (R34, R37, R456, R476, R520), and the outcome of reads and writes on every path. What the spec leaves to a
reading or a choice stands in log entries 7 and 8. -/

namespace Sys2Proof.Machine

/-! Refusals. -/

/-- Why an access is refused. -/
inductive Denial where
  /-- Under R34, by width or alignment. -/
  | shape
  /-- By the register's own chapter, or because its island is held in reset. -/
  | chapter
  /-- Only a guarded command may write the register (R456). -/
  | guarded
  /-- The register belongs to another face (R476). -/
  | face (owner : Nat)
  deriving DecidableEq, Repr

/-- A face violation is recorded, or merged into the record that stands (R476). -/
def State.faceViolation (s : State) (p : Path) (owner addr : Nat) (write : Bool) : State :=
  let s :=
    if s.is F.FACE_VIOL_valid then s.inc F.FACE_VIOL_merge
    else
      (s.wr .FACE_VIOL [] (2 ^ 31 + b2n write * 2 ^ 30 + s.pathFace p % 16 * 2 ^ 26 + owner % 16 * 2 ^ 22)).wr .FACE_VIOL_ADDR [] addr
  s.leaf (hostLeaf 6) (s.pathFace p % 16)

/-- A posted write refused here is recorded in BRG_ACCESS_ERR (R352). -/
def State.postedRefusal (s : State) (p : Path) (reason addr : Nat) : State :=
  match p with
  | .pcie => s.accessRecord reason s.hub false (s.pathFace p) addr
  | .remote h _ f => s.accessRecord reason h true f addr
  | _ => s

/-- The records and leaves a refused access leaves (R34, R37, R352, R456, R476). -/
def State.deny (s : State) (p : Path) (addr : Nat) (write : Bool) (d : Denial) : State :=
  match d with
  | .shape =>
    let s := s.addressLeaf (refusedLeaf p) addr
    if write then s.postedRefusal p 1 addr else s
  | .chapter => if write then s.postedRefusal p 1 addr else s
  | .guarded => if write then s.postedRefusal p 2 addr else s
  | .face owner => s.faceViolation p owner addr write

/-- An access to a hole (R37): the path's leaf, and the address of the first with its record. -/
def State.holeSeen (s : State) (p : Path) (addr : Nat) : State :=
  match holeLeaf p with
  | some n =>
    let fresh := !s.leafSet n && !s.is F.CAUSE_REC_recovering [n]
    let s := s.addressLeaf (some n) addr
    match fresh, holeAddrIndex n with
    | true, some k => s.wr .CAUSE_HOLE_ADDR [k] addr
    | _, _ => s
  | none => s

/-! Judgement. -/

/-- A block of the hopper island (R30). -/
def hopperBlock (a : Nat) : Bool :=
  (a < 0x90000 && !alwaysOnAddr a) || (0x400000 ≤ a && a < 0x500000) || (0x2000000 ≤ a && a < 0x2100000)
    || (0x20000000 ≤ a && a < 0x20800000) || (0x21000000 ≤ a && a < 0x22800000)

/-- The island of an address is held in reset: by the power edge (R14), in the recovery state (R520), or after a warm reset
until the lock is reported (R503). The loader's own accesses are part of the reset. -/
def State.islandHeld (s : State) (p : Path) (a : Nat) : Bool :=
  if p = .loader then false
  else if s.edge.held then !alwaysOnAddr a
  else if s.inRecovery then benchAddr a || ethAddr a || canAddr a || ringAddr a
  else s.get F.CHIP_RESET_CAUSE_last == 2 && !s.is F.CHIP_STATUS_cfg_locked
    && (benchAddr a || ethAddr a || canAddr a || hopperBlock a)

/-- The face that keeps a path from a register (R476, R488). -/
def State.faceBars (s : State) (p : Path) (r : Reg) (ix : List Nat) (write : Bool) : Option Nat :=
  let f := s.pathFace p
  let owner := s.regFace r ix
  if f = 0 ∨ r = .CAUSE_LEAF ∨ r = .CAUSE_EN ∨ r = .CAUSE_GROUP ∨ owner = f ∨ (owner = 0 ∧ write = false) then none
  else some owner

/-- Only a guarded command of the resource's type may write a register (R456); the engine's own path carries register
writes. With the lock set the loader's path is a bench controller's reload, which restores every pair of the image (R505). -/
def State.guardedOnly (s : State) (p : Path) (r : Reg) (addr : Nat) : Bool :=
  r == .TWIN_OVERRIDE || r == .UPD_CTRL || r == .FACE_RESET || r == .BNCH_CTRL || (p != .guarded && !(p == .loader && s.is F.CHIP_STATUS_cfg_locked) && (s.guardedRange addr).isSome)

/-- A register's own chapter refuses the access. -/
def State.chapterBars (s : State) (p : Path) (r : Reg) (ix : List Nat) (write : Bool) (w : Nat) : Bool :=
  let i := ix.getD 0 0
  let j := ix.getD 1 0
  let flash := r == .CFG_FLASH_ADDR || r == .CFG_FLASH_CMD || r == .CFG_FLASH_BUF
  let mailbox := r == .SETT_MBOX_IN || r == .SETT_MBOX_OUT
  let bist := s.get F.TST_BIST_STATUS_state
  (flash && (!s.inRecovery || s.pathFace p != 0))
    || (mailbox && !s.mboxAllowed p i j)
    || (write && (
      (r == .SETT_PROG && !s.progWritable i j)
      || (r == .BNCH_PDT && p != .loader && !s.is F.CHIP_STATUS_cfg_locked)
      || (r.desc.island == .bench && r.desc.rwl != 0 && p != .loader && (s.benchOf i).reloading)
      || (r == .CHIP_RESET && p != .hubController && p != .guarded)
      || (r == .TST_BIST_CTRL && natBit w 31 && (!s.is F.BNCH_STATUS_out_of_service [w % 16] || bist == 1 || bist == 2))
      || ((r == .UPD_CHUNK || r == .UPD_CHUNK_CTRL) && s.is F.UPD_CHUNK_CTRL_busy)
      || ((r == .SWC_SEG_DESC || r == .SWC_SEG_PAYLOAD) && s.is F.SWC_SEG_STATUS_busy)
      || (r == .GRD_WIN_CMD && s.windowBusy i)
      || (r == .GRD_WIN_CTRL && natBit w 31 && (s.windowBusy i || s.faceBusy (s.pathFace p)))))

/-- The judgement of an access to a register whose shape is sound. -/
def State.judge (s : State) (p : Path) (r : Reg) (ix : List Nat) (addr : Nat) (write : Bool) (w : Nat) : Option Denial :=
  if s.islandHeld p addr then some .chapter
  else match s.faceBars p r ix write with
    | some owner => some (.face owner)
    | none =>
      if write && s.guardedOnly p r addr then some .guarded
      else if s.chapterBars p r ix write w then some .chapter
      else none

/-! Accesses of one word. -/

/-- A read of the word at an aligned address: the word, or none when it is refused. What is recorded names the address as
the path issued it (R37, R476). -/
def State.readShown (s : State) (p : Path) (addr shown : Nat) : Option Nat × State :=
  match s.regAt addr with
  | none => if s.islandHeld p addr then (none, s.deny p shown false .chapter) else (some 0, s.holeSeen p shown)
  | some (r, ix) =>
    match s.judge p r ix addr false 0 with
    | some d => (none, s.deny p shown false d)
    | none =>
      match s.readReg p r ix with
      | some (v, t) => (some v, t)
      | none => (none, s.deny p shown false .chapter)

/-- A 32-bit read (R34). -/
def State.read32 (s : State) (p : Path) (addr : Nat) : Option Nat × State := s.readShown p addr addr

/-- A 32-bit write at an aligned address: whether it is accepted, and the state after. -/
def State.write32 (s : State) (p : Path) (addr w : Nat) : Bool × State :=
  match s.regAt addr with
  | none => if s.islandHeld p addr then (false, s.deny p addr true .chapter) else (true, s.holeSeen p addr)
  | some (r, ix) =>
    match s.judge p r ix addr true w with
    | some d => (false, s.deny p addr true d)
    | none =>
      match s.writeReg p r ix w with
      | some t => (true, t)
      | none => (false, s.deny p addr true .chapter)

/-- An 8- or 16-bit read at an aligned address (R34): the addressed byte lanes of the word. -/
def State.readNarrow (s : State) (p : Path) (n addr : Nat) : Option Nat × State :=
  let a := addr / 4 * 4
  let lanes := (2 ^ (8 * n) - 1) * 2 ^ (8 * (addr % 4))
  match s.regAt a with
  | some (r, _) =>
    if readSideEffects r then (none, s.deny p addr false .shape)
    else
      let (v, s) := s.readShown p a addr
      (v.map (· &&& lanes), s)
  | none =>
    let (v, s) := s.readShown p a addr
    (v.map fun _ => 0, s)

/-! Accesses of every width on a path (R34, R41). -/

/-- One result of a read on its way to the path. -/
def State.answerRead (p : Path) (addr : Nat) (x : Option Nat × State) : State :=
  match x with
  | (some v, s) => s.emit (.readData p addr v)
  | (none, s) => s.emit (.accessError p addr)

/-- One result of a write: a posted path gets no answer. -/
def State.answerWrite (p : Path) (addr : Nat) (x : Bool × State) : State :=
  if postedPath p then x.2 else x.2.emit (if x.1 then .writeDone p addr else .accessError p addr)

/-- A read of any width. -/
def State.busRead (s : State) (p : Path) (w : Width) (addr : Nat) : State :=
  if addr % widthBytes w ≠ 0 then State.answerRead p addr (none, s.deny p addr false .shape)
  else match w with
    | .w8 => State.answerRead p addr (s.readNarrow p 1 addr)
    | .w16 => State.answerRead p addr (s.readNarrow p 2 addr)
    | .w32 => State.answerRead p addr (s.read32 p addr)
    | .w64 =>
      let s := State.answerRead p addr (s.read32 p addr)
      State.answerRead p (addr + 4) (s.read32 p (addr + 4))

/-- A write of any width. -/
def State.busWrite (s : State) (p : Path) (w : Width) (addr val : Nat) : State :=
  if addr % widthBytes w ≠ 0 ∨ widthBytes w < 4 then State.answerWrite p addr (false, s.deny p addr true .shape)
  else if w = .w64 then
    let s := State.answerWrite p addr (s.write32 p addr (val % 2 ^ 32))
    State.answerWrite p (addr + 4) (s.write32 p (addr + 4) (val / 2 ^ 32 % 2 ^ 32))
  else State.answerWrite p addr (s.write32 p addr (val % 2 ^ 32))

/-- A path from outside carries an access (R39, R43): BAR0 reaches 1 GiB, the SPI target carries 32-bit aligned accesses, a
bench controller is one of 16. The engine's, the loader's and remote accesses come through their own commands. -/
def carries (p : Path) (w : Width) (addr : Nat) : Bool :=
  match p with
  | .pcie => addr < 2 ^ 30
  | .spi => w == .w32 && addr % 4 == 0 && addr < 2 ^ 32
  | .hubController => addr < 2 ^ 32
  | .bench b _ => b < 16 && addr < 2 ^ 32
  | _ => false

/-- No access comes on a path: the islands are held in reset (R14, R545), or, for the PCI Express port, its link is held down by
PCIE_PERST_N (R590). -/
def State.pathClosed (s : State) (p : Path) : Bool := s.down .host || (p == .pcie && s.chip.perst)

/-- A register write asked for by a path from outside, unless the path is closed. -/
def State.pathWrite (s : State) (p : Path) (w : Width) (addr val : Nat) : State :=
  if carries p w addr && !s.pathClosed p then s.busWrite p w addr val else s

/-- A register read asked for by a path from outside. -/
def State.pathRead (s : State) (p : Path) (w : Width) (addr : Nat) : State :=
  if carries p w addr && !s.pathClosed p then s.busRead p w addr else s

/-- A 32-bit write of one register by a path from outside. -/
def State.putReg (s : State) (p : Path) (r : Reg) (ix : List Nat) (val : Nat) : State := s.pathWrite p .w32 (r.addr ix) val

/-- The word that carries every field of a register unchanged but for the bits of `mask`, which take `bits`. -/
def State.merged (s : State) (p : Path) (r : Reg) (ix : List Nat) (mask bits : Nat) : Nat :=
  outside (s.readWord p r ix) mask ||| (bits &&& mask)

/-- A 32-bit write of such a word. -/
def State.putBits (s : State) (p : Path) (r : Reg) (ix : List Nat) (mask bits : Nat) : State :=
  s.putReg p r ix (s.merged p r ix mask bits)

end Sys2Proof.Machine
end

