-- ==== Sys2Proof/Machine/Bus.lean ====
section
/-! DEFINITION. The commands that are register accesses: the plain ones, the pairs, the PCI Express windows, the SPI
target, and the accesses that have a row of their own (R34 to R45). What the spec leaves to a reading or a choice stands
in log entries 4, 8 and 9. -/

namespace Sys2Proof.Machine

/-! Plain accesses and pairs (R34 to R36). -/

/-- REGISTER_WRITE (R34). -/
def execRegisterWrite (p : Path) (w : Width) (addr val : Nat) (s : State) : Host.Outcome State Fault Refusal :=
  .next (s.clearOut.pathWrite p w addr val)

/-- REGISTER_READ (R34). -/
def execRegisterRead (p : Path) (w : Width) (addr : Nat) (s : State) : Host.Outcome State Fault Refusal :=
  .next (s.clearOut.pathRead p w addr)

/-- PAIR_LOW_READ (R35). -/
def execPairLowRead (p : Path) (addr : Nat) (s : State) : Host.Outcome State Fault Refusal :=
  .next (s.clearOut.pathRead p .w32 addr)

/-- PAIR_HIGH_READ (R35). -/
def execPairHighRead (p : Path) (addr : Nat) (s : State) : Host.Outcome State Fault Refusal :=
  .next (s.clearOut.pathRead p .w32 addr)

/-- PAIR_LOW_WRITE (R36). -/
def execPairLowWrite (p : Path) (addr val : Nat) (s : State) : Host.Outcome State Fault Refusal :=
  .next (s.clearOut.pathWrite p .w32 addr val)

/-- PAIR_HIGH_WRITE (R36). -/
def execPairHighWrite (p : Path) (addr val : Nat) (s : State) : Host.Outcome State Fault Refusal :=
  .next (s.clearOut.pathWrite p .w32 addr val)

/-! PCI Express windows (R38 to R41). -/

/-- The fabric hub number and local address of an offset in BAR2 (R40). -/
def State.bar2Target (s : State) (off : Nat) : Nat × Nat :=
  (s.get F.CHIP_FABRIC_PAGE_hub, s.get F.CHIP_FABRIC_PAGE_page * 4096 + off % 4096)

/-- A fabric address that is served locally (R25). -/
def State.isLocal (s : State) (hub : Nat) : Bool := hub == 0xFF || hub == s.hub

/-- A fabric write by a path (R25, R344). -/
def State.fabricWrite (s : State) (p : Path) (w : Width) (hub addr val : Nat) : State :=
  if s.isLocal hub then s.busWrite p w addr val else s.issueWrite p w hub addr val

/-- A fabric read by a path (R25, R344). -/
def State.fabricRead (s : State) (p : Path) (w : Width) (hub addr : Nat) : State :=
  if s.isLocal hub then s.busRead p w addr else (s.issuePathRead p w hub addr).bridgeTurn false

/-- One access through BAR2; none while the PCI Express port gives none (R14, R590). -/
def State.bar2 (s : State) (write : Bool) (w : Width) (off val : Nat) : State :=
  if s.pathClosed .pcie then s else
  let (hub, addr) := s.bar2Target off
  if write then s.fabricWrite .pcie w hub addr val else s.fabricRead .pcie w hub addr

/-- BAR2_ACCESS (R40). -/
def execBar2Access (write : Bool) (w : Width) (off val : Nat) (s : State) : Host.Outcome State Fault Refusal :=
  .next (s.clearOut.bar2 write w off val)

/-- One word of a long read through BAR2: to another hub it is issued, and the request is offered once the transaction is
whole (R343). -/
def State.bar2Read (s : State) (off : Nat) : State :=
  let (hub, addr) := s.bar2Target off
  if s.pathClosed .pcie || s.isLocal hub then s.bar2 false .w32 off 0 else s.issuePathRead .pcie .w32 hub addr

/-- The words of a long transaction, one after another (R38). -/
def State.longAccess (s : State) (bar2 write : Bool) (addr : Nat) : Nat → List Nat → State
  | 0, _ => s
  | n + 1, data =>
    let v := data.headD 0
    let s :=
      if bar2 then (if write then s.bar2 true .w32 addr v else s.bar2Read addr)
      else if write then s.pathWrite .pcie .w32 addr v else s.pathRead .pcie .w32 addr
    s.longAccess bar2 write (addr + 4) n data.tail

/-- PCIE_LONG_TRANSACTION (R38): `n` words in ascending address order. -/
def execPcieLongTransaction (bar2 write : Bool) (addr n : Nat) (data : List Nat) (s : State) : Host.Outcome State Fault Refusal :=
  let remote := bar2 && !write && !s.pathClosed .pcie && !s.isLocal (s.bar2Target addr).1
  .next ((s.clearOut.longAccess bar2 write addr n data).when remote fun s => s.bridgeTurn false)

/-! The SPI target (R43 to R45). -/

/-- The status bytes of R44. -/
def spiOk : Byte := 0x5A
def spiRefused : Byte := 0xE1

/-- SPI_READ (R43, R44): the data bytes of a refused read are free values. -/
def execSpiRead (addr : Nat) (s : State) : Host.Outcome State Fault Refusal :=
  if s.down .host then .next s.clearOut else
  let s := s.clearOut
  if !carries .spi .w32 addr then
    let s := if addr < 2 ^ 32 then s.deny .spi addr false .shape else s
    let (v, s) := s.drawWord 32
    .next (s.emit (.spi (spiRefused :: beBytes 4 v)))
  else
    match s.read32 .spi addr with
    | (some v, s) => .next (s.emit (.spi (spiOk :: beBytes 4 v)))
    | (none, s) =>
      let (v, s) := s.drawWord 32
      .next (s.emit (.spi (spiRefused :: beBytes 4 v)))

/-- The write of a frame whose fourth data byte has come. -/
def State.spiPut (s : State) (addr val : Nat) : Bool × State :=
  if carries .spi .w32 addr then s.write32 .spi addr (val % 2 ^ 32)
  else (false, if addr < 2 ^ 32 then s.deny .spi addr true .shape else s)

/-- SPI_WRITE (R43, R44). -/
def execSpiWrite (addr val : Nat) (s : State) : Host.Outcome State Fault Refusal :=
  if s.down .host then .next s.clearOut else
  let (ok, s) := s.clearOut.spiPut addr val
  .next (s.emit (.spi [if ok then spiOk else spiRefused]))

/-- SPI_OTHER_COMMAND (R43). -/
def execSpiOtherCommand (cmd : Nat) (s : State) : Host.Outcome State Fault Refusal :=
  if s.down .host then .next s.clearOut else
  let s := s.clearOut
  .next (if cmd = 0x0B ∨ cmd = 0x02 then s else s.leaf (hostLeaf 4))

/-- SPI_CS_RELEASE (R45): a write is applied only with its fourth data byte, a read only at a register with read side
effects once its address is complete. -/
def execSpiCsRelease (write : Bool) (addrBytes addr dataBytes val : Nat) (s : State) : Host.Outcome State Fault Refusal :=
  if s.down .host then .next s.clearOut else
  let s := s.clearOut
  if addrBytes < 4 then .next s
  else if write then .next (if dataBytes < 4 then s else (s.spiPut addr val).2)
  else if carries .spi .w32 addr then
    match s.regAt addr with
    | some (r, _) => .next (if readSideEffects r then (s.read32 .spi addr).2 else s)
    | none => .next s
  else .next s

/-! Ring and shot lines. -/

/-- TRANSIT_ONLY_WRITE (R108, R109). -/
def execTransitOnlyWrite (p : Path) (on : Bool) (s : State) : Host.Outcome State Fault Refusal :=
  .next (s.clearOut.putBits p .RING_CTRL [] F.RING_CTRL_transit_only.mask (b2n on * 2 ^ 7))

/-- HANDOFF (R136). -/
def execHandoff (p : Path) (s : State) : Host.Outcome State Fault Refusal :=
  .next (s.clearOut.putBits p .RING_START_CTRL [] 0x100 0x100)

/-- SHOT_FW_DRIVE_WRITE (R158, R159). -/
def execShotFwDriveWrite (p : Path) (i val : Nat) (s : State) : Host.Outcome State Fault Refusal :=
  .next (s.clearOut.putReg p .SHOT_FW_DRIVE [i % 8] val)

/-! Setts and benches. -/

/-- SETT_START, SETT_STOP, SETT_RESET (R176, R177): the command bit, with the register's fields unchanged. -/
def execSettStart (p : Path) (b k : Nat) (s : State) : Host.Outcome State Fault Refusal :=
  .next (s.clearOut.putBits p .SETT_CTRL [b % 16, k % 64] 7 1)
def execSettStop (p : Path) (b k : Nat) (s : State) : Host.Outcome State Fault Refusal :=
  .next (s.clearOut.putBits p .SETT_CTRL [b % 16, k % 64] 7 2)
def execSettReset (p : Path) (b k : Nat) (s : State) : Host.Outcome State Fault Refusal :=
  .next (s.clearOut.putBits p .SETT_CTRL [b % 16, k % 64] 7 4)

/-- GROUP_START, GROUP_STOP, GROUP_RESET (R178). -/
def execGroupStart (p : Path) (b : Nat) (atRound : Bool) (s : State) : Host.Outcome State Fault Refusal :=
  .next (s.clearOut.putReg p .BNCH_GROUP_CMD [b % 16] (1 + 4 * b2n atRound))
def execGroupStop (p : Path) (b : Nat) (atRound : Bool) (s : State) : Host.Outcome State Fault Refusal :=
  .next (s.clearOut.putReg p .BNCH_GROUP_CMD [b % 16] (2 + 4 * b2n atRound))
def execGroupReset (p : Path) (b : Nat) (atRound : Bool) (s : State) : Host.Outcome State Fault Refusal :=
  .next (s.clearOut.putReg p .BNCH_GROUP_CMD [b % 16] (3 + 4 * b2n atRound))

/-- SETT_PROG_WRITE (R179). -/
def execSettProgWrite (p : Path) (b k n val : Nat) (s : State) : Host.Outcome State Fault Refusal :=
  .next (s.clearOut.putReg p .SETT_PROG [b % 16, k % 64, n % 64] val)

/-- SETT_INJECT (R180). -/
def execSettInject (p : Path) (b k val : Nat) (s : State) : Host.Outcome State Fault Refusal :=
  .next (s.clearOut.putReg p .SETT_INJECT [b % 16, k % 64] val)

/-- STAMP_LOW_READ (R189). -/
def execStampLowRead (p : Path) (b k : Nat) (s : State) : Host.Outcome State Fault Refusal :=
  .next (s.clearOut.pathRead p .w32 (Reg.SETT_STAMP_LO.addr [b % 16, k % 64]))

/-- MBOX_IN_WRITE, MBOX_OUT_READ (R196). -/
def execMboxInWrite (p : Path) (b k val : Nat) (s : State) : Host.Outcome State Fault Refusal :=
  .next (s.clearOut.putReg p .SETT_MBOX_IN [b % 16, k % 64] val)
def execMboxOutRead (p : Path) (b k : Nat) (s : State) : Host.Outcome State Fault Refusal :=
  .next (s.clearOut.pathRead p .w32 (Reg.SETT_MBOX_OUT.addr [b % 16, k % 64]))

/-- DESCRIPTOR_TABLE_WRITE (R250): a word at a byte offset of the table. -/
def execDescriptorTableWrite (p : Path) (b off val : Nat) (s : State) : Host.Outcome State Fault Refusal :=
  .next (s.clearOut.pathWrite p .w32 (Reg.BNCH_PDT.addr [b % 16, 0] + off % 0x40000) val)

/-! Dresser. -/

/-- COEFFICIENT_APPLY (R294). -/
def execCoefficientApply (p : Path) (b c : Nat) (s : State) : Host.Outcome State Fault Refusal :=
  .next (s.clearOut.putBits p .DRS_CH_CFG [b % 16, c % 32] 0x40000 0x40000)

/-- COMPARATOR_THRESHOLD_WRITE (R297, R299). -/
def execComparatorThresholdWrite (p : Path) (b m : Nat) (release : Bool) (val : Nat) (s : State) : Host.Outcome State Fault Refusal :=
  .next (s.clearOut.putReg p (if release then .DRS_CMP_RELEASE else .DRS_CMP_LIMIT) [b % 16, m % 64] val)

/-! Hopper and host rings. -/

/-- ENDPOINT_FREEZE_WRITE (R328). -/
def execEndpointFreezeWrite (p : Path) (k val : Nat) (s : State) : Host.Outcome State Fault Refusal :=
  .next (s.clearOut.putReg p .HOP_EP_FREEZE [k % 32] val)

/-- QUEUE_SNAPSHOT (R314). -/
def execQueueSnapshot (p : Path) (q : Nat) (s : State) : Host.Outcome State Fault Refusal :=
  .next (s.clearOut.putReg p .HOP_QSNAP_SEL [] q)

/-- SCRUB_BURST_REQUEST (R332). -/
def execScrubBurstRequest (p : Path) (s : State) : Host.Outcome State Fault Refusal :=
  .next (s.clearOut.putBits p .HOP_SCRUB_CTRL [] 1 1)

/-- HOST_RING_ENABLE (R333): `cfg` gives the register's other fields. -/
def execHostRingEnable (p : Path) (r cfg : Nat) (s : State) : Host.Outcome State Fault Refusal :=
  .next (s.clearOut.putReg p .HOP_HRING_CFG [r % 16] (natSetBit cfg 31 true))

/-- HOST_RING_DISABLE (R339). -/
def execHostRingDisable (p : Path) (r : Nat) (s : State) : Host.Outcome State Fault Refusal :=
  .next (s.clearOut.putBits p .HOP_HRING_CFG [r % 16] 0x80000000 0)

/-- HOST_RING_TAIL_WRITE (R333). -/
def execHostRingTailWrite (p : Path) (r tail : Nat) (s : State) : Host.Outcome State Fault Refusal :=
  .next (s.clearOut.putReg p .HOP_HRING_TAIL [r % 16] tail)

/-! Time core. -/

/-- TIME_SNAPSHOT (R362). -/
def execTimeSnapshot (p : Path) (s : State) : Host.Outcome State Fault Refusal :=
  .next (s.clearOut.putReg p .TIME_SNAP [] 1)

/-- TIME_MEASUREMENT_WRITE (R36, R363 to R365): the low word, then the high word. -/
def execTimeMeasurementWrite (p : Path) (d : Dom) (lo hi : Nat) (s : State) : Host.Outcome State Fault Refusal :=
  .next ((s.clearOut.putReg p .TIME_MEAS_LO (domIx d) lo).putReg p .TIME_MEAS_HI (domIx d) hi)

/-- CAPTURE_NOW (R386). -/
def execCaptureNow (p : Path) (s : State) : Host.Outcome State Fault Refusal :=
  .next (s.clearOut.putBits p .TIME_PPS_CFG [] 0x8000000 0x8000000)

/-! Ethernet and the switch. -/

/-- MAC_ENABLE_WRITE (R396, R399). -/
def execMacEnableWrite (p : Path) (m : Nat) (on : Bool) (s : State) : Host.Outcome State Fault Refusal :=
  .next (s.clearOut.putBits p .ETH_MAC_CFG [m % 8] 0x80000000 (b2n on * 2 ^ 31))

/-- GATE_BANK_SWAP (R418). -/
def execGateBankSwap (p : Path) (m : Nat) (s : State) : Host.Outcome State Fault Refusal :=
  .next (s.clearOut.putBits p .SWC_GATE_CTRL [m % 8] 1 1)

/-- SEGMENTATION_GO (R421). -/
def execSegmentationGo (p : Path) (s : State) : Host.Outcome State Fault Refusal :=
  .next (s.clearOut.putReg p .SWC_SEG_CTRL [] 1)

/-! CAN channels. -/

/-- CAN_RECOVER (R430), CAN_ENABLE and CAN_DISABLE (R431), SLEEP_NOW (R434). -/
def execCanRecover (p : Path) (n : Nat) (s : State) : Host.Outcome State Fault Refusal :=
  .next (s.clearOut.putBits p .CAN_CTRL [n % 16] 0x6000000 0x2000000)
def execCanEnable (p : Path) (n : Nat) (s : State) : Host.Outcome State Fault Refusal :=
  .next (s.clearOut.putBits p .CAN_CTRL [n % 16] 0x80000000 0x80000000)
def execCanDisable (p : Path) (n : Nat) (s : State) : Host.Outcome State Fault Refusal :=
  .next (s.clearOut.putBits p .CAN_CTRL [n % 16] 0x80000000 0)
def execSleepNow (p : Path) (n : Nat) (s : State) : Host.Outcome State Fault Refusal :=
  .next (s.clearOut.putBits p .CAN_CTRL [n % 16] 0x6000000 0x4000000)

/-! Twins, guarded commands and keys. -/

/-- TWIN_HEALTH_WRITE (R442). -/
def execTwinHealthWrite (p : Path) (val : Nat) (s : State) : Host.Outcome State Fault Refusal :=
  .next (s.clearOut.putReg p .TWIN_HEALTH [] val)

/-- GRD_SUBMIT (R460, R461). -/
def execGrdSubmit (p : Path) (w : Nat) (s : State) : Host.Outcome State Fault Refusal :=
  .next (s.clearOut.putBits p .GRD_WIN_CTRL [w % 16] 0x80000000 0x80000000)

/-- FUSE_BURN (R470). -/
def execFuseBurn (p : Path) (s : State) : Host.Outcome State Fault Refusal :=
  .next (s.clearOut.putReg p .GRD_FUSE_CTRL [] 1)

/-- The words of a register-write command, in ascending order; `ok` says that none was refused (R466). -/
def State.guardedWords (s : State) (r : List Byte) (ok : Bool) : List Nat → Bool × State
  | [] => (ok, s)
  | i :: is =>
    let a := (bodyAddress r + 4 * i) % 2 ^ 32
    if a % 4 ≠ 0 then (s.deny .guarded a true .shape).guardedWords r false is
    else
      let (t, s) := s.write32 .guarded a (bodyWord r i)
      s.guardedWords r (ok && t) is

/-- The latches of a path are dropped (R346). -/
def State.dropLatches (s : State) (p : Path) : State :=
  let gone (e : Nat × Option Nat) : Bool := e.1 / 2 ^ 32 == pathLatch p
  { s with chip := { s.chip with latched := s.chip.latched.filter fun e => !gone e, held := s.chip.held.filter fun e => !gone e } }

/-- GUARDED_REGISTER_WRITE (R465, R466): a path of its own; a refused word ends the command with reason 2. -/
def execGuardedRegisterWrite (s : State) : Host.Outcome State Fault Refusal :=
  if s.down .hopper then .next s.clearOut else
  .next (s.clearOut.guardRun (fun r => recType r == 3) fun r s =>
    let (ok, s) := s.guardedWords r true (List.range (bodyCount r))
    (if ok then .executed else .refused 2, s.dropLatches .guarded))

/-! Update, cause tree, resets and recovery. -/

/-- CHUNK_COMMIT (R523). -/
def execChunkCommit (p : Path) (index len : Nat) (s : State) : Host.Outcome State Fault Refusal :=
  .next (s.clearOut.putReg p .UPD_CHUNK_CTRL [] (len % 2 ^ 13 * 2 ^ 16 + index % 2 ^ 16))

/-- CAUSE_LEAF_CLEAR (R487, R490), CAUSE_ENABLE_WRITE (R486). -/
def execCauseLeafClear (p : Path) (w val : Nat) (s : State) : Host.Outcome State Fault Refusal :=
  .next (s.clearOut.putReg p .CAUSE_LEAF [w % 28] val)
def execCauseEnableWrite (p : Path) (w val : Nat) (s : State) : Host.Outcome State Fault Refusal :=
  .next (s.clearOut.putReg p .CAUSE_EN [w % 28] val)

/-- WATCHDOG_KICK (R494), FAULT_FORCE (R491). -/
def execWatchdogKick (p : Path) (s : State) : Host.Outcome State Fault Refusal :=
  .next (s.clearOut.putReg p .CAUSE_FAULT_CTRL [] 0x80000000)
def execFaultForce (p : Path) (s : State) : Host.Outcome State Fault Refusal :=
  .next (s.clearOut.putReg p .CAUSE_FAULT_CTRL [] 0x40000000)

/-- WARM_RESET (R500). -/
def execWarmReset (p : Path) (s : State) : Host.Outcome State Fault Refusal :=
  .next (s.clearOut.putReg p .CHIP_RESET [] 1)

/-- CONFIG_RELOAD (R521). -/
def execConfigReload (p : Path) (s : State) : Host.Outcome State Fault Refusal :=
  .next (s.clearOut.putReg p .CFG_BOOT [] 0x80000000)

/-- FLASH_READ_PAGE, FLASH_PROGRAM_PAGE, FLASH_ERASE_SECTOR (R521). -/
def execFlashReadPage (p : Path) (s : State) : Host.Outcome State Fault Refusal :=
  .next (s.clearOut.putReg p .CFG_FLASH_CMD [] 1)
def execFlashProgramPage (p : Path) (s : State) : Host.Outcome State Fault Refusal :=
  .next (s.clearOut.putReg p .CFG_FLASH_CMD [] 2)
def execFlashEraseSector (p : Path) (s : State) : Host.Outcome State Fault Refusal :=
  .next (s.clearOut.putReg p .CFG_FLASH_CMD [] 3)

/-- TEST_UNLOCK (R504). -/
def execTestUnlock (p : Path) (val : Nat) (s : State) : Host.Outcome State Fault Refusal :=
  .next (s.clearOut.putReg p .TST_UNLOCK [] val)

/-- BUDGET_WRITE (R565, R569). -/
def execBudgetWrite (p : Path) (budget : Nat) (s : State) : Host.Outcome State Fault Refusal :=
  .next (s.clearOut.putBits p .PMT_CFG [] F.PMT_CFG_budget.mask budget)

/-- BIST_GO (R573). -/
def execBistGo (p : Path) (b : Nat) (s : State) : Host.Outcome State Fault Refusal :=
  .next (s.clearOut.putReg p .TST_BIST_CTRL [] (2 ^ 31 + b % 16))

end Sys2Proof.Machine
end

