-- ==== Sys2Proof/Machine/Edge.lean ====
section
/-! DEFINITION. The power edge: feeds, seating, inrush, fuse, rails, hold-up gauge, dying gasp and park (R542 to R563),
and the end of a bench self-test (R573 to R575), and the clock that passes while no command waits. What the spec leaves to a reading or a choice stands in log entries 44
and 45. -/

namespace Sys2Proof.Machine

/-! States (R545). -/

/-- The edge's states, as EDGE_STATUS.state shows them. -/
def edgeOff : Nat := 0
def edgeDebounce : Nat := 1
def edgeInrush : Nat := 2
def edgeSequence : Nat := 3
def edgeRun : Nat := 4
def edgeGasp : Nat := 5
def edgePark : Nat := 6
def edgeDamaged : Nat := 7

/-- The state of the edge. -/
def State.edgeState (s : State) : Nat := s.get F.EDGE_STATUS_state
def State.toEdge (s : State) (st : Nat) : State := s.set F.EDGE_STATUS_state [] st

/-- Both seating pins are asserted; a feed is valid. -/
def State.seated (s : State) : Bool := s.is F.EDGE_STATUS_seat_a && s.is F.EDGE_STATUS_seat_b
def State.feedValid (s : State) : Bool := s.is F.EDGE_STATUS_feed_a_valid || s.is F.EDGE_STATUS_feed_b_valid

/-- The hot-swap FET turns off, when it was on, for a cause; the retry timer starts at its full value (R550). -/
def State.fetOff (s : State) (cause : Nat) : State :=
  if s.is F.EDGE_STATUS_hs_on then
    let s := (s.setB F.EDGE_STATUS_hs_on [] false).set F.EDGE_STATUS_off_cause [] cause
    let s : State := { s with edge := { s.edge with retryFrom := s.edge.tick } }
    (s.setB F.EDGE_RETRY_running [] true).set F.EDGE_RETRY_remaining [] (s.get F.EDGE_RETRY_retry)
  else s

/-- Every island but always-on is held in reset (R545, R553, R562). `keepCause` leaves the cause tree and the journal as they are. -/
def State.holdIslands (s : State) (keepCause : Bool) : State :=
  let s := ({ s with permits := {} } : State).each (List.range 16) fun s b => s.benchRestart b false
  let s := (s.hopperRestart keepCause).ringTimeRestart
  let s : State := { (s.clearRegs fun a => ethAddr a || canAddr a) with
    sw := {}, can := [], ethTimeValid := false, canTimeValid := false, hopTimeValid := false, ringTimeValid := false
    chip := { s.chip with latched := [], held := [], linkUp := false, bar0 := 0, bar2 := 0, unlockWindow := false, tap := { low := s.chip.tap.low } }
    edge := { s.edge with held := true, lastWords := [], flushing := false } }
  s.pairLow

/-- The highest raised enable goes off (R552). -/
def State.dropRail (s : State) : State :=
  let en := s.get F.EDGE_RAIL_STATUS_pwr_en
  match (List.range 6).reverse.find? (natBit en) with
  | some k => s.setBitOf F.EDGE_RAIL_STATUS_pwr_en [] k false
  | none => s

/-- The rails go off one after the other: what is left of them goes gap apart, and the last one ends Park (R545, R562). -/
def State.railsDown (s : State) : State :=
  let s := s.dropRail
  let more := s.get F.EDGE_RAIL_STATUS_pwr_en != 0
  let s : State := { s with edge := { s.edge with dropping := more } }
  s.when (!more && s.edgeState == edgePark) fun s => s.toEdge edgeOff

/-- The edge leaves Sequence for Off: the rails go off in reverse order, the first now and the others gap apart. -/
def State.sequenceOff (s : State) : State :=
  (s.toEdge edgeOff).railsDown

/-- The moves of R545 between Off and Debounce, and out of the states that need both pins and a feed. -/
def State.edgeSettle (s : State) : State :=
  let ok := s.seated && s.feedValid
  let st := s.edgeState
  if st = edgeOff ∧ ok ∧ ¬ s.is F.EDGE_STATUS_damaged then s.toEdge edgeDebounce
  else if ok then s
  else
    let cause := if s.seated then 1 else 2
    if st = edgeDebounce then s.toEdge edgeOff
    else if st = edgeInrush then
      let s := (s.fetOff cause).toEdge edgeOff
      { s with edge := { s.edge with gateCheck := false } }
    else if st = edgeSequence then (s.fetOff cause).sequenceOff
    else s

/-- A command of the always-on island: nothing happens while it has stopped (R542). -/
def State.onEdge (s : State) (f : State → State) : State := if s.edge.stopped then s.clearOut else f s.clearOut

/-! The hold-up gauge (R554 to R556). -/

/-- The capacitance in use, in units of 10 µF. -/
def State.capInUse (s : State) : Nat :=
  if s.is F.EDGE_HOLD_STATUS_cap_valid then s.get F.EDGE_HOLD_CAP_c_meas else s.get F.EDGE_HOLD_CFG_c_nom

/-- E_v for a bank voltage in mV: whole mJ, saturating. -/
def State.bankEnergy (s : State) (mv : Nat) : Nat :=
  let stop := s.get F.EDGE_HOLD_CFG_v_stop * 50
  if stop < mv then min (s.capInUse * (mv * mv - stop * stop) / 200000000) 65535 else 0

/-- The gauge shows a bank voltage, its energy, and whether it suffices. -/
def State.showBank (s : State) (mv : Nat) : State :=
  let e := s.bankEnergy mv
  let s := (s.set F.EDGE_HOLD_STATUS_v_hold [] (min (mv / 10) 4095)).set F.EDGE_HOLD_STATUS_e_v [] e
  s.setB F.EDGE_HOLD_STATUS_ready [] (s.get F.EDGE_HOLD_CFG2_e_req ≤ e)

/-- E_q for the charge count, in whole mJ, saturating (R556): ½ C ((v_stop + Q ÷ C)² − v_stop²) = v_stop × Q + Q² ÷ 2 C. -/
def State.chargeEnergy (s : State) : Nat :=
  let stop := s.get F.EDGE_HOLD_CFG_v_stop * 50
  let c := s.capInUse
  let q := s.edge.charge
  min ((2 * stop * q * c + q * q) / (2 * c * 100000000)) 65535

/-- The charge count stands at q, and E_q with it. -/
def State.setCharge (s : State) (q : Nat) : State :=
  let s : State := { s with edge := { s.edge with charge := q } }
  s.set F.EDGE_HOLD_CAP_e_q [] s.chargeEnergy

/-- The charge count is re-based (R556): Q is C × (V − v_stop), and disagree is cleared. -/
def State.rebase (s : State) : State :=
  (s.setB F.EDGE_HOLD_STATUS_disagree [] false).setCharge (s.capInUse * (s.edge.bankMv - s.get F.EDGE_HOLD_CFG_v_stop * 50))

/-- E_v and E_q differ by more than 10 % of E_v and more than 5 mJ (R556). -/
def State.gaugeDiffers (s : State) : Bool :=
  let v := s.get F.EDGE_HOLD_STATUS_e_v
  let q := s.get F.EDGE_HOLD_CAP_e_q
  max v 50 < 10 * (max v q - min v q)

/-- The gauge has E_v anew, from HOLD_V or from C (R554): a fall of ready in Run sets leaf 847. -/
def State.energyAt (s : State) (mv : Nat) : State :=
  let was := s.is F.EDGE_HOLD_STATUS_ready
  let s := s.showBank mv
  s.when (was && !s.is F.EDGE_HOLD_STATUS_ready && s.edgeState == edgeRun) fun s => s.leaf (edgeLeaf 15)

/-- A sample of the bank (R554, R555): HOLD_V in mV and I_h in mA. The integration of a charge begins at 50 mA, and ends below. -/
def State.bankSample (s : State) (mv : Nat) (ih : Int) : State :=
  let run := if ih < 50 then none else match s.edge.charging with | some c => some c | none => some (0, mv)
  { s with edge := { s.edge with bankMv := mv, bankMa := ih, charging := run } }

/-- One 10 µs step of the gauge (R555, R556): the charge count, and the charge of a measurement, follow the integral of I_h. -/
def State.gaugeStep (s : State) : State :=
  let s : State := { s with edge := { s.edge with charging := s.edge.charging.map fun c => (c.1 + s.edge.bankMa.toNat, c.2) } }
  s.setCharge (s.edge.charge + s.edge.bankMa).toNat

/-- The OR point: the higher feed whose gate is on, in mV. -/
def State.orPoint (s : State) : Nat :=
  max (if s.is F.EDGE_STATUS_or_a_on then s.get F.EDGE_FEED_V_vina else 0)
    (if s.is F.EDGE_STATUS_or_b_on then s.get F.EDGE_FEED_V_vinb else 0)

/-- V_ds of the hot-swap FET in mV (R546): the OR point above HOLD_V at the last sample, without the drop over the sense resistor. -/
def State.vds (s : State) : Nat := s.orPoint - s.edge.bankMv

/-- The current limit at this V_ds is in fold-back (R546): the P_lim term is the smaller one. -/
def State.foldsBack (s : State) : Bool :=
  40 * s.get F.EDGE_HS_CFG_p_lim * s.get F.EDGE_HS_CFG_r_sense < s.get F.EDGE_FUSE_CFG_trip * max s.vds 500

/-- An inrush goes on: the FET regulates the current. -/
def State.inInrush (s : State) : Bool := s.edgeState == edgeInrush && s.is F.EDGE_STATUS_hs_on && !s.edge.gateCheck

/-- During an inrush the limit enters fold-back (R546): leaf 839, once per inrush. -/
def State.foldSettle (s : State) : State :=
  if s.inInrush && s.foldsBack && !s.edge.folded then
    ({ s with edge := { s.edge with folded := true } } : State).leaf (edgeLeaf 7)
  else s

/-- HOLDUP_READY_CHANGE (R554): E_v has crossed e_req, with this sample. -/
def execHoldupReadyChange (x : BankSample) (s : State) : Host.Outcome State Fault Refusal :=
  .next (s.onEdge fun s => ((s.bankSample x.mv x.ma).energyAt x.mv).foldSettle)

/-- CAPACITANCE_MEASURED (R555): HOLD_V, in mV, has risen by at least 1 V since the bank began to charge, so C_meas is ΔQ ÷ ΔV; E_v and
E_q follow the C in use. -/
def execCapacitanceMeasured (mv : Nat) (s : State) : Host.Outcome State Fault Refusal :=
  .next (s.onEdge fun s =>
    match s.edge.charging with
    | some (q, from_) =>
      if from_ + 1000 ≤ mv then
        let c := min (q / (mv - from_)) 65535
        let s := (s.set F.EDGE_HOLD_CAP_c_meas [] c).setB F.EDGE_HOLD_STATUS_cap_valid [] true
        let low := c * 100 < s.get F.EDGE_HOLD_CFG_c_nom * s.get F.EDGE_HOLD_CFG_ageing_pct
        let s := s.when low fun s => (s.setB F.EDGE_HOLD_STATUS_aged [] true).leaf (edgeLeaf 14)
        let s : State := { s with edge := { s.edge with bankMv := mv, charging := some (0, mv) } }
        (s.setCharge s.edge.charge).energyAt mv |>.foldSettle
      else s
    | none => s)

/-- GAUGE_DISAGREEMENT (R556): E_q and E_v have differed for 100 ms. -/
def execGaugeDisagreement (s : State) : Host.Outcome State Fault Refusal :=
  .next (s.onEdge fun s => if s.gaugeDiffers then (s.setB F.EDGE_HOLD_STATUS_disagree [] true).leaf (edgeLeaf 13) else s)

/-- QUIET_PERIOD_END (R556): 1 s has passed with |I_h| below i_quiet and HOLD_V within 50 mV. -/
def execQuietPeriodEnd (s : State) : Host.Outcome State Fault Refusal :=
  .next (s.onEdge fun s => if s.edge.bankMa.natAbs < s.get F.EDGE_HOLD_CFG2_i_quiet then s.rebase else s)

/-! Start and stop of the always-on island (R542). -/

/-- A feed's fields in EDGE_STATUS: valid, and its ORing gate. -/
def feedFld (feedB : Bool) : Fld := if feedB then F.EDGE_STATUS_feed_b_valid else F.EDGE_STATUS_feed_a_valid
def gateFld (feedB : Bool) : Fld := if feedB then F.EDGE_STATUS_or_b_on else F.EDGE_STATUS_or_a_on
def voltFld (feedB : Bool) : Fld := if feedB then F.EDGE_FEED_V_vinb else F.EDGE_FEED_V_vina

/-- The gate of a feed may be on (R543): the feed is valid, the FET sound, and the feed not more than 10 mV below the OR point that
the other feed holds. -/
def State.gateMayBeOn (s : State) (feedB : Bool) : Bool :=
  s.is (feedFld feedB) && !s.is F.EDGE_STATUS_damaged
    && !(s.is (gateFld !feedB) && s.get (voltFld feedB) + 10 < s.get (voltFld !feedB))

/-- A feed stands at a voltage, in mV (R543): valid with hysteresis, and its gate follows; the other feed's gate comes on when the
OR point no longer stands above it. -/
def State.feedAt (s : State) (feedB : Bool) (mv : Nat) : State :=
  let fall := s.get F.EDGE_FEED_CFG_uv_fall * 50
  let rise := s.get F.EDGE_FEED_CFG_uv_rise * 50
  let ov := s.get F.EDGE_FEED_CFG_ov * 50
  let was := s.get (voltFld feedB)
  let valid := if s.is (feedFld feedB) then fall ≤ mv && mv ≤ ov else rise < mv && mv < ov
  let s := s.set (voltFld feedB) [] (min mv 65535)
  let s := s.setB (feedFld feedB) [] valid
  let s := s.setB (gateFld feedB) [] (s.gateMayBeOn feedB)
  let s := s.when (s.gateMayBeOn !feedB) fun s => s.setB (gateFld !feedB) [] true
  let s := s.when (fall ≤ was && mv < fall) fun s => s.leaf (edgeLeaf (0 + b2n feedB))
  s.when (was ≤ ov && ov < mv) fun s => s.leaf (edgeLeaf (2 + b2n feedB))

/-- FEED_CHANGE (R543, R545, R546). -/
def execFeedChange (feedB : Bool) (mv : Nat) (s : State) : Host.Outcome State Fault Refusal :=
  .next (s.onEdge fun s => (s.feedAt feedB mv).edgeSettle.foldSettle)

/-- FEED_REVERSE (R543): the gate goes off, and the feed's reverse leaf is set. -/
def execFeedReverse (feedB : Bool) (s : State) : Host.Outcome State Fault Refusal :=
  .next (s.onEdge fun s =>
    if s.is (gateFld feedB) then (s.setB (gateFld feedB) [] false).leaf (edgeLeaf (4 + b2n feedB)) else s)

/-- The always-on island loses all it kept, and its registers stand at their Reset column. -/
def State.alwaysOnLost (s : State) : State :=
  let s := (s.holdIslands false).clearRegs alwaysOnAddr
  { s with permits := {}, edge := { held := true } }

/-- COLD_START (R542): the input rises above 4.0 V; every field kept takes its value. Voltages in mV. -/
def execColdStart (vina vinb vhold : Nat) (s : State) : Host.Outcome State Fault Refusal :=
  let s := s.clearOut
  if 4000 < max vina (max vinb vhold) then
    let s := s.alwaysOnLost
    let s := if vinb ≤ vina then (s.feedAt false vina).feedAt true vinb else (s.feedAt true vinb).feedAt false vina
    let s := (s.bankSample vhold 0).showBank vhold
    let hot := s.get F.EDGE_THERM_CFG_t_hot * 64
    .next (((s.set F.EDGE_THERM_STATUS_t_fet [] hot).set F.EDGE_THERM_STATUS_t_case [] hot).edgeSettle)
  else .next s

/-- ALWAYS_ON_STOP (R542): the input falls below 3.6 V. -/
def execAlwaysOnStop (s : State) : Host.Outcome State Fault Refusal :=
  let s := s.clearOut.alwaysOnLost
  .next { s with edge := { s.edge with stopped := true } }

/-! Inrush, fuse and FET (R546 to R551). -/

/-- SEATING_DEBOUNCED (R544). -/
def execSeatingDebounced (s : State) : Host.Outcome State Fault Refusal :=
  .next (s.onEdge fun s => if s.seated then { s with edge := { s.edge with debounced := true } } else s)

/-- INRUSH_START (R545, R546, R551): seating debounced, the retry timer expired, and the FET temperature at or below t_restart. -/
def execInrushStart (s : State) : Host.Outcome State Fault Refusal :=
  .next (s.onEdge fun s =>
    if s.edgeState = edgeDebounce ∧ s.edge.debounced ∧ ¬ s.is F.EDGE_RETRY_running
        ∧ toSigned (s.get F.EDGE_THERM_STATUS_t_fet) 16 ≤ s.get F.EDGE_THERM_CFG_t_restart * 64 then
      let s := (s.toEdge edgeInrush).setB F.EDGE_STATUS_hs_on [] true
      ({ s with edge := { s.edge with gateCheck := false, folded := false } } : State).foldSettle
    else s)

/-- INRUSH_END (R546, R547, R556): the gate check begins, and the gauge re-bases. -/
def execInrushEnd (s : State) : Host.Outcome State Fault Refusal :=
  .next (s.onEdge fun s =>
    if s.edgeState = edgeInrush ∧ ¬ s.edge.gateCheck then { s.rebase with edge := { s.rebase.edge with gateCheck := true } } else s)

/-- INRUSH_TIMEOUT (R545). -/
def execInrushTimeout (s : State) : Host.Outcome State Fault Refusal :=
  .next (s.onEdge fun s =>
    if s.edgeState = edgeInrush ∧ ¬ s.edge.gateCheck then ((s.fetOff 6).toEdge edgeOff).edgeSettle else s)

/-- GATE_CHECK_PASS (R545, R547, R552): the sequence begins with the first rail. -/
def execGateCheckPass (s : State) : Host.Outcome State Fault Refusal :=
  .next (s.onEdge fun s =>
    if s.edgeState = edgeInrush ∧ s.edge.gateCheck then
      let s : State := { s with edge := { s.edge with gateCheck := false, dropping := false } }
      (s.toEdge edgeSequence).set F.EDGE_RAIL_STATUS_pwr_en [] 1
    else s)

/-- The FET is damaged (R547): every gate off, the latch and leaf 842. -/
def State.damage (s : State) : State :=
  let s := s.fetOff 7
  let s := (s.setB F.EDGE_STATUS_or_a_on [] false).setB F.EDGE_STATUS_or_b_on [] false
  let s := ((s.setB F.EDGE_STATUS_damaged [] true).leaf (edgeLeaf 10)).toEdge edgeDamaged
  let s : State := { s with edge := { s.edge with gateCheck := false } }
  s.when (!s.edge.held) fun s => s.holdIslands false

/-- GATE_CHECK_FAIL (R547). -/
def execGateCheckFail (s : State) : Host.Outcome State Fault Refusal :=
  .next (s.onEdge fun s => if s.edgeState = edgeInrush ∧ s.edge.gateCheck then s.damage else s)

/-- SHORT_DETECTED (R547): the bus holds a voltage while the gate is off and a feed is valid. -/
def execShortDetected (s : State) : Host.Outcome State Fault Refusal :=
  .next (s.onEdge fun s => if s.feedValid ∧ ¬ s.is F.EDGE_STATUS_hs_on then s.damage else s)

/-- RETRY_EXPIRY (R550). -/
def execRetryExpiry (s : State) : Host.Outcome State Fault Refusal :=
  .next (s.onEdge fun s =>
    if s.is F.EDGE_RETRY_running then ((s.setB F.EDGE_RETRY_running [] false).set F.EDGE_RETRY_remaining [] 0).leaf (edgeLeaf 9) else s)

/-! Dying gasp (R557 to R559). -/

/-- The last-words record (R559), but for the newest journal entry's sequence, which it carries as each slot is sent. -/
def State.lastWordsRecord (s : State) (cause : Nat) : List Byte :=
  let t := s.now .a
  padTo 128 ([0x7E, byte s.hub, byte cause, 0] ++ beBytes 2 (s.get F.EDGE_HOLD_STATUS_e_v) ++ beBytes 2 (s.hub * 2 ^ 10 + 0x3E2)
    ++ beBytes 6 (secOf t) ++ zeros 2 ++ beBytes 4 (nsOf t) ++ beBytes 2 (s.get F.EDGE_FEED_V_vina / 10)
    ++ beBytes 2 (s.get F.EDGE_FEED_V_vinb / 10))

/-- The loads are shed (R558): benches, MACs, CAN channels, the PCI Express link, and the enables of EDGE_RAIL_CFG.shed. -/
def State.shedLoads (s : State) : State :=
  let s := s.each (List.range 16) fun s b => s.benchOut b
  let s := s.each (List.range 8) fun s m => s.macEnable m false
  let s := s.each (List.range 16) fun s n => (s.when (s.canState n != 0) fun s => s.canStop n).setB F.CAN_CTRL_enable [n] false
  let s := s.pcieLink false
  let keep := 63 - s.get F.EDGE_RAIL_CFG_shed * 8
  s.set F.EDGE_RAIL_STATUS_pwr_en [] (s.get F.EDGE_RAIL_STATUS_pwr_en &&& keep)

/-- The 10 µs step that goes on (R549, R554, R557). -/
def State.edgeStep (s : State) : Nat := s.edge.tick / 5000

/-- A gasp goes on that began in this 10 µs step. -/
def State.gaspBeganNow (s : State) : Bool := s.edgeState == edgeGasp && s.edge.gaspStep == s.edgeStep

/-- A gasp begins in Run (R557, R558): leaf 848, the chip-fault state, every permit revoked, the loads shed, the last words,
and the flush, unless the sector it needs has not been erased (R561). A trigger of the 10 µs step in which a gasp began changes the
recorded cause to its own when that is lower. -/
def State.gasp (s : State) (cause : Nat) : State :=
  if s.edgeState = edgeRun then
    let t := s.now .a
    let s := ((s.toEdge edgeGasp).leaf (edgeLeaf 16)).raiseFault 3
    let words := s.lastWordsRecord cause
    let s := s.permitRevoke.shedLoads
    let s := s.setB F.EDGE_STATUS_flush_skipped [] (!s.edge.erased)
    { s with edge := { s.edge with
        lastWords := words, gaspCause := cause, gaspTime := t, gaspStep := s.edgeStep, flushing := s.edge.erased } }
  else if s.gaspBeganNow ∧ cause < s.edge.gaspCause then
    { s with edge := { s.edge with gaspCause := cause, lastWords := s.edge.lastWords.set 2 (byte cause) } }
  else s

/-- DYING_GASP (R557): a trigger in Run; the four causes. -/
def execDyingGasp (cause : Nat) (s : State) : Host.Outcome State Fault Refusal :=
  .next (s.onEdge fun s => if 1 ≤ cause ∧ cause ≤ 4 then s.gasp cause else s)

/-- A trip turns the FET off (R548, R549): in Run it starts a gasp, before it the edge goes to Off. A trip of the 10 µs step in which
a gasp began counts although the FET is off by then (R557). -/
def State.trip (s : State) (leaf cause : Nat) : State :=
  if s.is F.EDGE_STATUS_hs_on || s.gaspBeganNow then
    let s := (s.leaf leaf).fetOff cause
    let st := s.edgeState
    if st = edgeInrush then
      ({ (s.toEdge edgeOff) with edge := { s.edge with gateCheck := false } } : State).edgeSettle
    else if st = edgeSequence then s.sequenceOff.edgeSettle
    else s.gasp cause
  else s

/-- FUSE_TRIP (R548, R557). -/
def execFuseTrip (s : State) : Host.Outcome State Fault Refusal := .next (s.onEdge fun s => s.trip (edgeLeaf 8) 3)

/-- A node of the thermal model from its register and what lies below it, in units of 2^-32 °C (R549). -/
def thermalNode (reg frac : Nat) : Int := toSigned reg 16 * 2 ^ 26 + frac

/-- A node as its register, signed in units of 1/64 °C, and what lies below it. -/
def nodeReg (t : Int) : Nat := ofSigned (satSigned (t / 2 ^ 26) 16) 16
def nodeFrac (t : Int) : Nat := (t % 2 ^ 26).toNat

/-- One node's step of the model (R549): toward P × r above the other temperature, by Δ ÷ tau. -/
def thermalStep (t rise below : Int) (tau : Nat) : Int := t + (rise - (t - below)) / (max tau 1 : Nat)

/-- The FET's threshold current I_trip, in mA (R548). -/
def State.tripCurrent (s : State) : Nat := s.get F.EDGE_FUSE_CFG_trip * 2500 / s.get F.EDGE_HS_CFG_r_sense

/-- The current through the FET in mA (R546, R548): none when it is off, the limit during an inrush; otherwise a free value up to
I_trip, to which a current above it is regulated. No current is asked for while V_ds is 0. -/
def State.fetCurrent (s : State) : Nat × State :=
  if !s.is F.EDGE_STATUS_hs_on || s.vds == 0 then (0, s)
  else if s.inInrush then (min s.tripCurrent (s.get F.EDGE_HS_CFG_p_lim * 100000 / max s.vds 500), s)
  else
    let (i, s) := s.drawWord 32
    (i % (s.tripCurrent + 1), s)

/-- The FET temperature is shown: the trip at t_limit (R549, R557). -/
def State.fetAt (s : State) (hot : Int) : State :=
  if s.get F.EDGE_THERM_CFG_t_limit * 64 ≤ hot then s.trip (edgeLeaf 11) 4 else s

/-- One 10 µs step of the thermal model (R549), with P = V_ds × I in µW; it runs without the diode only. -/
def State.thermalModel (s : State) : State :=
  if s.is F.EDGE_HS_CFG_diode then s
  else
    let (i, s) := s.fetCurrent
    let p : Nat := s.vds * i
    let case := thermalNode (s.get F.EDGE_THERM_STATUS_t_case) s.edge.caseFrac
    let fet := thermalNode (s.get F.EDGE_THERM_STATUS_t_fet) s.edge.fetFrac
    let amb : Nat := s.get F.EDGE_THERM_CFG_t_amb * 2 ^ 32
    let riseCase : Nat := p * s.get F.EDGE_THERM_MODEL_r2 * 2 ^ 32 / 2000000
    let riseFet : Nat := p * s.get F.EDGE_THERM_MODEL_r1 * 2 ^ 32 / 100000000
    let case := thermalStep case riseCase amb (10000 * s.get F.EDGE_THERM_MODEL_tau2)
    let fet := thermalStep fet riseFet case (10 * s.get F.EDGE_THERM_MODEL_tau1)
    let s := (s.set F.EDGE_THERM_STATUS_t_case [] (nodeReg case)).set F.EDGE_THERM_STATUS_t_fet [] (nodeReg fet)
    let s : State := { s with edge := { s.edge with caseFrac := nodeFrac case, fetFrac := nodeFrac fet } }
    s.fetAt (fet / 2 ^ 26)

/-- One 0.1 s of the retry timer (R550). -/
def State.retryStep (s : State) : State :=
  s.when (s.is F.EDGE_RETRY_running && (s.edge.tick - s.edge.retryFrom) % 50000000 == 0) fun s =>
    s.set F.EDGE_RETRY_remaining [] (s.get F.EDGE_RETRY_remaining - 1)

/-- One 2 ns clock of the always-on island (R549, R550, R554): none while it has stopped. -/
def State.edgeTick (s : State) : State :=
  if s.edge.stopped then s
  else
    let s : State := { s with edge := { s.edge with tick := s.edge.tick + 1 } }
    let s := s.retryStep
    s.when (s.edge.tick % 5000 == 0) fun s => s.gaugeStep.thermalModel

/-- THERMAL_TRIP (R549, R557): the FET temperature, in units of 1/64 °C, at or above t_limit. -/
def execThermalTrip (t : Nat) (s : State) : Host.Outcome State Fault Refusal :=
  .next (s.onEdge fun s =>
    let s := s.set F.EDGE_THERM_STATUS_t_fet [] (min t 32767)
    let s := s.when (s.is F.EDGE_HS_CFG_diode) fun s => s.set F.EDGE_THERM_STATUS_t_case [] (min t 32767)
    let s : State := { s with edge := { s.edge with fetFrac := 0 } }
    s.fetAt t)

/-- SEATING_CHANGE (R544, R545, R557): a release resets the debounce and turns the FET off; in Run it starts a gasp. -/
def execSeatingChange (seatB asserted : Bool) (s : State) : Host.Outcome State Fault Refusal :=
  .next (s.onEdge fun s =>
    let f := if seatB then F.EDGE_STATUS_seat_b else F.EDGE_STATUS_seat_a
    if s.is f = asserted then s
    else
      let s := (s.setB f [] asserted).leaf (edgeLeaf 6)
      if asserted then s.edgeSettle
      else
        let s : State := { s with edge := { s.edge with debounced := false } }
        let s := if s.edgeState = edgeRun ∨ s.edgeState = edgeGasp then s.fetOff 2 |>.gasp 2 else s.edgeSettle
        s.fetOff 2)

/-- JOURNAL_FLUSH_END (R558, R561, R562): the flush has ended, or its bound has passed; the edge goes to Park, where the ring ports
stop and the islands are held in reset. The leaf stays to be seen until PARK. -/
def execJournalFlushEnd (done : Bool) (s : State) : Host.Outcome State Fault Refusal :=
  .next (s.onEdge fun s =>
    if s.edgeState = edgeGasp then
      let s := s.when (s.edge.flushing && done) fun s => s.flushJournal.leaf (edgeLeaf 17)
      (s.holdIslands true).toEdge edgePark
    else s)

/-- PARK (R545, R562): with the islands held in reset, the FET goes off and the rails go off in descending order; with the last one
the edge waits in Off. -/
def execPark (s : State) : Host.Outcome State Fault Refusal :=
  .next (s.onEdge fun s =>
    if s.edgeState = edgePark ∧ ¬ s.edge.dropping then
      let cause := s.edge.gaspCause
      (((s.holdIslands false).fetOff cause).railsDown).edgeSettle
    else s)

/-! Rails (R552, R553). -/

/-- Every enable has been raised in Sequence and every PGOOD is high (R545, R552): power-on reset is released, with POS[5:0] and
TMODE[1:0] latched, and the hub runs. -/
def State.sequenceSettle (s : State) : State :=
  if s.edgeState = edgeSequence ∧ s.get F.EDGE_RAIL_STATUS_pgood = 63 ∧ s.get F.EDGE_RAIL_STATUS_pwr_en = 63 then
    (s.powerOnReset s.edge.strapPos s.edge.strapTmode).toEdge edgeRun
  else s

/-- PGOOD_RISE (R545, R552), with POS[5:0] and TMODE[1:0] as the straps stand. -/
def execPgoodRise (k pos tmode : Nat) (s : State) : Host.Outcome State Fault Refusal :=
  .next (s.onEdge fun s =>
    if k < 6 then
      let s : State := { s with edge := { s.edge with strapPos := pos, strapTmode := tmode } }
      (s.setBitOf F.EDGE_RAIL_STATUS_pgood [] k true).sequenceSettle
    else s)

/-- RAIL_GAP_EXPIRY (R545, R552): the next enable rises, or the next one down goes off. -/
def execRailGapExpiry (s : State) : Host.Outcome State Fault Refusal :=
  .next (s.onEdge fun s =>
    if s.edge.dropping then (s.railsDown.when (s.edgeState == edgePark) fun s => s.edgeSettle)
    else if s.edgeState = edgeSequence then
      match (List.range 6).find? fun k => !s.bitOf F.EDGE_RAIL_STATUS_pwr_en [] k with
      | some k =>
        s.when (1 ≤ k && s.bitOf F.EDGE_RAIL_STATUS_pgood [] (k - 1)) fun s =>
          (s.setBitOf F.EDGE_RAIL_STATUS_pwr_en [] k true).sequenceSettle
      | none => s
    else s)

/-- PGOOD_TIMEOUT (R552): the PGOOD of the highest raised enable is late. -/
def execPgoodTimeout (s : State) : Host.Outcome State Fault Refusal :=
  .next (s.onEdge fun s =>
    if s.edgeState = edgeSequence then
      match (List.range 6).reverse.find? fun k => s.bitOf F.EDGE_RAIL_STATUS_pwr_en [] k with
      | some k =>
        if s.bitOf F.EDGE_RAIL_STATUS_pgood [] k then s
        else (((s.set F.EDGE_RAIL_STATUS_lost [] k).leaf (edgeLeaf 12)).fetOff 5).sequenceOff.edgeSettle
      | none => s
    else s)

/-- PGOOD_LOSS (R553): in Run the islands are held in reset, the rails and the FET go off, and no gasp runs. With VDD below its
power-good level no bench pin is driven (R586, R597). -/
def execPgoodLoss (k : Nat) (s : State) : Host.Outcome State Fault Refusal :=
  .next (s.onEdge fun s =>
    if k < 6 then
      let s := s.setBitOf F.EDGE_RAIL_STATUS_pgood [] k false
      if s.edgeState = edgeRun then
        let s := (s.leaf (edgeLeaf 12)).set F.EDGE_RAIL_STATUS_lost [] k
        ((((s.holdIslands false).fetOff 5).toEdge edgeOff).railsDown).edgeSettle
      else s.when (k == 0) fun s => s.each (List.range 16) fun s b => s.pinsRestart b false
    else s)

/-! The clock. -/

/-- No command waits: one clock of 2 ns passes in the always-on island (R549, R554), and in the time core, unless that is held in
reset (R545). -/
def State.idle (s : State) : State :=
  let s := s.clearOut
  (s.when (!s.down .timeCore) fun s => s.timeCycle).edgeTick

/-! Bench self-test (R573 to R575). -/

/-- An address of a memory of bench b that the units up to `unit` test: programs, shared memory, table, lookup table. -/
def bistMemory (b unit a : Nat) : Bool :=
  let off := a - (16 + b) * 0x100000
  a / 0x100000 == 16 + b
    && ((off < 0x10000 && off % 0x400 / 0x100 == 1) || (3 ≤ unit && 0x80000 ≤ off) || (4 ≤ unit && 0x40000 ≤ off && off < 0x44100)
      || (5 ≤ unit && 0x11000 ≤ off && off < 0x11400))

/-- The tested units are left cleared (R574): memories, from unit 2 on the setts, and with unit 7 the controller's memory. -/
def State.bistClear (s : State) (b unit : Nat) : State :=
  let s := s.clearRegs (bistMemory b unit)
  let s := s.when (7 ≤ unit) fun s => s.setBench b { s.benchOf b with firmware := [] }
  s.when (2 ≤ unit) fun s => s.each (List.range 64) fun s k => s.onSett b k fun t => { phase := .stopped, cause := t.cause }

/-- BIST_END (R574, R575): the run has passed, or has failed in a unit at an offset; its permit is returned. -/
def execBistEnd (r : BistResult) (s : State) : Host.Outcome State Fault Refusal :=
  if s.down .hopper then .next s.clearOut else
  let s := s.clearOut
  if s.get F.TST_BIST_STATUS_state = 2 then
    let b := s.get F.TST_BIST_STATUS_bench
    match r with
    | .passed => .next ((((s.bistClear b 7).set F.TST_BIST_STATUS_state [] 3).leaf (testLeaf 0) b).permitGive .bist 0)
    | .failed unit offset =>
      if 1 ≤ unit ∧ unit ≤ 7 then
        let s := ((s.bistClear b unit).set F.TST_BIST_STATUS_state [] 4).set F.TST_BIST_STATUS_unit [] unit
        .next (((s.set F.TST_BIST_STATUS_offset [] offset).leaf (testLeaf 1) b).permitGive .bist 0)
      else .next s
  else .next s

end Sys2Proof.Machine
end

