-- ==== Sys2Proof/Machine/Fabric.lean ====
section
/-! DEFINITION. The fabric bridge at work: accesses issued to a fabric address, cells applied at the target, responses,
and polls (R344, R346 to R351, R355, R356). What the spec leaves to a reading or a choice stands in log entry 25. -/

namespace Sys2Proof.Machine

/-- A path that can issue fabric accesses, as an agent outside names it. -/
def issuer (p : Path) : Bool := pathIssues p && (match p with | .bench b _ => b < 16 | _ => true)

/-- FABRIC_WRITE_ISSUE (R25, R344). -/
def execFabricWriteIssue (p : Path) (w : Width) (fa val : Nat) (s : State) : Host.Outcome State Fault Refusal :=
  if s.down .hopper || s.pathClosed p then .next s.clearOut else
  let s := s.clearOut
  .next (if issuer p then s.fabricWrite p w (fa / 2 ^ 32 % 256) (fa % 2 ^ 32) val else s)

/-- FABRIC_READ_ISSUE (R25, R344). -/
def execFabricReadIssue (p : Path) (w : Width) (fa : Nat) (s : State) : Host.Outcome State Fault Refusal :=
  if s.down .hopper || s.pathClosed p then .next s.clearOut else
  let s := s.clearOut
  .next (if issuer p then s.fabricRead p w (fa / 2 ^ 32 % 256) (fa % 2 ^ 32) else s)

/-! Cells at the target (R346, R347). -/

/-- The oldest arrived cell, when it is of a kind. -/
def State.bridgeFront (s : State) (kind : Nat → Bool) : Option Cell :=
  match (s.dequeue .bridge (s.get F.BRG_CFG_endpoint) (s.get F.BRG_CFG_class)).1 with
  | some c => if kind (byteAt c.bytes 0) then some c else none
  | none => none

/-- The bridge dequeues its oldest arrived cell. -/
def State.bridgeTake (s : State) : State := (s.dequeue .bridge (s.get F.BRG_CFG_endpoint) (s.get F.BRG_CFG_class)).2

/-- The path a cell's accesses travel on. -/
def cellPath (c : Cell) : Path := .remote c.srcHub (byteAt c.bytes 16) (byteAt c.bytes 1 / 16)

/-- Stream check of an arrived cell (R348). -/
def State.cellStream (s : State) (c : Cell) : Bool × State :=
  s.streamCheck c.srcHub (natBit (byteAt c.bytes 1) 0) (beAt c.bytes 4 2) (byteAt c.bytes 1 / 16)

/-- The words of a posted write, in ascending order. -/
def State.writeWords (s : State) (p : Path) (addr : Nat) (bytes : List Byte) : List Nat → State
  | [] => s
  | k :: ks =>
    let a := (addr + 4 * k) % 2 ^ 32
    let s := if a % 4 ≠ 0 then s.deny p a true .shape else (s.write32 p a (cellWord bytes k)).2
    s.writeWords p addr bytes ks

/-- BRIDGE_CELL_APPLY (R342, R346 to R348, R352): a posted write; a cell of a reserved kind is discarded here too. -/
def execBridgeCellApply (s : State) : Host.Outcome State Fault Refusal :=
  if s.down .hopper then .next s.clearOut else
  let s := s.clearOut
  match s.bridgeFront fun k => k != cellRead && k != cellResponse with
  | some c =>
    let s := s.bridgeTake
    if cellMalformed c.bytes then .next s.malformedCell
    else
      let (ok, s) := s.cellStream c
      if ok then
        .next ((s.writeWords (cellPath c) (beAt c.bytes 8 4) c.bytes (List.range (cellCount c.bytes))).dropLatches (cellPath c))
      else .next s
  | none => .next s

/-- One word of a read request, by its byte lanes: a narrow read keeps its lanes, and is refused where reading has side
effects (R34). -/
def State.readLanes (s : State) (p : Path) (addr lanes : Nat) : Option Nat × State :=
  if addr % 4 ≠ 0 then (none, s.deny p addr false .shape)
  else if lanes = 0x0F then s.read32 p addr
  else
    let side := match s.regAt addr with | some (r, _) => readSideEffects r | none => false
    if side then (none, s.deny p addr false .shape)
    else
      let mask := (List.range 4).foldl (fun a i => a + b2n (natBit lanes i) * 0xFF * 2 ^ (8 * i)) 0
      let (v, s) := s.read32 p addr
      (v.map (· &&& mask), s)

/-- The words of a read request: what was read, and the mask of refused words. -/
def State.readWords (s : State) (p : Path) (addr lanes : Nat) : List Nat → List Nat × Nat × State
  | [] => ([], 0, s)
  | k :: ks =>
    let (v, s) := s.readLanes p ((addr + 4 * k) % 2 ^ 32) lanes
    let (vs, refused, s) := s.readWords p addr lanes ks
    (v.getD 0 :: vs, refused + (if v.isNone then 2 ^ k else 0), s)

/-- A response is offered to the hopper; refused, it is discarded and counted (R351). -/
def State.respondCell (s : State) (c : Cell) (status refused : Nat) (words : List Nat) : State :=
  let b := c.bytes
  let n := if 1 ≤ cellCount b ∧ cellCount b ≤ 16 then cellCount b else 1
  let cell := bridgeCell cellResponse (byteAt b 1 / 16) false n (byteAt b 3) (beAt b 4 2) (beAt b 8 4) 0 status refused (byteAt b 16) words
  match s.enqueue .bridge (s.bridgeQueue c.srcHub) cell with
  | (.accepted, s) => s
  | (_, s) => (s.inc F.BRG_CNT_B_resp_dropped).leaf (bridgeLeaf 6)

/-- READ_REQUEST_APPLY (R346, R348, R350). -/
def execReadRequestApply (s : State) : Host.Outcome State Fault Refusal :=
  if s.down .hopper then .next s.clearOut else
  let s := s.clearOut
  match s.bridgeFront (· == cellRead) with
  | some c =>
    let s := s.bridgeTake
    if cellMalformed c.bytes then .next (s.malformedCell.respondCell c 2 0 [])
    else
      let (ok, s) := s.cellStream c
      if ok then
        let (vs, refused, s) := s.readWords (cellPath c) (beAt c.bytes 8 4) (byteAt c.bytes 12) (List.range (cellCount c.bytes))
        .next ((s.dropLatches (cellPath c)).respondCell c (if refused = 0 then 0 else 1) refused vs)
      else .next (s.respondCell c 2 0 [])
  | none => .next s

/-- READ_RESPONSE_RECEIVED (R355). -/
def execReadResponseReceived (s : State) : Host.Outcome State Fault Refusal :=
  if s.down .hopper then .next s.clearOut else
  let s := s.clearOut
  match s.bridgeFront (· == cellResponse) with
  | some c =>
    let s := s.bridgeTake
    .next (if cellMalformed c.bytes then s.malformedCell else s.responseArrives c.srcHub c.bytes)
  | none => .next s

/-! Polls (R356). -/

/-- One poll entry at the start of a round. -/
def State.pollEntry (s : State) (k : Nat) : State :=
  let period := s.get F.BRG_POLL_CFG_period [k]
  if s.is F.BRG_POLL_CFG_enable [k] && (s.round + k) % period == 0 && !s.is F.BRG_POLL_STATUS_pending [k] then
    let hub := s.get F.BRG_POLL_CFG_hub [k]
    if s.isLocal hub then
      match s.read32 (.remote hub 18 0) (s.rd .BRG_POLL_ADDR [k]) with
      | (some v, s) => s.pollAnswered k v
      | (none, s) => s.pollFailed k
    else s.pollIssue k hub
  else s

/-- The polls of a round. -/
def State.pollRound (s : State) : State := s.each (List.range 64) fun s k => s.pollEntry k

end Sys2Proof.Machine
end

