-- ==== Sys2Proof/Machine/ImageRules.lean ====
section
/-! DEFINITION. The rules of the other chapters under which the configuration loader refuses an image, checked against
the state it has written (R516): the port descriptor tables (R248), the schedule (R142), and the registers. Each failed
rule names the directory index of its section, 255 when none, and the register concerned, 0 when none. What the spec
leaves to a reading or a choice stands in log entries 21 and 39. -/

namespace Sys2Proof.Machine

/-- A rule that failed: refuse_section and the address for CFG_REFUSE_ADDR. -/
abbrev RuleFault := Nat × Nat

/-- The first of a list of members that breaks a rule, as a fault at its register. -/
def breaker (members : List (List Nat)) (r : Reg) (bad : List Nat → Bool) : Option RuleFault :=
  (members.find? bad).map fun ix => (255, r.addr ix)

/-- The first fault of a list of rules. -/
def firstFault : List (Option RuleFault) → Option RuleFault
  | [] => none
  | some f :: _ => some f
  | none :: t => firstFault t

/-! Port descriptor tables (R245 to R248). -/

/-- Descriptor k of a table. -/
def descOf (tbl : List Byte) (k : Nat) : List Byte := slice tbl (0x100 + 0x100 * k) 256

/-- Fields of a descriptor. -/
def dInUse (d : List Byte) : Bool := natBit (byteAt d 1) 7
def dEndpointValid (d : List Byte) : Bool := natBit (byteAt d 1) 6
def dCode (d : List Byte) : Nat := byteAt d 0
def dEndpoint (d : List Byte) : Nat := leAt d 2 2 % 1024
def dQuad (d : List Byte) : Nat := byteAt d 4 % 16
def dSetts (d : List Byte) : List Nat := (List.range 4).filter fun j => natBit (byteAt d 5) j
def dTimeout (d : List Byte) : Nat := leAt d 8 4

/-- The descriptors in use of a table. -/
def tableDescs (tbl : List Byte) : List (List Byte) := ((List.range 64).map (descOf tbl)).filter dInUse

/-- Bytes from an offset on are 0 (R246). -/
def tailZero (d : List Byte) (off : Nat) : Bool := allZero (d.drop off)

/-- A number lies in a range. -/
def within (lo x hi : Nat) : Bool := lo ≤ x && x ≤ hi

/-- The common parameters of the two SPI personalities (R258). -/
def spiParamsOk (d : List Byte) : Bool :=
  byteAt d 20 ≤ 3 && within 4 (byteAt d 21) 32 && byteAt d 22 ≤ 1 && byteAt d 23 == 0

/-- Every parameter lies in its stated range, and the bytes its personality does not use are 0. -/
def paramsOk (d : List Byte) : Bool :=
  let b := byteAt d
  let w := leAt d 16 4
  let x := leAt d 20 4
  match dCode d with
  | 0x01 => within 50 w 10000000 && within 5 (b 20) 9 && b 21 ≤ 4 && within 1 (b 22) 2 && 1 ≤ b 23 && b 24 < 16 && tailZero d 25
  | 0x02 => within 1000 w 25000000 && spiParamsOk d && 20 ≤ leAt d 24 2 && 20 ≤ leAt d 26 2 && tailZero d 28
  | 0x03 => within 1 w 12500000 && spiParamsOk d && tailZero d 24
  | 0x04 => b 16 ≤ 2 && b 17 ≤ 1 && tailZero d 18
  | 0x05 => (w == 0 || within 1000 w 10000000) && b 20 ≤ 1 && within 1 (b 21) 15 && within 4 (leAt d 22 2) 2048 && tailZero d 24
  | 0x06 => b 16 ≤ 7 && tailZero d 17
  | 0x07 => w ≤ 7 && x < 2 ^ 27 && tailZero d 24
  | 0x08 => w ≤ 1 && within 100 x 100000000 && tailZero d 24
  | 0x09 => within 1000 w 500000000 && -500000000 ≤ toSigned x 32 && toSigned x 32 ≤ 500000000 && tailZero d 24
  | 0x0A => w ≤ 100000000 && b 21 == 0 && within 1 (leAt d 22 2) 60000 && within 1 (leAt d 24 2) 60000 && b 26 ≤ 1 && tailZero d 27
  | 0x0B => w ≤ 3 && within 100 x 10000000 && b 24 < 4 && tailZero d 25
  | 0x0C => within 1000 w 1000000000 && 1000000000 % w == 0 && within 8 x (w - 8) && leAt d 24 4 < w && b 28 ≤ 1 && b 29 == 0
      && tailZero d 32
  | 0x0D => (w == 0 || (List.range 126).any fun k => 5 ≤ k && 125000000 / k == w) && b 20 ≤ 1 && b 21 < 32
      && (b 22 < 32 || b 22 == 0xFF) && (b 23 < 32 || b 23 == 0xFF) && tailZero d 24
  | _ => false

/-- The lower bound of idle_timeout (R277, R278); 0 selects the default. The bit time of HDLC is at least 100 ns (R263). -/
def timeoutOk (d : List Byte) : Bool :=
  let t := dTimeout d
  let w := leAt d 16 4
  t == 0 || (match dCode d with
    | 0x01 => (1 + byteAt d 20 + b2n (byteAt d 21 != 0) + byteAt d 22) * 1000000000 ≤ t * w
    | 0x03 => 2000000000 ≤ t * w
    | 0x04 => 1000000 ≤ t
    | 0x05 => 200 ≤ t
    | 0x06 => 10000000 ≤ t
    | 0x0D => if w = 0 then 100 ≤ t else 16 * sdDivider w ≤ t
    | _ => true)

/-- The pins of the bench an instance drives (R247). -/
def drivenPins (d : List Byte) : List Nat :=
  let q := 4 * dQuad d
  let own := q + (dSetts d).headD 0
  let mode := byteAt d 24
  let clocked := leAt d 16 4 != 0
  match dCode d with
  | 0x01 => (if natBit mode 1 then [q + 1] else []) ++ (if natBit mode 2 then [q + 2] else [])
  | 0x02 => [q, q + 1, q + 3]
  | 0x03 => [q + 2]
  | 0x04 => [q, q + 1]
  | 0x05 => (if clocked then [q + 2] else []) ++ [q + 3]
  | 0x07 => [own]
  | 0x09 => [own]
  | 0x0B => [own]
  | 0x0C => [own]
  | 0x0D => if clocked then [q] else []
  | _ => []

/-- The channels a sigma-delta instance names (R275). -/
def namedChannels (d : List Byte) : List Nat :=
  if dCode d = 0x0D then byteAt d 21 :: ([byteAt d 22, byteAt d 23].filter (· != 0xFF)) else []

/-- No value stands twice in a list. -/
def distinct : List Nat → Bool
  | [] => true
  | x :: xs => !xs.contains x && distinct xs

/-- The header of a table (R245). -/
def tableHeaderOk (tbl : List Byte) : Bool :=
  leAt tbl 0 4 == 0x50445442 && byteAt tbl 4 == 2 && byteAt tbl 5 ≤ 64 && leAt tbl 6 2 == 0
    && leAt tbl 8 4 == crc32 (slice tbl 256 16384) && allZero (slice tbl 12 244)

/-- One descriptor in use obeys R246 to R248 with the registers as they stand. -/
def State.descOk (s : State) (b : Nat) (d : List Byte) : Bool :=
  let common := byteAt d 1 % 64 == 0 && leAt d 2 2 < 1024 && byteAt d 4 < 16 && byteAt d 5 < 16 && byteAt d 6 < 16 && byteAt d 7 < 64
    && allZero (slice d 12 4)
  let endpoint :=
    dEndpointValid d == (dCode d != 0x0D)
      && (!dEndpointValid d || (s.epKind (dEndpoint d) == 1 && s.epUnit (dEndpoint d) == b))
  let pins := (drivenPins d).all fun p => (dSetts d).contains (s.owner b p) && s.driveEnabled b p
  let open' := dCode d != 0x04 || [0, 1].all fun j => s.is F.BNCH_PAD_open_drain [b, 4 * dQuad d + j]
  common && endpoint && paramsOk d && pins && open' && timeoutOk d

/-- A table obeys R248; `others` holds the endpoints that the tables of other benches name. -/
def State.tableOk (s : State) (b : Nat) (tbl : List Byte) (others : List Nat) : Bool :=
  let ds := tableDescs tbl
  tableHeaderOk tbl
    && (List.range 64).all (fun k => !dInUse (descOf tbl k) || k < byteAt tbl 5)
    && ds.all (s.descOk b)
    && distinct (ds.flatMap fun d => (dSetts d).map fun j => 4 * dQuad d + j)
    && distinct (ds.flatMap drivenPins)
    && distinct (ds.flatMap namedChannels)
    && distinct ((ds.filter dEndpointValid).map dEndpoint ++ others)

/-- The table that stands in a bench. -/
def State.tableIn (s : State) (b : Nat) : List Byte := (List.range 4160).flatMap fun i => leBytes 4 (s.rd .BNCH_PDT [b, i])

/-- The endpoints the tables of some benches name. -/
def tableEndpoints (ts : List (List Byte)) : List Nat := ts.flatMap fun t => ((tableDescs t).filter dEndpointValid).map dEndpoint

/-! The schedule (R76, R142). -/

/-- Entry i of a schedule section, in order: east-going, then west-going. -/
def schedEntry (x : List Byte) (i : Nat) : Nat := leAt x (16 + 4 * i) 4
def schedSlots (x : List Byte) : Nat := leAt x 6 2

/-- Spare units of a schedule: a mirrored slot once, a split entry once in each direction. -/
def spareUnits (x : List Byte) : Nat :=
  let n := schedSlots x
  ((List.range (2 * n)).filter fun i =>
    let e := schedEntry x i
    natBit e 15 && (natBits e 13 12 != 2 || i < n)).length

/-- One schedule entry; the reserved mode 0b11 refuses the image (DESIGN CHOICE, log entry 39). -/
def State.schedEntryOk (s : State) (e : Nat) : Bool :=
  let owner := natBits e 5 0
  let mode := natBits e 13 12
  let spare := natBit e 15
  natBits e 27 16 == 0 && !natBit e 14 && natBits e 11 6 == 0 && mode != 3
    && (!spare || (mode != 0 && owner == 0))
    && (natBits e 31 28 == 0 || (owner == s.hub && (mode == 1 || mode == 2) && !spare))

/-- The schedule section obeys R142. Bytes a short section lacks read 0, and those beyond its end are not looked at
(DESIGN CHOICE, log entry 39). -/
def State.scheduleOk (s : State) (img : List Byte) (x : List Byte) : Bool :=
  let n := schedSlots x
  let code := s.get F.RING_CTRL_round_len
  leAt x 0 4 == tagSched && byteAt x 4 == imgSchedGen img && within 1 (byteAt x 4) 127 && byteAt x 5 == code
    && n == 80 * 2 ^ code && code != 3 && allZero (slice x 8 8)
    && (List.range 3).all (fun i => schedEntry x i == 0 && schedEntry x (n + i) == 0)
    && (List.range n).all (fun i =>
      let a := schedEntry x i
      let b := schedEntry x (n + i)
      (natBits a 13 12 != 2 && natBits b 13 12 != 2) || a == b)
    && (List.range (2 * n)).all (fun i => s.schedEntryOk (schedEntry x i))
    && (List.range 8).all (fun i => natBits (leAt x (16 + 8 * n + 4 * i) 4) 29 9 == 0)
    && spareUnits x ≤ 64

/-! Registers. -/

/-- Index lists of one and of two indices. -/
def ix1 (n : Nat) : List (List Nat) := (List.range n).map fun i => [i]
def ix2 (n m : Nat) : List (List Nat) := (List.range n).flatMap fun i => (List.range m).map fun j => [i, j]

/-- An endpoint is assigned as a rule asks, and belongs to face 0. -/
def State.blockEndpoint (s : State) (e kind unit : Nat) : Bool := s.epKind e == kind && s.epUnit e == unit && s.epFace e == 0

/-- Dresser rules (R282, R302). -/
def State.channelRule (s : State) (ix : List Nat) : Bool :=
  s.is F.DRS_CH_CFG_enable ix && (s.channelPort (ix.getD 0 0) (ix.getD 1 0)).isNone
def State.groupRule (s : State) (ix : List Nat) : Bool :=
  let b := ix.getD 0 0
  let g := ix.getD 1 0
  let ms := s.groupMembers b g
  let e := s.get F.DRS_GROUP_CFG_endpoint ix
  let same (f : Nat → Nat) : Bool := ms.all fun c => f c == f (ms.headD 0)
  s.is F.DRS_GROUP_CFG_enable ix && !(s.epKind e == 5 && s.epUnit e == 4 * b + g && !ms.isEmpty && ms.length ≤ 27
    && same (fun c => s.get F.DRS_CH_CFG_ratio [b, c]) && same fun c => s.clockDivider b c)

/-- The limits' sum (R316). -/
def State.limitSum (s : State) : Nat :=
  (ix2 1024 16).foldl (fun a ix => a + s.get F.HOP_LIMIT_in_limit ix + s.get F.HOP_LIMIT_out_limit ix) 0

/-- The bridge (R340). -/
def State.bridgeRule (s : State) : Bool :=
  let e := s.get F.BRG_CFG_endpoint
  s.is F.BRG_CFG_enable && !(s.epKind e == 3 && s.get F.HOP_CLASS_CFG_path [s.get F.BRG_CFG_class] == 0 && s.epFace e == 0)

/-- The forwarding table and the page limits (R405, R406). -/
def State.fdbRule (s : State) (ix : List Nat) : Bool :=
  let key (ix : List Nat) : Nat := s.rd .SWC_FDB_KEY ix * 2 ^ 32 + s.rd .SWC_FDB_MAC ix
  s.is F.SWC_FDB_KEY_valid ix && (List.range (ix.headD 0)).any fun j => s.is F.SWC_FDB_KEY_valid [j] && key [j] == key ix
def State.pageSum (s : State) : Nat := (ix2 10 8).foldl (fun a ix => a + s.get F.SWC_LIMIT_pages ix) 0

/-- Port 8 (R409). -/
def State.ringPortRule (s : State) : Bool :=
  let base := if s.is F.SWC_RING_CFG_class_base then 8 else 0
  s.is F.SWC_RING_CFG_enable && !(s.blockEndpoint (s.get F.SWC_RING_CFG_endpoint) 7 0
    && (List.range 8).all fun c => s.get F.HOP_CLASS_CFG_path [base + c] == 0)

/-- Bank 0 of a port whose gates run (R417); a speed still to be negotiated counts as the fastest. -/
def State.gateRule (s : State) (ix : List Nat) : Bool :=
  let m := ix.headD 0
  let rate := if s.get F.ETH_MAC_CFG_iface [m] = 0 ∧ s.is F.ETH_MAC_CFG_autoneg [m] then 2 else s.portRate m
  s.is F.SWC_GATE_CTRL_enable ix && !s.gateValidAt m 0 rate

/-- Bit rates of an enabled channel (R423, R424). -/
def State.canRateRule (s : State) (ix : List Nat) : Bool :=
  let nominal := (s.get F.CAN_NBT_brp ix + 1) * (3 + s.get F.CAN_NBT_tseg1 ix + s.get F.CAN_NBT_tseg2 ix)
  let data := (s.get F.CAN_DBT_brp ix + 1) * (3 + s.get F.CAN_DBT_tseg1 ix + s.get F.CAN_DBT_tseg2 ix)
  s.is F.CAN_CTRL_enable ix && (!within (20000 * nominal) 80000000 (1000000 * nominal)
    || (2000000 * data < 80000000 && !s.is F.CAN_DBT_tdc ix))

/-- The endpoint of an enabled channel (R425), and a time-master candidate (R432). -/
def State.canEndpointRule (s : State) (ix : List Nat) : Bool :=
  let n := ix.headD 0
  let mine := (List.range 1024).filter fun e => s.epKind e == 2 && s.epUnit e == n
  s.is F.CAN_CTRL_enable ix && mine != [s.get F.CAN_RX_CFG_endpoint ix]
def State.canReferenceRule (s : State) (ix : List Nat) : Bool :=
  let period := s.get F.CAN_REF_CFG_period_ms ix
  0x7FF < s.get F.CAN_REF_CFG_base_id ix + 15 || period == 0 || 1000 % period != 0

/-- A member entry of a pair (R439). -/
def State.twinRule (s : State) (ix : List Nat) : Bool :=
  let slot := s.get F.TWIN_CFG_hb_slot
  let w := s.rd .SLOT_TABLE [0, slot]
  s.is F.TWIN_PAIR_CFG_member ix && !(s.is F.TWIN_CFG_enable && s.get F.TWIN_PAIR_CFG_peer ix != s.hub
    && within 1 (s.get F.TWIN_PAIR_CFG_base ix) 62
    && slot < s.slotsPerDir && F.SLOT_TABLE_mode.of w == 2 && F.SLOT_TABLE_owner.of w == s.hub && F.SLOT_TABLE_spare.of w == 0
    && s.blockEndpoint (s.get F.TWIN_CFG_endpoint) 7 1 && s.get F.HOP_CLASS_CFG_path [s.get F.TWIN_CFG_class] == 1)

/-- The twin endpoint's face (R474), judged whenever the twin block is enabled. -/
def State.twinFaceRule (s : State) : Bool := s.is F.TWIN_CFG_enable && s.epFace (s.get F.TWIN_CFG_endpoint) != 0

/-- A guarded endpoint (R451). -/
def State.guardRule (s : State) (ix : List Nat) : Bool :=
  let e := s.get F.TWIN_GUARD_endpoint ix
  s.is F.TWIN_GUARD_valid ix && (!(s.epKind e == 1 || s.epKind e == 2)
    || (List.range (ix.headD 0)).any fun j => s.is F.TWIN_GUARD_valid [j] && s.get F.TWIN_GUARD_endpoint [j] == e)

/-- The delay endpoint's face (R474). -/
def State.delayFaceRule (s : State) : Bool := s.is F.TIME_RING_CFG_refresh && s.epFace (s.get F.TIME_RING_CFG_endpoint) != 0

/-- The bank levels (R585). -/
def State.bankRule (s : State) (ix : List Nat) : Bool :=
  s.get F.BNCH_BANK_level ix == 3 || s.get F.BNCH_BANK_vio ix != s.get F.BNCH_BANK_level ix

/-- A rule about one register. -/
def ruleAt (bad : Bool) (r : Reg) (ix : List Nat := []) : Option RuleFault := if bad then some (255, r.addr ix) else none

/-- The directory index of the first section of a tag and parameter. -/
def sectionIndex (img : List Byte) (tag param : Nat) : Nat :=
  ((imgSections img).findIdx? fun x => x.tag == tag && x.param == param).getD 255

/-- The first rule the written state breaks (R516). -/
def State.imageRuleFault (s : State) (img : List Byte) : Option RuleFault :=
  let sched := (sectionsOf img tagSched).headD []
  let tables := (List.range 16).map fun b => if s.tableOk b (s.tableIn b) (tableEndpoints ((List.range b).map s.tableIn)) then none
    else some (sectionIndex img tagTable b, 0)
  firstFault ([ if s.scheduleOk img sched then none else some (sectionIndex img tagSched 0, 0) ] ++ tables ++
    [ breaker (ix2 16 32) .DRS_CH_CFG s.channelRule,
      breaker (ix2 16 4) .DRS_GROUP_CFG s.groupRule,
      ruleAt (194560 < s.limitSum) .HOP_LIMIT [0, 0],
      ruleAt s.bridgeRule .BRG_CFG,
      breaker (ix1 1024) .SWC_FDB_KEY s.fdbRule,
      ruleAt (15984 < s.pageSum) .SWC_LIMIT [0, 0],
      breaker (ix1 8 |>.map fun ix => 8 :: ix) .SWC_LIMIT fun ix => s.is F.SWC_LIMIT_pages ix,
      ruleAt s.ringPortRule .SWC_RING_CFG ] ++
    [ breaker (ix1 8) .SWC_GATE_CTRL s.gateRule,
      breaker (ix1 16) .CAN_NBT s.canRateRule,
      breaker (ix1 16) .CAN_RX_CFG s.canEndpointRule,
      breaker (ix1 16) .CAN_REF_CFG s.canReferenceRule,
      ruleAt s.twinFaceRule .TWIN_CFG,
      breaker (ix1 32) .TWIN_PAIR_CFG s.twinRule,
      breaker (ix1 64) .TWIN_GUARD s.guardRule,
      ruleAt s.delayFaceRule .TIME_RING_CFG,
      breaker (ix1 16) .BNCH_BANK s.bankRule ])

end Sys2Proof.Machine
end

