-- ==== Sys2Proof/Machine/Load.lean ====
section
/-! DEFINITION. The configuration load: the slots, the application of an image, the refusals, the lock and the recovery
state (R141, R470, R509 to R520); the reload of a bench, and bench service (R505, R571, R572). What the spec leaves to a
reading or a choice stands in log entries 39 and 43. -/

namespace Sys2Proof.Machine

/-! Refusals (R518). -/

/-- Why a slot is refused: refuse_code, refuse_section and the address of CFG_REFUSE_ADDR. -/
structure SlotFault where
  code : Nat
  part : Nat := 255
  addr : Nat := 0
  deriving DecidableEq, Repr

/-- A refused slot is recorded: leaf 2 for a failure of authentication, leaf 1 for any other (R518). -/
def State.recordSlotFault (s : State) (x : SlotFault) : State :=
  let s := (s.set F.CFG_STATUS_refuse_code [] x.code).set F.CFG_STATUS_refuse_section [] x.part
  let s := s.wr .CFG_REFUSE_ADDR [] x.addr
  s.leaf (loadLeaf (if 1 ≤ x.code ∧ x.code ≤ 5 then 2 else 1))

/-! Register-write pairs (R516, R517). -/

/-- Addresses no pair may name: the queue-state and the cell window, and the CFG_ block. -/
def pairBarred (a : Nat) : Bool :=
  (0x20000000 ≤ a && a < 0x20800000) || (0x21000000 ≤ a && a < 0x22800000) || (0x20000 ≤ a && a < 0x30000)

/-- One pair applied by the loader: a refusal code, 0 for none. -/
def State.applyPair (s : State) (addr val : Nat) : Nat × State :=
  if addr % 4 ≠ 0 ∨ pairBarred addr then (7, s)
  else match s.regAt addr with
    | none => (7, s)
    | some (r, _) =>
      if val &&& r.desc.wo ≠ 0 then (7, s)
      else if (r = .DRS_CH_GAIN ∨ r = .DRS_CH_OFFSET) ∧ notFinite val then (8, s)
      else
        let (ok, s) := s.write32 .loader addr val
        (if ok then 0 else 7, s)

/-- What an application has come to: the fault that ended it, if any, the addresses written, and the state. -/
structure Applied where
  fault : Option SlotFault := none
  touched : List Nat := []
  s : State

/-- The pairs in order, up to the first that refuses the image. -/
def applyPairs : List (Nat × Nat × Nat) → Applied → Applied
  | [], x => x
  | (i, addr, val) :: rest, x =>
    match x.s.applyPair addr val with
    | (0, s) => applyPairs rest { x with touched := addr :: x.touched, s := s }
    | (c, s) => { x with fault := some { code := c, part := i, addr := addr }, s := s }

/-! Schedule, tables and keys (R141, R245, R470, R516). -/

/-- The schedule goes into SLOT_TABLE, with the face of each entry beside it. -/
def State.applySchedule (s : State) (img : List Byte) : State :=
  let x := (sectionsOf img tagSched).headD []
  let n := min (schedSlots x) 320
  let s := s.each (List.range 2) fun s d => s.each (List.range 320) fun s i =>
    let e := if i < n then schedEntry x (d * n + i) else 0
    let s := s.wr .SLOT_TABLE [d, i] (e % 2 ^ 16)
    { s with ring := { s.ring with slotFaces := smSet s.ring.slotFaces (d * 512 + i) (natBits e 31 28) 0 } }
  { s with ring := { s.ring with schedGen := byteAt x 4, preferred := (List.range 8).map fun i => leAt x (16 + 8 * n + 4 * i) 4 } }

/-- The port descriptor table of a bench. -/
def State.applyTable (s : State) (img : List Byte) (b : Nat) : State :=
  let t := imgTable img b
  s.each (List.range 4160) fun s i => s.wr .BNCH_PDT [b, i] (leAt t (4 * i) 4)

/-- A key slot record of an image (R514). -/
structure ImageKey where
  slot : Nat
  generation : Nat
  face : Nat
  types : Nat
  wrapped : List Byte
  deriving DecidableEq, Repr

/-- The key slot records of an image. -/
def imgKeys (img : List Byte) : List ImageKey :=
  let x := (sectionsOf img tagKeys).headD []
  (List.range (x.length / 32)).map fun i =>
    let r := slice x (32 * i) 32
    { slot := byteAt r 0, generation := byteAt r 1, face := byteAt r 2 % 16, types := byteAt r 3 % 128, wrapped := slice r 8 24 }

/-- A generation is newer than another (R470). -/
def newerGeneration (g h : Nat) : Bool := let d := (g + 256 - h) % 256; 1 ≤ d && d ≤ 127

/-- A slot takes a record: state, generation, face, types, key and H, with an empty counter record; the record falls due for the key
store, since its counter is new or has passed a multiple of 65,536 (R470, R472). -/
def State.installKey (s : State) (k st gen face types : Nat) (wrapped : List Byte) (h : Nat) : State :=
  let s := (s.set F.GRD_KEY_CFG_state [k] st).set F.GRD_KEY_CFG_generation [k] gen
  let s := (s.set F.GRD_KEY_CFG_face [k] face).set F.GRD_KEY_CFG_types [k] types
  ((s.setKeyCounter k h).setKeySlot k { key := (kwUnwrap s.grd.deviceKey wrapped).getD 0 }).keyStoreDue k

/-- A slot takes its record of the key store (R470): H is its saved counter plus 65,536. -/
def State.installStored (s : State) (k : Nat) (r : List Byte) : State :=
  s.installKey k (byteAt r 4) (byteAt r 5) (byteAt r 6) (byteAt r 7) (storeWrapped r) (storeCounter r + 65536)

/-- A slot takes its record of the image (R470): H is 0, and the slot waits until the record is in the key store. -/
def State.installImage (s : State) (k : Nat) (x : ImageKey) : State :=
  let s := s.installKey k 1 x.generation x.face x.types x.wrapped 0
  s.setKeySlot k { s.keySlot k with waiting := true }

/-- One key slot at load: the store's record, unless the image's is newer or the store has none. -/
def State.loadKey (s : State) (keys : List ImageKey) (k : Nat) : State :=
  match keys.find? (fun x => x.slot == k), s.storeCurrent k with
  | none, none => s
  | none, some (_, r) => s.installStored k r
  | some x, none => s.installImage k x
  | some x, some (_, r) => if newerGeneration x.generation (byteAt r 5) then s.installImage k x else s.installStored k r

/-- Every wrapped key that the loader reads opens under the device key: those of the image and those of the key store (R470). -/
def State.keysOpen (s : State) (keys : List ImageKey) : Bool :=
  keys.all (fun x => (kwUnwrap s.grd.deviceKey x.wrapped).isSome) && (List.range 32).all fun k =>
    match s.storeCurrent k with
    | some (_, r) => (kwUnwrap s.grd.deviceKey (storeWrapped r)).isSome
    | none => true

/-- The keys are installed, or none of them (R470). -/
def State.loadKeys (s : State) (img : List Byte) : State :=
  let keys := imgKeys img
  if s.is F.GRD_STATUS_fuse_burned && s.keysOpen keys then
    (s.each (List.range 32) fun s k => s.loadKey keys k).setB F.GRD_STATUS_keys_installed [] true
  else (s.setB F.GRD_STATUS_keys_installed [] false).leaf (loadLeaf 4)

/-- The bench firmware of an image goes into the memory of bench b's controller (R516). -/
def State.loadBenchFirmware (s : State) (img : List Byte) (b : Nat) : State :=
  s.setBench b { s.benchOf b with firmware := (sectionsOf img tagBenchFw).headD [] }

/-- The firmware images go into controller memory (R516). -/
def State.loadFirmware (s : State) (img : List Byte) : State :=
  let s : State := { s with chip := { s.chip with firmware := (sectionsOf img tagHubFw).headD [] } }
  s.each (List.range 16) fun s b => s.loadBenchFirmware img b

/-! One slot (R515, R516). -/

/-- The section of a failed rule: the one the rule is about, else the last register-write section with a pair for the
register (DESIGN CHOICE, log entry 39); 255 when there is none. -/
def ruleSection (img : List Byte) (f : RuleFault) : Nat :=
  if f.1 ≠ 255 then f.1 else (((imgPairs img).reverse.find? fun x => x.2.1 == f.2).map (·.1)).getD 255

/-- Everything R516 applies, up to the first fault, with the rules of the other chapters at the end. -/
def State.applyImage (s : State) (img : List Byte) : Applied :=
  let x := applyPairs (imgPairs img) { s := s }
  if x.fault.isSome then x
  else
    let s := x.s.applySchedule img
    let s := s.each (List.range 16) fun s b => s.applyTable img b
    let s := (s.loadKeys img).loadFirmware img
    let touched := 0x108000 :: (List.range 16).map (fun b => (16 + b) * 0x100000) ++ x.touched
    { fault := (s.imageRuleFault img).map fun f => { code := 8, part := ruleSection img f, addr := f.2 }, touched := touched, s := s }

/-- One slot: authenticated, then applied. -/
def State.trySlot (s : State) (slot : Nat) (failed : Bool) : Applied :=
  let s := s.set F.CFG_STATUS_slot [] slot
  if failed then { fault := some { code := 9 }, s := s }
  else match s.slotRefusal slot with
    | some (c, i) => { fault := some { code := c, part := i }, s := s }
    | none => s.applyImage (s.slotImage slot)

/-- The loader's own registers and the boot record in use survive the restart of the hopper island. -/
def State.hopperRestartInLoad (s : State) : State :=
  let (st, ad, bt, info) := (s.rd .CFG_STATUS, s.rd .CFG_REFUSE_ADDR, s.rd .CFG_BOOT, s.chip.boot)
  let s := s.hopperStarts true
  let s := ((s.wr .CFG_STATUS [] st).wr .CFG_REFUSE_ADDR [] ad).wr .CFG_BOOT [] bt
  { s with chip := { s.chip with boot := info } }

/-- Before the second slot is tried, the islands written are restarted as by a warm reset (R512). -/
def State.restartWritten (s : State) (touched : List Nat) : State :=
  let benches := (List.range 16).filter fun b => touched.any fun a => a / 0x100000 == 16 + b
  let s := (s.permitDrop [.crypto, .deltaApply, .scrub, .bist]).each benches fun s b => s.benchRestart b true
  let s := s.hopperRestartInLoad
  let s := s.each benches fun s b => s.benchRelease b
  let s := s.when (touched.any ethAddr) fun s => s.ethRestart
  s.when (touched.any canAddr) fun s => s.canRestart

/-- A slot has been accepted (R503, R516): the lock, what the image says of itself, the coefficients, and the ring ports
train again when a warm reset has changed RING_CTRL. -/
def State.acceptSlot (s : State) (slot : Nat) (ringCtrl : Nat) : State :=
  let img := s.slotImage slot
  let s := (s.setB F.CHIP_STATUS_cfg_locked [] true).set F.CFG_STATUS_state [] 4
  let s := s.wr .CFG_IMAGE_SEQ [] (imgSequence img)
  let s := (s.set F.CFG_IMAGE_INFO_fw_major [] (imgMajor img)).set F.CFG_IMAGE_INFO_fw_minor [] (imgMinor img)
  let s := (s.set F.CFG_IMAGE_INFO_sched_gen [] (imgSchedGen img)).set F.CFG_IMAGE_INFO_format [] 3
  let s := s.set F.UPD_STATUS_running_slot [] slot
  let s : State := { s with
    ring := { s.ring with fwVersion := imgMajor img * 256 + imgMinor img }
    upd := { s.upd with image := slot }
    chip := { s.chip with boot := { s.chip.boot with journal := imgJournal img } } }
  let s := s.each (List.range 16) fun s b => s.coefficientsApplyAll b
  s.when (s.get F.CHIP_RESET_CAUSE_last == 2 && s.rd .RING_CTRL != ringCtrl) fun s => (s.portFails .east).portFails .west

/-- The recovery state (R520): the bench, Ethernet, CAN and ring islands are held in reset. -/
def State.enterRecovery (s : State) : State :=
  let s := ({ s with permits := {} } : State).leaveRing
  let s := s.each (List.range 16) fun s b => s.benchRestart b true
  let s := s.hopperRestartInLoad
  let s : State := { (s.clearRegs fun a => ringAddr a || ethAddr a || canAddr a) with ring := {}, shot := {}, sw := {}, can := [] }
  let s : State := { s with ethTimeValid := false, canTimeValid := false, ringTimeValid := false }
  (s.set F.CFG_STATUS_state [] 6).pairLow

/-- CONFIG_LOAD (R499, R509 to R519): from the boot record, the preferred slot first. Bit k of `failed`: a flash read of
slot k fails its check or takes longer than 10 ms. CFG_STATUS.refuse_section shows 0xFF from here on unless a refusal names
a section (DEDUCED, log entry 39). -/
def execConfigLoad (failed : Nat) (s : State) : Host.Outcome State Fault Refusal :=
  let s := s.clearOut
  if s.down .hopper ∨ s.get F.CFG_STATUS_state ≠ 0 ∨ (s.is F.TST_MODE_tmode ∧ ¬ s.is F.TST_MODE_unlocked) then .next s
  else
    let (found, first, info) := s.findBoot
    let s : State := { s with chip := { s.chip with boot := info, unlockWindow := false } }
    let s := (s.setB F.CFG_BOOT_bootrec_valid [] found).set F.CFG_BOOT_preferred [] first
    let s := s.set F.CFG_STATUS_refuse_section [] 255
    let ringCtrl := s.rd .RING_CTRL
    let x := s.trySlot first (natBit failed first)
    match x.fault with
    | none => .next (x.s.acceptSlot first ringCtrl)
    | some e =>
      let s := ((x.s.recordSlotFault e).setB F.CFG_STATUS_fallback [] true).restartWritten x.touched
      let y := s.trySlot (1 - first) (natBit failed (1 - first))
      match y.fault with
      | none => .next ((y.s.acceptSlot (1 - first) ringCtrl).leaf (loadLeaf 3))
      | some e => .next (y.s.recordSlotFault e).enterRecovery

/-! Reload of a bench (R505). -/

/-- The image a bench runs (R533, R539): the target's once it has been handed over, until the update ends. -/
def State.benchImage (s : State) (b : Nat) : List Byte :=
  let handed := 4 ≤ s.updState && s.updState ≤ 6 && s.bitOf F.UPD_PROGRESS_benches [] b
  s.slotImage (if handed then s.inactiveSlot else s.runningSlot)

/-- Step 3: the firmware, the pairs of the image in the bench's window, the port descriptor table, and the active coefficients. -/
def State.benchApply (s : State) (img : List Byte) (b : Nat) : State :=
  let s := (s.loadBenchFirmware img b).each ((imgPairs img).filter fun x => x.2.1 / 0x100000 == 16 + b) fun s x => (s.write32 .loader x.2.1 x.2.2).2
  (s.applyTable img b).coefficientsApplyAll b

/-- Step 4: the instances start, the firmware runs and the freeze is lifted. -/
def State.benchRuns (s : State) (b : Nat) : State :=
  ((s.startInstances b).setB F.BNCH_STATUS_fw_running [b] true).setB F.BNCH_STATUS_queues_frozen [b] false

/-- The bench is back in service (R572). -/
def State.benchBack (s : State) (b : Nat) : State :=
  let s := (s.setB F.BNCH_STATUS_out_of_service [b] false).setB F.BNCH_CTRL_out_of_service [b] false
  (s.recovered (benchLeaf b 8)).leaf (benchLeaf b 8) b

/-- BENCH_RELOAD_COMPLETE (R505, R572): the bench has been reloaded under its permit, which is returned. A bench out of
service that does not return to service stays there, its queues frozen and its firmware halted. -/
def execBenchReloadComplete (b : Nat) (s : State) : Host.Outcome State Fault Refusal :=
  if s.down .bench then .next s.clearOut else
  let s := s.clearOut
  let x := s.benchOf b
  if b < 16 ∧ (x.reloading ∨ x.returning) ∧ s.permitHeld .settReload b then
    let s := s.when x.reloading fun s => s.benchRelease b
    let s := s.benchApply (s.benchImage b) b
    let s := s.setBench b { s.benchOf b with reloading := false, returning := false }
    let s := if x.returning then (s.benchBack b).benchRuns b
      else if s.is F.BNCH_STATUS_out_of_service [b] then s else s.benchRuns b
    .next (s.permitGive .settReload b)
  else .next s

/-! Bench service (R458, R571, R572). -/

/-- A bench-service record of an operation. -/
def serviceRecord (op : Nat) (r : List Byte) : Bool := recType r == 7 && byteAt r 17 == op

/-- BENCH_OUT_OF_SERVICE (R571, R572). -/
def execBenchOutOfService (s : State) : Host.Outcome State Fault Refusal :=
  if s.down .hopper then .next s.clearOut else
  .next (s.clearOut.guardRun (serviceRecord 1) fun r s => (.executed, s.benchOut (byteAt r 16)))

/-- BENCH_RETURN_TO_SERVICE (R572). -/
def execBenchReturnToService (s : State) : Host.Outcome State Fault Refusal :=
  if s.down .hopper then .next s.clearOut else
  .next (s.clearOut.guardRun (serviceRecord 2) fun r s =>
    let b := byteAt r 16
    let bist := s.get F.TST_BIST_STATUS_bench == b && (s.get F.TST_BIST_STATUS_state == 1 || s.get F.TST_BIST_STATUS_state == 2)
    if s.is F.BNCH_STATUS_out_of_service [b] && !bist then
      (.executed, (s.setBench b { s.benchOf b with returning := true }).permitAsk .settReload b)
    else (.refused 4, s))

/-- A handover is taking bench b now: a reset of it waits for the end of that (R536). -/
def State.benchTaken (s : State) (b : Nat) : Bool := s.handingOver && s.upd.step == b

/-- BENCH_RESET (R505, R536). -/
def execBenchReset (s : State) : Host.Outcome State Fault Refusal :=
  if s.down .hopper then .next s.clearOut else
  .next (s.clearOut.guardRun (serviceRecord 3) fun r s =>
    let b := byteAt r 16
    if s.benchTaken b then (.executed, { s with upd := { s.upd with benchResets := s.upd.benchResets ++ [b] } })
    else (.executed, s.benchResetBegin b))

end Sys2Proof.Machine
end

