-- ==== Sys2Proof/Machine/RingRound.lean ====
section
/-! DEFINITION. The round boundary: everything that takes effect when a round begins (R60, R72, R105, R108, R113, R126,
R132, R133, R136, R146, R328, R356, R366, R367, R446). What the spec leaves to a reading or a choice stands in log
entries 13 and 15. -/

namespace Sys2Proof.Machine

/-- The round that begins by domain A: a boundary up to one slot time late is taken for the one it is (R60, R122; DESIGN
CHOICE, log entry 13). -/
def State.roundByTime (s : State) : Nat := (s.now16 .a + s.round16 - 125 * 2 ^ 16) / s.round16

/-- The candidate that has won starts line mode as head of both directions (R122), with the round of its time core and the
highest minor version it speaks (R113). -/
def State.startMaster (s : State) : State :=
  let s := ((s.setMode 2).setHead .east true).setHead .west true
  let s : State := { s with ring := { s.ring with starting := false, roundsIntegrated := 0, silentLeft := 0, bitmap := 2 ^ s.hub,
                                                  versionWord := 3 * 2 ^ 60 },
                            twin := { s.twin with heartbeatSent := false } }
  let s := (s.set F.RING_START_STATUS_ring_minor [] 3).setRound (s.roundByTime - 1)
  s.seenRound.showRing

/-- The wait after a withdrawal (R132). -/
def State.withdrawnRound (s : State) : State :=
  match s.ring.withdrawnLeft with
  | 0 => s
  | n + 1 =>
    let s : State := { s with ring := { s.ring with withdrawnLeft := n } }
    s.when (n == 0) fun s => s.setPhase 4

/-- The reference slots of the round that ended, for a hub that follows them (R133, R138, R366, R371): three whole rounds
without any lose the reference, and three without a measured one the source of domain A. -/
def State.refRound (s : State) : State :=
  if s.followsRing then
    let s := s.refRoundEnd
    let missing := if s.ring.refSeen then 0 else satInc s.ring.refMissing 64
    let unmeasured := if s.time.refUsed then 0 else satInc s.time.unmeasured 64
    let s : State := { s with ring := { s.ring with refSeen := false, refMissing := missing, masterSeen := false,
                                                    masterMissing := if s.ring.masterSeen then 0 else satInc s.ring.masterMissing 64,
                                                    lossRounds := s.ring.lossRounds.map (· + 1) },
                              time := { s.time with refUsed := false, unmeasured := unmeasured } }
    let s := s.when (unmeasured == 3) fun s => s.enterHoldover .a
    s.when (missing == 3) fun s => s.referenceLost
  else s

/-- The command slots of the round before the one that ended have ended too, whether or not the hub saw them pass (R128). -/
def State.commandSlotsPassed (s : State) (r : Nat) : State :=
  [1, 2].foldl (fun s n =>
    if (s.cmdPass n).round = r % 128 ∨ (s.cmdPass n).round = (r + 1) % 128 then s
    else
      let s := if (s.cmdPass n).round = (r + 127) % 128 then s
        else (s.judgePass n).setCmdPass n { round := (r + 127) % 128, judged := false }
      s.judgePass n) s

/-- The counts of rounds, and mirrored slots too old to matter (R77, R126, R127, R148). -/
def State.countRound (s : State) : State :=
  { s with ring := { s.ring with
      silentLeft := s.ring.silentLeft - 1
      roundsIntegrated := s.ring.roundsIntegrated + 1
      spareRounds := s.ring.spareRounds.map (· + 1)
      delivered := s.ring.delivered.filter fun x => s.round ≤ x.round + 8 } }

/-- What the master does for the round: a yielding one gives way (R138), any other brings its facts up to date and may
announce a closure. -/
def State.masterRound (s : State) : State :=
  if !s.isMaster then s
  else if s.ring.yielding then s.yieldMastership
  else s.refreshMaster.checkPads.checkClosure.attemptClosure

/-- The round of an integrated hub begins. -/
def State.roundBegins (s : State) : State :=
  let ended := s.round
  let s := (s.refRound.commandSlotsPassed ended).setRound (ended + 1)
  let s := (s.ringStepN.ringStepRound).countRound
  let s := ((s.grantRound.checkGrant).versionRound).handoffRound
  let s := (s.closureRound.masterRound).showBackup.showComplete
  (s.twinRound.checkHeldAll).pollRound

/-- ROUND_BOUNDARY (R60): a round begins. A hub that is not integrated has no round number of its own to count. -/
def execRoundBoundary (s : State) : Host.Outcome State Fault Refusal :=
  if s.down .ring then .next s.clearOut else
  let s := s.clearOut.transitRound.withdrawnRound
  let s := s.when s.ring.starting fun s => s.startMaster
  let s := (s.when s.integrated fun s => s.roundBegins).seenRound.handoverBegins
  .next (if s.integrated && s.ownsScheduled then s else s.applyFreeze)

end Sys2Proof.Machine
end

