-- ==== Sys2Proof/Machine/Tap.lean ====
section
/-! DEFINITION. The JTAG port: the TAP controller of IEEE 1149.1 and the three instructions it offers (R586, R589, R591). What the
spec leaves to a reading or a choice stands in log entry 47. -/

namespace Sys2Proof.Machine

/-- The next state of the controller, by TMS at a rising edge of TCK. -/
def TapState.next (t : TapState) (tms : Bool) : TapState :=
  match t, tms with
  | .testLogicReset, true => .testLogicReset
  | .testLogicReset, false => .runTestIdle
  | .runTestIdle, true => .selectDr
  | .runTestIdle, false => .runTestIdle
  | .selectDr, true => .selectIr
  | .selectDr, false => .captureDr
  | .captureDr, true => .exit1Dr
  | .captureDr, false => .shiftDr
  | .shiftDr, true => .exit1Dr
  | .shiftDr, false => .shiftDr
  | .exit1Dr, true => .updateDr
  | .exit1Dr, false => .pauseDr
  | .pauseDr, true => .exit2Dr
  | .pauseDr, false => .pauseDr
  | .exit2Dr, true => .updateDr
  | .exit2Dr, false => .shiftDr
  | .updateDr, true => .selectDr
  | .updateDr, false => .runTestIdle
  | .selectIr, true => .testLogicReset
  | .selectIr, false => .captureIr
  | .captureIr, true => .exit1Ir
  | .captureIr, false => .shiftIr
  | .shiftIr, true => .exit1Ir
  | .shiftIr, false => .shiftIr
  | .exit1Ir, true => .updateIr
  | .exit1Ir, false => .pauseIr
  | .pauseIr, true => .exit2Ir
  | .pauseIr, false => .pauseIr
  | .exit2Ir, true => .updateIr
  | .exit2Ir, false => .shiftIr
  | .updateIr, true => .selectDr
  | .updateIr, false => .runTestIdle

/-- The identification the TAP shifts out (R589): version, part, vendor and a 1. -/
def idcodeWord : Nat := 0x1 * 2 ^ 28 + 0x1024 * 2 ^ 12 + 0x4A3 * 2 ^ 1 + 1

/-- Length of the register a scan goes through. -/
def tapLength (t : TapPort) : Nat :=
  if t.state = .shiftIr then Config.tapIrLength
  else match t.ins with
    | .bypass => 1
    | .idcode => 32
    | .samplePreload => Config.boundaryLength

/-- Bit i captured at the start of the scan: of the instruction register the two last are 01, BYPASS captures 0, and IDCODE its
word; any other bit, and the levels SAMPLE takes, are open. -/
def tapCaptured (t : TapPort) (i : Nat) : Option Bool :=
  if t.state = .shiftIr then (if i < 2 then some (i == 0) else none)
  else match t.ins with
    | .bypass => some false
    | .idcode => some (natBit idcodeWord i)
    | .samplePreload => none

/-- The instruction that a scan of the instruction register loads: all ones is BYPASS, every other code is open. -/
def tapLoaded (bits : List Bool) : TapIns :=
  let n := Config.tapIrLength
  if n ≤ bits.length ∧ (bits.drop (bits.length - n)).all id then .bypass
  else match Config.tapCode bits % 3 with
    | 0 => .bypass
    | 1 => .idcode
    | _ => .samplePreload

/-- The TAP replaced. -/
def State.setTap (s : State) (t : TapPort) : State := { s with chip := { s.chip with tap := t } }

/-- One bit leaves at TDO and one enters at TDI, in the two shift states. -/
def State.tapShift (s : State) (tdi : Bool) : State :=
  let t := s.chip.tap
  if t.state = .shiftDr ∨ t.state = .shiftIr then
    let i := t.shifted.length
    let n := tapLength t
    let (v, s) : Bool × State :=
      if n ≤ i then (t.shifted.getD (i - n) false, s)
      else match tapCaptured t i with
        | some v => (v, s)
        | none => s.drawLevel
    (s.setTap { t with shifted := t.shifted ++ [tdi] }).emit (.tap 1 (b2n v))
  else s

/-- One cycle of TCK: a shift in the two shift states, the next state, and what is done in it: the reset state selects IDCODE, a capture begins
a scan, and an update of the instruction register loads its instruction. -/
def State.tapClock (s : State) (tms tdi : Bool) : State :=
  let s := s.tapShift tdi
  let t := { s.chip.tap with state := s.chip.tap.state.next tms }
  match t.state with
  | .testLogicReset => s.setTap { t with ins := .idcode, shifted := [] }
  | .captureDr => s.setTap { t with shifted := [] }
  | .captureIr => s.setTap { t with shifted := [] }
  | .updateIr => s.setTap { t with ins := tapLoaded t.shifted }
  | _ => s.setTap t

/-- A whole scan through an instruction loaded before it, from and to the idle state. -/
def State.tapScan (s : State) (ins : TapIns) (n v : Nat) : State :=
  (s.setTap { s.chip.tap with state := .runTestIdle, ins := ins, shifted := [] }).emit (.tap n v)

/-- JTAG_TAP_OPERATION (R586, R589, R591): TRST_N low holds the TAP in its reset state; with it high, one cycle of TCK, or a whole
scan of one of the three instructions, SAMPLE/PRELOAD over the number of bits given, which are free levels. No operation drives
a pin, and TDO is at high impedance until power-on reset is released. -/
def execJtagTapOperation (op : TapOp) (s : State) : Host.Outcome State Fault Refusal :=
  let s := s.clearOut
  let still := s.edge.held || s.chip.tap.low
  match op with
  | .trstLow => .next (s.setTap { low := true })
  | .trstHigh => .next (s.setTap { s.chip.tap with low := false })
  | .clock tms tdi => .next (if still then s else s.tapClock tms tdi)
  | .bypass => .next (if still then s else s.tapScan .bypass 1 0)
  | .idcode => .next (if still then s else s.tapScan .idcode 32 idcodeWord)
  | .samplePreload n =>
    if still then .next s
    else
      let (v, s) := s.drawWord n
      .next (s.tapScan .samplePreload n v)

end Sys2Proof.Machine
end

