-- ==== Sys2Proof/Machine/Trigger.lean ====
section
/-! DEFINITION. The link-delay exchange and the trigger units of the time core (R372, R373, R387, R388). What the spec
leaves to a reading or a choice stands in log entry 27. -/

namespace Sys2Proof.Machine

/-- The stamps of a port's exchange. -/
def State.delayOf (s : State) (p : Side) : DelayStamps := match p with | .east => s.time.delayEast | .west => s.time.delayWest
def State.setDelay (s : State) (p : Side) (x : DelayStamps) : State :=
  match p with
  | .east => { s with time := { s.time with delayEast := x } }
  | .west => { s with time := { s.time with delayWest := x } }

/-- The two parts of a delay stamp in a delay cell: ns and fraction (R373). -/
def delayField (t : Nat) : List Byte := beBytes 4 (t / 65536) ++ beBytes 2 (t % 65536)

/-- A delay cell (R373). -/
def delayCell (p : Side) (x : DelayStamps) : List Byte :=
  [0x7D, byte (sideIx p)] ++ zeros 6 ++ beBytes 6 x.second ++ zeros 2 ++ delayField x.rx ++ zeros 2 ++ delayField x.tx ++ zeros 98

/-- The queue of the delay cells toward a hub. -/
def State.delayQueue (s : State) (h : Nat) : Nat := queueNo (s.get F.TIME_RING_CFG_endpoint) (s.get F.TIME_RING_CFG_class) h

/-- LINK_DELAY_EXCHANGE (R372): at a whole second of domain A, block 0 of slot 0 left toward the neighbour of port p
`txAgo` units of hub time ago, and arrived from it `rxAgo` units ago; the stamps leave in a delay cell. -/
def execLinkDelayExchange (p : Side) (txAgo rxAgo : Nat) (s : State) : Host.Outcome State Fault Refusal :=
  if s.down .timeCore then .next s.clearOut else
  let s := s.clearOut
  if s.portUp p ∧ s.is F.TIME_RING_CFG_refresh ∧ s.is F.RING_PORT_STATUS_peer_valid [sideIx p] then
    let now := s.now .a
    let x : DelayStamps := {
      second := secOf now, tx := (now - txAgo) % unitsPerSec / 2 ^ 23, rx := (now - rxAgo) % unitsPerSec / 2 ^ 23
      valid := s.ringTimeValid, waiting := true }
    let s := s.setDelay p x
    .next (s.enqueue .delayExchange (s.delayQueue (s.get F.RING_PORT_STATUS_peer_hub [sideIx p])) (delayCell p x)).2
  else .next s

/-- A delay cell from the neighbour of port p (R372): RING_LINK_DELAY moves by 1/16 of the difference. -/
def State.delayArrives (s : State) (p : Side) (cell : List Byte) : State :=
  let x := s.delayOf p
  if x.waiting ∧ beAt cell 8 6 = x.second ∧ s.portUp p then
    let rx := beAt cell 16 4 * 65536 + beAt cell 20 2
    let tx := beAt cell 24 4 * 65536 + beAt cell 28 2
    let twice : Int := ((x.rx : Int) - x.tx) - ((tx : Int) - rx)
    let was : Int := s.linkDelay16 p
    let v := roundDiv (32 * was + (twice - 2 * was)) (32 * 256)
    (s.setDelay p { x with waiting := false }).set F.RING_LINK_DELAY_link_delay [sideIx p] v.toNat
  else s

/-- The class the time core dequeues of its endpoint: the highest with a cell; any when the guarded buffer, which goes first, has
one (R466). -/
def State.delayClass (s : State) (e : Nat) : Option Nat :=
  match (List.range 16).reverse.find? fun c => (s.peekIntake e c).isSome with
  | some c => some c
  | none => if s.guardedWaits e then some 0 else none

/-- DELAY_CELL_RECEIVED (R372, R373): the time core takes a cell of its endpoint, the highest class first. -/
def execDelayCellReceived (s : State) : Host.Outcome State Fault Refusal :=
  if s.down .timeCore then .next s.clearOut else
  let s := s.clearOut
  let e := s.get F.TIME_RING_CFG_endpoint
  match s.delayClass e with
  | some c =>
    match s.dequeue .delayExchange e c with
    | (some x, s) =>
      let p := if byteAt x.bytes 1 = 0 then Side.west else Side.east
      if byteAt x.bytes 0 = 0x7D ∧ byteAt x.bytes 1 < 2 ∧ x.srcHub = s.get F.RING_PORT_STATUS_peer_hub [sideIx p] then
        .next (s.delayArrives p x.bytes)
      else .next s
    | (none, s) => .next s
  | none => .next s

/-- A pulse of a bench event line for one sett cycle (R239, R387, R388): a level a sett has set stays. -/
def State.pulseEvent (s : State) (b e : Nat) : State :=
  let was := (s.benchOf b).events
  (s.setEvents b (natSetBit was e true)).setEvents b was

/-- The timing of a trigger unit is one R387 gives ticks for: the period in its range and a divisor of a second, the phase below
it. -/
def State.triggerTimed (s : State) (k : Nat) : Bool :=
  let period := s.get F.TIME_TRIG_PERIOD_ns [k]
  1000 ≤ period && period ≤ 1000000000 && 1000000000 % period == 0 && s.get F.TIME_TRIG_PHASE_ns [k] < period

/-- TRIGGER_TICK (R387): an instant of trigger unit k has come. -/
def execTriggerTick (k : Nat) (s : State) : Host.Outcome State Fault Refusal :=
  if s.down .timeCore then .next s.clearOut else
  let s := s.clearOut
  if k < 8 ∧ s.is F.TIME_TRIG_CFG_enable [k] ∧ s.triggerTimed k then
    let s := s.each ((List.range 16).filter fun b => natBit (s.get F.TIME_TRIG_CFG_bench_mask [k]) b) fun s b =>
      s.pulseEvent b (s.get F.TIME_TRIG_CFG_line [k])
    .next (s.when (s.is F.TIME_TRIG_CFG_irq [k]) fun s => s.leaf (timeLeaf (8 + k)) k)
  else .next s

end Sys2Proof.Machine
end

