-- ==== Sys2Proof/Machine/Update.lean ====
section
/-! DEFINITION. Firmware update: verification, control, handover, trial, rollback, commit and revert (R522 to R541), and
the firmware faults that meet them (R202, R538). What the spec leaves to a reading or a choice stands in log entries 41
and 42. -/

namespace Sys2Proof.Machine

/-! Images (R528, R532, R535). -/

/-- The image the hub runs, and the target in the inactive slot. -/
def State.runningImage (s : State) : List Byte := s.slotImage s.runningSlot
def State.targetImage (s : State) : List Byte := s.slotImage s.inactiveSlot

/-- A pair writes program memory of a sett. -/
def progPair (addr : Nat) : Bool := (Reg.SETT_PROG.indexAt addr).isSome

/-- The register-write pairs in the window of bench b. -/
def benchPairs (img : List Byte) (b : Nat) : List (Nat × Nat × Nat) := (imgPairs img).filter fun x => x.2.1 / 0x100000 == 16 + b

/-- The 64 program words an image gives a sett. -/
def imgProgram (img : List Byte) (b k : Nat) : List Nat :=
  let ps := (benchPairs img b).reverse
  (List.range 64).map fun i =>
    match ps.find? fun x => x.2.1 == Reg.SETT_PROG.addr [b, k, i] with | some x => x.2.2 | none => 0

/-- The setts of a bench whose program differs between two images, in ascending order. -/
def changedSetts (old new : List Byte) (b : Nat) : List Nat :=
  (List.range 64).filter fun k => imgProgram old b k != imgProgram new b k

/-- Register-write pairs outside the bench windows. -/
def hubPairs (img : List Byte) : List (Nat × Nat) := ((imgPairs img).filter fun x => !benchAddr x.2.1).map (·.2)

/-- Where the sett map of a delta begins. -/
def mapStart (base d : List Byte) : Nat := (deltaRun base d).ended.getD 0

/-- A target may be handed over live (R528). -/
def liveUpdate (base target d : List Byte) : Bool :=
  imgMajor base == imgMajor target && imgSchedGen base == imgSchedGen target
    && sectionsOf base tagSched == sectionsOf target tagSched && hubPairs base == hubPairs target
    && (List.range 16).all fun b => (changedSetts base target b).all fun k => (mapEntry d (mapStart base d) b k).isSome

/-! Verification (R528). -/

/-- The reason the file or the slot is refused for, none when both stand: the signature first, then the form of the file it covers,
then the target. -/
def State.verifyReason (s : State) : Option Nat :=
  let d := s.upd.delta
  let r := deltaRun s.runningImage d
  if !digestOk d || (s.keyRefusal d).isSome || !signatureOk d then some 0x05
  else match r.ended with
  | none => some 0x01
  | some off =>
    if 1024 < mapCount d off ∨ d.length ≠ mapEnd d off + 256 then some 0x01
    else if r.target.length ≠ deltaTargetLen d ∨ (s.slotRefusal s.inactiveSlot).isSome
      ∨ imgSequence s.targetImage ≠ deltaTargetSeq d then some 0x06
    else none

/-- DELTA_VERIFY (R527, R528): verified with its mode, or refused; the permit is returned. -/
def execDeltaVerify (s : State) : Host.Outcome State Fault Refusal :=
  if s.down .hopper then .next s.clearOut else
  let s := s.clearOut
  if s.updState = 2 ∧ s.upd.verifying then
    match s.verifyReason with
    | some reason => .next (s.updRefuse reason).permitExamine
    | none =>
      let s : State := { (s.toUpd 3) with upd := { s.upd with verifying := false } }
      let s := s.setB F.UPD_STATUS_mode [] (liveUpdate s.runningImage s.targetImage s.upd.delta)
      .next ((s.leaf (loadLeaf 5)).permitGive .deltaApply 0)
  else .next s

/-! Ops (R529). -/

/-- A record that writes an op to UPD_CTRL. -/
def opRecord (op : Nat) (r : List Byte) : Bool := recType r == 4 && bodyAddress r == Reg.UPD_CTRL.addr [] && beAt r 20 4 % 16 == op

/-- A type 0x04 record that writes no op at all; any update command takes it, and it is refused. -/
def strayOp (r : List Byte) : Bool := recType r == 4 && !(List.range 7).any fun i => i != 0 && opRecord i r

/-- An op refused (R465, R529). -/
def State.opRefused (s : State) : GuardEnd × State := (.refused 4, s.setB F.UPD_STATUS_op_refused [] true)

/-- A handover or commit the version rule refuses (R530). -/
def State.versionRefused (s : State) : GuardEnd × State :=
  ((s.set F.UPD_STATUS_reason [] 0x07).leaf (loadLeaf 7)).opRefused

/-- An update command: one op, in the states that `run` has an answer for. -/
def State.updateOp (s : State) (op : Nat) (run : State → Option (GuardEnd × State)) : State :=
  s.guardRun (fun r => opRecord op r || strayOp r) fun r s =>
    if opRecord op r then (match run s with | some x => x | none => s.opRefused) else s.opRefused

/-- The engine is idle, with any target discarded. -/
def State.updIdle (s : State) : State :=
  { (s.toUpd 0) with upd := { image := s.upd.image, benchResets := s.upd.benchResets } }

/-- The reload permit that a bench's swap asked for goes back, unless a reload of the bench uses it. -/
def State.reloadGive (s : State) (b : Nat) : State :=
  s.when (b < 16 && !(s.benchOf b).reloading && !(s.benchOf b).returning) fun s => s.permitGive .settReload b

/-- A handover that has not begun is given up. -/
def State.notBegun (s : State) : State := s.when s.upd.begun fun s => s.reloadGive 0

/-- UPDATE_BEGIN (R529, R540). -/
def execUpdateBegin (s : State) : Host.Outcome State Fault Refusal :=
  if s.down .hopper then .next s.clearOut else
  .next (s.clearOut.updateOp 1 fun s =>
    if s.updState = 0 ∨ s.updState = 3 ∨ s.updState = 7 then
      some (.executed, ((s.notBegun.updIdle.toUpd 1).setB F.UPD_STATUS_revert_ok [] false).wr .UPD_PROGRESS [] 0)
    else none)

/-- UPDATE_ABORT (R529). -/
def execUpdateAbort (s : State) : Host.Outcome State Fault Refusal :=
  if s.down .hopper then .next s.clearOut else
  .next (s.clearOut.updateOp 5 fun s =>
    if s.updState = 1 ∨ s.updState = 2 then
      some (.executed, (s.updIdle.setB F.UPD_CHUNK_CTRL_busy [] false).permitGive .deltaApply 0)
    else none)

/-! Versions (R530). -/

/-- Another hub's firmware stands too far from the target's. -/
def State.versionRule (s : State) (target : List Byte) : Bool :=
  (List.range 64).any fun h => h != s.hub && s.is F.RING_HUBMAP_INFO_present [h]
    && (s.get F.RING_HUBMAP_INFO_fw_major [h] != imgMajor target
      || 1 < ((s.get F.RING_HUBMAP_INFO_fw_minor [h] : Int) - (imgMinor target : Int)).natAbs)

/-- The schedule generation of the ring: this hub's own while it is integrated or has heard no other (R124, R125). -/
def State.ringGen (s : State) : Nat := if s.integrated || s.ring.heardGen == 0 then s.ring.schedGen else s.ring.heardGen

/-- A reload commit would change the schedule generation of the ring. -/
def State.genRule (s : State) (target : List Byte) : Bool := imgSchedGen target != s.ringGen && !s.is F.UPD_CFG_allow_gen

/-! Commit and revert (R540). -/

/-- The target is committed; a live one is the running image from now on. -/
def State.commit (s : State) (live : Bool) : State :=
  let slot := s.inactiveSlot
  let s := ((s.bootWrite slot).set F.UPD_STATUS_running_slot [] slot).setB F.UPD_STATUS_revert_ok [] true
  let s := s.updIdle
  if live then { s with upd := { s.upd with image := slot } } else s

/-- UPDATE_COMMIT (R529, R530, R540). -/
def execUpdateCommit (s : State) : Host.Outcome State Fault Refusal :=
  if s.down .hopper then .next s.clearOut else
  .next (s.clearOut.updateOp 3 fun s =>
    if s.updState = 5 then some (.executed, s.commit true)
    else if s.updState = 3 ∧ ¬ s.is F.UPD_STATUS_mode then
      some (if s.versionRule s.targetImage || s.genRule s.targetImage then s.versionRefused else (.executed, s.commit false))
    else none)

/-- UPDATE_REVERT (R529, R540). -/
def execUpdateRevert (s : State) : Host.Outcome State Fault Refusal :=
  if s.down .hopper then .next s.clearOut else
  .next (s.clearOut.updateOp 6 fun s =>
    if s.updState = 0 ∧ s.is F.UPD_STATUS_revert_ok then
      some (.executed, (s.bootWrite (1 - s.get F.UPD_STATUS_running_slot)).setB F.UPD_STATUS_revert_ok [] false)
    else none)

/-! The switch of one bench (R533 to R536). -/

/-- Where a sett with a changed program goes on. -/
inductive SwapPc where
  | to (pc : Nat)
  /-- Reset and started at its start_pc. -/
  | restart
  /-- The spec gives no program counter. -/
  | unstated
  deriving DecidableEq, Repr

/-- What a pc map gives for an old program counter. -/
def mapForward (m : Option (List Byte)) (pc : Nat) : SwapPc :=
  match m with
  | some m => if byteAt m pc = 0xFF then .restart else .to (byteAt m pc % 64)
  | none => .restart

/-- What the inverted pc map gives for a program counter of the target's program (R539). -/
def mapBack (m : Option (List Byte)) (pc : Nat) : SwapPc :=
  match m with
  | some m => match (List.range 64).find? fun p => byteAt m p == pc with
    | some p => .to p
    | none => .unstated
  | none => .restart

/-- The 64 words of a sett replaced. -/
def State.setProgram (s : State) (b k : Nat) (words : List Nat) : State :=
  s.each (List.range 64) fun s i => s.wr .SETT_PROG [b, k, i] (words.getD i 0)

/-- The state a sett goes on in after its swap: a wait is abandoned, and an instruction injected into a stopped or halted
sett ends with it. -/
def swapBack (t : Sett) : SettPhase :=
  match t.wait with | some x => x.back | none => if t.phase = .waiting then t.abandoned else t.phase

/-- A sett is swapped (R535): stopped with stop_cause 7, its words replaced, and running again. A sett that does not run
keeps its state, but for a halted one that its map starts anew. -/
def State.swapSett (s : State) (b k : Nat) (words : List Nat) (go : Nat → SwapPc) : State :=
  let t := s.sett b k
  let s := s.setProgram b k words
  let back := swapBack t
  if t.phase = .running ∨ t.phase = .waiting ∨ t.phase = .halted then
    match go t.pc with
    | .to p => s.setSett b k { t with phase := back, wait := none, cause := if t.phase = .halted then t.cause else 7, pc := p }
    | .unstated =>
      let (p, s) := s.drawWord 6
      s.setSett b k { t with phase := back, wait := none, cause := if t.phase = .halted then t.cause else 7, pc := p }
    | .restart =>
      if back = .running ∨ back = .halted then
        let s := s.setSett b k { t with cause := 7 }
        ((s.resetSett b k).startSett b k)
      else s.setSett b k { t with phase := back, wait := none }
  else s

/-- A frame in progress is closed, truncated (R279, R534). -/
def State.closeInstance (s : State) (b k : Nat) : State :=
  let s :=
    if (s.port b k).inFrame then
      match s.descCode b k with
      | 0x03 => (s.spiSent b k).truncateFrame b k
      | 0x04 => (s.onPort b k fun p => { p with due := p.due.take 1 }).i2cGiveUp b k
      | 0x06 => s.irigTruncate b k
      | _ => s.truncateFrame b k
    else s
  (s.setPort b k {}).portShow b k 6

/-- An instance of a new descriptor starts afresh, its record sequence at 0. -/
def State.freshInstance (s : State) (b k : Nat) : State :=
  let s := s.set F.BNCH_PORT_CNT_records [b, k] 0
  if s.descInUse b k then s.startInstance b k else s.wr .BNCH_PORT_STAT [b, k] 0

/-- The register pairs of the bench, without program memory. -/
def State.applyBenchPairs (s : State) (img : List Byte) (b : Nat) : State :=
  s.each ((benchPairs img b).filter fun x => !progPair x.2.1) fun s x => (s.write32 .loader x.2.1 x.2.2).2

/-- New firmware accepts the state records of old firmware: always within one minor version, else a free level (R534). -/
def State.acceptsRecords (s : State) (old new : List Byte) : Bool × State :=
  if imgMajor old = imgMajor new ∧ ((imgMinor old : Int) - (imgMinor new : Int)).natAbs ≤ 1 then (true, s) else s.drawLevel

/-- A bench goes from one image to another (R533 to R536): instances with the same descriptor continue, the others are
stopped and started afresh, and changed programs are swapped; out of service, all is switched and nothing runs. -/
def State.benchSwitch (s : State) (b : Nat) (old new : List Byte) (go : Nat → Nat → SwapPc) : State :=
  let out := s.is F.BNCH_STATUS_out_of_service [b]
  let changed := changedSetts old new b
  let was := s.tableIn b
  let table := imgTable new b
  let s := s.loadBenchFirmware new b
  let (ok, s) := s.acceptsRecords old new
  let fresh := (List.range 64).filter fun k => !(ok && descOf was k == descOf table k)
  let s := s.when (!out) fun s => s.each (fresh.filter (s.portRuns b)) fun s k => s.closeInstance b k
  let s := ((s.applyTable new b).applyBenchPairs new b).coefficientsApplyAll b
  if out then s.each changed fun s k => s.setProgram b k (imgProgram new b k)
  else
    let s := s.wr .BNCH_PDT_STATUS [b] (2 * 2 ^ 8 + 2 ^ 7 + ((List.range 64).filter (s.descInUse b)).length)
    let s := (s.each fresh fun s k => s.freshInstance b k).burstAsk b
    s.each changed fun s k => s.swapSett b k (imgProgram new b k) (go k)

/-- The checks before a bench's boundary (R528, R532): its table, its pairs, and the rules about its registers. -/
def State.benchRulesHold (s : State) (b : Nat) (new : List Byte) : Bool :=
  let ps := (benchPairs new b).filter fun x => !progPair x.2.1
  let x := applyPairs ps { s := s }
  x.fault.isNone
    && x.s.tableOk b (imgTable new b) (tableEndpoints ((List.range b).map (imgTable new)))
    && (List.range 32).all (fun c => !x.s.channelRule [b, c]) && (List.range 4).all (fun g => !x.s.groupRule [b, g])
    && !x.s.bankRule [b]

/-! Rollback (R539). -/

/-- Rounds between handovers. -/
def State.spacing (s : State) : Nat := s.get F.UPD_CFG_spacing

/-- The boundary an engine step waits for has come; a hub that is not integrated counts no rounds. -/
def State.stepDue (s : State) : Bool := !s.integrated || s.upd.atRound ≤ s.round

/-- What a rollback hands back next: the highest bench taken, then the hub controller, as 16. -/
def State.rollbackNext (s : State) : Option Nat :=
  match ((List.range 16).reverse.find? fun b => s.bitOf F.UPD_PROGRESS_benches [] b) with
  | some b => some b
  | none => if s.is F.UPD_PROGRESS_controller then some 16 else none

/-- A mass sett reload permit is asked for when 16 or more setts change program (R179). -/
def State.askReload (s : State) (b : Nat) : State :=
  s.when (16 ≤ (changedSetts s.runningImage s.targetImage b).length) fun s => s.permitAsk .settReload b

/-- The permit a bench's swap needs is held. -/
def State.reloadReady (s : State) (b : Nat) : Bool :=
  (changedSetts s.runningImage s.targetImage b).length < 16 || s.permitHeld .settReload b

/-- The rollback goes on to what it hands back next, or ends: target discarded, idle, leaf 7 and the reason. -/
def State.rollbackOn (s : State) : State :=
  match s.rollbackNext with
  | some n =>
    let s : State := { s with upd := { s.upd with step := n } }
    s.when (n < 16) fun s => s.askReload n
  | none => ((s.set F.UPD_STATUS_reason [] s.upd.rollback).updIdle).leaf (loadLeaf 7)

/-- What waited for the end of a bench's handover: a reset of the bench, and a warm reset (R507, R536). -/
def State.afterHandover (s : State) (b : Nat) : State :=
  let s := if s.upd.benchResets.contains b then
      ({ s with upd := { s.upd with benchResets := s.upd.benchResets.filter (· != b) } } : State).benchResetBegin b
    else s
  if s.chip.warmWaiting then s.warmNow else s

/-- A rollback starts (R538, R539): the handover of the bench that was next ends here, and what waited for its end begins. -/
def State.rollbackStart (s : State) (reason : Nat) : State :=
  let n := s.upd.step
  let s := s.when (s.upd.begun || s.updState == 4) fun s => s.reloadGive n
  let s : State := { (s.toUpd 6) with upd := { s.upd with rollback := reason, atRound := s.round + 1, begun := false } }
  s.rollbackOn.afterHandover n

/-- A step deferred to the next boundary (R532, R536): the permit the bench's swap needs is asked for again if a reload of the bench
has returned it, and what waited for the end of the handover begins. -/
def State.deferStep (s : State) (b : Nat) : State :=
  (({ s with upd := { s.upd with atRound := s.round + 1 } } : State).askReload b).afterHandover b

/-- The pc map of a sett in the delta. -/
def State.settMap (s : State) (b k : Nat) : Option (List Byte) :=
  mapEntry s.upd.delta (mapStart s.runningImage s.upd.delta) b k

/-- One bench is handed back. -/
def State.benchHandBack (s : State) (b : Nat) : State :=
  let again (k : Nat) : Bool := s.upd.restarted.contains (b * 64 + k)
  let s := s.benchSwitch b s.targetImage s.runningImage fun k pc => if again k then .restart else mapBack (s.settMap b k) pc
  let s := s.setBitOf F.UPD_PROGRESS_benches [] b false
  s.reloadGive b

/-- The hub controller runs the firmware of an image, whose version the hub announces (R537, R539). -/
def State.controllerSwitch (s : State) (img : List Byte) : State :=
  { s with ring := { s.ring with fwVersion := imgMajor img * 256 + imgMinor img }
           chip := { s.chip with firmware := (sectionsOf img tagHubFw).headD [] } }

/-- ROLLBACK_BENCH_STEP (R539). -/
def execRollbackBenchStep (s : State) : Host.Outcome State Fault Refusal :=
  if s.down .hopper then .next s.clearOut else
  let s := s.clearOut
  if s.updState = 6 ∧ s.stepDue then
    let n := s.upd.step
    if n < 16 then
      if (s.benchOf n).reloading ∨ ¬ s.reloadReady n then .next (s.deferStep n)
      else
        let s := s.benchHandBack n
        let s : State := { s with upd := { s.upd with atRound := s.round + s.spacing } }
        .next (s.rollbackOn.afterHandover n)
    else
      let s := (s.setB F.UPD_PROGRESS_controller [] false).controllerSwitch s.runningImage
      .next (s.rollbackOn.afterHandover n)
  else .next s

/-- UPDATE_ROLLBACK (R529, R539): a verified target is discarded; a handover or a trial is rolled back. -/
def execUpdateRollback (s : State) : Host.Outcome State Fault Refusal :=
  if s.down .hopper then .next s.clearOut else
  .next (s.clearOut.updateOp 4 fun s =>
    if s.updState = 3 then some (.executed, s.notBegun.updIdle)
    else if s.updState = 4 ∨ s.updState = 5 then some (.executed, s.rollbackStart 0x11)
    else none)

/-- A firmware fault on a bench that has been handed over (R538). -/
def State.updateFault (s : State) (b : Nat) : State :=
  s.when ((s.updState == 4 || s.updState == 5) && s.bitOf F.UPD_PROGRESS_benches [] b) fun s => s.rollbackStart 0x10

/-- BENCH_WATCHDOG_EXPIRY (R202, R538): the code recorded for it is a free value. -/
def execBenchWatchdogExpiry (b : Nat) (s : State) : Host.Outcome State Fault Refusal :=
  if s.down .bench then .next s.clearOut else
  let s := s.clearOut
  if b < 16 then
    let (code, s) := s.drawWord 8
    .next ((s.firmwareFault b code).updateFault b)
  else .next s

/-- FIRMWARE_EXCEPTION (R202, R538). -/
def execFirmwareException (b code : Nat) (s : State) : Host.Outcome State Fault Refusal :=
  if s.down .bench then .next s.clearOut else
  let s := s.clearOut
  .next (if b < 16 then (s.firmwareFault b code).updateFault b else s)

/-! Handover (R532 to R537). -/

/-- The next bench is prepared before its boundary (R532): a check that fails rolls the update back. -/
def State.prepareBench (s : State) : State :=
  let b := s.upd.step
  if (s.updState ≠ 4 ∧ !s.upd.begun) ∨ 16 ≤ b then s
  else if !s.benchRulesHold b s.targetImage then s.rollbackStart 0x08
  else s.askReload b

/-- UPDATE_HANDOVER (R529, R530, R532): the engine hands over from the next round boundary, before which bench 0 is prepared. -/
def execUpdateHandover (s : State) : Host.Outcome State Fault Refusal :=
  if s.down .hopper then .next s.clearOut else
  .next (s.clearOut.updateOp 2 fun s =>
    if s.updState = 3 ∧ s.is F.UPD_STATUS_mode then
      some (if s.versionRule s.targetImage then s.versionRefused
        else
          let s : State := { s with upd := { s.upd with begun := true, step := 0, atRound := s.round + 1, restarted := [] } }
          (.executed, (s.wr .UPD_PROGRESS [] 0).prepareBench))
    else none)

/-- Setts the map starts anew in a bench: none where the bench is out of service (R536). -/
def State.mapRestarts (s : State) (b : Nat) : List Nat :=
  if s.is F.BNCH_STATUS_out_of_service [b] then []
  else
    ((changedSetts s.runningImage s.targetImage b).filter fun k =>
      let t := s.sett b k
      (swapBack t == .running || swapBack t == .halted) && mapForward (s.settMap b k) t.pc == .restart).map (b * 64 + ·)

/-- BENCH_HANDOVER (R532 to R536): the bench whose turn it is, at its boundary; deferred while the bench is in reset or its
permit is not granted. -/
def execBenchHandover (b : Nat) (s : State) : Host.Outcome State Fault Refusal :=
  if s.down .hopper then .next s.clearOut else
  let s := s.clearOut
  let s := s.when s.stepDue fun s => s.handoverBegins
  if s.updState = 4 ∧ s.upd.step = b ∧ b < 16 ∧ s.stepDue then
    if (s.benchOf b).reloading ∨ ¬ s.reloadReady b then .next (s.deferStep b)
    else
      let again := s.mapRestarts b
      let s := s.benchSwitch b s.runningImage s.targetImage fun k pc => mapForward (s.settMap b k) pc
      let s := s.setBitOf F.UPD_PROGRESS_benches [] b true
      let s := s.when (!(s.benchOf b).returning) fun s => s.permitGive .settReload b
      let s : State := { s with upd := { s.upd with step := b + 1, atRound := s.round + s.spacing, restarted := s.upd.restarted ++ again } }
      .next (s.prepareBench.afterHandover b)
  else .next s

/-- CONTROLLER_HANDOVER (R537): the trial begins. -/
def execControllerHandover (s : State) : Host.Outcome State Fault Refusal :=
  if s.down .hopper then .next s.clearOut else
  let s := s.clearOut
  if s.updState = 4 ∧ s.upd.step = 16 ∧ s.stepDue then
    let s := ((s.setB F.UPD_PROGRESS_controller [] true).toUpd 5).controllerSwitch s.targetImage
    .next ((s.leaf (loadLeaf 6)).afterHandover 16)
  else .next s

/-- TRIAL_END (R538). -/
def execTrialEnd (s : State) : Host.Outcome State Fault Refusal :=
  if s.down .hopper then .next s.clearOut else
  let s := s.clearOut
  .next (if s.updState = 5 ∧ s.is F.UPD_CFG_auto_commit then s.commit true else s)

end Sys2Proof.Machine
end

