-- ==== Sys2Proof/Machine/Dispatch.lean ====
section
/-! DEFINITION. The one table from commands to their meanings: one arm for every constructor of `Instr`. -/

namespace Sys2Proof.Machine

/-- A command's effect on everything but the queue of waiting commands. -/
def exec (i : Instr) (s : State) : Host.Outcome State Fault Refusal :=
  match i with
  | .registerWrite p w addr val => Sys2Proof.Machine.execRegisterWrite p w addr val s
  | .pairLowRead p addr => Sys2Proof.Machine.execPairLowRead p addr s
  | .pairHighRead p addr => Sys2Proof.Machine.execPairHighRead p addr s
  | .pairLowWrite p addr val => Sys2Proof.Machine.execPairLowWrite p addr val s
  | .pairHighWrite p addr val => Sys2Proof.Machine.execPairHighWrite p addr val s
  | .pcieLongTransaction bar2 write addr n data => Sys2Proof.Machine.execPcieLongTransaction bar2 write addr n data s
  | .bar2Access write w off val => Sys2Proof.Machine.execBar2Access write w off val s
  | .spiRead addr => Sys2Proof.Machine.execSpiRead addr s
  | .spiWrite addr val => Sys2Proof.Machine.execSpiWrite addr val s
  | .spiOtherCommand cmd => Sys2Proof.Machine.execSpiOtherCommand cmd s
  | .spiCsRelease write addrBytes addr dataBytes val => Sys2Proof.Machine.execSpiCsRelease write addrBytes addr dataBytes val s
  | .signalDetect p => Sys2Proof.Machine.execSignalDetect p s
  | .cdrLock p => Sys2Proof.Machine.execCdrLock p s
  | .blockLock p => Sys2Proof.Machine.execBlockLock p s
  | .deskewComplete p swap polInv skew roundTrip => Sys2Proof.Machine.execDeskewComplete p swap polInv skew roundTrip s
  | .trainingTimeout p => Sys2Proof.Machine.execTrainingTimeout p s
  | .blockLockLoss p => Sys2Proof.Machine.execBlockLockLoss p s
  | .lossOfSignal p => Sys2Proof.Machine.execLossOfSignal p s
  | .remoteFaultReceived p => Sys2Proof.Machine.execRemoteFaultReceived p s
  | .portDownTimeout p => Sys2Proof.Machine.execPortDownTimeout p s
  | .helloSend p => Sys2Proof.Machine.execHelloSend p s
  | .helloReceived p blk => Sys2Proof.Machine.execHelloReceived p blk s
  | .listenWindowEnd => Sys2Proof.Machine.execListenWindowEnd s
  | .backoffEnd => Sys2Proof.Machine.execBackoffEnd s
  | .contendSend => Sys2Proof.Machine.execContendSend s
  | .contendReceived p blk => Sys2Proof.Machine.execContendReceived p blk s
  | .contentionWindowEnd => Sys2Proof.Machine.execContentionWindowEnd s
  | .slotStart d n => Sys2Proof.Machine.execSlotStart d n s
  | .slotArrival d blks => Sys2Proof.Machine.execSlotArrival d blks s
  | .slotCut d blks => Sys2Proof.Machine.execSlotCut d blks s
  | .roundBoundary => Sys2Proof.Machine.execRoundBoundary s
  | .transitOnlyWrite p on => Sys2Proof.Machine.execTransitOnlyWrite p on s
  | .handoff p => Sys2Proof.Machine.execHandoff p s
  | .reachTimeout d h => Sys2Proof.Machine.execReachTimeout d h s
  | .silentTurnEnd => Sys2Proof.Machine.execSilentTurnEnd s
  | .masterLost => Sys2Proof.Machine.execMasterLost s
  | .backupTakeover => Sys2Proof.Machine.execBackupTakeover s
  | .spareRequestTimeout => Sys2Proof.Machine.execSpareRequestTimeout s
  | .shotFwDriveWrite p idx val => Sys2Proof.Machine.execShotFwDriveWrite p idx val s
  | .shotStretchEnd idx => Sys2Proof.Machine.execShotStretchEnd idx s
  | .shotStaleTimeout d h => Sys2Proof.Machine.execShotStaleTimeout d h s
  | .settStart p b st => Sys2Proof.Machine.execSettStart p b st s
  | .settStop p b st => Sys2Proof.Machine.execSettStop p b st s
  | .settReset p b st => Sys2Proof.Machine.execSettReset p b st s
  | .groupStart p b atRound => Sys2Proof.Machine.execGroupStart p b atRound s
  | .groupStop p b atRound => Sys2Proof.Machine.execGroupStop p b atRound s
  | .groupReset p b atRound => Sys2Proof.Machine.execGroupReset p b atRound s
  | .groupCmdAtRound b => Sys2Proof.Machine.execGroupCmdAtRound b s
  | .settProgWrite p b st k val => Sys2Proof.Machine.execSettProgWrite p b st k val s
  | .settInject p b st val => Sys2Proof.Machine.execSettInject p b st val s
  | .pinEdge b pin level => Sys2Proof.Machine.execPinEdge b pin level s
  | .stampLowRead p b st => Sys2Proof.Machine.execStampLowRead p b st s
  | .scheduledEdgeDue b st => Sys2Proof.Machine.execScheduledEdgeDue b st s
  | .mboxInWrite p b st val => Sys2Proof.Machine.execMboxInWrite p b st val s
  | .mboxOutRead p b st => Sys2Proof.Machine.execMboxOutRead p b st s
  | .controllerIrqRaise b line level => Sys2Proof.Machine.execControllerIrqRaise b line level s
  | .benchWatchdogExpiry b => Sys2Proof.Machine.execBenchWatchdogExpiry b s
  | .firmwareException b code => Sys2Proof.Machine.execFirmwareException b code s
  | .jmp b st e => Sys2Proof.Machine.execJmp b st e s
  | .wait b st e => Sys2Proof.Machine.execWait b st e s
  | .waitSatisfied b st => Sys2Proof.Machine.execWaitSatisfied b st s
  | .inShift b st e => Sys2Proof.Machine.execInShift b st e s
  | .outShift b st e => Sys2Proof.Machine.execOutShift b st e s
  | .push b st e => Sys2Proof.Machine.execPush b st e s
  | .pull b st e => Sys2Proof.Machine.execPull b st e s
  | .mov b st e => Sys2Proof.Machine.execMov b st e s
  | .seti b st e => Sys2Proof.Machine.execSeti b st e s
  | .addi b st e => Sys2Proof.Machine.execAddi b st e s
  | .djnz b st e => Sys2Proof.Machine.execDjnz b st e s
  | .stamp b st e => Sys2Proof.Machine.execStamp b st e s
  | .armAt b st e => Sys2Proof.Machine.execArmAt b st e s
  | .shot b st e => Sys2Proof.Machine.execShot b st e s
  | .raise b st e => Sys2Proof.Machine.execRaise b st e s
  | .cnt b st e => Sys2Proof.Machine.execCnt b st e s
  | .crcb b st e => Sys2Proof.Machine.execCrcb b st e s
  | .flag b st e => Sys2Proof.Machine.execFlag b st e s
  | .dir b st e => Sys2Proof.Machine.execDir b st e s
  | .sync b st e => Sys2Proof.Machine.execSync b st e s
  | .halt b st e => Sys2Proof.Machine.execHalt b st e s
  | .ldt b st e => Sys2Proof.Machine.execLdt b st e s
  | .cmpj b st e => Sys2Proof.Machine.execCmpj b st e s
  | .tout b st e => Sys2Proof.Machine.execTout b st e s
  | .irqw b st e => Sys2Proof.Machine.execIrqw b st e s
  | .reservedOpcode b st e => Sys2Proof.Machine.execReservedOpcode b st e s
  | .idleTimeoutExpiry b st => Sys2Proof.Machine.execIdleTimeoutExpiry b st s
  | .descriptorTableWrite p b off val => Sys2Proof.Machine.execDescriptorTableWrite p b off val s
  | .personalityCommand b k c => Sys2Proof.Machine.execPersonalityCommand b k c s
  | .commandTimeDue b k => Sys2Proof.Machine.execCommandTimeDue b k s
  | .uartTransmit b k => Sys2Proof.Machine.execUartTransmit b k s
  | .uartGapEnd b k => Sys2Proof.Machine.execUartGapEnd b k s
  | .spiControllerTransaction b k miso => Sys2Proof.Machine.execSpiControllerTransaction b k miso s
  | .spiTargetFrame b k => Sys2Proof.Machine.execSpiTargetFrame b k s
  | .i2cTransaction b k r => Sys2Proof.Machine.execI2cTransaction b k r s
  | .hdlcTransmit b k => Sys2Proof.Machine.execHdlcTransmit b k s
  | .ppsWindowEnd b k => Sys2Proof.Machine.execPpsWindowEnd b k s
  | .debounceExpiry b k => Sys2Proof.Machine.execDebounceExpiry b k s
  | .chatterQuietExpiry b k => Sys2Proof.Machine.execChatterQuietExpiry b k s
  | .supervisedOutputCommand b k => Sys2Proof.Machine.execSupervisedOutputCommand b k s
  | .supervisionWindowExpiry b k => Sys2Proof.Machine.execSupervisionWindowExpiry b k s
  | .decimationWindowEnd b c parityOk => Sys2Proof.Machine.execDecimationWindowEnd b c parityOk s
  | .coefficientApply p b c => Sys2Proof.Machine.execCoefficientApply p b c s
  | .comparatorThresholdWrite p b m release val => Sys2Proof.Machine.execComparatorThresholdWrite p b m release val s
  | .enqueue prod q cell => Sys2Proof.Machine.execEnqueue prod q cell s
  | .dequeue prod e c => Sys2Proof.Machine.execDequeue prod e c s
  | .heldClear h => Sys2Proof.Machine.execHeldClear h s
  | .endpointFreezeWrite p k val => Sys2Proof.Machine.execEndpointFreezeWrite p k val s
  | .cellEccError k readBackOk => Sys2Proof.Machine.execCellEccError k readBackOk s
  | .queueStateEccError q => Sys2Proof.Machine.execQueueStateEccError q s
  | .queueSnapshot p q => Sys2Proof.Machine.execQueueSnapshot p q s
  | .scrubBurstRequest p => Sys2Proof.Machine.execScrubBurstRequest p s
  | .scrubBurstEnd => Sys2Proof.Machine.execScrubBurstEnd s
  | .hostRingEnable p r cfg => Sys2Proof.Machine.execHostRingEnable p r cfg s
  | .hostRingDisable p r => Sys2Proof.Machine.execHostRingDisable p r s
  | .hostRingTailWrite p r tail => Sys2Proof.Machine.execHostRingTailWrite p r tail s
  | .sendDescriptor r desc buf => Sys2Proof.Machine.execSendDescriptor r desc buf s
  | .receiveDescriptor r desc => Sys2Proof.Machine.execReceiveDescriptor r desc s
  | .hostMemoryError r cellTaken statusWritable => Sys2Proof.Machine.execHostMemoryError r cellTaken statusWritable s
  | .fabricWriteIssue p w fa val => Sys2Proof.Machine.execFabricWriteIssue p w fa val s
  | .fabricReadIssue p w fa => Sys2Proof.Machine.execFabricReadIssue p w fa s
  | .postedWriteOffer => Sys2Proof.Machine.execPostedWriteOffer s
  | .postedWriteTimeout idx => Sys2Proof.Machine.execPostedWriteTimeout idx s
  | .bridgeCellApply => Sys2Proof.Machine.execBridgeCellApply s
  | .readRequestApply => Sys2Proof.Machine.execReadRequestApply s
  | .readResponseReceived => Sys2Proof.Machine.execReadResponseReceived s
  | .readTimeout tag => Sys2Proof.Machine.execReadTimeout tag s
  | .timeSnapshot p => Sys2Proof.Machine.execTimeSnapshot p s
  | .timeMeasurementWrite p d lo hi => Sys2Proof.Machine.execTimeMeasurementWrite p d lo hi s
  | .ppsInEdge rising => Sys2Proof.Machine.execPpsInEdge rising s
  | .sourceLossTimeout d second => Sys2Proof.Machine.execSourceLossTimeout d second s
  | .holdTraceExpiry d => Sys2Proof.Machine.execHoldTraceExpiry d s
  | .linkDelayExchange p txAgo rxAgo => Sys2Proof.Machine.execLinkDelayExchange p txAgo rxAgo s
  | .delayCellReceived => Sys2Proof.Machine.execDelayCellReceived s
  | .domainSelectApply c => Sys2Proof.Machine.execDomainSelectApply c s
  | .domainAutoSwitch c => Sys2Proof.Machine.execDomainAutoSwitch c s
  | .ppsOutEdge rising => Sys2Proof.Machine.execPpsOutEdge rising s
  | .captureNow p => Sys2Proof.Machine.execCaptureNow p s
  | .triggerTick k => Sys2Proof.Machine.execTriggerTick k s
  | .frameReceived m ago bytes cut => Sys2Proof.Machine.execFrameReceived m ago bytes cut s
  | .pauseFrame m ago bytes => Sys2Proof.Machine.execPauseFrame m ago bytes s
  | .pauseExpiry m => Sys2Proof.Machine.execPauseExpiry m s
  | .frameTransmit m => Sys2Proof.Machine.execFrameTransmit m s
  | .linkChange m up rate => Sys2Proof.Machine.execLinkChange m up rate s
  | .macEnableWrite p m on => Sys2Proof.Machine.execMacEnableWrite p m on s
  | .gateIntervalChange m => Sys2Proof.Machine.execGateIntervalChange m s
  | .gateBankSwap p m => Sys2Proof.Machine.execGateBankSwap p m s
  | .gateSwapApply m => Sys2Proof.Machine.execGateSwapApply m s
  | .ringFrameCell c => Sys2Proof.Machine.execRingFrameCell c s
  | .ringFrameTimeout src c => Sys2Proof.Machine.execRingFrameTimeout src c s
  | .segmentationGo p => Sys2Proof.Machine.execSegmentationGo p s
  | .segmentationJobEnd => Sys2Proof.Machine.execSegmentationJobEnd s
  | .canFrameReceived n ago f => Sys2Proof.Machine.execCanFrameReceived n ago f s
  | .canTransmitCommand n c => Sys2Proof.Machine.execCanTransmitCommand n c s
  | .canCommandDue n idx => Sys2Proof.Machine.execCanCommandDue n idx s
  | .canTransmitEnd n ago r => Sys2Proof.Machine.execCanTransmitEnd n ago r s
  | .canBusError n tec rec => Sys2Proof.Machine.execCanBusError n tec rec s
  | .canRecover p n => Sys2Proof.Machine.execCanRecover p n s
  | .busOffRecoveryEnd n => Sys2Proof.Machine.execBusOffRecoveryEnd n s
  | .canEnable p n => Sys2Proof.Machine.execCanEnable p n s
  | .canDisable p n => Sys2Proof.Machine.execCanDisable p n s
  | .busIdleDetected n => Sys2Proof.Machine.execBusIdleDetected n s
  | .canReferenceFrameSend n => Sys2Proof.Machine.execCanReferenceFrameSend n s
  | .canRefMasterTimeout n => Sys2Proof.Machine.execCanRefMasterTimeout n s
  | .keepAliveSend n => Sys2Proof.Machine.execKeepAliveSend n s
  | .lastCallTimeout n => Sys2Proof.Machine.execLastCallTimeout n s
  | .sleepEntry n => Sys2Proof.Machine.execSleepEntry n s
  | .sleepNow p n => Sys2Proof.Machine.execSleepNow p n s
  | .wakeDominant n tenths => Sys2Proof.Machine.execWakeDominant n tenths s
  | .wakeFrame n ago x => Sys2Proof.Machine.execWakeFrame n ago x s
  | .localWake n => Sys2Proof.Machine.execLocalWake n s
  | .twinHealthWrite p val => Sys2Proof.Machine.execTwinHealthWrite p val s
  | .healthWatchdogExpiry => Sys2Proof.Machine.execHealthWatchdogExpiry s
  | .claimLost k m => Sys2Proof.Machine.execClaimLost k m s
  | .holdoffEnd k => Sys2Proof.Machine.execHoldoffEnd k s
  | .grdSubmit p w => Sys2Proof.Machine.execGrdSubmit p w s
  | .operateWhole => Sys2Proof.Machine.execOperateWhole s
  | .operateFirstPart => Sys2Proof.Machine.execOperateFirstPart s
  | .operateSecondPart => Sys2Proof.Machine.execOperateSecondPart s
  | .heldPartTimeout hub ep => Sys2Proof.Machine.execHeldPartTimeout hub ep s
  | .claimOverride => Sys2Proof.Machine.execClaimOverride s
  | .guardedRegisterWrite => Sys2Proof.Machine.execGuardedRegisterWrite s
  | .keyLoad => Sys2Proof.Machine.execKeyLoad s
  | .keyErase => Sys2Proof.Machine.execKeyErase s
  | .keyStoreWrite st => Sys2Proof.Machine.execKeyStoreWrite st s
  | .grdResponseReceived => Sys2Proof.Machine.execGrdResponseReceived s
  | .grdWindowTimeout w => Sys2Proof.Machine.execGrdWindowTimeout w s
  | .fuseBurn p => Sys2Proof.Machine.execFuseBurn p s
  | .benchOutOfService => Sys2Proof.Machine.execBenchOutOfService s
  | .benchFreezeTimeout b => Sys2Proof.Machine.execBenchFreezeTimeout b s
  | .benchReturnToService => Sys2Proof.Machine.execBenchReturnToService s
  | .benchReset => Sys2Proof.Machine.execBenchReset s
  | .faceReset => Sys2Proof.Machine.execFaceReset s
  | .faceResetComplete f => Sys2Proof.Machine.execFaceResetComplete f s
  | .updateBegin => Sys2Proof.Machine.execUpdateBegin s
  | .chunkCommit p index len => Sys2Proof.Machine.execChunkCommit p index len s
  | .deltaVerify => Sys2Proof.Machine.execDeltaVerify s
  | .updateHandover => Sys2Proof.Machine.execUpdateHandover s
  | .benchHandover b => Sys2Proof.Machine.execBenchHandover b s
  | .controllerHandover => Sys2Proof.Machine.execControllerHandover s
  | .trialEnd => Sys2Proof.Machine.execTrialEnd s
  | .updateCommit => Sys2Proof.Machine.execUpdateCommit s
  | .updateRollback => Sys2Proof.Machine.execUpdateRollback s
  | .rollbackBenchStep => Sys2Proof.Machine.execRollbackBenchStep s
  | .updateAbort => Sys2Proof.Machine.execUpdateAbort s
  | .updateRevert => Sys2Proof.Machine.execUpdateRevert s
  | .causeLeafClear p w val => Sys2Proof.Machine.execCauseLeafClear p w val s
  | .causeEnableWrite p w val => Sys2Proof.Machine.execCauseEnableWrite p w val s
  | .watchdogKick p => Sys2Proof.Machine.execWatchdogKick p s
  | .faultForce p => Sys2Proof.Machine.execFaultForce p s
  | .controllerWatchdogExpiry => Sys2Proof.Machine.execControllerWatchdogExpiry s
  | .faultPairSwap => Sys2Proof.Machine.execFaultPairSwap s
  | .refclkLoss => Sys2Proof.Machine.execRefclkLoss s
  | .resetN lowNs pos => Sys2Proof.Machine.execResetN lowNs pos s
  | .warmReset p => Sys2Proof.Machine.execWarmReset p s
  | .configLoad failed => Sys2Proof.Machine.execConfigLoad failed s
  | .ringReady => Sys2Proof.Machine.execRingReady s
  | .configReload p => Sys2Proof.Machine.execConfigReload p s
  | .flashReadPage p => Sys2Proof.Machine.execFlashReadPage p s
  | .flashProgramPage p => Sys2Proof.Machine.execFlashProgramPage p s
  | .flashEraseSector p => Sys2Proof.Machine.execFlashEraseSector p s
  | .flashOperationEnd ok => Sys2Proof.Machine.execFlashOperationEnd ok s
  | .testUnlock p val => Sys2Proof.Machine.execTestUnlock p val s
  | .pciePerst low => Sys2Proof.Machine.execPciePerst low s
  | .coldStart vina vinb vhold => Sys2Proof.Machine.execColdStart vina vinb vhold s
  | .feedChange feedB mv => Sys2Proof.Machine.execFeedChange feedB mv s
  | .feedReverse feedB => Sys2Proof.Machine.execFeedReverse feedB s
  | .seatingChange seatB asserted => Sys2Proof.Machine.execSeatingChange seatB asserted s
  | .seatingDebounced => Sys2Proof.Machine.execSeatingDebounced s
  | .inrushStart => Sys2Proof.Machine.execInrushStart s
  | .inrushEnd => Sys2Proof.Machine.execInrushEnd s
  | .inrushTimeout => Sys2Proof.Machine.execInrushTimeout s
  | .gateCheckFail => Sys2Proof.Machine.execGateCheckFail s
  | .gateCheckPass => Sys2Proof.Machine.execGateCheckPass s
  | .shortDetected => Sys2Proof.Machine.execShortDetected s
  | .fuseTrip => Sys2Proof.Machine.execFuseTrip s
  | .thermalTrip t => Sys2Proof.Machine.execThermalTrip t s
  | .retryExpiry => Sys2Proof.Machine.execRetryExpiry s
  | .pgoodRise k pos tmode => Sys2Proof.Machine.execPgoodRise k pos tmode s
  | .railGapExpiry => Sys2Proof.Machine.execRailGapExpiry s
  | .pgoodTimeout => Sys2Proof.Machine.execPgoodTimeout s
  | .pgoodLoss k => Sys2Proof.Machine.execPgoodLoss k s
  | .capacitanceMeasured mv => Sys2Proof.Machine.execCapacitanceMeasured mv s
  | .gaugeDisagreement => Sys2Proof.Machine.execGaugeDisagreement s
  | .quietPeriodEnd => Sys2Proof.Machine.execQuietPeriodEnd s
  | .holdupReadyChange x => Sys2Proof.Machine.execHoldupReadyChange x s
  | .dyingGasp cause => Sys2Proof.Machine.execDyingGasp cause s
  | .journalFlushEnd done => Sys2Proof.Machine.execJournalFlushEnd done s
  | .park => Sys2Proof.Machine.execPark s
  | .permitRequest k unit => Sys2Proof.Machine.execPermitRequest k unit s
  | .permitReturn k unit => Sys2Proof.Machine.execPermitReturn k unit s
  | .permitWaitLimit k unit => Sys2Proof.Machine.execPermitWaitLimit k unit s
  | .budgetWrite p budget => Sys2Proof.Machine.execBudgetWrite p budget s
  | .bistGo p b => Sys2Proof.Machine.execBistGo p b s
  | .bistEnd r => Sys2Proof.Machine.execBistEnd r s
  | .alwaysOnStop => Sys2Proof.Machine.execAlwaysOnStop s
  | .registerRead p w addr => Sys2Proof.Machine.execRegisterRead p w addr s
  | .pcieLinkChange up => Sys2Proof.Machine.execPcieLinkChange up s
  | .jtagTapOperation op => Sys2Proof.Machine.execJtagTapOperation op s
  | .journalEraseComplete => Sys2Proof.Machine.execJournalEraseComplete s
  | .benchReloadComplete b => Sys2Proof.Machine.execBenchReloadComplete b s
  | .hubControllerFrameSend bytes c => Sys2Proof.Machine.execHubControllerFrameSend bytes c s
  | .correctableEccError => Sys2Proof.Machine.execCorrectableEccError s

end Sys2Proof.Machine
end

