-- ==== Sys2Proof/Machine/Step.lean ====
section
/-! DEFINITION. One step of the hub: the command at the front of the queue, or one clock of the time core when none
waits. What the spec leaves to a reading or a choice stands in log entries 1 and 4. -/

namespace Sys2Proof.Machine

/-- The hub takes the command at the front of its queue; with none waiting the time core counts one cycle (R360, log
entry 1). -/
def step (s : State) : Host.Outcome State Fault Refusal :=
  match s.pending with
  | [] => .next s.idle
  | c :: rest => exec c { s with pending := rest }

/-- The operation table gives no command any bits, so no word spells a command and the state is unchanged. -/
def State.withFetchWord (s : State) (_nbits _w : Nat) : State := s

end Sys2Proof.Machine
end

