-- ==== Sys2Proof/Safety.lean ====
section
/-! DEFINITION. What claims about the hub are stated in: the invariant of a sound state, when an access is accepted, and
what a command may leave unchanged. -/

namespace Sys2Proof.Machine

/-! Frames. -/

/-- From `s` to `t` nothing changed but the outputs and the register words at addresses where `at` holds. -/
def State.regsOnly (s t : State) (at' : Nat → Bool) : Prop :=
  t = { s with regs := t.regs, out := t.out, line := t.line } ∧ ∀ a, at' a = false → smGet t.regs a 0 = smGet s.regs a 0

/-- Every register word at an address where `at` is false is the same in both states. -/
def State.wordsKept (s t : State) (at' : Nat → Bool) : Prop := ∀ a, at' a = false → smGet t.regs a 0 = smGet s.regs a 0

/-- From `s` to `t` nothing changed but the outputs and sett k of bench b. -/
def State.settOnly (s t : State) (b k : Nat) : Prop :=
  t = { s with out := t.out, line := t.line, setts := t.setts } ∧ ∀ j, j ≠ b * 64 + k → smGet t.setts j {} = smGet s.setts j {}

/-! Setts. -/

/-- Sett k of bench b runs, stands at the word `w` of its program with the opcode `op`, and the word is one it executes: no
injected word, no stop pending, no side actions, and no trap (R205 to R207). -/
abbrev State.atWord (s : State) (b k op w : Nat) : Prop :=
  (s.sett b k).phase = .running ∧ (s.sett b k).inject = none ∧ (s.sett b k).contended = false
    ∧ s.rd .SETT_PROG [b, k, (s.sett b k).pc] = w ∧ s.rd .SETT_SIDE [b, k] = 0 ∧ insOp w = op ∧ s.wordTrap b k w = none

/-- A sett after the program counter has gone on past the instruction it executes (R205). -/
def Sett.past (t : Sett) : Sett := { t with phase := .running, wait := none, pc := (t.pc + 1) % 64 }

/-- The pins of a sett's quad have defined levels: none of them floats (R187). -/
abbrev State.pinsDefined (s : State) (b k : Nat) : Prop := ∀ j, j < 4 → s.floats b (quadPin k j) = false

/-- The logical level of quad pin j: the ball's level, inverted where BNCH_PAD says so (R210). -/
def State.pinLevel (s : State) (b k j : Nat) : Bool :=
  (s.pinOf b (quadPin k j)).ball != s.is F.BNCH_PAD_invert [b, quadPin k j]

/-- The logical levels of `n` quad pins from pin j on, bit i for pin (j + i) mod 4 (R221). -/
def State.pinLevels (s : State) (b k j : Nat) : Nat → Nat
  | 0 => 0
  | n + 1 => s.pinLevels b k j n + b2n (s.pinLevel b k (j + n)) * 2 ^ n

/-! Accesses. -/

/-- A 32-bit write of `v` to a register by a path from outside reaches the register: the path carries it and is
open, the address is the register's, and nothing refuses it (R34, R456, R476). -/
abbrev State.admits (s : State) (p : Path) (r : Reg) (ix : List Nat) (v : Nat) : Prop :=
  carries p .w32 (r.addr ix) = true ∧ s.pathClosed p = false ∧ s.regAt (r.addr ix) = some (r, ix)
    ∧ s.judge p r ix (r.addr ix) true v = none

/-- A 32-bit read of a register by a path from outside reaches the register in the same sense. -/
abbrev State.admitsRead (s : State) (p : Path) (r : Reg) (ix : List Nat) : Prop :=
  carries p .w32 (r.addr ix) = true ∧ s.pathClosed p = false ∧ s.regAt (r.addr ix) = some (r, ix)
    ∧ s.judge p r ix (r.addr ix) false 0 = none

/-- What a path sees of a write that is accepted: nothing when it is posted, else the acknowledgement. -/
def acknowledged (p : Path) (addr : Nat) : List Out := if postedPath p then [] else [.writeDone p addr]

/-- An index list names a copy of a register heading. -/
def Reg.indexed (r : Reg) (ix : List Nat) : Prop := ix.length = r.desc.dims.length ∧ ∀ e ∈ ix.zip r.desc.dims, e.1 < e.2.1

/-! The invariant of a sound state, kept by every step and met at reset. -/

/-- The register store and the flash hold their canonical forms: addresses strictly rising, and no entry equal to what an
unlisted address reads as, so that equal contents are equal data. -/
def State.wf (s : State) : Bool := smWf s.regs 0 && smWf s.chip.flash 0xFF

end Sys2Proof.Machine

namespace Sys2Proof

/-- The island a command acts in: while the always-on island holds it in reset, or recovery keeps it out of operation, the
command finds nothing to act on (R14, R508, R545). `host` stands for the paths and the pins of the hub as a whole; an edge
of a pin is seen at the ball in any case (R187). -/
def Instr.island : Instr → Machine.IslandKind
  | .registerWrite .. | .pairLowRead .. | .pairHighRead .. | .pairLowWrite .. | .pairHighWrite ..
  | .pcieLongTransaction .. | .bar2Access .. | .spiRead .. | .spiWrite .. | .spiOtherCommand .. | .spiCsRelease ..
  | .transitOnlyWrite .. | .handoff .. | .shotFwDriveWrite .. | .settStart .. | .settStop .. | .settReset ..
  | .groupStart .. | .groupStop .. | .groupReset .. | .settProgWrite .. | .settInject .. | .stampLowRead ..
  | .mboxInWrite .. | .mboxOutRead .. | .descriptorTableWrite .. | .coefficientApply ..
  | .comparatorThresholdWrite .. | .endpointFreezeWrite .. | .queueSnapshot .. | .scrubBurstRequest ..
  | .hostRingEnable .. | .hostRingDisable .. | .hostRingTailWrite .. | .timeSnapshot .. | .timeMeasurementWrite ..
  | .captureNow .. | .macEnableWrite .. | .gateBankSwap .. | .segmentationGo .. | .canRecover .. | .canEnable ..
  | .canDisable .. | .sleepNow .. | .twinHealthWrite .. | .grdSubmit .. | .fuseBurn .. | .chunkCommit ..
  | .causeLeafClear .. | .causeEnableWrite .. | .watchdogKick .. | .faultForce .. | .refclkLoss | .resetN ..
  | .warmReset .. | .configReload .. | .flashReadPage .. | .flashProgramPage .. | .flashEraseSector ..
  | .testUnlock .. | .budgetWrite .. | .bistGo .. | .registerRead .. => .host
  | .enqueue .. | .dequeue .. | .heldClear .. | .cellEccError .. | .queueStateEccError .. | .scrubBurstEnd
  | .sendDescriptor .. | .receiveDescriptor .. | .hostMemoryError .. | .fabricWriteIssue .. | .fabricReadIssue ..
  | .postedWriteOffer | .postedWriteTimeout .. | .bridgeCellApply | .readRequestApply | .readResponseReceived
  | .readTimeout .. | .healthWatchdogExpiry | .claimLost .. | .holdoffEnd .. | .operateWhole | .operateFirstPart
  | .operateSecondPart | .heldPartTimeout .. | .claimOverride | .guardedRegisterWrite | .keyLoad | .keyErase
  | .keyStoreWrite .. | .grdResponseReceived | .grdWindowTimeout .. | .benchOutOfService | .benchReturnToService
  | .benchReset | .faceReset | .faceResetComplete .. | .updateBegin | .deltaVerify | .updateHandover
  | .benchHandover .. | .controllerHandover | .trialEnd | .updateCommit | .updateRollback | .rollbackBenchStep
  | .updateAbort | .updateRevert | .controllerWatchdogExpiry | .configLoad .. | .ringReady | .flashOperationEnd ..
  | .permitRequest .. | .permitReturn .. | .permitWaitLimit .. | .bistEnd .. | .journalEraseComplete
  | .correctableEccError => .hopper
  | .signalDetect .. | .cdrLock .. | .blockLock .. | .deskewComplete .. | .trainingTimeout .. | .blockLockLoss ..
  | .lossOfSignal .. | .remoteFaultReceived .. | .portDownTimeout .. | .helloSend .. | .helloReceived ..
  | .listenWindowEnd | .backoffEnd | .contendSend | .contendReceived .. | .contentionWindowEnd | .slotStart ..
  | .slotArrival .. | .slotCut .. | .roundBoundary | .reachTimeout .. | .silentTurnEnd | .masterLost
  | .backupTakeover | .spareRequestTimeout | .shotStretchEnd .. | .shotStaleTimeout .. => .ring
  | .ppsInEdge .. | .sourceLossTimeout .. | .holdTraceExpiry .. | .linkDelayExchange .. | .delayCellReceived
  | .domainSelectApply .. | .domainAutoSwitch .. | .ppsOutEdge .. | .triggerTick .. => .timeCore
  | .groupCmdAtRound .. | .scheduledEdgeDue .. | .controllerIrqRaise .. | .benchWatchdogExpiry ..
  | .firmwareException .. | .jmp .. | .wait .. | .waitSatisfied .. | .inShift .. | .outShift .. | .push .. | .pull ..
  | .mov .. | .seti .. | .addi .. | .djnz .. | .stamp .. | .armAt .. | .shot .. | .raise .. | .cnt .. | .crcb ..
  | .flag .. | .dir .. | .sync .. | .halt .. | .ldt .. | .cmpj .. | .tout .. | .irqw .. | .reservedOpcode ..
  | .idleTimeoutExpiry .. | .personalityCommand .. | .commandTimeDue .. | .uartTransmit .. | .uartGapEnd ..
  | .spiControllerTransaction .. | .spiTargetFrame .. | .i2cTransaction .. | .hdlcTransmit .. | .ppsWindowEnd ..
  | .debounceExpiry .. | .chatterQuietExpiry .. | .supervisedOutputCommand .. | .supervisionWindowExpiry ..
  | .decimationWindowEnd .. | .benchFreezeTimeout .. | .benchReloadComplete .. => .bench
  | .frameReceived .. | .pauseFrame .. | .pauseExpiry .. | .frameTransmit .. | .linkChange ..
  | .gateIntervalChange .. | .gateSwapApply .. | .ringFrameCell .. | .ringFrameTimeout .. | .segmentationJobEnd
  | .hubControllerFrameSend .. => .ethernet
  | .canFrameReceived .. | .canTransmitCommand .. | .canCommandDue .. | .canTransmitEnd .. | .canBusError ..
  | .busOffRecoveryEnd .. | .busIdleDetected .. | .canReferenceFrameSend .. | .canRefMasterTimeout ..
  | .keepAliveSend .. | .lastCallTimeout .. | .sleepEntry .. | .wakeDominant .. | .wakeFrame .. | .localWake .. => .can
  | .pinEdge .. | .faultPairSwap | .pciePerst .. | .coldStart .. | .feedChange .. | .feedReverse ..
  | .seatingChange .. | .seatingDebounced | .inrushStart | .inrushEnd | .inrushTimeout | .gateCheckFail
  | .gateCheckPass | .shortDetected | .fuseTrip | .thermalTrip .. | .retryExpiry | .pgoodRise .. | .railGapExpiry
  | .pgoodTimeout | .pgoodLoss .. | .capacitanceMeasured .. | .gaugeDisagreement | .quietPeriodEnd
  | .holdupReadyChange .. | .dyingGasp .. | .journalFlushEnd .. | .park | .alwaysOnStop | .pcieLinkChange ..
  | .jtagTapOperation .. => .alwaysOn

end Sys2Proof
end

