-- ==== Sys2Proof/Certificates/Slice0/Obligations.lean ====
section
/-! DEFINITION. What is claimed of the hub: statements for every family of commands, drawn from the spec's numbered rules, and
statements about every step. -/

open Sys2Proof Sys2Proof.Machine

/-! ## Sett instructions (R205 to R242) -/

/-- SETI, ADDI, MOV, CNT, CRCB, LDT and FLAG (R219, R220, R225, R226, R230, R241): the new value of the one register each
writes. Where the spec leaves a reading or a choice, it takes the model's of log entry 17. -/
def Obligations.SettDataInstructions : Prop :=
  ∀ (s : State) (b k w : Nat), s.down .bench = false →
    let t := s.sett b k
    let r := natBits w 19 18
    (s.atWord b k 0x07 w → ∃ u, exec (.seti b k .good) s = .next u ∧ s.settOnly u b k ∧
      u.sett b k = setRegOf t.past r (match natBits w 17 16 with
        | 0 => natBits w 15 0
        | 1 => natBits w 15 0 * 2 ^ 16 + regOf t r % 2 ^ 16
        | _ => (natBits w 15 0 + (if natBit w 15 then 0xFFFF0000 else 0)))) ∧
    (s.atWord b k 0x08 w → ∃ u, exec (.addi b k .good) s = .next u ∧ s.settOnly u b k ∧
      u.sett b k = setRegOf t.past r ((regOf t r + natBits w 15 0 + (if natBit w 15 then 0xFFFF0000 else 0)) % 2 ^ 32)) ∧
    (s.atWord b k 0x06 w → natBits w 15 12 ≠ 7 → (natBits w 15 12 = 5 → s.pinsDefined b k) →
      ∃ u, exec (.mov b k .good) s = .next u ∧ s.settOnly u b k ∧
        let v := movTransform (natBits w 11 9) (match natBits w 15 12 with
          | 0 => t.x
          | 1 => t.y
          | 2 => t.isr
          | 3 => t.osr
          | 4 => t.flags
          | 5 => s.pinLevels b k 0 4
          | 6 => t.edgeCount
          | 8 => t.highRead.getD (stampWords t).2
          | 10 => (t.pc + 1) % 64
          | 11 => t.isrCount
          | 12 => t.osrCount
          | _ => 0)
        u.sett b k = match natBits w 19 16 with
          | 0 => { t.past with x := v }
          | 1 => { t.past with y := v }
          | 2 => { t.past with isr := v, isrCount := 32 }
          | 3 => { t.past with osr := v, osrCount := 32 }
          | 4 => { t.past with flags := v % 256 }
          | _ => { t.past with pc := v % 64 }) ∧
    (s.atWord b k 0x0E w → ∃ u, exec (.cnt b k .good) s = .next u ∧ s.settOnly u b k ∧
      u.sett b k = { t.past with
        x := if natBit w 19 then t.x else t.edgeCount
        y := if natBit w 19 then t.edgeCount else t.y
        edgeCount := if natBit w 18 then 0 else t.edgeCount }) ∧
    (s.atWord b k 0x0F w → ∃ u, exec (.crcb b k .good) s = .next u ∧ s.settOnly u b k ∧
      u.sett b k = { t.past with y := crcbValue r (natBit w 17) (bitCount w) t.x t.y }) ∧
    (s.atWord b k 0x14 w → ∃ u, exec (.ldt b k .good) s = .next u ∧ s.settOnly u b k ∧
      u.sett b k = setRegOf t.past r (s.rd .BNCH_LUT [b, match natBits w 17 16 with
        | 0 => natBits w 7 0
        | 1 => (t.x + natBits w 7 0) % 256
        | _ => (t.y + natBits w 7 0) % 256])) ∧
    (s.atWord b k 0x10 w → (r = 3 → s.pinsDefined b k) → ∃ u, exec (.flag b k .good) s = .next u ∧ s.settOnly u b k ∧
      u.sett b k = { t.past with
        flags := flagAction r (natBits w 15 8) t.flags (r == 3 && s.pinLevel b k (natBits w 17 16)) })

/-- IN, OUT, PUSH and PULL between registers and mailboxes (R221 to R224). Where the spec leaves a reading or a choice, it
takes the model's of log entries 17 and 49. -/
def Obligations.SettShiftInstructions : Prop :=
  ∀ (s : State) (b k w : Nat), s.down .bench = false →
    let t := s.sett b k
    let n := bitCount w
    (s.atWord b k 0x02 w → (natBits w 19 17 = 0 → s.pinsDefined b k) →
      ∃ u, exec (.inShift b k .good) s = .next u ∧ s.settOnly u b k ∧
        let d := (match natBits w 19 17 with
          | 0 => s.pinLevels b k (natBits w 16 15) n
          | 1 => t.x
          | 2 => t.y
          | 3 => 0
          | 4 => 2 ^ 32 - 1
          | _ => t.edgeCount) % 2 ^ n
        u.sett b k = { t.past with
          isr := if natBit w 14 then t.isr / 2 ^ n ||| (d * 2 ^ (32 - n)) % 2 ^ 32 else (t.isr * 2 ^ n) % 2 ^ 32 ||| d
          isrCount := min (t.isrCount + n) 32 }) ∧
    (s.atWord b k 0x03 w → 2 ≤ natBits w 19 17 → ∃ u, exec (.outShift b k .good) s = .next u ∧ s.settOnly u b k ∧
      let d := if natBit w 14 then t.osr / 2 ^ (32 - n) else t.osr % 2 ^ n
      u.sett b k = { t.past with
        osr := if natBit w 14 then (t.osr * 2 ^ n) % 2 ^ 32 else t.osr / 2 ^ n
        osrCount := t.osrCount - n
        x := if natBits w 19 17 = 2 then d else t.x
        y := if natBits w 19 17 = 3 then d else t.y }) ∧
    (s.atWord b k 0x04 w → t.outbox.length < 4 → ∃ u, exec (.push b k .good) s = .next u ∧ s.settOnly u b k ∧
      u.sett b k = { t.past with outbox := t.outbox ++ [t.isr], isr := 0, isrCount := 0 }) ∧
    (∀ v rest, s.atWord b k 0x05 w → t.inbox = v :: rest → ∃ u, exec (.pull b k .good) s = .next u ∧ s.settOnly u b k ∧
      u.sett b k = { t.past with osr := v, osrCount := 32, inbox := rest }) ∧
    (s.atWord b k 0x05 w → t.inbox = [] → natBit w 19 = true → ∃ u, exec (.pull b k .good) s = .next u ∧ s.settOnly u b k ∧
      (u.sett b k).phase = .waiting ∧ (u.sett b k).pc = t.pc ∧ (u.sett b k).osr = t.osr) ∧
    (s.atWord b k 0x04 w → t.outbox.length = 4 → natBit w 19 = true → ∃ u, exec (.push b k .good) s = .next u ∧ s.settOnly u b k ∧
      (u.sett b k).phase = .waiting ∧ (u.sett b k).pc = t.pc ∧ (u.sett b k).isr = t.isr)

/-- JMP, DJNZ and CMPJ (R215 to R217): the program counter takes the target when the condition holds, else it goes on. -/
def Obligations.SettBranchInstructions : Prop :=
  ∀ (s : State) (b k w : Nat), s.down .bench = false →
    let t := s.sett b k
    let r := natBits w 19 18
    let sel := natBits w 15 13
    (s.atWord b k 0x00 w → ((natBits w 19 16 = 7 ∨ natBits w 19 16 = 8) → s.pinsDefined b k) →
      ∃ u, exec (.jmp b k .good) s = .next u ∧ s.settOnly u b k ∧
        let c : Prop := match natBits w 19 16 with
          | 0 => True
          | 1 => t.x = t.y
          | 2 => t.x ≠ t.y
          | 3 => t.x < t.y
          | 4 => toSigned t.x 32 < toSigned t.y 32
          | 5 => natBit t.flags sel = true
          | 6 => natBit t.flags sel = false
          | 7 => s.pinLevel b k sel = true
          | 8 => s.pinLevel b k sel = false
          | 9 => t.unread = true
          | 10 => t.inbox ≠ []
          | 11 => t.outbox.length < 4
          | 12 => entriesUsed t < 2
          | 13 => t.osrCount = 0
          | _ => t.timeout.isSome = true
        (c → u.sett b k = { t.past with pc := natBits w 5 0 }) ∧ (¬ c → u.sett b k = t.past)) ∧
    (s.atWord b k 0x09 w → ∃ u, exec (.djnz b k .good) s = .next u ∧ s.settOnly u b k ∧
      let v := (regOf t r + (2 ^ 32 - 1)) % 2 ^ 32
      u.sett b k = if v = 0 then setRegOf t.past r v else { setRegOf t.past r v with pc := natBits w 5 0 }) ∧
    (s.atWord b k 0x15 w → ∃ u, exec (.cmpj b k .good) s = .next u ∧ s.settOnly u b k ∧
      let v := match r with
        | 0 => t.x
        | 1 => t.y
        | 2 => t.flags
        | _ => t.isr
      let imm := natBits w 15 6
      let c : Prop := match natBits w 17 16 with
        | 0 => v = imm
        | 1 => v ≠ imm
        | 2 => v < imm
        | _ => v &&& imm ≠ 0
      (c → u.sett b k = { t.past with pc := natBits w 5 0 }) ∧ (¬ c → u.sett b k = t.past))

/-- DIR, and OUT to pin levels and output enables (R208, R222, R227): every pin that the sett owns and may drive takes its
bit. The side actions of an instruction (R207): none, level, toggle and pulse, on each pin of the quad. SHOT, RAISE, IRQW,
SYNC and HALT (R159, R218, R238 to R240, R242). Where the spec leaves a reading or a choice, it takes the model's of log
entries 17 and 18. -/
def Obligations.SettPinAndEventInstructions : Prop :=
  (∀ (s : State) (b k w : Nat), s.down .bench = false →
     let t := s.sett b k
     let n := bitCount w
     let d := if natBit w 14 then t.osr / 2 ^ (32 - n) else t.osr % 2 ^ n
     let drives (p : Nat) : Prop := s.owner b p = k % 4 ∧ s.driveEnabled b p = true
     let noEdge (p : Nat) : Prop := (s.pinOf b p).edgeAt ≠ some s.time.cycles
     s.is F.BNCH_STATUS_out_of_service [b] = false →
     (s.atWord b k 0x03 w → natBits w 19 17 ≤ 1 → (∀ i, i < n → drives (quadPin k (natBits w 16 15 + i))) →
       (natBits w 19 17 = 0 → ∀ i, i < n → noEdge (quadPin k (natBits w 16 15 + i))) →
       ∃ u, exec (.outShift b k .good) s = .next u ∧ (u.sett b k).pc = (t.pc + 1) % 64 ∧ (u.sett b k).osrCount = t.osrCount - n ∧
         ∀ i, i < n →
           let x := u.pinOf b (quadPin k (natBits w 16 15 + i))
           if natBits w 19 17 = 0 then x.out = natBit d i else x.enable = natBit d i) ∧
     (s.atWord b k 0x11 w → (∀ j, j < 4 → natBit w (16 + j) = true → drives (quadPin k j)) →
       ∃ u, exec (.dir b k .good) s = .next u ∧ (u.sett b k).pc = (t.pc + 1) % 64 ∧
         ∀ j, j < 4 → natBit w (16 + j) = true → (u.pinOf b (quadPin k j)).enable = natBit w (12 + j)) ∧
     (t.phase = .running → t.inject = none → t.contended = false → s.rd .SETT_PROG [b, k, t.pc] = w → insOp w = 0x07 →
       s.wordTrap b k w = none → (∀ j, j < 4 → drives (quadPin k j) ∧ noEdge (quadPin k j)) →
       ∃ u, exec (.seti b k .good) s = .next u ∧ (u.sett b k).pc = (t.pc + 1) % 64 ∧
         ∀ j, j < 4 →
           let out := (s.pinOf b (quadPin k j)).out
           let bit := natBit (insSide w) j
           (u.pinOf b (quadPin k j)).out = match natBits (s.rd .SETT_SIDE [b, k]) (2 * j + 1) (2 * j) with
             | 0 => out
             | 1 => bit
             | 2 => if bit then !out else out
             | _ => if bit then false else out)) ∧
  (∀ (s : State) (b k w : Nat), s.down .bench = false →
     let t := s.sett b k
     (s.atWord b k 0x0C w → s.settMayDrive b (natBits w 2 0) = true →
       ∃ u, exec (.shot b k .good) s = .next u ∧ u.sett b k = t.past ∧ u.regs = s.regs ∧
         u.settLinesOf b k = natSetBit (s.settLinesOf b k) (natBits w 2 0) (natBit w 19)) ∧
     (s.atWord b k 0x0C w → s.settMayDrive b (natBits w 2 0) = false → b < 16 →
       ∃ u, exec (.shot b k .good) s = .next u ∧ u.sett b k = t.past ∧ u.shot = s.shot ∧ u.leafSet (32 * b + 6) = true) ∧
     (s.atWord b k 0x0D w →
       ∃ u, exec (.raise b k .good) s = .next u ∧ (u.sett b k).pc = (t.pc + 1) % 64 ∧ u.regs = s.regs ∧
         (u.benchOf b).events = match natBits w 19 18 with
           | 1 => natSetBit (s.benchOf b).events (natBits w 3 0) true
           | 2 => natSetBit (s.benchOf b).events (natBits w 3 0) false
           | _ => (s.benchOf b).events) ∧
     (s.atWord b k 0x17 w → natBit t.latches (natBits w 3 0) = true →
       ∃ u, exec (.irqw b k .good) s = .next u ∧ s.settOnly u b k ∧
         u.sett b k = { t.past with latches := natSetBit t.latches (natBits w 3 0) false }) ∧
     (s.atWord b k 0x12 w → k < 64 → (∀ m, m < 64 → m ≠ k → s.syncMember b (natBits w 1 0) m = true →
         (s.sett b m).phase ≠ .running ∧ (s.sett b m).phase ≠ .waiting) →
       ∃ u, exec (.sync b k .good) s = .next u ∧ s.settOnly u b k ∧ u.sett b k = t.past) ∧
     (∀ m, s.atWord b k 0x12 w → m < 64 → m ≠ k → s.syncMember b (natBits w 1 0) m = true → (s.sett b m).phase = .running →
       ∃ u, exec (.sync b k .good) s = .next u ∧ s.settOnly u b k ∧ (u.sett b k).phase = .waiting ∧ (u.sett b k).pc = t.pc) ∧
     (s.atWord b k 0x13 w → ∃ u, exec (.halt b k .good) s = .next u ∧ s.settOnly u b k ∧
       u.sett b k = { t.past with phase := .halted }))

/-- STAMP, MOV from source 7, AT, TOUT, WAIT, WAIT_SATISFIED and SCHEDULED_EDGE_DUE (R189, R192, R209, R211, R212, R228,
R229, R231, R232, R235). Where the spec leaves a reading or a choice, it takes the model's of log entries 17, 19 and 52. -/
def Obligations.SettTimeInstructions : Prop :=
  ∀ (s : State) (b k w : Nat), s.down .bench = false →
    let t := s.sett b k
    let dom := s.domOfConsumer (.bench b)
    let rel (v : Nat) : Int := ((s.now dom + v % 2 ^ 32 * 2 ^ 37 : Nat) : Int)
    (s.atWord b k 0x0A w → (natBits w 19 18 = 0 ∨ (natBits w 19 18 = 2 ∧ t.unread = true)) →
      ∃ u, exec (.stamp b k .good) s = .next u ∧ s.settOnly u b k ∧
        u.sett b k = { t.past with x := (stampWords t).1, y := (stampWords t).2, unread := false, missed := false }) ∧
    (s.atWord b k 0x0A w → natBits w 19 18 = 1 → t.outbox.length ≤ 2 →
      ∃ u, exec (.stamp b k .good) s = .next u ∧ s.settOnly u b k ∧
        u.sett b k = { t.past with
          outbox := t.outbox ++ [(stampWords t).1, (stampWords t).2], unread := false, missed := false }) ∧
    (s.atWord b k 0x06 w → natBits w 15 12 = 7 → natBits w 19 16 = 0 →
      ∃ u, exec (.mov b k .good) s = .next u ∧ s.settOnly u b k ∧
        u.sett b k = { t.past with
          x := movTransform (natBits w 11 9) (stampWords t).1, highRead := some (stampWords t).2, unread := false, missed := false }) ∧
    (s.atWord b k 0x0B w → natBits w 16 15 = 1 → t.edges = [] →
      let v := if natBit w 14 then t.y else t.x
      ∃ u, exec (.armAt b k .good) s = .next u ∧ s.settOnly u b k ∧
        (u.sett b k).edges = [{ pin := natBits w 19 18, level := natBit w 17, t := rel v, dom := dom }] ∧
        (u.sett b k).pc = (t.pc + 1) % 64) ∧
    (s.atWord b k 0x16 w → (t.timeout.isSome = true ∨ entriesUsed t < 2) →
      let dur := if natBit w 13 then t.x else natBits w 12 0 * 16
      ∃ u, exec (.tout b k .good) s = .next u ∧ s.settOnly u b k ∧
        u.sett b k = { t.past with timeout := if dur = 0 then none else some (natBits w 19 14, dur, dom) }) ∧
    (s.atWord b k 0x01 w → 2 ≤ natBits w 19 16 → natBits w 19 16 ≤ 6 →
      let i := natBits w 11 0
      let level := match natBits w 19 16 with
        | 2 => natBit t.flags i
        | 3 => s.lineState i
        | 4 => s.hubStale i
        | 5 => natBit (s.benchOf b).events i
        | _ => natBit (s.benchOf b).lines i
      ∃ u, exec (.wait b k .good) s = .next u ∧ s.settOnly u b k ∧
        u.sett b k = if level = natBit w 15 then t.past else { t with phase := .waiting, wait := some { word := w, now := s.now dom, dom := dom } }) ∧
    (s.atWord b k 0x01 w → natBits w 19 16 = 7 → natBits w 1 0 = 1 → 0 < (if natBit w 2 then t.y else t.x) % 2 ^ 32 →
      let T := rel (if natBit w 2 then t.y else t.x)
      ∃ u, exec (.wait b k .good) s = .next u ∧ s.settOnly u b k ∧ (u.sett b k).phase = .waiting ∧
        (u.sett b k).wait = some { word := w, now := s.now dom, dom := dom, time := some (T, dom) } ∧ (u.sett b k).reference.isSome = true) ∧
    (∀ x, t.phase = .waiting → t.wait = some x → x.met = true → x.injected = false → x.back = .running → t.inject = none →
      t.contended = false → insOp x.word = 0x01 →
      ∃ u, exec (.waitSatisfied b k) s = .next u ∧ s.settOnly u b k ∧ u.sett b k = t.past) ∧
    (∀ e, t.edges = [e] → e.t ≤ (s.now e.dom : Int) → t.contended = false → s.wavesOf b k = [] → s.is F.BNCH_STATUS_out_of_service [b] = false →
      s.owner b (quadPin k e.pin) = k % 4 → s.driveEnabled b (quadPin k e.pin) = true →
      ∃ u, exec (.scheduledEdgeDue b k) s = .next u ∧ (u.sett b k).edges = [] ∧
        (u.pinOf b (quadPin k e.pin)).out = e.level)

/-- A word that traps (R186, R206): the sett is trapped with the cause the spec gives, and leaf 0 of its bench is set; a word
with an uncorrectable error (R174, R484): trapped with cause 3, and leaves 0 and 1 of its bench are set; a word with a
corrected error runs, and leaf 1 is set. SETT_START, SETT_STOP and SETT_RESET (R176, R177), SETT_PROG_WRITE (R179) and
SETT_INJECT (R180), by a path whose write is accepted. Where the spec leaves a reading or a choice, it takes the model's of
log entries 7, 17 and 19. -/
def Obligations.SettTrapsAndControl : Prop :=
  (∀ (s : State) (b k : Nat), s.down .bench = false → b < 16 →
     let t := s.sett b k
     let w := s.rd .SETT_PROG [b, k, t.pc]
     (∀ c, t.phase = .running → t.inject = none → s.wordTrap b k w = some c →
       ∃ u, exec (.reservedOpcode b k .good) s = .next u ∧ (u.sett b k).phase = .trapped ∧ (u.sett b k).cause = c ∧
         (u.sett b k).edges = [] ∧ u.leafSet (32 * b) = true) ∧
     (t.phase = .running → t.inject = none →
       ∃ u, exec (.reservedOpcode b k .uncorrectable) s = .next u ∧ (u.sett b k).phase = .trapped ∧ (u.sett b k).cause = 3 ∧
         u.leafSet (32 * b) = true ∧ u.leafSet (32 * b + 1) = true) ∧
     (s.atWord b k 0x07 w → ∃ u, exec (.seti b k .corrected) s = .next u ∧
       (∃ v, exec (.seti b k .good) s = .next v ∧ u.sett b k = v.sett b k) ∧ u.leafSet (32 * b + 1) = true ∧ s.wordsKept u causeAddr) ∧
     (∀ v, natBits v 31 27 ≥ 0x18 → s.wordTrap b k v = some 1)) ∧
  (∀ (s : State) (p : Path) (b k n val : Nat), b < 16 → k < 64 → n < 64 →
     let t := s.sett b k
     let word (bits : Nat) := s.merged p .SETT_CTRL [b, k] 7 bits
     let touched (a : Nat) : Bool := causeAddr a || a == Reg.SETT_CTRL.addr [b, k]
     (s.admits p .SETT_CTRL [b, k] (word 1) → t.phase = .stopped →
       ∃ u, exec (.settStart p b k) s = .next u ∧ u = { s with out := u.out, line := u.line, regs := u.regs, setts := u.setts } ∧
         s.wordsKept u touched ∧ u.sett b k = { t with phase := .running, pc := s.get F.SETT_CTRL_start_pc [b, k] }) ∧
     (s.admits p .SETT_CTRL [b, k] (word 1) → t.phase = .halted →
       ∃ u, exec (.settStart p b k) s = .next u ∧ s.wordsKept u touched ∧ u.sett b k = { t with phase := .running }) ∧
     (s.admits p .SETT_CTRL [b, k] (word 2) → (t.phase = .running ∨ t.phase = .waiting) →
       ∃ u, exec (.settStop p b k) s = .next u ∧ u = { s with out := u.out, line := u.line, regs := u.regs, setts := u.setts } ∧
         s.wordsKept u touched ∧ u.sett b k = { t with phase := .stopped, cause := 5, wait := none, contended := false }) ∧
     (s.admits p .SETT_CTRL [b, k] (word 4) →
       ∃ u, exec (.settReset p b k) s = .next u ∧ ((u.sett b k).phase = if t.phase = .reset then .reset else .stopped) ∧ (u.sett b k).pc = 0 ∧ (u.sett b k).x = 0 ∧
         (u.sett b k).y = 0 ∧ (u.sett b k).inbox = [] ∧ (u.sett b k).outbox = [] ∧ (u.sett b k).edges = [] ∧
         (u.sett b k).cause = t.cause ∧ u.settLinesOf b k = 0) ∧
     (s.admits p .SETT_PROG [b, k, n] val → val < 2 ^ 32 →
       ∃ u, exec (.settProgWrite p b k n val) s = .next u ∧ u.rd .SETT_PROG [b, k, n] = val ∧
         s.regsOnly u (fun a => causeAddr a || a == Reg.SETT_PROG.addr [b, k, n])) ∧
     (s.admits p .SETT_INJECT [b, k] val → val < 2 ^ 32 → t.phase ≠ .reset → t.phase ≠ .trapped → t.inject = none →
       ∃ u, exec (.settInject p b k val) s = .next u ∧ s.settOnly u b k ∧ u.sett b k = { t with inject := some val }))

/-- GROUP_START, GROUP_STOP and GROUP_RESET (R178): every sett of the group masks takes the command, at once or, with
at_round, when GROUP_CMD_AT_ROUND comes. The mailboxes from outside (R196), the low word of a stamp (R189), and the
controller interrupt lines (R240). Where the spec leaves a reading or a choice, it takes the model's of log entries 7 and 17.
-/
def Obligations.SettGroupsAndMailboxes : Prop :=
  (∀ (s : State) (p : Path) (b : Nat), s.down .bench = false → b < 16 →
     (s.admits p .BNCH_GROUP_CMD [b] 1 → ∃ u, exec (.groupStart p b false) s = .next u ∧
       ∀ k, k ∈ s.groupSetts b → (s.sett b k).phase = .stopped →
         u.sett b k = { s.sett b k with phase := .running, pc := s.get F.SETT_CTRL_start_pc [b, k] }) ∧
     (s.admits p .BNCH_GROUP_CMD [b] 2 → ∃ u, exec (.groupStop p b false) s = .next u ∧
       ∀ k, k ∈ s.groupSetts b → (s.sett b k).phase = .running →
         u.sett b k = { s.sett b k with phase := .stopped, cause := 5, wait := none, contended := false }) ∧
     (s.admits p .BNCH_GROUP_CMD [b] 3 → (s.benchOf b).reloading = false → ∃ u, exec (.groupReset p b false) s = .next u ∧
       ∀ k, k ∈ s.groupSetts b → ((u.sett b k).phase = if (s.sett b k).phase = .reset then .reset else .stopped) ∧ (u.sett b k).x = 0 ∧
         u.settLinesOf b k = 0) ∧
     (s.admits p .BNCH_GROUP_CMD [b] 5 → ∃ u, exec (.groupStart p b true) s = .next u ∧ u.setts = s.setts ∧
       (u.benchOf b).atRound = some 1) ∧
     (s.admits p .BNCH_GROUP_CMD [b] 6 → ∃ u, exec (.groupStop p b true) s = .next u ∧ u.setts = s.setts ∧
       (u.benchOf b).atRound = some 2) ∧
     (s.admits p .BNCH_GROUP_CMD [b] 7 → ∃ u, exec (.groupReset p b true) s = .next u ∧ u.setts = s.setts ∧
       (u.benchOf b).atRound = some 3) ∧
     ((s.benchOf b).atRound = some 1 → ∃ u, exec (.groupCmdAtRound b) s = .next u ∧ (u.benchOf b).atRound = none ∧
       ∀ k, k ∈ s.groupSetts b → (s.sett b k).phase = .stopped →
         u.sett b k = { s.sett b k with phase := .running, pc := s.get F.SETT_CTRL_start_pc [b, k] }) ∧
     ((s.benchOf b).atRound = some 2 → ∃ u, exec (.groupCmdAtRound b) s = .next u ∧ (u.benchOf b).atRound = none ∧
       ∀ k, k ∈ s.groupSetts b → (s.sett b k).phase = .running →
         u.sett b k = { s.sett b k with phase := .stopped, cause := 5, wait := none, contended := false }) ∧
     ((s.benchOf b).atRound = some 3 → (s.benchOf b).reloading = false → ∃ u, exec (.groupCmdAtRound b) s = .next u ∧ (u.benchOf b).atRound = none ∧
       ∀ k, k ∈ s.groupSetts b → ((u.sett b k).phase = if (s.sett b k).phase = .reset then .reset else .stopped) ∧ (u.sett b k).x = 0 ∧
         u.settLinesOf b k = 0)) ∧
  (∀ (s : State) (p : Path) (b k : Nat), s.down .bench = false → b < 16 → k < 64 →
     let t := s.sett b k
     (∀ val, s.admits p .SETT_MBOX_IN [b, k] val → val < 2 ^ 32 → t.inbox.length < 4 →
       ∃ u, exec (.mboxInWrite p b k val) s = .next u ∧ s.settOnly u b k ∧ u.sett b k = { t with inbox := t.inbox ++ [val] } ∧
         u.out = acknowledged p (Reg.SETT_MBOX_IN.addr [b, k])) ∧
     (∀ v rest, s.admitsRead p .SETT_MBOX_OUT [b, k] → t.outbox = v :: rest →
       ∃ u, exec (.mboxOutRead p b k) s = .next u ∧ s.settOnly u b k ∧ u.sett b k = { t with outbox := rest } ∧
         u.out = [.readData p (Reg.SETT_MBOX_OUT.addr [b, k]) v]) ∧
     (s.admitsRead p .SETT_MBOX_OUT [b, k] → t.outbox = [] →
       ∃ u, exec (.mboxOutRead p b k) s = .next u ∧ u.setts = s.setts ∧ u.out = [.accessError p (Reg.SETT_MBOX_OUT.addr [b, k])]) ∧
     (s.admitsRead p .SETT_STAMP_LO [b, k] →
       ∃ u, exec (.stampLowRead p b k) s = .next u ∧ u.sett b k = { t with unread := false, missed := false } ∧
         u.out = [.readData p (Reg.SETT_STAMP_LO.addr [b, k]) ((stampWords t).1 &&& (2 ^ 32 - 1))]) ∧
     (∀ line, line < 16 → ∃ u, exec (.controllerIrqRaise b line true) s = .next u ∧ u.regs = s.regs ∧
       natBit (u.benchOf b).lines line = true ∧ natBit (u.sett b k).latches line = true ∧ (u.sett b k).pc = t.pc) ∧
     (∀ line, line < 16 → ∃ u, exec (.controllerIrqRaise b line false) s = .next u ∧ u.regs = s.regs ∧
       natBit (u.benchOf b).lines line = false ∧ (u.sett b k).latches = t.latches))

/-! ## Pins and port personalities -/

/-- PIN_EDGE (an outside driver puts a level on a ball, or lets it go to its pull) and IDLE_TIMEOUT_EXPIRY where no instance
uses the pin (R187 to R190, R233), and DESCRIPTOR_TABLE_WRITE after the lock (R250). Where the spec leaves a reading or a
choice, it takes the model's of log entries 5, 18 and 24. -/
def Obligations.PinEdges : Prop :=
  ∀ (s : State) (b pin : Nat), s.down .bench = false → b < 16 → pin < 64 →
    let t := s.sett b pin
    let rising (l : Bool) := l != s.is F.BNCH_PAD_invert [b, pin]
    (∀ l, (∀ i, i ∈ s.runningPorts b → s.roleOf b i pin = none) → s.pinDrive b pin (s.pinOf b pin) = none → (s.pinOf b pin).ball ≠ l → t.phase = .running →
      qualifies (s.get F.SETT_CTRL_stamp_edge [b, pin]) (rising l) = true →
      qualifies (s.get F.SETT_CTRL_cnt_edge [b, pin]) (rising l) = true →
      ∃ u, exec (.pinEdge b pin (some l)) s = .next u ∧ (u.pinOf b pin).ball = l ∧ u.floats b pin = false ∧
        (u.sett b pin).capture = some (s.captureNow b (rising l)) ∧ (u.sett b pin).unread = true ∧
        (u.sett b pin).missed = (t.missed || t.unread) ∧ (u.sett b pin).edgeCount = (t.edgeCount + 1) % 2 ^ 32) ∧
    ((∀ i, i ∈ s.runningPorts b → s.roleOf b i pin = none) → s.pinDrive b pin (s.pinOf b pin) = none →
      ∃ u, exec (.pinEdge b pin none) s = .next u ∧ (u.pinOf b pin).outside = none ∧
        (∀ l, s.padPull b pin = some l → u.floats b pin = false ∧ (u.pinOf b pin).ball = l) ∧
        (s.padPull b pin = none → u.floats b pin = true)) ∧
    (∀ target dur, (∀ i, i ∈ s.runningPorts b → s.rolePin b i 0 ≠ pin) → t.timeout = some (target, dur) → t.wait = none →
      ∃ u, exec (.idleTimeoutExpiry b pin) s = .next u ∧ s.settOnly u b pin ∧
        u.sett b pin = { t with timeout := none, flags := natSetBit t.flags 7 true }) ∧
    (∀ target dur x, (∀ i, i ∈ s.runningPorts b → s.rolePin b i 0 ≠ pin) → t.timeout = some (target, dur) → t.wait = some x → insOp x.word = 1 →
      natBit x.word 14 = true →
      ∃ u, exec (.idleTimeoutExpiry b pin) s = .next u ∧ s.settOnly u b pin ∧
        u.sett b pin = { t with timeout := none, flags := natSetBit t.flags 7 true, phase := x.back, wait := none, pc := target % 64 }) ∧
    (∀ p off val ix, off < 0x40000 → carries p .w32 (Reg.BNCH_PDT.addr [b, 0] + off) = true → s.pathClosed p = false →
      off % 4 = 0 → s.is F.CHIP_STATUS_cfg_locked = true → val < 2 ^ 32 →
      s.regAt (Reg.BNCH_PDT.addr [b, 0] + off) = some (.BNCH_PDT, ix) →
      s.judge p .BNCH_PDT ix (Reg.BNCH_PDT.addr [b, 0] + off) true val = none → p ≠ .loader →
      ∃ u, exec (.descriptorTableWrite p b off val) s = .next u ∧ u.leafSet 800 = true ∧ s.regsOnly u causeAddr) ∧
    (∀ p off val ix, off < 0x40000 → carries p .w32 (Reg.BNCH_PDT.addr [b, 0] + off) = true → s.pathClosed p = false →
      off % 4 = 0 → s.is F.CHIP_STATUS_cfg_locked = false → s.regAt (Reg.BNCH_PDT.addr [b, 0] + off) = some (.BNCH_PDT, ix) →
      ∃ u, exec (.descriptorTableWrite p b off val) s = .next u ∧ u.rd .BNCH_PDT ix = s.rd .BNCH_PDT ix ∧ u.ports = s.ports ∧
        u.out = (if postedPath p then [] else [.accessError p (Reg.BNCH_PDT.addr [b, 0] + off)]))

/-- Transmissions and outputs of a running instance (R257, R259 to R263, R273): the command at the front is taken, and what
leaves on the pins is its payload in the form of the personality; a result no I2C bus brings changes nothing.
SCHEDULED_EDGE_DUE for a signal an instance drives on its own (R192, R262, R266, R268, R274, R275): the edge that is due is
applied to its pin by the sett that owns it. Where the spec leaves a reading or a choice, it takes the model's of log entries
20, 21, 24 and 52. -/
def Obligations.PersonalityOutputs : Prop :=
  (∀ (s : State) (b k : Nat) (c : PortCmd) (rest : List PortCmd), s.down .bench = false → b < 16 →
     s.portRuns b k = true → (s.port b k).due = c :: rest →
     let now := s.now (s.domOfConsumer (.bench b))
     let records := s.get F.BNCH_PORT_CNT_records [b, k]
     (s.descCode b k = 0x01 → ∃ u, exec (.uartTransmit b k) s = .next u ∧ (u.port b k).due = rest ∧ u.regs = s.regs ∧
       let rate := s.descNum b k 16 4
       let de := natBit (s.descByte b k 24) 2
       let bitTime := unitsPerSec / rate
       let t := if c.t = 0 then now + (if de then bitTime else 0) else c.t
       let line := s.uartLine b k c.payload
       let stop := t + line.length * unitsPerSec / rate
       u.out = (if de then [.edge b k 2 (t - bitTime) true] else []) ++ [.bits b k 1 t line] ++
         (if de then [.edge b k 2 (stop + bitTime) false] else [])) ∧
     (∀ miso : List Nat, s.descCode b k = 0x02 → ∃ u, exec (.spiControllerTransaction b k miso) s = .next u ∧ (u.port b k).due = rest ∧
       (∃ more, u.out = .port b k now c.payload :: s.spiWires b k now c.payload ++ more) ∧
       u.get F.BNCH_PORT_CNT_records [b, k] = (records + 1) % 2 ^ 16) ∧
     (∀ r : I2cResult, s.descCode b k = 0x04 → s.i2cResultOk b k c r = false →
       exec (.i2cTransaction b k r) s = .next s.clearOut) ∧
     (∀ r : I2cResult, s.descCode b k = 0x04 → s.i2cResultOk b k c r = true →
       let clear : List I2cStep := if r.heldLow ∧ s.descByte b k 17 = 1 then [.clocks 9, .stop] else []
       let steps : List I2cStep := match r.status with
         | 0 => i2cSteps c.payload
         | 5 => []
         | _ => (i2cSteps c.payload).take r.done
       ∃ u, exec (.i2cTransaction b k r) s = .next u ∧ (u.port b k).due = rest ∧
       u.out.head? = some (.i2c b k now (clear ++ steps ++ [.stop])) ∧ u.get F.BNCH_PORT_CNT_records [b, k] = (records + 1) % 2 ^ 16) ∧
     (s.descCode b k = 0x05 → c.more = false → ∃ u, exec (.hdlcTransmit b k) s = .next u ∧ (u.port b k).due = rest ∧
       u.regs = s.regs ∧ u.out = [.bits b k 3 now (s.hdlcLine b k c.payload)]) ∧
     (let p := s.rolePin b k 0
      s.descCode b k = 0x0B → (s.port b k).failed = false → beAt c.payload 4 4 = 0 → s.driveEnabled b p = true →
       s.is F.BNCH_STATUS_out_of_service [b] = false → (s.pinOf b p).edgeAt ≠ some s.time.cycles →
       ∃ u, exec (.supervisedOutputCommand b k) s = .next u ∧ (u.port b k).due = rest ∧ (u.port b k).reported = false ∧
         (u.pinOf b p).enable = true ∧ (u.pinOf b p).out = natBit (byteAt c.payload 0) 0)) ∧
  (∀ (s : State) (b t k : Nat) (w : Wave) (lead : Bool) (i : Int) (at' : Nat), s.down .bench = false → b < 16 →
     (s.sett b t).edges = [] → s.wavesOf b t = [k] → (s.port b k).wave = some w → s.waveDue b k = some (lead, i, at') →
     let p := s.rolePin b k (s.waveRole b k)
     ∃ u, exec (.scheduledEdgeDue b t) s = .next u ∧ (u.port b k).wave = some { w with index := some i, high := lead } ∧
       (s.is F.BNCH_STATUS_out_of_service [b] = false → s.driveEnabled b p = true → (u.pinOf b p).out = (s.waveLevel b k == lead)))

/-- What running instances report (R257, R259, R267, R270, R271, R273): a record is counted, and the instance's state
changes. PERSONALITY_COMMAND and COMMAND_TIME_DUE (R249, R255): a sound record with time 0 is held for execution now, a timed
one waits for its time. Where the spec leaves a reading or a choice, it takes the model's of log entries 20 and 21. -/
def Obligations.PersonalityRecordsAndCommands : Prop :=
  (∀ (s : State) (b k : Nat), s.down .bench = false → b < 16 → s.portRuns b k = true →
     let p := s.port b k
     let recorded (u : State) : Prop :=
       u.get F.BNCH_PORT_CNT_records [b, k] = (s.get F.BNCH_PORT_CNT_records [b, k] + 1) % 2 ^ 16
     (s.descCode b k = 0x08 → p.pulseSeen = false → ∃ u, exec (.ppsWindowEnd b k) s = .next u ∧ recorded u) ∧
     (s.descCode b k = 0x08 → p.pulseSeen = true → ∃ u, exec (.ppsWindowEnd b k) s = .next u ∧ u.regs = s.regs ∧
       u.port b k = { p with pulseSeen := false }) ∧
     (s.descCode b k = 0x0A → p.active = true → p.blocked = false →
       ∃ u, exec (.debounceExpiry b k) s = .next u ∧ (u.port b k).accepted = !p.accepted ∧ (u.port b k).active = false ∧ recorded u) ∧
     (s.descCode b k = 0x0A → p.blocked = true →
       ∃ u, exec (.chatterQuietExpiry b k) s = .next u ∧ (u.port b k).blocked = false ∧
         u.get F.BNCH_PORT_STAT_state [b, k] = 1 ∧ recorded u) ∧
     (s.descCode b k = 0x0B → (s.readback b k != s.commanded b k) = true → p.reported = false →
       ∃ u, exec (.supervisionWindowExpiry b k) s = .next u ∧ (u.port b k).reported = true ∧ u.leafSet (32 * b + 12) = true ∧ recorded u) ∧
     (s.descCode b k = 0x01 → p.active = false → p.inFrame = true → p.units ≠ [] →
       ∃ u, exec (.uartGapEnd b k) s = .next u ∧ (u.port b k).inFrame = false ∧ (u.port b k).units = [] ∧ recorded u) ∧
     (s.descCode b k = 0x03 → p.active = true → p.units ≠ [] →
       ∃ u, exec (.spiTargetFrame b k) s = .next u ∧ (u.port b k).inFrame = false ∧ (u.port b k).active = false ∧
         (u.port b k).due = p.due ∧ recorded u) ∧
     (let pin := s.rolePin b k 0
      s.descCode b k = 0x05 → p.inFrame = true → (s.sett b pin).timeout.isSome = true →
       (∀ j, j ∈ s.runningPorts b → j ≠ k → s.rolePin b j 0 ≠ pin) →
       ∃ u, exec (.idleTimeoutExpiry b pin) s = .next u ∧ (u.port b k).inFrame = false ∧ (u.port b k).hunting = true ∧
         (u.sett b pin).timeout = none ∧ recorded u)) ∧
  (∀ (s : State) (b k c : Nat) (x : Cell) (s' : State), s.down .bench = false → b < 16 →
     let cell := x.bytes
     let payload := slice cell 16 (min (byteAt cell 3) 112)
     let now := s'.now (s'.domOfConsumer (.bench b))
     let time := beAt cell 6 6 * unitsPerSec + natBits (beAt cell 12 4) 29 0 * unitsPerNs + natBits (beAt cell 12 4) 31 30 * 2 ^ 37
     let cmd : PortCmd := { t := time, more := natBit (byteAt cell 1) 0, payload := payload }
     let takes : Prop := s.portRuns b k = true ∧ s.descEndpointValid b k = true ∧ s.descCode b k ≠ 0x0D
     let sound : Prop := byteAt cell 0 = s'.descCode b k ∧ beAt cell 4 2 = 0 ∧ byteAt cell 3 ≤ 112 ∧ natBits (beAt cell 12 4) 29 0 < 1000000000 ∧
       s'.payloadOk b k payload = true
     (takes → s.clearOut.dequeue (.personality b) (s.descEndpoint b k) c = (some x, s') → sound → time = 0 →
       ∃ u, exec (.personalityCommand b k c) s = .next u ∧ u.hop = s'.hop ∧ (u.port b k).due = (s'.port b k).due ++ [cmd] ∧
         (s'.descCode b k ≠ 0x04 → u.regs = s'.regs ∧ u.port b k = { s'.port b k with due := (s'.port b k).due ++ [cmd] })) ∧
     (takes → s.clearOut.dequeue (.personality b) (s.descEndpoint b k) c = (some x, s') → beAt cell 4 2 ≠ 0 →
       ∃ u, exec (.personalityCommand b k c) s = .next u ∧ (u.port b k).due = (s'.port b k).due ∧
         u.get F.BNCH_PORT_CNT_records [b, k] = (s'.get F.BNCH_PORT_CNT_records [b, k] + 1) % 2 ^ 16) ∧
     (takes → s.clearOut.dequeue (.personality b) (s.descEndpoint b k) c = (some x, s') → sound → now ≤ time → 0 < time →
       time ≤ now + 10 * unitsPerSec → ∃ u, exec (.personalityCommand b k c) s = .next u ∧ u.regs = s'.regs ∧ u.hop = s'.hop ∧
         u.port b k = { s'.port b k with timed := (s'.port b k).timed ++ [cmd] }) ∧
     (∃ u, exec (.commandTimeDue b k) s = .next u ∧ (s.descCode b k ≠ 0x04 → u.regs = s.regs) ∧
       ∀ y, y ∈ (s.port b k).timed →
         if y.t ≤ s.now (s.domOfConsumer (.bench b)) then y ∈ (u.port b k).due ∧ y ∉ (u.port b k).timed
         else y ∈ (u.port b k).timed))

/-! ## Hopper and host rings -/

/-- ENQUEUE and DEQUEUE (R308, R311, R317, R318): an accepted cell stands at the end of its queue, a refused one is counted,
and a dequeued cell is the oldest. Where the spec leaves a reading or a choice, it takes the model's of log entries 3 and 23.
-/
def Obligations.HopperQueues : Prop :=
  ∀ (s : State) (p : Producer) (q : Nat) (cell : List Byte), s.down .hopper = false → s.dying = false →
    let good (x : Cell) : Prop := x.bad = none
    (s.enqueueOutcome p q = .accepted → queueDest q ≠ s.hub → q < 2 ^ 20 →
      ∃ u x, exec (.enqueue p q cell) s = .next u ∧ u.out = [.enqueued q .accepted] ∧ u.regs = s.regs ∧
        (u.queue q).cells = (s.queue q).cells ++ [x] ∧ x.bytes = padTo 128 cell ∧ x.srcHub = s.hub ∧ x.srcEp = queueEp q ∧ good x ∧
        (∀ j, j ≠ q → u.queue j = s.queue j)) ∧
    (∀ c E, s.enqueueOutcome p q = .accepted → queueDest q = s.hub → s.intakeEntry s.hub (queueEp q) = some (c, E) →
      s.guardOf E = none →
      ∃ u x, exec (.enqueue p q cell) s = .next u ∧ u.out = [.enqueued q .accepted] ∧ u.regs = s.regs ∧
        (u.queue (s.intakeQueue E c)).cells = (s.queue (s.intakeQueue E c)).cells ++ [x] ∧ x.bytes = s.deliveredBytes cell ∧
        x.srcHub = s.hub ∧ x.srcEp = queueEp q ∧ good x) ∧
    (s.enqueueOutcome p q ≠ .accepted →
      ∃ u, exec (.enqueue p q cell) s = .next u ∧ u.out = [.enqueued q (s.enqueueOutcome p q)] ∧ u.regs = s.regs ∧
        (u.queue q).cells = (s.queue q).cells ∧ (u.queue q).refused = satInc (s.queue q).refused 255) ∧
    (∀ e c x y rest, s.consumes p e = true → s.frozen e = false → smGet s.grd.buffers e [] = [] →
      (s.queue (s.intakeQueue e c)).broken = false → (s.queue (s.intakeQueue e c)).cells = x :: y :: rest → good x → good y →
      ∃ u, exec (.dequeue p e c) s = .next u ∧ u.out = [.cell e c x.bytes x.srcHub x.srcEp] ∧ u.regs = s.regs ∧
        (u.queue (s.intakeQueue e c)).cells = y :: rest)

/-- The commands that maintain the hopper (R314, R325, R328 to R332). Where the spec leaves a reading or a choice, it takes
the model's of log entry 23. -/
def Obligations.HopperMaintenance : Prop :=
  ∀ (s : State) (p : Path) (k q val : Nat), s.down .hopper = false →
    (∃ u, exec (.heldClear k) s = .next u ∧ u.regs = s.regs ∧ natBit u.hop.heldHubs k = false ∧
      ∀ j, j ≠ k → natBit u.hop.heldHubs j = natBit s.hop.heldHubs j) ∧
    (∀ x ok, s.queueOfCell k = some q → (s.queue q).cells = [x] → x.index = k →
      ∃ u, exec (.cellEccError k ok) s = .next u ∧ (u.queue q).cells = [] ∧ u.leafSet 577 = true ∧
        u.hop.retired = s.hop.retired ++ (if ok then [] else [k]) ∧
        u.get F.HOP_DROP_CNT_lost = satInc (s.get F.HOP_DROP_CNT_lost) F.HOP_DROP_CNT_lost.top) ∧
    (∃ u, exec (.queueStateEccError q) s = .next u ∧ (u.queue q).broken = true ∧ u.is F.HOP_STATUS_broken = true ∧
      u.leafSet 579 = true ∧ u.chipFault = true) ∧
    (∃ u, exec .correctableEccError s = .next u ∧ s.regsOnly u (fun a => a == Reg.HOP_SCRUB_CTRL.addr []) ∧
      u.get F.HOP_SCRUB_CTRL_corrected = satInc (s.get F.HOP_SCRUB_CTRL_corrected) F.HOP_SCRUB_CTRL_corrected.top) ∧
    (k < 32 → val < 2 ^ 32 → s.admits p .HOP_EP_FREEZE [k] val →
      ∃ u, exec (.endpointFreezeWrite p k val) s = .next u ∧ u.rd .HOP_EP_FREEZE [k] = val ∧
        s.regsOnly u (fun a => causeAddr a || a == Reg.HOP_EP_FREEZE.addr [k])) ∧
    (q < 2 ^ 20 → s.admits p .HOP_QSNAP_SEL [] q →
      ∃ u, exec (.queueSnapshot p q) s = .next u ∧ u.readWord p .HOP_QSNAP_LO [] = s.queueState q % 2 ^ 32 ∧
        s.wordsKept u (fun a => causeAddr a || a == Reg.HOP_QSNAP_SEL.addr [])) ∧
    (s.admits p .HOP_SCRUB_CTRL [] (s.merged p .HOP_SCRUB_CTRL [] 1 1) → s.permits.held = [] → s.permits.waiting = [] →
      s.is F.PMT_STATUS_revoked = false → 3 ≤ s.get F.PMT_CFG_budget →
      ∃ u, exec (.scrubBurstRequest p) s = .next u ∧ u.permits.held = [(.scrub, 0)] ∧ u.is F.HOP_SCRUB_CTRL_burst_active = true) ∧
    (s.permits.held = [(.scrub, 0)] → s.permits.waiting = [] →
      ∃ u, exec .scrubBurstEnd s = .next u ∧ u.permits.held = [] ∧ u.leafSet 584 = true ∧
        u.is F.HOP_SCRUB_CTRL_burst_active = false ∧ u.is F.HOP_SCRUB_CTRL_burst = false)

/-- The host descriptor rings (R333 to R339). -/
def Obligations.HostRings : Prop :=
  ∀ (s : State) (p : Path) (r : Nat), s.down .hopper = false → r < 16 →
    let head := s.get F.HOP_HRING_HEAD_head [r]
    (∀ cfg, cfg < 2 ^ 31 → s.admits p .HOP_HRING_CFG [r] (natSetBit cfg 31 true) → s.is F.HOP_HRING_CFG_enable [r] = false →
      ∃ u, exec (.hostRingEnable p r cfg) s = .next u ∧ u.is F.HOP_HRING_CFG_enable [r] = true ∧
        u.rd .HOP_HRING_HEAD [r] = 0 ∧ u.rd .HOP_HRING_TAIL [r] = 0) ∧
    (s.admits p .HOP_HRING_CFG [r] (s.merged p .HOP_HRING_CFG [r] 0x80000000 0) →
      ∃ u, exec (.hostRingDisable p r) s = .next u ∧ u.is F.HOP_HRING_CFG_enable [r] = false ∧
        s.regsOnly u (fun a => causeAddr a || a == Reg.HOP_HRING_CFG.addr [r])) ∧
    (∀ tail, tail < 2 ^ 16 → s.admits p .HOP_HRING_TAIL [r] tail →
      (tail + 2 ^ 16 - head) % 2 ^ 16 ≤ 2 ^ s.get F.HOP_HRING_CFG_size_log2 [r] →
      ∃ u, exec (.hostRingTailWrite p r tail) s = .next u ∧ u.get F.HOP_HRING_TAIL_tail [r] = tail ∧
        s.regsOnly u (fun a => causeAddr a || a == Reg.HOP_HRING_TAIL.addr [r])) ∧
    (∀ desc buf, s.ringRuns r 0 = true →
      let res := if s.ringInReset r then EnqResult.full
        else (s.clearOut.enqueue (.hostRing r) (leAt desc 8 4 % 2 ^ 20) (padTo 128 buf)).1
      ∃ u, exec (.sendDescriptor r desc buf) s = .next u ∧ u.get F.HOP_HRING_HEAD_head [r] = (head + 1) % 2 ^ 16 ∧
        u.get F.HOP_HRING_HEAD_last_result [r] = sendResult res ∧
        u.out.getLast? = some (.hostWrite (s.ringDescAddr r + 12) (leBytes 4 (2 ^ 31 + sendResult res * 2 ^ 28)))) ∧
    (∀ desc e c x y rest, s.ringRuns r 1 = true → s.ringInReset r = false →
      (s.ringEndpoints r).find? s.guardedWaits = none → s.ringNext r = some (e, c) → (s.queue (s.intakeQueue e c)).cells = x :: y :: rest → x.bad = none → y.bad = none →
      ∃ u, exec (.receiveDescriptor r desc) s = .next u ∧ u.get F.HOP_HRING_HEAD_head [r] = (head + 1) % 2 ^ 16 ∧
        (u.queue (s.intakeQueue e c)).cells = y :: rest ∧
        u.out = [.hostWrite (leAt desc 0 8 / 128 * 128) x.bytes,
          .hostWrite (s.ringDescAddr r + 8)
            (leBytes 4 (s.intakeQueue e c) ++ leBytes 4 (2 ^ 31 + x.srcHub * 2 ^ 22 + x.srcEp * 2 ^ 12))]) ∧
    (∀ desc e h c bytes more, s.ringRuns r 1 = true → s.ringInReset r = false →
      (s.ringEndpoints r).find? s.guardedWaits = some e → smGet s.grd.buffers e [] = (h, c, bytes) :: more →
      ∃ u, exec (.receiveDescriptor r desc) s = .next u ∧ u.get F.HOP_HRING_HEAD_head [r] = (head + 1) % 2 ^ 16 ∧
        smGet u.grd.buffers e [] = more ∧ u.hop.queues = s.hop.queues ∧
        u.out = [.hostWrite (leAt desc 0 8 / 128 * 128) (padTo 128 bytes),
          .hostWrite (s.ringDescAddr r + 8) (leBytes 4 (s.intakeQueue e c) ++ leBytes 4 (2 ^ 31 + h * 2 ^ 22 + 0x3E1 * 2 ^ 12))]) ∧
    (∀ desc, s.ringRuns r 1 = true → s.ringInReset r = true →
      ∃ u, exec (.receiveDescriptor r desc) s = .next u ∧ u.get F.HOP_HRING_HEAD_head [r] = (head + 1) % 2 ^ 16 ∧
        u.get F.HOP_HRING_HEAD_last_result [r] = 1 ∧ u.grd = s.grd) ∧
    (∀ w : Bool, s.is F.HOP_HRING_CFG_enable [r] = true → s.ringPosted r ≠ 0 →
      ∃ u, exec (.hostMemoryError r false w) s = .next u ∧ u.is F.HOP_HRING_CFG_enable [r] = false ∧
        u.is F.HOP_HRING_HEAD_stopped [r] = true ∧ u.get F.HOP_HRING_HEAD_last_result [r] = 4 ∧ u.leafSet 583 = true) ∧
    (∀ (w : Bool) (e c : Nat) (x y : Cell) (rest : List Cell), s.is F.HOP_HRING_CFG_enable [r] = true → s.ringPosted r ≠ 0 → s.get F.HOP_HRING_CFG_dir [r] = 1 →
      (s.ringEndpoints r).find? s.guardedWaits = none → s.ringNext r = some (e, c) → (s.queue (s.intakeQueue e c)).cells = x :: y :: rest → x.bad = none → y.bad = none →
      ∃ u, exec (.hostMemoryError r true w) s = .next u ∧ u.is F.HOP_HRING_CFG_enable [r] = false ∧
        (u.queue (s.intakeQueue e c)).cells = y :: rest ∧ u.is F.HOP_HRING_HEAD_stopped [r] = true ∧
        u.get F.HOP_DROP_CNT_lost = satInc (s.get F.HOP_DROP_CNT_lost) F.HOP_DROP_CNT_lost.top)

/-! ## Time core and shot lines -/

/-- TIME_SNAPSHOT (R362), and the captures of PPS_IN_EDGE and CAPTURE_NOW (R386): both domains at one instant.
TIME_MEASUREMENT_WRITE (R36, R364, R365), SOURCE_LOSS_TIMEOUT and HOLD_TRACE_EXPIRY (R363). Where the spec leaves a reading
or a choice, it takes the model's of log entries 3 and 26. -/
def Obligations.TimeCapturesAndSources : Prop :=
  (∀ (s : State) (p : Path), s.down .timeCore = false →
     let captured (u : State) : Prop :=
       u.rd .TIME_CAP_NS [0] = quarterOf (s.now .a) * 2 ^ 30 + nsOf (s.now .a) ∧ u.rd .TIME_CAP_SEC [0] = secOf (s.now .a) % 2 ^ 32 ∧
         u.rd .TIME_CAP_NS [1] = quarterOf (s.now .b) * 2 ^ 30 + nsOf (s.now .b) ∧ u.rd .TIME_CAP_SEC [1] = secOf (s.now .b) % 2 ^ 32 ∧
         u.time.capUnread = true
     (s.admits p .TIME_SNAP [] 1 → ∃ u, exec (.timeSnapshot p) s = .next u ∧ u.snapOf (pathLatch p) 0 = s.now .a ∧
       u.snapOf (pathLatch p) 1 = s.now .b ∧ (∀ l, l ≠ pathLatch p → ∀ d, u.snapOf l d = s.snapOf l d)) ∧
     (s.get F.TIME_PPS_CFG_cap_src = 1 → ∃ u, exec (.ppsInEdge true) s = .next u ∧ captured u) ∧
     (s.get F.TIME_PPS_CFG_cap_src = 2 → ∃ u, exec (.ppsInEdge false) s = .next u ∧ captured u) ∧
     (s.get F.TIME_PPS_CFG_cap_src = 1 → exec (.ppsInEdge false) s = .next s.clearOut) ∧
     (s.admits p .TIME_PPS_CFG [] (s.merged p .TIME_PPS_CFG [] 0x8000000 0x8000000) →
       s.time.capMade ≠ some (s.time.cycles, true) → ∃ u, exec (.captureNow p) s = .next u ∧ captured u)) ∧
  (∀ (s : State) (p : Path) (d : Dom), s.down .timeCore = false → (d = .a → s.followsRing = false) →
     (∀ lo hi, lo < 2 ^ 32 → hi < 2 ^ 32 → s.admits p .TIME_MEAS_LO (domIx d) lo → s.admits p .TIME_MEAS_HI (domIx d) hi →
       s.src1 d = 3 →
       let theta := toSigned (lo + hi * 2 ^ 32) 64 * 2 ^ 15
       ∃ u, exec (.timeMeasurementWrite p d lo hi) s = .next u ∧ (u.dom d).theta = theta ∧ (u.dom d).measured = true ∧
         (u.dom d).fwValid = true ∧ u.rd .TIME_DOM_OFFSET (domIx d) = ofSigned (satSigned (theta / 256) 32) 32) ∧
     (s.src1 d = 3 → s.src2 d = 0 → s.domState d = 2 →
       ∃ u, exec (.sourceLossTimeout d false) s = .next u ∧ u.domState d = 3 ∧ (u.dom d).fwValid = false ∧
         u.leafSet (548 + domBit d) = true ∧
         u.traceable d = (s.traceable d && s.is F.TIME_DOM_CFG_hold_trace (domIx d))) ∧
     (s.domState d = 3 → ∃ u, exec (.holdTraceExpiry d) s = .next u ∧ u.traceable d = false ∧
       s.regsOnly u (fun a => a == Reg.TIME_DOM_STATUS.addr (domIx d))))

/-- DOMAIN_SELECT_APPLY and DOMAIN_AUTO_SWITCH (R375, R377), for a consumer of hub time with its number in range.
PPS_OUT_EDGE (R383) and TRIGGER_TICK (R387): the level of PPS_OUT, and a pulse of the event line that every wait on it sees.
LINK_DELAY_EXCHANGE and DELAY_CELL_RECEIVED (R372, R373): the stamps of the exchange, and RING_LINK_DELAY moved by one
sixteenth of the difference. Where the spec leaves a reading or a choice, it takes the model's of log entry 27. -/
def Obligations.TimeSelectionOutputsAndLinkDelay : Prop :=
  (∀ (s : State) (c : Consumer), s.down .timeCore = false →
     (match c with | .bench b => b < 16 | .ethPort m => m < 8 | .trigger k => k < 8 | _ => True) →
     (∀ d, s.time.selects.find? (fun e => e.1 == c) = some (c, d) →
       ∃ u, exec (.domainSelectApply c) s = .next u ∧ u.domOfConsumer c = d ∧
         (u.time.selects.find? fun e => e.1 == c) = none) ∧
     (let d := s.domOfConsumer c
      let o := otherDom d
      s.is F.TIME_SEL_auto = true → s.time.autoSwitched.contains c = false → s.traceable d = false → s.domState o = 2 → s.traceable o = true →
       ∃ u, exec (.domainAutoSwitch c) s = .next u ∧ u.domOfConsumer c = o ∧ u.leafSet 546 = true ∧
         u.time.autoSwitched.contains c = true) ∧
     (s.time.autoSwitched.contains c = true → exec (.domainAutoSwitch c) s = .next s.clearOut) ∧
     (s.is F.TIME_SEL_auto = false → exec (.domainAutoSwitch c) s = .next s.clearOut)) ∧
  (∀ (s : State) (k : Nat), s.down .timeCore = false →
     (s.is F.TIME_PPS_CFG_out_enable = true → s.domState (s.domOfConsumer .ppsOut) ≠ 0 →
       ∃ u, exec (.ppsOutEdge true) s = .next u ∧ u.time.ppsOut = true ∧ u.out = [.pps true] ∧ u.regs = s.regs) ∧
     (∃ u, exec (.ppsOutEdge false) s = .next u ∧ u.time.ppsOut = false ∧ u.out = [.pps false] ∧ u.regs = s.regs) ∧
     (k < 8 → s.is F.TIME_TRIG_CFG_enable [k] = true → s.triggerTimed k = true → ∃ u, exec (.triggerTick k) s = .next u ∧
       (s.is F.TIME_TRIG_CFG_irq [k] = true → u.leafSet (552 + k) = true) ∧
       (∀ b, (u.benchOf b).events = (s.benchOf b).events) ∧
       ∀ b m x, b < 16 → m < 64 → natBit (s.get F.TIME_TRIG_CFG_bench_mask [k]) b = true → (s.sett b m).wait = some x →
         insOp x.word = 1 → natBits x.word 19 16 = 5 → natBits x.word 3 0 = s.get F.TIME_TRIG_CFG_line [k] →
         natBit x.word 15 = true → (u.sett b m).wait = some { x with met := true })) ∧
  (∀ (s : State) (p : Side), s.down .timeCore = false →
     (∀ txAgo rxAgo, s.portUp p = true → s.is F.TIME_RING_CFG_refresh = true → s.is F.RING_PORT_STATUS_peer_valid [sideIx p] = true →
       ∃ u, exec (.linkDelayExchange p txAgo rxAgo) s = .next u ∧
         u.delayOf p = { second := secOf (s.now .a), tx := (s.now .a - txAgo) % unitsPerSec / 2 ^ 23,
                         rx := (s.now .a - rxAgo) % unitsPerSec / 2 ^ 23, waiting := true }) ∧
     (∀ c x s',
       let e := s.get F.TIME_RING_CFG_endpoint
       let o := s'.delayOf p
       let rx := beAt x.bytes 16 4 * 65536 + beAt x.bytes 20 2
       let tx := beAt x.bytes 24 4 * 65536 + beAt x.bytes 28 2
       let twice : Int := ((o.rx : Int) - o.tx) - ((tx : Int) - rx)
       s.delayClass e = some c →
       s.clearOut.dequeue .delayExchange e c = (some x, s') → byteAt x.bytes 0 = 0x7D →
       byteAt x.bytes 1 = (if p = .east then 1 else 0) → x.srcHub = s'.get F.RING_PORT_STATUS_peer_hub [sideIx p] →
       o.waiting = true → beAt x.bytes 8 6 = o.second → s'.portUp p = true →
       ∃ u, exec .delayCellReceived s = .next u ∧ (u.delayOf p).waiting = false ∧
         u.get F.RING_LINK_DELAY_link_delay [sideIx p] =
           (roundDiv (30 * s'.linkDelay16 p + twice) 8192).toNat % 2 ^ 24))

/-- SHOT_FW_DRIVE_WRITE, SHOT_STRETCH_END and SHOT_STALE_TIMEOUT (R158, R161, R163, R164, R167). Where the spec leaves a
reading or a choice, it takes the model's of log entry 16. -/
def Obligations.ShotLines : Prop :=
  ∀ (s : State) (p : Path) (i val : Nat), s.down .ring = false → i < 8 →
    (s.admits p .SHOT_FW_DRIVE [i] val → val < 2 ^ 32 → (val % 2 = 1 → s.is F.SHOT_LINE_CFG_fw_enable [i] = true) →
      ∃ u, exec (.shotFwDriveWrite p i val) s = .next u ∧ u.get F.SHOT_FW_DRIVE_assert [i] = val % 2 ∧
        s.wordsKept u (fun a => a == Reg.SHOT_FW_DRIVE.addr [i]) ∧
        (val % 2 = 1 → natBit u.shot.latchEg i = true ∧ natBit u.shot.latchWg i = true)) ∧
    (s.admits p .SHOT_FW_DRIVE [i] val → val < 2 ^ 32 → val % 2 = 1 → s.is F.SHOT_LINE_CFG_fw_enable [i] = false →
      ∃ u, exec (.shotFwDriveWrite p i val) s = .next u ∧ u.shot = s.shot ∧ u.leafSet 530 = true ∧ s.wordsKept u causeAddr) ∧
    (∃ u, exec (.shotStretchEnd i) s = .next u ∧ u.regs = s.regs ∧ natBit u.ownLines i = natBit s.ownDrive i ∧
      ∀ j, j ≠ i → natBit u.ownLines j = natBit s.ownLines j) ∧
    (∀ (d : Side) (h : Nat), h < 64 → h ≠ s.hub → s.copyCurrent (if d = .east then .west else .east) h = false →
      ∃ u, exec (.shotStaleTimeout d h) s = .next u ∧ u.is F.SHOT_IMAGE_stale [h] = true ∧
        u.get F.SHOT_IMAGE_entry [h] = s.get F.SHOT_IMAGE_entry [h] ∧ u.copyCurrent d h = false ∧
        (s.is F.SHOT_IMAGE_stale [h] = false →
          u.get F.SHOT_EVENTS_stale_events [h] = satInc (s.get F.SHOT_EVENTS_stale_events [h]) F.SHOT_EVENTS_stale_events.top)) ∧
    (∀ (d : Side) (h : Nat), h < 64 → h ≠ s.hub → s.copyCurrent (if d = .east then .west else .east) h = true →
      ∃ u, exec (.shotStaleTimeout d h) s = .next u ∧ u.is F.SHOT_IMAGE_stale [h] = false ∧
        u.get F.SHOT_IMAGE_entry [h] = (s.copyOf (if d = .east then .west else .east) h).entry % 2 ^ 16)

/-! ## Fabric bridge and register access -/

/-- FABRIC_WRITE_ISSUE and FABRIC_READ_ISSUE (R24, R25, R343, R344, R353): a fabric address of this hub is served locally, a
write to an integrated hub enters the posted-write buffer, and a read takes the lowest free tag and departs. Where the spec
leaves a reading or a choice, it takes the model's of log entry 25. -/
def Obligations.BridgeIssue : Prop :=
  ∀ (s : State) (p : Path) (h addr val : Nat), s.down .hopper = false → s.pathClosed p = false → issuer p = true → h < 256 → addr < 2 ^ 32 →
    let fa := h * 2 ^ 32 + addr
    (∀ w : Width, s.isLocal h = true → exec (.fabricWriteIssue p w fa val) s = .next (s.clearOut.busWrite p w addr val)) ∧
    (∀ w : Width, s.isLocal h = true → exec (.fabricReadIssue p w fa) s = .next (s.clearOut.busRead p w addr)) ∧
    (s.isLocal h = false → s.notReachable h = false → addr % 4 = 0 → s.brg.offers = [] → s.brg.waiting = [] →
      ∃ u, exec (.fabricWriteIssue p .w32 fa val) s = .next u ∧ u.regs = s.regs ∧ u.out = [] ∧
        u.brg.offers = [{ write := true, origin := .path p, hub := h, face := s.pathFace p, addr := addr, words := [val % 2 ^ 32],
                          since := s.time.cycles }]) ∧
    (s.isLocal h = false → s.notReachable h = true → s.is F.BRG_ACCESS_ERR_valid = false →
      ∃ u, exec (.fabricWriteIssue p .w32 fa val) s = .next u ∧ u.brg = s.brg ∧ u.leafSet 752 = true ∧
        u.rd .BRG_ACCESS_ERR [] = 2 ^ 31 + 3 * 2 ^ 24 + h % 64 * 2 ^ 14 + s.pathFace p % 16 * 2 ^ 9 ∧ u.rd .BRG_ACCESS_ADDR [] = addr) ∧
    (∀ t, s.isLocal h = false → s.notReachable h = false → addr % 4 = 0 → s.faceBusy (s.pathFace p) = false → s.dying = false →
      s.brg.offers = [] → s.brg.waiting = [] → s.freeTag = some t →
      s.enqueueOutcome .bridge (s.bridgeQueue h) = .accepted →
      let seq := s.get F.BRG_TX_SEQ_next [h]
      ∃ u, exec (.fabricReadIssue p .w32 fa) s = .next u ∧ u.brg.offers = [] ∧ u.get F.BRG_TX_SEQ_next [h] = (seq + 1) % 2 ^ 16 ∧
        u.tagOf t = { used := true, origin := .path p, hub := h, face := s.pathFace p, addr := addr, count := 1, seq := some seq,
                      since := s.time.cycles }) ∧
    (s.isLocal h = false → s.notReachable h = true →
      ∃ u, exec (.fabricReadIssue p .w32 fa) s = .next u ∧ u.brg = s.brg ∧ u.regs = s.regs ∧ u.out = [.accessError p fa])

/-- POSTED_WRITE_OFFER, POSTED_WRITE_TIMEOUT and READ_TIMEOUT (R345, R354). BRIDGE_CELL_APPLY, READ_REQUEST_APPLY and
READ_RESPONSE_RECEIVED (R346 to R350, R355): one-word cells in sequence. A write is applied as a write of its own path, a
read answered with the word read, and a response reaches the path that waits. Where the spec leaves a reading or a choice, it
takes the model's of log entry 25. -/
def Obligations.BridgeOffersAndCells : Prop :=
  (∀ (s : State) (o : BridgeOffer) (t : Nat), s.down .hopper = false → s.dying = false → s.brg.waiting = [] →
     (s.brg.offers = [o] → o.write = true → o.hub < 64 → o.hub ≠ s.hub →
       s.enqueueOutcome .bridge (s.bridgeQueue o.hub) = .accepted →
       ∃ u, exec .postedWriteOffer s = .next u ∧ u.brg.offers = [] ∧
         u.get F.BRG_TX_SEQ_next [o.hub] = (s.get F.BRG_TX_SEQ_next [o.hub] + 1) % 2 ^ 16 ∧
         ((u.queue (s.bridgeQueue o.hub)).cells.getLast?.map fun x => x.bytes) = some (padTo 128 (s.offerCell o))) ∧
     (s.brg.offers = [o] → o.write = true → o.hub < 64 → s.enqueueOutcome .bridge (s.bridgeQueue o.hub) = .full →
       ∃ u, exec .postedWriteOffer s = .next u ∧ u.brg.offers = [o]) ∧
     (s.brg.offers = [o] → o.write = true → o.hub < 64 → o.face < 16 → o.addr < 2 ^ 32 → s.is F.BRG_ACCESS_ERR_valid = false →
       ∃ u, exec (.postedWriteTimeout 0) s = .next u ∧ u.brg.offers = [] ∧ u.leafSet 752 = true ∧
         u.rd .BRG_ACCESS_ERR [] = 2 ^ 31 + 4 * 2 ^ 24 + o.hub * 2 ^ 14 + o.face * 2 ^ 9 ∧ u.rd .BRG_ACCESS_ADDR [] = o.addr) ∧
     (∀ p, t < 240 → s.brg.offers = [] → (s.tagOf t).used = true → (s.tagOf t).origin = .path p → (s.tagOf t).count = 1 →
       ∃ u, exec (.readTimeout t) s = .next u ∧ (u.tagOf t).used = false ∧ u.leafSet 754 = true ∧
         u.out = [.accessError p ((s.tagOf t).hub * 2 ^ 32 + (s.tagOf t).addr)] ∧
         u.get F.BRG_CNT_A_timeouts = satInc (s.get F.BRG_CNT_A_timeouts) F.BRG_CNT_A_timeouts.top)) ∧
  (∀ (s : State) (c : Cell), s.down .hopper = false →
     let s' := s.clearOut.bridgeTake
     let p := cellPath c
     let a := beAt c.bytes 8 4
     cellMalformed c.bytes = false → cellCount c.bytes = 1 → a % 4 = 0 →
     (∀ s1, s.bridgeFront (fun k => k != cellRead && k != cellResponse) = some c → s'.cellStream c = (true, s1) →
       ∃ u, exec .bridgeCellApply s = .next u ∧ u.regs = (s1.write32 p a (cellWord c.bytes 0)).2.regs ∧
         u.setts = (s1.write32 p a (cellWord c.bytes 0)).2.setts) ∧
     (∀ s1 s2 v, s.bridgeFront (· == cellRead) = some c → s'.cellStream c = (true, s1) → byteAt c.bytes 12 = 0x0F →
       s1.read32 p a = (some v, s2) → s2.dying = false → s2.enqueueOutcome .bridge (s2.bridgeQueue c.srcHub) = .accepted →
       c.srcHub < 64 → c.srcHub ≠ s2.hub →
       ∃ u x, exec .readRequestApply s = .next u ∧
         (u.queue (s2.bridgeQueue c.srcHub)).cells = (s2.queue (s2.bridgeQueue c.srcHub)).cells ++ [x] ∧
         x.bytes = padTo 128 (bridgeCell cellResponse (byteAt c.bytes 1 / 16) false 1 (byteAt c.bytes 3) (beAt c.bytes 4 2) a 0 0 0
           (byteAt c.bytes 16) [v])) ∧
     (let x := s'.tagOf (byteAt c.bytes 3)
      ∀ q, s.bridgeFront (· == cellResponse) = some c → x.used = true → x.hub = c.srcHub → x.seq = some (beAt c.bytes 4 2) →
       s'.faceBusy x.face = false → x.origin = .path q → x.count = 1 → byteAt c.bytes 13 = 0 → beAt c.bytes 14 2 = 0 →
       s'.brg.offers = [] → s'.brg.waiting = [] →
       ∃ u, exec .readResponseReceived s = .next u ∧ (u.tagOf (byteAt c.bytes 3)).used = false ∧
         u.out = [.readData q (x.hub * 2 ^ 32 + x.addr) (cellWord c.bytes 0)]) ∧
     (s.bridgeFront (· == cellResponse) = some c → (s'.tagOf (byteAt c.bytes 3)).used = false →
       ∃ u, exec .readResponseReceived s = .next u ∧ u.out = [] ∧
         u.get F.BRG_CNT_A_late = satInc (s'.get F.BRG_CNT_A_late) F.BRG_CNT_A_late.top))

/-- A 32-bit write and a 32-bit read on a path that carries them have the outcome of the register's own rules, and the path
gets its answer (R34); an access narrower or misaligned changes nothing but the refusal's record and leaf. Where the spec
leaves a reading or a choice, it takes the model's of log entry 7. -/
def Obligations.RegisterAccess : Prop :=
  ∀ (s : State) (p : Path) (r : Reg) (ix : List Nat) (v : Nat),
    let a := r.addr ix
    (∀ t : State, a % 4 = 0 → v < 2 ^ 32 → s.admits p r ix v → s.clearOut.writeReg p r ix v = some t →
      ∃ u, exec (.registerWrite p .w32 a v) s = .next u ∧ u = { t with out := u.out } ∧ u.out = t.out ++ acknowledged p a) ∧
    (∀ (x : Nat) (t : State), a % 4 = 0 → s.admitsRead p r ix → s.clearOut.readReg p r ix = some (x, t) →
      ∃ u, exec (.registerRead p .w32 a) s = .next u ∧ u = { t with out := u.out } ∧ u.out = t.out ++ [.readData p a x]) ∧
    (∀ (w : Width) (b : Nat), carries p w b = true → s.pathClosed p = false → (b % widthBytes w ≠ 0 ∨ widthBytes w < 4) →
      ∃ u, exec (.registerWrite p w b v) s = .next u ∧ s.regsOnly u (fun x => causeAddr x || (0x400010 ≤ x && x < 0x400018)) ∧
        u.out = (if postedPath p then [] else [.accessError p b])) ∧
    (∀ (w : Width) (b : Nat), carries p w b = true → s.pathClosed p = false → b % widthBytes w ≠ 0 →
      ∃ u, exec (.registerRead p w b) s = .next u ∧ s.regsOnly u causeAddr ∧ u.out = [.accessError p b]) ∧
    (∀ b : Nat, carries p .w32 b = true → s.pathClosed p = false → b % 4 = 0 → s.regAt b = none → s.islandHeld p b = false →
      (∃ u, exec (.registerRead p .w32 b) s = .next u ∧ s.regsOnly u causeAddr ∧ u.out = [.readData p b 0]) ∧
      ∃ u, exec (.registerWrite p .w32 b v) s = .next u ∧ s.regsOnly u causeAddr ∧ u.out = acknowledged p b)

/-- The designated pairs (R35, R36): the low word latches the high word for its path, and the high word read next is the
latched one; a low word written is held for its path, and a high word without it is refused. The PCI Express windows (R38 to
R40): a long transaction is its words in ascending order, and an access through BAR2 goes to the hub and page that
CHIP_FABRIC_PAGE names. Where the spec leaves a reading or a choice, it takes the model's of log entries 7 and 8. -/
def Obligations.RegisterPairsAndWindows : Prop :=
  (∀ (s : State) (p : Path) (lo hi : Reg) (ix : List Nat),
     (highOf lo = some hi → s.admitsRead p lo ix → lo.addr ix % 4 = 0 →
       ∃ u, exec (.pairLowRead p (lo.addr ix)) s = .next u ∧ (lo ≠ .SETT_STAMP_LO → lo ≠ .TIME_CAP_NS → u.regs = s.regs) ∧
         u.out = [.readData p (lo.addr ix) (s.readWord p lo ix)] ∧
         u.latched p (lo.addr ix) = some (s.readWord p hi ix) ∧
         ∀ q, pathLatch q ≠ pathLatch p → lo.addr ix < 2 ^ 32 → u.latched q (lo.addr ix) = s.latched q (lo.addr ix)) ∧
     (∀ v, lowOf hi = some lo → s.latched p (hi.addr ix - 4) = some v → s.admitsRead p hi ix → hi.addr ix % 4 = 0 →
       ∃ u, exec (.pairHighRead p (hi.addr ix)) s = .next u ∧ u.regs = s.regs ∧ u.out = [.readData p (hi.addr ix) v]) ∧
     (lowOf hi = some lo → s.latched p (hi.addr ix - 4) = none → s.admitsRead p hi ix → hi.addr ix % 4 = 0 →
       ∃ u, exec (.pairHighRead p (hi.addr ix)) s = .next u ∧ u.regs = s.regs ∧
         u.out = [.readData p (hi.addr ix) (s.readWord p hi ix)]) ∧
     (∀ (d : Dom) (v : Nat), v < 2 ^ 32 → s.admits p .TIME_MEAS_LO (domIx d) v →
       ∃ u, exec (.pairLowWrite p (Reg.TIME_MEAS_LO.addr (domIx d)) v) s = .next u ∧ u.regs = s.regs ∧ u.time = s.time ∧
         u.heldLow p (Reg.TIME_MEAS_LO.addr (domIx d)) = some v) ∧
     (∀ (d : Dom) (l v : Nat), l < 2 ^ 32 → v < 2 ^ 32 → s.admits p .TIME_MEAS_HI (domIx d) v →
       s.heldLow p (Reg.TIME_MEAS_LO.addr (domIx d)) = some l →
       ∃ u, exec (.pairHighWrite p (Reg.TIME_MEAS_HI.addr (domIx d)) v) s = .next u ∧ (u.dom d).fwValid = true ∧
         (u.dom d).seconds = roundDiv (toSigned (l + v * 2 ^ 32) 64 * 2 ^ 15) sec16 ∧
         ((d = .a → s.followsRing = false) → s.src1 d = 3 → (u.dom d).theta = toSigned (l + v * 2 ^ 32) 64 * 2 ^ 15) ∧ u.heldLow p (Reg.TIME_MEAS_LO.addr (domIx d)) = none) ∧
     (∀ (d : Dom) (v : Nat), v < 2 ^ 32 → s.admits p .TIME_MEAS_HI (domIx d) v → s.heldLow p (Reg.TIME_MEAS_LO.addr (domIx d)) = none →
       postedPath p = false → ∃ u, exec (.pairHighWrite p (Reg.TIME_MEAS_HI.addr (domIx d)) v) s = .next u ∧ u.time = s.time ∧
         u.out = [.accessError p (Reg.TIME_MEAS_HI.addr (domIx d))]) ∧
     (∀ (d : Dom) (v : Nat), v < 2 ^ 32 → s.admits p .TIME_MEAS_HI (domIx d) v → s.heldLow p (Reg.TIME_MEAS_LO.addr (domIx d)) = none →
       postedPath p = true → ∃ u, exec (.pairHighWrite p (Reg.TIME_MEAS_HI.addr (domIx d)) v) s = .next u ∧ u.time = s.time ∧ u.out = [])) ∧
  (∀ (s : State) (write : Bool) (w : Width) (addr val n : Nat) (data : List Nat), s.pathClosed .pcie = false →
     let hub := s.get F.CHIP_FABRIC_PAGE_hub
     let target := s.get F.CHIP_FABRIC_PAGE_page * 4096 + addr % 4096
     (s.isLocal hub = true → exec (.bar2Access write w addr val) s =
       .next (if write then s.clearOut.busWrite .pcie w target val else s.clearOut.busRead .pcie w target)) ∧
     (s.isLocal hub = false → write = true → s.notReachable hub = false → target % 4 = 0 → s.brg.offers = [] → s.brg.waiting = [] →
       ∃ u, exec (.bar2Access write .w32 addr val) s = .next u ∧
         u.brg.offers = [{ write := true, origin := .path .pcie, hub := hub, face := s.pathFace .pcie, addr := target, words := [val % 2 ^ 32],
                           since := s.time.cycles }]) ∧
     (exec (.pcieLongTransaction false write addr n data) s =
       .next ((List.range n).foldl (fun u k => if write then u.pathWrite .pcie .w32 (addr + 4 * k) (data.getD k 0)
         else u.pathRead .pcie .w32 (addr + 4 * k)) s.clearOut)) ∧
     (exec (.pcieLongTransaction true true addr n data) s =
       .next ((List.range n).foldl (fun u k => u.bar2 true .w32 (addr + 4 * k) (data.getD k 0)) s.clearOut)) ∧
     (s.isLocal hub = true → exec (.pcieLongTransaction true false addr n data) s =
       .next ((List.range n).foldl (fun u k => u.bar2Read (addr + 4 * k)) s.clearOut)) ∧
     (s.isLocal hub = false → exec (.pcieLongTransaction true false addr n data) s =
       .next (((List.range n).foldl (fun u k => u.bar2Read (addr + 4 * k)) s.clearOut).bridgeTurn false)))

/-- The management SPI target (R43 to R45): status byte and data, and no write without its fourth data byte. Where the spec
leaves a reading or a choice, it takes the model's of log entries 3 and 9. -/
def Obligations.SpiTarget : Prop :=
  ∀ (s : State) (addr v cmd : Nat), addr < 2 ^ 32 → addr % 4 = 0 →
    (∀ (x : Nat) (t : State), s.clearOut.read32 .spi addr = (some x, t) →
      ∃ u, exec (.spiRead addr) s = .next u ∧ u = { t with out := u.out } ∧ u.out = t.out ++ [.spi (0x5A :: beBytes 4 x)]) ∧
    (∀ t : State, s.clearOut.write32 .spi addr (v % 2 ^ 32) = (true, t) →
      ∃ u, exec (.spiWrite addr v) s = .next u ∧ u = { t with out := u.out } ∧ u.out = t.out ++ [.spi [0x5A]]) ∧
    (∀ t : State, s.clearOut.write32 .spi addr (v % 2 ^ 32) = (false, t) →
      ∃ u, exec (.spiWrite addr v) s = .next u ∧ u.out = t.out ++ [.spi [0xE1]]) ∧
    (cmd ≠ 0x0B → cmd ≠ 0x02 → ∃ u, exec (.spiOtherCommand cmd) s = .next u ∧ u.leafSet 820 = true ∧ s.regsOnly u causeAddr) ∧
    (∀ n, n < 4 → exec (.spiCsRelease true 4 addr n v) s = .next s.clearOut) ∧
    (∀ t : State, s.clearOut.write32 .spi addr (v % 2 ^ 32) = (true, t) → exec (.spiCsRelease true 4 addr 4 v) s = .next t) ∧
    (∀ (write : Bool) (k n : Nat), k < 4 → exec (.spiCsRelease write k addr n v) s = .next s.clearOut) ∧
    (∀ (r : Reg) (ix : List Nat) (x : Option Nat) (t : State) (n : Nat), s.edge.held = false → s.regAt addr = some (r, ix) →
      s.clearOut.read32 .spi addr = (x, t) →
      exec (.spiCsRelease false 4 addr n v) s = .next (if readSideEffects r then t else s.clearOut))

/-! ## Ring -/

/-- SIGNAL_DETECT, CDR_LOCK, BLOCK_LOCK, DESKEW_COMPLETE and TRAINING_TIMEOUT (R54 to R57, R564): the states of training of
one port, its permit, and what the end of training leaves. No other request for a permit waits. BLOCK_LOCK_LOSS,
LOSS_OF_SIGNAL, REMOTE_FAULT_RECEIVED and PORT_DOWN_TIMEOUT (R58, R82, R92, R93, R116): a port that has trained is declared
down, remote fault leaves by it, and an integrated hub becomes head of the line of the direction that arrived by it. Where
the spec leaves a reading or a choice, it takes the model's of log entries 11 and 12. -/
def Obligations.RingTrainingAndBreaks : Prop :=
  (∀ (s : State) (p : Side), s.down .ring = false →
     let ix := sideIx p
     let portWord (a : Nat) : Bool := a == Reg.RING_PORT_STATUS.addr [ix]
     (s.portEnabled p = true → (s.portState p = 0 ∨ s.portState p = 7) → s.get F.CFG_STATUS_state ≠ 5 →
       ∃ u, exec (.signalDetect p) s = .next u ∧ s.regsOnly u portWord ∧ u.portState p = 1 ∧
         u.get F.RING_PORT_STATUS_retrain_count [ix] = satInc (s.get F.RING_PORT_STATUS_retrain_count [ix]) 127) ∧
     (s.portEnabled p = true → (s.portState p = 0 ∨ s.portState p = 7) → s.get F.CFG_STATUS_state = 5 →
       s.permits.waiting = [] → s.permitHeld .serdes ix = false → s.permitFits .serdes = true → s.is F.PMT_STATUS_revoked = false →
       ∃ u, exec (.signalDetect p) s = .next u ∧ s.wordsKept u portWord ∧ u.portState p = 1 ∧
         u.permits.held = s.permits.held ++ [(.serdes, ix)]) ∧
     (s.portState p = 1 → s.permitHeld .serdes ix = true →
       ∃ u, exec (.cdrLock p) s = .next u ∧ s.regsOnly u portWord ∧ u.portState p = 2) ∧
     (s.portState p = 1 → s.permitHeld .serdes ix = false → exec (.cdrLock p) s = .next s.clearOut) ∧
     (s.portState p = 2 → ∃ u, exec (.blockLock p) s = .next u ∧ s.regsOnly u portWord ∧ u.portState p = 3) ∧
     (∀ (swap : Bool) (polInv skew roundTrip : Nat), s.portState p = 3 → s.permits.waiting = [] →
       polInv < 4 → skew < 1024 → roundTrip < 2 ^ 25 → (toSigned skew 10).natAbs ≤ 320 →
       ∃ u, exec (.deskewComplete p swap polInv skew roundTrip) s = .next u ∧
         s.wordsKept u (fun a => portWord a || a == Reg.RING_LINK_DELAY.addr [ix]) ∧ u.portState p = 4 ∧
         u.is F.RING_PORT_STATUS_lane_swap [ix] = swap ∧ u.get F.RING_PORT_STATUS_pol_inv [ix] = polInv ∧
         u.get F.RING_PORT_STATUS_skew [ix] = skew ∧ u.get F.RING_LINK_DELAY_link_delay [ix] = roundTrip / 2 ∧
         u.hello p = {} ∧ u.permits.held = s.permits.held.erase (.serdes, ix)) ∧
     (∀ (swap : Bool) (polInv skew roundTrip : Nat), s.portState p = 3 → s.permits.waiting = [] → 320 < (toSigned skew 10).natAbs →
       ∃ u, exec (.deskewComplete p swap polInv skew roundTrip) s = .next u ∧ u.portState p = 0 ∧ u.leafSet (portLeaf p 1) = true ∧
         u.permits.held = s.permits.held.erase (.serdes, ix)) ∧
     (1 ≤ s.portState p → s.portState p ≤ 3 → s.permitHeld .serdes ix = true → s.permits.waiting = [] →
       ∃ u, exec (.trainingTimeout p) s = .next u ∧ u.portState p = 0 ∧ u.leafSet (portLeaf p 1) = true ∧
         s.wordsKept u (fun a => portWord a || causeAddr a) ∧ u.permits.held = s.permits.held.erase (.serdes, ix))) ∧
  (∀ (s : State) (p : Side), s.down .ring = false →
     let down (u : State) : Prop :=
       u.portState p = 7 ∧ u.leafSet (portLeaf p 0) = true ∧ u.out = [.control p (blockOf remoteFault)] ∧ u.hello p = {} ∧
         (if p = .east then u.is F.RING_STATUS_east_up else u.is F.RING_STATUS_west_up) = false ∧
         u.is F.RING_PORT_STATUS_peer_valid [sideIx p] = false ∧
         (s.integrated = true → u.isHead (rxPort p) = true ∧ u.get F.RING_STATUS_mode = 2)
     (4 ≤ s.portState p → s.portState p ≤ 6 →
       (∃ u, exec (.blockLockLoss p) s = .next u ∧ down u) ∧ (∃ u, exec (.lossOfSignal p) s = .next u ∧ down u)) ∧
     (1 ≤ s.portState p → s.portState p ≤ 3 →
       ∃ u, exec (.blockLockLoss p) s = .next u ∧ exec (.lossOfSignal p) s = .next u ∧ u.portState p = 0 ∧
         s.regsOnly u (fun a => a == Reg.RING_PORT_STATUS.addr [sideIx p])) ∧
     (4 ≤ s.portState p → s.portState p ≤ 6 → ∃ u, exec (.remoteFaultReceived p) s = .next u ∧ down u) ∧
     (s.portState p = 6 → (s.hello p).headerSeen = true → ∃ u, exec (.portDownTimeout p) s = .next u ∧ down u) ∧
     (s.portState p = 6 → (s.hello p).headerSeen = false → exec (.portDownTimeout p) s = .next s.clearOut))

/-- HELLO_SEND and HELLO_RECEIVED (R55, R110 to R112): the first of them begins the hello of a deskewed port, idle blocks
fill the microsecond between two hellos, and three acks sent and three received bring the port up; a block that does not fit
this hub is refused with its counter and its leaf, once. A master that had lost both ports gives up mastership to its backups
before its first port is up again (R135). LISTEN_WINDOW_END, BACKOFF_END, CONTEND_SEND, CONTEND_RECEIVED and
CONTENTION_WINDOW_END (R118 to R122): the phases of a cold start, the contend blocks, and the winner. Where the spec leaves a
reading or a choice, it takes the model's of log entry 13. -/
def Obligations.RingHelloAndColdStart : Prop :=
  (∀ (s : State) (p : Side) (blk : Block), s.down .ring = false → (s.portState p = 4 ∨ s.portState p = 5) →
     let x := s.hello p
     let w := blk.toNat
     let sent (ack : Bool) : List Out := [.control p (blockOf (helloBlock s.hub (s.get F.RING_CTRL_round_len) ack)), .idles p 799]
     let inHello (u : State) : Prop :=
       u.portState p = 5 ∧ s.wordsKept u (fun a => a == Reg.RING_PORT_STATUS.addr [sideIx p])
     let lapses : Bool := s.ring.lapsing
     let isUp (u : State) : Prop :=
       u.portState p = 6 ∧ (if p = .east then u.is F.RING_STATUS_east_up else u.is F.RING_STATUS_west_up) = true ∧
         (lapses = true → u.phase = 4 ∧ u.isMaster = false ∧ u.integrated = false) ∧
         (lapses = false → s.phase = 0 → u.phase = if s.is F.RING_START_CTRL_cold_start then 1 else 4) ∧
         (lapses = false → s.phase ≠ 0 → u.phase = s.phase)
     (x.compatible = false → ∃ u, exec (.helloSend p) s = .next u ∧ u.out = sent false ∧ inHello u ∧
       u.hello p = { x with txAcks := 0 }) ∧
     (x.compatible = true → x.rxAcks < 3 → ∃ u, exec (.helloSend p) s = .next u ∧ u.out = sent true ∧ inHello u ∧
       u.hello p = { x with txAcks := satInc x.txAcks 3 }) ∧
     (x.compatible = true → 3 ≤ x.rxAcks → 2 ≤ x.txAcks → ∃ u, exec (.helloSend p) s = .next u ∧ u.out = sent true ∧ isUp u) ∧
     (controlSound w 0xB6 = true → s.helloRefusal w = none → natBit w 35 = true → 2 ≤ x.rxAcks → 3 ≤ x.txAcks →
       ∃ u, exec (.helloReceived p blk) s = .next u ∧ isUp u ∧ u.out = [] ∧
         u.get F.RING_PORT_STATUS_peer_hub [sideIx p] = natBits w 55 50 ∧ u.is F.RING_PORT_STATUS_peer_valid [sideIx p] = true) ∧
     (∀ cnt : Fld, controlSound w 0xB6 = true → s.helloRefusal w = some cnt → x.refused = false →
       ∃ u, exec (.helloReceived p blk) s = .next u ∧ u.portState p = 5 ∧ u.get cnt = satInc (s.get cnt) 255 ∧
         u.leafSet (portLeaf p 2) = true ∧ u.hello p = { x with compatible := false, rxAcks := 0, txAcks := 0, refused := true }) ∧
     (controlSound w 0xB6 = false → ∃ u, exec (.helloReceived p blk) s = .next u ∧ inHello u ∧
       u.hello p = { x with rxAcks := 0 })) ∧
  (∀ (s : State) (p : Side) (blk : Block), s.down .ring = false →
     let w := blk.toNat
     let pair := natBits w 49 46 * 64 + natBits w 55 50
     let phaseWord (a : Nat) : Bool := a == Reg.RING_START_STATUS.addr []
     (s.phase = 1 → ∃ u, exec .listenWindowEnd s = .next u ∧ u.phase = 2 ∧ s.regsOnly u phaseWord) ∧
     (s.phase = 2 → ∃ u, exec .backoffEnd s = .next u ∧ u.phase = 3 ∧ u.get F.RING_START_STATUS_best_candidate = s.hub % 64 ∧
       s.wordsKept u phaseWord ∧ u.ring = { s.ring with bestSeen := some (s.ownPair, s.now .a) }) ∧
     (s.phase = 3 → s.portUp .east = true → s.portUp .west = true →
       let b := blockOf (contendBlock s.hub (s.get F.RING_START_CTRL_rank))
       ∃ u, exec .contendSend s = .next u ∧ u.out = [.control .east b, .control .west b] ∧ u.regs = s.regs) ∧
     (s.portUp p = true → controlSound w 0xB7 = true → s.lowerContend pair = false → s.portUp (otherSide p) = true →
       ∃ u, exec (.contendReceived p blk) s = .next u ∧ u.out = [.control (otherSide p) blk] ∧
         (s.lowerPair s.ring.bestSeen pair = false → u.get F.RING_START_STATUS_best_candidate = natBits w 55 50) ∧
         s.wordsKept u phaseWord ∧
         (s.phase = 2 ∨ s.phase = 3 → u.phase = if pair < s.ownPair then 4 else s.phase)) ∧
     (s.portUp p = true → controlSound w 0xB7 = true → (s.lowerContend pair = true ∨ s.portUp (otherSide p) = false) →
       ∃ u, exec (.contendReceived p blk) s = .next u ∧ u.out = [] ∧ s.wordsKept u phaseWord ∧
         (s.phase = 2 ∨ s.phase = 3 → u.phase = if pair < s.ownPair then 4 else s.phase)) ∧
     (s.phase = 3 → ∃ u, exec .contentionWindowEnd s = .next u ∧ u.phase = 6 ∧ u.isMaster = true ∧
       u.get F.RING_STATUS_master_hub = s.hub % 64 ∧ u.ring.starting = true ∧ u.leafSet (ringLeaf 22) = true ∧
       u.round = s.now16 .a / s.round16 % 2 ^ 64))

/-- MASTER_LOST, BACKUP_TAKEOVER and HANDOFF (R133, R134, R136). TRANSIT_ONLY_WRITE, REACH_TIMEOUT, SILENT_TURN_END and
SPARE_REQUEST_TIMEOUT (R108, R109, R126, R148, R163, R611). Where the spec leaves a reading or a choice, it takes the model's
of log entry 15. -/
def Obligations.RingMastershipAndUpkeep : Prop :=
  (∀ (s : State) (p : Path), s.down .ring = false →
     (s.followsRing = true → s.get F.RING_START_STATUS_backup_pos ≠ 0 → 3 ≤ s.ring.refMissing → s.ring.lossRounds = none →
       ∃ u, exec .masterLost s = .next u ∧ u.ring = { s.ring with lossRounds := some 0 } ∧ u.regs = s.regs) ∧
     (∀ n, s.ring.lossRounds = some n → s.get F.RING_START_STATUS_backup_pos ≤ n + 1 →
       ∃ u, exec .backupTakeover s = .next u ∧ u.isMaster = true ∧ u.get F.RING_STATUS_master_hub = s.hub % 64 ∧
         u.get F.RING_START_STATUS_backup_pos = 0 ∧ (s.get F.RING_STATUS_mode = 1 → u.get F.RING_STATUS_mode = 2) ∧ u.is F.RING_START_STATUS_no_master = false ∧
         u.leafSet (ringLeaf 22) = true ∧ u.ring.lossRounds = none ∧ u.ring.originated = true) ∧
     (∀ n, s.ring.lossRounds = some n → n + 1 < s.get F.RING_START_STATUS_backup_pos →
       exec .backupTakeover s = .next s.clearOut) ∧
     (s.admits p .RING_START_CTRL [] (s.merged p .RING_START_CTRL [] 0x100 0x100) → s.isMaster = true →
       (∀ (h : Nat) (hs : List Nat), s.ring.backups = h :: hs → h < 64 → natBit s.ring.handoffWord 63 = false →
         ∃ u, exec (.handoff p) s = .next u ∧
           u.ring = { s.ring with handoffWord := 2 ^ 63 + h * 2 ^ 56 + (s.round + 5) % 2 ^ 48 }) ∧
       (s.ring.backups = [] → ∃ u, exec (.handoff p) s = .next u ∧ u.ring = s.ring ∧ u.leafSet (ringLeaf 18) = true))) ∧
  (∀ (s : State) (p : Path), s.down .ring = false →
     (∀ on : Bool, s.admits p .RING_CTRL [] (s.merged p .RING_CTRL [] 0x80 (b2n on * 0x80)) → s.isMaster = false →
       ∃ u, exec (.transitOnlyWrite p on) s = .next u ∧ u.is F.RING_CTRL_transit_only = on ∧
         s.wordsKept u (fun a => a == Reg.RING_CTRL.addr [] || causeAddr a)) ∧
     (s.admits p .RING_CTRL [] (s.merged p .RING_CTRL [] 0x80 0x80) → s.isMaster = true →
       ∃ u, exec (.transitOnlyWrite p true) s = .next u ∧ s.wordsKept u causeAddr ∧ u.leafSet (ringLeaf 18) = true) ∧
     (∀ (d : Side) (h : Nat), h < 64 → ∃ u, exec (.reachTimeout d h) s = .next u ∧
       (if d = .east then u.is F.RING_REACH_eg_reach [h] else u.is F.RING_REACH_wg_reach [h]) = false ∧
       (if d = .east then u.is F.RING_REACH_wg_reach [h] else u.is F.RING_REACH_eg_reach [h]) =
         (if d = .east then s.is F.RING_REACH_wg_reach [h] else s.is F.RING_REACH_eg_reach [h])) ∧
     (s.phase = 5 → s.ring.silentLeft = 0 → ∃ u, exec .silentTurnEnd s = .next u ∧ u.phase = 6 ∧
       s.regsOnly u (fun a => a == Reg.RING_START_STATUS.addr [])) ∧
     (∀ n, s.ring.spareRounds = some n → 8 ≤ n → s.get F.RING_SPARE_STATUS_state = 1 →
       ∃ u, exec .spareRequestTimeout s = .next u ∧ u.ring = { s.ring with spareIndex := s.ring.spareIndex + 1, spareRounds := none } ∧
         u.get F.RING_SPARE_STATUS_state = (if s.ring.spareIndex + 1 < s.preferredList.length then 0 else 3) ∧
         (s.preferredList.length ≤ s.ring.spareIndex + 1 → u.leafSet (ringLeaf 20) = true)))

/-- SLOT_START, SLOT_ARRIVAL and SLOT_CUT (R62, R65, R66, R69, R70, R82, R86, R89, R92, R96, R105): what a head of the line
sends in a position of another hub and the master in its own, the blank slot of a padding master to which nothing has come,
one slot less of an inserted run, the counters of a received slot, and the slot that leaves again with this hub's shot entry
and block 97 renewed. Where the spec leaves a reading or a choice, it takes the model's of log entries 14, 16 and 51. -/
def Obligations.RingSlots : Prop :=
  ∀ (s : State) (d : Side) (blks : List Block), s.down .ring = false →
    let rx := rxPort d
    let h := headerOf (blk blks 0)
    let renewed (bs : List Block) (trust : Nat) (missing : Bool) : Nat :=
      if missing then 0 else block97 (correctionOf (blk bs 97) + (s.hopTime d : Int)) (hopsOf (blk bs 97) + 1) trust
    let whole := (blks ++ List.replicate 100 0).take 100
    let begins (n : Nat) : Prop :=
      s.integrated = true ∧ n < s.slotsPerDir ∧ (s.rdir d).runLeft = 0 ∧ (s.rdir d).runIdle = 0 ∧ (s.rdir d).afterRun = false ∧
        s.portUp d = true ∧ ((n ≠ 2 ∧ n ≠ 3) ∨ (s.rdir d).passed.contains (n - 1) = true)
    let passes : Prop := s.portUp rx = true ∧ s.portUp d = true ∧ s.isHead d = false ∧ (s.isMaster = true → s.isPadding d = false) ∧
      headerValid (blk blks 0) (s.get F.RING_CTRL_round_len) = true ∧ s.ownsArrived d h = false ∧ s.isRunSlot d h = false ∧
      s.comeRound h = false
    (∀ n, begins n → s.isHead d = true → s.ownsSlot d n = false → 1 ≤ n →
      s.relayFor d n = none → ∃ u, exec (.slotStart d n) s = .next u ∧
        u.out = [.slot d (slotOf (s.headerFor d n false false (!s.isMaster)).block (s.ownShots d) (zeros 640) (block97 0 0 63) 0)] ∧
        u.regs = s.regs) ∧
    (∀ n spare, begins n → s.isHead d = true → 3 ≤ n → s.slotEntry d n = (s.hub, 1, spare) → s.mayWrite d = true → s.dying = false →
      s.keptFill d n = none →
      let r := s.clearOut.applyFreeze.fillPositions (s.slotFace d n) (some d) 5
      ∃ u, exec (.slotStart d n) s = .next u ∧ u.hop.queues = r.2.2.hop.queues ∧
        u.out = [.slot d (slotOf (s.headerFor d n r.2.1 false (!s.isMaster)).block (s.ownShots d) r.1 (block97 0 0 63)
          (if r.2.1 then s.round else 0))]) ∧
    (∀ n, begins n → s.isHead d = false → s.isMaster = true → s.isPadding d = true → s.ownsSlot d n = false → 1 ≤ n →
      smGet (s.rdir d).padBuffer n [] = [] → ∃ u, exec (.slotStart d n) s = .next u ∧
        u.out = [.slot d (slotOf (s.headerFor d n false false false true).block (s.padShots d).1 (zeros 640)
          (block97 0 0 (s.padShots d).2) 0)] ∧ u.regs = s.regs) ∧
    (begins 0 → s.isHead d = true → s.isMaster = true → s.quiet d = false →
      ∃ u, exec (.slotStart d 0) s = .next u ∧
        u.out = [.slot d (slotOf (s.headerFor d 0 true false false).block (s.ownShots d) (s.refPayload (s.emitTime d))
          (block97 0 0 63) s.round)] ∧ u.regs = s.regs ∧ u.ring.originated = true) ∧
    (∀ n, s.integrated = true → n < s.slotsPerDir → 0 < (s.rdir d).runLeft →
      ∃ u, exec (.slotStart d n) s = .next u ∧ (u.rdir d).runLeft = (s.rdir d).runLeft - 1 ∧ u.regs = s.regs) ∧
    (s.portUp rx = false → exec (.slotArrival d blks) s = .next s.clearOut ∧ exec (.slotCut d blks) s = .next s.clearOut) ∧
    (s.portUp rx = true → headerValid (blk blks 0) (s.get F.RING_CTRL_round_len) = false →
      ∃ u, exec (.slotArrival d blks) s = .next u ∧ u.leafSet (portLeaf rx 3) = true ∧
        u.get F.RING_ERRCNT_hdr_bad [sideIx rx] = satInc (s.get F.RING_ERRCNT_hdr_bad [sideIx rx]) 255 ∧
        (u.rdir d).lastReceived = some (s.nextPosition d)) ∧
    (passes → poisoned blks = true → ∃ u, exec (.slotArrival d blks) s = .next u ∧ u.leafSet (portLeaf rx 6) = true ∧
      u.get F.RING_ERRCNT_cut [sideIx rx] = satInc (s.get F.RING_ERRCNT_cut [sideIx rx]) 255 ∧ (u.rdir d).lastReceived = some h.slot ∧
      u.out = [.slot d (slotOf (blk blks 0) (setEntry (slotShots blks) s.hub (s.ownEntry d)) (slotPayload blks) (renewed blks 1 false)
        (trailerSeq blks) 0xFFFFFFFF true)]) ∧
    (passes → poisoned blks = false → crcOk blks = false → shotOk blks = false →
      ∃ u, exec (.slotArrival d blks) s = .next u ∧ u.leafSet (portLeaf rx 4) = true ∧ u.leafSet (portLeaf rx 5) = true ∧
        u.get F.RING_ERRCNT_crc_bad [sideIx rx] = satInc (s.get F.RING_ERRCNT_crc_bad [sideIx rx]) 255 ∧
        u.get F.RING_ERRCNT_shot_bad [sideIx rx] = satInc (s.get F.RING_ERRCNT_shot_bad [sideIx rx]) 255 ∧
        u.out = [.slot d (slotOf (blk blks 0) (setEntry (slotShots blks) s.hub (s.ownEntry d)) (slotPayload blks) (renewed blks 1 false)
          (trailerSeq blks) (trailerCrc blks ^^^ slotCrc blks))]) ∧
    (passes → crcOk blks = true → shotOk blks = true → h.payloadValid = false →
      ∃ u rest, exec (.slotArrival d blks) s = .next u ∧ (u.rdir d).lastReceived = some h.slot ∧
        u.out = .slot d (slotOf (blk blks 0) (setEntry (slotShots blks) s.hub (s.ownEntry d)) (slotPayload blks)
          (renewed blks (min (trustOf (blk blks 97) + 1) 63) false) (trailerSeq blks)) :: rest) ∧
    (passes → blks ≠ [] → ∃ u, exec (.slotCut d blks) s = .next u ∧ u.leafSet (portLeaf rx 6) = true ∧
      u.get F.RING_ERRCNT_cut [sideIx rx] = satInc (s.get F.RING_ERRCNT_cut [sideIx rx]) 255 ∧
      (u.rdir d).lastReceived = some h.slot ∧ (u.rdir d).generating = s.integrated ∧
      u.out = [.slot d (slotOf (blk blks 0) (setEntry (slotShots whole) s.hub (s.ownEntry d)) (slotPayload whole) (renewed whole 1 (blks.length < 98))
        (trailerSeq whole) 0xFFFFFFFF true)])

/-- ROUND_BOUNDARY (R60, R108, R113, R122, R132, R328): the round number goes on by one where no announced step of the time
is due; a candidate that has won starts with the round of its time core and the highest minor version; a hub that is not
integrated takes up transit-only, its freezes and the end of its wait after a withdrawal. Where the spec leaves a reading or
a choice, it takes the model's of log entries 13, 15 and 23. -/
def Obligations.RingRoundBoundary : Prop :=
  ∀ (s : State), s.down .ring = false →
    (s.integrated = true → s.ring.starting = false → s.time.stepRound = none →
      ∃ u, exec .roundBoundary s = .next u ∧ u.round = (s.round + 1) % 2 ^ 64) ∧
    (s.integrated = false → s.ring.starting = false →
      ∃ u, exec .roundBoundary s = .next u ∧ u.round = s.round ∧
        u.is F.RING_STATUS_transit_active = s.is F.RING_CTRL_transit_only ∧
        (s.is F.RING_CTRL_transit_only ≠ s.is F.RING_STATUS_transit_active → u.leafSet (testLeaf 3) = true) ∧
        (s.ring.withdrawnLeft = 1 → u.phase = 4) ∧ u.ring.withdrawnLeft = s.ring.withdrawnLeft - 1 ∧
        ∀ k, k < 32 → smGet u.hop.frozen k 0 = s.rd .HOP_EP_FREEZE [k]) ∧
    (s.integrated = false → s.ring.starting = true → s.time.stepRound = none →
      ∃ u, exec .roundBoundary s = .next u ∧ u.ring.starting = false ∧ u.get F.RING_START_STATUS_ring_minor = 3 ∧
        (0 < s.roundByTime → u.round = s.roundByTime % 2 ^ 64))

/-! ## Dresser, Ethernet and CAN -/

/-- DECIMATION_WINDOW_END, COEFFICIENT_APPLY and COMPARATOR_THRESHOLD_WRITE (R285, R286, R289 to R291, R293, R294, R297,
R299). Where the spec leaves a reading or a choice, it takes the model's of log entry 22. -/
def Obligations.Dresser : Prop :=
  ∀ (s : State) (b c : Nat), s.down .bench = false → b < 16 → c < 64 →
    let x := s.chan b c
    (∀ w rest, c < 32 → x.windows = w :: rest → x.discard = 0 →
      let r := scale w.x x.gain x.offset
      ∃ u, exec (.decimationWindowEnd b c true) s = .next u ∧ u.rd .DRS_CH_RESULT [b, c] = r.y ∧
        u.rd .DRS_CH_RAW [b, c] = ofSigned w.x 32 ∧ u.rd .DRS_CH_FLAGS [b, c] = s.rd .DRS_CH_FLAGS [b, c] ||| r.flags ∧
        u.chan b c = { x with windows := rest, delivered := true, bad := natBit r.flags 3 || natBit r.flags 2 }) ∧
    (∀ w rest, c < 32 → x.windows = w :: rest → x.discard = 0 →
      ∃ u, exec (.decimationWindowEnd b c false) s = .next u ∧ u.rd .DRS_CH_RESULT [b, c] = 0x7FC00000 ∧
        u.rd .DRS_CH_RAW [b, c] = ofSigned w.x 32 ∧ u.leafSet (benchLeaf b 11) = true) ∧
    (∀ w rest n ok, c < 32 → x.windows = w :: rest → x.discard = n + 1 →
      ∃ u, exec (.decimationWindowEnd b c ok) s = .next u ∧ u.chan b c = { x with windows := rest, discard := n } ∧
        u.rd .DRS_CH_RESULT [b, c] = s.rd .DRS_CH_RESULT [b, c]) ∧
    (∀ p, c < 32 → s.admits p .DRS_CH_CFG [b, c] (s.merged p .DRS_CH_CFG [b, c] 0x40000 0x40000) →
      ∃ u, exec (.coefficientApply p b c) s = .next u ∧
        u.chan b c = { x with gain := s.rd .DRS_CH_GAIN [b, c], offset := s.rd .DRS_CH_OFFSET [b, c] }) ∧
    (let under := s.is F.DRS_CMP_CFG_mode [b, c]
     let written := natBit (smGet s.drs.released b 0) c
     ∀ p val, val < 2 ^ 32 →
      (s.admits p .DRS_CMP_LIMIT [b, c] val → levelOk val = true →
        (written = true → levelsOk under val (s.rd .DRS_CMP_RELEASE [b, c]) = true) →
        ∃ u, exec (.comparatorThresholdWrite p b c false val) s = .next u ∧ u.rd .DRS_CMP_LIMIT [b, c] = val ∧
          u.get F.DRS_CMP_STATUS_run [b, c] = 0 ∧
          s.wordsKept u (fun a => a == Reg.DRS_CMP_LIMIT.addr [b, c] || a == Reg.DRS_CMP_STATUS.addr [b, c])) ∧
      (s.admits p .DRS_CMP_RELEASE [b, c] val → levelOk val = true → levelsOk under (s.rd .DRS_CMP_LIMIT [b, c]) val = true →
        ∃ u, exec (.comparatorThresholdWrite p b c true val) s = .next u ∧ u.rd .DRS_CMP_RELEASE [b, c] = val ∧
          u.get F.DRS_CMP_STATUS_run [b, c] = 0 ∧ u.cmpRelease b c = val) ∧
      (∀ release : Bool, s.admits p (if release then .DRS_CMP_RELEASE else .DRS_CMP_LIMIT) [b, c] val → levelOk val = false →
        ∃ u, exec (.comparatorThresholdWrite p b c release val) s = .next u ∧ u.leafSet (benchLeaf b 15) = true ∧
          s.wordsKept u causeAddr))

/-- FRAME_RECEIVED, PAUSE_FRAME and PAUSE_EXPIRY (R397, R398, R400 to R402, R404, R406): a spoiled frame is counted by the
first row of R397 that applies; a good one joins the egress queue its forwarding entry names, unless the queue's limit or the
link of its MAC forbids; a PAUSE stops the MAC and is not forwarded. Where the spec leaves a reading or a choice, it takes
the model's of log entries 28 and 29. -/
def Obligations.EthernetReception : Prop :=
  ∀ (s : State) (m ago : Nat) (bytes : List Byte) (cut : Bool), s.down .ethernet = false → m < 8 → s.linkUp m = true →
    let f := bytes.take (bytes.length - 4)
    let c := s.keepClass f (s.ingressClass m f)
    let spoils (cnt : Fld) : Prop := ∃ u, exec (.frameReceived m ago bytes cut) s = .next u ∧
      u.get cnt [m] = satInc (s.get cnt [m]) 255 ∧ s.regsOnly u (fun a => a == Reg.ETH_SPOIL.addr [m])
    (s.classify m bytes cut = .cut → spoils F.ETH_SPOIL_cut) ∧
    (s.classify m bytes cut = .runt → spoils F.ETH_SPOIL_runt) ∧
    (s.classify m bytes cut = .oversize → spoils F.ETH_SPOIL_oversize) ∧
    (s.classify m bytes cut = .fcs → spoils F.ETH_SPOIL_fcs) ∧
    (∀ n q, s.classify m bytes cut = .good → s.is F.SWC_SAMPLE_CFG_enable [m] = false → etherType f ≠ 0x8808 → isPtp f = false →
      reservedAddress f = false → s.fdbEntry (beAt f 0 6) (s.frameVid m f) = some n → q < 8 → q ≠ m →
      natBit (s.get F.SWC_FDB_ACT_port_mask [n]) q = true → s.linkUp q = true →
      s.swHeld q c + framePages f ≤ s.get F.SWC_LIMIT_pages [q, c] →
      ∃ u, exec (.frameReceived m ago bytes cut) s = .next u ∧
        u.swQueue q c = s.swQueue q c ++ [{ bytes := f, ingress := m, arrived := (s.localTime : Int) - (ago : Nat) }]) ∧
    (∀ n q, s.classify m bytes cut = .good → s.is F.SWC_SAMPLE_CFG_enable [m] = false → etherType f ≠ 0x8808 → isPtp f = false →
      reservedAddress f = false → s.fdbEntry (beAt f 0 6) (s.frameVid m f) = some n → q < 8 → q ≠ m →
      natBit (s.get F.SWC_FDB_ACT_port_mask [n]) q = true → s.linkUp q = false →
      ∃ u, exec (.frameReceived m ago bytes cut) s = .next u ∧ u.swQueue q c = s.swQueue q c ∧
        u.get F.SWC_DROP_link [q] = satInc (s.get F.SWC_DROP_link [q]) 255) ∧
    (let time := beAt bytes (ethBody bytes + 2) 2
     s.classify m bytes false = .good → s.is F.SWC_SAMPLE_CFG_enable [m] = false → etherType bytes = 0x8808 →
      beAt bytes (ethBody bytes) 2 = 1 →
      ∃ u, exec (.pauseFrame m ago bytes) s = .next u ∧ u.is F.ETH_MAC_STATUS_paused [m] = (time != 0) ∧
        u.get F.ETH_CTRL_CNT_pause [m] = satInc (s.get F.ETH_CTRL_CNT_pause [m]) 65535 ∧ u.sw.queues = s.sw.queues ∧
        exec (.frameReceived m ago bytes false) s = .next u) ∧
    (∃ u, exec (.pauseExpiry m) s = .next u ∧ u.is F.ETH_MAC_STATUS_paused [m] = false ∧
      s.wordsKept u (fun a => a == Reg.ETH_MAC_STATUS.addr [m]))

/-- FRAME_TRANSMIT, LINK_CHANGE and MAC_ENABLE_WRITE (R394 to R396, R399, R408): the frame of the highest class leaves,
padded and with its FCS; a link that goes down empties its queues. GATE_INTERVAL_CHANGE, GATE_BANK_SWAP and GATE_SWAP_APPLY
(R414, R417, R418). Where the spec leaves a reading or a choice, it takes the model's of log entries 28 and 29. -/
def Obligations.EthernetSendingAndGates : Prop :=
  (∀ (s : State) (m : Nat), s.down .ethernet = false →
     (∀ (c : Nat) (f : EthFrame) (rest : List EthFrame), m < 8 → s.linkUp m = true → s.macBusy m = false → s.is F.SWC_GATE_CTRL_enable [m] = false → s.is F.ETH_MAC_STATUS_paused [m] = false →
       c < 8 → s.swQueue m c = f :: rest → (∀ k, k < 8 → c < k → s.swQueue m k = []) → isPtp f.bytes = false →
       let b := padTo (max 60 f.bytes.length) f.bytes
       isPtp b = false →
       ∃ u, exec (.frameTransmit m) s = .next u ∧ u.out = [.frame m (ethPreamble ++ b ++ ethFcs b) none] ∧ u.swQueue m c = rest ∧
         (∀ q k, k < 8 → (q, k) ≠ (m, c) → u.swQueue q k = s.swQueue q k) ∧ u.regs = s.regs) ∧
     (∀ (c : Nat) (f : EthFrame) (rest : List EthFrame), c < 8 → s.swQueue 9 c = f :: rest → (∀ k, k < 8 → c < k → s.swQueue 9 k = []) →
       ∃ u, exec (.frameTransmit 9) s = .next u ∧ u.out = [.frame 9 f.bytes f.stamp] ∧ u.swQueue 9 c = rest ∧ u.regs = s.regs) ∧
     (∀ rate, m < 8 → rate < 4 → s.is F.ETH_MAC_CFG_enable [m] = true → s.is F.ETH_MAC_STATUS_link_up [m] = false →
       ∃ u, exec (.linkChange m true rate) s = .next u ∧ u.linkUp m = true ∧ 
         u.get F.ETH_MAC_STATUS_rate [m] =
           (if s.get F.ETH_MAC_CFG_iface [m] = 0 ∧ s.is F.ETH_MAC_CFG_autoneg [m] = true then min rate 2 else s.portRate m) ∧
         u.leafSet (macLeaf m 0) = true ∧ u.sw = s.sw) ∧
     (∀ rate, m < 8 → s.is F.ETH_MAC_STATUS_link_up [m] = true →
       ∃ u, exec (.linkChange m false rate) s = .next u ∧ u.is F.ETH_MAC_STATUS_link_up [m] = false ∧
         u.leafSet (macLeaf m 0) = true ∧ ∀ c, c < 8 → u.swQueue m c = []) ∧
     (∀ p on, m < 8 → s.admits p .ETH_MAC_CFG [m] (s.merged p .ETH_MAC_CFG [m] 0x80000000 (b2n on * 0x80000000)) →
       ∃ u, exec (.macEnableWrite p m on) s = .next u ∧ u.is F.ETH_MAC_CFG_enable [m] = on ∧
         (on = false → u.is F.ETH_MAC_STATUS_link_up [m] = false) ∧
         (on = false → s.is F.ETH_MAC_STATUS_link_up [m] = true → ∀ c, c < 8 → u.swQueue m c = []))) ∧
  (∀ (s : State) (m : Nat), s.down .ethernet = false → m < 8 →
     (∀ i left, gateAt (s.gateList m (s.gateBank m)) 0 (s.gatePosition m) = some (i, left) →
       ∃ u, exec (.gateIntervalChange m) s = .next u ∧ smGet u.sw.gates m 0 = i ∧ u.regs = s.regs ∧
         ∀ k, k ≠ m → smGet u.sw.gates k 0 = smGet s.sw.gates k 0) ∧
     (∀ p, s.admits p .SWC_GATE_CTRL [m] (s.merged p .SWC_GATE_CTRL [m] 1 1) → s.is F.SWC_GATE_CTRL_swap_pending [m] = false →
       s.gateValid m (1 - s.gateBank m) = true →
       ∃ u, exec (.gateBankSwap p m) s = .next u ∧ u.is F.SWC_GATE_CTRL_swap_pending [m] = true ∧ u.gateBank m = s.gateBank m) ∧
     (∀ p, s.admits p .SWC_GATE_CTRL [m] (s.merged p .SWC_GATE_CTRL [m] 1 1) →
       (s.is F.SWC_GATE_CTRL_swap_pending [m] = true ∨ s.gateValid m (1 - s.gateBank m) = false) →
       ∃ u, exec (.gateBankSwap p m) s = .next u ∧ u.leafSet (switchLeaf 0) = true ∧ u.gateBank m = s.gateBank m ∧
         u.is F.SWC_GATE_CTRL_swap_pending [m] = s.is F.SWC_GATE_CTRL_swap_pending [m]) ∧
     (s.is F.SWC_GATE_CTRL_swap_pending [m] = true →
       ∃ u, exec (.gateSwapApply m) s = .next u ∧ u.is F.SWC_GATE_CTRL_swap_pending [m] = false ∧
         u.gateBank m = 1 - s.gateBank m ∧ smGet u.sw.gates m 0 = 0 ∧
         s.wordsKept u (fun a => a == Reg.SWC_GATE_CTRL.addr [m])) ∧
     (s.is F.SWC_GATE_CTRL_swap_pending [m] = false → exec (.gateSwapApply m) s = .next s.clearOut))

/-- RING_FRAME_CELL and RING_FRAME_TIMEOUT (R410, R412): the first cell begins a frame, the next one extends it, one out of
order drops it, and so does the timeout. SEGMENTATION_GO, SEGMENTATION_JOB_END and HUB_CONTROLLER_FRAME_SEND (R402, R404,
R406, R419, R421): a job with a field out of range is bad, any other has every segment sent or dropped; a frame of the hub
controller joins the queue of its class. Where the spec leaves a reading or a choice, it takes the model's of log entry 29.
-/
def Obligations.EthernetReassemblyAndSegmentation : Prop :=
  (∀ (s t : State) (c : Nat) (x : Cell), s.down .ethernet = false →
     let b1 := byteAt x.bytes 1
     let k := b1 / 8 % 8
     let data := slice x.bytes 16 (min (byteAt x.bytes 5) 112)
     let partialGone (u : State) : Prop := u.ringContext x.srcHub k = none ∧
       u.get F.SWC_RING_SPOIL_partial = satInc (t.get F.SWC_RING_SPOIL_partial) 65535 ∧ u.leafSet (switchLeaf 4) = true
     (s.is F.SWC_RING_CFG_enable = true → s.clearOut.dequeue .switchPort (s.get F.SWC_RING_CFG_endpoint) c = (some x, t) →
       (ringCellBad x.bytes = false → natBit b1 7 = true → natBit b1 6 = false →
         ∃ u, exec (.ringFrameCell c) s = .next u ∧
           u.ringContext x.srcHub k = some { number := beAt x.bytes 2 2, next := 1, length := beAt x.bytes 8 2, bytes := data }) ∧
       (∀ p, ringCellBad x.bytes = false → natBit b1 7 = false → natBit b1 6 = false → t.ringContext x.srcHub k = some p →
         beAt x.bytes 2 2 = p.number → byteAt x.bytes 4 = p.next →
         ∃ u, exec (.ringFrameCell c) s = .next u ∧ u.regs = t.regs ∧
           u.ringContext x.srcHub k = some { p with next := p.next + 1, bytes := p.bytes ++ data }) ∧
       (∀ p, ringCellBad x.bytes = false → natBit b1 7 = false → t.ringContext x.srcHub k = some p →
         beAt x.bytes 2 2 ≠ p.number → ∃ u, exec (.ringFrameCell c) s = .next u ∧ partialGone u) ∧
       (∀ p, ringCellBad x.bytes = true → t.ringContext x.srcHub k = some p →
         ∃ u, exec (.ringFrameCell c) s = .next u ∧ partialGone u ∧
           u.get F.SWC_RING_SPOIL_malformed = satInc (t.get F.SWC_RING_SPOIL_malformed) 255)) ∧
     (∀ src p, s.ringContext src c = some p → ∃ u, exec (.ringFrameTimeout src c) s = .next u ∧ u.ringContext src c = none ∧
       u.get F.SWC_RING_SPOIL_timeout = satInc (s.get F.SWC_RING_SPOIL_timeout) 255 ∧ u.leafSet (switchLeaf 4) = true)) ∧
  (∀ (s : State), s.down .ethernet = false →
     let d := s.segDesc
     let e := (s.segEgress d).1
     let n := (segLen d + segMss d - 1) / segMss d
     let fits : Prop := ∀ m, m < 8 → natBit e.ports m = true → segHdr d + segMss d + 4 ≤ s.get F.ETH_MAC_CFG_max_frame [m]
     (∀ p, s.admits p .SWC_SEG_CTRL [] 1 → s.is F.SWC_SEG_STATUS_busy = false →
       ((segFieldsOk d = false ∨ ¬ fits) → ∃ u, exec (.segmentationGo p) s = .next u ∧ u.is F.SWC_SEG_STATUS_bad_job = true ∧
         u.is F.SWC_SEG_STATUS_busy = false ∧ u.leafSet (switchLeaf 2) = true ∧ u.sw = s.sw) ∧
       (segFieldsOk d = true → fits → n ≤ 2047 → ∃ u, exec (.segmentationGo p) s = .next u ∧ u.is F.SWC_SEG_STATUS_bad_job = false ∧
         u.is F.SWC_SEG_STATUS_busy = true ∧ u.get F.SWC_SEG_STATUS_sent + u.get F.SWC_SEG_STATUS_dropped = n)) ∧
     (s.is F.SWC_SEG_STATUS_busy = true → ∃ u, exec .segmentationJobEnd s = .next u ∧ u.is F.SWC_SEG_STATUS_busy = false ∧
       u.leafSet (switchLeaf 1) = true ∧ u.sw = s.sw) ∧
     (∀ bytes c i q, 14 ≤ bytes.length → bytes.length ≤ 9212 → c < 8 → etherType bytes ≠ 0x8808 → reservedAddress bytes = false → isPtp bytes = false →
       s.fdbEntry (beAt bytes 0 6) (s.frameVid 9 bytes) = some i → q < 8 → natBit (s.get F.SWC_FDB_ACT_port_mask [i]) q = true →
       s.linkUp q = true → s.swHeld q c + framePages bytes ≤ s.get F.SWC_LIMIT_pages [q, c] →
       ∃ u, exec (.hubControllerFrameSend bytes c) s = .next u ∧
         u.swQueue q c = s.swQueue q c ++ [{ bytes := bytes, ingress := 9, arrived := (s.localTime : Int) }]))

/-- CAN_FRAME_RECEIVED, CAN_TRANSMIT_COMMAND, CAN_COMMAND_DUE and CAN_TRANSMIT_END (R425 to R430): the error counters, the
records of received frames, the transmit buffer, and how an attempt leaves it. Where the spec leaves a reading or a choice,
it takes the model's of log entries 3 and 32. -/
def Obligations.CanFrames : Prop :=
  ∀ (s : State) (n ago : Nat), s.down .can = false → n < 16 → (s.canOf n).stopping = false →
    let c := s.canOf n
    (∀ f, s.canOnBus n = true → f.ok = true → (f.fdf = true → s.is F.CAN_CTRL_fd_enable [n] = true) →
      s.get F.CAN_STATUS_rec [n] ≤ 127 →
      ((List.range 16).find? (s.canFilterPasses n f) = none →
        ∃ u, exec (.canFrameReceived n ago f) s = .next u ∧ u.get F.CAN_STATUS_rec [n] = s.get F.CAN_STATUS_rec [n] - 1 ∧
          u.get F.CAN_STATUS_tec [n] = s.get F.CAN_STATUS_tec [n] ∧
          u.get F.CAN_CNT_filtered [n] = satInc (s.get F.CAN_CNT_filtered [n]) 255) ∧
      (((List.range 16).find? (s.canFilterPasses n f)).isSome = true → s.is F.CAN_RX_CFG_state_report [n] = false →
        ∃ u, exec (.canFrameReceived n ago f) s = .next u ∧ u.get F.CAN_STATUS_rec [n] = s.get F.CAN_STATUS_rec [n] - 1 ∧
          (u.canOf n).seq = (c.seq + 1) % 2 ^ 16 ∧ u.get F.CAN_CNT_filtered [n] = s.get F.CAN_CNT_filtered [n])) ∧
    (s.canOnBus n = false → ∀ f, exec (.canFrameReceived n ago f) s = .next s.clearOut) ∧
    (∀ (k : Nat) (x : Cell) (t : State), s.canState n ≠ 0 → s.canState n ≠ 7 → c.tx.length < 8 → s.canCellWaits n k = true →
      (∀ j, j < 16 → k < j → s.peekIntake (s.get F.CAN_RX_CFG_endpoint [n]) j = none) →
      s.clearOut.dequeue (.canChannel n) (s.get F.CAN_RX_CFG_endpoint [n]) k = (some x, t) →
      (∀ f, t.canCommandFrame n x.bytes = some f → beAt x.bytes 6 6 = 0 → beAt x.bytes 12 4 = 0 →
        (t.is F.CAN_CTRL_fc_class [n] = true → t.canState n ≠ 4 ∧ t.canState n ≠ 5) →
        ∃ u, exec (.canTransmitCommand n k) s = .next u ∧
          (u.canOf n).tx = (t.canOf n).tx ++
            [{ frame := f, oneShot := natBit (byteAt x.bytes 22) 0, due := true, idWord := beAt x.bytes 16 4 }]) ∧
      (t.canCommandFrame n x.bytes = none → t.is F.CAN_RX_CFG_tx_report [n] = false →
        exec (.canTransmitCommand n k) s = .next t)) ∧
    (∀ (i : Nat) (e : CanEntry), c.tx[i]? = some e → e.t ≤ s.now (s.domOfConsumer .can) →
      ∃ u, exec (.canCommandDue n i) s = .next u ∧ u.regs = s.regs ∧
        u.canOf n = { c with tx := c.tx.set i { e with due := true } }) ∧
    (s.canOnBus n = true → s.is F.CAN_CTRL_listen_only [n] = false →
      (∀ (i : Nat) (e : CanEntry), s.canOffer n = some (.entry i e) →
        ∃ u, exec (.canTransmitEnd n ago .sent) s = .next u ∧ u.out.head? = some (.canFrame n e.frame) ∧
          (u.canOf n).tx = c.tx.eraseIdx i ∧ u.get F.CAN_STATUS_tec [n] = s.get F.CAN_STATUS_tec [n] - 1) ∧
      (∀ (i : Nat) (e : CanEntry) (r : CanTxEnd), s.canOffer n = some (.entry i e) → r ≠ .sent → e.oneShot = false →
        ∃ u, exec (.canTransmitEnd n ago r) s = .next u ∧ u.canOf n = { c with idle := false } ∧ u.regs = s.regs ∧ u.out = []) ∧
      (∀ (i : Nat) (e : CanEntry) (r : CanTxEnd), s.canOffer n = some (.entry i e) → r ≠ .sent → e.oneShot = true →
        ∃ u, exec (.canTransmitEnd n ago r) s = .next u ∧ (u.canOf n).tx = c.tx.eraseIdx i) ∧
      (∀ f, s.canOffer n = some (.reference f) →
        ∃ u, exec (.canTransmitEnd n ago .sent) s = .next u ∧ u.out.head? = some (.canFrame n f) ∧ (u.canOf n).reference = none ∧
          (u.canOf n).refSeq = (c.refSeq + 1) % 16 ∧ (u.canOf n).refStamp = some (s.canStamp ago) ∧ (u.canOf n).refValid = true))

/-- CAN_ENABLE, CAN_DISABLE, CAN_RECOVER, CAN_BUS_ERROR, BUS_OFF_RECOVERY_END and BUS_IDLE_DETECTED (R430, R431): the states
of a channel and its error counters. Where the spec leaves a reading or a choice, it takes the model's of log entry 32. -/
def Obligations.CanStates : Prop :=
  ∀ (s : State) (n : Nat), s.down .can = false → n < 16 →
    (∀ p, s.admits p .CAN_CTRL [n] (s.merged p .CAN_CTRL [n] 0x80000000 0x80000000) → s.canState n = 0 →
      ∃ u, exec (.canEnable p n) s = .next u ∧ u.canState n = 1 ∧ u.get F.CAN_STATUS_tec [n] = 0 ∧ u.get F.CAN_STATUS_rec [n] = 0 ∧
        u.is F.CAN_CTRL_enable [n] = true) ∧
    (∀ p, s.admits p .CAN_CTRL [n] (s.merged p .CAN_CTRL [n] 0x80000000 0) → s.canState n ≠ 0 →
      s.canFrameInProgress n = false →
      ∃ u, exec (.canDisable p n) s = .next u ∧ u.canState n = 0 ∧ (u.canOf n).tx = [] ∧ (u.canOf n).reference = none ∧
        u.is F.CAN_STATUS_ref_master [n] = false ∧ u.is F.CAN_CTRL_enable [n] = false) ∧
    (∀ p, s.admits p .CAN_CTRL [n] (s.merged p .CAN_CTRL [n] 0x80000000 0) → s.is F.CAN_CTRL_enable [n] = true → s.canState n ≠ 0 →
      s.canFrameInProgress n = true →
      ∃ u, exec (.canDisable p n) s = .next u ∧ u.canState n ≠ 0 ∧ (u.canOf n).stopping = true ∧
        (u.canOf n).tx = (s.canOf n).tx ∧ u.is F.CAN_CTRL_enable [n] = false) ∧
    (∀ ago r, (s.canOf n).stopping = true → s.canOnBus n = true → s.is F.CAN_CTRL_listen_only [n] = false → (s.canOffer n).isSome = true →
      ∃ u, exec (.canTransmitEnd n ago r) s = .next u ∧ u.canState n = 0 ∧ (u.canOf n).tx = [] ∧ (u.canOf n).stopping = false) ∧
    (∀ p, s.admits p .CAN_CTRL [n] (s.merged p .CAN_CTRL [n] 0x6000000 0x2000000) → s.canState n = 4 →
      s.is F.CAN_CTRL_enable [n] = true → ∃ u, exec (.canRecover p n) s = .next u ∧ u.canState n = 5) ∧
    (∀ tec rec, s.canOnBus n = true → (s.canOf n).stopping = false → tec ≤ 255 →
      ∃ u, exec (.canBusError n tec rec) s = .next u ∧ u.get F.CAN_STATUS_tec [n] = tec ∧ u.get F.CAN_STATUS_rec [n] = min rec 255 ∧
        u.canState n = (if s.canState n = 6 then 6 else if 128 ≤ tec ∨ 128 ≤ rec then 3 else 2) ∧ (u.canOf n).idle = false) ∧
    (∀ tec rec, s.canOnBus n = true → (s.canOf n).stopping = false → 255 < tec →
      ∃ u, exec (.canBusError n tec rec) s = .next u ∧ u.leafSet (canLeaf n 0) = true ∧
        u.canState n = (if s.is F.CAN_CTRL_fc_class [n] then 4 else 5) ∧
        u.get F.CAN_CNT_bus_off [n] = satInc (s.get F.CAN_CNT_bus_off [n]) 255 ∧
        (s.is F.CAN_CTRL_fc_class [n] = true → (u.canOf n).tx = [])) ∧
    (s.canState n = 5 → ∃ u, exec (.busOffRecoveryEnd n) s = .next u ∧ u.canState n = 2 ∧ u.get F.CAN_STATUS_tec [n] = 0 ∧
      u.get F.CAN_STATUS_rec [n] = 0 ∧ u.is F.CAUSE_REC_recovering [canLeaf n 0] = false) ∧
    (s.canState n ≠ 5 → exec (.busOffRecoveryEnd n) s = .next s.clearOut) ∧
    (s.canState n = 1 → s.is F.CAN_KA_CFG_agree [n] = false → (s.canOf n).sleepAsked = false →
      (s.canOf n).stopping = false → ∃ u, exec (.busIdleDetected n) s = .next u ∧ u.canState n = 2 ∧ (u.canOf n).idle = true)

/-- CAN_REFERENCE_FRAME_SEND and CAN_REF_MASTER_TIMEOUT (R432, R433): the reference frame a master offers, with the stamp of
the one before it, and the channel that becomes master. KEEP_ALIVE_SEND, LAST_CALL_TIMEOUT, SLEEP_ENTRY, SLEEP_NOW,
WAKE_DOMINANT, WAKE_FRAME and LOCAL_WAKE (R434 to R438): sleep by agreement and on request, and the causes of waking. Where
the spec leaves a reading or a choice, it takes the model's of log entry 33. -/
def Obligations.CanReferenceAndSleep : Prop :=
  (∀ (s : State) (n : Nat), s.down .can = false → n < 16 → s.is F.CAN_REF_CFG_enable [n] = true →
     let c := s.canOf n
     let r := s.get F.CAN_REF_CFG_rank [n]
     let dom := s.domOfConsumer .can
     (s.is F.CAN_STATUS_ref_master [n] = true → s.canOnBus n = true → ∀ x, c.refStamp = some x →
       let b1 := b2n (s.traceable dom) * 128 + b2n c.refValid * 64 + domBit dom * 32
       ∃ u, exec (.canReferenceFrameSend n) s = .next u ∧ u.regs = s.regs ∧
         u.canOf n = { c with reference := some {
           id := s.get F.CAN_REF_CFG_base_id [n] + r, dlc := 8,
           data := [byte (r * 16 + c.refSeq), byte b1] ++ beBytes 2 (secOf (stampTime x) % 2 ^ 16) ++ beBytes 4 (nsOf (stampTime x)) } }) ∧
     (s.is F.CAN_STATUS_ref_master [n] = true → s.canOnBus n = true → c.refStamp = none →
       ∃ u f, exec (.canReferenceFrameSend n) s = .next u ∧ u.regs = s.regs ∧ u.canOf n = { c with reference := some f } ∧
         f.id = s.get F.CAN_REF_CFG_base_id [n] + r ∧ f.dlc = 8 ∧ f.data.head? = some (byte (r * 16 + c.refSeq))) ∧
     (s.is F.CAN_STATUS_ref_master [n] = false → s.canState n ≠ 0 →
       ∃ u, exec (.canRefMasterTimeout n) s = .next u ∧ u.is F.CAN_STATUS_ref_master [n] = true ∧
         u.leafSet (canLeaf n 3) = true ∧ u.canOf n = { c with refValid := false, reference := none })) ∧
  (∀ (s : State) (n : Nat), s.down .can = false → n < 16 →
     let c := s.canOf n
     let awake (u : State) (cause : Nat) : Prop :=
       u.canState n = 1 ∧ u.get F.CAN_STATUS_wake_cause [n] = cause ∧ u.get F.CAN_CNT_wakes [n] = satInc (s.get F.CAN_CNT_wakes [n]) 255 ∧
         u.leafSet (canLeaf n 2) = true
     (s.is F.CAN_KA_CFG_agree [n] = true → s.is F.CAN_CTRL_want_awake [n] = true → s.canOnBus n = true →
       ∃ u, exec (.keepAliveSend n) s = .next u ∧ u.regs = s.regs ∧ u.canOf n = { c with keepAlive := some 1 }) ∧
     ((s.canState n = 2 ∨ s.canState n = 3) → s.is F.CAN_KA_CFG_agree [n] = true → s.is F.CAN_CTRL_want_awake [n] = false → c.tx = [] →
       ∃ u, exec (.lastCallTimeout n) s = .next u ∧ u.canState n = 6 ∧ (u.canOf n).keepAlive = some 0 ∧ (u.canOf n).quiet = true) ∧
     (s.canOnBus n = true → s.is F.CAN_CTRL_want_awake [n] = true →
       ∃ u, exec (.lastCallTimeout n) s = .next u ∧ u.regs = s.regs ∧ u.canOf n = { c with quiet := true }) ∧
     (s.canState n = 6 → c.tx = [] → c.idle = true → c.roused ≠ some s.time.cycles →
       ∃ u, exec (.sleepEntry n) s = .next u ∧ u.canState n = 7 ∧ u.get F.CAN_WAKE_CFG_error_count [n] = 0) ∧
     (∀ p, s.admits p .CAN_CTRL [n] (s.merged p .CAN_CTRL [n] 0x6000000 0x4000000) → (s.canState n = 2 ∨ s.canState n = 3) →
       s.is F.CAN_CTRL_enable [n] = true → c.tx = [] → c.idle = true →
       ∃ u, exec (.sleepNow p n) s = .next u ∧ u.canState n = 7) ∧
     (∀ tenths, s.canState n = 7 → c.slept ≠ some s.time.cycles → s.is F.CAN_RX_CFG_wake_frame [n] = false → s.get F.CAN_WAKE_CFG_dom_filter [n] ≤ tenths →
       ∃ u, exec (.wakeDominant n tenths) s = .next u ∧ awake u 1) ∧
     (∀ tenths, tenths < s.get F.CAN_WAKE_CFG_dom_filter [n] → exec (.wakeDominant n tenths) s = .next s.clearOut) ∧
     (s.canState n = 7 → c.slept ≠ some s.time.cycles → s.is F.CAN_RX_CFG_wake_frame [n] = true →
       (∀ ago f, s.isWakeFrame n f = true → ∃ u, exec (.wakeFrame n ago (.frame f)) s = .next u ∧ awake u 2) ∧
       (∀ ago f, f.fdf = false → s.isWakeFrame n f = false → ∃ u, exec (.wakeFrame n ago (.frame f)) s = .next u ∧
         s.regsOnly u (fun a => a == Reg.CAN_WAKE_CFG.addr [n]) ∧
         u.get F.CAN_WAKE_CFG_error_count [n] = s.get F.CAN_WAKE_CFG_error_count [n] - 1) ∧
       (∀ ago, 31 ≤ s.get F.CAN_WAKE_CFG_error_count [n] → s.is F.CAN_WAKE_CFG_fallback [n] = true →
         ∃ u, exec (.wakeFrame n ago .damaged) s = .next u ∧ awake u 3) ∧
       (∀ ago, s.get F.CAN_WAKE_CFG_error_count [n] < 31 → ∃ u, exec (.wakeFrame n ago .damaged) s = .next u ∧
         s.regsOnly u (fun a => a == Reg.CAN_WAKE_CFG.addr [n]) ∧
         u.get F.CAN_WAKE_CFG_error_count [n] = s.get F.CAN_WAKE_CFG_error_count [n] + 1)) ∧
     (s.canState n = 7 → c.slept ≠ some s.time.cycles → ∃ u, exec (.localWake n) s = .next u ∧ awake u 4) ∧
     (s.canState n = 6 → ∃ u, exec (.localWake n) s = .next u ∧ u.canState n = (if c.passive then 3 else 2) ∧
       (u.canOf n).keepAlive = none ∧ (u.canOf n).roused = some s.time.cycles))

/-! ## Twins, guarded commands, faces and bench service -/

/-- TWIN_HEALTH_WRITE, HEALTH_WATCHDOG_EXPIRY, CLAIM_LOST and HOLDOFF_END (R441, R442, R446, R449): the priority held back in
hold-off is presented again from the next heartbeat on. Where the spec leaves a reading or a choice, it takes the model's of
log entry 34. -/
def Obligations.Twins : Prop :=
  ∀ (s : State) (p : Path) (val k m : Nat), s.down .hopper = false → k < 32 → m < 2 →
    (s.admits p .TWIN_HEALTH [] val → val < 2 ^ 32 → ∃ u, exec (.twinHealthWrite p val) s = .next u ∧
      u.get F.TWIN_HEALTH_health = val % 16 ∧ u.twin.healthExpired = false ∧
      u.presentedHealth = (if s.chipFault || s.dying then 0 else val % 16)) ∧
    (∃ u, exec .healthWatchdogExpiry s = .next u ∧ u.twin.healthExpired = true ∧ u.presentedHealth = 0 ∧
      u.leafSet (twinLeaf 4) = true ∧ u.get F.TWIN_HEALTH_health = s.get F.TWIN_HEALTH_health) ∧
    (s.is F.TWIN_MEMBER_valid [k, m] = true → 2 < s.claimAge k m →
      let h := (s.trackOf k m).hub
      ∃ u, exec (.claimLost k m) s = .next u ∧ u.rd .TWIN_MEMBER [k, m] = 0 ∧ u.trackOf k m = {} ∧
        (s.twinMember k = true → h = s.get F.TWIN_PAIR_CFG_peer [k] →
          u.is F.TWIN_PAIR_STATUS_peer_lost [k] = true ∧ u.leafSet (twinLeaf 1) = true)) ∧
    (s.claimAge k m ≤ 2 → exec (.claimLost k m) s = .next s.clearOut) ∧
    (∃ u, exec (.holdoffEnd k) s = .next u ∧ u.is F.TWIN_PAIR_STATUS_holdoff [k] = false ∧
      let waits := s.is F.TWIN_PAIR_STATUS_holdoff [k] || s.twin.untilBeat.contains k
      u.twin.untilBeat.contains k = waits ∧
        (s.healthForced = false → s.get F.TWIN_OVERRIDE_mode [k] = 0 →
          u.ownClaim k = claimOf (if waits then 0 else s.get F.TWIN_PAIR_CFG_base [k]) (s.get F.TWIN_HEALTH_health) s.hub))

/-- The check of a guarded command (R464, R465) is one for every type: a record that fails it is answered with its result and
counted, a counter accepted before is counted and answered by nothing, and neither has any other effect. Where the spec
leaves a reading or a choice, it takes the model's of log entry 35. -/
def Obligations.GuardedChecks : Prop :=
  ∀ (s : State) (r : List Byte) (rest : List (List Byte)), s.down .hopper = false → s.grd.inbox = r :: rest → s.grd.responses.length < 32 →
    let takes (i : Instr) (r : List Byte) : Bool := match i with
      | .operateWhole => recType r == 1 && bodyFragment r == 0
      | .operateFirstPart => recType r == 1 && bodyFragment r == 0x80
      | .operateSecondPart => recType r == 1 && bodyFragment r == 1
      | .claimOverride => recType r == 2
      | .guardedRegisterWrite => recType r == 3
      | .keyLoad => recType r == 5 && bodyOp r == 1
      | .keyErase => recType r == 5 && bodyOp r == 2
      | .faceReset => recType r == 6
      | .benchOutOfService => serviceRecord 1 r
      | .benchReturnToService => serviceRecord 2 r
      | .benchReset => serviceRecord 3 r
      | .updateBegin => opRecord 1 r
      | .updateHandover => opRecord 2 r
      | .updateCommit => opRecord 3 r
      | .updateRollback => opRecord 4 r
      | .updateAbort => opRecord 5 r
      | .updateRevert => opRecord 6 r
      | _ => false
    ∀ i, takes i r = true →
      (∀ c, s.verdict r = .result c → ∃ u, exec i s = .next u ∧ u.grd.inbox = rest ∧
        u.get F.GRD_CNT_refused = satInc (s.get F.GRD_CNT_refused) 255 ∧ u.leafSet (guardLeaf 1) = true ∧
        s.wordsKept u (fun a => a == Reg.GRD_CNT.addr [] || causeAddr a) ∧
        ∃ y, byteAt y 0 = 0x52 ∧ byteAt y 1 = c ∧
          (if recIssuer r % 64 = s.hub then u.grd.answers = s.grd.answers ++ [y] else u.grd.responses = s.grd.responses ++ [(y, s.time.cycles)])) ∧
      (s.verdict r = .duplicate → ∃ u, exec i s = .next u ∧ u.grd = { s.grd with inbox := rest } ∧
        u.get F.GRD_CNT_duplicate = satInc (s.get F.GRD_CNT_duplicate) 255 ∧
        s.regsOnly { u with grd := s.grd } (fun a => a == Reg.GRD_CNT.addr []))

/-- OPERATE_WHOLE, OPERATE_FIRST_PART, OPERATE_SECOND_PART and HELD_PART_TIMEOUT (R455, R459, R465, R466) of a command that
passes its check, toward an endpoint without a claim guard. Where the spec leaves a reading or a choice, it takes the model's
of log entry 35. -/
def Obligations.GuardedOperate : Prop :=
  ∀ (s : State) (r : List Byte) (rest : List (List Byte)), s.down .hopper = false →
    let e := bodyEndpoint r
    let cells (s : State) : List (Nat × Nat × List Byte) := smGet s.grd.buffers e []
    let answered (u : State) (code : Nat) : Prop := ∃ y, byteAt y 0 = 0x52 ∧ byteAt y 1 = code ∧
      (if recIssuer r = s.hub then u.grd.answers = s.grd.answers ++ [y] else u.grd.responses = s.grd.responses ++ [(y, s.time.cycles)])
    (s.grd.inbox = r :: rest → s.grd.responses.length < 32 → s.verdict r = .pass → recType r = 1 → s.guardOf e = none →
      (bodyFragment r = 0 → (cells s).length < 16 → ∃ u, exec .operateWhole s = .next u ∧ answered u 0 ∧
        cells u = cells s ++ [(recIssuer r, bodyClass r, padTo 128 (slice r 24 88))] ∧ u.counterSeen (recSlot r) (recCounter r) = true) ∧
      (bodyFragment r = 0 → 16 ≤ (cells s).length → ∃ u, exec .operateWhole s = .next u ∧ answered u 8 ∧ cells u = cells s ∧
        u.get F.GRD_CNT_refused = satInc (s.get F.GRD_CNT_refused) 255) ∧
      (bodyFragment r = 0x80 → ∃ u, exec .operateFirstPart s = .next u ∧ answered u 0 ∧ cells u = cells s ∧
        u.heldPart (recIssuer r) e = some { hub := recIssuer r, ep := e, slot := recSlot r, cls := bodyClass r,
                                             counter := recCounter r, bytes := slice r 24 88 }) ∧
      (∀ x, bodyFragment r = 1 → s.heldPart (recIssuer r) e = some x → x.slot = recSlot r → x.cls = bodyClass r →
        x.counter + 1 = recCounter r → (cells s).length < 16 → ∃ u, exec .operateSecondPart s = .next u ∧ answered u 0 ∧
          cells u = cells s ++ [(recIssuer r, bodyClass r, padTo 128 (x.bytes ++ slice r 24 40))] ∧ u.heldPart (recIssuer r) e = none) ∧
      (bodyFragment r = 1 → s.heldPart (recIssuer r) e = none → ∃ u, exec .operateSecondPart s = .next u ∧ answered u 8 ∧
        cells u = cells s ∧ u.get F.GRD_CNT_refused = satInc (s.get F.GRD_CNT_refused) 255)) ∧
    (∀ hub ep, (s.heldPart hub ep).isSome = true → ∃ u, exec (.heldPartTimeout hub ep) s = .next u ∧ u.heldPart hub ep = none ∧
      u.get F.GRD_CNT_refused = satInc (s.get F.GRD_CNT_refused) 255 ∧ s.wordsKept u (fun a => a == Reg.GRD_CNT.addr []))

/-- CLAIM_OVERRIDE, GUARDED_REGISTER_WRITE, KEY_LOAD, KEY_ERASE, KEY_STORE_WRITE and FUSE_BURN (R450, R466, R470 to R472) of
a command that passes its check. Where the spec leaves a reading or a choice, it takes the model's of log entries 35 and 36.
-/
def Obligations.GuardedKeys : Prop :=
  ∀ (s : State) (r : List Byte) (rest : List (List Byte)), s.down .hopper = false →
    let answered (u : State) (code : Nat) : Prop := ∃ y, byteAt y 0 = 0x52 ∧ byteAt y 1 = code ∧
      (if recIssuer r = s.hub then u.grd.answers = s.grd.answers ++ [y] else u.grd.responses = s.grd.responses ++ [(y, s.time.cycles)])
    let taken := ({ s.clearOut with grd := { s.grd with inbox := rest } } : State).acceptCounter (recSlot r) (recCounter r)
    let k := byteAt r 17
    (s.grd.inbox = r :: rest → s.grd.responses.length < 32 → s.verdict r = .pass →
      (recType r = 2 → ∃ u, exec .claimOverride s = .next u ∧ answered u 0 ∧
        u.get F.TWIN_OVERRIDE_mode [byteAt r 16] = byteAt r 17 ∧ u.counterSeen (recSlot r) (recCounter r) = true) ∧
      (∀ x ix t, recType r = 3 → bodyCount r = 1 → bodyAddress r % 4 = 0 → taken.regAt (bodyAddress r) = some (x, ix) →
        taken.judge .guarded x ix (bodyAddress r) true (bodyWord r 0) = none → taken.writeReg .guarded x ix (bodyWord r 0) = some t →
        t.grd.responses.length < 32 → ∃ u, exec .guardedRegisterWrite s = .next u ∧ u.regs = t.regs ∧
          ∃ y, byteAt y 1 = 0 ∧ (if recIssuer r = t.hub then u.grd.answers = t.grd.answers ++ [y] else u.grd.responses = t.grd.responses ++ [(y, t.time.cycles)])) ∧
      (∀ key, recType r = 5 → bodyOp r = 1 → kwUnwrap (s.keySlot (recSlot r)).key (slice r 24 24) = some key →
        ∃ u, exec .keyLoad s = .next u ∧ answered u 0 ∧ u.keyState k = 1 ∧ u.keyGeneration k = (s.keyGeneration k + 1) % 256 ∧
          u.keyCounter k = 0 ∧ (u.keySlot k).key = key ∧ (u.keySlot k).seen = 0) ∧
      (recType r = 5 → bodyOp r = 1 → kwUnwrap (s.keySlot (recSlot r)).key (slice r 24 24) = none →
        ∃ u, exec .keyLoad s = .next u ∧ answered u 8 ∧ u.keyState k = s.keyState k ∧ (u.keySlot k).key = (s.keySlot k).key) ∧
      (recType r = 5 → bodyOp r = 2 → ∃ u, exec .keyErase s = .next u ∧ answered u 0 ∧ u.keyState k = 2 ∧ (u.keySlot k).key = 0 ∧
        u.keyGeneration k = (s.keyGeneration k + 1) % 256)) ∧
    (∀ i, i < 32 → (s.keySlot i).due = true → s.permitHeld .crypto i = true → s.permits.waiting = [] →
      ∃ u, exec (.keyStoreWrite i) s = .next u ∧ u.leafSet (guardLeaf 4) = true ∧
        u.keySlot i = { s.keySlot i with due := false, waiting := false } ∧
        (∀ c old, s.storeCurrent i = some (c, old) →
          u.chip.flash = flashPut s.chip.flash (s.storeAddr (1 - c) i) (s.storeRecord i (storeSequence old + 1))) ∧
        (s.storeCurrent i = none → u.chip.flash = flashPut s.chip.flash (s.storeAddr 0 i) (s.storeRecord i 1))) ∧
    (∀ p, s.admits p .GRD_FUSE_CTRL [] 1 → s.is F.CHIP_STATUS_cfg_locked = false → s.is F.GRD_STATUS_fuse_burned = false →
      ∃ u, exec (.fuseBurn p) s = .next u ∧ u.grd = { s.grd with deviceKey := s.grd.stagedKey } ∧
        u.is F.GRD_STATUS_fuse_burned = true) ∧
    (∀ p, s.admits p .GRD_FUSE_CTRL [] 1 → (s.is F.CHIP_STATUS_cfg_locked = true ∨ s.is F.GRD_STATUS_fuse_burned = true) →
      ∃ u, exec (.fuseBurn p) s = .next u ∧ u.grd = s.grd ∧ u.is F.GRD_STATUS_fuse_burned = s.is F.GRD_STATUS_fuse_burned)

/-- GRD_SUBMIT, GRD_RESPONSE_RECEIVED and GRD_WINDOW_TIMEOUT (R460 to R463): the states of a command window. Where the spec
leaves a reading or a choice, it takes the model's of log entry 35. -/
def Obligations.GuardedWindows : Prop :=
  ∀ (s : State) (w : Nat), s.down .hopper = false → w < 16 →
    let r := s.windowCommand w
    let t := recTarget r % 64
    let submits (p : Path) (u : State) (st result : Nat) : Prop :=
      exec (.grdSubmit p w) s = .next u ∧ u.get F.GRD_WIN_CTRL_state [w] = st ∧ u.get F.GRD_WIN_CTRL_result [w] = result
    (∀ p, s.admits p .GRD_WIN_CTRL [w] (s.merged p .GRD_WIN_CTRL [w] 0x80000000 0x80000000) →
      ((byteAt r 0 ≠ 0x51 ∨ recIssuer r ≠ s.hub) → ∃ u, submits p u 5 6 ∧ u.grd = s.grd) ∧
      (byteAt r 0 = 0x51 → recIssuer r = s.hub → t = s.hub → ∃ u, submits p u 2 0 ∧ u.grd = { s.grd with inbox := s.grd.inbox ++ [r] }) ∧
      (byteAt r 0 = 0x51 → recIssuer r = s.hub → t ≠ s.hub → s.is F.RING_HUBMAP_INFO_present [t] = true →
        ∃ u, submits p u 1 0 ∧ u.grd = { s.grd with commands := s.grd.commands ++ [(w, s.time.cycles)] }) ∧
      (byteAt r 0 = 0x51 → recIssuer r = s.hub → t ≠ s.hub → s.is F.RING_HUBMAP_INFO_present [t] = false →
        ∃ u, submits p u 5 9 ∧ u.grd = s.grd)) ∧
    (∀ x rest, s.grd.answers = x :: rest → (List.range 16).find? (s.answersWindow x) = some w →
      ∃ u, exec .grdResponseReceived s = .next u ∧ u.grd = { s.grd with answers := rest } ∧ u.get F.GRD_WIN_CTRL_state [w] = 3 ∧
        u.get F.GRD_WIN_CTRL_result [w] = byteAt x 1 ∧ u.leafSet (guardLeaf 2) = true ∧
        ∀ i, i < 32 → u.rd .GRD_WIN_RESP [w, i] = leAt x (4 * i) 4) ∧
    (∀ x rest, s.grd.answers = x :: rest → (List.range 16).find? (s.answersWindow x) = none →
      ∃ u, exec .grdResponseReceived s = .next u ∧ u.grd = { s.grd with answers := rest } ∧
        u.get F.GRD_CNT_late_resp = satInc (s.get F.GRD_CNT_late_resp) 255 ∧ s.wordsKept u (fun a => a == Reg.GRD_CNT.addr [])) ∧
    (s.get F.GRD_WIN_CTRL_state [w] = 2 → ∃ u, exec (.grdWindowTimeout w) s = .next u ∧ u.get F.GRD_WIN_CTRL_state [w] = 4 ∧
      u.leafSet (guardLeaf 3) = true ∧ s.wordsKept u (fun a => a == Reg.GRD_WIN_CTRL.addr [w] || causeAddr a)) ∧
    (s.get F.GRD_WIN_CTRL_state [w] ≠ 2 → exec (.grdWindowTimeout w) s = .next s.clearOut)

/-- BENCH_OUT_OF_SERVICE, BENCH_FREEZE_TIMEOUT, BENCH_RETURN_TO_SERVICE, BENCH_RESET, BENCH_RELOAD_COMPLETE,
BENCH_WATCHDOG_EXPIRY, FIRMWARE_EXCEPTION, FACE_RESET and FACE_RESET_COMPLETE. Where the spec leaves a reading or a choice,
it takes the model's of log entries 38 and 43. -/
def Obligations.BenchService : Prop :=
  ∀ (s : State) (r : List Byte) (rest : List (List Byte)) (b : Nat), s.down .bench = false → b < 16 →
    let answered (u : State) (code : Nat) : Prop := ∃ y, byteAt y 0 = 0x52 ∧ byteAt y 1 = code ∧
      (if recIssuer r = s.hub then u.grd.answers = s.grd.answers ++ [y] else u.grd.responses = s.grd.responses ++ [(y, s.time.cycles)])
    let outOf (u : State) : Prop := u.is F.BNCH_STATUS_out_of_service [b] = true ∧ u.is F.BNCH_STATUS_fw_running [b] = false ∧
      u.leafSet (benchLeaf b 8) = true ∧ ∀ k, k < 64 → (u.sett b k).phase ≠ .running ∧ (u.sett b k).phase ≠ .waiting
    (s.grd.inbox = r :: rest → s.grd.responses.length < 32 → s.verdict r = .pass →
      (serviceRecord 1 r = true → byteAt r 16 = b → s.is F.BNCH_STATUS_out_of_service [b] = false →
        ∃ u, exec .benchOutOfService s = .next u ∧ answered u 0 ∧ outOf u) ∧
      (serviceRecord 2 r = true → byteAt r 16 = b → s.is F.BNCH_STATUS_out_of_service [b] = false →
        ∃ u, exec .benchReturnToService s = .next u ∧ answered u 8) ∧
      (serviceRecord 2 r = true → byteAt r 16 = b → s.is F.BNCH_STATUS_out_of_service [b] = true →
        s.get F.TST_BIST_STATUS_state = 0 → ∃ u, exec .benchReturnToService s = .next u ∧ answered u 0 ∧
          (u.benchOf b).returning = true ∧ u.permitKnown .settReload b = true) ∧
      (serviceRecord 3 r = true → byteAt r 16 = b → s.benchTaken b = false →
        ∃ u, exec .benchReset s = .next u ∧ answered u 0 ∧ (u.benchOf b).reloading = true ∧
          u.is F.BNCH_STATUS_queues_frozen [b] = true ∧ u.permitKnown .settReload b = true ∧ ∀ k, k < 64 → u.sett b k = {}) ∧
      (recType r = 6 → s.faceResetRefused (byteAt r 16) = true → ∃ u, exec .faceReset s = .next u ∧ answered u 8 ∧
        u.rd .FACE_RESET_STATUS = s.rd .FACE_RESET_STATUS) ∧
      (recType r = 6 → s.faceResetRefused (byteAt r 16) = false → ∃ u, exec .faceReset s = .next u ∧ answered u 0 ∧
        u.faceBusy (byteAt r 16) = true ∧ ∀ q, s.epFace (queueEp q) = byteAt r 16 → (u.queue q).cells = [])) ∧
    (s.is F.BNCH_STATUS_out_of_service [b] = true → s.is F.BNCH_STATUS_queues_frozen [b] = false →
      ∃ u, exec (.benchFreezeTimeout b) s = .next u ∧ u.leafSet (benchLeaf b 9) = true ∧ u.chipFault = true ∧
        u.is F.CAUSE_FAULT_STATUS_freeze_failed = true) ∧
    ((s.benchOf b).reloading = true → s.permitHeld .settReload b = true → s.permits.waiting = [] →
      ∃ u, exec (.benchReloadComplete b) s = .next u ∧ (u.benchOf b).reloading = false ∧
        (s.permits.held.count (.settReload, b) = 1 → u.permitHeld .settReload b = false) ∧
        ((s.benchOf b).returning = true → u.is F.BNCH_STATUS_out_of_service [b] = false ∧ u.is F.BNCH_STATUS_fw_running [b] = true ∧
          u.leafSet (benchLeaf b 8) = true)) ∧
    (s.is F.BNCH_STATUS_out_of_service [b] = false → s.bitOf F.UPD_PROGRESS_benches [] b = false →
      (∃ u, exec (.benchWatchdogExpiry b) s = .next u ∧ u.leafSet (benchLeaf b 7) = true ∧ outOf u) ∧
      (∀ code, ∃ u, exec (.firmwareException b code) s = .next u ∧ u.leafSet (benchLeaf b 7) = true ∧ outOf u ∧
        u.get F.BNCH_STATUS_fw_fault_code [b] = code % 256)) ∧
    (∀ f, f < 16 → s.faceBusy f = true → s.faceReads f = false →
      ∃ u, exec (.faceResetComplete f) s = .next u ∧ u.faceBusy f = false ∧ u.bitOf F.FACE_RESET_STATUS_done [] f = true ∧
        u.get F.FACE_RESET_CNT_resets = satInc (s.get F.FACE_RESET_CNT_resets) 255 ∧ u.leafSet (guardLeaf 5) = true) ∧
    (∀ f, s.faceReads f = true → exec (.faceResetComplete f) s = .next s.clearOut)

/-! ## Update, faults, resets and power -/

/-- UPDATE_BEGIN, UPDATE_HANDOVER, UPDATE_COMMIT, UPDATE_ROLLBACK, UPDATE_ABORT and UPDATE_REVERT (R465, R529, R530, R532,
R540) of a guarded command that passes its check: the states in which each op is taken, what it leaves, and its refusal
elsewhere. Where the spec leaves a reading or a choice, it takes the model's of log entries 41 and 42. -/
def Obligations.UpdateOps : Prop :=
  ∀ (s : State) (r : List Byte) (rest : List (List Byte)), s.down .hopper = false → s.grd.inbox = r :: rest → s.grd.responses.length < 32 →
    s.verdict r = .pass → s.permits.waiting = [] → recCounter r / 65536 ≤ s.keyCounter (recSlot r) / 65536 →
    let answered (u : State) (code : Nat) : Prop := ∃ y, byteAt y 0 = 0x52 ∧ byteAt y 1 = code ∧
      (if recIssuer r = s.hub then u.grd.answers = s.grd.answers ++ [y] else u.grd.responses = s.grd.responses ++ [(y, s.time.cycles)])
    let refused (i : Instr) : Prop := ∃ u, exec i s = .next u ∧ answered u 8 ∧ u.is F.UPD_STATUS_op_refused = true ∧
      u.updState = s.updState ∧ u.upd = s.upd
    let st := s.updState
    let quiet : Prop := s.chip.warmWaiting = false ∧ s.upd.benchResets = []
    (opRecord 1 r = true → (st = 0 ∨ st = 3 ∨ st = 7) → ∃ u, exec .updateBegin s = .next u ∧ answered u 0 ∧ u.updState = 1 ∧
      u.is F.UPD_STATUS_revert_ok = false ∧ u.rd .UPD_PROGRESS = 0 ∧
      u.upd = { image := s.upd.image, benchResets := s.upd.benchResets }) ∧
    (opRecord 1 r = true → ¬ (st = 0 ∨ st = 3 ∨ st = 7) → refused .updateBegin) ∧
    (opRecord 2 r = true → quiet → st = 3 → s.is F.UPD_STATUS_mode = true → s.versionRule s.targetImage = false →
      ∃ u, exec .updateHandover s = .next u ∧ answered u 0 ∧ u.rd .UPD_PROGRESS = 0 ∧
        ((u.updState = 3 ∧ u.upd.begun = true ∧ u.upd.step = 0 ∧ u.upd.atRound = s.round + 1) ∨
          (u.updState = 0 ∧ u.get F.UPD_STATUS_reason = 8 ∧ u.leafSet (loadLeaf 7) = true))) ∧
    (opRecord 2 r = true → st = 3 → s.is F.UPD_STATUS_mode = true → s.versionRule s.targetImage = true →
      ∃ u, exec .updateHandover s = .next u ∧ answered u 8 ∧ u.updState = 3 ∧ u.get F.UPD_STATUS_reason = 7 ∧
        u.is F.UPD_STATUS_op_refused = true ∧ u.leafSet (loadLeaf 7) = true) ∧
    (opRecord 2 r = true → (st ≠ 3 ∨ s.is F.UPD_STATUS_mode = false) → refused .updateHandover) ∧
    (opRecord 3 r = true → st = 5 → ∃ u, exec .updateCommit s = .next u ∧ answered u 0 ∧ u.updState = 0 ∧
      u.get F.UPD_STATUS_running_slot = s.inactiveSlot % 2 ∧ u.is F.UPD_STATUS_revert_ok = true ∧ u.runningSlot = s.inactiveSlot) ∧
    (opRecord 3 r = true → st = 3 → s.is F.UPD_STATUS_mode = false → s.versionRule s.targetImage = false →
      s.genRule s.targetImage = false → ∃ u, exec .updateCommit s = .next u ∧ answered u 0 ∧ u.updState = 0 ∧
        u.get F.UPD_STATUS_running_slot = s.inactiveSlot % 2 ∧ u.is F.UPD_STATUS_revert_ok = true ∧ u.runningSlot = s.runningSlot) ∧
    (opRecord 4 r = true → st = 3 → ∃ u, exec .updateRollback s = .next u ∧ answered u 0 ∧ u.updState = 0) ∧
    (opRecord 4 r = true → quiet → (st = 4 ∨ st = 5) → s.rd .UPD_PROGRESS = 0 → ∃ u, exec .updateRollback s = .next u ∧ answered u 0 ∧
      u.updState = 0 ∧ u.get F.UPD_STATUS_reason = 0x11 ∧ u.leafSet (loadLeaf 7) = true) ∧
    (opRecord 4 r = true → st ≠ 3 → st ≠ 4 → st ≠ 5 → refused .updateRollback) ∧
    (opRecord 5 r = true → (st = 1 ∨ st = 2) → ∃ u, exec .updateAbort s = .next u ∧ answered u 0 ∧ u.updState = 0 ∧
      u.is F.UPD_CHUNK_CTRL_busy = false ∧ u.permits.held = s.permits.held.erase (.deltaApply, 0)) ∧
    (opRecord 5 r = true → st ≠ 1 → st ≠ 2 → refused .updateAbort) ∧
    (opRecord 6 r = true → st = 0 → s.is F.UPD_STATUS_revert_ok = true → ∃ u, exec .updateRevert s = .next u ∧ answered u 0 ∧
      u.updState = 0 ∧ u.is F.UPD_STATUS_revert_ok = false) ∧
    (opRecord 6 r = true → (st ≠ 0 ∨ s.is F.UPD_STATUS_revert_ok = false) → refused .updateRevert)

/-- CHUNK_COMMIT, DELTA_VERIFY, BENCH_HANDOVER, CONTROLLER_HANDOVER, TRIAL_END and ROLLBACK_BENCH_STEP (R523, R527, R528,
R532, R536 to R539): how an update goes on. Where the spec leaves a reading or a choice, it takes the model's of log entries
41 and 42. -/
def Obligations.UpdateSteps : Prop :=
  ∀ (s : State), s.down .hopper = false →
    let quiet : Prop := s.chip.warmWaiting = false ∧ s.upd.benchResets = []
    (∀ p index len, index < 2 ^ 16 → 1 ≤ len → len ≤ 4096 → s.admits p .UPD_CHUNK_CTRL [] (len * 2 ^ 16 + index) →
      s.permits.waiting = [] →
      (s.updState = 1 → s.upd.next = index → s.permitHeld .deltaApply 0 = true → s.upd.delta.length + len < 64 →
        ∃ u d, exec (.chunkCommit p index len) s = .next u ∧ d.length = len ∧ u.upd.delta = s.upd.delta ++ d ∧
          u.upd.next = index + 1 ∧ u.updState = 1 ∧ u.is F.UPD_CHUNK_CTRL_busy = false) ∧
      (s.updState = 1 → s.upd.next = index → s.permitHeld .deltaApply 0 = false → s.permitFits .deltaApply = false →
        ∃ u, exec (.chunkCommit p index len) s = .next u ∧ u.is F.UPD_CHUNK_CTRL_busy = true ∧ u.upd.waiting = true ∧
          u.permits.waiting = [{ kind := .deltaApply, unit := 0 }]) ∧
      ((s.updState ≠ 1 ∨ s.upd.next ≠ index) →
        ∃ u, exec (.chunkCommit p index len) s = .next u ∧ u.updState = 7 ∧ u.get F.UPD_STATUS_reason = 3 ∧
          u.leafSet (loadLeaf 7) = true ∧ u.upd.delta = s.upd.delta)) ∧
    (s.updState = 2 → s.upd.verifying = true → s.permits.waiting = [] → ∃ u, exec .deltaVerify s = .next u ∧
      (∀ reason, s.verifyReason = some reason → u.updState = 7 ∧ u.get F.UPD_STATUS_reason = reason ∧
        u.leafSet (loadLeaf 7) = true ∧ u.permits.held = s.permits.held.filter fun x => x.1 != .deltaApply) ∧
      (s.verifyReason = none → u.updState = 3 ∧ u.leafSet (loadLeaf 5) = true ∧
        u.is F.UPD_STATUS_mode = liveUpdate s.runningImage s.targetImage s.upd.delta ∧
        u.permits.held = s.permits.held.erase (.deltaApply, 0))) ∧
    (∀ b, b < 16 → quiet → s.permits.waiting = [] → s.updState = 4 → s.upd.step = b → s.stepDue = true → (s.benchOf b).reloading = true →
      ∃ u, exec (.benchHandover b) s = .next u ∧ u.upd = { s.upd with atRound := s.round + 1 } ∧ u.regs = s.regs) ∧
    (∀ b, b < 16 → quiet → (s.updState = 4 ∨ s.updState = 3 ∧ s.upd.begun = true) → s.upd.step = b → s.stepDue = true →
      (s.benchOf b).reloading = false → s.reloadReady b = true → ∃ u, exec (.benchHandover b) s = .next u ∧ u.bitOf F.UPD_PROGRESS_benches [] b = true ∧
        (u.updState = 4 → u.upd.step = b + 1)) ∧
    (∀ b, s.upd.begun = false → s.upd.step ≠ b → exec (.benchHandover b) s = .next s.clearOut) ∧
    (quiet → s.updState = 4 → s.upd.step = 16 → s.stepDue = true → ∃ u, exec .controllerHandover s = .next u ∧ u.updState = 5 ∧
      u.is F.UPD_PROGRESS_controller = true ∧ u.leafSet (loadLeaf 6) = true ∧
      u.ring.fwVersion = imgMajor s.targetImage * 256 + imgMinor s.targetImage) ∧
    (s.updState = 5 → s.is F.UPD_CFG_auto_commit = true → ∃ u, exec .trialEnd s = .next u ∧ u.updState = 0 ∧
      u.get F.UPD_STATUS_running_slot = s.inactiveSlot % 2 ∧ u.is F.UPD_STATUS_revert_ok = true ∧ u.runningSlot = s.inactiveSlot) ∧
    (s.is F.UPD_CFG_auto_commit = false → exec .trialEnd s = .next s.clearOut) ∧
    (quiet → s.updState = 6 → s.upd.step = 16 → s.stepDue = true → s.get F.UPD_PROGRESS_benches = 0 →
      ∃ u, exec .rollbackBenchStep s = .next u ∧ u.is F.UPD_PROGRESS_controller = false ∧ u.updState = 0 ∧
        u.get F.UPD_STATUS_reason = s.upd.rollback % 256 ∧ u.leafSet (loadLeaf 7) = true ∧
        u.ring.fwVersion = imgMajor s.runningImage * 256 + imgMinor s.runningImage) ∧
    (∀ b, b < 16 → quiet → s.updState = 6 → s.upd.step = b → s.stepDue = true → (s.benchOf b).reloading = false →
      s.reloadReady b = true → ∃ u, exec .rollbackBenchStep s = .next u ∧ u.bitOf F.UPD_PROGRESS_benches [] b = false)

/-- CAUSE_LEAF_CLEAR, CAUSE_ENABLE_WRITE, WATCHDOG_KICK, FAULT_FORCE, CONTROLLER_WATCHDOG_EXPIRY, FAULT_PAIR_SWAP and
REFCLK_LOSS (R483, R486, R488, R490, R491, R493, R494). An event that sets a leaf (R486, R489, R497): the leaf; a record of
its own with the unit, the code and no merges when the leaf was clear and its block not recovering, or one merge more; and
one journal entry for a new record only. Where the spec leaves a reading or a choice, it takes the model's of log entries 10
and 11. -/
def Obligations.CauseTreeAndLeafEvents : Prop :=
  (∀ (s : State) (p : Path) (w val : Nat), s.down .hopper = false → w < 28 → val < 2 ^ 32 →
     let m := val &&& s.leafMask (s.pathFace p) w true
     let faulted (u : State) (bit : Nat) : Prop :=
       u.chipFault = true ∧ natBit (u.rd .CAUSE_FAULT_STATUS) bit = true ∧ (s.chipFault = false → u.faultPair = .low) ∧
         ∀ i, i < 31 → natBit (s.rd .CAUSE_FAULT_STATUS) i = true → natBit (u.rd .CAUSE_FAULT_STATUS) i = true
     (s.admits p .CAUSE_LEAF [w] val → ∃ u, exec (.causeLeafClear p w val) s = .next u ∧ ∀ j, j < 32 →
       (natBit m j = true → u.leafSet (32 * w + j) = false ∧
         (s.is F.CAUSE_REC_recovering [32 * w + j] = false → u.rd .CAUSE_REC [32 * w + j] = 0)) ∧
       (natBit m j = false → u.leafSet (32 * w + j) = s.leafSet (32 * w + j) ∧
         u.rd .CAUSE_REC [32 * w + j] = s.rd .CAUSE_REC [32 * w + j])) ∧
     (s.admits p .CAUSE_EN [w] val → ∃ u, exec (.causeEnableWrite p w val) s = .next u ∧
       s.regsOnly u (fun a => a == Reg.CAUSE_EN.addr [w]) ∧
       ∀ j, j < 32 → natBit (u.rd .CAUSE_EN [w]) j =
         if natBit (s.leafMask (s.pathFace p) w true) j then natBit val j else natBit (s.rd .CAUSE_EN [w]) j) ∧
     (s.admits p .CAUSE_FAULT_CTRL [] 0x80000000 → ∃ u, exec (.watchdogKick p) s = .next u ∧ s.wordsKept u (fun _ => false) ∧
       u.chip = { s.chip with kicked := s.time.cycles }) ∧
     (s.admits p .CAUSE_FAULT_CTRL [] 0x40000000 → ∃ u, exec (.faultForce p) s = .next u ∧ faulted u 6) ∧
     (s.ringReady = true → ∃ u, exec .controllerWatchdogExpiry s = .next u ∧ faulted u 5) ∧
     (s.ringReady = false → exec .controllerWatchdogExpiry s = .next s.clearOut) ∧
     (s.edge.held = false → ∃ u, exec .refclkLoss s = .next u ∧ faulted u 4 ∧ u.leafSet (timeLeaf 16) = true) ∧
     (s.ringReady = true → s.chipFault = false → ∃ u, exec .faultPairSwap s = .next u ∧
       u = { s.clearOut with faultPair := if s.faultPair = .aHigh then .aLow else .aHigh }) ∧
     ((s.ringReady = false ∨ s.chipFault = true) → ∃ u, exec .faultPairSwap s = .next u ∧ u = { s.clearOut with faultPair := .low })) ∧
  (∀ (s : State) (n unit code : Nat) (rec' : Bool), leafAssigned n = true →
     let u := s.leaf n unit code rec'
     let next := s.get F.CAUSE_JOURNAL_PTR_next
     let fresh := !s.leafSet n && !s.is F.CAUSE_REC_recovering [n]
     u.leafSet n = true ∧ (∀ k, k < 896 → k ≠ n → u.leafSet k = s.leafSet k) ∧
       s.wordsKept u causeAddr ∧ u = { s with regs := u.regs } ∧
       (fresh = true → u.get F.CAUSE_REC_unit [n] = unit % 256 ∧ u.get F.CAUSE_REC_code [n] = code % 2 ^ 16 ∧
         u.get F.CAUSE_REC_merge [n] = 0 ∧ u.is F.CAUSE_REC_recovering [n] = rec' ∧
         u.get F.CAUSE_JOURNAL_PTR_next = (next + 1) % 1024 ∧ natBits (u.rd .CAUSE_JOURNAL [next, 0]) 9 0 = n ∧
         u.rd .CAUSE_JOURNAL [next, 1] = u.rd .CAUSE_REC [n] ∧ u.rd .CAUSE_JOURNAL [next, 3] = secOf s.time.a.t % 2 ^ 32 ∧
         natBits (u.rd .CAUSE_JOURNAL [next, 2]) 29 0 = nsOf s.time.a.t) ∧
       (fresh = false → u.get F.CAUSE_REC_merge [n] = satInc (s.get F.CAUSE_REC_merge [n]) 15 ∧
         u.get F.CAUSE_REC_unit [n] = s.get F.CAUSE_REC_unit [n] ∧ u.rd .CAUSE_JOURNAL_PTR = s.rd .CAUSE_JOURNAL_PTR ∧
         ∀ i j, i < 1024 → j < 4 → u.rd .CAUSE_JOURNAL [i, j] = s.rd .CAUSE_JOURNAL [i, j]))

/-- RESET_N, WARM_RESET, CONFIG_LOAD, RING_READY and CONFIG_RELOAD (R494, R500 to R504, R507 to R511, R518 to R521). Where
the spec leaves a reading or a choice, it takes the model's of log entries 38 and 39. -/
def Obligations.Resets : Prop :=
  ∀ (s : State) (p : Path), s.down .hopper = false →
    (∀ ns pos, 1000 ≤ ns → s.edge.held = false → s.dying = false → ∃ u, exec (.resetN ns pos) s = .next u ∧
      u.get F.CHIP_RESET_CAUSE_last = 1 ∧ u.get F.CHIP_RESET_CAUSE_warm_count = 0 ∧ u.hub = pos % 64 ∧ u.faultPair = .low ∧
      u.is F.CHIP_STATUS_cfg_locked = false ∧ u.get F.CFG_STATUS_state = 0 ∧ u.time.a.t = 0 ∧ u.time.b.t = 0 ∧ u.can = [] ∧
      u.chip.flash = s.chip.flash ∧ ∀ b k, b < 16 → k < 64 → (u.sett b k).phase = .stopped) ∧
    (∀ ns pos, (ns < 200 ∨ s.dying = true) → exec (.resetN ns pos) s = .next s.clearOut) ∧
    (s.admits p .CHIP_RESET [] 1 → s.coldInProgress = false → s.handingOver = false → ∃ u, exec (.warmReset p) s = .next u ∧
      u.get F.CHIP_RESET_CAUSE_last = 2 ∧
      u.get F.CHIP_RESET_CAUSE_warm_count = satInc (s.get F.CHIP_RESET_CAUSE_warm_count) 255 ∧
      u.integrated = false ∧ u.is F.CHIP_STATUS_cfg_locked = false ∧ u.get F.CFG_STATUS_state = 0 ∧ u.hub = s.hub ∧
      u.faultPair = .low ∧ u.time.a.t = s.time.a.t ∧ u.chip.flash = s.chip.flash ∧
      ∀ b k, b < 16 → k < 64 → (u.sett b k).phase = .stopped) ∧
    (s.admits p .CHIP_RESET [] 1 → s.coldInProgress = false → s.handingOver = true → ∃ u, exec (.warmReset p) s = .next u ∧
      u.chip = { s.chip with warmWaiting := true } ∧ s.wordsKept u (fun _ => false)) ∧
    (s.admits p .CHIP_RESET [] 1 → s.coldInProgress = true → ∃ u, exec (.warmReset p) s = .next u ∧
      u.chip = s.chip ∧ s.wordsKept u (fun _ => false)) ∧
    (∀ failed, natBit failed 0 = true → natBit failed 1 = true → s.edge.held = false → s.get F.CFG_STATUS_state = 0 →
      s.get F.TST_MODE_tmode = 0 → ∃ u, exec (.configLoad failed) s = .next u ∧ u.inRecovery = true ∧
        u.get F.CFG_STATUS_refuse_code = 9 ∧ u.is F.CFG_STATUS_fallback = true ∧ u.leafSet (loadLeaf 1) = true ∧
        u.is F.CHIP_STATUS_cfg_locked = false ∧ u.faultPair = .low ∧ u.chip.flash = s.chip.flash) ∧
    (∀ failed, s.get F.CFG_STATUS_state ≠ 0 → exec (.configLoad failed) s = .next s.clearOut) ∧
    (∀ failed,
      let b := s.findBoot
      let s' : State := { s.clearOut with chip := { s.chip with boot := b.2.2, unlockWindow := false } }
      let x := ((s'.setB F.CFG_BOOT_bootrec_valid [] b.1).set F.CFG_BOOT_preferred [] b.2.1).trySlot b.2.1 (natBit failed b.2.1)
      s.edge.held = false → s.get F.CFG_STATUS_state = 0 → s.get F.TST_MODE_tmode = 0 →
      ∃ u, exec (.configLoad failed) s = .next u ∧
        (x.fault = none → u.is F.CHIP_STATUS_cfg_locked = true ∧ u.get F.CFG_STATUS_state = 4 ∧
          u.rd .CFG_IMAGE_SEQ = imgSequence (x.s.slotImage b.2.1) % 2 ^ 32 ∧ u.runningSlot = b.2.1) ∧
        (x.fault ≠ none → u.is F.CFG_STATUS_fallback = true ∧
          (u.get F.CFG_STATUS_state = 4 ∨ u.get F.CFG_STATUS_state = 6))) ∧
    (s.is F.CHIP_STATUS_cfg_locked = true → s.get F.CFG_STATUS_state = 4 → ∃ u, exec .ringReady s = .next u ∧ u.ringReady = true ∧
      u.is F.CAUSE_FAULT_STATUS_not_ready = false ∧ u.chip.kicked = s.time.cycles ∧
      ∀ b, b < 16 → u.is F.BNCH_STATUS_fw_running [b] = true) ∧
    (s.admits p .CFG_BOOT [] 0x80000000 → s.inRecovery = true → ∃ u, exec (.configReload p) s = .next u ∧ u.rd .CFG_STATUS = 0 ∧
      u.inRecovery = false ∧ u.hub = s.hub ∧ u.can = [] ∧ u.time = s.time ∧ u.chip = s.chip ∧
      (∀ b k, b < 16 → k < 64 → (u.sett b k).phase = .stopped) ∧
      s.wordsKept u (fun a => a == Reg.CFG_STATUS.addr [] || ethAddr a || canAddr a || benchAddr a || causeAddr a)) ∧
    (s.admits p .CFG_BOOT [] 0x80000000 → s.inRecovery = false → ∃ u, exec (.configReload p) s = .next u ∧
      s.wordsKept u (fun _ => false))

/-- FLASH_READ_PAGE, FLASH_PROGRAM_PAGE, FLASH_ERASE_SECTOR, FLASH_OPERATION_END and JOURNAL_ERASE_COMPLETE (R521, R527,
R561). Bytes of the flash (R510, R521): a read after programming an erased place returns what was programmed, a byte outside
what is programmed or erased keeps its value, and an erased byte reads 0xFF. Where the spec leaves a reading or a choice, it
takes the model's of log entries 30 and 31. -/
def Obligations.FlashOperations : Prop :=
  (∀ (s : State) (p : Path), s.down .hopper = false →
     let addr := s.get F.CFG_FLASH_ADDR_address
     let free : Prop := s.is F.CFG_FLASH_CMD_busy = false
     let begun (i : Instr) (op : Nat) : Prop := ∃ u, exec i s = .next u ∧ u.is F.CFG_FLASH_CMD_busy = true ∧
       u.is F.CFG_FLASH_CMD_error = false ∧ u.chip = { s.chip with flashOp := op }
     let turnedAway (i : Instr) : Prop := ∃ u, exec i s = .next u ∧ u.is F.CFG_FLASH_CMD_busy = false ∧
       u.is F.CFG_FLASH_CMD_error = true ∧ u.chip = s.chip
     (s.admits p .CFG_FLASH_CMD [] 1 → free → (addr % 256 = 0 → begun (.flashReadPage p) 1) ∧ (addr % 256 ≠ 0 → turnedAway (.flashReadPage p))) ∧
     (s.admits p .CFG_FLASH_CMD [] 2 → free → (addr % 256 = 0 → begun (.flashProgramPage p) 2) ∧ (addr % 256 ≠ 0 → turnedAway (.flashProgramPage p))) ∧
     (s.admits p .CFG_FLASH_CMD [] 3 → free → (addr % 65536 = 0 → begun (.flashEraseSector p) 3) ∧
       (addr % 65536 ≠ 0 → turnedAway (.flashEraseSector p))) ∧
     (s.chip.flashOp ≠ 0 → (s.chip.flashOp ≠ 3 ∨ s.dying = false) → ∃ u, exec (.flashOperationEnd false) s = .next u ∧ u.is F.CFG_FLASH_CMD_busy = false ∧
       u.is F.CFG_FLASH_CMD_error = true ∧ u.chip = { s.chip with flashOp := 0 }) ∧
     (s.chip.flashOp = 1 → ∃ u, exec (.flashOperationEnd true) s = .next u ∧ u.is F.CFG_FLASH_CMD_busy = false ∧
       u.is F.CFG_FLASH_CMD_error = false ∧ u.chip.flash = s.chip.flash ∧
       ∀ k, k < 64 → u.rd .CFG_FLASH_BUF [k] = leAt (s.flashAt addr 256) (4 * k) 4) ∧
     (s.chip.flashOp = 2 → ∃ u, exec (.flashOperationEnd true) s = .next u ∧ u.is F.CFG_FLASH_CMD_busy = false ∧
       u.is F.CFG_FLASH_CMD_error = false ∧ u.chip.flash = flashProgram s.chip.flash addr s.flashBuffer) ∧
     (s.chip.flashOp = 3 → s.dying = true → ∀ ok, exec (.flashOperationEnd ok) s = .next s.clearOut) ∧
     (s.chip.flashOp = 3 → s.dying = false → ∃ u, exec (.flashOperationEnd true) s = .next u ∧ u.is F.CFG_FLASH_CMD_busy = false ∧
       u.is F.CFG_FLASH_CMD_error = false ∧ u.chip.flash = flashErase s.chip.flash addr 65536) ∧
     (s.chip.flashOp = 0 → (s.updState = 1 ∨ s.updState = 2) → ∃ u, exec (.flashOperationEnd false) s = .next u ∧ u.updState = 7 ∧
       u.get F.UPD_STATUS_reason = 4) ∧
     (s.ringReady = true → s.dying = false → ∃ u, exec .journalEraseComplete s = .next u ∧ u.edge.erased = true ∧ u.regs = s.regs ∧
       u.chip.flash = flashErase s.chip.flash (s.chip.boot.journal + s.flushSector * 65536) 65536)) ∧
  (∀ (m : List (Nat × Byte)) (addr : Nat) (bs : List Byte) (n a : Nat), smWf m erased = true →
     smWf (flashPut m addr bs) erased = true ∧ smWf (flashProgram m addr bs) erased = true ∧ smWf (flashErase m addr n) erased = true ∧
       flashSlice (flashPut m addr bs) addr bs.length = bs ∧ flashSlice (flashErase m addr n) addr n = List.replicate n erased ∧
       flashSlice (flashProgram (flashErase m addr bs.length) addr bs) addr bs.length = bs ∧
       ((a < addr ∨ addr + bs.length ≤ a) → flashSlice (flashProgram m addr bs) a 1 = flashSlice m a 1) ∧
       ((a < addr ∨ addr + n ≤ a) → flashSlice (flashErase m addr n) a 1 = flashSlice m a 1))

/-- TEST_UNLOCK, PCIE_PERST, PCIE_LINK_CHANGE and JTAG_TAP_OPERATION (R484, R504, R558, R586, R589, R590): a scan of each of
the three instructions from idle to idle, and one cycle of TCK through the controller of IEEE 1149.1. Where the spec leaves a
reading or a choice, it takes the model's of log entry 47. -/
def Obligations.TestAndLink : Prop :=
  ∀ (s : State) (p : Path) (val : Nat),
    (s.admits p .TST_UNLOCK [] val → s.chip.unlockWindow = true → s.get F.CFG_STATUS_state = 0 →
      ∃ u, exec (.testUnlock p val) s = .next u ∧ u.is F.TST_MODE_unlocked = true ∧
        s.wordsKept u (fun a => a == Reg.TST_MODE.addr [])) ∧
    (s.admits p .TST_UNLOCK [] val → s.chip.unlockWindow = false →
      ∃ u, exec (.testUnlock p val) s = .next u ∧ u.leafSet (testLeaf 2) = true ∧ s.wordsKept u causeAddr) ∧
    (∃ u, exec (.pciePerst true) s = .next u ∧ u.chip.perst = true ∧ u.chip.linkUp = false ∧ u.chip.bar0 = 0 ∧ u.chip.bar2 = 0 ∧
      (s.chip.linkUp = true → u.leafSet (hostLeaf 5) = true)) ∧
    (∃ u, exec (.pciePerst false) s = .next u ∧ u = { s.clearOut with chip := { s.chip with perst := false } }) ∧
    (s.chip.perst = false → s.edge.held = false → s.dying = false → s.chip.linkUp = false →
      ∃ u, exec (.pcieLinkChange true) s = .next u ∧ u.chip = { s.chip with linkUp := true } ∧ u.leafSet (hostLeaf 5) = true) ∧
    (s.chip.linkUp = true → ∃ u, exec (.pcieLinkChange false) s = .next u ∧ u.chip = { s.chip with linkUp := false } ∧
      u.leafSet (hostLeaf 5) = true) ∧
    (∃ u, exec (.jtagTapOperation .trstLow) s = .next u ∧ u = { s.clearOut with chip := { s.chip with tap := { low := true } } }) ∧
    (∃ u, exec (.jtagTapOperation .trstHigh) s = .next u ∧
      u = { s.clearOut with chip := { s.chip with tap := { s.chip.tap with low := false } } }) ∧
    ((s.edge.held = true ∨ s.chip.tap.low = true) → ∀ tms tdi n,
      ∀ op ∈ [TapOp.clock tms tdi, .bypass, .idcode, .samplePreload n], exec (.jtagTapOperation op) s = .next s.clearOut) ∧
    (s.edge.held = false → s.chip.tap.low = false →
      let scan (i : TapIns) : ChipState := { s.chip with tap := { state := .runTestIdle, ins := i } }
      (∃ u, exec (.jtagTapOperation .bypass) s = .next u ∧ u = { s.clearOut with chip := scan .bypass, out := [.tap 1 0] }) ∧
      (∃ u, exec (.jtagTapOperation .idcode) s = .next u ∧ u = { s.clearOut with chip := scan .idcode, out := [.tap 32 0x11024947] }) ∧
      (∀ n, ∃ u v, exec (.jtagTapOperation (.samplePreload n)) s = .next u ∧ v < 2 ^ n ∧
        u = { s.clearOut with chip := scan .samplePreload, out := [.tap n v], free := s.free + 1 }) ∧
      ∀ tms tdi : Bool, ∃ u, exec (.jtagTapOperation (.clock tms tdi)) s = .next u ∧ u.regs = s.regs ∧
        u.chip = { s.chip with tap := u.chip.tap } ∧ u.chip.tap.state = s.chip.tap.state.next tms ∧ u.chip.tap.low = false ∧
        (u.chip.tap.state = .testLogicReset → u.chip.tap.ins = .idcode) ∧
        (s.chip.tap.state ≠ .shiftDr → s.chip.tap.state ≠ .shiftIr → u.out = []) ∧
        (s.chip.tap.state = .shiftDr → s.chip.tap.ins = .idcode → s.chip.tap.shifted.length < 32 →
          u.out = [.tap 1 (b2n (natBit 0x11024947 s.chip.tap.shifted.length))] ∧
          (tms = false → u.chip.tap.shifted = s.chip.tap.shifted ++ [tdi])))

/-- PERMIT_REQUEST, PERMIT_RETURN, PERMIT_WAIT_LIMIT, BUDGET_WRITE, BIST_GO and BIST_END. Where the spec leaves a reading or
a choice, it takes the model's of log entry 46. -/
def Obligations.PermitsAndTest : Prop :=
  ∀ (s : State) (k : PermitKind) (unit : Nat) (p : Path), s.down .hopper = false →
    (s.permitKnown k unit = true → exec (.permitRequest k unit) s = .next s.clearOut) ∧
    (k ≠ .deltaApply → s.permitKnown k unit = false → s.permits.waiting = [] → s.permitFits k = true → s.burstCapped k = false →
      s.is F.PMT_STATUS_revoked = false →
      ∃ u, exec (.permitRequest k unit) s = .next u ∧ u.permits.held = s.permits.held ++ [(k, unit)] ∧ u.permits.waiting = []) ∧
    (s.permitKnown k unit = false → s.permits.waiting = [] → (s.permitFits k = false ∨ s.burstCapped k = true) →
      ∃ u, exec (.permitRequest k unit) s = .next u ∧ u.permits.held = s.permits.held ∧
        u.permits.waiting = [{ kind := k, unit := unit, since := s.time.cycles }] ∧ u.regs = s.regs) ∧
    (s.permitHeld k unit = true → s.permits.waiting = [] →
      ∃ u, exec (.permitReturn k unit) s = .next u ∧ u.permits.held = s.permits.held.erase (k, unit) ∧ u.permits.waiting = [] ∧
        u.regs = s.regs) ∧
    (∀ since, s.permits.waiting = [{ kind := k, unit := unit, since := since }] → ∃ u, exec (.permitWaitLimit k unit) s = .next u ∧
      u.permits.waiting = [{ kind := k, unit := unit, late := true, since := since }] ∧ u.get F.PMT_STATUS_late = satInc (s.get F.PMT_STATUS_late) 255 ∧
      u.leafSet (governorLeaf 0) = true) ∧
    (∀ budget, budget < 64 → s.admits p .PMT_CFG [] (s.merged p .PMT_CFG [] 0x3F budget) → s.permits.waiting = [] →
      (s.lockedFor p = false → 4 ≤ budget → ∃ u, exec (.budgetWrite p budget) s = .next u ∧ u.get F.PMT_CFG_budget = budget) ∧
      (s.lockedFor p = false → budget < 4 → ∃ u, exec (.budgetWrite p budget) s = .next u ∧
        u.get F.PMT_CFG_budget = s.get F.PMT_CFG_budget ∧ u.leafSet (governorLeaf 1) = true) ∧
      (s.lockedFor p = true → budget ≠ s.get F.PMT_CFG_budget → ∃ u, exec (.budgetWrite p budget) s = .next u ∧
        u.get F.PMT_CFG_budget = s.get F.PMT_CFG_budget ∧ u.leafSet (loadLeaf 0) = true)) ∧
    (∀ b, b < 16 → s.admits p .TST_BIST_CTRL [] (2 ^ 31 + b) → s.permits.waiting = [] → s.permitHeld .bist 0 = false →
      ∃ u, exec (.bistGo p b) s = .next u ∧ u.get F.TST_BIST_STATUS_bench = b ∧
        u.get F.TST_BIST_STATUS_state = (if s.permitFits .bist && !s.is F.PMT_STATUS_revoked then 2 else 1)) ∧
    (s.get F.TST_BIST_STATUS_state = 2 → s.permits.waiting = [] →
      let b := s.get F.TST_BIST_STATUS_bench
      (∃ u, exec (.bistEnd .passed) s = .next u ∧ u.get F.TST_BIST_STATUS_state = 3 ∧ u.leafSet (testLeaf 0) = true ∧
        u.permits.held = s.permits.held.erase (.bist, 0) ∧
        ∀ i j, i < 64 → j < 64 → u.rd .SETT_PROG [b, i, j] = 0) ∧
      (∀ n off, 1 ≤ n → n ≤ 7 → ∃ u, exec (.bistEnd (.failed n off)) s = .next u ∧ u.get F.TST_BIST_STATUS_state = 4 ∧
        u.get F.TST_BIST_STATUS_unit = n ∧ u.get F.TST_BIST_STATUS_offset = off % 2 ^ 16 ∧ u.leafSet (testLeaf 1) = true))

/-- COLD_START, ALWAYS_ON_STOP, FEED_CHANGE and FEED_REVERSE (R542, R543, R545): the start of the always-on island, its stop,
after which it takes no command of its own but a new start, and the feeds with their gates and leaves. The 10 µs step of the
always-on island on an empty queue (R549, R554 to R556), with the FET off: the charge count follows the bank current and does
not fall below 0, the charge of a measurement with it, and both nodes of the thermal model go toward the ambient temperature.
Where the spec leaves a reading or a choice, it takes the model's of log entry 44. -/
def Obligations.EdgeFeeds : Prop :=
  (∀ (s : State),
     (∀ vina vinb vhold, 4000 < max vina (max vinb vhold) → ∃ u, exec (.coldStart vina vinb vhold) s = .next u ∧
       u.edge = { held := true, bankMv := vhold } ∧ u.edgeState = 0 ∧ u.get F.EDGE_FEED_V_vina = min vina 65535 ∧
       u.get F.EDGE_FEED_V_vinb = min vinb 65535 ∧ u.get F.EDGE_HOLD_STATUS_v_hold = min (vhold / 10) 4095 ∧
       u.get F.EDGE_THERM_STATUS_t_fet = 0x55 * 64 ∧ u.is F.EDGE_STATUS_hs_on = false ∧ u.is F.EDGE_STATUS_damaged = false ∧
       u.is F.EDGE_RETRY_running = false ∧ u.permits = {} ∧ u.chip.flash = s.chip.flash) ∧
     (∀ vina vinb vhold, max vina (max vinb vhold) ≤ 4000 → exec (.coldStart vina vinb vhold) s = .next s.clearOut) ∧
     (∃ u, exec .alwaysOnStop s = .next u ∧ u.edge = { held := true, stopped := true } ∧ u.permits = {} ∧
       u.chip.flash = s.chip.flash ∧ ∀ a, alwaysOnAddr a = true → smGet u.regs a 0 = 0) ∧
     (s.edge.stopped = true → ∀ (f b : Bool) (n k pos tm : Nat) (x : BankSample),
       ∀ i ∈ [Instr.feedChange f n, .feedReverse f, .seatingChange f b, .seatingDebounced, .inrushStart, .inrushEnd, .inrushTimeout,
         .gateCheckPass, .gateCheckFail, .shortDetected, .retryExpiry, .fuseTrip, .thermalTrip n, .pgoodRise k pos tm,
         .railGapExpiry, .pgoodTimeout, .pgoodLoss k, .dyingGasp n, .journalFlushEnd b, .park, .holdupReadyChange x,
         .capacitanceMeasured n, .gaugeDisagreement, .quietPeriodEnd], exec i s = .next s.clearOut) ∧
     (∀ feedB mv, s.edge.stopped = false → mv < 65536 →
       let fall := s.get F.EDGE_FEED_CFG_uv_fall * 50
       let rise := s.get F.EDGE_FEED_CFG_uv_rise * 50
       let ov := s.get F.EDGE_FEED_CFG_ov * 50
       let was := s.get (voltFld feedB)
       ∃ u, exec (.feedChange feedB mv) s = .next u ∧ u.get (voltFld feedB) = mv ∧
         u.is (feedFld feedB) = (if s.is (feedFld feedB) then decide (fall ≤ mv ∧ mv ≤ ov) else decide (rise < mv ∧ mv < ov)) ∧
         u.is (gateFld feedB) = (u.is (feedFld feedB) && !s.is F.EDGE_STATUS_damaged &&
           !(s.is (gateFld !feedB) && decide (mv + 10 < s.get (voltFld !feedB)))) ∧
         u.get (voltFld (!feedB)) = s.get (voltFld (!feedB)) ∧ u.is (feedFld (!feedB)) = s.is (feedFld (!feedB)) ∧
         u.is (gateFld (!feedB)) = (s.is (gateFld !feedB) || (s.is (feedFld !feedB) && !s.is F.EDGE_STATUS_damaged &&
           !(u.is (gateFld feedB) && decide (s.get (voltFld !feedB) + 10 < mv)))) ∧
         (fall ≤ was → mv < fall → u.leafSet (edgeLeaf (if feedB then 1 else 0)) = true) ∧
         (was ≤ ov → ov < mv → u.leafSet (edgeLeaf (if feedB then 3 else 2)) = true) ∧
         (s.edgeState = 0 → u.edgeState = if s.seated && u.feedValid && !s.is F.EDGE_STATUS_damaged then 1 else 0) ∧
         ((s.edgeState = 1 ∨ s.edgeState = 2 ∨ s.edgeState = 3) →
           if s.seated && u.feedValid then u.edgeState = s.edgeState
           else u.edgeState = 0 ∧ (s.edgeState ≠ 1 → u.is F.EDGE_STATUS_hs_on = false)) ∧
         (4 ≤ s.edgeState → u.edgeState = s.edgeState) ∧ u.chip = s.chip ∧ u.setts = s.setts ∧ u.hop = s.hop ∧
         s.wordsKept u (fun a => alwaysOnAddr a || causeAddr a)) ∧
     (∀ feedB, s.edge.stopped = false → s.is (gateFld feedB) = true → ∃ u, exec (.feedReverse feedB) s = .next u ∧
       u.is (gateFld feedB) = false ∧ u.leafSet (edgeLeaf (if feedB then 5 else 4)) = true ∧ u.edge = s.edge ∧
       s.wordsKept u (fun a => a == Reg.EDGE_STATUS.addr [] || causeAddr a)) ∧
     (∀ feedB, s.is (gateFld feedB) = false → exec (.feedReverse feedB) s = .next s.clearOut)) ∧
  (∀ (s : State), s.pending = [] → s.edge.stopped = false → (s.edge.tick + 1) % 5000 = 0 → s.is F.EDGE_STATUS_hs_on = false →
     s.edgeState ≠ 5 → s.is F.EDGE_HS_CFG_diode = false →
     let inRange (t : Int) : Prop := -(2 ^ 41) ≤ t ∧ t < 2 ^ 41
     let amb : Int := (s.get F.EDGE_THERM_CFG_t_amb * 2 ^ 32 : Nat)
     let case := thermalNode (s.get F.EDGE_THERM_STATUS_t_case) s.edge.caseFrac
     let case' := case + (amb - case) / (max (10000 * s.get F.EDGE_THERM_MODEL_tau2) 1 : Nat)
     let fet := thermalNode (s.get F.EDGE_THERM_STATUS_t_fet) s.edge.fetFrac
     let fet' := fet + (case' - fet) / (max (10 * s.get F.EDGE_THERM_MODEL_tau1) 1 : Nat)
     ∃ u, step s = .next u ∧ u.edge.tick = s.edge.tick + 1 ∧ (u.edge.charge : Int) = max 0 (s.edge.charge + s.edge.bankMa) ∧
       u.edge.charging = s.edge.charging.map (fun c => (c.1 + s.edge.bankMa.toNat, c.2)) ∧ u.edgeState = s.edgeState ∧
       (inRange case' → thermalNode (u.get F.EDGE_THERM_STATUS_t_case) u.edge.caseFrac = case') ∧
       (inRange fet' → thermalNode (u.get F.EDGE_THERM_STATUS_t_fet) u.edge.fetFrac = fet') ∧
       s.wordsKept u (fun a => alwaysOnAddr a || ringAddr a || timeAddr a || causeAddr a))

/-- SEATING_CHANGE, SEATING_DEBOUNCED, INRUSH_START, INRUSH_END, INRUSH_TIMEOUT, GATE_CHECK_PASS, GATE_CHECK_FAIL,
SHORT_DETECTED, RETRY_EXPIRY, FUSE_TRIP and THERMAL_TRIP (R544 to R551, R557): from seating to Sequence, and what turns the
FET off. In Run a release of a seating pin and a trip begin a gasp. Where the spec leaves a reading or a choice, it takes the
model's of log entry 44. -/
def Obligations.EdgeInrush : Prop :=
  ∀ (s : State), s.edge.stopped = false →
    let settled (u : State) : Prop := u.edgeState = if s.seated && s.feedValid && !s.is F.EDGE_STATUS_damaged then 1 else 0
    let off (u : State) (cause : Nat) : Prop := u.is F.EDGE_STATUS_hs_on = false ∧
      (s.is F.EDGE_STATUS_hs_on = true → u.get F.EDGE_STATUS_off_cause = cause ∧ u.is F.EDGE_RETRY_running = true ∧
        u.get F.EDGE_RETRY_remaining = s.get F.EDGE_RETRY_retry)
    let gasps (u : State) (cause : Nat) : Prop := u.edgeState = 5 ∧ u.edge.gaspCause = cause ∧ u.chipFault = true ∧
      u.permits.held = []
    let damaged (u : State) : Prop := u.edgeState = 7 ∧ u.is F.EDGE_STATUS_damaged = true ∧ off u 7 ∧
      u.is F.EDGE_STATUS_or_a_on = false ∧ u.is F.EDGE_STATUS_or_b_on = false ∧ u.edge.held = true ∧
      (s.edge.held = true → u.leafSet (edgeLeaf 10) = true)
    let here (u : State) : Prop := s.wordsKept u (fun a => alwaysOnAddr a || causeAddr a) ∧ u.chip = s.chip ∧ u.setts = s.setts
    (∀ seatB asserted : Bool,
      let f := if seatB then F.EDGE_STATUS_seat_b else F.EDGE_STATUS_seat_a
      let both := asserted && s.is (if seatB then F.EDGE_STATUS_seat_a else F.EDGE_STATUS_seat_b)
      (s.is f = asserted → exec (.seatingChange seatB asserted) s = .next s.clearOut) ∧
      (s.is f ≠ asserted → ∃ u, exec (.seatingChange seatB asserted) s = .next u ∧ u.is f = asserted ∧
        u.leafSet (edgeLeaf 6) = true ∧
        (asserted = true → s.edgeState = 0 →
          u.edgeState = if both && s.feedValid && !s.is F.EDGE_STATUS_damaged then 1 else 0) ∧
        (asserted = false → u.edge.debounced = false ∧ off u 2 ∧ (s.edgeState ≤ 3 → u.edgeState = 0) ∧
          (s.edgeState = 4 → gasps u 2)))) ∧
    (s.seated = true → ∃ u, exec .seatingDebounced s = .next u ∧ u = { s.clearOut with edge := { s.edge with debounced := true } }) ∧
    (let cool : Prop := toSigned (s.get F.EDGE_THERM_STATUS_t_fet) 16 ≤ s.get F.EDGE_THERM_CFG_t_restart * 64
     (s.edgeState = 1 → s.edge.debounced = true → s.is F.EDGE_RETRY_running = false → cool → ∃ u, exec .inrushStart s = .next u ∧
      u.edgeState = 2 ∧ u.is F.EDGE_STATUS_hs_on = true ∧ u.edge.gateCheck = false ∧ u.edge.folded = s.foldsBack ∧
      (s.foldsBack = true → u.leafSet (edgeLeaf 7) = true) ∧ here u) ∧
     ((s.edgeState ≠ 1 ∨ s.edge.debounced = false ∨ s.is F.EDGE_RETRY_running = true ∨ ¬ cool) →
      exec .inrushStart s = .next s.clearOut)) ∧
    (s.edgeState = 2 → s.edge.gateCheck = false →
      (∃ u, exec .inrushEnd s = .next u ∧ u.edgeState = 2 ∧ u.edge.gateCheck = true ∧ u.is F.EDGE_HOLD_STATUS_disagree = false ∧
        u.edge.charge = s.capInUse * (s.edge.bankMv - s.get F.EDGE_HOLD_CFG_v_stop * 50) ∧
        u.is F.EDGE_STATUS_hs_on = s.is F.EDGE_STATUS_hs_on ∧ here u) ∧
      (∃ u, exec .inrushTimeout s = .next u ∧ off u 6 ∧ settled u ∧ here u)) ∧
    (s.edgeState = 2 → s.edge.gateCheck = true →
      (∃ u, exec .gateCheckPass s = .next u ∧ u.edgeState = 3 ∧ u.get F.EDGE_RAIL_STATUS_pwr_en = 1 ∧ u.edge.dropping = false ∧
        u.is F.EDGE_STATUS_hs_on = s.is F.EDGE_STATUS_hs_on ∧ here u) ∧
      (∃ u, exec .gateCheckFail s = .next u ∧ damaged u)) ∧
    (s.feedValid = true → s.is F.EDGE_STATUS_hs_on = false → ∃ u, exec .shortDetected s = .next u ∧ damaged u) ∧
    (s.is F.EDGE_RETRY_running = true → ∃ u, exec .retryExpiry s = .next u ∧ u.is F.EDGE_RETRY_running = false ∧
      u.get F.EDGE_RETRY_remaining = 0 ∧ u.leafSet (edgeLeaf 9) = true ∧ u.edge = s.edge ∧
      s.wordsKept u (fun a => a == Reg.EDGE_RETRY.addr [] || causeAddr a)) ∧
    (s.is F.EDGE_STATUS_hs_on = true → ∃ u, exec .fuseTrip s = .next u ∧ u.leafSet (edgeLeaf 8) = true ∧ off u 3 ∧
      ((s.edgeState = 2 ∨ s.edgeState = 3) → settled u ∧ here u) ∧ (s.edgeState = 4 → gasps u 3)) ∧
    (s.is F.EDGE_STATUS_hs_on = false → s.gaspBeganNow = false → exec .fuseTrip s = .next s.clearOut) ∧
    (∀ t, t < 32768 → s.is F.EDGE_STATUS_hs_on = true → s.get F.EDGE_THERM_CFG_t_limit * 64 ≤ t →
      ∃ u, exec (.thermalTrip t) s = .next u ∧ u.leafSet (edgeLeaf 11) = true ∧ u.get F.EDGE_THERM_STATUS_t_fet = t ∧
        (s.is F.EDGE_HS_CFG_diode = true → u.get F.EDGE_THERM_STATUS_t_case = t) ∧ off u 4 ∧
        ((s.edgeState = 2 ∨ s.edgeState = 3) → settled u ∧ here u) ∧ (s.edgeState = 4 → gasps u 4))

/-- PGOOD_RISE, RAIL_GAP_EXPIRY, PGOOD_TIMEOUT and PGOOD_LOSS (R545, R552, R553): the rails one by one, the release of
power-on reset with the last PGOOD, and the way down. Where the spec leaves a reading or a choice, it takes the model's of
log entry 45. -/
def Obligations.EdgeRails : Prop :=
  ∀ (s : State) (k pos tmode : Nat), s.edge.stopped = false → k < 6 →
    let en := s.get F.EDGE_RAIL_STATUS_pwr_en
    let good := s.get F.EDGE_RAIL_STATUS_pgood
    let highest : Prop := natBit en k = true ∧ ∀ j, j < 6 → k < j → natBit en j = false
    let settled (u : State) : Prop := u.edgeState = if s.seated && s.feedValid && !s.is F.EDGE_STATUS_damaged then 1 else 0
    let off (u : State) (cause : Nat) : Prop := u.is F.EDGE_STATUS_hs_on = false ∧
      (s.is F.EDGE_STATUS_hs_on = true → u.get F.EDGE_STATUS_off_cause = cause)
    let lowered (u : State) : Prop := u.get F.EDGE_RAIL_STATUS_pwr_en = en - 2 ^ k ∧ (u.edge.dropping = true ↔ en ≠ 2 ^ k)
    (∃ u, exec (.pgoodRise k pos tmode) s = .next u ∧ u.bitOf F.EDGE_RAIL_STATUS_pgood [] k = true ∧
      (∀ j, j < 6 → j ≠ k → u.bitOf F.EDGE_RAIL_STATUS_pgood [] j = natBit good j) ∧
      (s.edgeState = 3 → en = 63 → (∀ j, j < 6 → j ≠ k → natBit good j = true) →
        u.edgeState = 4 ∧ u.edge.held = false ∧ u.hub = pos % 64 ∧ u.get F.TST_MODE_tmode = tmode % 4 ∧
          u.get F.CHIP_RESET_CAUSE_last = 0 ∧ u.get F.CHIP_RESET_CAUSE_warm_count = 0 ∧
          (u.chip.unlockWindow = true ↔ tmode % 4 ≠ 0) ∧ u.permits = {} ∧ u.faultPair = .low ∧
          u.is F.EDGE_HOLD_STATUS_disagree = false ∧ u.get F.CFG_STATUS_state = 0) ∧
      ((s.edgeState ≠ 3 ∨ en ≠ 63 ∨ ∃ j, j < 6 ∧ j ≠ k ∧ natBit good j = false) →
        u.edgeState = s.edgeState ∧ ({ s with edge := { s.edge with strapPos := pos, strapTmode := tmode } } : State).regsOnly u
          (fun a => a == Reg.EDGE_RAIL_STATUS.addr []))) ∧
    (s.edge.dropping = true → highest → ∃ u, exec .railGapExpiry s = .next u ∧ lowered u ∧
      (s.edgeState = 6 → en = 2 ^ k → settled u) ∧
      s.wordsKept u (fun a => a == Reg.EDGE_RAIL_STATUS.addr [] ||
        (s.edgeState == 6 && en == 2 ^ k && a == Reg.EDGE_STATUS.addr []))) ∧
    (s.edge.dropping = false → s.edgeState = 3 → en = 31 → good = 63 →
      ∃ u, exec .railGapExpiry s = .next u ∧ u.edgeState = 4 ∧ u.edge.held = false ∧
        u.hub = s.edge.strapPos % 64 ∧ u.get F.TST_MODE_tmode = s.edge.strapTmode % 4 ∧ u.get F.CHIP_RESET_CAUSE_last = 0 ∧
        u.get F.EDGE_RAIL_STATUS_pwr_en = 63) ∧
    (s.edge.dropping = false → s.edgeState = 3 → 1 ≤ k → en = 2 ^ k - 1 → natBit good (k - 1) = true → (k ≠ 5 ∨ good ≠ 63) →
      ∃ u, exec .railGapExpiry s = .next u ∧ u.get F.EDGE_RAIL_STATUS_pwr_en = en + 2 ^ k ∧
        s.regsOnly u (fun a => a == Reg.EDGE_RAIL_STATUS.addr [])) ∧
    (s.edgeState = 3 → highest → natBit good k = false → ∃ u, exec .pgoodTimeout s = .next u ∧
      u.get F.EDGE_RAIL_STATUS_lost = k ∧ u.leafSet (edgeLeaf 12) = true ∧ off u 5 ∧ lowered u ∧ settled u ∧
      s.wordsKept u (fun a => alwaysOnAddr a || causeAddr a)) ∧
    (s.edgeState = 4 → ∃ u, exec (.pgoodLoss k) s = .next u ∧ u.bitOf F.EDGE_RAIL_STATUS_pgood [] k = false ∧
      u.get F.EDGE_RAIL_STATUS_lost = k ∧ off u 5 ∧ settled u ∧ u.edge.held = true ∧ u.edge.lastWords = [] ∧
      u.faultPair = .low ∧ (highest → lowered u)) ∧
    (s.edgeState ≠ 4 → ∃ u, exec (.pgoodLoss k) s = .next u ∧ u.bitOf F.EDGE_RAIL_STATUS_pgood [] k = false ∧
      s.wordsKept u (fun a => a == Reg.EDGE_RAIL_STATUS.addr []) ∧
      (k = 0 → ∀ b p, b < 16 → p < 64 → u.pinDrive b p (u.pinOf b p) = none) ∧
      (k ≠ 0 → s.regsOnly u (fun a => a == Reg.EDGE_RAIL_STATUS.addr [])))

/-- DYING_GASP, JOURNAL_FLUSH_END, PARK, HOLDUP_READY_CHANGE, CAPACITANCE_MEASURED, GAUGE_DISAGREEMENT and QUIET_PERIOD_END
(R545, R554 to R562, R570): the gasp, its end, and the hold-up gauge. Where the spec leaves a reading or a choice, it takes
the model's of log entries 44 and 45. -/
def Obligations.EdgeGasp : Prop :=
  ∀ (s : State), s.edge.stopped = false →
    let settled (u : State) : Prop := u.edgeState = if s.seated && s.feedValid && !s.is F.EDGE_STATUS_damaged then 1 else 0
    (∀ cause, 1 ≤ cause → cause ≤ 4 → s.edgeState = 4 → ∃ u, exec (.dyingGasp cause) s = .next u ∧ u.edgeState = 5 ∧
      u.edge.gaspCause = cause ∧ u.leafSet (edgeLeaf 16) = true ∧ u.chipFault = true ∧
      natBit (u.rd .CAUSE_FAULT_STATUS) 3 = true ∧ u.permits = {} ∧ u.is F.PMT_STATUS_revoked = true ∧ u.chip.linkUp = false ∧
      u.is F.EDGE_STATUS_flush_skipped = !s.edge.erased ∧ u.edge.flushing = s.edge.erased ∧ u.edge.lastWords.length = 128 ∧
      byteAt u.edge.lastWords 0 = 0x7E ∧ byteAt u.edge.lastWords 1 = s.hub ∧ byteAt u.edge.lastWords 2 = cause ∧
      u.get F.EDGE_RAIL_STATUS_pwr_en = s.get F.EDGE_RAIL_STATUS_pwr_en &&& (63 - s.get F.EDGE_RAIL_CFG_shed * 8) ∧
      (∀ b, b < 16 → u.is F.BNCH_STATUS_out_of_service [b] = true) ∧ ∀ n, n < 16 → u.is F.CAN_CTRL_enable [n] = false) ∧
    (∀ cause, 1 ≤ cause → cause ≤ 4 → s.gaspBeganNow = true → cause < s.edge.gaspCause →
      ∃ u, exec (.dyingGasp cause) s = .next u ∧ u.edge.gaspCause = cause ∧ u.edge.lastWords = s.edge.lastWords.set 2 (byte cause) ∧
        u.regs = s.regs ∧ u.out = []) ∧
    (∀ cause, (s.edgeState ≠ 4 ∧ (s.gaspBeganNow = false ∨ s.edge.gaspCause ≤ cause) ∨ cause = 0 ∨ 4 < cause) →
      exec (.dyingGasp cause) s = .next s.clearOut) ∧
    (s.edgeState = 5 → ∀ done, ∃ u, exec (.journalFlushEnd done) s = .next u ∧ u.edgeState = 6 ∧ u.edge.flushing = false ∧
      u.edge.held = true ∧ u.permits = {} ∧ u.faultPair = .low ∧ u.is F.EDGE_STATUS_hs_on = s.is F.EDGE_STATUS_hs_on ∧
      (s.edge.flushing = true → done = true → u.leafSet (edgeLeaf 17) = true ∧
        u.chip.flash = flashProgram s.chip.flash (s.chip.boot.journal + s.flushSector * 65536) s.flushPages) ∧
      ((s.edge.flushing = false ∨ done = false) → u.chip.flash = s.chip.flash ∧ u.rd .CAUSE_JOURNAL_PTR = s.rd .CAUSE_JOURNAL_PTR)) ∧
    (s.edgeState ≠ 5 → ∀ done, exec (.journalFlushEnd done) s = .next s.clearOut) ∧
    (let en := s.get F.EDGE_RAIL_STATUS_pwr_en
     s.edgeState = 6 → s.edge.dropping = false → ∃ u, exec .park s = .next u ∧ u.edge.held = true ∧
      (en = 0 → u.get F.EDGE_RAIL_STATUS_pwr_en = 0 ∧ settled u) ∧
      (∀ k, k < 6 → natBit en k = true → (∀ j, j < 6 → k < j → natBit en j = false) →
        u.get F.EDGE_RAIL_STATUS_pwr_en = en - 2 ^ k ∧ (en = 2 ^ k → settled u) ∧
        (en ≠ 2 ^ k → u.edgeState = 6 ∧ u.edge.dropping = true)) ∧
      u.is F.EDGE_STATUS_hs_on = false ∧ u.permits = {} ∧ u.faultPair = .low ∧ u.chip.linkUp = false ∧
      u.chip.flash = s.chip.flash) ∧
    ((s.edgeState ≠ 6 ∨ s.edge.dropping = true) → exec .park s = .next s.clearOut) ∧
    (∀ mv ih, mv < 40960 → s.inInrush = false →
      let stop := s.get F.EDGE_HOLD_CFG_v_stop * 50
      let cap := if s.is F.EDGE_HOLD_STATUS_cap_valid then s.get F.EDGE_HOLD_CAP_c_meas else s.get F.EDGE_HOLD_CFG_c_nom
      let energy := min (cap * (mv * mv - stop * stop) / 200000000) 65535
      let enough := decide (s.get F.EDGE_HOLD_CFG2_e_req ≤ energy)
      ∃ u, exec (.holdupReadyChange { mv := mv, ma := ih }) s = .next u ∧ u.get F.EDGE_HOLD_STATUS_v_hold = min (mv / 10) 4095 ∧
        u.get F.EDGE_HOLD_STATUS_e_v = energy ∧ u.is F.EDGE_HOLD_STATUS_ready = enough ∧
        (s.is F.EDGE_HOLD_STATUS_ready = true → enough = false → s.edgeState = 4 → u.leafSet (edgeLeaf 15) = true) ∧
        u.edge = { s.edge with bankMv := mv, bankMa := ih,
                               charging := if ih < 50 then none else s.edge.charging.or (some (0, mv)) } ∧
        s.wordsKept u (fun a => a == Reg.EDGE_HOLD_STATUS.addr [] || causeAddr a)) ∧
    (∀ mv ih, s.inInrush = true → s.edge.folded = false →
      let fold := decide (40 * s.get F.EDGE_HS_CFG_p_lim * s.get F.EDGE_HS_CFG_r_sense <
        s.get F.EDGE_FUSE_CFG_trip * max (s.orPoint - mv) 500)
      ∃ u, exec (.holdupReadyChange { mv := mv, ma := ih }) s = .next u ∧ u.edge.folded = fold ∧ (fold = true → u.leafSet (edgeLeaf 7) = true)) ∧
    (∀ mv q v, s.edge.charging = some (q, v) → v + 1000 ≤ mv → s.inInrush = false →
      let c := min (q / (mv - v)) 65535
      ∃ u, exec (.capacitanceMeasured mv) s = .next u ∧ u.get F.EDGE_HOLD_CAP_c_meas = c ∧
        u.is F.EDGE_HOLD_STATUS_cap_valid = true ∧ u.capInUse = c ∧ u.get F.EDGE_HOLD_STATUS_e_v = u.bankEnergy mv ∧
        u.edge.charging = some (0, mv) ∧
        (c * 100 < s.get F.EDGE_HOLD_CFG_c_nom * s.get F.EDGE_HOLD_CFG_ageing_pct →
          u.is F.EDGE_HOLD_STATUS_aged = true ∧ u.leafSet (edgeLeaf 14) = true) ∧
        (s.get F.EDGE_HOLD_CFG_c_nom * s.get F.EDGE_HOLD_CFG_ageing_pct ≤ c * 100 →
          u.is F.EDGE_HOLD_STATUS_aged = s.is F.EDGE_HOLD_STATUS_aged ∧
          s.wordsKept u (fun a => a == Reg.EDGE_HOLD_STATUS.addr [] || a == Reg.EDGE_HOLD_CAP.addr [] || causeAddr a))) ∧
    (∀ mv, s.edge.charging.all (fun c => mv < c.2 + 1000) = true →
      exec (.capacitanceMeasured mv) s = .next s.clearOut) ∧
    (let v := s.get F.EDGE_HOLD_STATUS_e_v
     let q := s.get F.EDGE_HOLD_CAP_e_q
     ((10 * v + max v 50 < 10 * q ∨ 10 * q + max v 50 < 10 * v) → ∃ u, exec .gaugeDisagreement s = .next u ∧
        u.is F.EDGE_HOLD_STATUS_disagree = true ∧ u.leafSet (edgeLeaf 13) = true ∧
        s.wordsKept u (fun a => a == Reg.EDGE_HOLD_STATUS.addr [] || causeAddr a)) ∧
     (10 * q ≤ 10 * v + max v 50 → 10 * v ≤ 10 * q + max v 50 → exec .gaugeDisagreement s = .next s.clearOut)) ∧
    (s.edge.bankMa.natAbs < s.get F.EDGE_HOLD_CFG2_i_quiet → ∃ u, exec .quietPeriodEnd s = .next u ∧
      u.is F.EDGE_HOLD_STATUS_disagree = false ∧ u.edge.charge = s.capInUse * (s.edge.bankMv - s.get F.EDGE_HOLD_CFG_v_stop * 50) ∧
      s.wordsKept u (fun a => a == Reg.EDGE_HOLD_STATUS.addr [] || a == Reg.EDGE_HOLD_CAP.addr [])) ∧
    (s.get F.EDGE_HOLD_CFG2_i_quiet ≤ s.edge.bankMa.natAbs → exec .quietPeriodEnd s = .next s.clearOut)

/-! ## The hub as a whole -/

/-- A step takes the command at the front of the queue and carries it out over the queue's rest; with none waiting, one cycle
of the time core passes unless the islands are held in reset, and one clock of the always-on island unless it has stopped,
whose 10 µs steps alone reach further (log entries 1 and 44). -/
def Obligations.StepRunsTheFrontCommand : Prop :=
  ∀ (s : State) (c : Instr) (rest : List Instr),
    step { s with pending := c :: rest } = exec c { s with pending := rest } ∧
    (∃ u, step { s with pending := [] } = .next u ∧ u.pending = [] ∧
      (s.edge.stopped = false → u.edge.tick = s.edge.tick + 1) ∧ (s.edge.held = false → u.time.cycles = s.time.cycles + 1) ∧
      (s.edge.held = true → u.time = s.time ∧ (s.edge.stopped = true → u = { s with pending := [], out := [], line := [] })) ∧
      ((s.edge.stopped = true ∨ (s.edge.tick + 1) % 5000 ≠ 0) → u.out = [] ∧ u.setts = s.setts ∧ u.hop = s.hop ∧ u.chip = s.chip))

/-- No command is refused and none faults: each answers a next state in every state of the hub; one whose island is held in
reset, or which recovery keeps out of operation, changes nothing (R14, R508). Where the spec leaves a reading or a choice, it
takes the model's of log entry 5. -/
def Obligations.EveryCommandCompletes : Prop :=
  ∀ (c : Instr) (s : State), (∃ u, exec c s = .next u) ∧ (s.down c.island = true → exec c s = .next s.clearOut)

/-- A step removes the command at the front of the queue and leaves the others waiting in their order; no command adds to the
queue. Where the spec leaves a reading or a choice, it takes the model's of log entry 4. -/
def Obligations.QueueIsFirstInFirstOut : Prop := ∀ (s u : State), step s = .next u → u.pending = s.pending.tail

/-- The register store and the flash keep their canonical forms over every step. -/
def Obligations.StoresStayCanonical : Prop := ∀ (s u : State), s.wf = true → step s = .next u → u.wf = true

/-- While the configuration lock stands after a step, no condition of the chip-fault state has been cleared by it (R492: only
a reset that restarts the hopper island, and so clears the lock, clears them). -/
def Obligations.ChipFaultOutlastsCommands : Prop :=
  ∀ (s u : State), step s = .next u → u.is F.CHIP_STATUS_cfg_locked = true →
    (s.chipFault = true → u.chipFault = true) ∧
      ∀ i, i < 7 → natBit (s.rd .CAUSE_FAULT_STATUS) i = true → natBit (u.rd .CAUSE_FAULT_STATUS) i = true

/-- A burned device key stays as it is, whatever the hub is told, resets and cold starts included (R470). -/
def Obligations.BurnedKeyIsForGood : Prop :=
  ∀ (s u : State), s.is F.GRD_STATUS_fuse_burned = true → step s = .next u →
    u.is F.GRD_STATUS_fuse_burned = true ∧ u.grd.deviceKey = s.grd.deviceKey

/-- The state after reset meets the invariant and is empty: no command waits, every register and memory word is at its Reset
column, and what stands beside the registers is as a power-on reset leaves it. Where the spec leaves a reading or a choice,
it takes the model's of log entry 2. -/
def Obligations.ResetState : Prop :=
  State.reset.wf = true ∧ State.reset.pending = [] ∧ State.reset.out = [] ∧
    (∀ (r : Reg) (ix : List Nat), State.reset.rd r ix = r.desc.reset % 2 ^ 32) ∧
    State.reset.rd .CHIP_ID = 0x10244A31 ∧ State.reset.is F.CHIP_STATUS_cfg_locked = false ∧ State.reset.chipFault = false ∧
    State.reset.faultPair = .low ∧ State.reset.integrated = false ∧ State.reset.chip.flash = [] ∧ State.reset.time.a.t = 0 ∧
    State.reset.time.b.t = 0 ∧ State.reset.domState .a = 0 ∧ State.reset.domState .b = 0 ∧ State.reset.permits.held = [] ∧
    ∀ b k, b < 16 → k < 64 → State.reset.sett b k = {} ∧ (State.reset.pinOf b k).enable = false

/-- The local map is one to one: the address of every register copy leads back to that register and copy, and no two copies
share an address. The entries of SLOT_TABLE that exist are those of the round in force. -/
def Obligations.AddressesAreOneToOne : Prop :=
  ∀ (s : State) (r : Reg) (ix : List Nat), r.indexed ix → (r = .SLOT_TABLE → ix.getD 1 0 < s.slotsPerDir) →
    s.regAt (r.addr ix) = some (r, ix) ∧ r.addr ix % 4 = 0 ∧
      ∀ (r' : Reg) (ix' : List Nat), r'.indexed ix' → r'.addr ix' = r.addr ix → r' = r ∧ ix' = ix

/-- Queue numbers (R27): the queue from endpoint e, in class c, toward hub d, and its parts read back. -/
def Obligations.QueueNumbers : Prop :=
  ∀ (e c d : Nat), e < 1024 → c < 16 → d < 64 →
    queueNo e c d = (e <<< 10) ||| (c <<< 6) ||| d ∧ queueNo e c d ≤ 1048575 ∧ queueEp (queueNo e c d) = e ∧
      queueClass (queueNo e c d) = c ∧ queueDest (queueNo e c d) = d ∧
      ∀ q, q ≤ 1048575 → q = queueNo (queueEp q) (queueClass q) (queueDest q)

/-- An access to the hub's own number is served as an access to hub number 0xFF is, by every path and at every width (R25).
-/
def Obligations.OwnHubNumberIsLocal : Prop :=
  ∀ (s : State) (p : Path) (w : Width) (addr val : Nat), addr < 2 ^ 32 →
    exec (.fabricWriteIssue p w (s.hub * 2 ^ 32 + addr) val) s = exec (.fabricWriteIssue p w (0xFF * 2 ^ 32 + addr) val) s ∧
    exec (.fabricReadIssue p w (s.hub * 2 ^ 32 + addr)) s = exec (.fabricReadIssue p w (0xFF * 2 ^ 32 + addr)) s ∧
    (issuer p = true → s.down .hopper = false → s.pathClosed p = false → exec (.fabricWriteIssue p w (s.hub * 2 ^ 32 + addr) val) s = .next (s.clearOut.busWrite p w addr val) ∧
      exec (.fabricReadIssue p w (s.hub * 2 ^ 32 + addr)) s = .next (s.clearOut.busRead p w addr))
end

