-- ==== Sys2Proof/Decode.lean ====
section
/-! DEFINITION. The command a word spells by the operation table's bits. The table gives bits to no row (every row's
encoding is empty), so no word spells a command. -/

namespace Sys2Proof

/-- The command the low `nbits` bits of `w` spell: none, for the table gives no row any bits. -/
def decodeTableWord (_nbits _w : Nat) : Option Instr := none

end Sys2Proof
end

