-- ==== Sys2Proof/Laws/Table.lean ====
section
/-! SUPPORT. The laws of the sparse tables and of the bit fields: what a write leaves to be read, and that a write keeps
the canonical form. -/

namespace Sys2Proof.Machine

theorem smGet_filter_same {α : Type} (m : List (Nat × α)) (k : Nat) (d : α) :
    smGet (m.filter fun e => e.1 != k) k d = d := by
  induction m with
  | nil => rfl
  | cons e t ih =>
    by_cases h : e.1 = k
    · simp [h, ih]
    · simp [h, smGet, ih]

theorem smGet_filter_ne {α : Type} (m : List (Nat × α)) (k j : Nat) (d : α) (h : j ≠ k) :
    smGet (m.filter fun e => e.1 != k) j d = smGet m j d := by
  induction m with
  | nil => rfl
  | cons e t ih =>
    by_cases hk : e.1 = k
    · simp [hk, ih, smGet, h.symm]
    · simp [hk, smGet, ih]

theorem smGet_smPut_same {α : Type} (m : List (Nat × α)) (k : Nat) (x d : α) : smGet (smPut m k x) k d = x := by
  induction m with
  | nil => simp [smPut, smGet]
  | cons e t ih =>
    simp only [smPut]
    split
    · simp [smGet]
    · split
      · simp [smGet]
      · next h => simp [smGet, ih, Ne.symm h]

theorem smGet_smPut_ne {α : Type} (m : List (Nat × α)) (k j : Nat) (x d : α) (h : j ≠ k) :
    smGet (smPut m k x) j d = smGet m j d := by
  induction m with
  | nil => simp [smPut, smGet, h.symm]
  | cons e t ih =>
    simp only [smPut]
    split
    · simp [smGet, h.symm]
    · split
      · next hk => subst hk; simp [smGet, h.symm]
      · simp [smGet, ih]

/-- A read after a write of the same key gives the value written. -/
@[simp] theorem smGet_smSet_same {α : Type} [DecidableEq α] (m : List (Nat × α)) (k : Nat) (x d : α) :
    smGet (smSet m k x d) k d = x := by
  unfold smSet
  split
  · next h => rw [smGet_filter_same, h]
  · exact smGet_smPut_same m k x d

/-- A write leaves every other key alone. -/
theorem smGet_smSet_ne {α : Type} [DecidableEq α] (m : List (Nat × α)) (k j : Nat) (x d : α) (h : j ≠ k) :
    smGet (smSet m k x d) j d = smGet m j d := by
  unfold smSet
  split
  · exact smGet_filter_ne m k j d h
  · exact smGet_smPut_ne m k j x d h

/-- The first key of a table, if any, is above `b`. -/
def keysAbove {α : Type} (b : Nat) (m : List (Nat × α)) : Prop := ∀ e ∈ m, b < e.1

theorem smWf_cons {α : Type} [DecidableEq α] (a : Nat) (v : α) (t : List (Nat × α)) (d : α) :
    smWf ((a, v) :: t) d = true ↔ v ≠ d ∧ keysAbove a t ∧ smWf t d = true := by
  induction t generalizing a v with
  | nil => simp [smWf, keysAbove]
  | cons e t ih =>
    obtain ⟨b, w⟩ := e
    have := ih b w
    simp only [smWf, Bool.and_eq_true, decide_eq_true_eq, keysAbove, List.mem_cons, forall_eq_or_imp] at this ⊢
    constructor
    · rintro ⟨⟨h1, h2⟩, h3⟩
      refine ⟨h2, ⟨h1, fun e he => ?_⟩, h3⟩
      have := (this.mp h3).2.1 e he
      omega
    · rintro ⟨h2, ⟨h1, -⟩, h3⟩
      exact ⟨⟨h1, h2⟩, h3⟩

/-- Removing entries keeps the canonical form. -/
theorem smWf_filter {α : Type} [DecidableEq α] (m : List (Nat × α)) (d : α) (f : Nat × α → Bool) (h : smWf m d = true) :
    smWf (m.filter f) d = true := by
  induction m with
  | nil => rfl
  | cons e t ih =>
    obtain ⟨a, v⟩ := e
    obtain ⟨h1, h2, h3⟩ := (smWf_cons a v t d).mp h
    simp only [List.filter_cons]
    split
    · exact (smWf_cons ..).mpr ⟨h1, fun e he => h2 e (List.mem_filter.mp he).1, ih h3⟩
    · exact ih h3

theorem keysAbove_smPut {α : Type} (b k : Nat) (x : α) (m : List (Nat × α)) (hb : b < k) (h : keysAbove b m) :
    keysAbove b (smPut m k x) := by
  induction m with
  | nil => simpa [smPut, keysAbove] using hb
  | cons e t ih =>
    have ht : keysAbove b t := fun y hy => h y (List.mem_cons_of_mem _ hy)
    have he : b < e.1 := h e List.mem_cons_self
    intro y hy
    simp only [smPut] at hy
    split at hy
    · rcases List.mem_cons.mp hy with rfl | hy
      · exact hb
      · exact h y hy
    · split at hy
      · rcases List.mem_cons.mp hy with rfl | hy
        · exact hb
        · exact ht y hy
      · rcases List.mem_cons.mp hy with rfl | hy
        · exact he
        · exact ih ht y hy

theorem smWf_smPut {α : Type} [DecidableEq α] (m : List (Nat × α)) (k : Nat) (x d : α) (hx : x ≠ d) (h : smWf m d = true) :
    smWf (smPut m k x) d = true := by
  induction m with
  | nil => simpa [smPut, smWf] using hx
  | cons e t ih =>
    obtain ⟨a, v⟩ := e
    obtain ⟨h1, h2, h3⟩ := (smWf_cons a v t d).mp h
    simp only [smPut]
    split
    · next hk =>
      refine (smWf_cons ..).mpr ⟨hx, fun e he => ?_, h⟩
      rcases List.mem_cons.mp he with rfl | he
      · exact hk
      · exact Nat.lt_trans hk (h2 e he)
    · split
      · next hk => subst hk; exact (smWf_cons ..).mpr ⟨hx, h2, h3⟩
      · next h4 h5 => exact (smWf_cons ..).mpr ⟨h1, keysAbove_smPut a k x t (by omega) h2, ih h3⟩

/-- Every write keeps the canonical form. -/
theorem smWf_smSet {α : Type} [DecidableEq α] (m : List (Nat × α)) (k : Nat) (x d : α) (h : smWf m d = true) :
    smWf (smSet m k x d) d = true := by
  unfold smSet
  split
  · exact smWf_filter m d _ h
  · next hx => exact smWf_smPut m k x d hx h

/-! Bit fields. -/

theorem natBits_lt (w hi lo : Nat) : natBits w hi lo < 2 ^ (hi + 1 - lo) := Nat.mod_lt _ (Nat.two_pow_pos _)

theorem b2n_eq_one (b : Bool) : b2n b = 1 ↔ b = true := by cases b <;> decide

theorem b2n_eq_zero (b : Bool) : b2n b = 0 ↔ b = false := by cases b <;> decide

theorem b2n_lt (b : Bool) : b2n b < 2 := by cases b <;> decide

/-- A field replacement as a sum of its three parts. -/
theorem natSetBits_split (w hi lo v : Nat) :
    natSetBits w hi lo v = 2 ^ lo * (2 ^ (hi + 1 - lo) * (w / 2 ^ (lo + (hi + 1 - lo))) + v % 2 ^ (hi + 1 - lo)) + w % 2 ^ lo := by
  unfold natSetBits natBits
  generalize hi + 1 - lo = n
  have h1 : w = 2 ^ lo * (w / 2 ^ lo) + w % 2 ^ lo := (Nat.div_add_mod w (2 ^ lo)).symm
  have h2 : w / 2 ^ lo = 2 ^ n * (w / 2 ^ (lo + n)) + w / 2 ^ lo % 2 ^ n := by
    rw [Nat.pow_add, ← Nat.div_div_eq_div_mul]; exact (Nat.div_add_mod (w / 2 ^ lo) (2 ^ n)).symm
  rw [Nat.shiftRight_eq_div_pow]
  have e : w - w / 2 ^ lo % 2 ^ n * 2 ^ lo = 2 ^ lo * (2 ^ n * (w / 2 ^ (lo + n))) + w % 2 ^ lo := by
    conv_lhs => lhs; rw [h1]
    conv_lhs => lhs; lhs; rw [h2]
    rw [Nat.mul_add, Nat.mul_comm (w / 2 ^ lo % 2 ^ n)]
    omega
  rw [e]; ring

/-- What a field replacement does, bit by bit. -/
theorem testBit_natSetBits (w hi lo v i : Nat) :
    (natSetBits w hi lo v).testBit i = if lo ≤ i ∧ i < hi + 1 then v.testBit (i - lo) else w.testBit i := by
  rw [natSetBits_split, Nat.testBit_two_pow_mul_add _ (Nat.mod_lt _ (Nat.two_pow_pos lo))]
  split
  · next h => rw [if_neg (by omega), Nat.testBit_mod_two_pow]; simp [h]
  · next h =>
    rw [Nat.testBit_two_pow_mul_add _ (Nat.mod_lt _ (Nat.two_pow_pos _))]
    split
    · next h2 => rw [if_pos (by omega), Nat.testBit_mod_two_pow]; simp [h2]
    · next h2 => rw [if_neg (by omega), Nat.testBit_div_two_pow]; congr 1; omega

/-- Reading a field just replaced. -/
theorem natBits_natSetBits (w hi lo v : Nat) (h : lo ≤ hi) : natBits (natSetBits w hi lo v) hi lo = v % 2 ^ (hi + 1 - lo) := by
  apply Nat.eq_of_testBit_eq; intro i
  simp only [natBits, Nat.testBit_mod_two_pow, Nat.testBit_shiftRight, testBit_natSetBits]
  by_cases hi' : i < hi + 1 - lo
  · simp [hi', show lo + i < hi + 1 by omega]
  · simp [hi']

/-- Replacing a field leaves every disjoint field alone. -/
theorem natBits_natSetBits_ne (w hi lo v hi' lo' : Nat) (h : hi < lo' ∨ hi' < lo) :
    natBits (natSetBits w hi lo v) hi' lo' = natBits w hi' lo' := by
  apply Nat.eq_of_testBit_eq; intro i
  simp only [natBits, Nat.testBit_mod_two_pow, Nat.testBit_shiftRight, testBit_natSetBits]
  by_cases h1 : i < hi' + 1 - lo'
  · rw [if_neg (by omega)]
  · simp [h1]

/-- Replacing a field keeps a word within its width. -/
theorem natSetBits_lt (w hi lo v n : Nat) (h : hi < n) (hw : w < 2 ^ n) : natSetBits w hi lo v < 2 ^ n := by
  apply Nat.lt_pow_two_of_testBit
  intro i hi'
  rw [testBit_natSetBits, if_neg (by omega)]
  exact Nat.testBit_lt_two_pow (Nat.lt_of_lt_of_le hw (Nat.pow_le_pow_right (by decide) hi'))
end Sys2Proof.Machine
end

