-- ==== Sys2Proof/Laws/Ops.lean ====
section
/-! SUPPORT. The laws of the register store and its fields: a read after a write, and what a write leaves alone. -/

namespace Sys2Proof.Machine

/-- One field beside the registers after a register write: all of them stay. -/
theorem State.wrw_eq (s : State) (r : Reg) (ix : List Nat) (w : Word) : s.wrw r ix w = { s with regs := (s.wrw r ix w).regs } := rfl

@[simp] theorem State.rdw_wrw (s : State) (r : Reg) (ix : List Nat) (w : Word) : (s.wrw r ix w).rdw r ix = w := by
  simp [State.rdw, State.wrw]

theorem State.rdw_wrw_ne (s : State) (r q : Reg) (ix jx : List Nat) (w : Word) (h : q.addr jx ≠ r.addr ix) :
    (s.wrw r ix w).rdw q jx = s.rdw q jx := by
  simp [State.rdw, State.wrw, smGet_smSet_ne _ _ _ _ _ h]

theorem State.rd_lt (s : State) (r : Reg) (ix : List Nat) : s.rd r ix < 2 ^ 32 := (s.rdw r ix).isLt

@[simp] theorem State.rd_wr (s : State) (r : Reg) (ix : List Nat) (v : Nat) : (s.wr r ix v).rd r ix = v % 2 ^ 32 := by
  simp [State.rd, State.wr]

theorem State.rd_wr_ne (s : State) (r q : Reg) (ix jx : List Nat) (v : Nat) (h : q.addr jx ≠ r.addr ix) :
    (s.wr r ix v).rd q jx = s.rd q jx := by
  simp [State.rd, State.wr, State.rdw_wrw_ne _ _ _ _ _ _ h]

/-- A field of a register that was not written. -/
theorem State.get_wr_ne (s : State) (f : Fld) (r : Reg) (ix jx : List Nat) (v : Nat) (h : f.reg.addr jx ≠ r.addr ix) :
    (s.wr r ix v).get f jx = s.get f jx := by
  simp [State.get, State.rd_wr_ne _ _ _ _ _ _ h]

/-- A field of a register just written. -/
theorem State.get_wr (s : State) (f : Fld) (ix : List Nat) (v : Nat) : (s.wr f.reg ix v).get f ix = natBits (v % 2 ^ 32) f.hi f.lo := by
  simp [State.get]

/-- A read of the field just set gives the value set. -/
theorem State.get_set (s : State) (f : Fld) (ix : List Nat) (v : Nat) (h : f.lo ≤ f.hi) (h32 : f.hi < 32) :
    (s.set f ix v).get f ix = v % 2 ^ (f.hi + 1 - f.lo) := by
  unfold State.set
  rw [State.get_wr, Nat.mod_eq_of_lt (natSetBits_lt _ _ _ _ _ h32 (s.rd_lt _ _)), natBits_natSetBits _ _ _ _ h]

/-- A field of another register stays. -/
theorem State.get_set_ne (s : State) (f g : Fld) (ix jx : List Nat) (v : Nat) (h : g.reg.addr jx ≠ f.reg.addr ix) :
    (s.set f ix v).get g jx = s.get g jx := State.get_wr_ne _ _ _ _ _ _ h

/-- A disjoint field of the same register stays. -/
theorem State.get_set_field (s : State) (f g : Fld) (ix : List Nat) (v : Nat) (hr : g.reg = f.reg)
    (h : f.hi < g.lo ∨ g.hi < f.lo) (h32 : f.hi < 32) : (s.set f ix v).get g ix = s.get g ix := by
  unfold State.set State.get
  rw [hr, State.rd_wr, Nat.mod_eq_of_lt (natSetBits_lt _ _ _ _ _ h32 (s.rd_lt _ _)), natBits_natSetBits_ne _ _ _ _ _ _ h]

theorem State.get_lt (s : State) (f : Fld) (ix : List Nat) : s.get f ix < 2 ^ (f.hi + 1 - f.lo) := natBits_lt _ _ _

theorem State.get_wrw_wf (s : State) (r : Reg) (ix : List Nat) (w : Word) (h : smWf s.regs 0 = true) :
    smWf (s.wrw r ix w).regs 0 = true := smWf_smSet _ _ _ _ h

/-! The fields of State that a write of a register, of one of its fields, or an output leaves. -/

@[simp] theorem State.pending_wr (s : State) (r : Reg) (ix : List Nat) (v : Nat) : (s.wr r ix v).pending = s.pending := rfl
@[simp] theorem State.out_wr (s : State) (r : Reg) (ix : List Nat) (v : Nat) : (s.wr r ix v).out = s.out := rfl
@[simp] theorem State.pending_set (s : State) (f : Fld) (ix : List Nat) (v : Nat) : (s.set f ix v).pending = s.pending := rfl
@[simp] theorem State.out_set (s : State) (f : Fld) (ix : List Nat) (v : Nat) : (s.set f ix v).out = s.out := rfl
@[simp] theorem State.pending_emit (s : State) (o : Out) : (s.emit o).pending = s.pending := rfl
@[simp] theorem State.out_emit (s : State) (o : Out) : (s.emit o).out = s.out ++ [o] := rfl
@[simp] theorem State.regs_emit (s : State) (o : Out) : (s.emit o).regs = s.regs := rfl
@[simp] theorem State.rd_emit (s : State) (o : Out) (r : Reg) (ix : List Nat) : (s.emit o).rd r ix = s.rd r ix := rfl
@[simp] theorem State.get_emit (s : State) (o : Out) (f : Fld) (ix : List Nat) : (s.emit o).get f ix = s.get f ix := rfl
@[simp] theorem State.pending_clearOut (s : State) : s.clearOut.pending = s.pending := rfl
@[simp] theorem State.out_clearOut (s : State) : s.clearOut.out = [] := rfl
@[simp] theorem State.regs_clearOut (s : State) : s.clearOut.regs = s.regs := rfl
@[simp] theorem State.rd_clearOut (s : State) (r : Reg) (ix : List Nat) : s.clearOut.rd r ix = s.rd r ix := rfl
@[simp] theorem State.get_clearOut (s : State) (f : Fld) (ix : List Nat) : s.clearOut.get f ix = s.get f ix := rfl
@[simp] theorem State.is_clearOut (s : State) (f : Fld) (ix : List Nat) : s.clearOut.is f ix = s.is f ix := rfl

end Sys2Proof.Machine
end

