-- ==== Sys2Proof/Laws/Cause.lean ====
section
/-! SUPPORT. What a cause event can do (R486, R489, R497): it writes register words of the interrupt tree and nothing
else, and it sets its leaf. -/

namespace Sys2Proof.Machine

/-! Frames compose. -/

theorem State.wordsKept_refl (s : State) (f : Nat → Bool) : s.wordsKept s f := fun _ _ => rfl

theorem State.wordsKept_trans {s t u : State} {f : Nat → Bool} (h : s.wordsKept t f) (k : t.wordsKept u f) : s.wordsKept u f :=
  fun a ha => (k a ha).trans (h a ha)

theorem State.regsOnly_refl (s : State) (f : Nat → Bool) : s.regsOnly s f := ⟨rfl, fun _ _ => rfl⟩

theorem State.regsOnly_trans {s t u : State} {f : Nat → Bool} (h : s.regsOnly t f) (k : t.regsOnly u f) : s.regsOnly u f :=
  ⟨by rw [k.1, h.1], fun a ha => (k.2 a ha).trans (h.2 a ha)⟩

theorem State.regsOnly_mono {s t : State} {f g : Nat → Bool} (h : s.regsOnly t f) (k : ∀ a, f a = true → g a = true) :
    s.regsOnly t g :=
  ⟨h.1, fun a ha => h.2 a (by cases hf : f a with | false => rfl | true => simp [k a hf] at ha)⟩

/-- A frame gives every register outside it. -/
theorem State.regsOnly_rd {s t : State} {f : Nat → Bool} (h : s.regsOnly t f) (r : Reg) (ix : List Nat) (hr : f (r.addr ix) = false) :
    t.rd r ix = s.rd r ix := by
  unfold State.rd State.rdw; rw [h.2 _ hr]

theorem State.regsOnly_get {s t : State} {f : Nat → Bool} (h : s.regsOnly t f) (g : Fld) (ix : List Nat)
    (hr : f (g.reg.addr ix) = false) : t.get g ix = s.get g ix := by
  simp [State.get, State.regsOnly_rd h _ _ hr]

theorem State.wordsKept_rd {s t : State} {f : Nat → Bool} (h : s.wordsKept t f) (r : Reg) (ix : List Nat) (hr : f (r.addr ix) = false) :
    t.rd r ix = s.rd r ix := by
  unfold State.rd State.rdw; rw [h _ hr]

theorem State.wordsKept_get {s t : State} {f : Nat → Bool} (h : s.wordsKept t f) (g : Fld) (ix : List Nat)
    (hr : f (g.reg.addr ix) = false) : t.get g ix = s.get g ix := by
  simp [State.get, State.wordsKept_rd h _ _ hr]

theorem State.regsOnly_wr (s : State) (r : Reg) (ix : List Nat) (v : Nat) (f : Nat → Bool) (h : f (r.addr ix) = true) :
    s.regsOnly (s.wr r ix v) f :=
  ⟨rfl, fun a ha => by
    unfold State.wr State.wrw
    exact smGet_smSet_ne _ _ _ _ _ (by rintro rfl; simp [h] at ha)⟩

theorem State.regsOnly_set (s : State) (g : Fld) (ix : List Nat) (v : Nat) (f : Nat → Bool) (h : f (g.reg.addr ix) = true) :
    s.regsOnly (s.set g ix v) f := State.regsOnly_wr _ _ _ _ _ h

theorem State.regsOnly_emit (s : State) (o : Out) (f : Nat → Bool) : s.regsOnly (s.emit o) f := ⟨rfl, fun _ _ => rfl⟩

theorem State.regsOnly_clearOut (s : State) (f : Nat → Bool) : s.regsOnly s.clearOut f := ⟨rfl, fun _ _ => rfl⟩

theorem State.regsOnly_when (s : State) (c : Bool) (u : State → State) (f : Nat → Bool) (h : c = true → s.regsOnly (u s) f) :
    s.regsOnly (s.when c u) f := by
  unfold State.when
  cases c with
  | false => exact s.regsOnly_refl f
  | true => exact h rfl

/-! The interrupt tree. -/

theorem leafAssigned_lt {n : Nat} (h : leafAssigned n = true) : n < 872 := by
  by_contra hn
  unfold leafAssigned at h
  repeat rw [if_neg (by omega)] at h
  cases h

theorem causeAddr_leaf (k : Nat) (h : k < 28) : causeAddr (Reg.CAUSE_LEAF.addr [k]) = true := by
  simp [causeAddr, Reg.addr, Reg.desc, dimOffset]; omega

theorem causeAddr_rec (n : Nat) (h : n < 872) : causeAddr (Reg.CAUSE_REC.addr [n]) = true := by
  simp [causeAddr, Reg.addr, Reg.desc, dimOffset]; omega

theorem causeAddr_journal (i k : Nat) (h : i < 1024) (hk : k < 4) : causeAddr (Reg.CAUSE_JOURNAL.addr [i, k]) = true := by
  simp [causeAddr, Reg.addr, Reg.desc, dimOffset]; omega

/-- A journal entry writes the journal and its pointer (R497). -/
theorem State.journal_regsOnly (s : State) (leaf face w : Nat) : s.regsOnly (s.journal leaf face w) causeAddr := by
  have hi : s.get F.CAUSE_JOURNAL_PTR_next < 1024 := s.get_lt F.CAUSE_JOURNAL_PTR_next []
  unfold State.journal
  dsimp only
  refine State.regsOnly_trans ?_ (State.regsOnly_when _ _ _ _ fun _ => State.regsOnly_set _ _ _ _ _ (by decide))
  refine State.regsOnly_trans ?_ (State.regsOnly_set _ _ _ _ _ (by decide))
  refine State.regsOnly_trans ?_ (State.regsOnly_wr _ _ _ _ _ (causeAddr_journal _ _ hi (by decide)))
  refine State.regsOnly_trans ?_ (State.regsOnly_wr _ _ _ _ _ (causeAddr_journal _ _ hi (by decide)))
  refine State.regsOnly_trans ?_ (State.regsOnly_wr _ _ _ _ _ (causeAddr_journal _ _ hi (by decide)))
  exact State.regsOnly_wr _ _ _ _ _ (causeAddr_journal _ _ hi (by decide))

/-- What a cause event can do: it writes words of the interrupt tree, and nothing else of the hub (R486, R489, R497). -/
theorem State.leaf_regsOnly (s : State) (n unit code : Nat) (rec : Bool) : s.regsOnly (s.leaf n unit code rec) causeAddr := by
  unfold State.leaf
  split
  · next h =>
    have hn := leafAssigned_lt h
    dsimp only
    split
    · refine State.regsOnly_trans ?_ (State.journal_regsOnly _ _ _ _)
      refine State.regsOnly_trans ?_ (State.regsOnly_wr _ _ _ _ _ (causeAddr_rec n hn))
      exact State.regsOnly_wr _ _ _ _ _ (causeAddr_leaf _ (by omega))
    · refine State.regsOnly_trans ?_ (State.regsOnly_when _ _ _ _ fun _ => State.regsOnly_set _ _ _ _ _ (causeAddr_rec n hn))
      refine State.regsOnly_trans ?_ (State.regsOnly_wr _ _ _ _ _ (causeAddr_rec n hn))
      exact State.regsOnly_wr _ _ _ _ _ (causeAddr_leaf _ (by omega))
  · exact s.regsOnly_refl _

/-- Every register outside the interrupt tree stays through a cause event. -/
theorem State.rd_leaf (s : State) (n unit code : Nat) (rec : Bool) (r : Reg) (ix : List Nat) (h : causeAddr (r.addr ix) = false) :
    (s.leaf n unit code rec).rd r ix = s.rd r ix := State.regsOnly_rd (s.leaf_regsOnly n unit code rec) r ix h

theorem State.get_leaf (s : State) (n unit code : Nat) (rec : Bool) (f : Fld) (ix : List Nat) (h : causeAddr (f.reg.addr ix) = false) :
    (s.leaf n unit code rec).get f ix = s.get f ix := State.regsOnly_get (s.leaf_regsOnly n unit code rec) f ix h

@[simp] theorem State.pending_leaf (s : State) (n unit code : Nat) (rec : Bool) : (s.leaf n unit code rec).pending = s.pending := by
  rw [(s.leaf_regsOnly n unit code rec).1]

/-! The leaf itself. -/

theorem State.rd_journal (s : State) (leaf face w : Nat) (r : Reg) (ix : List Nat)
    (hp : r.addr ix ≠ Reg.CAUSE_JOURNAL_PTR.addr []) (hj : ∀ i k, i < 1024 → k < 4 → r.addr ix ≠ Reg.CAUSE_JOURNAL.addr [i, k]) :
    (s.journal leaf face w).rd r ix = s.rd r ix := by
  have hi : s.get F.CAUSE_JOURNAL_PTR_next < 1024 := s.get_lt F.CAUSE_JOURNAL_PTR_next []
  have hw : ∀ u : State, ∀ c, (u.when c fun s => s.setB F.CAUSE_JOURNAL_PTR_wrapped [] true).rd r ix = u.rd r ix := by
    intro u c
    cases c with
    | false => rfl
    | true => exact State.rd_wr_ne _ _ _ _ _ _ hp
  unfold State.journal
  dsimp only
  have hs : ∀ u : State, ∀ v, (u.set F.CAUSE_JOURNAL_PTR_next [] v).rd r ix = u.rd r ix := fun u v => State.rd_wr_ne _ _ _ _ _ _ hp
  rw [hw, hs, State.rd_wr_ne _ _ _ _ _ _ (hj _ _ hi (by decide)),
    State.rd_wr_ne _ _ _ _ _ _ (hj _ _ hi (by decide)), State.rd_wr_ne _ _ _ _ _ _ (hj _ _ hi (by decide)),
    State.rd_wr_ne _ _ _ _ _ _ (hj _ _ hi (by decide))]

/-- The leaf words after a cause event: the leaf's bit is set and every other stays. -/
theorem State.rd_leaf_word (s : State) (n unit code : Nat) (rec : Bool) (k : Nat) (hk : k < 28) (h : leafAssigned n = true) :
    (s.leaf n unit code rec).rd .CAUSE_LEAF [k] =
      if k = n / 32 then natSetBit (s.rd .CAUSE_LEAF [k]) (n % 32) true else s.rd .CAUSE_LEAF [k] := by
  have hn := leafAssigned_lt h
  have hrec : ∀ u : State, ∀ v, (u.wr .CAUSE_REC [n] v).rd .CAUSE_LEAF [k] = u.rd .CAUSE_LEAF [k] := fun u v =>
    State.rd_wr_ne _ _ _ _ _ _ (by simp [Reg.addr, Reg.desc, dimOffset]; omega)
  have hset : ∀ u : State, ∀ c, (u.when c fun s => s.setB F.CAUSE_REC_recovering [n] true).rd .CAUSE_LEAF [k] = u.rd .CAUSE_LEAF [k] := by
    intro u c
    cases c with
    | false => rfl
    | true => exact hrec _ _
  have hleaf : ∀ v, v < 2 ^ 32 → (s.wr .CAUSE_LEAF [n / 32] v).rd .CAUSE_LEAF [k] = if k = n / 32 then v else s.rd .CAUSE_LEAF [k] := by
    intro v hv
    split
    · next e => subst e; rw [State.rd_wr, Nat.mod_eq_of_lt hv]
    · next e => exact State.rd_wr_ne _ _ _ _ _ _ (by simp [Reg.addr, Reg.desc, dimOffset]; omega)
  have hlt : natSetBit (s.rd .CAUSE_LEAF [n / 32]) (n % 32) true < 2 ^ 32 :=
    natSetBits_lt _ _ _ _ _ (by omega) (s.rd_lt _ _)
  unfold State.leaf
  rw [if_pos h]
  dsimp only
  split
  · rw [State.rd_journal _ _ _ _ _ _ (by simp [Reg.addr, Reg.desc, dimOffset]; omega)
      (fun i j _ _ => by simp [Reg.addr, Reg.desc, dimOffset]; omega), hrec, hleaf _ hlt]
    split
    · next e => rw [e]
    · rfl
  · rw [hset, hrec, hleaf _ hlt]
    split
    · next e => rw [e]
    · rfl

/-- A cause event sets its leaf. -/
theorem State.leafSet_leaf (s : State) (n unit code : Nat) (rec : Bool) (h : leafAssigned n = true) :
    (s.leaf n unit code rec).leafSet n = true := by
  have hn := leafAssigned_lt h
  unfold State.leafSet natBit
  rw [State.rd_leaf_word _ _ _ _ _ _ (by omega) h, if_pos rfl]
  simp [natSetBit, testBit_natSetBits]

/-- A cause event leaves every other leaf alone. -/
theorem State.leafSet_leaf_ne (s : State) (n m unit code : Nat) (rec : Bool) (h : leafAssigned n = true) (hm : m < 896) (hne : m ≠ n) :
    (s.leaf n unit code rec).leafSet m = s.leafSet m := by
  unfold State.leafSet natBit
  rw [State.rd_leaf_word _ _ _ _ _ _ (by omega) h]
  split
  · next e => rw [natSetBit, testBit_natSetBits, if_neg (by omega)]
  · rfl

end Sys2Proof.Machine
end

