-- ==== Sys2Proof/Laws/Sett.lean ====
section
/-! SUPPORT. The laws of setts: what changing one leaves alone, and how a running sett executes one instruction (R205). -/

namespace Sys2Proof.Machine

@[simp] theorem State.sett_setSett (s : State) (b k : Nat) (x : Sett) : (s.setSett b k x).sett b k = x := by
  simp [State.sett, State.setSett]

theorem State.sett_setSett_ne (s : State) (b k b' k' : Nat) (x : Sett) (h : b' * 64 + k' ≠ b * 64 + k) :
    (s.setSett b k x).sett b' k' = s.sett b' k' := by
  simp [State.sett, State.setSett, smGet_smSet_ne _ _ _ _ _ h]

@[simp] theorem State.sett_onSett (s : State) (b k : Nat) (f : Sett → Sett) : (s.onSett b k f).sett b k = f (s.sett b k) := by
  simp [State.onSett]

@[simp] theorem State.rd_setSett (s : State) (b k : Nat) (x : Sett) (r : Reg) (ix : List Nat) : (s.setSett b k x).rd r ix = s.rd r ix := rfl
@[simp] theorem State.rd_onSett (s : State) (b k : Nat) (f : Sett → Sett) (r : Reg) (ix : List Nat) : (s.onSett b k f).rd r ix = s.rd r ix := rfl
@[simp] theorem State.get_onSett (s : State) (b k : Nat) (f : Sett → Sett) (g : Fld) (ix : List Nat) : (s.onSett b k f).get g ix = s.get g ix := rfl
@[simp] theorem State.sett_clearOut (s : State) (b k : Nat) : s.clearOut.sett b k = s.sett b k := rfl
@[simp] theorem State.out_onSett (s : State) (b k : Nat) (f : Sett → Sett) : (s.onSett b k f).out = s.out := rfl
@[simp] theorem State.regs_onSett (s : State) (b k : Nat) (f : Sett → Sett) : (s.onSett b k f).regs = s.regs := rfl
@[simp] theorem State.pending_onSett (s : State) (b k : Nat) (f : Sett → Sett) : (s.onSett b k f).pending = s.pending := rfl

theorem State.settOnly_refl (s : State) (b k : Nat) : s.settOnly s b k := ⟨rfl, fun _ _ => rfl⟩

theorem State.settOnly_trans {s t u : State} {b k : Nat} (h : s.settOnly t b k) (g : t.settOnly u b k) : s.settOnly u b k :=
  ⟨by rw [g.1, h.1], fun j hj => (g.2 j hj).trans (h.2 j hj)⟩

theorem State.settOnly_setSett (s : State) (b k : Nat) (x : Sett) : s.settOnly (s.setSett b k x) b k :=
  ⟨rfl, fun _ hj => smGet_smSet_ne _ _ _ _ _ hj⟩

theorem State.settOnly_onSett (s : State) (b k : Nat) (f : Sett → Sett) : s.settOnly (s.onSett b k f) b k := s.settOnly_setSett b k _

theorem State.settOnly_clearOut (s : State) (b k : Nat) : s.settOnly s.clearOut b k := ⟨rfl, fun _ _ => rfl⟩

theorem State.settOnly_rd {s t : State} {b k : Nat} (h : s.settOnly t b k) (r : Reg) (ix : List Nat) : t.rd r ix = s.rd r ix := by
  rw [h.1]; rfl

/-- Without side actions configured an instruction has none (R207). -/
theorem State.sideSet_none (s : State) (b k w : Nat) (d : Nat → Bool) (h : s.rd .SETT_SIDE [b, k] = 0) : s.sideSet b k w d = s := by
  unfold State.sideSet State.each
  generalize (List.range 4).filter (fun j => !d j) = l
  induction l with
  | nil => rfl
  | cons j l ih =>
    have h0 : natBits (s.rd .SETT_SIDE [b, k]) (2 * j + 1) (2 * j) = 0 := by simp [h, natBits]
    rw [List.foldl_cons]
    simp only [h0]
    exact ih

theorem State.stopContended_twice (v : State) (b k : Nat) : (v.stopContended b k).stopContended b k = v.stopContended b k := by
  unfold State.stopContended State.stopSett
  by_cases hv : (v.sett b k).contended
  · simp only [hv, if_true]
    split <;> simp
  · simp [hv]

/-- How a running sett executes the instruction it stands at (R205), of those that drive no output enable: the effect runs on a
state that differs in that sett alone, whose program counter has gone on; its side actions come after it. -/
theorem State.instruction_runs (s : State) (b k op w : Nat) (h : s.atWord b k op w) (hw : op ≠ 0x12)
    (hen : enablesWord w = false)
    (hready : ∀ u : State, s.settOnly u b k → (u.sett b k).past = (s.sett b k).past →
      ∀ time, u.ready b k w time = (true, u)) (hnow : ¬ (op = 1 ∧ natBits w 19 16 = 7)) :
    ∃ (u : State) (x : SettWait), s.settOnly u b k ∧ u.out = s.out ∧ u.sett b k = (s.sett b k).past ∧ x.word = w ∧
      x.dom = s.domOfConsumer (.bench b) ∧ x.now = s.now (s.domOfConsumer (.bench b)) ∧
      s.instruction (some op) b k .good =
        ((((u.effect b k x).onSett b k fun t => if t.phase = .running then { t with phase := .running } else t).stopContended
          b k).sideSet b k w (outDrives w)).stopContended b k := by
  obtain ⟨hp, hi, hc, hr, hs, ho, ht⟩ := h
  subst ho
  have hf : (s.sett b k).fetches = true := by simp [Sett.fetches, hp]
  have hn : s.nextWord b k = (w, false) := by simp [State.nextWord, hi, hr]
  unfold State.instruction
  simp only [hf, hn, Bool.not_true, Bool.false_eq_true, if_false, Bool.not_false, Bool.true_and]
  simp only [State.when, beq_iff_eq, reduceCtorEq, if_false, ht, if_true]
  unfold State.beginWord
  simp only []
  have hb : ∀ u : State, u.beginWait b k w = (none, u) := fun u => by simp [State.beginWait, hnow]
  simp only [hb, hen, Bool.false_eq_true, if_false]
  unfold State.checkWait
  simp only [State.sett_onSett]
  rw [hready _ _ _]
  · simp only [Bool.false_eq_true, if_false, if_true, hw]
    unfold State.complete
    simp only [Bool.false_eq_true, if_false]
    refine ⟨_, _, ?_, ?_, ?_, ?_, ?_, ?_, Eq.refl _⟩
    · iterate 4 refine State.settOnly_trans ?_ (State.settOnly_onSett _ _ _ _)
      exact s.settOnly_refl b k
    · simp
    · simp [Sett.past, hp, hi]
    · rfl
    · rfl
    · rfl
  · iterate 3 refine State.settOnly_trans ?_ (State.settOnly_onSett _ _ _ _)
    exact s.settOnly_refl b k
  · simp [Sett.past, hp, hi]

/-- The end of an instruction that neither stops the sett nor leaves a stop pending keeps what the effect left. -/
theorem State.instruction_done (s : State) (b k op w : Nat) (X : Sett) (h : s.atWord b k op w) (hw : op ≠ 0x12)
    (hen : enablesWord w = false)
    (hready : ∀ u : State, s.settOnly u b k → (u.sett b k).past = (s.sett b k).past →
      ∀ time, u.ready b k w time = (true, u)) (hnow : ¬ (op = 1 ∧ natBits w 19 16 = 7)) (hX : X.contended = false)
    (heff : ∀ (u : State) (x : SettWait), s.settOnly u b k → u.out = s.out → u.sett b k = (s.sett b k).past → x.word = w →
      x.dom = s.domOfConsumer (.bench b) → x.now = s.now (s.domOfConsumer (.bench b)) →
      u.settOnly (u.effect b k x) b k ∧ (u.effect b k x).sett b k = X) :
    s.settOnly (s.instruction (some op) b k .good) b k ∧ (s.instruction (some op) b k .good).sett b k = X := by
  obtain ⟨u, x, hu, ho, hs, hw', hd, hn, he⟩ := s.instruction_runs b k op w h hw hen hready hnow
  obtain ⟨h1, h2⟩ := heff u x hu ho hs hw' hd hn
  have hx : (if X.phase = .running then { X with phase := .running } else X) = X := by
    split
    · next hp => cases X; simp_all
    · rfl
  have hst : ∀ v : State, v.sett b k = X → v.stopContended b k = v := by
    intro v hv
    simp [State.stopContended, hv, hX]
  have hv : ((u.effect b k x).onSett b k fun t => if t.phase = .running then { t with phase := .running } else t).sett b k = X := by
    rw [State.sett_onSett, h2, hx]
  have hs' : s.settOnly ((u.effect b k x).onSett b k fun t => if t.phase = .running then { t with phase := .running } else t) b k :=
    State.settOnly_trans hu (State.settOnly_trans h1 (State.settOnly_onSett _ _ _ _))
  rw [he, hst _ hv, State.sideSet_none _ _ _ _ _ (by rw [State.settOnly_rd hs']; exact h.2.2.2.2.1), hst _ hv]
  exact ⟨hs', hv⟩

/-! Pins of defined level (R187, R210, R221). -/

theorem quadPin_mod (k j : Nat) : quadPin k (j % 4) = quadPin k j := by simp [quadPin]

theorem State.readPin_defined (s : State) (b k j : Nat) (h : s.pinsDefined b k) : s.readPin b k j = (s.pinLevel b k j, s) := by
  have hj : s.floats b (quadPin k j) = false := quadPin_mod k j ▸ h (j % 4) (Nat.mod_lt _ (by decide))
  simp [State.readPin, State.sample, State.pinLevel, hj]

theorem State.readPins_defined (s : State) (b k j n : Nat) (h : s.pinsDefined b k) :
    s.readPins b k j n = (s.pinLevels b k j n, s) := by
  induction n with
  | zero => rfl
  | succ n ih => simp [State.readPins, State.pinLevels, ih, State.readPin_defined s b k (j + n) h]

theorem State.pinsDefined_settOnly {s u : State} {b k : Nat} (h : s.settOnly u b k) (hp : s.pinsDefined b k) : u.pinsDefined b k := by
  intro j
  have : u.floats b (quadPin k j) = s.floats b (quadPin k j) := by rw [h.1]; rfl
  rw [this]; exact hp j

theorem State.pinLevel_settOnly {s u : State} {b k : Nat} (h : s.settOnly u b k) (j : Nat) : u.pinLevel b k j = s.pinLevel b k j := by
  rw [h.1]; rfl

theorem State.pinLevels_settOnly {s u : State} {b k : Nat} (h : s.settOnly u b k) (j n : Nat) :
    u.pinLevels b k j n = s.pinLevels b k j n := by
  induction n with
  | zero => rfl
  | succ n ih => simp [State.pinLevels, ih, State.pinLevel_settOnly h]

end Sys2Proof.Machine
end

