-- ==== Sys2Proof/Laws/State.lean ====
section
/-! SUPPORT. Every named update of the state beside every field it leaves alone, and what it leaves in its own place; a
register update and the other updates do not see each other. -/

namespace Sys2Proof.Machine

@[simp] theorem State.line_wr (s : State) (r : Reg) (ix : List Nat) (v : Nat) : (s.wr r ix v).line = s.line := rfl
@[simp] theorem State.free_wr (s : State) (r : Reg) (ix : List Nat) (v : Nat) : (s.wr r ix v).free = s.free := rfl
@[simp] theorem State.faultPair_wr (s : State) (r : Reg) (ix : List Nat) (v : Nat) : (s.wr r ix v).faultPair = s.faultPair := rfl
@[simp] theorem State.time_wr (s : State) (r : Reg) (ix : List Nat) (v : Nat) : (s.wr r ix v).time = s.time := rfl
@[simp] theorem State.shot_wr (s : State) (r : Reg) (ix : List Nat) (v : Nat) : (s.wr r ix v).shot = s.shot := rfl
@[simp] theorem State.permits_wr (s : State) (r : Reg) (ix : List Nat) (v : Nat) : (s.wr r ix v).permits = s.permits := rfl
@[simp] theorem State.ring_wr (s : State) (r : Reg) (ix : List Nat) (v : Nat) : (s.wr r ix v).ring = s.ring := rfl
@[simp] theorem State.twin_wr (s : State) (r : Reg) (ix : List Nat) (v : Nat) : (s.wr r ix v).twin = s.twin := rfl
@[simp] theorem State.hop_wr (s : State) (r : Reg) (ix : List Nat) (v : Nat) : (s.wr r ix v).hop = s.hop := rfl
@[simp] theorem State.brg_wr (s : State) (r : Reg) (ix : List Nat) (v : Nat) : (s.wr r ix v).brg = s.brg := rfl
@[simp] theorem State.setts_wr (s : State) (r : Reg) (ix : List Nat) (v : Nat) : (s.wr r ix v).setts = s.setts := rfl
@[simp] theorem State.pins_wr (s : State) (r : Reg) (ix : List Nat) (v : Nat) : (s.wr r ix v).pins = s.pins := rfl
@[simp] theorem State.benches_wr (s : State) (r : Reg) (ix : List Nat) (v : Nat) : (s.wr r ix v).benches = s.benches := rfl
@[simp] theorem State.drs_wr (s : State) (r : Reg) (ix : List Nat) (v : Nat) : (s.wr r ix v).drs = s.drs := rfl
@[simp] theorem State.ports_wr (s : State) (r : Reg) (ix : List Nat) (v : Nat) : (s.wr r ix v).ports = s.ports := rfl
@[simp] theorem State.can_wr (s : State) (r : Reg) (ix : List Nat) (v : Nat) : (s.wr r ix v).can = s.can := rfl
@[simp] theorem State.canTimeValid_wr (s : State) (r : Reg) (ix : List Nat) (v : Nat) : (s.wr r ix v).canTimeValid = s.canTimeValid := rfl
@[simp] theorem State.ethTimeValid_wr (s : State) (r : Reg) (ix : List Nat) (v : Nat) : (s.wr r ix v).ethTimeValid = s.ethTimeValid := rfl
@[simp] theorem State.hopTimeValid_wr (s : State) (r : Reg) (ix : List Nat) (v : Nat) : (s.wr r ix v).hopTimeValid = s.hopTimeValid := rfl
@[simp] theorem State.ringTimeValid_wr (s : State) (r : Reg) (ix : List Nat) (v : Nat) : (s.wr r ix v).ringTimeValid = s.ringTimeValid := rfl
@[simp] theorem State.sw_wr (s : State) (r : Reg) (ix : List Nat) (v : Nat) : (s.wr r ix v).sw = s.sw := rfl
@[simp] theorem State.grd_wr (s : State) (r : Reg) (ix : List Nat) (v : Nat) : (s.wr r ix v).grd = s.grd := rfl
@[simp] theorem State.edge_wr (s : State) (r : Reg) (ix : List Nat) (v : Nat) : (s.wr r ix v).edge = s.edge := rfl
@[simp] theorem State.chip_wr (s : State) (r : Reg) (ix : List Nat) (v : Nat) : (s.wr r ix v).chip = s.chip := rfl
@[simp] theorem State.upd_wr (s : State) (r : Reg) (ix : List Nat) (v : Nat) : (s.wr r ix v).upd = s.upd := rfl

@[simp] theorem State.line_set (s : State) (f : Fld) (ix : List Nat) (v : Nat) : (s.set f ix v).line = s.line := rfl
@[simp] theorem State.free_set (s : State) (f : Fld) (ix : List Nat) (v : Nat) : (s.set f ix v).free = s.free := rfl
@[simp] theorem State.faultPair_set (s : State) (f : Fld) (ix : List Nat) (v : Nat) : (s.set f ix v).faultPair = s.faultPair := rfl
@[simp] theorem State.time_set (s : State) (f : Fld) (ix : List Nat) (v : Nat) : (s.set f ix v).time = s.time := rfl
@[simp] theorem State.shot_set (s : State) (f : Fld) (ix : List Nat) (v : Nat) : (s.set f ix v).shot = s.shot := rfl
@[simp] theorem State.permits_set (s : State) (f : Fld) (ix : List Nat) (v : Nat) : (s.set f ix v).permits = s.permits := rfl
@[simp] theorem State.ring_set (s : State) (f : Fld) (ix : List Nat) (v : Nat) : (s.set f ix v).ring = s.ring := rfl
@[simp] theorem State.twin_set (s : State) (f : Fld) (ix : List Nat) (v : Nat) : (s.set f ix v).twin = s.twin := rfl
@[simp] theorem State.hop_set (s : State) (f : Fld) (ix : List Nat) (v : Nat) : (s.set f ix v).hop = s.hop := rfl
@[simp] theorem State.brg_set (s : State) (f : Fld) (ix : List Nat) (v : Nat) : (s.set f ix v).brg = s.brg := rfl
@[simp] theorem State.setts_set (s : State) (f : Fld) (ix : List Nat) (v : Nat) : (s.set f ix v).setts = s.setts := rfl
@[simp] theorem State.pins_set (s : State) (f : Fld) (ix : List Nat) (v : Nat) : (s.set f ix v).pins = s.pins := rfl
@[simp] theorem State.benches_set (s : State) (f : Fld) (ix : List Nat) (v : Nat) : (s.set f ix v).benches = s.benches := rfl
@[simp] theorem State.drs_set (s : State) (f : Fld) (ix : List Nat) (v : Nat) : (s.set f ix v).drs = s.drs := rfl
@[simp] theorem State.ports_set (s : State) (f : Fld) (ix : List Nat) (v : Nat) : (s.set f ix v).ports = s.ports := rfl
@[simp] theorem State.can_set (s : State) (f : Fld) (ix : List Nat) (v : Nat) : (s.set f ix v).can = s.can := rfl
@[simp] theorem State.canTimeValid_set (s : State) (f : Fld) (ix : List Nat) (v : Nat) : (s.set f ix v).canTimeValid = s.canTimeValid := rfl
@[simp] theorem State.ethTimeValid_set (s : State) (f : Fld) (ix : List Nat) (v : Nat) : (s.set f ix v).ethTimeValid = s.ethTimeValid := rfl
@[simp] theorem State.hopTimeValid_set (s : State) (f : Fld) (ix : List Nat) (v : Nat) : (s.set f ix v).hopTimeValid = s.hopTimeValid := rfl
@[simp] theorem State.ringTimeValid_set (s : State) (f : Fld) (ix : List Nat) (v : Nat) : (s.set f ix v).ringTimeValid = s.ringTimeValid := rfl
@[simp] theorem State.sw_set (s : State) (f : Fld) (ix : List Nat) (v : Nat) : (s.set f ix v).sw = s.sw := rfl
@[simp] theorem State.grd_set (s : State) (f : Fld) (ix : List Nat) (v : Nat) : (s.set f ix v).grd = s.grd := rfl
@[simp] theorem State.edge_set (s : State) (f : Fld) (ix : List Nat) (v : Nat) : (s.set f ix v).edge = s.edge := rfl
@[simp] theorem State.chip_set (s : State) (f : Fld) (ix : List Nat) (v : Nat) : (s.set f ix v).chip = s.chip := rfl
@[simp] theorem State.upd_set (s : State) (f : Fld) (ix : List Nat) (v : Nat) : (s.set f ix v).upd = s.upd := rfl

@[simp] theorem State.pending_setB (s : State) (f : Fld) (ix : List Nat) (b : Bool) : (s.setB f ix b).pending = s.pending := rfl
@[simp] theorem State.out_setB (s : State) (f : Fld) (ix : List Nat) (b : Bool) : (s.setB f ix b).out = s.out := rfl
@[simp] theorem State.line_setB (s : State) (f : Fld) (ix : List Nat) (b : Bool) : (s.setB f ix b).line = s.line := rfl
@[simp] theorem State.free_setB (s : State) (f : Fld) (ix : List Nat) (b : Bool) : (s.setB f ix b).free = s.free := rfl
@[simp] theorem State.faultPair_setB (s : State) (f : Fld) (ix : List Nat) (b : Bool) : (s.setB f ix b).faultPair = s.faultPair := rfl
@[simp] theorem State.time_setB (s : State) (f : Fld) (ix : List Nat) (b : Bool) : (s.setB f ix b).time = s.time := rfl
@[simp] theorem State.shot_setB (s : State) (f : Fld) (ix : List Nat) (b : Bool) : (s.setB f ix b).shot = s.shot := rfl
@[simp] theorem State.permits_setB (s : State) (f : Fld) (ix : List Nat) (b : Bool) : (s.setB f ix b).permits = s.permits := rfl
@[simp] theorem State.ring_setB (s : State) (f : Fld) (ix : List Nat) (b : Bool) : (s.setB f ix b).ring = s.ring := rfl
@[simp] theorem State.twin_setB (s : State) (f : Fld) (ix : List Nat) (b : Bool) : (s.setB f ix b).twin = s.twin := rfl
@[simp] theorem State.hop_setB (s : State) (f : Fld) (ix : List Nat) (b : Bool) : (s.setB f ix b).hop = s.hop := rfl
@[simp] theorem State.brg_setB (s : State) (f : Fld) (ix : List Nat) (b : Bool) : (s.setB f ix b).brg = s.brg := rfl
@[simp] theorem State.setts_setB (s : State) (f : Fld) (ix : List Nat) (b : Bool) : (s.setB f ix b).setts = s.setts := rfl
@[simp] theorem State.pins_setB (s : State) (f : Fld) (ix : List Nat) (b : Bool) : (s.setB f ix b).pins = s.pins := rfl
@[simp] theorem State.benches_setB (s : State) (f : Fld) (ix : List Nat) (b : Bool) : (s.setB f ix b).benches = s.benches := rfl
@[simp] theorem State.drs_setB (s : State) (f : Fld) (ix : List Nat) (b : Bool) : (s.setB f ix b).drs = s.drs := rfl
@[simp] theorem State.ports_setB (s : State) (f : Fld) (ix : List Nat) (b : Bool) : (s.setB f ix b).ports = s.ports := rfl
@[simp] theorem State.can_setB (s : State) (f : Fld) (ix : List Nat) (b : Bool) : (s.setB f ix b).can = s.can := rfl
@[simp] theorem State.canTimeValid_setB (s : State) (f : Fld) (ix : List Nat) (b : Bool) : (s.setB f ix b).canTimeValid = s.canTimeValid := rfl
@[simp] theorem State.ethTimeValid_setB (s : State) (f : Fld) (ix : List Nat) (b : Bool) : (s.setB f ix b).ethTimeValid = s.ethTimeValid := rfl
@[simp] theorem State.hopTimeValid_setB (s : State) (f : Fld) (ix : List Nat) (b : Bool) : (s.setB f ix b).hopTimeValid = s.hopTimeValid := rfl
@[simp] theorem State.ringTimeValid_setB (s : State) (f : Fld) (ix : List Nat) (b : Bool) : (s.setB f ix b).ringTimeValid = s.ringTimeValid := rfl
@[simp] theorem State.sw_setB (s : State) (f : Fld) (ix : List Nat) (b : Bool) : (s.setB f ix b).sw = s.sw := rfl
@[simp] theorem State.grd_setB (s : State) (f : Fld) (ix : List Nat) (b : Bool) : (s.setB f ix b).grd = s.grd := rfl
@[simp] theorem State.edge_setB (s : State) (f : Fld) (ix : List Nat) (b : Bool) : (s.setB f ix b).edge = s.edge := rfl
@[simp] theorem State.chip_setB (s : State) (f : Fld) (ix : List Nat) (b : Bool) : (s.setB f ix b).chip = s.chip := rfl
@[simp] theorem State.upd_setB (s : State) (f : Fld) (ix : List Nat) (b : Bool) : (s.setB f ix b).upd = s.upd := rfl

@[simp] theorem State.pending_inc (s : State) (f : Fld) (ix : List Nat) : (s.inc f ix).pending = s.pending := rfl
@[simp] theorem State.out_inc (s : State) (f : Fld) (ix : List Nat) : (s.inc f ix).out = s.out := rfl
@[simp] theorem State.line_inc (s : State) (f : Fld) (ix : List Nat) : (s.inc f ix).line = s.line := rfl
@[simp] theorem State.free_inc (s : State) (f : Fld) (ix : List Nat) : (s.inc f ix).free = s.free := rfl
@[simp] theorem State.faultPair_inc (s : State) (f : Fld) (ix : List Nat) : (s.inc f ix).faultPair = s.faultPair := rfl
@[simp] theorem State.time_inc (s : State) (f : Fld) (ix : List Nat) : (s.inc f ix).time = s.time := rfl
@[simp] theorem State.shot_inc (s : State) (f : Fld) (ix : List Nat) : (s.inc f ix).shot = s.shot := rfl
@[simp] theorem State.permits_inc (s : State) (f : Fld) (ix : List Nat) : (s.inc f ix).permits = s.permits := rfl
@[simp] theorem State.ring_inc (s : State) (f : Fld) (ix : List Nat) : (s.inc f ix).ring = s.ring := rfl
@[simp] theorem State.twin_inc (s : State) (f : Fld) (ix : List Nat) : (s.inc f ix).twin = s.twin := rfl
@[simp] theorem State.hop_inc (s : State) (f : Fld) (ix : List Nat) : (s.inc f ix).hop = s.hop := rfl
@[simp] theorem State.brg_inc (s : State) (f : Fld) (ix : List Nat) : (s.inc f ix).brg = s.brg := rfl
@[simp] theorem State.setts_inc (s : State) (f : Fld) (ix : List Nat) : (s.inc f ix).setts = s.setts := rfl
@[simp] theorem State.pins_inc (s : State) (f : Fld) (ix : List Nat) : (s.inc f ix).pins = s.pins := rfl
@[simp] theorem State.benches_inc (s : State) (f : Fld) (ix : List Nat) : (s.inc f ix).benches = s.benches := rfl
@[simp] theorem State.drs_inc (s : State) (f : Fld) (ix : List Nat) : (s.inc f ix).drs = s.drs := rfl
@[simp] theorem State.ports_inc (s : State) (f : Fld) (ix : List Nat) : (s.inc f ix).ports = s.ports := rfl
@[simp] theorem State.can_inc (s : State) (f : Fld) (ix : List Nat) : (s.inc f ix).can = s.can := rfl
@[simp] theorem State.canTimeValid_inc (s : State) (f : Fld) (ix : List Nat) : (s.inc f ix).canTimeValid = s.canTimeValid := rfl
@[simp] theorem State.ethTimeValid_inc (s : State) (f : Fld) (ix : List Nat) : (s.inc f ix).ethTimeValid = s.ethTimeValid := rfl
@[simp] theorem State.hopTimeValid_inc (s : State) (f : Fld) (ix : List Nat) : (s.inc f ix).hopTimeValid = s.hopTimeValid := rfl
@[simp] theorem State.ringTimeValid_inc (s : State) (f : Fld) (ix : List Nat) : (s.inc f ix).ringTimeValid = s.ringTimeValid := rfl
@[simp] theorem State.sw_inc (s : State) (f : Fld) (ix : List Nat) : (s.inc f ix).sw = s.sw := rfl
@[simp] theorem State.grd_inc (s : State) (f : Fld) (ix : List Nat) : (s.inc f ix).grd = s.grd := rfl
@[simp] theorem State.edge_inc (s : State) (f : Fld) (ix : List Nat) : (s.inc f ix).edge = s.edge := rfl
@[simp] theorem State.chip_inc (s : State) (f : Fld) (ix : List Nat) : (s.inc f ix).chip = s.chip := rfl
@[simp] theorem State.upd_inc (s : State) (f : Fld) (ix : List Nat) : (s.inc f ix).upd = s.upd := rfl

@[simp] theorem State.pending_setBitOf (s : State) (f : Fld) (ix : List Nat) (i : Nat) (b : Bool) : (s.setBitOf f ix i b).pending = s.pending := rfl
@[simp] theorem State.out_setBitOf (s : State) (f : Fld) (ix : List Nat) (i : Nat) (b : Bool) : (s.setBitOf f ix i b).out = s.out := rfl
@[simp] theorem State.line_setBitOf (s : State) (f : Fld) (ix : List Nat) (i : Nat) (b : Bool) : (s.setBitOf f ix i b).line = s.line := rfl
@[simp] theorem State.free_setBitOf (s : State) (f : Fld) (ix : List Nat) (i : Nat) (b : Bool) : (s.setBitOf f ix i b).free = s.free := rfl
@[simp] theorem State.faultPair_setBitOf (s : State) (f : Fld) (ix : List Nat) (i : Nat) (b : Bool) : (s.setBitOf f ix i b).faultPair = s.faultPair := rfl
@[simp] theorem State.time_setBitOf (s : State) (f : Fld) (ix : List Nat) (i : Nat) (b : Bool) : (s.setBitOf f ix i b).time = s.time := rfl
@[simp] theorem State.shot_setBitOf (s : State) (f : Fld) (ix : List Nat) (i : Nat) (b : Bool) : (s.setBitOf f ix i b).shot = s.shot := rfl
@[simp] theorem State.permits_setBitOf (s : State) (f : Fld) (ix : List Nat) (i : Nat) (b : Bool) : (s.setBitOf f ix i b).permits = s.permits := rfl
@[simp] theorem State.ring_setBitOf (s : State) (f : Fld) (ix : List Nat) (i : Nat) (b : Bool) : (s.setBitOf f ix i b).ring = s.ring := rfl
@[simp] theorem State.twin_setBitOf (s : State) (f : Fld) (ix : List Nat) (i : Nat) (b : Bool) : (s.setBitOf f ix i b).twin = s.twin := rfl
@[simp] theorem State.hop_setBitOf (s : State) (f : Fld) (ix : List Nat) (i : Nat) (b : Bool) : (s.setBitOf f ix i b).hop = s.hop := rfl
@[simp] theorem State.brg_setBitOf (s : State) (f : Fld) (ix : List Nat) (i : Nat) (b : Bool) : (s.setBitOf f ix i b).brg = s.brg := rfl
@[simp] theorem State.setts_setBitOf (s : State) (f : Fld) (ix : List Nat) (i : Nat) (b : Bool) : (s.setBitOf f ix i b).setts = s.setts := rfl
@[simp] theorem State.pins_setBitOf (s : State) (f : Fld) (ix : List Nat) (i : Nat) (b : Bool) : (s.setBitOf f ix i b).pins = s.pins := rfl
@[simp] theorem State.benches_setBitOf (s : State) (f : Fld) (ix : List Nat) (i : Nat) (b : Bool) : (s.setBitOf f ix i b).benches = s.benches := rfl
@[simp] theorem State.drs_setBitOf (s : State) (f : Fld) (ix : List Nat) (i : Nat) (b : Bool) : (s.setBitOf f ix i b).drs = s.drs := rfl
@[simp] theorem State.ports_setBitOf (s : State) (f : Fld) (ix : List Nat) (i : Nat) (b : Bool) : (s.setBitOf f ix i b).ports = s.ports := rfl
@[simp] theorem State.can_setBitOf (s : State) (f : Fld) (ix : List Nat) (i : Nat) (b : Bool) : (s.setBitOf f ix i b).can = s.can := rfl
@[simp] theorem State.canTimeValid_setBitOf (s : State) (f : Fld) (ix : List Nat) (i : Nat) (b : Bool) : (s.setBitOf f ix i b).canTimeValid = s.canTimeValid := rfl
@[simp] theorem State.ethTimeValid_setBitOf (s : State) (f : Fld) (ix : List Nat) (i : Nat) (b : Bool) : (s.setBitOf f ix i b).ethTimeValid = s.ethTimeValid := rfl
@[simp] theorem State.hopTimeValid_setBitOf (s : State) (f : Fld) (ix : List Nat) (i : Nat) (b : Bool) : (s.setBitOf f ix i b).hopTimeValid = s.hopTimeValid := rfl
@[simp] theorem State.ringTimeValid_setBitOf (s : State) (f : Fld) (ix : List Nat) (i : Nat) (b : Bool) : (s.setBitOf f ix i b).ringTimeValid = s.ringTimeValid := rfl
@[simp] theorem State.sw_setBitOf (s : State) (f : Fld) (ix : List Nat) (i : Nat) (b : Bool) : (s.setBitOf f ix i b).sw = s.sw := rfl
@[simp] theorem State.grd_setBitOf (s : State) (f : Fld) (ix : List Nat) (i : Nat) (b : Bool) : (s.setBitOf f ix i b).grd = s.grd := rfl
@[simp] theorem State.edge_setBitOf (s : State) (f : Fld) (ix : List Nat) (i : Nat) (b : Bool) : (s.setBitOf f ix i b).edge = s.edge := rfl
@[simp] theorem State.chip_setBitOf (s : State) (f : Fld) (ix : List Nat) (i : Nat) (b : Bool) : (s.setBitOf f ix i b).chip = s.chip := rfl
@[simp] theorem State.upd_setBitOf (s : State) (f : Fld) (ix : List Nat) (i : Nat) (b : Bool) : (s.setBitOf f ix i b).upd = s.upd := rfl

@[simp] theorem State.line_emit (s : State) (o : Out) : (s.emit o).line = s.line := rfl
@[simp] theorem State.free_emit (s : State) (o : Out) : (s.emit o).free = s.free := rfl
@[simp] theorem State.faultPair_emit (s : State) (o : Out) : (s.emit o).faultPair = s.faultPair := rfl
@[simp] theorem State.time_emit (s : State) (o : Out) : (s.emit o).time = s.time := rfl
@[simp] theorem State.shot_emit (s : State) (o : Out) : (s.emit o).shot = s.shot := rfl
@[simp] theorem State.permits_emit (s : State) (o : Out) : (s.emit o).permits = s.permits := rfl
@[simp] theorem State.ring_emit (s : State) (o : Out) : (s.emit o).ring = s.ring := rfl
@[simp] theorem State.twin_emit (s : State) (o : Out) : (s.emit o).twin = s.twin := rfl
@[simp] theorem State.hop_emit (s : State) (o : Out) : (s.emit o).hop = s.hop := rfl
@[simp] theorem State.brg_emit (s : State) (o : Out) : (s.emit o).brg = s.brg := rfl
@[simp] theorem State.setts_emit (s : State) (o : Out) : (s.emit o).setts = s.setts := rfl
@[simp] theorem State.pins_emit (s : State) (o : Out) : (s.emit o).pins = s.pins := rfl
@[simp] theorem State.benches_emit (s : State) (o : Out) : (s.emit o).benches = s.benches := rfl
@[simp] theorem State.drs_emit (s : State) (o : Out) : (s.emit o).drs = s.drs := rfl
@[simp] theorem State.ports_emit (s : State) (o : Out) : (s.emit o).ports = s.ports := rfl
@[simp] theorem State.can_emit (s : State) (o : Out) : (s.emit o).can = s.can := rfl
@[simp] theorem State.canTimeValid_emit (s : State) (o : Out) : (s.emit o).canTimeValid = s.canTimeValid := rfl
@[simp] theorem State.ethTimeValid_emit (s : State) (o : Out) : (s.emit o).ethTimeValid = s.ethTimeValid := rfl
@[simp] theorem State.hopTimeValid_emit (s : State) (o : Out) : (s.emit o).hopTimeValid = s.hopTimeValid := rfl
@[simp] theorem State.ringTimeValid_emit (s : State) (o : Out) : (s.emit o).ringTimeValid = s.ringTimeValid := rfl
@[simp] theorem State.sw_emit (s : State) (o : Out) : (s.emit o).sw = s.sw := rfl
@[simp] theorem State.grd_emit (s : State) (o : Out) : (s.emit o).grd = s.grd := rfl
@[simp] theorem State.edge_emit (s : State) (o : Out) : (s.emit o).edge = s.edge := rfl
@[simp] theorem State.chip_emit (s : State) (o : Out) : (s.emit o).chip = s.chip := rfl
@[simp] theorem State.upd_emit (s : State) (o : Out) : (s.emit o).upd = s.upd := rfl
@[simp] theorem State.is_emit (s : State) (o : Out) (fl : Fld) (jx : List Nat) :
    (s.emit o).is fl jx = s.is fl jx := rfl

@[simp] theorem State.free_clearOut (s : State) : (s.clearOut).free = s.free := rfl
@[simp] theorem State.faultPair_clearOut (s : State) : (s.clearOut).faultPair = s.faultPair := rfl
@[simp] theorem State.time_clearOut (s : State) : (s.clearOut).time = s.time := rfl
@[simp] theorem State.shot_clearOut (s : State) : (s.clearOut).shot = s.shot := rfl
@[simp] theorem State.permits_clearOut (s : State) : (s.clearOut).permits = s.permits := rfl
@[simp] theorem State.ring_clearOut (s : State) : (s.clearOut).ring = s.ring := rfl
@[simp] theorem State.twin_clearOut (s : State) : (s.clearOut).twin = s.twin := rfl
@[simp] theorem State.hop_clearOut (s : State) : (s.clearOut).hop = s.hop := rfl
@[simp] theorem State.brg_clearOut (s : State) : (s.clearOut).brg = s.brg := rfl
@[simp] theorem State.setts_clearOut (s : State) : (s.clearOut).setts = s.setts := rfl
@[simp] theorem State.pins_clearOut (s : State) : (s.clearOut).pins = s.pins := rfl
@[simp] theorem State.benches_clearOut (s : State) : (s.clearOut).benches = s.benches := rfl
@[simp] theorem State.drs_clearOut (s : State) : (s.clearOut).drs = s.drs := rfl
@[simp] theorem State.ports_clearOut (s : State) : (s.clearOut).ports = s.ports := rfl
@[simp] theorem State.can_clearOut (s : State) : (s.clearOut).can = s.can := rfl
@[simp] theorem State.canTimeValid_clearOut (s : State) : (s.clearOut).canTimeValid = s.canTimeValid := rfl
@[simp] theorem State.ethTimeValid_clearOut (s : State) : (s.clearOut).ethTimeValid = s.ethTimeValid := rfl
@[simp] theorem State.hopTimeValid_clearOut (s : State) : (s.clearOut).hopTimeValid = s.hopTimeValid := rfl
@[simp] theorem State.ringTimeValid_clearOut (s : State) : (s.clearOut).ringTimeValid = s.ringTimeValid := rfl
@[simp] theorem State.sw_clearOut (s : State) : (s.clearOut).sw = s.sw := rfl
@[simp] theorem State.grd_clearOut (s : State) : (s.clearOut).grd = s.grd := rfl
@[simp] theorem State.edge_clearOut (s : State) : (s.clearOut).edge = s.edge := rfl
@[simp] theorem State.chip_clearOut (s : State) : (s.clearOut).chip = s.chip := rfl
@[simp] theorem State.upd_clearOut (s : State) : (s.clearOut).upd = s.upd := rfl

@[simp] theorem State.pending_setSett (s : State) (b k : Nat) (x : Sett) : (s.setSett b k x).pending = s.pending := rfl
@[simp] theorem State.out_setSett (s : State) (b k : Nat) (x : Sett) : (s.setSett b k x).out = s.out := rfl
@[simp] theorem State.line_setSett (s : State) (b k : Nat) (x : Sett) : (s.setSett b k x).line = s.line := rfl
@[simp] theorem State.regs_setSett (s : State) (b k : Nat) (x : Sett) : (s.setSett b k x).regs = s.regs := rfl
@[simp] theorem State.free_setSett (s : State) (b k : Nat) (x : Sett) : (s.setSett b k x).free = s.free := rfl
@[simp] theorem State.faultPair_setSett (s : State) (b k : Nat) (x : Sett) : (s.setSett b k x).faultPair = s.faultPair := rfl
@[simp] theorem State.time_setSett (s : State) (b k : Nat) (x : Sett) : (s.setSett b k x).time = s.time := rfl
@[simp] theorem State.shot_setSett (s : State) (b k : Nat) (x : Sett) : (s.setSett b k x).shot = s.shot := rfl
@[simp] theorem State.permits_setSett (s : State) (b k : Nat) (x : Sett) : (s.setSett b k x).permits = s.permits := rfl
@[simp] theorem State.ring_setSett (s : State) (b k : Nat) (x : Sett) : (s.setSett b k x).ring = s.ring := rfl
@[simp] theorem State.twin_setSett (s : State) (b k : Nat) (x : Sett) : (s.setSett b k x).twin = s.twin := rfl
@[simp] theorem State.hop_setSett (s : State) (b k : Nat) (x : Sett) : (s.setSett b k x).hop = s.hop := rfl
@[simp] theorem State.brg_setSett (s : State) (b k : Nat) (x : Sett) : (s.setSett b k x).brg = s.brg := rfl
@[simp] theorem State.pins_setSett (s : State) (b k : Nat) (x : Sett) : (s.setSett b k x).pins = s.pins := rfl
@[simp] theorem State.benches_setSett (s : State) (b k : Nat) (x : Sett) : (s.setSett b k x).benches = s.benches := rfl
@[simp] theorem State.drs_setSett (s : State) (b k : Nat) (x : Sett) : (s.setSett b k x).drs = s.drs := rfl
@[simp] theorem State.ports_setSett (s : State) (b k : Nat) (x : Sett) : (s.setSett b k x).ports = s.ports := rfl
@[simp] theorem State.can_setSett (s : State) (b k : Nat) (x : Sett) : (s.setSett b k x).can = s.can := rfl
@[simp] theorem State.canTimeValid_setSett (s : State) (b k : Nat) (x : Sett) : (s.setSett b k x).canTimeValid = s.canTimeValid := rfl
@[simp] theorem State.ethTimeValid_setSett (s : State) (b k : Nat) (x : Sett) : (s.setSett b k x).ethTimeValid = s.ethTimeValid := rfl
@[simp] theorem State.hopTimeValid_setSett (s : State) (b k : Nat) (x : Sett) : (s.setSett b k x).hopTimeValid = s.hopTimeValid := rfl
@[simp] theorem State.ringTimeValid_setSett (s : State) (b k : Nat) (x : Sett) : (s.setSett b k x).ringTimeValid = s.ringTimeValid := rfl
@[simp] theorem State.sw_setSett (s : State) (b k : Nat) (x : Sett) : (s.setSett b k x).sw = s.sw := rfl
@[simp] theorem State.grd_setSett (s : State) (b k : Nat) (x : Sett) : (s.setSett b k x).grd = s.grd := rfl
@[simp] theorem State.edge_setSett (s : State) (b k : Nat) (x : Sett) : (s.setSett b k x).edge = s.edge := rfl
@[simp] theorem State.chip_setSett (s : State) (b k : Nat) (x : Sett) : (s.setSett b k x).chip = s.chip := rfl
@[simp] theorem State.upd_setSett (s : State) (b k : Nat) (x : Sett) : (s.setSett b k x).upd = s.upd := rfl
@[simp] theorem State.get_setSett (s : State) (b k : Nat) (x : Sett) (fl : Fld) (jx : List Nat) :
    (s.setSett b k x).get fl jx = s.get fl jx := rfl
@[simp] theorem State.is_setSett (s : State) (b k : Nat) (x : Sett) (fl : Fld) (jx : List Nat) :
    (s.setSett b k x).is fl jx = s.is fl jx := rfl

@[simp] theorem State.line_onSett (s : State) (b k : Nat) (g : Sett → Sett) : (s.onSett b k g).line = s.line := rfl
@[simp] theorem State.free_onSett (s : State) (b k : Nat) (g : Sett → Sett) : (s.onSett b k g).free = s.free := rfl
@[simp] theorem State.faultPair_onSett (s : State) (b k : Nat) (g : Sett → Sett) : (s.onSett b k g).faultPair = s.faultPair := rfl
@[simp] theorem State.time_onSett (s : State) (b k : Nat) (g : Sett → Sett) : (s.onSett b k g).time = s.time := rfl
@[simp] theorem State.shot_onSett (s : State) (b k : Nat) (g : Sett → Sett) : (s.onSett b k g).shot = s.shot := rfl
@[simp] theorem State.permits_onSett (s : State) (b k : Nat) (g : Sett → Sett) : (s.onSett b k g).permits = s.permits := rfl
@[simp] theorem State.ring_onSett (s : State) (b k : Nat) (g : Sett → Sett) : (s.onSett b k g).ring = s.ring := rfl
@[simp] theorem State.twin_onSett (s : State) (b k : Nat) (g : Sett → Sett) : (s.onSett b k g).twin = s.twin := rfl
@[simp] theorem State.hop_onSett (s : State) (b k : Nat) (g : Sett → Sett) : (s.onSett b k g).hop = s.hop := rfl
@[simp] theorem State.brg_onSett (s : State) (b k : Nat) (g : Sett → Sett) : (s.onSett b k g).brg = s.brg := rfl
@[simp] theorem State.pins_onSett (s : State) (b k : Nat) (g : Sett → Sett) : (s.onSett b k g).pins = s.pins := rfl
@[simp] theorem State.benches_onSett (s : State) (b k : Nat) (g : Sett → Sett) : (s.onSett b k g).benches = s.benches := rfl
@[simp] theorem State.drs_onSett (s : State) (b k : Nat) (g : Sett → Sett) : (s.onSett b k g).drs = s.drs := rfl
@[simp] theorem State.ports_onSett (s : State) (b k : Nat) (g : Sett → Sett) : (s.onSett b k g).ports = s.ports := rfl
@[simp] theorem State.can_onSett (s : State) (b k : Nat) (g : Sett → Sett) : (s.onSett b k g).can = s.can := rfl
@[simp] theorem State.canTimeValid_onSett (s : State) (b k : Nat) (g : Sett → Sett) : (s.onSett b k g).canTimeValid = s.canTimeValid := rfl
@[simp] theorem State.ethTimeValid_onSett (s : State) (b k : Nat) (g : Sett → Sett) : (s.onSett b k g).ethTimeValid = s.ethTimeValid := rfl
@[simp] theorem State.hopTimeValid_onSett (s : State) (b k : Nat) (g : Sett → Sett) : (s.onSett b k g).hopTimeValid = s.hopTimeValid := rfl
@[simp] theorem State.ringTimeValid_onSett (s : State) (b k : Nat) (g : Sett → Sett) : (s.onSett b k g).ringTimeValid = s.ringTimeValid := rfl
@[simp] theorem State.sw_onSett (s : State) (b k : Nat) (g : Sett → Sett) : (s.onSett b k g).sw = s.sw := rfl
@[simp] theorem State.grd_onSett (s : State) (b k : Nat) (g : Sett → Sett) : (s.onSett b k g).grd = s.grd := rfl
@[simp] theorem State.edge_onSett (s : State) (b k : Nat) (g : Sett → Sett) : (s.onSett b k g).edge = s.edge := rfl
@[simp] theorem State.chip_onSett (s : State) (b k : Nat) (g : Sett → Sett) : (s.onSett b k g).chip = s.chip := rfl
@[simp] theorem State.upd_onSett (s : State) (b k : Nat) (g : Sett → Sett) : (s.onSett b k g).upd = s.upd := rfl
@[simp] theorem State.is_onSett (s : State) (b k : Nat) (g : Sett → Sett) (fl : Fld) (jx : List Nat) :
    (s.onSett b k g).is fl jx = s.is fl jx := rfl

@[simp] theorem State.pending_setPin (s : State) (b p : Nat) (x : Pin) : (s.setPin b p x).pending = s.pending := rfl
@[simp] theorem State.out_setPin (s : State) (b p : Nat) (x : Pin) : (s.setPin b p x).out = s.out := rfl
@[simp] theorem State.line_setPin (s : State) (b p : Nat) (x : Pin) : (s.setPin b p x).line = s.line := rfl
@[simp] theorem State.regs_setPin (s : State) (b p : Nat) (x : Pin) : (s.setPin b p x).regs = s.regs := rfl
@[simp] theorem State.free_setPin (s : State) (b p : Nat) (x : Pin) : (s.setPin b p x).free = s.free := rfl
@[simp] theorem State.faultPair_setPin (s : State) (b p : Nat) (x : Pin) : (s.setPin b p x).faultPair = s.faultPair := rfl
@[simp] theorem State.time_setPin (s : State) (b p : Nat) (x : Pin) : (s.setPin b p x).time = s.time := rfl
@[simp] theorem State.shot_setPin (s : State) (b p : Nat) (x : Pin) : (s.setPin b p x).shot = s.shot := rfl
@[simp] theorem State.permits_setPin (s : State) (b p : Nat) (x : Pin) : (s.setPin b p x).permits = s.permits := rfl
@[simp] theorem State.ring_setPin (s : State) (b p : Nat) (x : Pin) : (s.setPin b p x).ring = s.ring := rfl
@[simp] theorem State.twin_setPin (s : State) (b p : Nat) (x : Pin) : (s.setPin b p x).twin = s.twin := rfl
@[simp] theorem State.hop_setPin (s : State) (b p : Nat) (x : Pin) : (s.setPin b p x).hop = s.hop := rfl
@[simp] theorem State.brg_setPin (s : State) (b p : Nat) (x : Pin) : (s.setPin b p x).brg = s.brg := rfl
@[simp] theorem State.setts_setPin (s : State) (b p : Nat) (x : Pin) : (s.setPin b p x).setts = s.setts := rfl
@[simp] theorem State.benches_setPin (s : State) (b p : Nat) (x : Pin) : (s.setPin b p x).benches = s.benches := rfl
@[simp] theorem State.drs_setPin (s : State) (b p : Nat) (x : Pin) : (s.setPin b p x).drs = s.drs := rfl
@[simp] theorem State.ports_setPin (s : State) (b p : Nat) (x : Pin) : (s.setPin b p x).ports = s.ports := rfl
@[simp] theorem State.can_setPin (s : State) (b p : Nat) (x : Pin) : (s.setPin b p x).can = s.can := rfl
@[simp] theorem State.canTimeValid_setPin (s : State) (b p : Nat) (x : Pin) : (s.setPin b p x).canTimeValid = s.canTimeValid := rfl
@[simp] theorem State.ethTimeValid_setPin (s : State) (b p : Nat) (x : Pin) : (s.setPin b p x).ethTimeValid = s.ethTimeValid := rfl
@[simp] theorem State.hopTimeValid_setPin (s : State) (b p : Nat) (x : Pin) : (s.setPin b p x).hopTimeValid = s.hopTimeValid := rfl
@[simp] theorem State.ringTimeValid_setPin (s : State) (b p : Nat) (x : Pin) : (s.setPin b p x).ringTimeValid = s.ringTimeValid := rfl
@[simp] theorem State.sw_setPin (s : State) (b p : Nat) (x : Pin) : (s.setPin b p x).sw = s.sw := rfl
@[simp] theorem State.grd_setPin (s : State) (b p : Nat) (x : Pin) : (s.setPin b p x).grd = s.grd := rfl
@[simp] theorem State.edge_setPin (s : State) (b p : Nat) (x : Pin) : (s.setPin b p x).edge = s.edge := rfl
@[simp] theorem State.chip_setPin (s : State) (b p : Nat) (x : Pin) : (s.setPin b p x).chip = s.chip := rfl
@[simp] theorem State.upd_setPin (s : State) (b p : Nat) (x : Pin) : (s.setPin b p x).upd = s.upd := rfl
@[simp] theorem State.rd_setPin (s : State) (b p : Nat) (x : Pin) (r : Reg) (jx : List Nat) :
    (s.setPin b p x).rd r jx = s.rd r jx := rfl
@[simp] theorem State.get_setPin (s : State) (b p : Nat) (x : Pin) (fl : Fld) (jx : List Nat) :
    (s.setPin b p x).get fl jx = s.get fl jx := rfl
@[simp] theorem State.is_setPin (s : State) (b p : Nat) (x : Pin) (fl : Fld) (jx : List Nat) :
    (s.setPin b p x).is fl jx = s.is fl jx := rfl

@[simp] theorem State.pending_setBench (s : State) (b : Nat) (x : Bench) : (s.setBench b x).pending = s.pending := rfl
@[simp] theorem State.out_setBench (s : State) (b : Nat) (x : Bench) : (s.setBench b x).out = s.out := rfl
@[simp] theorem State.line_setBench (s : State) (b : Nat) (x : Bench) : (s.setBench b x).line = s.line := rfl
@[simp] theorem State.regs_setBench (s : State) (b : Nat) (x : Bench) : (s.setBench b x).regs = s.regs := rfl
@[simp] theorem State.free_setBench (s : State) (b : Nat) (x : Bench) : (s.setBench b x).free = s.free := rfl
@[simp] theorem State.faultPair_setBench (s : State) (b : Nat) (x : Bench) : (s.setBench b x).faultPair = s.faultPair := rfl
@[simp] theorem State.time_setBench (s : State) (b : Nat) (x : Bench) : (s.setBench b x).time = s.time := rfl
@[simp] theorem State.shot_setBench (s : State) (b : Nat) (x : Bench) : (s.setBench b x).shot = s.shot := rfl
@[simp] theorem State.permits_setBench (s : State) (b : Nat) (x : Bench) : (s.setBench b x).permits = s.permits := rfl
@[simp] theorem State.ring_setBench (s : State) (b : Nat) (x : Bench) : (s.setBench b x).ring = s.ring := rfl
@[simp] theorem State.twin_setBench (s : State) (b : Nat) (x : Bench) : (s.setBench b x).twin = s.twin := rfl
@[simp] theorem State.hop_setBench (s : State) (b : Nat) (x : Bench) : (s.setBench b x).hop = s.hop := rfl
@[simp] theorem State.brg_setBench (s : State) (b : Nat) (x : Bench) : (s.setBench b x).brg = s.brg := rfl
@[simp] theorem State.setts_setBench (s : State) (b : Nat) (x : Bench) : (s.setBench b x).setts = s.setts := rfl
@[simp] theorem State.pins_setBench (s : State) (b : Nat) (x : Bench) : (s.setBench b x).pins = s.pins := rfl
@[simp] theorem State.drs_setBench (s : State) (b : Nat) (x : Bench) : (s.setBench b x).drs = s.drs := rfl
@[simp] theorem State.ports_setBench (s : State) (b : Nat) (x : Bench) : (s.setBench b x).ports = s.ports := rfl
@[simp] theorem State.can_setBench (s : State) (b : Nat) (x : Bench) : (s.setBench b x).can = s.can := rfl
@[simp] theorem State.canTimeValid_setBench (s : State) (b : Nat) (x : Bench) : (s.setBench b x).canTimeValid = s.canTimeValid := rfl
@[simp] theorem State.ethTimeValid_setBench (s : State) (b : Nat) (x : Bench) : (s.setBench b x).ethTimeValid = s.ethTimeValid := rfl
@[simp] theorem State.hopTimeValid_setBench (s : State) (b : Nat) (x : Bench) : (s.setBench b x).hopTimeValid = s.hopTimeValid := rfl
@[simp] theorem State.ringTimeValid_setBench (s : State) (b : Nat) (x : Bench) : (s.setBench b x).ringTimeValid = s.ringTimeValid := rfl
@[simp] theorem State.sw_setBench (s : State) (b : Nat) (x : Bench) : (s.setBench b x).sw = s.sw := rfl
@[simp] theorem State.grd_setBench (s : State) (b : Nat) (x : Bench) : (s.setBench b x).grd = s.grd := rfl
@[simp] theorem State.edge_setBench (s : State) (b : Nat) (x : Bench) : (s.setBench b x).edge = s.edge := rfl
@[simp] theorem State.chip_setBench (s : State) (b : Nat) (x : Bench) : (s.setBench b x).chip = s.chip := rfl
@[simp] theorem State.upd_setBench (s : State) (b : Nat) (x : Bench) : (s.setBench b x).upd = s.upd := rfl
@[simp] theorem State.rd_setBench (s : State) (b : Nat) (x : Bench) (r : Reg) (jx : List Nat) :
    (s.setBench b x).rd r jx = s.rd r jx := rfl
@[simp] theorem State.get_setBench (s : State) (b : Nat) (x : Bench) (fl : Fld) (jx : List Nat) :
    (s.setBench b x).get fl jx = s.get fl jx := rfl
@[simp] theorem State.is_setBench (s : State) (b : Nat) (x : Bench) (fl : Fld) (jx : List Nat) :
    (s.setBench b x).is fl jx = s.is fl jx := rfl

@[simp] theorem State.pending_setPort (s : State) (b k : Nat) (x : Port) : (s.setPort b k x).pending = s.pending := rfl
@[simp] theorem State.out_setPort (s : State) (b k : Nat) (x : Port) : (s.setPort b k x).out = s.out := rfl
@[simp] theorem State.line_setPort (s : State) (b k : Nat) (x : Port) : (s.setPort b k x).line = s.line := rfl
@[simp] theorem State.regs_setPort (s : State) (b k : Nat) (x : Port) : (s.setPort b k x).regs = s.regs := rfl
@[simp] theorem State.free_setPort (s : State) (b k : Nat) (x : Port) : (s.setPort b k x).free = s.free := rfl
@[simp] theorem State.faultPair_setPort (s : State) (b k : Nat) (x : Port) : (s.setPort b k x).faultPair = s.faultPair := rfl
@[simp] theorem State.time_setPort (s : State) (b k : Nat) (x : Port) : (s.setPort b k x).time = s.time := rfl
@[simp] theorem State.shot_setPort (s : State) (b k : Nat) (x : Port) : (s.setPort b k x).shot = s.shot := rfl
@[simp] theorem State.permits_setPort (s : State) (b k : Nat) (x : Port) : (s.setPort b k x).permits = s.permits := rfl
@[simp] theorem State.ring_setPort (s : State) (b k : Nat) (x : Port) : (s.setPort b k x).ring = s.ring := rfl
@[simp] theorem State.twin_setPort (s : State) (b k : Nat) (x : Port) : (s.setPort b k x).twin = s.twin := rfl
@[simp] theorem State.hop_setPort (s : State) (b k : Nat) (x : Port) : (s.setPort b k x).hop = s.hop := rfl
@[simp] theorem State.brg_setPort (s : State) (b k : Nat) (x : Port) : (s.setPort b k x).brg = s.brg := rfl
@[simp] theorem State.setts_setPort (s : State) (b k : Nat) (x : Port) : (s.setPort b k x).setts = s.setts := rfl
@[simp] theorem State.pins_setPort (s : State) (b k : Nat) (x : Port) : (s.setPort b k x).pins = s.pins := rfl
@[simp] theorem State.benches_setPort (s : State) (b k : Nat) (x : Port) : (s.setPort b k x).benches = s.benches := rfl
@[simp] theorem State.drs_setPort (s : State) (b k : Nat) (x : Port) : (s.setPort b k x).drs = s.drs := rfl
@[simp] theorem State.can_setPort (s : State) (b k : Nat) (x : Port) : (s.setPort b k x).can = s.can := rfl
@[simp] theorem State.canTimeValid_setPort (s : State) (b k : Nat) (x : Port) : (s.setPort b k x).canTimeValid = s.canTimeValid := rfl
@[simp] theorem State.ethTimeValid_setPort (s : State) (b k : Nat) (x : Port) : (s.setPort b k x).ethTimeValid = s.ethTimeValid := rfl
@[simp] theorem State.hopTimeValid_setPort (s : State) (b k : Nat) (x : Port) : (s.setPort b k x).hopTimeValid = s.hopTimeValid := rfl
@[simp] theorem State.ringTimeValid_setPort (s : State) (b k : Nat) (x : Port) : (s.setPort b k x).ringTimeValid = s.ringTimeValid := rfl
@[simp] theorem State.sw_setPort (s : State) (b k : Nat) (x : Port) : (s.setPort b k x).sw = s.sw := rfl
@[simp] theorem State.grd_setPort (s : State) (b k : Nat) (x : Port) : (s.setPort b k x).grd = s.grd := rfl
@[simp] theorem State.edge_setPort (s : State) (b k : Nat) (x : Port) : (s.setPort b k x).edge = s.edge := rfl
@[simp] theorem State.chip_setPort (s : State) (b k : Nat) (x : Port) : (s.setPort b k x).chip = s.chip := rfl
@[simp] theorem State.upd_setPort (s : State) (b k : Nat) (x : Port) : (s.setPort b k x).upd = s.upd := rfl
@[simp] theorem State.rd_setPort (s : State) (b k : Nat) (x : Port) (r : Reg) (jx : List Nat) :
    (s.setPort b k x).rd r jx = s.rd r jx := rfl
@[simp] theorem State.get_setPort (s : State) (b k : Nat) (x : Port) (fl : Fld) (jx : List Nat) :
    (s.setPort b k x).get fl jx = s.get fl jx := rfl
@[simp] theorem State.is_setPort (s : State) (b k : Nat) (x : Port) (fl : Fld) (jx : List Nat) :
    (s.setPort b k x).is fl jx = s.is fl jx := rfl

@[simp] theorem State.pending_onPort (s : State) (b k : Nat) (g : Port → Port) : (s.onPort b k g).pending = s.pending := rfl
@[simp] theorem State.out_onPort (s : State) (b k : Nat) (g : Port → Port) : (s.onPort b k g).out = s.out := rfl
@[simp] theorem State.line_onPort (s : State) (b k : Nat) (g : Port → Port) : (s.onPort b k g).line = s.line := rfl
@[simp] theorem State.regs_onPort (s : State) (b k : Nat) (g : Port → Port) : (s.onPort b k g).regs = s.regs := rfl
@[simp] theorem State.free_onPort (s : State) (b k : Nat) (g : Port → Port) : (s.onPort b k g).free = s.free := rfl
@[simp] theorem State.faultPair_onPort (s : State) (b k : Nat) (g : Port → Port) : (s.onPort b k g).faultPair = s.faultPair := rfl
@[simp] theorem State.time_onPort (s : State) (b k : Nat) (g : Port → Port) : (s.onPort b k g).time = s.time := rfl
@[simp] theorem State.shot_onPort (s : State) (b k : Nat) (g : Port → Port) : (s.onPort b k g).shot = s.shot := rfl
@[simp] theorem State.permits_onPort (s : State) (b k : Nat) (g : Port → Port) : (s.onPort b k g).permits = s.permits := rfl
@[simp] theorem State.ring_onPort (s : State) (b k : Nat) (g : Port → Port) : (s.onPort b k g).ring = s.ring := rfl
@[simp] theorem State.twin_onPort (s : State) (b k : Nat) (g : Port → Port) : (s.onPort b k g).twin = s.twin := rfl
@[simp] theorem State.hop_onPort (s : State) (b k : Nat) (g : Port → Port) : (s.onPort b k g).hop = s.hop := rfl
@[simp] theorem State.brg_onPort (s : State) (b k : Nat) (g : Port → Port) : (s.onPort b k g).brg = s.brg := rfl
@[simp] theorem State.setts_onPort (s : State) (b k : Nat) (g : Port → Port) : (s.onPort b k g).setts = s.setts := rfl
@[simp] theorem State.pins_onPort (s : State) (b k : Nat) (g : Port → Port) : (s.onPort b k g).pins = s.pins := rfl
@[simp] theorem State.benches_onPort (s : State) (b k : Nat) (g : Port → Port) : (s.onPort b k g).benches = s.benches := rfl
@[simp] theorem State.drs_onPort (s : State) (b k : Nat) (g : Port → Port) : (s.onPort b k g).drs = s.drs := rfl
@[simp] theorem State.can_onPort (s : State) (b k : Nat) (g : Port → Port) : (s.onPort b k g).can = s.can := rfl
@[simp] theorem State.canTimeValid_onPort (s : State) (b k : Nat) (g : Port → Port) : (s.onPort b k g).canTimeValid = s.canTimeValid := rfl
@[simp] theorem State.ethTimeValid_onPort (s : State) (b k : Nat) (g : Port → Port) : (s.onPort b k g).ethTimeValid = s.ethTimeValid := rfl
@[simp] theorem State.hopTimeValid_onPort (s : State) (b k : Nat) (g : Port → Port) : (s.onPort b k g).hopTimeValid = s.hopTimeValid := rfl
@[simp] theorem State.ringTimeValid_onPort (s : State) (b k : Nat) (g : Port → Port) : (s.onPort b k g).ringTimeValid = s.ringTimeValid := rfl
@[simp] theorem State.sw_onPort (s : State) (b k : Nat) (g : Port → Port) : (s.onPort b k g).sw = s.sw := rfl
@[simp] theorem State.grd_onPort (s : State) (b k : Nat) (g : Port → Port) : (s.onPort b k g).grd = s.grd := rfl
@[simp] theorem State.edge_onPort (s : State) (b k : Nat) (g : Port → Port) : (s.onPort b k g).edge = s.edge := rfl
@[simp] theorem State.chip_onPort (s : State) (b k : Nat) (g : Port → Port) : (s.onPort b k g).chip = s.chip := rfl
@[simp] theorem State.upd_onPort (s : State) (b k : Nat) (g : Port → Port) : (s.onPort b k g).upd = s.upd := rfl
@[simp] theorem State.rd_onPort (s : State) (b k : Nat) (g : Port → Port) (r : Reg) (jx : List Nat) :
    (s.onPort b k g).rd r jx = s.rd r jx := rfl
@[simp] theorem State.get_onPort (s : State) (b k : Nat) (g : Port → Port) (fl : Fld) (jx : List Nat) :
    (s.onPort b k g).get fl jx = s.get fl jx := rfl
@[simp] theorem State.is_onPort (s : State) (b k : Nat) (g : Port → Port) (fl : Fld) (jx : List Nat) :
    (s.onPort b k g).is fl jx = s.is fl jx := rfl

@[simp] theorem State.pending_setChan (s : State) (b c : Nat) (x : DrsChannel) : (s.setChan b c x).pending = s.pending := rfl
@[simp] theorem State.out_setChan (s : State) (b c : Nat) (x : DrsChannel) : (s.setChan b c x).out = s.out := rfl
@[simp] theorem State.line_setChan (s : State) (b c : Nat) (x : DrsChannel) : (s.setChan b c x).line = s.line := rfl
@[simp] theorem State.regs_setChan (s : State) (b c : Nat) (x : DrsChannel) : (s.setChan b c x).regs = s.regs := rfl
@[simp] theorem State.free_setChan (s : State) (b c : Nat) (x : DrsChannel) : (s.setChan b c x).free = s.free := rfl
@[simp] theorem State.faultPair_setChan (s : State) (b c : Nat) (x : DrsChannel) : (s.setChan b c x).faultPair = s.faultPair := rfl
@[simp] theorem State.time_setChan (s : State) (b c : Nat) (x : DrsChannel) : (s.setChan b c x).time = s.time := rfl
@[simp] theorem State.shot_setChan (s : State) (b c : Nat) (x : DrsChannel) : (s.setChan b c x).shot = s.shot := rfl
@[simp] theorem State.permits_setChan (s : State) (b c : Nat) (x : DrsChannel) : (s.setChan b c x).permits = s.permits := rfl
@[simp] theorem State.ring_setChan (s : State) (b c : Nat) (x : DrsChannel) : (s.setChan b c x).ring = s.ring := rfl
@[simp] theorem State.twin_setChan (s : State) (b c : Nat) (x : DrsChannel) : (s.setChan b c x).twin = s.twin := rfl
@[simp] theorem State.hop_setChan (s : State) (b c : Nat) (x : DrsChannel) : (s.setChan b c x).hop = s.hop := rfl
@[simp] theorem State.brg_setChan (s : State) (b c : Nat) (x : DrsChannel) : (s.setChan b c x).brg = s.brg := rfl
@[simp] theorem State.setts_setChan (s : State) (b c : Nat) (x : DrsChannel) : (s.setChan b c x).setts = s.setts := rfl
@[simp] theorem State.pins_setChan (s : State) (b c : Nat) (x : DrsChannel) : (s.setChan b c x).pins = s.pins := rfl
@[simp] theorem State.benches_setChan (s : State) (b c : Nat) (x : DrsChannel) : (s.setChan b c x).benches = s.benches := rfl
@[simp] theorem State.ports_setChan (s : State) (b c : Nat) (x : DrsChannel) : (s.setChan b c x).ports = s.ports := rfl
@[simp] theorem State.can_setChan (s : State) (b c : Nat) (x : DrsChannel) : (s.setChan b c x).can = s.can := rfl
@[simp] theorem State.canTimeValid_setChan (s : State) (b c : Nat) (x : DrsChannel) : (s.setChan b c x).canTimeValid = s.canTimeValid := rfl
@[simp] theorem State.ethTimeValid_setChan (s : State) (b c : Nat) (x : DrsChannel) : (s.setChan b c x).ethTimeValid = s.ethTimeValid := rfl
@[simp] theorem State.hopTimeValid_setChan (s : State) (b c : Nat) (x : DrsChannel) : (s.setChan b c x).hopTimeValid = s.hopTimeValid := rfl
@[simp] theorem State.ringTimeValid_setChan (s : State) (b c : Nat) (x : DrsChannel) : (s.setChan b c x).ringTimeValid = s.ringTimeValid := rfl
@[simp] theorem State.sw_setChan (s : State) (b c : Nat) (x : DrsChannel) : (s.setChan b c x).sw = s.sw := rfl
@[simp] theorem State.grd_setChan (s : State) (b c : Nat) (x : DrsChannel) : (s.setChan b c x).grd = s.grd := rfl
@[simp] theorem State.edge_setChan (s : State) (b c : Nat) (x : DrsChannel) : (s.setChan b c x).edge = s.edge := rfl
@[simp] theorem State.chip_setChan (s : State) (b c : Nat) (x : DrsChannel) : (s.setChan b c x).chip = s.chip := rfl
@[simp] theorem State.upd_setChan (s : State) (b c : Nat) (x : DrsChannel) : (s.setChan b c x).upd = s.upd := rfl
@[simp] theorem State.rd_setChan (s : State) (b c : Nat) (x : DrsChannel) (r : Reg) (jx : List Nat) :
    (s.setChan b c x).rd r jx = s.rd r jx := rfl
@[simp] theorem State.get_setChan (s : State) (b c : Nat) (x : DrsChannel) (fl : Fld) (jx : List Nat) :
    (s.setChan b c x).get fl jx = s.get fl jx := rfl
@[simp] theorem State.is_setChan (s : State) (b c : Nat) (x : DrsChannel) (fl : Fld) (jx : List Nat) :
    (s.setChan b c x).is fl jx = s.is fl jx := rfl

@[simp] theorem State.pending_setGroup (s : State) (b g : Nat) (x : DrsGroup) : (s.setGroup b g x).pending = s.pending := rfl
@[simp] theorem State.out_setGroup (s : State) (b g : Nat) (x : DrsGroup) : (s.setGroup b g x).out = s.out := rfl
@[simp] theorem State.line_setGroup (s : State) (b g : Nat) (x : DrsGroup) : (s.setGroup b g x).line = s.line := rfl
@[simp] theorem State.regs_setGroup (s : State) (b g : Nat) (x : DrsGroup) : (s.setGroup b g x).regs = s.regs := rfl
@[simp] theorem State.free_setGroup (s : State) (b g : Nat) (x : DrsGroup) : (s.setGroup b g x).free = s.free := rfl
@[simp] theorem State.faultPair_setGroup (s : State) (b g : Nat) (x : DrsGroup) : (s.setGroup b g x).faultPair = s.faultPair := rfl
@[simp] theorem State.time_setGroup (s : State) (b g : Nat) (x : DrsGroup) : (s.setGroup b g x).time = s.time := rfl
@[simp] theorem State.shot_setGroup (s : State) (b g : Nat) (x : DrsGroup) : (s.setGroup b g x).shot = s.shot := rfl
@[simp] theorem State.permits_setGroup (s : State) (b g : Nat) (x : DrsGroup) : (s.setGroup b g x).permits = s.permits := rfl
@[simp] theorem State.ring_setGroup (s : State) (b g : Nat) (x : DrsGroup) : (s.setGroup b g x).ring = s.ring := rfl
@[simp] theorem State.twin_setGroup (s : State) (b g : Nat) (x : DrsGroup) : (s.setGroup b g x).twin = s.twin := rfl
@[simp] theorem State.hop_setGroup (s : State) (b g : Nat) (x : DrsGroup) : (s.setGroup b g x).hop = s.hop := rfl
@[simp] theorem State.brg_setGroup (s : State) (b g : Nat) (x : DrsGroup) : (s.setGroup b g x).brg = s.brg := rfl
@[simp] theorem State.setts_setGroup (s : State) (b g : Nat) (x : DrsGroup) : (s.setGroup b g x).setts = s.setts := rfl
@[simp] theorem State.pins_setGroup (s : State) (b g : Nat) (x : DrsGroup) : (s.setGroup b g x).pins = s.pins := rfl
@[simp] theorem State.benches_setGroup (s : State) (b g : Nat) (x : DrsGroup) : (s.setGroup b g x).benches = s.benches := rfl
@[simp] theorem State.ports_setGroup (s : State) (b g : Nat) (x : DrsGroup) : (s.setGroup b g x).ports = s.ports := rfl
@[simp] theorem State.can_setGroup (s : State) (b g : Nat) (x : DrsGroup) : (s.setGroup b g x).can = s.can := rfl
@[simp] theorem State.canTimeValid_setGroup (s : State) (b g : Nat) (x : DrsGroup) : (s.setGroup b g x).canTimeValid = s.canTimeValid := rfl
@[simp] theorem State.ethTimeValid_setGroup (s : State) (b g : Nat) (x : DrsGroup) : (s.setGroup b g x).ethTimeValid = s.ethTimeValid := rfl
@[simp] theorem State.hopTimeValid_setGroup (s : State) (b g : Nat) (x : DrsGroup) : (s.setGroup b g x).hopTimeValid = s.hopTimeValid := rfl
@[simp] theorem State.ringTimeValid_setGroup (s : State) (b g : Nat) (x : DrsGroup) : (s.setGroup b g x).ringTimeValid = s.ringTimeValid := rfl
@[simp] theorem State.sw_setGroup (s : State) (b g : Nat) (x : DrsGroup) : (s.setGroup b g x).sw = s.sw := rfl
@[simp] theorem State.grd_setGroup (s : State) (b g : Nat) (x : DrsGroup) : (s.setGroup b g x).grd = s.grd := rfl
@[simp] theorem State.edge_setGroup (s : State) (b g : Nat) (x : DrsGroup) : (s.setGroup b g x).edge = s.edge := rfl
@[simp] theorem State.chip_setGroup (s : State) (b g : Nat) (x : DrsGroup) : (s.setGroup b g x).chip = s.chip := rfl
@[simp] theorem State.upd_setGroup (s : State) (b g : Nat) (x : DrsGroup) : (s.setGroup b g x).upd = s.upd := rfl
@[simp] theorem State.rd_setGroup (s : State) (b g : Nat) (x : DrsGroup) (r : Reg) (jx : List Nat) :
    (s.setGroup b g x).rd r jx = s.rd r jx := rfl
@[simp] theorem State.get_setGroup (s : State) (b g : Nat) (x : DrsGroup) (fl : Fld) (jx : List Nat) :
    (s.setGroup b g x).get fl jx = s.get fl jx := rfl
@[simp] theorem State.is_setGroup (s : State) (b g : Nat) (x : DrsGroup) (fl : Fld) (jx : List Nat) :
    (s.setGroup b g x).is fl jx = s.is fl jx := rfl

@[simp] theorem State.pending_setQueue (s : State) (q : Nat) (x : Queue) : (s.setQueue q x).pending = s.pending := rfl
@[simp] theorem State.out_setQueue (s : State) (q : Nat) (x : Queue) : (s.setQueue q x).out = s.out := rfl
@[simp] theorem State.line_setQueue (s : State) (q : Nat) (x : Queue) : (s.setQueue q x).line = s.line := rfl
@[simp] theorem State.regs_setQueue (s : State) (q : Nat) (x : Queue) : (s.setQueue q x).regs = s.regs := rfl
@[simp] theorem State.free_setQueue (s : State) (q : Nat) (x : Queue) : (s.setQueue q x).free = s.free := rfl
@[simp] theorem State.faultPair_setQueue (s : State) (q : Nat) (x : Queue) : (s.setQueue q x).faultPair = s.faultPair := rfl
@[simp] theorem State.time_setQueue (s : State) (q : Nat) (x : Queue) : (s.setQueue q x).time = s.time := rfl
@[simp] theorem State.shot_setQueue (s : State) (q : Nat) (x : Queue) : (s.setQueue q x).shot = s.shot := rfl
@[simp] theorem State.permits_setQueue (s : State) (q : Nat) (x : Queue) : (s.setQueue q x).permits = s.permits := rfl
@[simp] theorem State.ring_setQueue (s : State) (q : Nat) (x : Queue) : (s.setQueue q x).ring = s.ring := rfl
@[simp] theorem State.twin_setQueue (s : State) (q : Nat) (x : Queue) : (s.setQueue q x).twin = s.twin := rfl
@[simp] theorem State.brg_setQueue (s : State) (q : Nat) (x : Queue) : (s.setQueue q x).brg = s.brg := rfl
@[simp] theorem State.setts_setQueue (s : State) (q : Nat) (x : Queue) : (s.setQueue q x).setts = s.setts := rfl
@[simp] theorem State.pins_setQueue (s : State) (q : Nat) (x : Queue) : (s.setQueue q x).pins = s.pins := rfl
@[simp] theorem State.benches_setQueue (s : State) (q : Nat) (x : Queue) : (s.setQueue q x).benches = s.benches := rfl
@[simp] theorem State.drs_setQueue (s : State) (q : Nat) (x : Queue) : (s.setQueue q x).drs = s.drs := rfl
@[simp] theorem State.ports_setQueue (s : State) (q : Nat) (x : Queue) : (s.setQueue q x).ports = s.ports := rfl
@[simp] theorem State.can_setQueue (s : State) (q : Nat) (x : Queue) : (s.setQueue q x).can = s.can := rfl
@[simp] theorem State.canTimeValid_setQueue (s : State) (q : Nat) (x : Queue) : (s.setQueue q x).canTimeValid = s.canTimeValid := rfl
@[simp] theorem State.ethTimeValid_setQueue (s : State) (q : Nat) (x : Queue) : (s.setQueue q x).ethTimeValid = s.ethTimeValid := rfl
@[simp] theorem State.hopTimeValid_setQueue (s : State) (q : Nat) (x : Queue) : (s.setQueue q x).hopTimeValid = s.hopTimeValid := rfl
@[simp] theorem State.ringTimeValid_setQueue (s : State) (q : Nat) (x : Queue) : (s.setQueue q x).ringTimeValid = s.ringTimeValid := rfl
@[simp] theorem State.sw_setQueue (s : State) (q : Nat) (x : Queue) : (s.setQueue q x).sw = s.sw := rfl
@[simp] theorem State.grd_setQueue (s : State) (q : Nat) (x : Queue) : (s.setQueue q x).grd = s.grd := rfl
@[simp] theorem State.edge_setQueue (s : State) (q : Nat) (x : Queue) : (s.setQueue q x).edge = s.edge := rfl
@[simp] theorem State.chip_setQueue (s : State) (q : Nat) (x : Queue) : (s.setQueue q x).chip = s.chip := rfl
@[simp] theorem State.upd_setQueue (s : State) (q : Nat) (x : Queue) : (s.setQueue q x).upd = s.upd := rfl
@[simp] theorem State.rd_setQueue (s : State) (q : Nat) (x : Queue) (r : Reg) (jx : List Nat) :
    (s.setQueue q x).rd r jx = s.rd r jx := rfl
@[simp] theorem State.get_setQueue (s : State) (q : Nat) (x : Queue) (fl : Fld) (jx : List Nat) :
    (s.setQueue q x).get fl jx = s.get fl jx := rfl
@[simp] theorem State.is_setQueue (s : State) (q : Nat) (x : Queue) (fl : Fld) (jx : List Nat) :
    (s.setQueue q x).is fl jx = s.is fl jx := rfl

@[simp] theorem State.pending_setTag (s : State) (t : Nat) (x : BridgeTag) : (s.setTag t x).pending = s.pending := rfl
@[simp] theorem State.out_setTag (s : State) (t : Nat) (x : BridgeTag) : (s.setTag t x).out = s.out := rfl
@[simp] theorem State.line_setTag (s : State) (t : Nat) (x : BridgeTag) : (s.setTag t x).line = s.line := rfl
@[simp] theorem State.regs_setTag (s : State) (t : Nat) (x : BridgeTag) : (s.setTag t x).regs = s.regs := rfl
@[simp] theorem State.free_setTag (s : State) (t : Nat) (x : BridgeTag) : (s.setTag t x).free = s.free := rfl
@[simp] theorem State.faultPair_setTag (s : State) (t : Nat) (x : BridgeTag) : (s.setTag t x).faultPair = s.faultPair := rfl
@[simp] theorem State.time_setTag (s : State) (t : Nat) (x : BridgeTag) : (s.setTag t x).time = s.time := rfl
@[simp] theorem State.shot_setTag (s : State) (t : Nat) (x : BridgeTag) : (s.setTag t x).shot = s.shot := rfl
@[simp] theorem State.permits_setTag (s : State) (t : Nat) (x : BridgeTag) : (s.setTag t x).permits = s.permits := rfl
@[simp] theorem State.ring_setTag (s : State) (t : Nat) (x : BridgeTag) : (s.setTag t x).ring = s.ring := rfl
@[simp] theorem State.twin_setTag (s : State) (t : Nat) (x : BridgeTag) : (s.setTag t x).twin = s.twin := rfl
@[simp] theorem State.hop_setTag (s : State) (t : Nat) (x : BridgeTag) : (s.setTag t x).hop = s.hop := rfl
@[simp] theorem State.setts_setTag (s : State) (t : Nat) (x : BridgeTag) : (s.setTag t x).setts = s.setts := rfl
@[simp] theorem State.pins_setTag (s : State) (t : Nat) (x : BridgeTag) : (s.setTag t x).pins = s.pins := rfl
@[simp] theorem State.benches_setTag (s : State) (t : Nat) (x : BridgeTag) : (s.setTag t x).benches = s.benches := rfl
@[simp] theorem State.drs_setTag (s : State) (t : Nat) (x : BridgeTag) : (s.setTag t x).drs = s.drs := rfl
@[simp] theorem State.ports_setTag (s : State) (t : Nat) (x : BridgeTag) : (s.setTag t x).ports = s.ports := rfl
@[simp] theorem State.can_setTag (s : State) (t : Nat) (x : BridgeTag) : (s.setTag t x).can = s.can := rfl
@[simp] theorem State.canTimeValid_setTag (s : State) (t : Nat) (x : BridgeTag) : (s.setTag t x).canTimeValid = s.canTimeValid := rfl
@[simp] theorem State.ethTimeValid_setTag (s : State) (t : Nat) (x : BridgeTag) : (s.setTag t x).ethTimeValid = s.ethTimeValid := rfl
@[simp] theorem State.hopTimeValid_setTag (s : State) (t : Nat) (x : BridgeTag) : (s.setTag t x).hopTimeValid = s.hopTimeValid := rfl
@[simp] theorem State.ringTimeValid_setTag (s : State) (t : Nat) (x : BridgeTag) : (s.setTag t x).ringTimeValid = s.ringTimeValid := rfl
@[simp] theorem State.sw_setTag (s : State) (t : Nat) (x : BridgeTag) : (s.setTag t x).sw = s.sw := rfl
@[simp] theorem State.grd_setTag (s : State) (t : Nat) (x : BridgeTag) : (s.setTag t x).grd = s.grd := rfl
@[simp] theorem State.edge_setTag (s : State) (t : Nat) (x : BridgeTag) : (s.setTag t x).edge = s.edge := rfl
@[simp] theorem State.chip_setTag (s : State) (t : Nat) (x : BridgeTag) : (s.setTag t x).chip = s.chip := rfl
@[simp] theorem State.upd_setTag (s : State) (t : Nat) (x : BridgeTag) : (s.setTag t x).upd = s.upd := rfl
@[simp] theorem State.rd_setTag (s : State) (t : Nat) (x : BridgeTag) (r : Reg) (jx : List Nat) :
    (s.setTag t x).rd r jx = s.rd r jx := rfl
@[simp] theorem State.get_setTag (s : State) (t : Nat) (x : BridgeTag) (fl : Fld) (jx : List Nat) :
    (s.setTag t x).get fl jx = s.get fl jx := rfl
@[simp] theorem State.is_setTag (s : State) (t : Nat) (x : BridgeTag) (fl : Fld) (jx : List Nat) :
    (s.setTag t x).is fl jx = s.is fl jx := rfl

@[simp] theorem State.pending_setCan (s : State) (n : Nat) (x : CanChannel) : (s.setCan n x).pending = s.pending := rfl
@[simp] theorem State.out_setCan (s : State) (n : Nat) (x : CanChannel) : (s.setCan n x).out = s.out := rfl
@[simp] theorem State.line_setCan (s : State) (n : Nat) (x : CanChannel) : (s.setCan n x).line = s.line := rfl
@[simp] theorem State.regs_setCan (s : State) (n : Nat) (x : CanChannel) : (s.setCan n x).regs = s.regs := rfl
@[simp] theorem State.free_setCan (s : State) (n : Nat) (x : CanChannel) : (s.setCan n x).free = s.free := rfl
@[simp] theorem State.faultPair_setCan (s : State) (n : Nat) (x : CanChannel) : (s.setCan n x).faultPair = s.faultPair := rfl
@[simp] theorem State.time_setCan (s : State) (n : Nat) (x : CanChannel) : (s.setCan n x).time = s.time := rfl
@[simp] theorem State.shot_setCan (s : State) (n : Nat) (x : CanChannel) : (s.setCan n x).shot = s.shot := rfl
@[simp] theorem State.permits_setCan (s : State) (n : Nat) (x : CanChannel) : (s.setCan n x).permits = s.permits := rfl
@[simp] theorem State.ring_setCan (s : State) (n : Nat) (x : CanChannel) : (s.setCan n x).ring = s.ring := rfl
@[simp] theorem State.twin_setCan (s : State) (n : Nat) (x : CanChannel) : (s.setCan n x).twin = s.twin := rfl
@[simp] theorem State.hop_setCan (s : State) (n : Nat) (x : CanChannel) : (s.setCan n x).hop = s.hop := rfl
@[simp] theorem State.brg_setCan (s : State) (n : Nat) (x : CanChannel) : (s.setCan n x).brg = s.brg := rfl
@[simp] theorem State.setts_setCan (s : State) (n : Nat) (x : CanChannel) : (s.setCan n x).setts = s.setts := rfl
@[simp] theorem State.pins_setCan (s : State) (n : Nat) (x : CanChannel) : (s.setCan n x).pins = s.pins := rfl
@[simp] theorem State.benches_setCan (s : State) (n : Nat) (x : CanChannel) : (s.setCan n x).benches = s.benches := rfl
@[simp] theorem State.drs_setCan (s : State) (n : Nat) (x : CanChannel) : (s.setCan n x).drs = s.drs := rfl
@[simp] theorem State.ports_setCan (s : State) (n : Nat) (x : CanChannel) : (s.setCan n x).ports = s.ports := rfl
@[simp] theorem State.canTimeValid_setCan (s : State) (n : Nat) (x : CanChannel) : (s.setCan n x).canTimeValid = s.canTimeValid := rfl
@[simp] theorem State.ethTimeValid_setCan (s : State) (n : Nat) (x : CanChannel) : (s.setCan n x).ethTimeValid = s.ethTimeValid := rfl
@[simp] theorem State.hopTimeValid_setCan (s : State) (n : Nat) (x : CanChannel) : (s.setCan n x).hopTimeValid = s.hopTimeValid := rfl
@[simp] theorem State.ringTimeValid_setCan (s : State) (n : Nat) (x : CanChannel) : (s.setCan n x).ringTimeValid = s.ringTimeValid := rfl
@[simp] theorem State.sw_setCan (s : State) (n : Nat) (x : CanChannel) : (s.setCan n x).sw = s.sw := rfl
@[simp] theorem State.grd_setCan (s : State) (n : Nat) (x : CanChannel) : (s.setCan n x).grd = s.grd := rfl
@[simp] theorem State.edge_setCan (s : State) (n : Nat) (x : CanChannel) : (s.setCan n x).edge = s.edge := rfl
@[simp] theorem State.chip_setCan (s : State) (n : Nat) (x : CanChannel) : (s.setCan n x).chip = s.chip := rfl
@[simp] theorem State.upd_setCan (s : State) (n : Nat) (x : CanChannel) : (s.setCan n x).upd = s.upd := rfl
@[simp] theorem State.rd_setCan (s : State) (n : Nat) (x : CanChannel) (r : Reg) (jx : List Nat) :
    (s.setCan n x).rd r jx = s.rd r jx := rfl
@[simp] theorem State.get_setCan (s : State) (n : Nat) (x : CanChannel) (fl : Fld) (jx : List Nat) :
    (s.setCan n x).get fl jx = s.get fl jx := rfl
@[simp] theorem State.is_setCan (s : State) (n : Nat) (x : CanChannel) (fl : Fld) (jx : List Nat) :
    (s.setCan n x).is fl jx = s.is fl jx := rfl

@[simp] theorem State.pending_setSwQueue (s : State) (q c : Nat) (x : List EthFrame) : (s.setSwQueue q c x).pending = s.pending := rfl
@[simp] theorem State.out_setSwQueue (s : State) (q c : Nat) (x : List EthFrame) : (s.setSwQueue q c x).out = s.out := rfl
@[simp] theorem State.line_setSwQueue (s : State) (q c : Nat) (x : List EthFrame) : (s.setSwQueue q c x).line = s.line := rfl
@[simp] theorem State.regs_setSwQueue (s : State) (q c : Nat) (x : List EthFrame) : (s.setSwQueue q c x).regs = s.regs := rfl
@[simp] theorem State.free_setSwQueue (s : State) (q c : Nat) (x : List EthFrame) : (s.setSwQueue q c x).free = s.free := rfl
@[simp] theorem State.faultPair_setSwQueue (s : State) (q c : Nat) (x : List EthFrame) : (s.setSwQueue q c x).faultPair = s.faultPair := rfl
@[simp] theorem State.time_setSwQueue (s : State) (q c : Nat) (x : List EthFrame) : (s.setSwQueue q c x).time = s.time := rfl
@[simp] theorem State.shot_setSwQueue (s : State) (q c : Nat) (x : List EthFrame) : (s.setSwQueue q c x).shot = s.shot := rfl
@[simp] theorem State.permits_setSwQueue (s : State) (q c : Nat) (x : List EthFrame) : (s.setSwQueue q c x).permits = s.permits := rfl
@[simp] theorem State.ring_setSwQueue (s : State) (q c : Nat) (x : List EthFrame) : (s.setSwQueue q c x).ring = s.ring := rfl
@[simp] theorem State.twin_setSwQueue (s : State) (q c : Nat) (x : List EthFrame) : (s.setSwQueue q c x).twin = s.twin := rfl
@[simp] theorem State.hop_setSwQueue (s : State) (q c : Nat) (x : List EthFrame) : (s.setSwQueue q c x).hop = s.hop := rfl
@[simp] theorem State.brg_setSwQueue (s : State) (q c : Nat) (x : List EthFrame) : (s.setSwQueue q c x).brg = s.brg := rfl
@[simp] theorem State.setts_setSwQueue (s : State) (q c : Nat) (x : List EthFrame) : (s.setSwQueue q c x).setts = s.setts := rfl
@[simp] theorem State.pins_setSwQueue (s : State) (q c : Nat) (x : List EthFrame) : (s.setSwQueue q c x).pins = s.pins := rfl
@[simp] theorem State.benches_setSwQueue (s : State) (q c : Nat) (x : List EthFrame) : (s.setSwQueue q c x).benches = s.benches := rfl
@[simp] theorem State.drs_setSwQueue (s : State) (q c : Nat) (x : List EthFrame) : (s.setSwQueue q c x).drs = s.drs := rfl
@[simp] theorem State.ports_setSwQueue (s : State) (q c : Nat) (x : List EthFrame) : (s.setSwQueue q c x).ports = s.ports := rfl
@[simp] theorem State.can_setSwQueue (s : State) (q c : Nat) (x : List EthFrame) : (s.setSwQueue q c x).can = s.can := rfl
@[simp] theorem State.canTimeValid_setSwQueue (s : State) (q c : Nat) (x : List EthFrame) : (s.setSwQueue q c x).canTimeValid = s.canTimeValid := rfl
@[simp] theorem State.ethTimeValid_setSwQueue (s : State) (q c : Nat) (x : List EthFrame) : (s.setSwQueue q c x).ethTimeValid = s.ethTimeValid := rfl
@[simp] theorem State.hopTimeValid_setSwQueue (s : State) (q c : Nat) (x : List EthFrame) : (s.setSwQueue q c x).hopTimeValid = s.hopTimeValid := rfl
@[simp] theorem State.ringTimeValid_setSwQueue (s : State) (q c : Nat) (x : List EthFrame) : (s.setSwQueue q c x).ringTimeValid = s.ringTimeValid := rfl
@[simp] theorem State.grd_setSwQueue (s : State) (q c : Nat) (x : List EthFrame) : (s.setSwQueue q c x).grd = s.grd := rfl
@[simp] theorem State.edge_setSwQueue (s : State) (q c : Nat) (x : List EthFrame) : (s.setSwQueue q c x).edge = s.edge := rfl
@[simp] theorem State.chip_setSwQueue (s : State) (q c : Nat) (x : List EthFrame) : (s.setSwQueue q c x).chip = s.chip := rfl
@[simp] theorem State.upd_setSwQueue (s : State) (q c : Nat) (x : List EthFrame) : (s.setSwQueue q c x).upd = s.upd := rfl
@[simp] theorem State.rd_setSwQueue (s : State) (q c : Nat) (x : List EthFrame) (r : Reg) (jx : List Nat) :
    (s.setSwQueue q c x).rd r jx = s.rd r jx := rfl
@[simp] theorem State.get_setSwQueue (s : State) (q c : Nat) (x : List EthFrame) (fl : Fld) (jx : List Nat) :
    (s.setSwQueue q c x).get fl jx = s.get fl jx := rfl
@[simp] theorem State.is_setSwQueue (s : State) (q c : Nat) (x : List EthFrame) (fl : Fld) (jx : List Nat) :
    (s.setSwQueue q c x).is fl jx = s.is fl jx := rfl

@[simp] theorem State.pending_setRingContext (s : State) (h c : Nat) (x : Option RingFrame) : (s.setRingContext h c x).pending = s.pending := rfl
@[simp] theorem State.out_setRingContext (s : State) (h c : Nat) (x : Option RingFrame) : (s.setRingContext h c x).out = s.out := rfl
@[simp] theorem State.line_setRingContext (s : State) (h c : Nat) (x : Option RingFrame) : (s.setRingContext h c x).line = s.line := rfl
@[simp] theorem State.regs_setRingContext (s : State) (h c : Nat) (x : Option RingFrame) : (s.setRingContext h c x).regs = s.regs := rfl
@[simp] theorem State.free_setRingContext (s : State) (h c : Nat) (x : Option RingFrame) : (s.setRingContext h c x).free = s.free := rfl
@[simp] theorem State.faultPair_setRingContext (s : State) (h c : Nat) (x : Option RingFrame) : (s.setRingContext h c x).faultPair = s.faultPair := rfl
@[simp] theorem State.time_setRingContext (s : State) (h c : Nat) (x : Option RingFrame) : (s.setRingContext h c x).time = s.time := rfl
@[simp] theorem State.shot_setRingContext (s : State) (h c : Nat) (x : Option RingFrame) : (s.setRingContext h c x).shot = s.shot := rfl
@[simp] theorem State.permits_setRingContext (s : State) (h c : Nat) (x : Option RingFrame) : (s.setRingContext h c x).permits = s.permits := rfl
@[simp] theorem State.ring_setRingContext (s : State) (h c : Nat) (x : Option RingFrame) : (s.setRingContext h c x).ring = s.ring := rfl
@[simp] theorem State.twin_setRingContext (s : State) (h c : Nat) (x : Option RingFrame) : (s.setRingContext h c x).twin = s.twin := rfl
@[simp] theorem State.hop_setRingContext (s : State) (h c : Nat) (x : Option RingFrame) : (s.setRingContext h c x).hop = s.hop := rfl
@[simp] theorem State.brg_setRingContext (s : State) (h c : Nat) (x : Option RingFrame) : (s.setRingContext h c x).brg = s.brg := rfl
@[simp] theorem State.setts_setRingContext (s : State) (h c : Nat) (x : Option RingFrame) : (s.setRingContext h c x).setts = s.setts := rfl
@[simp] theorem State.pins_setRingContext (s : State) (h c : Nat) (x : Option RingFrame) : (s.setRingContext h c x).pins = s.pins := rfl
@[simp] theorem State.benches_setRingContext (s : State) (h c : Nat) (x : Option RingFrame) : (s.setRingContext h c x).benches = s.benches := rfl
@[simp] theorem State.drs_setRingContext (s : State) (h c : Nat) (x : Option RingFrame) : (s.setRingContext h c x).drs = s.drs := rfl
@[simp] theorem State.ports_setRingContext (s : State) (h c : Nat) (x : Option RingFrame) : (s.setRingContext h c x).ports = s.ports := rfl
@[simp] theorem State.can_setRingContext (s : State) (h c : Nat) (x : Option RingFrame) : (s.setRingContext h c x).can = s.can := rfl
@[simp] theorem State.canTimeValid_setRingContext (s : State) (h c : Nat) (x : Option RingFrame) : (s.setRingContext h c x).canTimeValid = s.canTimeValid := rfl
@[simp] theorem State.ethTimeValid_setRingContext (s : State) (h c : Nat) (x : Option RingFrame) : (s.setRingContext h c x).ethTimeValid = s.ethTimeValid := rfl
@[simp] theorem State.hopTimeValid_setRingContext (s : State) (h c : Nat) (x : Option RingFrame) : (s.setRingContext h c x).hopTimeValid = s.hopTimeValid := rfl
@[simp] theorem State.ringTimeValid_setRingContext (s : State) (h c : Nat) (x : Option RingFrame) : (s.setRingContext h c x).ringTimeValid = s.ringTimeValid := rfl
@[simp] theorem State.grd_setRingContext (s : State) (h c : Nat) (x : Option RingFrame) : (s.setRingContext h c x).grd = s.grd := rfl
@[simp] theorem State.edge_setRingContext (s : State) (h c : Nat) (x : Option RingFrame) : (s.setRingContext h c x).edge = s.edge := rfl
@[simp] theorem State.chip_setRingContext (s : State) (h c : Nat) (x : Option RingFrame) : (s.setRingContext h c x).chip = s.chip := rfl
@[simp] theorem State.upd_setRingContext (s : State) (h c : Nat) (x : Option RingFrame) : (s.setRingContext h c x).upd = s.upd := rfl
@[simp] theorem State.rd_setRingContext (s : State) (h c : Nat) (x : Option RingFrame) (r : Reg) (jx : List Nat) :
    (s.setRingContext h c x).rd r jx = s.rd r jx := rfl
@[simp] theorem State.get_setRingContext (s : State) (h c : Nat) (x : Option RingFrame) (fl : Fld) (jx : List Nat) :
    (s.setRingContext h c x).get fl jx = s.get fl jx := rfl
@[simp] theorem State.is_setRingContext (s : State) (h c : Nat) (x : Option RingFrame) (fl : Fld) (jx : List Nat) :
    (s.setRingContext h c x).is fl jx = s.is fl jx := rfl

@[simp] theorem State.pending_setTrack (s : State) (k m : Nat) (x : TwinMember) : (s.setTrack k m x).pending = s.pending := rfl
@[simp] theorem State.out_setTrack (s : State) (k m : Nat) (x : TwinMember) : (s.setTrack k m x).out = s.out := rfl
@[simp] theorem State.line_setTrack (s : State) (k m : Nat) (x : TwinMember) : (s.setTrack k m x).line = s.line := rfl
@[simp] theorem State.regs_setTrack (s : State) (k m : Nat) (x : TwinMember) : (s.setTrack k m x).regs = s.regs := rfl
@[simp] theorem State.free_setTrack (s : State) (k m : Nat) (x : TwinMember) : (s.setTrack k m x).free = s.free := rfl
@[simp] theorem State.faultPair_setTrack (s : State) (k m : Nat) (x : TwinMember) : (s.setTrack k m x).faultPair = s.faultPair := rfl
@[simp] theorem State.time_setTrack (s : State) (k m : Nat) (x : TwinMember) : (s.setTrack k m x).time = s.time := rfl
@[simp] theorem State.shot_setTrack (s : State) (k m : Nat) (x : TwinMember) : (s.setTrack k m x).shot = s.shot := rfl
@[simp] theorem State.permits_setTrack (s : State) (k m : Nat) (x : TwinMember) : (s.setTrack k m x).permits = s.permits := rfl
@[simp] theorem State.ring_setTrack (s : State) (k m : Nat) (x : TwinMember) : (s.setTrack k m x).ring = s.ring := rfl
@[simp] theorem State.hop_setTrack (s : State) (k m : Nat) (x : TwinMember) : (s.setTrack k m x).hop = s.hop := rfl
@[simp] theorem State.brg_setTrack (s : State) (k m : Nat) (x : TwinMember) : (s.setTrack k m x).brg = s.brg := rfl
@[simp] theorem State.setts_setTrack (s : State) (k m : Nat) (x : TwinMember) : (s.setTrack k m x).setts = s.setts := rfl
@[simp] theorem State.pins_setTrack (s : State) (k m : Nat) (x : TwinMember) : (s.setTrack k m x).pins = s.pins := rfl
@[simp] theorem State.benches_setTrack (s : State) (k m : Nat) (x : TwinMember) : (s.setTrack k m x).benches = s.benches := rfl
@[simp] theorem State.drs_setTrack (s : State) (k m : Nat) (x : TwinMember) : (s.setTrack k m x).drs = s.drs := rfl
@[simp] theorem State.ports_setTrack (s : State) (k m : Nat) (x : TwinMember) : (s.setTrack k m x).ports = s.ports := rfl
@[simp] theorem State.can_setTrack (s : State) (k m : Nat) (x : TwinMember) : (s.setTrack k m x).can = s.can := rfl
@[simp] theorem State.canTimeValid_setTrack (s : State) (k m : Nat) (x : TwinMember) : (s.setTrack k m x).canTimeValid = s.canTimeValid := rfl
@[simp] theorem State.ethTimeValid_setTrack (s : State) (k m : Nat) (x : TwinMember) : (s.setTrack k m x).ethTimeValid = s.ethTimeValid := rfl
@[simp] theorem State.hopTimeValid_setTrack (s : State) (k m : Nat) (x : TwinMember) : (s.setTrack k m x).hopTimeValid = s.hopTimeValid := rfl
@[simp] theorem State.ringTimeValid_setTrack (s : State) (k m : Nat) (x : TwinMember) : (s.setTrack k m x).ringTimeValid = s.ringTimeValid := rfl
@[simp] theorem State.sw_setTrack (s : State) (k m : Nat) (x : TwinMember) : (s.setTrack k m x).sw = s.sw := rfl
@[simp] theorem State.grd_setTrack (s : State) (k m : Nat) (x : TwinMember) : (s.setTrack k m x).grd = s.grd := rfl
@[simp] theorem State.edge_setTrack (s : State) (k m : Nat) (x : TwinMember) : (s.setTrack k m x).edge = s.edge := rfl
@[simp] theorem State.chip_setTrack (s : State) (k m : Nat) (x : TwinMember) : (s.setTrack k m x).chip = s.chip := rfl
@[simp] theorem State.upd_setTrack (s : State) (k m : Nat) (x : TwinMember) : (s.setTrack k m x).upd = s.upd := rfl
@[simp] theorem State.rd_setTrack (s : State) (k m : Nat) (x : TwinMember) (r : Reg) (jx : List Nat) :
    (s.setTrack k m x).rd r jx = s.rd r jx := rfl
@[simp] theorem State.get_setTrack (s : State) (k m : Nat) (x : TwinMember) (fl : Fld) (jx : List Nat) :
    (s.setTrack k m x).get fl jx = s.get fl jx := rfl
@[simp] theorem State.is_setTrack (s : State) (k m : Nat) (x : TwinMember) (fl : Fld) (jx : List Nat) :
    (s.setTrack k m x).is fl jx = s.is fl jx := rfl

@[simp] theorem State.pending_setKeySlot (s : State) (k : Nat) (x : KeySlot) : (s.setKeySlot k x).pending = s.pending := rfl
@[simp] theorem State.out_setKeySlot (s : State) (k : Nat) (x : KeySlot) : (s.setKeySlot k x).out = s.out := rfl
@[simp] theorem State.line_setKeySlot (s : State) (k : Nat) (x : KeySlot) : (s.setKeySlot k x).line = s.line := rfl
@[simp] theorem State.regs_setKeySlot (s : State) (k : Nat) (x : KeySlot) : (s.setKeySlot k x).regs = s.regs := rfl
@[simp] theorem State.free_setKeySlot (s : State) (k : Nat) (x : KeySlot) : (s.setKeySlot k x).free = s.free := rfl
@[simp] theorem State.faultPair_setKeySlot (s : State) (k : Nat) (x : KeySlot) : (s.setKeySlot k x).faultPair = s.faultPair := rfl
@[simp] theorem State.time_setKeySlot (s : State) (k : Nat) (x : KeySlot) : (s.setKeySlot k x).time = s.time := rfl
@[simp] theorem State.shot_setKeySlot (s : State) (k : Nat) (x : KeySlot) : (s.setKeySlot k x).shot = s.shot := rfl
@[simp] theorem State.permits_setKeySlot (s : State) (k : Nat) (x : KeySlot) : (s.setKeySlot k x).permits = s.permits := rfl
@[simp] theorem State.ring_setKeySlot (s : State) (k : Nat) (x : KeySlot) : (s.setKeySlot k x).ring = s.ring := rfl
@[simp] theorem State.twin_setKeySlot (s : State) (k : Nat) (x : KeySlot) : (s.setKeySlot k x).twin = s.twin := rfl
@[simp] theorem State.hop_setKeySlot (s : State) (k : Nat) (x : KeySlot) : (s.setKeySlot k x).hop = s.hop := rfl
@[simp] theorem State.brg_setKeySlot (s : State) (k : Nat) (x : KeySlot) : (s.setKeySlot k x).brg = s.brg := rfl
@[simp] theorem State.setts_setKeySlot (s : State) (k : Nat) (x : KeySlot) : (s.setKeySlot k x).setts = s.setts := rfl
@[simp] theorem State.pins_setKeySlot (s : State) (k : Nat) (x : KeySlot) : (s.setKeySlot k x).pins = s.pins := rfl
@[simp] theorem State.benches_setKeySlot (s : State) (k : Nat) (x : KeySlot) : (s.setKeySlot k x).benches = s.benches := rfl
@[simp] theorem State.drs_setKeySlot (s : State) (k : Nat) (x : KeySlot) : (s.setKeySlot k x).drs = s.drs := rfl
@[simp] theorem State.ports_setKeySlot (s : State) (k : Nat) (x : KeySlot) : (s.setKeySlot k x).ports = s.ports := rfl
@[simp] theorem State.can_setKeySlot (s : State) (k : Nat) (x : KeySlot) : (s.setKeySlot k x).can = s.can := rfl
@[simp] theorem State.canTimeValid_setKeySlot (s : State) (k : Nat) (x : KeySlot) : (s.setKeySlot k x).canTimeValid = s.canTimeValid := rfl
@[simp] theorem State.ethTimeValid_setKeySlot (s : State) (k : Nat) (x : KeySlot) : (s.setKeySlot k x).ethTimeValid = s.ethTimeValid := rfl
@[simp] theorem State.hopTimeValid_setKeySlot (s : State) (k : Nat) (x : KeySlot) : (s.setKeySlot k x).hopTimeValid = s.hopTimeValid := rfl
@[simp] theorem State.ringTimeValid_setKeySlot (s : State) (k : Nat) (x : KeySlot) : (s.setKeySlot k x).ringTimeValid = s.ringTimeValid := rfl
@[simp] theorem State.sw_setKeySlot (s : State) (k : Nat) (x : KeySlot) : (s.setKeySlot k x).sw = s.sw := rfl
@[simp] theorem State.edge_setKeySlot (s : State) (k : Nat) (x : KeySlot) : (s.setKeySlot k x).edge = s.edge := rfl
@[simp] theorem State.chip_setKeySlot (s : State) (k : Nat) (x : KeySlot) : (s.setKeySlot k x).chip = s.chip := rfl
@[simp] theorem State.upd_setKeySlot (s : State) (k : Nat) (x : KeySlot) : (s.setKeySlot k x).upd = s.upd := rfl
@[simp] theorem State.rd_setKeySlot (s : State) (k : Nat) (x : KeySlot) (r : Reg) (jx : List Nat) :
    (s.setKeySlot k x).rd r jx = s.rd r jx := rfl
@[simp] theorem State.get_setKeySlot (s : State) (k : Nat) (x : KeySlot) (fl : Fld) (jx : List Nat) :
    (s.setKeySlot k x).get fl jx = s.get fl jx := rfl
@[simp] theorem State.is_setKeySlot (s : State) (k : Nat) (x : KeySlot) (fl : Fld) (jx : List Nat) :
    (s.setKeySlot k x).is fl jx = s.is fl jx := rfl

@[simp] theorem State.pending_setGrants (s : State) (g : List Nat) : (s.setGrants g).pending = s.pending := rfl
@[simp] theorem State.out_setGrants (s : State) (g : List Nat) : (s.setGrants g).out = s.out := rfl
@[simp] theorem State.line_setGrants (s : State) (g : List Nat) : (s.setGrants g).line = s.line := rfl
@[simp] theorem State.regs_setGrants (s : State) (g : List Nat) : (s.setGrants g).regs = s.regs := rfl
@[simp] theorem State.free_setGrants (s : State) (g : List Nat) : (s.setGrants g).free = s.free := rfl
@[simp] theorem State.faultPair_setGrants (s : State) (g : List Nat) : (s.setGrants g).faultPair = s.faultPair := rfl
@[simp] theorem State.time_setGrants (s : State) (g : List Nat) : (s.setGrants g).time = s.time := rfl
@[simp] theorem State.shot_setGrants (s : State) (g : List Nat) : (s.setGrants g).shot = s.shot := rfl
@[simp] theorem State.permits_setGrants (s : State) (g : List Nat) : (s.setGrants g).permits = s.permits := rfl
@[simp] theorem State.twin_setGrants (s : State) (g : List Nat) : (s.setGrants g).twin = s.twin := rfl
@[simp] theorem State.hop_setGrants (s : State) (g : List Nat) : (s.setGrants g).hop = s.hop := rfl
@[simp] theorem State.brg_setGrants (s : State) (g : List Nat) : (s.setGrants g).brg = s.brg := rfl
@[simp] theorem State.setts_setGrants (s : State) (g : List Nat) : (s.setGrants g).setts = s.setts := rfl
@[simp] theorem State.pins_setGrants (s : State) (g : List Nat) : (s.setGrants g).pins = s.pins := rfl
@[simp] theorem State.benches_setGrants (s : State) (g : List Nat) : (s.setGrants g).benches = s.benches := rfl
@[simp] theorem State.drs_setGrants (s : State) (g : List Nat) : (s.setGrants g).drs = s.drs := rfl
@[simp] theorem State.ports_setGrants (s : State) (g : List Nat) : (s.setGrants g).ports = s.ports := rfl
@[simp] theorem State.can_setGrants (s : State) (g : List Nat) : (s.setGrants g).can = s.can := rfl
@[simp] theorem State.canTimeValid_setGrants (s : State) (g : List Nat) : (s.setGrants g).canTimeValid = s.canTimeValid := rfl
@[simp] theorem State.ethTimeValid_setGrants (s : State) (g : List Nat) : (s.setGrants g).ethTimeValid = s.ethTimeValid := rfl
@[simp] theorem State.hopTimeValid_setGrants (s : State) (g : List Nat) : (s.setGrants g).hopTimeValid = s.hopTimeValid := rfl
@[simp] theorem State.ringTimeValid_setGrants (s : State) (g : List Nat) : (s.setGrants g).ringTimeValid = s.ringTimeValid := rfl
@[simp] theorem State.sw_setGrants (s : State) (g : List Nat) : (s.setGrants g).sw = s.sw := rfl
@[simp] theorem State.grd_setGrants (s : State) (g : List Nat) : (s.setGrants g).grd = s.grd := rfl
@[simp] theorem State.edge_setGrants (s : State) (g : List Nat) : (s.setGrants g).edge = s.edge := rfl
@[simp] theorem State.chip_setGrants (s : State) (g : List Nat) : (s.setGrants g).chip = s.chip := rfl
@[simp] theorem State.upd_setGrants (s : State) (g : List Nat) : (s.setGrants g).upd = s.upd := rfl
@[simp] theorem State.rd_setGrants (s : State) (g : List Nat) (r : Reg) (jx : List Nat) :
    (s.setGrants g).rd r jx = s.rd r jx := rfl
@[simp] theorem State.get_setGrants (s : State) (g : List Nat) (fl : Fld) (jx : List Nat) :
    (s.setGrants g).get fl jx = s.get fl jx := rfl
@[simp] theorem State.is_setGrants (s : State) (g : List Nat) (fl : Fld) (jx : List Nat) :
    (s.setGrants g).is fl jx = s.is fl jx := rfl

@[simp] theorem State.pending_setAnn (s : State) (h : Nat) (x : Announcement) : (s.setAnn h x).pending = s.pending := rfl
@[simp] theorem State.out_setAnn (s : State) (h : Nat) (x : Announcement) : (s.setAnn h x).out = s.out := rfl
@[simp] theorem State.line_setAnn (s : State) (h : Nat) (x : Announcement) : (s.setAnn h x).line = s.line := rfl
@[simp] theorem State.regs_setAnn (s : State) (h : Nat) (x : Announcement) : (s.setAnn h x).regs = s.regs := rfl
@[simp] theorem State.free_setAnn (s : State) (h : Nat) (x : Announcement) : (s.setAnn h x).free = s.free := rfl
@[simp] theorem State.faultPair_setAnn (s : State) (h : Nat) (x : Announcement) : (s.setAnn h x).faultPair = s.faultPair := rfl
@[simp] theorem State.time_setAnn (s : State) (h : Nat) (x : Announcement) : (s.setAnn h x).time = s.time := rfl
@[simp] theorem State.shot_setAnn (s : State) (h : Nat) (x : Announcement) : (s.setAnn h x).shot = s.shot := rfl
@[simp] theorem State.permits_setAnn (s : State) (h : Nat) (x : Announcement) : (s.setAnn h x).permits = s.permits := rfl
@[simp] theorem State.twin_setAnn (s : State) (h : Nat) (x : Announcement) : (s.setAnn h x).twin = s.twin := rfl
@[simp] theorem State.hop_setAnn (s : State) (h : Nat) (x : Announcement) : (s.setAnn h x).hop = s.hop := rfl
@[simp] theorem State.brg_setAnn (s : State) (h : Nat) (x : Announcement) : (s.setAnn h x).brg = s.brg := rfl
@[simp] theorem State.setts_setAnn (s : State) (h : Nat) (x : Announcement) : (s.setAnn h x).setts = s.setts := rfl
@[simp] theorem State.pins_setAnn (s : State) (h : Nat) (x : Announcement) : (s.setAnn h x).pins = s.pins := rfl
@[simp] theorem State.benches_setAnn (s : State) (h : Nat) (x : Announcement) : (s.setAnn h x).benches = s.benches := rfl
@[simp] theorem State.drs_setAnn (s : State) (h : Nat) (x : Announcement) : (s.setAnn h x).drs = s.drs := rfl
@[simp] theorem State.ports_setAnn (s : State) (h : Nat) (x : Announcement) : (s.setAnn h x).ports = s.ports := rfl
@[simp] theorem State.can_setAnn (s : State) (h : Nat) (x : Announcement) : (s.setAnn h x).can = s.can := rfl
@[simp] theorem State.canTimeValid_setAnn (s : State) (h : Nat) (x : Announcement) : (s.setAnn h x).canTimeValid = s.canTimeValid := rfl
@[simp] theorem State.ethTimeValid_setAnn (s : State) (h : Nat) (x : Announcement) : (s.setAnn h x).ethTimeValid = s.ethTimeValid := rfl
@[simp] theorem State.hopTimeValid_setAnn (s : State) (h : Nat) (x : Announcement) : (s.setAnn h x).hopTimeValid = s.hopTimeValid := rfl
@[simp] theorem State.ringTimeValid_setAnn (s : State) (h : Nat) (x : Announcement) : (s.setAnn h x).ringTimeValid = s.ringTimeValid := rfl
@[simp] theorem State.sw_setAnn (s : State) (h : Nat) (x : Announcement) : (s.setAnn h x).sw = s.sw := rfl
@[simp] theorem State.grd_setAnn (s : State) (h : Nat) (x : Announcement) : (s.setAnn h x).grd = s.grd := rfl
@[simp] theorem State.edge_setAnn (s : State) (h : Nat) (x : Announcement) : (s.setAnn h x).edge = s.edge := rfl
@[simp] theorem State.chip_setAnn (s : State) (h : Nat) (x : Announcement) : (s.setAnn h x).chip = s.chip := rfl
@[simp] theorem State.upd_setAnn (s : State) (h : Nat) (x : Announcement) : (s.setAnn h x).upd = s.upd := rfl
@[simp] theorem State.rd_setAnn (s : State) (h : Nat) (x : Announcement) (r : Reg) (jx : List Nat) :
    (s.setAnn h x).rd r jx = s.rd r jx := rfl
@[simp] theorem State.get_setAnn (s : State) (h : Nat) (x : Announcement) (fl : Fld) (jx : List Nat) :
    (s.setAnn h x).get fl jx = s.get fl jx := rfl
@[simp] theorem State.is_setAnn (s : State) (h : Nat) (x : Announcement) (fl : Fld) (jx : List Nat) :
    (s.setAnn h x).is fl jx = s.is fl jx := rfl

@[simp] theorem State.pending_setRdir (s : State) (d : Side) (x : RingDir) : (s.setRdir d x).pending = s.pending := by cases d <;> rfl
@[simp] theorem State.out_setRdir (s : State) (d : Side) (x : RingDir) : (s.setRdir d x).out = s.out := by cases d <;> rfl
@[simp] theorem State.line_setRdir (s : State) (d : Side) (x : RingDir) : (s.setRdir d x).line = s.line := by cases d <;> rfl
@[simp] theorem State.regs_setRdir (s : State) (d : Side) (x : RingDir) : (s.setRdir d x).regs = s.regs := by cases d <;> rfl
@[simp] theorem State.free_setRdir (s : State) (d : Side) (x : RingDir) : (s.setRdir d x).free = s.free := by cases d <;> rfl
@[simp] theorem State.faultPair_setRdir (s : State) (d : Side) (x : RingDir) : (s.setRdir d x).faultPair = s.faultPair := by cases d <;> rfl
@[simp] theorem State.time_setRdir (s : State) (d : Side) (x : RingDir) : (s.setRdir d x).time = s.time := by cases d <;> rfl
@[simp] theorem State.shot_setRdir (s : State) (d : Side) (x : RingDir) : (s.setRdir d x).shot = s.shot := by cases d <;> rfl
@[simp] theorem State.permits_setRdir (s : State) (d : Side) (x : RingDir) : (s.setRdir d x).permits = s.permits := by cases d <;> rfl
@[simp] theorem State.twin_setRdir (s : State) (d : Side) (x : RingDir) : (s.setRdir d x).twin = s.twin := by cases d <;> rfl
@[simp] theorem State.hop_setRdir (s : State) (d : Side) (x : RingDir) : (s.setRdir d x).hop = s.hop := by cases d <;> rfl
@[simp] theorem State.brg_setRdir (s : State) (d : Side) (x : RingDir) : (s.setRdir d x).brg = s.brg := by cases d <;> rfl
@[simp] theorem State.setts_setRdir (s : State) (d : Side) (x : RingDir) : (s.setRdir d x).setts = s.setts := by cases d <;> rfl
@[simp] theorem State.pins_setRdir (s : State) (d : Side) (x : RingDir) : (s.setRdir d x).pins = s.pins := by cases d <;> rfl
@[simp] theorem State.benches_setRdir (s : State) (d : Side) (x : RingDir) : (s.setRdir d x).benches = s.benches := by cases d <;> rfl
@[simp] theorem State.drs_setRdir (s : State) (d : Side) (x : RingDir) : (s.setRdir d x).drs = s.drs := by cases d <;> rfl
@[simp] theorem State.ports_setRdir (s : State) (d : Side) (x : RingDir) : (s.setRdir d x).ports = s.ports := by cases d <;> rfl
@[simp] theorem State.can_setRdir (s : State) (d : Side) (x : RingDir) : (s.setRdir d x).can = s.can := by cases d <;> rfl
@[simp] theorem State.canTimeValid_setRdir (s : State) (d : Side) (x : RingDir) : (s.setRdir d x).canTimeValid = s.canTimeValid := by cases d <;> rfl
@[simp] theorem State.ethTimeValid_setRdir (s : State) (d : Side) (x : RingDir) : (s.setRdir d x).ethTimeValid = s.ethTimeValid := by cases d <;> rfl
@[simp] theorem State.hopTimeValid_setRdir (s : State) (d : Side) (x : RingDir) : (s.setRdir d x).hopTimeValid = s.hopTimeValid := by cases d <;> rfl
@[simp] theorem State.ringTimeValid_setRdir (s : State) (d : Side) (x : RingDir) : (s.setRdir d x).ringTimeValid = s.ringTimeValid := by cases d <;> rfl
@[simp] theorem State.sw_setRdir (s : State) (d : Side) (x : RingDir) : (s.setRdir d x).sw = s.sw := by cases d <;> rfl
@[simp] theorem State.grd_setRdir (s : State) (d : Side) (x : RingDir) : (s.setRdir d x).grd = s.grd := by cases d <;> rfl
@[simp] theorem State.edge_setRdir (s : State) (d : Side) (x : RingDir) : (s.setRdir d x).edge = s.edge := by cases d <;> rfl
@[simp] theorem State.chip_setRdir (s : State) (d : Side) (x : RingDir) : (s.setRdir d x).chip = s.chip := by cases d <;> rfl
@[simp] theorem State.upd_setRdir (s : State) (d : Side) (x : RingDir) : (s.setRdir d x).upd = s.upd := by cases d <;> rfl
@[simp] theorem State.rd_setRdir (s : State) (d : Side) (x : RingDir) (r : Reg) (jx : List Nat) :
    (s.setRdir d x).rd r jx = s.rd r jx := by cases d <;> rfl
@[simp] theorem State.get_setRdir (s : State) (d : Side) (x : RingDir) (fl : Fld) (jx : List Nat) :
    (s.setRdir d x).get fl jx = s.get fl jx := by cases d <;> rfl
@[simp] theorem State.is_setRdir (s : State) (d : Side) (x : RingDir) (fl : Fld) (jx : List Nat) :
    (s.setRdir d x).is fl jx = s.is fl jx := by cases d <;> rfl

@[simp] theorem State.pending_setHello (s : State) (p : Side) (x : HelloState) : (s.setHello p x).pending = s.pending := by cases p <;> rfl
@[simp] theorem State.out_setHello (s : State) (p : Side) (x : HelloState) : (s.setHello p x).out = s.out := by cases p <;> rfl
@[simp] theorem State.line_setHello (s : State) (p : Side) (x : HelloState) : (s.setHello p x).line = s.line := by cases p <;> rfl
@[simp] theorem State.regs_setHello (s : State) (p : Side) (x : HelloState) : (s.setHello p x).regs = s.regs := by cases p <;> rfl
@[simp] theorem State.free_setHello (s : State) (p : Side) (x : HelloState) : (s.setHello p x).free = s.free := by cases p <;> rfl
@[simp] theorem State.faultPair_setHello (s : State) (p : Side) (x : HelloState) : (s.setHello p x).faultPair = s.faultPair := by cases p <;> rfl
@[simp] theorem State.time_setHello (s : State) (p : Side) (x : HelloState) : (s.setHello p x).time = s.time := by cases p <;> rfl
@[simp] theorem State.shot_setHello (s : State) (p : Side) (x : HelloState) : (s.setHello p x).shot = s.shot := by cases p <;> rfl
@[simp] theorem State.permits_setHello (s : State) (p : Side) (x : HelloState) : (s.setHello p x).permits = s.permits := by cases p <;> rfl
@[simp] theorem State.twin_setHello (s : State) (p : Side) (x : HelloState) : (s.setHello p x).twin = s.twin := by cases p <;> rfl
@[simp] theorem State.hop_setHello (s : State) (p : Side) (x : HelloState) : (s.setHello p x).hop = s.hop := by cases p <;> rfl
@[simp] theorem State.brg_setHello (s : State) (p : Side) (x : HelloState) : (s.setHello p x).brg = s.brg := by cases p <;> rfl
@[simp] theorem State.setts_setHello (s : State) (p : Side) (x : HelloState) : (s.setHello p x).setts = s.setts := by cases p <;> rfl
@[simp] theorem State.pins_setHello (s : State) (p : Side) (x : HelloState) : (s.setHello p x).pins = s.pins := by cases p <;> rfl
@[simp] theorem State.benches_setHello (s : State) (p : Side) (x : HelloState) : (s.setHello p x).benches = s.benches := by cases p <;> rfl
@[simp] theorem State.drs_setHello (s : State) (p : Side) (x : HelloState) : (s.setHello p x).drs = s.drs := by cases p <;> rfl
@[simp] theorem State.ports_setHello (s : State) (p : Side) (x : HelloState) : (s.setHello p x).ports = s.ports := by cases p <;> rfl
@[simp] theorem State.can_setHello (s : State) (p : Side) (x : HelloState) : (s.setHello p x).can = s.can := by cases p <;> rfl
@[simp] theorem State.canTimeValid_setHello (s : State) (p : Side) (x : HelloState) : (s.setHello p x).canTimeValid = s.canTimeValid := by cases p <;> rfl
@[simp] theorem State.ethTimeValid_setHello (s : State) (p : Side) (x : HelloState) : (s.setHello p x).ethTimeValid = s.ethTimeValid := by cases p <;> rfl
@[simp] theorem State.hopTimeValid_setHello (s : State) (p : Side) (x : HelloState) : (s.setHello p x).hopTimeValid = s.hopTimeValid := by cases p <;> rfl
@[simp] theorem State.ringTimeValid_setHello (s : State) (p : Side) (x : HelloState) : (s.setHello p x).ringTimeValid = s.ringTimeValid := by cases p <;> rfl
@[simp] theorem State.sw_setHello (s : State) (p : Side) (x : HelloState) : (s.setHello p x).sw = s.sw := by cases p <;> rfl
@[simp] theorem State.grd_setHello (s : State) (p : Side) (x : HelloState) : (s.setHello p x).grd = s.grd := by cases p <;> rfl
@[simp] theorem State.edge_setHello (s : State) (p : Side) (x : HelloState) : (s.setHello p x).edge = s.edge := by cases p <;> rfl
@[simp] theorem State.chip_setHello (s : State) (p : Side) (x : HelloState) : (s.setHello p x).chip = s.chip := by cases p <;> rfl
@[simp] theorem State.upd_setHello (s : State) (p : Side) (x : HelloState) : (s.setHello p x).upd = s.upd := by cases p <;> rfl
@[simp] theorem State.rd_setHello (s : State) (p : Side) (x : HelloState) (r : Reg) (jx : List Nat) :
    (s.setHello p x).rd r jx = s.rd r jx := by cases p <;> rfl
@[simp] theorem State.get_setHello (s : State) (p : Side) (x : HelloState) (fl : Fld) (jx : List Nat) :
    (s.setHello p x).get fl jx = s.get fl jx := by cases p <;> rfl
@[simp] theorem State.is_setHello (s : State) (p : Side) (x : HelloState) (fl : Fld) (jx : List Nat) :
    (s.setHello p x).is fl jx = s.is fl jx := by cases p <;> rfl

@[simp] theorem State.pending_setDom (s : State) (d : Dom) (x : DomainState) : (s.setDom d x).pending = s.pending := by cases d <;> rfl
@[simp] theorem State.out_setDom (s : State) (d : Dom) (x : DomainState) : (s.setDom d x).out = s.out := by cases d <;> rfl
@[simp] theorem State.line_setDom (s : State) (d : Dom) (x : DomainState) : (s.setDom d x).line = s.line := by cases d <;> rfl
@[simp] theorem State.regs_setDom (s : State) (d : Dom) (x : DomainState) : (s.setDom d x).regs = s.regs := by cases d <;> rfl
@[simp] theorem State.free_setDom (s : State) (d : Dom) (x : DomainState) : (s.setDom d x).free = s.free := by cases d <;> rfl
@[simp] theorem State.faultPair_setDom (s : State) (d : Dom) (x : DomainState) : (s.setDom d x).faultPair = s.faultPair := by cases d <;> rfl
@[simp] theorem State.shot_setDom (s : State) (d : Dom) (x : DomainState) : (s.setDom d x).shot = s.shot := by cases d <;> rfl
@[simp] theorem State.permits_setDom (s : State) (d : Dom) (x : DomainState) : (s.setDom d x).permits = s.permits := by cases d <;> rfl
@[simp] theorem State.ring_setDom (s : State) (d : Dom) (x : DomainState) : (s.setDom d x).ring = s.ring := by cases d <;> rfl
@[simp] theorem State.twin_setDom (s : State) (d : Dom) (x : DomainState) : (s.setDom d x).twin = s.twin := by cases d <;> rfl
@[simp] theorem State.hop_setDom (s : State) (d : Dom) (x : DomainState) : (s.setDom d x).hop = s.hop := by cases d <;> rfl
@[simp] theorem State.brg_setDom (s : State) (d : Dom) (x : DomainState) : (s.setDom d x).brg = s.brg := by cases d <;> rfl
@[simp] theorem State.setts_setDom (s : State) (d : Dom) (x : DomainState) : (s.setDom d x).setts = s.setts := by cases d <;> rfl
@[simp] theorem State.pins_setDom (s : State) (d : Dom) (x : DomainState) : (s.setDom d x).pins = s.pins := by cases d <;> rfl
@[simp] theorem State.benches_setDom (s : State) (d : Dom) (x : DomainState) : (s.setDom d x).benches = s.benches := by cases d <;> rfl
@[simp] theorem State.drs_setDom (s : State) (d : Dom) (x : DomainState) : (s.setDom d x).drs = s.drs := by cases d <;> rfl
@[simp] theorem State.ports_setDom (s : State) (d : Dom) (x : DomainState) : (s.setDom d x).ports = s.ports := by cases d <;> rfl
@[simp] theorem State.can_setDom (s : State) (d : Dom) (x : DomainState) : (s.setDom d x).can = s.can := by cases d <;> rfl
@[simp] theorem State.canTimeValid_setDom (s : State) (d : Dom) (x : DomainState) : (s.setDom d x).canTimeValid = s.canTimeValid := by cases d <;> rfl
@[simp] theorem State.ethTimeValid_setDom (s : State) (d : Dom) (x : DomainState) : (s.setDom d x).ethTimeValid = s.ethTimeValid := by cases d <;> rfl
@[simp] theorem State.hopTimeValid_setDom (s : State) (d : Dom) (x : DomainState) : (s.setDom d x).hopTimeValid = s.hopTimeValid := by cases d <;> rfl
@[simp] theorem State.ringTimeValid_setDom (s : State) (d : Dom) (x : DomainState) : (s.setDom d x).ringTimeValid = s.ringTimeValid := by cases d <;> rfl
@[simp] theorem State.sw_setDom (s : State) (d : Dom) (x : DomainState) : (s.setDom d x).sw = s.sw := by cases d <;> rfl
@[simp] theorem State.grd_setDom (s : State) (d : Dom) (x : DomainState) : (s.setDom d x).grd = s.grd := by cases d <;> rfl
@[simp] theorem State.edge_setDom (s : State) (d : Dom) (x : DomainState) : (s.setDom d x).edge = s.edge := by cases d <;> rfl
@[simp] theorem State.chip_setDom (s : State) (d : Dom) (x : DomainState) : (s.setDom d x).chip = s.chip := by cases d <;> rfl
@[simp] theorem State.upd_setDom (s : State) (d : Dom) (x : DomainState) : (s.setDom d x).upd = s.upd := by cases d <;> rfl
@[simp] theorem State.rd_setDom (s : State) (d : Dom) (x : DomainState) (r : Reg) (jx : List Nat) :
    (s.setDom d x).rd r jx = s.rd r jx := by cases d <;> rfl
@[simp] theorem State.get_setDom (s : State) (d : Dom) (x : DomainState) (fl : Fld) (jx : List Nat) :
    (s.setDom d x).get fl jx = s.get fl jx := by cases d <;> rfl
@[simp] theorem State.is_setDom (s : State) (d : Dom) (x : DomainState) (fl : Fld) (jx : List Nat) :
    (s.setDom d x).is fl jx = s.is fl jx := by cases d <;> rfl

@[simp] theorem State.pending_setDelay (s : State) (p : Side) (x : DelayStamps) : (s.setDelay p x).pending = s.pending := by cases p <;> rfl
@[simp] theorem State.out_setDelay (s : State) (p : Side) (x : DelayStamps) : (s.setDelay p x).out = s.out := by cases p <;> rfl
@[simp] theorem State.line_setDelay (s : State) (p : Side) (x : DelayStamps) : (s.setDelay p x).line = s.line := by cases p <;> rfl
@[simp] theorem State.regs_setDelay (s : State) (p : Side) (x : DelayStamps) : (s.setDelay p x).regs = s.regs := by cases p <;> rfl
@[simp] theorem State.free_setDelay (s : State) (p : Side) (x : DelayStamps) : (s.setDelay p x).free = s.free := by cases p <;> rfl
@[simp] theorem State.faultPair_setDelay (s : State) (p : Side) (x : DelayStamps) : (s.setDelay p x).faultPair = s.faultPair := by cases p <;> rfl
@[simp] theorem State.shot_setDelay (s : State) (p : Side) (x : DelayStamps) : (s.setDelay p x).shot = s.shot := by cases p <;> rfl
@[simp] theorem State.permits_setDelay (s : State) (p : Side) (x : DelayStamps) : (s.setDelay p x).permits = s.permits := by cases p <;> rfl
@[simp] theorem State.ring_setDelay (s : State) (p : Side) (x : DelayStamps) : (s.setDelay p x).ring = s.ring := by cases p <;> rfl
@[simp] theorem State.twin_setDelay (s : State) (p : Side) (x : DelayStamps) : (s.setDelay p x).twin = s.twin := by cases p <;> rfl
@[simp] theorem State.hop_setDelay (s : State) (p : Side) (x : DelayStamps) : (s.setDelay p x).hop = s.hop := by cases p <;> rfl
@[simp] theorem State.brg_setDelay (s : State) (p : Side) (x : DelayStamps) : (s.setDelay p x).brg = s.brg := by cases p <;> rfl
@[simp] theorem State.setts_setDelay (s : State) (p : Side) (x : DelayStamps) : (s.setDelay p x).setts = s.setts := by cases p <;> rfl
@[simp] theorem State.pins_setDelay (s : State) (p : Side) (x : DelayStamps) : (s.setDelay p x).pins = s.pins := by cases p <;> rfl
@[simp] theorem State.benches_setDelay (s : State) (p : Side) (x : DelayStamps) : (s.setDelay p x).benches = s.benches := by cases p <;> rfl
@[simp] theorem State.drs_setDelay (s : State) (p : Side) (x : DelayStamps) : (s.setDelay p x).drs = s.drs := by cases p <;> rfl
@[simp] theorem State.ports_setDelay (s : State) (p : Side) (x : DelayStamps) : (s.setDelay p x).ports = s.ports := by cases p <;> rfl
@[simp] theorem State.can_setDelay (s : State) (p : Side) (x : DelayStamps) : (s.setDelay p x).can = s.can := by cases p <;> rfl
@[simp] theorem State.canTimeValid_setDelay (s : State) (p : Side) (x : DelayStamps) : (s.setDelay p x).canTimeValid = s.canTimeValid := by cases p <;> rfl
@[simp] theorem State.ethTimeValid_setDelay (s : State) (p : Side) (x : DelayStamps) : (s.setDelay p x).ethTimeValid = s.ethTimeValid := by cases p <;> rfl
@[simp] theorem State.hopTimeValid_setDelay (s : State) (p : Side) (x : DelayStamps) : (s.setDelay p x).hopTimeValid = s.hopTimeValid := by cases p <;> rfl
@[simp] theorem State.ringTimeValid_setDelay (s : State) (p : Side) (x : DelayStamps) : (s.setDelay p x).ringTimeValid = s.ringTimeValid := by cases p <;> rfl
@[simp] theorem State.sw_setDelay (s : State) (p : Side) (x : DelayStamps) : (s.setDelay p x).sw = s.sw := by cases p <;> rfl
@[simp] theorem State.grd_setDelay (s : State) (p : Side) (x : DelayStamps) : (s.setDelay p x).grd = s.grd := by cases p <;> rfl
@[simp] theorem State.edge_setDelay (s : State) (p : Side) (x : DelayStamps) : (s.setDelay p x).edge = s.edge := by cases p <;> rfl
@[simp] theorem State.chip_setDelay (s : State) (p : Side) (x : DelayStamps) : (s.setDelay p x).chip = s.chip := by cases p <;> rfl
@[simp] theorem State.upd_setDelay (s : State) (p : Side) (x : DelayStamps) : (s.setDelay p x).upd = s.upd := by cases p <;> rfl
@[simp] theorem State.rd_setDelay (s : State) (p : Side) (x : DelayStamps) (r : Reg) (jx : List Nat) :
    (s.setDelay p x).rd r jx = s.rd r jx := by cases p <;> rfl
@[simp] theorem State.get_setDelay (s : State) (p : Side) (x : DelayStamps) (fl : Fld) (jx : List Nat) :
    (s.setDelay p x).get fl jx = s.get fl jx := by cases p <;> rfl
@[simp] theorem State.is_setDelay (s : State) (p : Side) (x : DelayStamps) (fl : Fld) (jx : List Nat) :
    (s.setDelay p x).is fl jx = s.is fl jx := by cases p <;> rfl

@[simp] theorem State.pinOf_setPin (s : State) (b p : Nat) (x : Pin) : (s.setPin b p x).pinOf b p = x := by
  simp [State.setPin, State.pinOf]
@[simp] theorem State.benchOf_setBench (s : State) (b : Nat) (x : Bench) : (s.setBench b x).benchOf b = x := by
  simp [State.setBench, State.benchOf]
@[simp] theorem State.port_setPort (s : State) (b k : Nat) (x : Port) : (s.setPort b k x).port b k = x := by
  simp [State.setPort, State.port]
@[simp] theorem State.chan_setChan (s : State) (b c : Nat) (x : DrsChannel) : (s.setChan b c x).chan b c = x := by
  simp [State.setChan, State.chan]
@[simp] theorem State.group_setGroup (s : State) (b g : Nat) (x : DrsGroup) : (s.setGroup b g x).group b g = x := by
  simp [State.setGroup, State.group]
@[simp] theorem State.canOf_setCan (s : State) (n : Nat) (x : CanChannel) : (s.setCan n x).canOf n = x := by
  simp [State.setCan, State.canOf]

end Sys2Proof.Machine
end

