-- ==== Sys2Proof/WellFormed.lean ====
section
/-! DEFINITION. Well-formed commands: the operand ranges the rules of each row give. -/

namespace Sys2Proof

/-- A 32-bit word or address. -/
def word (n : Nat) : Bool := n < 2 ^ 32

/-- A path names hubs 0–63, benches 0–15, path codes of one byte and faces 0–15 (R26, R341). -/
def Path.ok : Path → Bool
  | .bench b f => b < 16 && f < 16
  | .remote h c f => h < 64 && c < 256 && f < 16
  | _ => true

/-- A producer names benches, channels, rings and channel groups that exist (R26). -/
def Producer.ok : Producer → Bool
  | .personality b => b < 16
  | .canChannel n => n < 16
  | .hostRing r => r < 16
  | .dresser b g => b < 16 && g < 4
  | _ => true

/-- A consumer of hub time that exists (R375). -/
def Consumer.ok : Consumer → Bool
  | .bench b => b < 16
  | .ethPort p => p < 8
  | .trigger k => k < 8
  | _ => true

/-- A BIST run fails in one of the units 1 to 7 (R574, R575). -/
def BistResult.ok : BistResult → Bool
  | .failed u _ => 1 ≤ u && u ≤ 7
  | _ => true

/-- A frame an asleep channel has decoded is a frame of CAN (R437). -/
def CanSeen.ok : CanSeen → Bool
  | .frame f => f.ok
  | .damaged => true

/-- A command's operands lie in the ranges of its row; the pool has 196,608 cells (HOP_STATUS.free). -/
def Instr.wf : Instr → Bool
  | .registerWrite p _ addr val => p.ok && word addr && val < 2 ^ 64
  | .pairLowRead p addr | .pairHighRead p addr | .registerRead p _ addr => p.ok && word addr
  | .pairLowWrite p addr val | .pairHighWrite p addr val => p.ok && word addr && word val
  | .pcieLongTransaction _ write addr n data => word addr && n ≤ 1024 && data.all word && (!write || data.length == n)
  | .bar2Access _ _ off val => off < 4096 && val < 2 ^ 64
  | .spiRead addr => word addr
  | .spiWrite addr val => word addr && word val
  | .spiOtherCommand cmd => cmd < 256
  | .spiCsRelease _ addrBytes addr dataBytes val => addrBytes ≤ 4 && word addr && dataBytes ≤ 4 && word val
  | .signalDetect _ | .cdrLock _ | .blockLock _ | .trainingTimeout _ | .blockLockLoss _ | .lossOfSignal _
  | .remoteFaultReceived _ | .portDownTimeout _ | .helloSend _ | .helloReceived _ _ | .listenWindowEnd
  | .backoffEnd | .contendSend | .contendReceived _ _ | .contentionWindowEnd | .roundBoundary | .silentTurnEnd
  | .masterLost | .backupTakeover | .spareRequestTimeout | .scrubBurstEnd | .postedWriteOffer | .bridgeCellApply
  | .readRequestApply | .readResponseReceived | .ppsInEdge _ | .sourceLossTimeout _ _ | .holdTraceExpiry _
  | .linkDelayExchange _ _ _ | .delayCellReceived | .ppsOutEdge _ | .segmentationJobEnd | .healthWatchdogExpiry
  | .operateWhole | .operateFirstPart | .operateSecondPart | .claimOverride | .guardedRegisterWrite | .keyLoad
  | .keyErase | .grdResponseReceived | .benchOutOfService | .benchReturnToService | .benchReset | .faceReset
  | .updateBegin | .deltaVerify | .updateHandover | .controllerHandover | .trialEnd | .updateCommit
  | .updateRollback | .rollbackBenchStep | .updateAbort | .updateRevert | .controllerWatchdogExpiry
  | .faultPairSwap | .refclkLoss | .ringReady | .flashOperationEnd _ | .pciePerst _ | .feedReverse _
  | .seatingChange _ _ | .seatingDebounced | .inrushStart | .inrushEnd | .inrushTimeout | .gateCheckFail
  | .gateCheckPass | .shortDetected | .fuseTrip | .retryExpiry | .railGapExpiry | .pgoodTimeout
  | .gaugeDisagreement | .quietPeriodEnd | .journalFlushEnd _ | .park | .alwaysOnStop | .pcieLinkChange _
  | .jtagTapOperation _ | .journalEraseComplete | .correctableEccError => true
  | .deskewComplete _ _ polInv skew roundTrip => polInv < 4 && skew < 1024 && roundTrip < 2 ^ 25
  | .slotStart _ n => n < 512
  | .slotArrival _ blks => blks.length == 100
  | .slotCut _ blks => blks.length ≤ 100
  | .transitOnlyWrite p _ | .handoff p | .scrubBurstRequest p | .timeSnapshot p | .captureNow p | .segmentationGo p
  | .fuseBurn p | .watchdogKick p | .faultForce p | .warmReset p | .configReload p | .flashReadPage p
  | .flashProgramPage p | .flashEraseSector p => p.ok
  | .reachTimeout _ h | .shotStaleTimeout _ h | .heldClear h => h < 64
  | .shotFwDriveWrite p i val => p.ok && i < 8 && word val
  | .shotStretchEnd i => i < 8
  | .settStart p b s | .settStop p b s | .settReset p b s | .stampLowRead p b s | .mboxOutRead p b s =>
    p.ok && b < 16 && s < 64
  | .groupStart p b _ | .groupStop p b _ | .groupReset p b _ | .bistGo p b => p.ok && b < 16
  | .groupCmdAtRound b | .benchWatchdogExpiry b | .benchFreezeTimeout b | .benchHandover b | .benchReloadComplete b =>
    b < 16
  | .settProgWrite p b s k val => p.ok && b < 16 && s < 64 && k < 64 && word val
  | .settInject p b s val | .mboxInWrite p b s val => p.ok && b < 16 && s < 64 && word val
  | .pinEdge b pin _ => b < 16 && pin < 64
  | .scheduledEdgeDue b s | .jmp b s _ | .wait b s _ | .waitSatisfied b s | .inShift b s _ | .outShift b s _
  | .push b s _ | .pull b s _ | .mov b s _ | .seti b s _ | .addi b s _ | .djnz b s _ | .stamp b s _ | .armAt b s _
  | .shot b s _ | .raise b s _ | .cnt b s _ | .crcb b s _ | .flag b s _ | .dir b s _ | .sync b s _ | .halt b s _
  | .ldt b s _ | .cmpj b s _ | .tout b s _ | .irqw b s _ | .reservedOpcode b s _ | .idleTimeoutExpiry b s =>
    b < 16 && s < 64
  | .controllerIrqRaise b line _ => b < 16 && line < 16
  | .firmwareException b code => b < 16 && code < 256
  | .descriptorTableWrite p b off val => p.ok && b < 16 && off < 0x40000 && off % 4 == 0 && word val
  | .personalityCommand b k c => b < 16 && k < 64 && c < 16
  | .commandTimeDue b k | .uartTransmit b k | .uartGapEnd b k | .spiTargetFrame b k | .hdlcTransmit b k
  | .ppsWindowEnd b k | .debounceExpiry b k | .chatterQuietExpiry b k | .supervisedOutputCommand b k
  | .supervisionWindowExpiry b k => b < 16 && k < 64
  | .spiControllerTransaction b k miso => b < 16 && k < 64 && miso.all (fun x => x < 2 ^ 32)
  | .i2cTransaction b k r => b < 16 && k < 64 && r.status < 6 && r.read.length ≤ 112
  | .decimationWindowEnd b c _ => b < 16 && c < 32
  | .coefficientApply p b c => p.ok && b < 16 && c < 32
  | .comparatorThresholdWrite p b m _ val => p.ok && b < 16 && m < 64 && word val
  | .enqueue prod q cell => prod.ok && q < 2 ^ 20 && cell.length ≤ 128
  | .dequeue prod e c => prod.ok && e < 1024 && c < 16
  | .endpointFreezeWrite p k val => p.ok && k < 32 && word val
  | .cellEccError k _ => k < 196608
  | .queueStateEccError q => q < 2 ^ 20
  | .queueSnapshot p q => p.ok && q < 2 ^ 20
  | .hostRingEnable p r cfg => p.ok && r < 16 && word cfg
  | .hostRingDisable p r => p.ok && r < 16
  | .hostRingTailWrite p r tail => p.ok && r < 16 && tail < 2 ^ 16
  | .sendDescriptor r desc buf => r < 16 && desc.length == 16 && buf.length == 128
  | .receiveDescriptor r desc => r < 16 && desc.length == 16
  | .hostMemoryError r _ _ => r < 16
  | .fabricWriteIssue p _ fa val => p.ok && fa < 2 ^ 40 && val < 2 ^ 64
  | .fabricReadIssue p _ fa => p.ok && fa < 2 ^ 40
  | .postedWriteTimeout i => i < 64
  | .readTimeout tag => tag < 240
  | .timeMeasurementWrite p _ lo hi => p.ok && word lo && word hi
  | .domainSelectApply c | .domainAutoSwitch c => c.ok
  | .triggerTick k | .pgoodLoss k => k < 8
  | .frameReceived m _ _ _ | .pauseExpiry m | .gateIntervalChange m | .gateSwapApply m => m < 8
  | .pauseFrame m _ bytes => m < 8 && 64 ≤ bytes.length
  | .frameTransmit m => (m < 8 || m == 9)
  | .linkChange m _ rate => m < 8 && rate < 4
  | .macEnableWrite p m _ | .gateBankSwap p m => p.ok && m < 8
  | .ringFrameCell c => c < 16
  | .ringFrameTimeout src c => src < 64 && c < 8
  | .canFrameReceived n _ f => n < 16 && f.ok
  | .canTransmitCommand n c => n < 16 && c < 16
  | .canCommandDue n i => n < 16 && i < 8
  | .canTransmitEnd n _ _ | .canBusError n _ _ | .busOffRecoveryEnd n | .busIdleDetected n
  | .canReferenceFrameSend n | .canRefMasterTimeout n | .keepAliveSend n | .lastCallTimeout n | .sleepEntry n
  | .wakeDominant n _ | .localWake n => n < 16
  | .canRecover p n | .canEnable p n | .canDisable p n | .sleepNow p n => p.ok && n < 16
  | .wakeFrame n _ x => n < 16 && x.ok
  | .twinHealthWrite p val | .testUnlock p val => p.ok && word val
  | .claimLost k m => k < 32 && m < 2
  | .holdoffEnd k => k < 32
  | .grdSubmit p w => p.ok && w < 16
  | .heldPartTimeout hub ep => hub < 64 && ep < 1024
  | .keyStoreWrite s => s < 32
  | .grdWindowTimeout w => w < 16
  | .faceResetComplete f => f < 16
  | .chunkCommit p index len => p.ok && index < 2 ^ 16 && len < 2 ^ 13
  | .causeLeafClear p w val | .causeEnableWrite p w val => p.ok && w < 32 && word val
  | .resetN _ pos => pos < 64
  | .configLoad failed => failed < 4
  | .coldStart vina vinb vhold => vina < 2 ^ 16 && vinb < 2 ^ 16 && vhold < 2 ^ 16
  | .feedChange _ mv | .capacitanceMeasured mv => mv < 2 ^ 16
  | .thermalTrip t => t < 2 ^ 16
  | .pgoodRise k pos tmode => k < 8 && pos < 64 && tmode < 4
  | .holdupReadyChange x => x.mv < 2 ^ 16
  | .dyingGasp cause => 1 ≤ cause && cause ≤ 4
  | .permitRequest _ unit | .permitReturn _ unit | .permitWaitLimit _ unit => unit < 256
  | .budgetWrite p budget => p.ok && budget < 64
  | .bistEnd r => r.ok
  | .hubControllerFrameSend bytes c => 14 ≤ bytes.length && bytes.length ≤ 9212 && c < 8

end Sys2Proof
end

