-- ==== Sys2Proof/Tests/Slice0.lean ====
section
/-! SUPPORT. Tests of the model: the spec's worked examples and the published vectors of the functions it names, the check
of well-formed commands, and for every statement with hypotheses a state and operands that meet them. -/

namespace Sys2Proof.Tests

open Sys2Proof.Machine

set_option maxRecDepth 20000
set_option Elab.async false

/-! States the tests start from. -/

/-- The state after reset. -/
def rs : State := State.reset
/-- The edge in a state of R545. -/
def edge (st : Nat) : State := rs.set F.EDGE_STATUS_state [] st
/-- ... with the FET on, both seats and feed A. -/
def edgeOn (st : Nat) : State := (edge st).set F.EDGE_STATUS_seat_a [] 1 |>.set F.EDGE_STATUS_seat_b [] 1 |>.set F.EDGE_STATUS_feed_a_valid [] 1 |>.set F.EDGE_STATUS_or_a_on [] 1 |>.set F.EDGE_STATUS_hs_on [] 1
def gated (s : State) : State := { s with edge := { s.edge with gateCheck := true } }
def rails (s : State) (en good : Nat) : State := (s.set F.EDGE_RAIL_STATUS_pwr_en [] en).set F.EDGE_RAIL_STATUS_pgood [] good
/-- Ring-ready with the lock set. -/
def ready : State := (rs.set F.CHIP_STATUS_cfg_locked [] 1).set F.CFG_STATUS_state [] 5
/-- The recovery state. -/
def recovery : State := rs.set F.CFG_STATUS_state [] 6
/-- A hub that waits for its load. -/
def loading : State := rs
/-- Every leaf of a word enabled. -/
def busyTree : State := (((ready.leaf 0 1 2).leaf 0).leaf 5 0 0 true).wr .CAUSE_EN [0] 0xFFFFFFFF
def unlockable : State := { (rs.set F.TST_MODE_tmode [] 1) with chip := { unlockWindow := true } }
def outBench (b : Nat) : State := ready.set F.BNCH_STATUS_out_of_service [b] 1
def bistRun : State := { ((outBench 15).set F.TST_BIST_STATUS_state [] 2).set F.TST_BIST_STATUS_bench [] 15 with permits := { held := [(.serdes, 1), (.bist, 0)] } }
def flashOp (op : Nat) : State := { (recovery.wr .CFG_FLASH_BUF [3] 0x12345678).wr .CFG_FLASH_ADDR [] 0x10000 with chip := { flashOp := op, flash := [(5, 1), (0x10001, 0x0F), (0x20000, 7)] } }
def keyed : State := ((ready.set F.GRD_STATUS_keys_installed [] 1).set F.GRD_KEY_CFG_state [0] 1).set F.GRD_KEY_CFG_types [0] 0x7F
/-- A record of a type with a counter and a body, from hub 0 to hub 0, under slot 0. -/
def record (t c : Nat) (body : List Byte) : List Byte :=
  let m := [0x51, byte t, 0, 0, 0, 0, 0, 0] ++ beBytes 8 c ++ padTo 96 body
  m ++ cmacTag 0 (tagMessage m)
def asked (s : State) (r : List Byte) : State := { s with grd := { s.grd with inbox := [r] } }
def operate (frag : Byte) : List Byte := record 1 5 ([0x03, 0xFF, 2, frag, 0, 0, 0, 0, 0x11, 0x22])
def heldOne : HeldPart := { hub := 0, ep := 1023, slot := 0, cls := 2, counter := 4, bytes := zeros 88 }
def opRec (op : Byte) : List Byte := record 4 7 (beBytes 4 (Reg.UPD_CTRL.addr []) ++ [0, 0, 0, op])
def service (b op : Byte) : List Byte := record 7 1 [b, op]
def upd (st : Nat) : State := keyed.set F.UPD_STATUS_state [] st
def handing (st : Nat) : State := (upd st).set F.UPD_STATUS_mode [] 1
def window (s : State) (w tgt : Nat) : State := s.wr .GRD_WIN_CMD [w, 0] (0x51 + tgt * 65536)
def wrapped : List Byte := [35, 76, 176, 102, 103, 8, 120, 139, 44, 185, 146, 93, 208, 101, 192, 98, 22, 16, 236, 57, 154, 119, 145, 24]
def keyRec (op : Byte) (w : List Byte) : List Byte := record 5 9 ([op, 31, 0, 0, 0, 0, 0, 0] ++ w)
def writeRec : List Byte := record 3 2 (beBytes 4 (Reg.CAUSE_SUMMARY_EN.addr []) ++ [1, 0, 0, 0, 0x12, 0x34, 0x56, 0x78])
def seen (s : State) : State := (s.setKeyCounter 0 100).setKeySlot 0 { seen := 2 ^ 63 + 1 }
def twinOne : State := ((((ready.set F.TWIN_PAIR_CFG_member [31] 1).set F.TWIN_PAIR_CFG_peer [31] 5).set F.TWIN_PAIR_CFG_base [31] 7).set F.TWIN_MEMBER_valid [31, 1] 1).set F.RING_ROUND_LO_round_low [] 10 |>.setTrack 31 1 { hub := 5, round := 7 }
/-- A running sett with values in its registers. -/
def setB : Sett := { phase := .running, pc := 63, x := 0x80000001, y := 3, isr := 0xA5A5A5A5, osr := 0x12345678, isrCount := 5, osrCount := 7, flags := 0x5A, edgeCount := 9, highRead := some 4 }
/-- It stands at a word. -/
def stands (b k w : Nat) (t : Sett := setB) : State := (ready.setSett b k t).wr .SETT_PROG [b, k, t.pc] w
/-- Word with an opcode and operand bits. -/
def ins (op bits : Nat) : Nat := op * 2 ^ 27 + bits % 2 ^ 20
def quadOwned (s : State) (b k : Nat) : State := s.wr .BNCH_QUAD_CFG [b, k / 4] (0x80808080 + (k % 4) * 0x01010101)
def pdtPut (s : State) (b : Nat) (e : Nat × Nat) : State :=
  s.wr .BNCH_PDT [b, e.1 / 4] (natSetBits (s.rd .BNCH_PDT [b, e.1 / 4]) (8 * (e.1 % 4) + 7) (8 * (e.1 % 4)) e.2)
/-- A running instance of a personality with these bytes in its descriptor. -/
def inst (b k code : Nat) (x : Port := {}) (bytes : List (Nat × Nat) := []) : State :=
  ((((([(0, code), (1, 0xC0), (2, 5), (5, 15)] ++ bytes : List (Nat × Nat)).map fun e => (256 + 256 * k + e.1, e.2)).foldl (fun s e => pdtPut s b e) ready).set
    F.BNCH_PORT_STAT_state [b, k] 1).set F.BNCH_PORT_CNT_records [b, k] 0xFFFF).setPort b k x
def outCmd (pl : List Byte) : PortCmd := { payload := pl }
def driving (s : State) (b : Nat) : State := s.wr .BNCH_QUAD_CFG [b, 0] 0x80808080
/-- The command record of an instance, in the queue its endpoint takes it from. -/
def cmdCell (code time0 ns : Nat) (pl : List Byte) : List Byte :=
  [byte code, 0, 0, byte pl.length, 0, 0] ++ beBytes 6 time0 ++ beBytes 4 ns ++ padTo 112 pl
def commanded (s : State) (e c : Nat) (cell : List Byte) : State :=
  { s with hop := { s.hop with queues := [(s.intakeQueue e c, { cells := [{ index := 0, srcHub := 9, srcEp := 8, bytes := cell }] })] } }
def taken (s : State) (b k c : Nat) : State := (s.clearOut.dequeue (.personality b) (s.descEndpoint b k) c).2
def cellOf (n : Nat) : Cell := { index := n, srcHub := 9, srcEp := 8, bytes := zeros 128 }
def queued (s : State) (q : Nat) (l : List Cell) (order : Bool := false) : State :=
  { s with hop := { s.hop with queues := [(q, { cells := l })], order := if order then [q] else [] } }
def producing (e kind unit : Nat) (s : State := ready) : State := (s.set F.HOP_EP_CFG_kind [e] kind).set F.HOP_EP_CFG_unit [e] unit
/-- Endpoint 1023 belongs to the bridge, with room in every queue. -/
def bridgeEp : State := ((producing 1023 3 0).wr .HOP_LIMIT [1023, 15] 0x00020002).wr .HOP_INTAKE [0, 1023] (2 ^ 31 + 15 * 65536 + 1023)
def ring (dir : Nat) (head tail : Nat) (s : State := ready) : State :=
  ((s.wr .HOP_HRING_CFG [15] (2 ^ 31 + dir * 2 ^ 30 + 15 * 2 ^ 24)).wr .HOP_HRING_TAIL [15] tail).wr .HOP_HRING_HEAD [15] head
def freeBudget : State := ready.set F.PMT_CFG_budget [] 3
/-- Integrated hub 0 in the loop, with these hubs in the bitmap. -/
def looped (bits : Nat) (s : State := ready) : State :=
  let s := (((s.set F.RING_STATUS_mode [] 2).set F.RING_PORT_STATUS_state [0] 6).set F.RING_PORT_STATUS_state [1] 6).set F.BRG_CFG_enable [] 1
  { s with ring := { s.ring with bitmap := bits } }
def bridged : State := looped (2 ^ 63 + 1) (((bridgeEp.set F.BRG_CFG_endpoint [] 1023).set F.BRG_CFG_class [] 15))
def arrived (cell : List Byte) (src : Nat) (s : State := bridged) : State :=
  queued s (queueNo 1023 15 0) [{ index := 0, srcHub := src, srcEp := 5, bytes := cell }]
def arrivedCell (cell : List Byte) (src : Nat) : Cell := { index := 0, srcHub := src, srcEp := 5, bytes := cell }
def wCell : List Byte := bridgeCell 0x11 0 true 1 0 65535 (Reg.CAUSE_SUMMARY_EN.addr []) 0 0 0 3 [0xFFFFFFFF]
def rCell : List Byte := bridgeCell 0x12 0 true 1 7 9 (Reg.CAUSE_SUMMARY_EN.addr []) 15 0 0 3 []
def aCell : List Byte := bridgeCell 0x13 0 true 1 7 9 0x100 0 0 0 3 [0xDEADBEEF]
def offer1 (w : Bool) (h : Nat) : BridgeOffer := { write := w, origin := .path .hubController, hub := h, face := 0, addr := 0xFFFFFFFC, words := [5] }
def offered (w : Bool) (s : State := bridged) (h : Nat := 63) : State := { s with brg := { s.brg with offers := [offer1 w h] } }
def timed (s : State := ready) : State := { s with time := { s.time with a := { s.time.a with t := 2 ^ 39 * 12345678901 + 77 }, b := { s.time.b with t := 2 ^ 39 * 98765432109 + 2 ^ 38 } } }
def delayTaken (s : State) : State := (s.clearOut.dequeue .delayExchange 1023 15).2
def delayCell (side : Nat) : List Byte := [0x7D, byte side, 0, 0, 0, 0, 0, 0] ++ beBytes 6 5 ++ [0, 0] ++ beBytes 4 1000 ++ beBytes 2 10 ++ [0, 0] ++ beBytes 4 1200 ++ beBytes 2 20 ++ zeros 98
def delayState (side : Nat) : State :=
  let s := ((((arrived (delayCell side) 9 (looped 1 (producing 1023 7 2 bridgeEp))).set F.TIME_RING_CFG_endpoint [] 1023)).set F.RING_PORT_STATUS_peer_hub [0] 9).set F.RING_PORT_STATUS_peer_hub [1] 9
  { s with time := { s.time with delayEast := { second := 5, tx := 70000000, rx := 92000000, waiting := true }, delayWest := { second := 5, tx := 70000000, rx := 92000000, waiting := true } } }
def port (s : State) (p : Side) (st : Nat) : State := s.set F.RING_PORT_STATUS_state [sideIx p] st
def enabledPorts (s : State := ready) : State := (s.set F.RING_CTRL_east_enable [] 1).set F.RING_CTRL_west_enable [] 1
def serdes (s : State) (p : Side) : State := { s with permits := { held := [(.crypto, 3), (.serdes, sideIx p)] } }
def phased (n : Nat) (s : State := looped 1) : State := s.set F.RING_START_STATUS_phase [] n
def master (s : State := looped 1) : State := (s.set F.RING_START_STATUS_is_master [] 1).set F.RING_START_STATUS_phase [] 6
def headed (d : Side) (s : State := looped 1) : State := s.setHead d true
def hdr (n : Nat) (valid : Bool := false) (mode : Nat := 2) : Header := { slot := n, round := 0, owner := 9, mode := mode, payloadValid := valid, generated := false }
def slotIn (n : Nat) (valid : Bool := false) (syn : Nat := 0) (poison : Bool := false) : List Block :=
  slotOf (hdr n valid).block (List.replicate 16 0x3001300230033004) (zeros 640) (block97 70000 3 5) 9 syn poison
/-- With a shot_check that does not fit. -/
def slotBad (n : Nat) : List Block := (slotIn n true 5).set 97 (blockOf (block97 1 1 1))
def helloOk (h : Nat) (ack : Bool) : Block := blockOf (helloBlock h 0 ack)
def chan (b c : Nat) (x : DrsChannel) (s : State := ready) : State := s.setChan b c x
def win (x : Int) : Window := { x := x, stamp := {} }
/-- MACs enabled and up. -/
def mac (m : Nat) (s : State := ready) : State := (s.set F.ETH_MAC_CFG_enable [m] 1).set F.ETH_MAC_STATUS_link_up [m] 1
def body0 : List Byte := [0xFF, 0xFF, 0xFF, 0xFF, 0xFF, 0xFF, 1, 2, 3, 4, 5, 6, 0x08, 0] ++ zeros 46
def ethGood : List Byte := body0 ++ ethFcs body0
/-- A forwarding entry for that frame, to a port. -/
def fdb (q : Nat) (s : State) : State := (((s.wr .SWC_FDB_MAC [3] 0xFFFFFFFF).wr .SWC_FDB_KEY [3] (0x8000FFFF + 0x10000 * s.get F.SWC_PORT_CFG_pvid [0])).set F.SWC_FDB_ACT_port_mask [3] (2 ^ q)).set F.SWC_LIMIT_pages [q, 0] 2
def pauseBody (t : Nat) : List Byte := [1, 0x80, 0xC2, 0, 0, 1, 1, 2, 3, 4, 5, 6, 0x88, 8, 0, 1] ++ beBytes 2 t ++ zeros 42
def pauseOf (t : Nat) : List Byte := pauseBody t ++ ethFcs (pauseBody t)
def sendable (m c : Nat) (s : State := ready) (n : Nat := 20) : State := (s.setSwQueue m c [{ bytes := body0.take n, ingress := 9 }, { bytes := body0, ingress := 2 }]).setSwQueue m 0 (if c = 0 then [{ bytes := body0.take n, ingress := 9 }, { bytes := body0, ingress := 2 }] else [{ bytes := body0 }])
def gates (m k : Nat) (s : State := ready) : State := ((s.wr .SWC_GATE_ENTRY [m, k, 0] (0x80000000 + 600000)).wr .SWC_GATE_ENTRY [m, k, 1] (0x7F000000 + 400000)).wr .SWC_GATE_CYCLE [m, k] 1000000
def rf (first last : Bool) (num i : Nat) (d : List Byte) (total : Nat) : List Byte :=
  [0x31, byte (b2n first * 128 + b2n last * 64 + 8)] ++ beBytes 2 num ++ [byte i, byte d.length, 0, 0] ++ beBytes 2 total ++ zeros 6 ++ padTo 112 d
def ringPort : State := ((producing 1023 7 0 bridgeEp).set F.SWC_RING_CFG_enable [] 1).set F.SWC_RING_CFG_endpoint [] 1023
def ringIn (cell : List Byte) (p : Option RingFrame := none) : State := (arrived cell 9 ringPort).setRingContext 9 1 p
def ringTaken (s : State) : State := (s.clearOut.dequeue .switchPort 1023 15).2
def segBytes (hdr mss len cls mask : Nat) : List Byte := leBytes 2 hdr ++ leBytes 2 mss ++ leBytes 4 len ++ [byte cls, 0] ++ leBytes 2 mask ++ zeros 52 ++ (body0.take hdr) ++ zeros (192 - hdr)
def segJob (d : List Byte) (s : State := ready) : State := ((List.range 64).foldl (fun (s : State) (i : Nat) => s.wr .SWC_SEG_DESC [i] (leAt d (4 * i) 4)) s)
def bus (n st : Nat) (x : CanChannel := {}) (s : State := ready) : State := ((s.set F.CAN_STATUS_state [n] st).set F.CAN_CTRL_enable [n] 1).setCan n x
def frameA : CanFrame := { id := 0x7FF, dlc := 2, data := [1, 2] }
def txCell (ns : Nat) (oneShot : Bool) : List Byte := [0xC2, 0, 0, 10, 0, 0] ++ zeros 6 ++ beBytes 4 ns ++ beBytes 4 0x7FF ++ [2, 2, byte (b2n oneShot), 0, 1, 2] ++ zeros 102
def canEp (n st : Nat) (cell : List Byte) : State := (arrived cell 9 (bus n st {} (producing 1023 2 n bridgeEp))).set F.CAN_RX_CFG_endpoint [n] 1023
def canTaken (n : Nat) (s : State) : State := (s.clearOut.dequeue (.canChannel n) 1023 15).2
def entryA : CanEntry := { frame := frameA, due := true }

/-- The state a command answers. -/
def after (c : Instr) (s : State) : State :=
  match exec c s with
  | .next t => t
  | _ => s

/-! Numbers and addresses the spec works out. -/

/-- Source: the queue number and queue-state address of "Architecture of the Hub". -/
theorem test_queue_number :
    queueNo 677 3 17 = 0x000A94D1 ∧ Reg.addr .HOP_QSTATE [0x000A94D1, 0] = 0x2054A688 := by decide +kernel

/-- Source: the record from hub 5 to hub 17 of "Hopper Queues and Host Rings". -/
theorem test_hopper_addresses :
    Reg.addr .HOP_LIMIT [677, 3] = 0x0201A94C ∧ Reg.addr .HOP_INTAKE [5, 677] = 0x02045A94 ∧
      queueNo 40 2 17 = 0xA091 ∧ Reg.addr .HOP_QSTATE [0xA091, 0] = 0x20050488 ∧
      Reg.addr .HOP_CELL [8000, 0] = 0x210FA000 := by decide +kernel

/-- Source: pin P0713 of "Benches, Quads and Setts". -/
theorem test_pin_addresses :
    Reg.addr .SETT_CTRL [11, 9] = 0x01B02400 ∧ Reg.addr .SETT_STAMP_LO [11, 9] = 0x01B02418 ∧
      Reg.addr .SETT_STAMP_HI [11, 9] = 0x01B0241C ∧ Reg.addr .BNCH_QUAD_CFG [11, 2] = 0x01B10108 ∧
      Reg.addr .BNCH_PAD [11, 9] = 0x01B10224 := by decide +kernel

/-- Source: the overcurrent element of "Dresser Arithmetic"; DRS_CMP_CFG(10) decodes as listed there. -/
theorem test_dresser_addresses :
    Reg.addr .DRS_CH_CFG [3, 5] = 0x013210A0 ∧ Reg.addr .DRS_CH_GAIN [3, 5] = 0x013210A4 ∧
      Reg.addr .DRS_CMP_CFG [3, 10] = 0x013220A0 ∧ Reg.addr .DRS_CMP_LIMIT [3, 10] = 0x013220A4 ∧
      (let s := rs.wr .DRS_CMP_CFG [3, 10] 0x85030128
       s.is F.DRS_CMP_CFG_enable [3, 10] ∧ s.get F.DRS_CMP_CFG_mode [3, 10] = 0 ∧ s.get F.DRS_CMP_CFG_channel [3, 10] = 5 ∧
         s.get F.DRS_CMP_CFG_count_k [3, 10] = 3 ∧ s.get F.DRS_CMP_CFG_release_k [3, 10] = 1 ∧
         s.is F.DRS_CMP_CFG_shot_en [3, 10] ∧ s.get F.DRS_CMP_CFG_line [3, 10] = 2) := by decide +kernel

/-- Source: the Reset columns of CHIP_ID, RING_CTRL and the JTAG IDCODE of R589. -/
theorem test_reset_words :
    rs.rd .CHIP_ID [] = 0x10244A31 ∧ rs.rd .CHIP_FABRIC_PAGE [] = 0xFF000000 ∧
      (after (.jtagTapOperation .idcode) (after (.jtagTapOperation .trstHigh) rs)).out = [.tap 32 0x11024947] := by decide +kernel

/-! Published vectors of the functions the spec names. -/

/-- Source: the check values of CRC-16 with 0x1021 and 0xFFFF, and of the CRC-32 of R70. -/
theorem test_crc :
    crc16 (beBytes 9 0x313233343536373839) = 0x29B1 ∧ crc32 (beBytes 9 0x313233343536373839) = 0xFC891918 := by
  decide +kernel

/-- Source: FIPS 197 appendix C.1 and NIST SP 800-38B appendix D.1 (examples 1 and 2). -/
theorem test_aes_cmac :
    aesEncrypt 0x000102030405060708090a0b0c0d0e0f 0x00112233445566778899aabbccddeeff = 0x69c4e0d86a7b0430d8cdb78070b4c55a ∧
      aesDecrypt 0x000102030405060708090a0b0c0d0e0f 0x69c4e0d86a7b0430d8cdb78070b4c55a = 0x00112233445566778899aabbccddeeff ∧
      beNat (cmacTag 0x2b7e151628aed2a6abf7158809cf4f3c []) = 0xbb1d6929e95937287fa37d129b756746 ∧
      beNat (cmacTag 0x2b7e151628aed2a6abf7158809cf4f3c (beBytes 16 0x6bc1bee22e409f96e93d7e117393172a))
        = 0x070a16b46b4d4144f79bdd9dd04a287c := by decide +kernel

/-- Source: RFC 3394 section 4.1. -/
theorem test_key_unwrap :
    kwUnwrap 0x000102030405060708090A0B0C0D0E0F (beBytes 24 0x1FA68B0A8112B447AEF34BD8FB5A7B829D3E862371D2CFE5)
      = some 0x00112233445566778899AABBCCDDEEFF := by decide +kernel

/-- Source: FIPS 180-4, the digest of "abc". -/
theorem test_sha256 :
    sha256 [0x61, 0x62, 0x63] = 0xBA7816BF8F01CFEA414140DE5DAE2223B00361A396177A9CB410FF61F20015AD := by decide +kernel

/-! Setts: the example programs of "Sett Instruction Set", one word a test. -/

/-- Every word of the four example programs is well formed. -/
theorem test_example_programs :
    ([0x380487A2, 0x08010000, 0x380043D1, 0x08070001, 0x00070001, 0x38000008, 0x08070007, 0x10004001, 0x48000006,
      0x0008000D, 0x10064018, 0x0000000E, 0x10084018, 0x20000000, 0x00000001, 0x50080000, 0x30020000, 0x20080000,
      0x30021000, 0x00000000, 0x28080000, 0x30003000, 0x88044000, 0x580A0000, 0x38040FA0, 0x3800FDA0, 0x38010002,
      0x5809C000, 0x580B8000, 0x00000007, 0x88011000, 0x0803802B, 0x3810B400, 0x381104C4, 0x0813002B,
      0x08170001] : List Nat).all (fun w => badWord w == none) = true := by decide +kernel

/-- SETI Y, 0x87A2 and SETI X high, 0x04C4 onto X = 0xB400. -/
theorem test_seti :
    ((after (.seti 2 5 .good) (stands 2 5 0x380487A2)).sett 2 5).y = 0x87A2 ∧
      ((after (.seti 2 5 .good) (stands 2 5 0x381104C4 { setB with x := 0xB400 })).sett 2 5).x = 0x04C4B400 := by decide +kernel

/-- DJNZ X → 6 falls through at 1 and jumps at 2; JMP → 14. -/
theorem test_branches :
    ((after (.djnz 2 5 .good) (stands 2 5 0x48000006 { setB with pc := 8, x := 1 })).sett 2 5).pc = 9 ∧
      ((after (.djnz 2 5 .good) (stands 2 5 0x48000006 { setB with pc := 8, x := 2 })).sett 2 5).pc = 6 ∧
      ((after (.jmp 2 5 .good) (stands 2 5 0x0000000E { setB with pc := 12 })).sett 2 5).pc = 14 := by decide +kernel

/-- IN zeros, right, n = 24 brings the byte of ISR[31:24] to [7:0]; IN ones marks a framing error in [31:8]. -/
theorem test_uart_byte :
    ((after (.inShift 2 5 .good) (stands 2 5 0x10064018 { setB with isr := 0x55000000 })).sett 2 5).isr = 0x55 ∧
      ((after (.inShift 2 5 .good) (stands 2 5 0x10084018 { setB with isr := 0x55000000 })).sett 2 5).isr = 0xFFFFFF55 := by
  decide +kernel

/-- Source: the stamp example of "Benches, Quads and Setts" (417,305,612.75 ns, seconds ending 0xA2F1) and the two words
STAMP leaves of it. -/
theorem test_stamp_words :
    (let s := stands 11 9 0x50080000 { setB with capture := some { lo := 0xD8DF940C, hi := 0xC000A2F1, rising := true, t := 0, dom := .a }, unread := true }
     ((s.sett 11 9 |> stampWords).1 = 0xD8DF940C ∧ stampHigh (s.sett 11 9) / 2 ^ 28 = 0xC ∧
       stampHigh (s.sett 11 9) % 2 ^ 16 = 0xA2F1 ∧
       ((after (.stamp 11 9 .good) s).sett 11 9).x = 0xD8DF940C ∧
       ((after (.stamp 11 9 .good) s).sett 11 9).y = 0xC800A2F1)) := by decide +kernel

/-! Dresser: the results of the overcurrent element. -/

theorem test_scaling :
    scale 30720 0x3B800000 0 = { y := 0x42F00000, flags := 0 } ∧ (scale 105600 0x3B800000 0).y = 0x43CE4000 ∧
      (scale 166400 0x3B800000 0).y = 0x44228000 ∧ (scale 225280 0x3B800000 0).y = 0x445C0000 := by decide +kernel

/-- The third result in a row above the limit begins the condition: run 3. -/
theorem test_comparator :
    (let s := ((ready.wr .DRS_CMP_CFG [3, 10] 0x85030128).wr .DRS_CMP_LIMIT [3, 10] 0x43960000).set F.DRS_CMP_STATUS_run [3, 10] 2
     let s := chan 3 5 { windows := [win 225280], gain := 0x3B800000, discard := 0 } s
     (after (.decimationWindowEnd 3 5 true) s).is F.DRS_CMP_STATUS_active [3, 10] ∧
       (after (.decimationWindowEnd 3 5 true) s).rd .DRS_CH_RESULT [3, 5] = 0x445C0000) := by decide +kernel

/-! The fabric bridge. -/

/-- Source: "reading a remote queue state through BAR2": the page word 0x1102054A and offset 0x688. -/
theorem test_bar2_read :
    (let s := (bridged.wr .CHIP_FABRIC_PAGE [] 0x1102054A)
     let s := { s with ring := { s.ring with bitmap := 2 ^ 17 + 1 } }
     (after (.bar2Access false .w32 0x688 0) s).brg.tags.map (fun t => (t.2.hub, t.2.addr)) = [(17, 0x2054A688)]) := by
  decide +kernel

/-- Source: "a refused write found by polling": the cell hub 5 sends. -/
theorem test_write_cell :
    bridgeCell 0x11 0 false 1 0 0x02C4 0x01310000 0 0 0 1 [2] =
      [0x11, 0, 1, 0, 0x02, 0xC4] ++ zeros 2 ++ [0x01, 0x31, 0, 0] ++ zeros 4 ++ [0x01] ++ zeros 15 ++ [0, 0, 0, 2] ++ zeros 92 := by
  decide +kernel

/-- ... and what the refusal leaves on hub 17. -/
theorem test_write_refused :
    (let s := arrived (bridgeCell 0x11 0 true 1 0 0x02C4 0x01310000 0 0 0 1 [2]) 5
     (after .bridgeCellApply s).rd .BRG_ACCESS_ERR [] = 0x82016000 ∧
       (after .bridgeCellApply s).rd .BRG_ACCESS_ADDR [] = 0x01310000) := by decide +kernel

/-! The cause tree: "contention that escalates". -/

theorem test_contention_record :
    (let s := ready.leaf (benchLeaf 11 3) 2 0x0A01
     Reg.addr .CAUSE_REC [355] = 0x0001158C ∧ s.rd .CAUSE_REC [355] = 0x04020A01 ∧
       ((List.range 63).foldl (fun s _ => s.leaf 355 2 0x0A01) s).rd .CAUSE_REC [355] = 0xF4020A01 ∧
       (ready.leaf 356 10 4).rd .CAUSE_REC [356] = 0x080A0004) := by decide +kernel

/-- The host's write of 0x00000018 to CAUSE_LEAF(11) clears both leaves and both records. -/
theorem test_contention_cleared :
    (let s := ((ready.wr .CAUSE_EN [11] 0xFFFFFFFF).leaf 355 2 0x0A01).leaf 356 10 4
     s.groupPending 11 = 0x18 ∧ Reg.addr .CAUSE_LEAF [11] = 0x0001012C ∧
       (let t := after (.causeLeafClear .pcie 11 0x18) s
        t.rd .CAUSE_LEAF [11] = 0 ∧ t.rd .CAUSE_REC [355] = 0 ∧ t.rd .CAUSE_REC [356] = 0)) := by decide +kernel

/-! Time, Ethernet and the load. -/

/-- Source: "correction added in flight". -/
theorem test_correction :
    (let f (v : Nat) : List Byte := zeros 12 ++ [0x88, 0xF7] ++ zeros 8 ++ beBytes 8 v
     addCorrection (f 0x108000) 214024192 = f 0x0CD24000 ∧ addCorrection (f (2 ^ 63 - 2)) 5 = f (2 ^ 63 - 1)) := by decide +kernel

/-- The job of "three UDP datagrams from one job". -/
def udpJob : List Byte :=
  splice (segBytes 42 1472 3000 4 0x20) 16 (leBytes 4 0x0110000E ++ leBytes 4 0x01260022 ++ leBytes 4 0x02120001 ++ leBytes 4 0x0418000E)
    |> fun d => splice d 64 (zeros 18 ++ [0x1C, 0x40] ++ zeros 22)

/-- ... the length, total length, UDP length and identification of its first and last segments, without the FCS. -/
theorem test_segments :
    (let a := rs.segment udpJob 3 1
     let b := rs.segment udpJob 3 2
     a.length = 1514 ∧ beAt a 16 2 = 1500 ∧ beAt a 38 2 = 1480 ∧ beAt a 18 2 = 0x1C41 ∧
       b.length = 98 ∧ beAt b 16 2 = 84 ∧ beAt b 38 2 = 64 ∧ beAt b 18 2 = 0x1C42) := by decide +kernel

/-- Source: "slot A damaged, slot B loads": CFG_STATUS after ring-ready. -/
theorem test_cfg_status :
    (let s := (rs.wr .CFG_STATUS [] 0x5C03FF00)
     s.get F.CFG_STATUS_state [] = 5 ∧ s.get F.CFG_STATUS_slot [] = 1 ∧ s.is F.CFG_STATUS_fallback [] ∧
       s.get F.CFG_STATUS_refuse_code [] = 3 ∧ s.get F.CFG_STATUS_refuse_section [] = 0xFF) := by decide +kernel

/-- The operation table gives no word to any command. -/
theorem test_decode_none : decodeTableWord 32 0xFFFFFFFF = none ∧ decodeTableWord 8 0 = none := by decide

/-! Well-formedness: every command with its operands at the ends of their ranges is well formed, and a term that breaks
one check is refused. -/

theorem test_wf_accepts_a :
    ([.registerWrite (.bench 15 15) .w32 0xFFFFFFFF (2 ^ 64 - 1), .pairLowRead (.bench 15 15) 0xFFFFFFFF,
      .pairHighRead (.bench 15 15) 0xFFFFFFFF, .pairLowWrite (.bench 15 15) 0xFFFFFFFF 0xFFFFFFFF,
      .pairHighWrite (.bench 15 15) 0xFFFFFFFF 0xFFFFFFFF, .pcieLongTransaction true true 0xFFFFFFFF 1 [5],
      .bar2Access true .w32 (4096 - 1) (2 ^ 64 - 1), .spiRead 0xFFFFFFFF, .spiWrite 0xFFFFFFFF 0xFFFFFFFF,
      .spiOtherCommand (256 - 1), .spiCsRelease true 4 0xFFFFFFFF 4 0xFFFFFFFF, .signalDetect .east, .cdrLock .east,
      .blockLock .east, .deskewComplete .east true (4 - 1) (1024 - 1) (2 ^ 25 - 1), .trainingTimeout .east,
      .blockLockLoss .east, .lossOfSignal .east, .remoteFaultReceived .east, .portDownTimeout .east, .helloSend .east,
      .helloReceived .east 0, .listenWindowEnd, .backoffEnd, .contendSend, .contendReceived .east 0,
      .contentionWindowEnd, .slotStart .east (512 - 1), .slotArrival .east (slotIn 0), .slotCut .east (slotIn 0),
      .roundBoundary, .transitOnlyWrite (.bench 15 15) true, .handoff (.bench 15 15), .reachTimeout .east (64 - 1),
      .silentTurnEnd, .masterLost, .backupTakeover, .spareRequestTimeout,
      .shotFwDriveWrite (.bench 15 15) (8 - 1) 0xFFFFFFFF, .shotStretchEnd (8 - 1)] : List Instr).all (fun i => i.wf) = true := by decide +kernel

theorem test_wf_accepts_b :
    ([.shotStaleTimeout .east (64 - 1), .settStart (.bench 15 15) (16 - 1) (64 - 1),
      .settStop (.bench 15 15) (16 - 1) (64 - 1), .settReset (.bench 15 15) (16 - 1) (64 - 1),
      .groupStart (.bench 15 15) (16 - 1) true, .groupStop (.bench 15 15) (16 - 1) true,
      .groupReset (.bench 15 15) (16 - 1) true, .groupCmdAtRound (16 - 1),
      .settProgWrite (.bench 15 15) (16 - 1) (64 - 1) (64 - 1) 0xFFFFFFFF,
      .settInject (.bench 15 15) (16 - 1) (64 - 1) 0xFFFFFFFF, .pinEdge (16 - 1) (64 - 1) none,
      .stampLowRead (.bench 15 15) (16 - 1) (64 - 1), .scheduledEdgeDue (16 - 1) (64 - 1),
      .mboxInWrite (.bench 15 15) (16 - 1) (64 - 1) 0xFFFFFFFF, .mboxOutRead (.bench 15 15) (16 - 1) (64 - 1),
      .controllerIrqRaise (16 - 1) (16 - 1) true, .benchWatchdogExpiry (16 - 1),
      .firmwareException (16 - 1) (256 - 1), .jmp (16 - 1) (64 - 1) .good, .wait (16 - 1) (64 - 1) .good,
      .waitSatisfied (16 - 1) (64 - 1), .inShift (16 - 1) (64 - 1) .good, .outShift (16 - 1) (64 - 1) .good,
      .push (16 - 1) (64 - 1) .good, .pull (16 - 1) (64 - 1) .good, .mov (16 - 1) (64 - 1) .good,
      .seti (16 - 1) (64 - 1) .good, .addi (16 - 1) (64 - 1) .good, .djnz (16 - 1) (64 - 1) .good,
      .stamp (16 - 1) (64 - 1) .good, .armAt (16 - 1) (64 - 1) .good, .shot (16 - 1) (64 - 1) .good,
      .raise (16 - 1) (64 - 1) .good, .cnt (16 - 1) (64 - 1) .good, .crcb (16 - 1) (64 - 1) .good,
      .flag (16 - 1) (64 - 1) .good, .dir (16 - 1) (64 - 1) .good, .sync (16 - 1) (64 - 1) .good,
      .halt (16 - 1) (64 - 1) .good, .ldt (16 - 1) (64 - 1) .good] : List Instr).all (fun i => i.wf) = true := by decide +kernel

theorem test_wf_accepts_c :
    ([.cmpj (16 - 1) (64 - 1) .good, .tout (16 - 1) (64 - 1) .good, .irqw (16 - 1) (64 - 1) .good,
      .reservedOpcode (16 - 1) (64 - 1) .good, .idleTimeoutExpiry (16 - 1) (64 - 1),
      .descriptorTableWrite (.bench 15 15) (16 - 1) 0x3FFFC 0xFFFFFFFF,
      .personalityCommand (16 - 1) (64 - 1) (16 - 1), .commandTimeDue (16 - 1) (64 - 1),
      .uartTransmit (16 - 1) (64 - 1), .uartGapEnd (16 - 1) (64 - 1), .spiControllerTransaction (16 - 1) (64 - 1) [5],
      .spiTargetFrame (16 - 1) (64 - 1), .i2cTransaction (16 - 1) (64 - 1) { status := 5, read := zeros 112 },
      .hdlcTransmit (16 - 1) (64 - 1), .ppsWindowEnd (16 - 1) (64 - 1), .debounceExpiry (16 - 1) (64 - 1),
      .chatterQuietExpiry (16 - 1) (64 - 1), .supervisedOutputCommand (16 - 1) (64 - 1),
      .supervisionWindowExpiry (16 - 1) (64 - 1), .decimationWindowEnd (16 - 1) (32 - 1) true,
      .coefficientApply (.bench 15 15) (16 - 1) (32 - 1),
      .comparatorThresholdWrite (.bench 15 15) (16 - 1) (64 - 1) true 0xFFFFFFFF,
      .enqueue (.canChannel 15) (2 ^ 20 - 1) (zeros 128), .dequeue (.canChannel 15) (1024 - 1) (16 - 1),
      .heldClear (64 - 1), .endpointFreezeWrite (.bench 15 15) (32 - 1) 0xFFFFFFFF, .cellEccError (196608 - 1) true,
      .queueStateEccError (2 ^ 20 - 1), .queueSnapshot (.bench 15 15) (2 ^ 20 - 1), .scrubBurstRequest (.bench 15 15),
      .scrubBurstEnd, .hostRingEnable (.bench 15 15) (16 - 1) 0xFFFFFFFF, .hostRingDisable (.bench 15 15) (16 - 1),
      .hostRingTailWrite (.bench 15 15) (16 - 1) (2 ^ 16 - 1), .sendDescriptor (16 - 1) (zeros 16) (zeros 128),
      .receiveDescriptor (16 - 1) (zeros 16), .hostMemoryError (16 - 1) true true,
      .fabricWriteIssue (.bench 15 15) .w32 (2 ^ 40 - 1) (2 ^ 64 - 1),
      .fabricReadIssue (.bench 15 15) .w32 (2 ^ 40 - 1), .postedWriteOffer] : List Instr).all (fun i => i.wf) = true := by decide +kernel

theorem test_wf_accepts_d :
    ([.postedWriteTimeout (64 - 1), .bridgeCellApply, .readRequestApply, .readResponseReceived,
      .readTimeout (240 - 1), .timeSnapshot (.bench 15 15),
      .timeMeasurementWrite (.bench 15 15) .b 0xFFFFFFFF 0xFFFFFFFF, .ppsInEdge true, .sourceLossTimeout .b true,
      .holdTraceExpiry .b, .linkDelayExchange .east 7 7, .delayCellReceived, .domainSelectApply (.trigger 7),
      .domainAutoSwitch (.trigger 7), .ppsOutEdge true, .captureNow (.bench 15 15), .triggerTick (8 - 1),
      .frameReceived (8 - 1) 7 [] true, .pauseFrame (8 - 1) 7 (zeros 64), .pauseExpiry (8 - 1), .frameTransmit 9,
      .linkChange (8 - 1) true (4 - 1), .macEnableWrite (.bench 15 15) (8 - 1) true, .gateIntervalChange (8 - 1),
      .gateBankSwap (.bench 15 15) (8 - 1), .gateSwapApply (8 - 1), .ringFrameCell (16 - 1),
      .ringFrameTimeout (64 - 1) (8 - 1), .segmentationGo (.bench 15 15), .segmentationJobEnd,
      .canFrameReceived (16 - 1) 7 frameA, .canTransmitCommand (16 - 1) (16 - 1), .canCommandDue (16 - 1) (8 - 1),
      .canTransmitEnd (16 - 1) 7 .sent, .canBusError (16 - 1) 7 7, .canRecover (.bench 15 15) (16 - 1),
      .busOffRecoveryEnd (16 - 1), .canEnable (.bench 15 15) (16 - 1), .canDisable (.bench 15 15) (16 - 1),
      .busIdleDetected (16 - 1)] : List Instr).all (fun i => i.wf) = true := by decide +kernel

theorem test_wf_accepts_e :
    ([.canReferenceFrameSend (16 - 1), .canRefMasterTimeout (16 - 1), .keepAliveSend (16 - 1),
      .lastCallTimeout (16 - 1), .sleepEntry (16 - 1), .sleepNow (.bench 15 15) (16 - 1), .wakeDominant (16 - 1) 7,
      .wakeFrame (16 - 1) 7 .damaged, .localWake (16 - 1), .twinHealthWrite (.bench 15 15) 0xFFFFFFFF,
      .healthWatchdogExpiry, .claimLost (32 - 1) (2 - 1), .holdoffEnd (32 - 1), .grdSubmit (.bench 15 15) (16 - 1),
      .operateWhole, .operateFirstPart, .operateSecondPart, .heldPartTimeout (64 - 1) (1024 - 1), .claimOverride,
      .guardedRegisterWrite, .keyLoad, .keyErase, .keyStoreWrite (32 - 1), .grdResponseReceived,
      .grdWindowTimeout (16 - 1), .fuseBurn (.bench 15 15), .benchOutOfService, .benchFreezeTimeout (16 - 1),
      .benchReturnToService, .benchReset, .faceReset, .faceResetComplete (16 - 1), .updateBegin,
      .chunkCommit (.bench 15 15) (2 ^ 16 - 1) (2 ^ 13 - 1), .deltaVerify, .updateHandover, .benchHandover (16 - 1),
      .controllerHandover, .trialEnd, .updateCommit] : List Instr).all (fun i => i.wf) = true := by decide +kernel

theorem test_wf_accepts_f :
    ([.updateRollback, .rollbackBenchStep, .updateAbort, .updateRevert,
      .causeLeafClear (.bench 15 15) (32 - 1) 0xFFFFFFFF, .causeEnableWrite (.bench 15 15) (32 - 1) 0xFFFFFFFF,
      .watchdogKick (.bench 15 15), .faultForce (.bench 15 15), .controllerWatchdogExpiry, .faultPairSwap,
      .refclkLoss, .resetN 7 (64 - 1), .warmReset (.bench 15 15), .configLoad (4 - 1), .ringReady,
      .configReload (.bench 15 15), .flashReadPage (.bench 15 15), .flashProgramPage (.bench 15 15),
      .flashEraseSector (.bench 15 15), .flashOperationEnd true, .testUnlock (.bench 15 15) 0xFFFFFFFF,
      .pciePerst true, .coldStart (2 ^ 16 - 1) (2 ^ 16 - 1) (2 ^ 16 - 1), .feedChange true (2 ^ 16 - 1),
      .feedReverse true, .seatingChange true true, .seatingDebounced, .inrushStart, .inrushEnd, .inrushTimeout,
      .gateCheckFail, .gateCheckPass, .shortDetected, .fuseTrip, .thermalTrip (2 ^ 16 - 1), .retryExpiry,
      .pgoodRise (8 - 1) (64 - 1) (4 - 1), .railGapExpiry, .pgoodTimeout, .pgoodLoss (8 - 1)] : List Instr).all (fun i => i.wf) = true := by decide +kernel

theorem test_wf_accepts_g :
    ([.capacitanceMeasured (2 ^ 16 - 1), .gaugeDisagreement, .quietPeriodEnd,
      .holdupReadyChange { mv := 2 ^ 16 - 1, ma := -5 }, .dyingGasp 4, .journalFlushEnd true, .park,
      .permitRequest .bist (256 - 1), .permitReturn .bist (256 - 1), .permitWaitLimit .bist (256 - 1),
      .budgetWrite (.bench 15 15) (64 - 1), .bistGo (.bench 15 15) (16 - 1), .bistEnd (.failed 7 0), .alwaysOnStop,
      .registerRead (.bench 15 15) .w32 0xFFFFFFFF, .pcieLinkChange true, .jtagTapOperation .bypass,
      .journalEraseComplete, .benchReloadComplete (16 - 1), .hubControllerFrameSend (zeros 14) (8 - 1),
      .correctableEccError] : List Instr).all (fun i => i.wf) = true := by decide +kernel

theorem test_wf_refuses_a :
    ([.registerWrite (.bench 16 0) .w32 0xFFFFFFFF (2 ^ 64 - 1),
      .registerWrite (.bench 15 15) .w32 (2 ^ 32) (2 ^ 64 - 1),
      .registerWrite (.bench 15 15) .w32 0xFFFFFFFF (2 ^ 64), .pairLowRead (.bench 16 0) 0xFFFFFFFF,
      .pairLowRead (.bench 15 15) (2 ^ 32), .pairHighRead (.bench 16 0) 0xFFFFFFFF,
      .pairHighRead (.bench 15 15) (2 ^ 32), .pairLowWrite (.bench 16 0) 0xFFFFFFFF 0xFFFFFFFF,
      .pairLowWrite (.bench 15 15) (2 ^ 32) 0xFFFFFFFF, .pairLowWrite (.bench 15 15) 0xFFFFFFFF (2 ^ 32),
      .pairHighWrite (.bench 16 0) 0xFFFFFFFF 0xFFFFFFFF, .pairHighWrite (.bench 15 15) (2 ^ 32) 0xFFFFFFFF,
      .pairHighWrite (.bench 15 15) 0xFFFFFFFF (2 ^ 32), .pcieLongTransaction true true (2 ^ 32) 1 [5],
      .pcieLongTransaction true true 0xFFFFFFFF 1025 [5], .pcieLongTransaction true true 0xFFFFFFFF 1 [2 ^ 32],
      .pcieLongTransaction true true 0xFFFFFFFF 1 [1, 2], .bar2Access true .w32 4096 (2 ^ 64 - 1),
      .bar2Access true .w32 (4096 - 1) (2 ^ 64), .spiRead (2 ^ 32), .spiWrite (2 ^ 32) 0xFFFFFFFF,
      .spiWrite 0xFFFFFFFF (2 ^ 32), .spiOtherCommand 256, .spiCsRelease true 5 0xFFFFFFFF 4 0xFFFFFFFF,
      .spiCsRelease true 4 (2 ^ 32) 4 0xFFFFFFFF, .spiCsRelease true 4 0xFFFFFFFF 5 0xFFFFFFFF,
      .spiCsRelease true 4 0xFFFFFFFF 4 (2 ^ 32), .deskewComplete .east true 4 (1024 - 1) (2 ^ 25 - 1),
      .deskewComplete .east true (4 - 1) 1024 (2 ^ 25 - 1), .deskewComplete .east true (4 - 1) (1024 - 1) (2 ^ 25),
      .slotStart .east 512, .slotArrival .east [], .slotCut .east (slotIn 0 ++ slotIn 0),
      .transitOnlyWrite (.bench 16 0) true, .handoff (.bench 16 0), .reachTimeout .east 64,
      .shotFwDriveWrite (.bench 16 0) (8 - 1) 0xFFFFFFFF, .shotFwDriveWrite (.bench 15 15) 8 0xFFFFFFFF,
      .shotFwDriveWrite (.bench 15 15) (8 - 1) (2 ^ 32), .shotStretchEnd 8] : List Instr).all (fun i => !i.wf) = true := by decide +kernel

theorem test_wf_refuses_b :
    ([.shotStaleTimeout .east 64, .settStart (.bench 16 0) (16 - 1) (64 - 1), .settStart (.bench 15 15) 16 (64 - 1),
      .settStart (.bench 15 15) (16 - 1) 64, .settStop (.bench 16 0) (16 - 1) (64 - 1),
      .settStop (.bench 15 15) 16 (64 - 1), .settStop (.bench 15 15) (16 - 1) 64,
      .settReset (.bench 16 0) (16 - 1) (64 - 1), .settReset (.bench 15 15) 16 (64 - 1),
      .settReset (.bench 15 15) (16 - 1) 64, .groupStart (.bench 16 0) (16 - 1) true,
      .groupStart (.bench 15 15) 16 true, .groupStop (.bench 16 0) (16 - 1) true, .groupStop (.bench 15 15) 16 true,
      .groupReset (.bench 16 0) (16 - 1) true, .groupReset (.bench 15 15) 16 true, .groupCmdAtRound 16,
      .settProgWrite (.bench 16 0) (16 - 1) (64 - 1) (64 - 1) 0xFFFFFFFF,
      .settProgWrite (.bench 15 15) 16 (64 - 1) (64 - 1) 0xFFFFFFFF,
      .settProgWrite (.bench 15 15) (16 - 1) 64 (64 - 1) 0xFFFFFFFF,
      .settProgWrite (.bench 15 15) (16 - 1) (64 - 1) 64 0xFFFFFFFF,
      .settProgWrite (.bench 15 15) (16 - 1) (64 - 1) (64 - 1) (2 ^ 32),
      .settInject (.bench 16 0) (16 - 1) (64 - 1) 0xFFFFFFFF, .settInject (.bench 15 15) 16 (64 - 1) 0xFFFFFFFF,
      .settInject (.bench 15 15) (16 - 1) 64 0xFFFFFFFF, .settInject (.bench 15 15) (16 - 1) (64 - 1) (2 ^ 32),
      .pinEdge 16 (64 - 1) none, .pinEdge (16 - 1) 64 none, .stampLowRead (.bench 16 0) (16 - 1) (64 - 1),
      .stampLowRead (.bench 15 15) 16 (64 - 1), .stampLowRead (.bench 15 15) (16 - 1) 64,
      .scheduledEdgeDue 16 (64 - 1), .scheduledEdgeDue (16 - 1) 64,
      .mboxInWrite (.bench 16 0) (16 - 1) (64 - 1) 0xFFFFFFFF, .mboxInWrite (.bench 15 15) 16 (64 - 1) 0xFFFFFFFF,
      .mboxInWrite (.bench 15 15) (16 - 1) 64 0xFFFFFFFF, .mboxInWrite (.bench 15 15) (16 - 1) (64 - 1) (2 ^ 32),
      .mboxOutRead (.bench 16 0) (16 - 1) (64 - 1), .mboxOutRead (.bench 15 15) 16 (64 - 1),
      .mboxOutRead (.bench 15 15) (16 - 1) 64] : List Instr).all (fun i => !i.wf) = true := by decide +kernel

theorem test_wf_refuses_c :
    ([.controllerIrqRaise 16 (16 - 1) true, .controllerIrqRaise (16 - 1) 16 true, .benchWatchdogExpiry 16,
      .firmwareException 16 (256 - 1), .firmwareException (16 - 1) 256, .jmp 16 (64 - 1) .good,
      .jmp (16 - 1) 64 .good, .wait 16 (64 - 1) .good, .wait (16 - 1) 64 .good, .waitSatisfied 16 (64 - 1),
      .waitSatisfied (16 - 1) 64, .inShift 16 (64 - 1) .good, .inShift (16 - 1) 64 .good, .outShift 16 (64 - 1) .good,
      .outShift (16 - 1) 64 .good, .push 16 (64 - 1) .good, .push (16 - 1) 64 .good, .pull 16 (64 - 1) .good,
      .pull (16 - 1) 64 .good, .mov 16 (64 - 1) .good, .mov (16 - 1) 64 .good, .seti 16 (64 - 1) .good,
      .seti (16 - 1) 64 .good, .addi 16 (64 - 1) .good, .addi (16 - 1) 64 .good, .djnz 16 (64 - 1) .good,
      .djnz (16 - 1) 64 .good, .stamp 16 (64 - 1) .good, .stamp (16 - 1) 64 .good, .armAt 16 (64 - 1) .good,
      .armAt (16 - 1) 64 .good, .shot 16 (64 - 1) .good, .shot (16 - 1) 64 .good, .raise 16 (64 - 1) .good,
      .raise (16 - 1) 64 .good, .cnt 16 (64 - 1) .good, .cnt (16 - 1) 64 .good, .crcb 16 (64 - 1) .good,
      .crcb (16 - 1) 64 .good, .flag 16 (64 - 1) .good] : List Instr).all (fun i => !i.wf) = true := by decide +kernel

theorem test_wf_refuses_d :
    ([.flag (16 - 1) 64 .good, .dir 16 (64 - 1) .good, .dir (16 - 1) 64 .good, .sync 16 (64 - 1) .good,
      .sync (16 - 1) 64 .good, .halt 16 (64 - 1) .good, .halt (16 - 1) 64 .good, .ldt 16 (64 - 1) .good,
      .ldt (16 - 1) 64 .good, .cmpj 16 (64 - 1) .good, .cmpj (16 - 1) 64 .good, .tout 16 (64 - 1) .good,
      .tout (16 - 1) 64 .good, .irqw 16 (64 - 1) .good, .irqw (16 - 1) 64 .good, .reservedOpcode 16 (64 - 1) .good,
      .reservedOpcode (16 - 1) 64 .good, .idleTimeoutExpiry 16 (64 - 1), .idleTimeoutExpiry (16 - 1) 64,
      .descriptorTableWrite (.bench 16 0) (16 - 1) 0x3FFFC 0xFFFFFFFF,
      .descriptorTableWrite (.bench 15 15) 16 0x3FFFC 0xFFFFFFFF,
      .descriptorTableWrite (.bench 15 15) (16 - 1) 0x40000 0xFFFFFFFF,
      .descriptorTableWrite (.bench 15 15) (16 - 1) 2 0xFFFFFFFF,
      .descriptorTableWrite (.bench 15 15) (16 - 1) 0x3FFFC (2 ^ 32), .personalityCommand 16 (64 - 1) (16 - 1),
      .personalityCommand (16 - 1) 64 (16 - 1), .personalityCommand (16 - 1) (64 - 1) 16, .commandTimeDue 16 (64 - 1),
      .commandTimeDue (16 - 1) 64, .uartTransmit 16 (64 - 1), .uartTransmit (16 - 1) 64, .uartGapEnd 16 (64 - 1),
      .uartGapEnd (16 - 1) 64, .spiControllerTransaction 16 (64 - 1) [5], .spiControllerTransaction (16 - 1) 64 [5],
      .spiControllerTransaction (16 - 1) (64 - 1) [2 ^ 32], .spiTargetFrame 16 (64 - 1), .spiTargetFrame (16 - 1) 64,
      .i2cTransaction 16 (64 - 1) { status := 5, read := zeros 112 },
      .i2cTransaction (16 - 1) 64 { status := 5, read := zeros 112 }] : List Instr).all (fun i => !i.wf) = true := by decide +kernel

theorem test_wf_refuses_e :
    ([.i2cTransaction (16 - 1) (64 - 1) { status := 6 }, .i2cTransaction (16 - 1) (64 - 1) { read := zeros 113 },
      .hdlcTransmit 16 (64 - 1), .hdlcTransmit (16 - 1) 64, .ppsWindowEnd 16 (64 - 1), .ppsWindowEnd (16 - 1) 64,
      .debounceExpiry 16 (64 - 1), .debounceExpiry (16 - 1) 64, .chatterQuietExpiry 16 (64 - 1),
      .chatterQuietExpiry (16 - 1) 64, .supervisedOutputCommand 16 (64 - 1), .supervisedOutputCommand (16 - 1) 64,
      .supervisionWindowExpiry 16 (64 - 1), .supervisionWindowExpiry (16 - 1) 64,
      .decimationWindowEnd 16 (32 - 1) true, .decimationWindowEnd (16 - 1) 32 true,
      .coefficientApply (.bench 16 0) (16 - 1) (32 - 1), .coefficientApply (.bench 15 15) 16 (32 - 1),
      .coefficientApply (.bench 15 15) (16 - 1) 32,
      .comparatorThresholdWrite (.bench 16 0) (16 - 1) (64 - 1) true 0xFFFFFFFF,
      .comparatorThresholdWrite (.bench 15 15) 16 (64 - 1) true 0xFFFFFFFF,
      .comparatorThresholdWrite (.bench 15 15) (16 - 1) 64 true 0xFFFFFFFF,
      .comparatorThresholdWrite (.bench 15 15) (16 - 1) (64 - 1) true (2 ^ 32),
      .enqueue (.canChannel 16) (2 ^ 20 - 1) (zeros 128), .enqueue (.canChannel 15) (2 ^ 20) (zeros 128),
      .enqueue (.canChannel 15) (2 ^ 20 - 1) (zeros 129), .dequeue (.canChannel 16) (1024 - 1) (16 - 1),
      .dequeue (.canChannel 15) 1024 (16 - 1), .dequeue (.canChannel 15) (1024 - 1) 16, .heldClear 64,
      .endpointFreezeWrite (.bench 16 0) (32 - 1) 0xFFFFFFFF, .endpointFreezeWrite (.bench 15 15) 32 0xFFFFFFFF,
      .endpointFreezeWrite (.bench 15 15) (32 - 1) (2 ^ 32), .cellEccError 196608 true, .queueStateEccError (2 ^ 20),
      .queueSnapshot (.bench 16 0) (2 ^ 20 - 1), .queueSnapshot (.bench 15 15) (2 ^ 20),
      .scrubBurstRequest (.bench 16 0), .hostRingEnable (.bench 16 0) (16 - 1) 0xFFFFFFFF,
      .hostRingEnable (.bench 15 15) 16 0xFFFFFFFF] : List Instr).all (fun i => !i.wf) = true := by decide +kernel

theorem test_wf_refuses_f :
    ([.hostRingEnable (.bench 15 15) (16 - 1) (2 ^ 32), .hostRingDisable (.bench 16 0) (16 - 1),
      .hostRingDisable (.bench 15 15) 16, .hostRingTailWrite (.bench 16 0) (16 - 1) (2 ^ 16 - 1),
      .hostRingTailWrite (.bench 15 15) 16 (2 ^ 16 - 1), .hostRingTailWrite (.bench 15 15) (16 - 1) (2 ^ 16),
      .sendDescriptor 16 (zeros 16) (zeros 128), .sendDescriptor (16 - 1) (zeros 15) (zeros 128),
      .sendDescriptor (16 - 1) (zeros 16) (zeros 127), .receiveDescriptor 16 (zeros 16),
      .receiveDescriptor (16 - 1) (zeros 15), .hostMemoryError 16 true true,
      .fabricWriteIssue (.bench 16 0) .w32 (2 ^ 40 - 1) (2 ^ 64 - 1),
      .fabricWriteIssue (.bench 15 15) .w32 (2 ^ 40) (2 ^ 64 - 1),
      .fabricWriteIssue (.bench 15 15) .w32 (2 ^ 40 - 1) (2 ^ 64), .fabricReadIssue (.bench 16 0) .w32 (2 ^ 40 - 1),
      .fabricReadIssue (.bench 15 15) .w32 (2 ^ 40), .postedWriteTimeout 64, .readTimeout 240,
      .timeSnapshot (.bench 16 0), .timeMeasurementWrite (.bench 16 0) .b 0xFFFFFFFF 0xFFFFFFFF,
      .timeMeasurementWrite (.bench 15 15) .b (2 ^ 32) 0xFFFFFFFF,
      .timeMeasurementWrite (.bench 15 15) .b 0xFFFFFFFF (2 ^ 32), .domainSelectApply (.trigger 8),
      .domainAutoSwitch (.trigger 8), .captureNow (.bench 16 0), .triggerTick 8, .frameReceived 8 7 [] true,
      .pauseFrame 8 7 (zeros 64), .pauseFrame (8 - 1) 7 (zeros 63), .pauseExpiry 8, .frameTransmit 8,
      .linkChange 8 true (4 - 1), .linkChange (8 - 1) true 4, .macEnableWrite (.bench 16 0) (8 - 1) true,
      .macEnableWrite (.bench 15 15) 8 true, .gateIntervalChange 8, .gateBankSwap (.bench 16 0) (8 - 1),
      .gateBankSwap (.bench 15 15) 8, .gateSwapApply 8] : List Instr).all (fun i => !i.wf) = true := by decide +kernel

theorem test_wf_refuses_g :
    ([.ringFrameCell 16, .ringFrameTimeout 64 (8 - 1), .ringFrameTimeout (64 - 1) 8, .segmentationGo (.bench 16 0),
      .canFrameReceived 16 7 frameA, .canFrameReceived (16 - 1) 7 { frameA with id := 2048 },
      .canFrameReceived (16 - 1) 7 { frameA with dlc := 3 },
      .canFrameReceived (16 - 1) 7 { frameA with rtr := true, fdf := true }, .canTransmitCommand 16 (16 - 1),
      .canTransmitCommand (16 - 1) 16, .canCommandDue 16 (8 - 1), .canCommandDue (16 - 1) 8,
      .canTransmitEnd 16 7 .sent, .canBusError 16 7 7, .canRecover (.bench 16 0) (16 - 1),
      .canRecover (.bench 15 15) 16, .busOffRecoveryEnd 16, .canEnable (.bench 16 0) (16 - 1),
      .canEnable (.bench 15 15) 16, .canDisable (.bench 16 0) (16 - 1), .canDisable (.bench 15 15) 16,
      .busIdleDetected 16, .canReferenceFrameSend 16, .canRefMasterTimeout 16, .keepAliveSend 16, .lastCallTimeout 16,
      .sleepEntry 16, .sleepNow (.bench 16 0) (16 - 1), .sleepNow (.bench 15 15) 16, .wakeDominant 16 7,
      .wakeFrame 16 7 .damaged, .wakeFrame (16 - 1) 7 (.frame { id := 2048 }), .localWake 16,
      .twinHealthWrite (.bench 16 0) 0xFFFFFFFF, .twinHealthWrite (.bench 15 15) (2 ^ 32), .claimLost 32 (2 - 1),
      .claimLost (32 - 1) 2, .holdoffEnd 32, .grdSubmit (.bench 16 0) (16 - 1), .grdSubmit (.bench 15 15) 16] : List Instr).all (fun i => !i.wf) = true := by decide +kernel

theorem test_wf_refuses_h :
    ([.heldPartTimeout 64 (1024 - 1), .heldPartTimeout (64 - 1) 1024, .keyStoreWrite 32, .grdWindowTimeout 16,
      .fuseBurn (.bench 16 0), .benchFreezeTimeout 16, .faceResetComplete 16,
      .chunkCommit (.bench 16 0) (2 ^ 16 - 1) (2 ^ 13 - 1), .chunkCommit (.bench 15 15) (2 ^ 16) (2 ^ 13 - 1),
      .chunkCommit (.bench 15 15) (2 ^ 16 - 1) (2 ^ 13), .benchHandover 16,
      .causeLeafClear (.bench 16 0) (32 - 1) 0xFFFFFFFF, .causeLeafClear (.bench 15 15) 32 0xFFFFFFFF,
      .causeLeafClear (.bench 15 15) (32 - 1) (2 ^ 32), .causeEnableWrite (.bench 16 0) (32 - 1) 0xFFFFFFFF,
      .causeEnableWrite (.bench 15 15) 32 0xFFFFFFFF, .causeEnableWrite (.bench 15 15) (32 - 1) (2 ^ 32),
      .watchdogKick (.bench 16 0), .faultForce (.bench 16 0), .resetN 7 64, .warmReset (.bench 16 0), .configLoad 4,
      .configReload (.bench 16 0), .flashReadPage (.bench 16 0), .flashProgramPage (.bench 16 0),
      .flashEraseSector (.bench 16 0), .testUnlock (.bench 16 0) 0xFFFFFFFF, .testUnlock (.bench 15 15) (2 ^ 32),
      .coldStart (2 ^ 16) (2 ^ 16 - 1) (2 ^ 16 - 1), .coldStart (2 ^ 16 - 1) (2 ^ 16) (2 ^ 16 - 1),
      .coldStart (2 ^ 16 - 1) (2 ^ 16 - 1) (2 ^ 16), .feedChange true (2 ^ 16), .thermalTrip (2 ^ 16),
      .pgoodRise 8 (64 - 1) (4 - 1), .pgoodRise (8 - 1) 64 (4 - 1), .pgoodRise (8 - 1) (64 - 1) 4, .pgoodLoss 8,
      .capacitanceMeasured (2 ^ 16), .holdupReadyChange { mv := 2 ^ 16, ma := -5 }, .dyingGasp 0] : List Instr).all (fun i => !i.wf) = true := by decide +kernel

theorem test_wf_refuses_i :
    ([.dyingGasp 5, .permitRequest .bist 256, .permitReturn .bist 256, .permitWaitLimit .bist 256,
      .budgetWrite (.bench 16 0) (64 - 1), .budgetWrite (.bench 15 15) 64, .bistGo (.bench 16 0) (16 - 1),
      .bistGo (.bench 15 15) 16, .bistEnd (.failed 0 0), .bistEnd (.failed 8 0),
      .registerRead (.bench 16 0) .w32 0xFFFFFFFF, .registerRead (.bench 15 15) .w32 (2 ^ 32),
      .benchReloadComplete 16, .hubControllerFrameSend (zeros 13) (8 - 1),
      .hubControllerFrameSend (zeros 9213) (8 - 1), .hubControllerFrameSend (zeros 14) 8,
      .registerRead (.bench 0 16) .w32 0, .registerRead (.remote 64 0 0) .w32 0,
      .registerRead (.remote 0 256 0) .w32 0, .registerRead (.remote 0 0 16) .w32 0, .enqueue (.personality 16) 0 [],
      .enqueue (.hostRing 16) 0 [], .enqueue (.dresser 16 0) 0 [], .enqueue (.dresser 0 4) 0 [],
      .domainSelectApply (.bench 16), .domainSelectApply (.ethPort 8), .canFrameReceived 0 0 { brs := true },
      .canFrameReceived 0 0 { dlc := 16 }] : List Instr).all (fun i => !i.wf) = true := by decide +kernel

/-! Every hypothesis of a statement is met: for each clause with hypotheses, operands and a state that meet them. -/

theorem test_witness_SettDataInstructions :
    (∃ (s : State) (b : Nat) (k : Nat) (w : Nat),
     s.down .bench = false ∧ s.atWord b k 0x07 w) ∧
    (∃ (s : State) (b : Nat) (k : Nat) (w : Nat),
     s.down .bench = false ∧ s.atWord b k 0x08 w) ∧
    (∃ (s : State) (b : Nat) (k : Nat) (w : Nat),
     s.down .bench = false ∧ s.atWord b k 0x06 w ∧ natBits w 15 12 ≠ 7 ∧ ((natBits w 15 12 = 5 → s.pinsDefined b k))) ∧
    (∃ (s : State) (b : Nat) (k : Nat) (w : Nat),
     s.down .bench = false ∧ s.atWord b k 0x0E w) ∧
    (∃ (s : State) (b : Nat) (k : Nat) (w : Nat),
     s.down .bench = false ∧ s.atWord b k 0x0F w) ∧
    (∃ (s : State) (b : Nat) (k : Nat) (w : Nat),
     s.down .bench = false ∧ s.atWord b k 0x14 w) ∧
    (∃ (s : State) (b : Nat) (k : Nat) (w : Nat),
     let r := natBits w 19 18
     s.down .bench = false ∧ s.atWord b k 0x10 w ∧ ((r = 3 → s.pinsDefined b k))) :=
  ⟨⟨(stands 15 63 (ins 7 196607)), 15, 63, ins 7 196607, by decide +kernel⟩,
   ⟨(stands 15 63 (ins 8 327679)), 15, 63, ins 8 327679, by decide +kernel⟩,
   ⟨(stands 15 63 (ins 6 23040)), 15, 63, ins 6 23040, by decide +kernel⟩,
   ⟨(stands 15 63 (ins 14 786432)), 15, 63, ins 14 786432, by decide +kernel⟩,
   ⟨(stands 15 63 (ins 15 393223)), 15, 63, ins 15 393223, by decide +kernel⟩,
   ⟨(stands 15 63 (ins 20 327935)), 15, 63, ins 20 327935, by decide +kernel⟩,
   ⟨(stands 15 63 (ins 16 917760)), 15, 63, ins 16 917760, by decide +kernel⟩⟩

theorem test_witness_SettShiftInstructions :
    (∃ (s : State) (b : Nat) (k : Nat) (w : Nat),
     s.down .bench = false ∧ s.atWord b k 0x02 w ∧ ((natBits w 19 17 = 0 → s.pinsDefined b k))) ∧
    (∃ (s : State) (b : Nat) (k : Nat) (w : Nat),
     s.down .bench = false ∧ s.atWord b k 0x03 w ∧ 2 ≤ natBits w 19 17) ∧
    (∃ (s : State) (b : Nat) (k : Nat) (w : Nat),
     let t := s.sett b k
     s.down .bench = false ∧ s.atWord b k 0x04 w ∧ t.outbox.length < 4) ∧
    (∃ (s : State) (b : Nat) (k : Nat) (w : Nat),
     let t := s.sett b k
     ∃ v rest,
     s.down .bench = false ∧ s.atWord b k 0x05 w ∧ t.inbox = v :: rest) ∧
    (∃ (s : State) (b : Nat) (k : Nat) (w : Nat),
     let t := s.sett b k
     s.down .bench = false ∧ s.atWord b k 0x05 w ∧ t.inbox = [] ∧ natBit w 19 = true) ∧
    (∃ (s : State) (b : Nat) (k : Nat) (w : Nat),
     let t := s.sett b k
     s.down .bench = false ∧ s.atWord b k 0x04 w ∧ t.outbox.length = 4 ∧ natBit w 19 = true) :=
  ⟨⟨(stands 15 63 (ins 2 98307)), 15, 63, ins 2 98307, by decide +kernel⟩,
   ⟨(stands 15 63 (ins 3 409601)), 15, 63, ins 3 409601, by decide +kernel⟩,
   ⟨(stands 15 63 (ins 4 0)), 15, 63, ins 4 0, by decide +kernel⟩,
   ⟨(stands 15 63 (ins 5 0) { setB with inbox := [7, 8] }), 15, 63, ins 5 0, 7, [8], by decide +kernel⟩,
   ⟨(stands 15 63 (ins 5 524288)), 15, 63, ins 5 524288, by decide +kernel⟩,
   ⟨(stands 15 63 (ins 4 524288) { setB with outbox := [1, 2, 3, 4] }), 15, 63, ins 4 524288, by decide +kernel⟩⟩

theorem test_witness_SettBranchInstructions :
    (∃ (s : State) (b : Nat) (k : Nat) (w : Nat),
     s.down .bench = false ∧ s.atWord b k 0x00 w ∧ (((natBits w 19 16 = 7 ∨ natBits w 19 16 = 8) → s.pinsDefined b k))) ∧
    (∃ (s : State) (b : Nat) (k : Nat) (w : Nat),
     s.down .bench = false ∧ s.atWord b k 0x09 w) ∧
    (∃ (s : State) (b : Nat) (k : Nat) (w : Nat),
     s.down .bench = false ∧ s.atWord b k 0x15 w) :=
  ⟨⟨(stands 15 63 (ins 0 63)), 15, 63, ins 0 63, by decide +kernel⟩,
   ⟨(stands 15 63 (ins 9 262207) { setB with y := 1 }), 15, 63, ins 9 262207, by decide +kernel⟩,
   ⟨(stands 15 63 (ins 21 1048575)), 15, 63, ins 21 1048575, by decide +kernel⟩⟩

theorem test_witness_SettPinAndEventInstructions :
    (∃ (s : State) (b : Nat) (k : Nat) (w : Nat),
     let n := bitCount w
     let drives (p : Nat) : Prop := s.owner b p = k % 4 ∧ s.driveEnabled b p = true
     let noEdge (p : Nat) : Prop := (s.pinOf b p).edgeAt ≠ some s.time.cycles
     s.down .bench = false ∧ s.is F.BNCH_STATUS_out_of_service [b] = false ∧ s.atWord b k 0x03 w ∧ natBits w 19 17 ≤ 1 ∧ ((∀ i, i < n → drives (quadPin k (natBits w 16 15 + i)))) ∧ ((natBits w 19 17 = 0 → ∀ i, i < n → noEdge (quadPin k (natBits w 16 15 + i))))) ∧
    (∃ (s : State) (b : Nat) (k : Nat) (w : Nat),
     let drives (p : Nat) : Prop := s.owner b p = k % 4 ∧ s.driveEnabled b p = true
     s.down .bench = false ∧ s.is F.BNCH_STATUS_out_of_service [b] = false ∧ s.atWord b k 0x11 w ∧ ((∀ j, j < 4 → natBit w (16 + j) = true → drives (quadPin k j)))) ∧
    (∃ (s : State) (b : Nat) (k : Nat) (w : Nat),
     let t := s.sett b k
     let drives (p : Nat) : Prop := s.owner b p = k % 4 ∧ s.driveEnabled b p = true
     let noEdge (p : Nat) : Prop := (s.pinOf b p).edgeAt ≠ some s.time.cycles
     s.down .bench = false ∧ s.is F.BNCH_STATUS_out_of_service [b] = false ∧ t.phase = .running ∧ t.inject = none ∧ t.contended = false ∧ s.rd .SETT_PROG [b, k, t.pc] = w ∧ insOp w = 0x07 ∧ s.wordTrap b k w = none ∧ ((∀ j, j < 4 → drives (quadPin k j) ∧ noEdge (quadPin k j)))) ∧
    (∃ (s : State) (b : Nat) (k : Nat) (w : Nat),
     s.down .bench = false ∧ s.atWord b k 0x0C w ∧ s.settMayDrive b (natBits w 2 0) = true) ∧
    (∃ (s : State) (b : Nat) (k : Nat) (w : Nat),
     s.down .bench = false ∧ s.atWord b k 0x0C w ∧ s.settMayDrive b (natBits w 2 0) = false ∧ b < 16) ∧
    (∃ (s : State) (b : Nat) (k : Nat) (w : Nat),
     s.down .bench = false ∧ s.atWord b k 0x0D w) ∧
    (∃ (s : State) (b : Nat) (k : Nat) (w : Nat),
     let t := s.sett b k
     s.down .bench = false ∧ s.atWord b k 0x17 w ∧ natBit t.latches (natBits w 3 0) = true) ∧
    (∃ (s : State) (b : Nat) (k : Nat) (w : Nat),
     s.down .bench = false ∧ s.atWord b k 0x12 w ∧ k < 64 ∧ ((∀ m, m < 64 → m ≠ k → s.syncMember b (natBits w 1 0) m = true → (s.sett b m).phase ≠ .running ∧ (s.sett b m).phase ≠ .waiting))) ∧
    (∃ (s : State) (b : Nat) (k : Nat) (w : Nat),
     ∃ m,
     s.down .bench = false ∧ s.atWord b k 0x12 w ∧ m < 64 ∧ m ≠ k ∧ s.syncMember b (natBits w 1 0) m = true ∧ (s.sett b m).phase = .running) ∧
    (∃ (s : State) (b : Nat) (k : Nat) (w : Nat),
     s.down .bench = false ∧ s.atWord b k 0x13 w) :=
  ⟨⟨quadOwned (stands 15 63 (ins 3 114692)) 15 63, 15, 63, ins 3 114692, by decide +kernel⟩,
   ⟨quadOwned (stands 15 63 (ins 17 1024000)) 15 63, 15, 63, ins 17 1024000, by decide +kernel⟩,
   ⟨(quadOwned (stands 15 63 (ins 7 5 + 10 * 2 ^ 20)) 15 63).wr .SETT_SIDE [15, 63] 0xE4, 15, 63, ins 7 5 + 10 * 2 ^ 20, by decide +kernel⟩,
   ⟨(stands 15 63 (ins 12 524295)).set F.SHOT_LINE_CFG_bench_mask [7] 0x8000, 15, 63, ins 12 524295, by decide +kernel⟩,
   ⟨(stands 15 63 (ins 12 524288)), 15, 63, ins 12 524288, by decide +kernel⟩,
   ⟨(stands 15 63 (ins 13 262159)), 15, 63, ins 13 262159, by decide +kernel⟩,
   ⟨(stands 15 63 (ins 23 15) { setB with latches := 0x8000 }), 15, 63, ins 23 15, by decide +kernel⟩,
   ⟨(stands 15 63 (ins 18 3)).wr .BNCH_SYNC_MASK_HI [15, 3] 0x80000000, 15, 63, ins 18 3, by decide +kernel⟩,
   ⟨((stands 15 63 (ins 18 3)).wr .BNCH_SYNC_MASK_HI [15, 3] 0xC0000000).setSett 15 62 setB, 15, 63, ins 18 3, 62, by decide +kernel⟩,
   ⟨(stands 15 63 (ins 19 0)), 15, 63, ins 19 0, by decide +kernel⟩⟩

theorem test_witness_SettTimeInstructions :
    (∃ (s : State) (b : Nat) (k : Nat) (w : Nat),
     let t := s.sett b k
     s.down .bench = false ∧ s.atWord b k 0x0A w ∧ ((natBits w 19 18 = 0 ∨ (natBits w 19 18 = 2 ∧ t.unread = true)))) ∧
    (∃ (s : State) (b : Nat) (k : Nat) (w : Nat),
     let t := s.sett b k
     s.down .bench = false ∧ s.atWord b k 0x0A w ∧ natBits w 19 18 = 1 ∧ t.outbox.length ≤ 2) ∧
    (∃ (s : State) (b : Nat) (k : Nat) (w : Nat),
     s.down .bench = false ∧ s.atWord b k 0x06 w ∧ natBits w 15 12 = 7 ∧ natBits w 19 16 = 0) ∧
    (∃ (s : State) (b : Nat) (k : Nat) (w : Nat),
     let t := s.sett b k
     s.down .bench = false ∧ s.atWord b k 0x0B w ∧ natBits w 16 15 = 1 ∧ t.edges = []) ∧
    (∃ (s : State) (b : Nat) (k : Nat) (w : Nat),
     let t := s.sett b k
     s.down .bench = false ∧ s.atWord b k 0x16 w ∧ ((t.timeout.isSome = true ∨ entriesUsed t < 2))) ∧
    (∃ (s : State) (b : Nat) (k : Nat) (w : Nat),
     s.down .bench = false ∧ s.atWord b k 0x01 w ∧ 2 ≤ natBits w 19 16 ∧ natBits w 19 16 ≤ 6) ∧
    (∃ (s : State) (b : Nat) (k : Nat) (w : Nat),
     let t := s.sett b k
     s.down .bench = false ∧ s.atWord b k 0x01 w ∧ natBits w 19 16 = 7 ∧ natBits w 1 0 = 1 ∧ 0 < (if natBit w 2 then t.y else t.x) % 2 ^ 32) ∧
    (∃ (s : State) (b : Nat) (k : Nat),
     let t := s.sett b k
     ∃ x,
     s.down .bench = false ∧ t.phase = .waiting ∧ t.wait = some x ∧ x.met = true ∧ x.injected = false ∧ x.back = .running ∧ t.inject = none ∧ t.contended = false ∧ insOp x.word = 0x01) ∧
    (∃ (s : State) (b : Nat) (k : Nat),
     let t := s.sett b k
     ∃ e,
     s.down .bench = false ∧ t.edges = [e] ∧ e.t ≤ (s.now e.dom : Int) ∧ t.contended = false ∧ s.wavesOf b k = [] ∧ s.is F.BNCH_STATUS_out_of_service [b] = false ∧ s.owner b (quadPin k e.pin) = k % 4 ∧ s.driveEnabled b (quadPin k e.pin) = true) :=
  ⟨⟨(stands 15 63 (ins 10 0) { setB with capture := some { lo := 0xDEADBEEF, hi := 5, rising := true, t := 0, dom := .a }, missed := true, unread := true }), 15, 63, ins 10 0, by decide +kernel⟩,
   ⟨(stands 15 63 (ins 10 262144) { setB with capture := some { lo := 0xDEADBEEF, hi := 5, rising := true, t := 0, dom := .a }, missed := true, unread := true, outbox := [1, 2] }), 15, 63, ins 10 262144, by decide +kernel⟩,
   ⟨(stands 15 63 (ins 6 28672) { setB with capture := some { lo := 0xDEADBEEF, hi := 5, rising := true, t := 0, dom := .a }, missed := true, unread := true }), 15, 63, ins 6 28672, by decide +kernel⟩,
   ⟨(stands 15 63 (ins 11 966656)), 15, 63, ins 11 966656, by decide +kernel⟩,
   ⟨(stands 15 63 (ins 22 1040383)), 15, 63, ins 22 1040383, by decide +kernel⟩,
   ⟨(stands 15 63 (ins 1 163841)), 15, 63, ins 1 163841, by decide +kernel⟩,
   ⟨(stands 15 63 (ins 1 458757)), 15, 63, ins 1 458757, by decide +kernel⟩,
   ⟨stands 15 63 0 { setB with phase := .waiting, wait := some { word := ins 1 0, met := true } }, 15, 63, { word := ins 1 0, met := true }, by decide +kernel⟩,
   ⟨quadOwned (stands 15 63 0 { setB with edges := [{ pin := 2, level := true, t := 0, dom := .b }] }) 15 63, 15, 63, { pin := 2, level := true, t := 0, dom := .b }, by decide +kernel⟩⟩

theorem test_witness_SettTrapsAndControl :
    (∃ (s : State) (b : Nat) (k : Nat),
     let t := s.sett b k
     let w := s.rd .SETT_PROG [b, k, t.pc]
     ∃ c,
     s.down .bench = false ∧ b < 16 ∧ t.phase = .running ∧ t.inject = none ∧ s.wordTrap b k w = some c) ∧
    (∃ (s : State) (b : Nat) (k : Nat),
     let t := s.sett b k
     s.down .bench = false ∧ b < 16 ∧ t.phase = .running ∧ t.inject = none) ∧
    (∃ (s : State) (b : Nat) (k : Nat),
     let t := s.sett b k
     let w := s.rd .SETT_PROG [b, k, t.pc]
     s.down .bench = false ∧ b < 16 ∧ s.atWord b k 0x07 w) ∧
    (∃ (s : State) (b : Nat),
     ∃ v,
     s.down .bench = false ∧ b < 16 ∧ natBits v 31 27 ≥ 0x18) ∧
    (∃ (s : State) (p : Path) (b : Nat) (k : Nat) (n : Nat),
     let t := s.sett b k
     let word (bits : Nat) := s.merged p .SETT_CTRL [b, k] 7 bits
     b < 16 ∧ k < 64 ∧ n < 64 ∧ s.admits p .SETT_CTRL [b, k] (word 1) ∧ t.phase = .stopped) ∧
    (∃ (s : State) (p : Path) (b : Nat) (k : Nat) (n : Nat),
     let t := s.sett b k
     let word (bits : Nat) := s.merged p .SETT_CTRL [b, k] 7 bits
     b < 16 ∧ k < 64 ∧ n < 64 ∧ s.admits p .SETT_CTRL [b, k] (word 1) ∧ t.phase = .halted) ∧
    (∃ (s : State) (p : Path) (b : Nat) (k : Nat) (n : Nat),
     let t := s.sett b k
     let word (bits : Nat) := s.merged p .SETT_CTRL [b, k] 7 bits
     b < 16 ∧ k < 64 ∧ n < 64 ∧ s.admits p .SETT_CTRL [b, k] (word 2) ∧ ((t.phase = .running ∨ t.phase = .waiting))) ∧
    (∃ (s : State) (p : Path) (b : Nat) (k : Nat) (n : Nat),
     let word (bits : Nat) := s.merged p .SETT_CTRL [b, k] 7 bits
     b < 16 ∧ k < 64 ∧ n < 64 ∧ s.admits p .SETT_CTRL [b, k] (word 4)) ∧
    (∃ (s : State) (p : Path) (b : Nat) (k : Nat) (n : Nat) (val : Nat),
     b < 16 ∧ k < 64 ∧ n < 64 ∧ s.admits p .SETT_PROG [b, k, n] val ∧ val < 2 ^ 32) ∧
    (∃ (s : State) (p : Path) (b : Nat) (k : Nat) (n : Nat) (val : Nat),
     let t := s.sett b k
     b < 16 ∧ k < 64 ∧ n < 64 ∧ s.admits p .SETT_INJECT [b, k] val ∧ val < 2 ^ 32 ∧ t.phase ≠ .reset ∧ t.phase ≠ .trapped ∧ t.inject = none) :=
  ⟨⟨stands 15 63 (ins 24 0), 15, 63, 1, by decide +kernel⟩,
   ⟨stands 0 0 0, 0, 0, by decide +kernel⟩,
   ⟨stands 15 63 (ins 7 5), 15, 63, by decide +kernel⟩,
   ⟨rs, 0, 24 * 2 ^ 27, by decide +kernel⟩,
   ⟨(ready.setSett 15 63 { setB with phase := .stopped }).set F.SETT_CTRL_start_pc [15, 63] 63, .hubController, 15, 63, 63, by decide +kernel⟩,
   ⟨ready.setSett 15 63 { setB with phase := .halted }, .pcie, 15, 63, 63, by decide +kernel⟩,
   ⟨stands 15 63 0, .hubController, 15, 63, 0, by decide +kernel⟩,
   ⟨stands 15 0 0 { setB with inbox := [1], outbox := [2] }, .hubController, 15, 0, 0, by decide +kernel⟩,
   ⟨ready.setSett 15 63 { setB with phase := .stopped }, .hubController, 15, 63, 63, 0xFFFFFFFF, by decide +kernel⟩,
   ⟨ready.setSett 15 63 { setB with phase := .waiting }, .hubController, 15, 63, 63, 0xFFFFFFFF, by decide +kernel⟩⟩

theorem test_witness_SettGroupsAndMailboxes :
    (∃ (s : State) (p : Path) (b : Nat),
     s.down .bench = false ∧ b < 16 ∧ s.admits p .BNCH_GROUP_CMD [b] 1) ∧
    (∃ (s : State) (p : Path) (b : Nat),
     s.down .bench = false ∧ b < 16 ∧ s.admits p .BNCH_GROUP_CMD [b] 2) ∧
    (∃ (s : State) (p : Path) (b : Nat),
     s.down .bench = false ∧ b < 16 ∧ s.admits p .BNCH_GROUP_CMD [b] 3 ∧ (s.benchOf b).reloading = false) ∧
    (∃ (s : State) (p : Path) (b : Nat),
     s.down .bench = false ∧ b < 16 ∧ s.admits p .BNCH_GROUP_CMD [b] 5) ∧
    (∃ (s : State) (p : Path) (b : Nat),
     s.down .bench = false ∧ b < 16 ∧ s.admits p .BNCH_GROUP_CMD [b] 6) ∧
    (∃ (s : State) (p : Path) (b : Nat),
     s.down .bench = false ∧ b < 16 ∧ s.admits p .BNCH_GROUP_CMD [b] 7) ∧
    (∃ (s : State) (b : Nat),
     s.down .bench = false ∧ b < 16 ∧ (s.benchOf b).atRound = some 1) ∧
    (∃ (s : State) (b : Nat),
     s.down .bench = false ∧ b < 16 ∧ (s.benchOf b).atRound = some 2) ∧
    (∃ (s : State) (b : Nat),
     s.down .bench = false ∧ b < 16 ∧ (s.benchOf b).atRound = some 3 ∧ (s.benchOf b).reloading = false) ∧
    (∃ (s : State) (p : Path) (b : Nat) (k : Nat),
     let t := s.sett b k
     ∃ val,
     s.down .bench = false ∧ b < 16 ∧ k < 64 ∧ s.admits p .SETT_MBOX_IN [b, k] val ∧ val < 2 ^ 32 ∧ t.inbox.length < 4) ∧
    (∃ (s : State) (p : Path) (b : Nat) (k : Nat),
     let t := s.sett b k
     ∃ v rest,
     s.down .bench = false ∧ b < 16 ∧ k < 64 ∧ s.admitsRead p .SETT_MBOX_OUT [b, k] ∧ t.outbox = v :: rest) ∧
    (∃ (s : State) (p : Path) (b : Nat) (k : Nat),
     let t := s.sett b k
     s.down .bench = false ∧ b < 16 ∧ k < 64 ∧ s.admitsRead p .SETT_MBOX_OUT [b, k] ∧ t.outbox = []) ∧
    (∃ (s : State) (p : Path) (b : Nat) (k : Nat),
     s.down .bench = false ∧ b < 16 ∧ k < 64 ∧ s.admitsRead p .SETT_STAMP_LO [b, k]) ∧
    (∃ (s : State) (b : Nat) (k : Nat),
     ∃ line,
     s.down .bench = false ∧ b < 16 ∧ k < 64 ∧ line < 16) ∧
    (∃ (s : State) (b : Nat) (k : Nat),
     ∃ line,
     s.down .bench = false ∧ b < 16 ∧ k < 64 ∧ line < 16) :=
  ⟨⟨(((ready.wr .BNCH_GROUP_MASK_LO [15] 1).wr .BNCH_GROUP_MASK_HI [15] 0x80000000).setSett 15 0 { setB with phase := .stopped }).setSett 15 63 { setB with phase := .stopped }, .hubController, 15, by decide +kernel⟩,
   ⟨(((ready.wr .BNCH_GROUP_MASK_LO [15] 1).wr .BNCH_GROUP_MASK_HI [15] 0x80000000).setSett 15 0 { setB with phase := .running }).setSett 15 63 { setB with phase := .running }, .hubController, 15, by decide +kernel⟩,
   ⟨(((ready.wr .BNCH_GROUP_MASK_LO [15] 1).wr .BNCH_GROUP_MASK_HI [15] 0x80000000).setSett 15 0 { setB with phase := .running }).setSett 15 63 { setB with phase := .running }, .hubController, 15, by decide +kernel⟩,
   ⟨(((ready.wr .BNCH_GROUP_MASK_LO [15] 1).wr .BNCH_GROUP_MASK_HI [15] 0x80000000).setSett 15 0 { setB with phase := .stopped }).setSett 15 63 { setB with phase := .stopped }, .hubController, 15, by decide +kernel⟩,
   ⟨(((ready.wr .BNCH_GROUP_MASK_LO [15] 1).wr .BNCH_GROUP_MASK_HI [15] 0x80000000).setSett 15 0 { setB with phase := .running }).setSett 15 63 { setB with phase := .running }, .hubController, 15, by decide +kernel⟩,
   ⟨(((ready.wr .BNCH_GROUP_MASK_LO [15] 1).wr .BNCH_GROUP_MASK_HI [15] 0x80000000).setSett 15 0 { setB with phase := .running }).setSett 15 63 { setB with phase := .running }, .hubController, 15, by decide +kernel⟩,
   ⟨((((ready.wr .BNCH_GROUP_MASK_LO [15] 1).wr .BNCH_GROUP_MASK_HI [15] 0x80000000).setSett 15 0 { setB with phase := .stopped }).setSett 15 63 { setB with phase := .stopped }).setBench 15 { atRound := some 1 }, 15, by decide +kernel⟩,
   ⟨((((ready.wr .BNCH_GROUP_MASK_LO [15] 1).wr .BNCH_GROUP_MASK_HI [15] 0x80000000).setSett 15 0 { setB with phase := .running }).setSett 15 63 { setB with phase := .running }).setBench 15 { atRound := some 2 }, 15, by decide +kernel⟩,
   ⟨((((ready.wr .BNCH_GROUP_MASK_LO [15] 1).wr .BNCH_GROUP_MASK_HI [15] 0x80000000).setSett 15 0 { setB with phase := .stopped }).setSett 15 63 { setB with phase := .stopped }).setBench 15 { atRound := some 3 }, 15, by decide +kernel⟩,
   ⟨(stands 15 63 0 { setB with inbox := [1, 2, 3] }).set F.SETT_CTRL_ext_mbox [15, 63] 1, .hubController, 15, 63, 0xFFFFFFFF, by decide +kernel⟩,
   ⟨(stands 15 63 0 { setB with outbox := [9, 8] }).set F.SETT_CTRL_ext_mbox [15, 63] 1, .hubController, 15, 63, 9, [8], by decide +kernel⟩,
   ⟨(stands 15 63 0).set F.SETT_CTRL_ext_mbox [15, 63] 1, .hubController, 15, 63, by decide +kernel⟩,
   ⟨stands 15 63 0 { setB with capture := some { lo := 0xDEADBEEF, hi := 5, rising := true, t := 0, dom := .a }, missed := true, unread := true }, .hubController, 15, 63, by decide +kernel⟩,
   ⟨stands 15 63 0, 15, 63, 15, by decide +kernel⟩,
   ⟨stands 15 63 0 { setB with latches := 0x8000 }, 15, 63, 15, by decide +kernel⟩⟩

theorem test_witness_PinEdges :
    (∃ (s : State) (b : Nat) (pin : Nat),
     let t := s.sett b pin
     let rising (l : Bool) := l != s.is F.BNCH_PAD_invert [b, pin]
     ∃ l,
     s.down .bench = false ∧ b < 16 ∧ pin < 64 ∧ ((∀ i, i ∈ s.runningPorts b → s.roleOf b i pin = none)) ∧ s.pinDrive b pin (s.pinOf b pin) = none ∧ (s.pinOf b pin).ball ≠ l ∧ t.phase = .running ∧ qualifies (s.get F.SETT_CTRL_stamp_edge [b, pin]) (rising l) = true ∧ qualifies (s.get F.SETT_CTRL_cnt_edge [b, pin]) (rising l) = true) ∧
    (∃ (s : State) (b : Nat) (pin : Nat),
     s.down .bench = false ∧ b < 16 ∧ pin < 64 ∧ ((∀ i, i ∈ s.runningPorts b → s.roleOf b i pin = none)) ∧ s.pinDrive b pin (s.pinOf b pin) = none) ∧
    (∃ (s : State) (b : Nat) (pin : Nat),
     let t := s.sett b pin
     ∃ target dur,
     s.down .bench = false ∧ b < 16 ∧ pin < 64 ∧ ((∀ i, i ∈ s.runningPorts b → s.rolePin b i 0 ≠ pin)) ∧ t.timeout = some (target, dur) ∧ t.wait = none) ∧
    (∃ (s : State) (b : Nat) (pin : Nat),
     let t := s.sett b pin
     ∃ target dur x,
     s.down .bench = false ∧ b < 16 ∧ pin < 64 ∧ ((∀ i, i ∈ s.runningPorts b → s.rolePin b i 0 ≠ pin)) ∧ t.timeout = some (target, dur) ∧ t.wait = some x ∧ insOp x.word = 1 ∧ natBit x.word 14 = true) ∧
    (∃ (s : State) (b : Nat) (pin : Nat),
     ∃ p off val ix,
     s.down .bench = false ∧ b < 16 ∧ pin < 64 ∧ off < 0x40000 ∧ carries p .w32 (Reg.BNCH_PDT.addr [b, 0] + off) = true ∧ s.pathClosed p = false ∧ off % 4 = 0 ∧ s.is F.CHIP_STATUS_cfg_locked = true ∧ val < 2 ^ 32 ∧ s.regAt (Reg.BNCH_PDT.addr [b, 0] + off) = some (.BNCH_PDT, ix) ∧ s.judge p .BNCH_PDT ix (Reg.BNCH_PDT.addr [b, 0] + off) true val = none ∧ p ≠ .loader) ∧
    (∃ (s : State) (b : Nat) (pin : Nat),
     ∃ p off ix,
     s.down .bench = false ∧ b < 16 ∧ pin < 64 ∧ off < 0x40000 ∧ carries p .w32 (Reg.BNCH_PDT.addr [b, 0] + off) = true ∧ s.pathClosed p = false ∧ off % 4 = 0 ∧ s.is F.CHIP_STATUS_cfg_locked = false ∧ s.regAt (Reg.BNCH_PDT.addr [b, 0] + off) = some (.BNCH_PDT, ix)) :=
  ⟨⟨(ready.setSett 15 63 { setB with edgeCount := 0xFFFFFFFF, unread := true }).wr .SETT_CTRL [15, 63] 0x3C000, 15, 63, true, by decide +kernel⟩,
   ⟨ready, 15, 63, by decide +kernel⟩,
   ⟨stands 15 63 0 { setB with timeout := some (63, 5, .a) }, 15, 63, 63, (5, Dom.a), by decide +kernel⟩,
   ⟨stands 15 63 0 { setB with timeout := some (63, 5, .a), phase := .waiting, wait := some { word := ins 1 0x4000 } }, 15, 63, 63, (5, Dom.a), { word := ins 1 0x4000 }, by decide +kernel⟩,
   ⟨ready, 15, 63, .hubController, 0x3FFC, 5, [15, 0xFFF], by decide +kernel⟩,
   ⟨rs, 15, 63, .hubController, 0x3FFC, [15, 0xFFF], by decide +kernel⟩⟩

theorem test_witness_PersonalityOutputs :
    (∃ (s : State) (b : Nat) (k : Nat) (c : PortCmd) (rest : List PortCmd),
     s.down .bench = false ∧ b < 16 ∧ s.portRuns b k = true ∧ (s.port b k).due = c :: rest ∧ s.descCode b k = 0x01) ∧
    (∃ (s : State) (b : Nat) (k : Nat) (c : PortCmd) (rest : List PortCmd),
     s.down .bench = false ∧ b < 16 ∧ s.portRuns b k = true ∧ (s.port b k).due = c :: rest ∧ s.descCode b k = 0x02) ∧
    (∃ (s : State) (b : Nat) (k : Nat) (c : PortCmd) (rest : List PortCmd),
     ∃ (r : I2cResult),
     s.down .bench = false ∧ b < 16 ∧ s.portRuns b k = true ∧ (s.port b k).due = c :: rest ∧ s.descCode b k = 0x04 ∧ s.i2cResultOk b k c r = false) ∧
    (∃ (s : State) (b : Nat) (k : Nat) (c : PortCmd) (rest : List PortCmd),
     ∃ (r : I2cResult),
     s.down .bench = false ∧ b < 16 ∧ s.portRuns b k = true ∧ (s.port b k).due = c :: rest ∧ s.descCode b k = 0x04 ∧ s.i2cResultOk b k c r = true) ∧
    (∃ (s : State) (b : Nat) (k : Nat) (c : PortCmd) (rest : List PortCmd),
     s.down .bench = false ∧ b < 16 ∧ s.portRuns b k = true ∧ (s.port b k).due = c :: rest ∧ s.descCode b k = 0x05 ∧ c.more = false) ∧
    (∃ (s : State) (b : Nat) (k : Nat) (c : PortCmd) (rest : List PortCmd),
     let p := s.rolePin b k 0
     s.down .bench = false ∧ b < 16 ∧ s.portRuns b k = true ∧ (s.port b k).due = c :: rest ∧ s.descCode b k = 0x0B ∧ (s.port b k).failed = false ∧ beAt c.payload 4 4 = 0 ∧ s.driveEnabled b p = true ∧ s.is F.BNCH_STATUS_out_of_service [b] = false ∧ (s.pinOf b p).edgeAt ≠ some s.time.cycles) ∧
    (∃ (s : State) (b : Nat) (t : Nat) (k : Nat) (w : Wave) (lead : Bool) (i : Int) (at' : Nat),
     s.down .bench = false ∧ b < 16 ∧ (s.sett b t).edges = [] ∧ s.wavesOf b t = [k] ∧ (s.port b k).wave = some w ∧ s.waveDue b k = some (lead, i, at')) :=
  ⟨⟨(inst 15 63 1 { due := [outCmd [1, 2, 3, 0, 0, 0, 0, 0], outCmd []] } []), 15, 63, outCmd [1, 2, 3, 0, 0, 0, 0, 0], [outCmd []], by decide +kernel⟩,
   ⟨(inst 15 63 2 { due := [outCmd [1, 2, 3, 0, 0, 0, 0, 0], outCmd []] } []), 15, 63, outCmd [1, 2, 3, 0, 0, 0, 0, 0], [outCmd []], by decide +kernel⟩,
   ⟨(inst 15 63 4 { due := [outCmd [0, 0, 0x50, 1, 2, 0xAB], outCmd []] } [(17, 1)]), 15, 63, outCmd [0, 0, 0x50, 1, 2, 0xAB], [outCmd []], { status := 6 }, by decide +kernel⟩,
   ⟨(inst 15 63 4 { due := [outCmd [0, 0, 0x50, 1, 2, 0xAB], outCmd []] } [(17, 1)]), 15, 63, outCmd [0, 0, 0x50, 1, 2, 0xAB], [outCmd []], { status := 0, read := [5, 6], heldLow := true }, by decide +kernel⟩,
   ⟨(inst 15 63 5 { due := [outCmd [1, 2, 3, 0, 0, 0, 0, 0], outCmd []] } []), 15, 63, outCmd [1, 2, 3, 0, 0, 0, 0, 0], [outCmd []], by decide +kernel⟩,
   ⟨driving (inst 15 63 11 { due := [outCmd [1, 2, 3, 0, 0, 0, 0, 0], outCmd []] } []) 15, 15, 63, outCmd [1, 2, 3, 0, 0, 0, 0, 0], [outCmd []], by decide +kernel⟩,
   ⟨{ ((driving (inst 15 63 9 { wave := some ({ anchor := 0 } : Wave) } [(16, 232), (17, 3)]) 15).setSett 15 0 { phase := .stopped }) with time := { a := { t := 7 } } }, 15, 0, 63, { anchor := 0 }, true, 0, 0, by decide +kernel⟩⟩

theorem test_witness_PersonalityRecordsAndCommands :
    (∃ (s : State) (b : Nat) (k : Nat),
     let p := s.port b k
     s.down .bench = false ∧ b < 16 ∧ s.portRuns b k = true ∧ s.descCode b k = 0x08 ∧ p.pulseSeen = false) ∧
    (∃ (s : State) (b : Nat) (k : Nat),
     let p := s.port b k
     s.down .bench = false ∧ b < 16 ∧ s.portRuns b k = true ∧ s.descCode b k = 0x08 ∧ p.pulseSeen = true) ∧
    (∃ (s : State) (b : Nat) (k : Nat),
     let p := s.port b k
     s.down .bench = false ∧ b < 16 ∧ s.portRuns b k = true ∧ s.descCode b k = 0x0A ∧ p.active = true ∧ p.blocked = false) ∧
    (∃ (s : State) (b : Nat) (k : Nat),
     let p := s.port b k
     s.down .bench = false ∧ b < 16 ∧ s.portRuns b k = true ∧ s.descCode b k = 0x0A ∧ p.blocked = true) ∧
    (∃ (s : State) (b : Nat) (k : Nat),
     let p := s.port b k
     s.down .bench = false ∧ b < 16 ∧ s.portRuns b k = true ∧ s.descCode b k = 0x0B ∧ (s.readback b k != s.commanded b k) = true ∧ p.reported = false) ∧
    (∃ (s : State) (b : Nat) (k : Nat),
     let p := s.port b k
     s.down .bench = false ∧ b < 16 ∧ s.portRuns b k = true ∧ s.descCode b k = 0x01 ∧ p.active = false ∧ p.inFrame = true ∧ p.units ≠ []) ∧
    (∃ (s : State) (b : Nat) (k : Nat),
     let p := s.port b k
     s.down .bench = false ∧ b < 16 ∧ s.portRuns b k = true ∧ s.descCode b k = 0x03 ∧ p.active = true ∧ p.units ≠ []) ∧
    (∃ (s : State) (b : Nat) (k : Nat),
     let p := s.port b k
     let pin := s.rolePin b k 0
     s.down .bench = false ∧ b < 16 ∧ s.portRuns b k = true ∧ s.descCode b k = 0x05 ∧ p.inFrame = true ∧ (s.sett b pin).timeout.isSome = true ∧ ((∀ j, j ∈ s.runningPorts b → j ≠ k → s.rolePin b j 0 ≠ pin))) ∧
    (∃ (s : State) (b : Nat) (k : Nat) (c : Nat) (x : Cell) (s' : State),
     let cell := x.bytes
     let payload := slice cell 16 (min (byteAt cell 3) 112)
     let time := beAt cell 6 6 * unitsPerSec + natBits (beAt cell 12 4) 29 0 * unitsPerNs + natBits (beAt cell 12 4) 31 30 * 2 ^ 37
     let takes : Prop := s.portRuns b k = true ∧ s.descEndpointValid b k = true ∧ s.descCode b k ≠ 0x0D
     let sound : Prop := byteAt cell 0 = s'.descCode b k ∧ beAt cell 4 2 = 0 ∧ byteAt cell 3 ≤ 112 ∧ natBits (beAt cell 12 4) 29 0 < 1000000000 ∧
       s'.payloadOk b k payload = true
     s.down .bench = false ∧ b < 16 ∧ takes ∧ s.clearOut.dequeue (.personality b) (s.descEndpoint b k) c = (some x, s') ∧ sound ∧ time = 0) ∧
    (∃ (s : State) (b : Nat) (k : Nat) (c : Nat) (x : Cell) (s' : State),
     let cell := x.bytes
     let takes : Prop := s.portRuns b k = true ∧ s.descEndpointValid b k = true ∧ s.descCode b k ≠ 0x0D
     s.down .bench = false ∧ b < 16 ∧ takes ∧ s.clearOut.dequeue (.personality b) (s.descEndpoint b k) c = (some x, s') ∧ beAt cell 4 2 ≠ 0) ∧
    (∃ (s : State) (b : Nat) (k : Nat) (c : Nat) (x : Cell) (s' : State),
     let cell := x.bytes
     let payload := slice cell 16 (min (byteAt cell 3) 112)
     let now := s'.now (s'.domOfConsumer (.bench b))
     let time := beAt cell 6 6 * unitsPerSec + natBits (beAt cell 12 4) 29 0 * unitsPerNs + natBits (beAt cell 12 4) 31 30 * 2 ^ 37
     let takes : Prop := s.portRuns b k = true ∧ s.descEndpointValid b k = true ∧ s.descCode b k ≠ 0x0D
     let sound : Prop := byteAt cell 0 = s'.descCode b k ∧ beAt cell 4 2 = 0 ∧ byteAt cell 3 ≤ 112 ∧ natBits (beAt cell 12 4) 29 0 < 1000000000 ∧
       s'.payloadOk b k payload = true
     s.down .bench = false ∧ b < 16 ∧ takes ∧ s.clearOut.dequeue (.personality b) (s.descEndpoint b k) c = (some x, s') ∧ sound ∧ now ≤ time ∧ 0 < time ∧ time ≤ now + 10 * unitsPerSec) ∧
    (∃ (s : State) (b : Nat),
     s.down .bench = false ∧ b < 16) :=
  ⟨⟨(inst 15 63 8 {} []), 15, 63, by decide +kernel⟩,
   ⟨(inst 15 63 8 { pulseSeen := true } []), 15, 63, by decide +kernel⟩,
   ⟨(inst 15 63 10 { active := true, accepted := true } []), 15, 63, by decide +kernel⟩,
   ⟨(inst 15 63 10 { blocked := true } []), 15, 63, by decide +kernel⟩,
   ⟨(inst 15 63 11 {} []).setPin 15 0 { ball := true }, 15, 63, by decide +kernel⟩,
   ⟨(inst 15 63 1 { inFrame := true, units := [{ bytes := [1], stamp := {} }] } []), 15, 63, by decide +kernel⟩,
   ⟨(inst 15 63 3 { active := true, units := [{ bytes := [1], stamp := {} }], due := [outCmd [1], outCmd [2]] } []), 15, 63, by decide +kernel⟩,
   ⟨(inst 15 63 5 { inFrame := true, units := [{ bytes := [1], stamp := {} }] } []).setSett 15 0 { phase := .running, timeout := some (0, 5, .b) }, 15, 63, by decide +kernel⟩,
   ⟨(commanded (producing 5 1 15 (inst 15 63 5)) 5 2 (cmdCell 5 0 0 [7, 8])), 15, 63, 2, { index := 0, srcHub := 9, srcEp := 8, bytes := cmdCell 5 0 0 [7, 8] }, taken (commanded (producing 5 1 15 (inst 15 63 5)) 5 2 (cmdCell 5 0 0 [7, 8])) 15 63 2, by decide +kernel⟩,
   ⟨(commanded (producing 5 1 15 (inst 15 63 5)) 5 2 ((cmdCell 5 0 0 [7, 8]).set 5 1)), 15, 63, 2, { index := 0, srcHub := 9, srcEp := 8, bytes := (cmdCell 5 0 0 [7, 8]).set 5 1 }, taken (commanded (producing 5 1 15 (inst 15 63 5)) 5 2 ((cmdCell 5 0 0 [7, 8]).set 5 1)) 15 63 2, by decide +kernel⟩,
   ⟨(commanded (producing 5 1 15 (inst 15 63 5)) 5 2 (cmdCell 5 9 999999999 [7, 8])), 15, 63, 2, { index := 0, srcHub := 9, srcEp := 8, bytes := cmdCell 5 9 999999999 [7, 8] }, taken (commanded (producing 5 1 15 (inst 15 63 5)) 5 2 (cmdCell 5 9 999999999 [7, 8])) 15 63 2, by decide +kernel⟩,
   ⟨(inst 15 63 5 { timed := [{ t := 0 }, { t := 1 }] } []), 15, by decide +kernel⟩⟩

theorem test_witness_HopperQueues :
    (∃ (s : State) (p : Producer) (q : Nat),
     s.down .hopper = false ∧ s.dying = false ∧ s.enqueueOutcome p q = .accepted ∧ queueDest q ≠ s.hub ∧ q < 2 ^ 20) ∧
    (∃ (s : State) (p : Producer) (q : Nat),
     ∃ c E,
     s.down .hopper = false ∧ s.dying = false ∧ s.enqueueOutcome p q = .accepted ∧ queueDest q = s.hub ∧ s.intakeEntry s.hub (queueEp q) = some (c, E) ∧ s.guardOf E = none) ∧
    (∃ (s : State) (p : Producer) (q : Nat),
     s.down .hopper = false ∧ s.dying = false ∧ s.enqueueOutcome p q ≠ .accepted) ∧
    (∃ (s : State) (p : Producer),
     let good (x : Cell) : Prop := x.bad = none
     ∃ e c x y rest,
     s.down .hopper = false ∧ s.dying = false ∧ s.consumes p e = true ∧ s.frozen e = false ∧ smGet s.grd.buffers e [] = [] ∧ (s.queue (s.intakeQueue e c)).broken = false ∧ (s.queue (s.intakeQueue e c)).cells = x :: y :: rest ∧ good x ∧ good y) :=
  ⟨⟨bridgeEp, .bridge, 1048517, by decide +kernel⟩,
   ⟨bridgeEp, .bridge, queueNo 1023 15 0, 15, 1023, by decide +kernel⟩,
   ⟨ready, .bridge, 1048517, by decide +kernel⟩,
   ⟨queued bridgeEp (queueNo 1023 15 0) [cellOf 4, cellOf 5, cellOf 6], .bridge, 1023, 15, cellOf 4, cellOf 5, [cellOf 6], by decide +kernel⟩⟩

theorem test_witness_HopperMaintenance :
    (∃ (s : State),
     s.down .hopper = false) ∧
    (∃ (s : State) (k : Nat) (q : Nat),
     ∃ x,
     s.down .hopper = false ∧ s.queueOfCell k = some q ∧ (s.queue q).cells = [x] ∧ x.index = k) ∧
    (∃ (s : State),
     s.down .hopper = false) ∧
    (∃ (s : State),
     s.down .hopper = false) ∧
    (∃ (s : State) (p : Path) (k : Nat) (val : Nat),
     s.down .hopper = false ∧ k < 32 ∧ val < 2 ^ 32 ∧ s.admits p .HOP_EP_FREEZE [k] val) ∧
    (∃ (s : State) (p : Path) (q : Nat),
     s.down .hopper = false ∧ q < 2 ^ 20 ∧ s.admits p .HOP_QSNAP_SEL [] q) ∧
    (∃ (s : State) (p : Path),
     s.down .hopper = false ∧ s.admits p .HOP_SCRUB_CTRL [] (s.merged p .HOP_SCRUB_CTRL [] 1 1) ∧ s.permits.held = [] ∧ s.permits.waiting = [] ∧ s.is F.PMT_STATUS_revoked = false ∧ 3 ≤ s.get F.PMT_CFG_budget) ∧
    (∃ (s : State),
     s.down .hopper = false ∧ s.permits.held = [(.scrub, 0)] ∧ s.permits.waiting = []) :=
  ⟨⟨{ ready with hop := { ready.hop with heldHubs := 2 ^ 63 + 3 } }, by decide +kernel⟩,
   ⟨(queued bridgeEp 1048517 [cellOf 4] true).set F.HOP_DROP_CNT_lost [] 0xFFFF, 4, 1048517, cellOf 4, by decide +kernel⟩,
   ⟨bridgeEp, by decide +kernel⟩,
   ⟨ready.set F.HOP_SCRUB_CTRL_corrected [] 0xFFFF, by decide +kernel⟩,
   ⟨ready, .pcie, 31, 0xFFFFFFFF, by decide +kernel⟩,
   ⟨queued bridgeEp 1048517 [cellOf 4, cellOf 9] true, .hubController, 1048517, by decide +kernel⟩,
   ⟨freeBudget, .hubController, by decide +kernel⟩,
   ⟨{ ready.wr .HOP_SCRUB_CTRL [] 3 with permits := { held := [(.scrub, 0)] } }, by decide +kernel⟩⟩

theorem test_witness_HostRings :
    (∃ (s : State) (p : Path) (r : Nat),
     ∃ cfg,
     s.down .hopper = false ∧ r < 16 ∧ cfg < 2 ^ 31 ∧ s.admits p .HOP_HRING_CFG [r] (natSetBit cfg 31 true) ∧ s.is F.HOP_HRING_CFG_enable [r] = false) ∧
    (∃ (s : State) (p : Path) (r : Nat),
     s.down .hopper = false ∧ r < 16 ∧ s.admits p .HOP_HRING_CFG [r] (s.merged p .HOP_HRING_CFG [r] 0x80000000 0)) ∧
    (∃ (s : State) (p : Path) (r : Nat),
     let head := s.get F.HOP_HRING_HEAD_head [r]
     ∃ tail,
     s.down .hopper = false ∧ r < 16 ∧ tail < 2 ^ 16 ∧ s.admits p .HOP_HRING_TAIL [r] tail ∧ (tail + 2 ^ 16 - head) % 2 ^ 16 ≤ 2 ^ s.get F.HOP_HRING_CFG_size_log2 [r]) ∧
    (∃ (s : State) (r : Nat),
     s.down .hopper = false ∧ r < 16 ∧ s.ringRuns r 0 = true) ∧
    (∃ (s : State) (r : Nat),
     ∃ e c x y rest,
     s.down .hopper = false ∧ r < 16 ∧ s.ringRuns r 1 = true ∧ s.ringInReset r = false ∧ (s.ringEndpoints r).find? s.guardedWaits = none ∧ s.ringNext r = some (e, c) ∧ (s.queue (s.intakeQueue e c)).cells = x :: y :: rest ∧ x.bad = none ∧ y.bad = none) ∧
    (∃ (s : State) (r : Nat),
     ∃ e h c bytes more,
     s.down .hopper = false ∧ r < 16 ∧ s.ringRuns r 1 = true ∧ s.ringInReset r = false ∧ (s.ringEndpoints r).find? s.guardedWaits = some e ∧ smGet s.grd.buffers e [] = (h, c, bytes) :: more) ∧
    (∃ (s : State) (r : Nat),
     s.down .hopper = false ∧ r < 16 ∧ s.ringRuns r 1 = true ∧ s.ringInReset r = true) ∧
    (∃ (s : State) (r : Nat),
     s.down .hopper = false ∧ r < 16 ∧ s.is F.HOP_HRING_CFG_enable [r] = true ∧ s.ringPosted r ≠ 0) ∧
    (∃ (s : State) (r : Nat),
     ∃ (e : Nat) (c : Nat) (x : Cell) (y : Cell) (rest : List Cell),
     s.down .hopper = false ∧ r < 16 ∧ s.is F.HOP_HRING_CFG_enable [r] = true ∧ s.ringPosted r ≠ 0 ∧ s.get F.HOP_HRING_CFG_dir [r] = 1 ∧ (s.ringEndpoints r).find? s.guardedWaits = none ∧ s.ringNext r = some (e, c) ∧ (s.queue (s.intakeQueue e c)).cells = x :: y :: rest ∧ x.bad = none ∧ y.bad = none) :=
  ⟨⟨(ready.wr .HOP_HRING_TAIL [15] 5).wr .HOP_HRING_HEAD [15] 7, .hubController, 15, 0x4FFF0000, by decide +kernel⟩,
   ⟨ring 0 0 5, .hubController, 15, by decide +kernel⟩,
   ⟨ring 0 0xFFFF 0, .hubController, 15, 0x7FFF, by decide +kernel⟩,
   ⟨ring 0 0xFFFF 3 (producing 7 4 15 bridgeEp), 15, by decide +kernel⟩,
   ⟨ring 1 0 1 (queued (producing 1023 4 15 bridgeEp) (queueNo 1023 15 0) [cellOf 3, cellOf 5]), 15, 1023, 15, cellOf 3, cellOf 5, [], by decide +kernel⟩,
   ⟨{ ring 1 0 1 (producing 1023 4 15 bridgeEp) with grd := { buffers := [(1023, [(9, 3, zeros 112), (9, 4, zeros 112)])] } }, 15, 1023, 9, 3, zeros 112, [(9, 4, zeros 112)], by decide +kernel⟩,
   ⟨(ring 1 0xFFFF 0 (producing 1023 4 15 bridgeEp)).set F.FACE_RESET_STATUS_busy [] 1, 15, by decide +kernel⟩,
   ⟨ring 0 0 5, 15, by decide +kernel⟩,
   ⟨ring 1 0 1 (queued (producing 1023 4 15 bridgeEp) (queueNo 1023 15 0) [cellOf 3, cellOf 5]), 15, 1023, 15, cellOf 3, cellOf 5, [], by decide +kernel⟩⟩

theorem test_witness_TimeCapturesAndSources :
    (∃ (s : State) (p : Path),
     s.down .timeCore = false ∧ s.admits p .TIME_SNAP [] 1) ∧
    (∃ (s : State),
     s.down .timeCore = false ∧ s.get F.TIME_PPS_CFG_cap_src = 1) ∧
    (∃ (s : State),
     s.down .timeCore = false ∧ s.get F.TIME_PPS_CFG_cap_src = 2) ∧
    (∃ (s : State),
     s.down .timeCore = false ∧ s.get F.TIME_PPS_CFG_cap_src = 1) ∧
    (∃ (s : State) (p : Path),
     s.down .timeCore = false ∧ s.admits p .TIME_PPS_CFG [] (s.merged p .TIME_PPS_CFG [] 0x8000000 0x8000000) ∧ s.time.capMade ≠ some (s.time.cycles, true)) ∧
    (∃ (s : State) (p : Path) (d : Dom),
     ∃ lo hi,
     s.down .timeCore = false ∧ ((d = .a → s.followsRing = false)) ∧ lo < 2 ^ 32 ∧ hi < 2 ^ 32 ∧ s.admits p .TIME_MEAS_LO (domIx d) lo ∧ s.admits p .TIME_MEAS_HI (domIx d) hi ∧ s.src1 d = 3) ∧
    (∃ (s : State) (d : Dom),
     s.down .timeCore = false ∧ ((d = .a → s.followsRing = false)) ∧ s.src1 d = 3 ∧ s.src2 d = 0 ∧ s.domState d = 2) ∧
    (∃ (s : State) (d : Dom),
     s.down .timeCore = false ∧ ((d = .a → s.followsRing = false)) ∧ s.domState d = 3) :=
  ⟨⟨timed, .pcie, by decide +kernel⟩,
   ⟨timed.set F.TIME_PPS_CFG_cap_src [] 1, by decide +kernel⟩,
   ⟨timed.set F.TIME_PPS_CFG_cap_src [] 2, by decide +kernel⟩,
   ⟨timed.set F.TIME_PPS_CFG_cap_src [] 1, by decide +kernel⟩,
   ⟨timed, .hubController, by decide +kernel⟩,
   ⟨(timed.set F.TIME_DOM_CFG_src1 (domIx .b) 3), .hubController, .b, 0xFFFFFFFF, 0xFFFFFFFF, by decide +kernel⟩,
   ⟨((timed.set F.TIME_DOM_CFG_src1 (domIx .a) 3).set F.TIME_DOM_STATUS_state (domIx .a) 2).set F.TIME_DOM_STATUS_traceable (domIx .a) 1, .a, by decide +kernel⟩,
   ⟨(timed.set F.TIME_DOM_STATUS_state (domIx .a) 3).set F.TIME_DOM_STATUS_traceable (domIx .a) 1, .a, by decide +kernel⟩⟩

theorem test_witness_TimeSelectionOutputsAndLinkDelay :
    (∃ (s : State) (c : Consumer),
     ∃ d,
     s.down .timeCore = false ∧ (match c with | .bench b => b < 16 | .ethPort m => m < 8 | .trigger k => k < 8 | _ => True) ∧ s.time.selects.find? (fun e => e.1 == c) = some (c, d)) ∧
    (∃ (s : State) (c : Consumer),
     let d := s.domOfConsumer c
     let o := otherDom d
     s.down .timeCore = false ∧ (match c with | .bench b => b < 16 | .ethPort m => m < 8 | .trigger k => k < 8 | _ => True) ∧ s.is F.TIME_SEL_auto = true ∧ s.time.autoSwitched.contains c = false ∧ s.traceable d = false ∧ s.domState o = 2 ∧ s.traceable o = true) ∧
    (∃ (s : State) (c : Consumer),
     s.down .timeCore = false ∧ (match c with | .bench b => b < 16 | .ethPort m => m < 8 | .trigger k => k < 8 | _ => True) ∧ s.time.autoSwitched.contains c = true) ∧
    (∃ (s : State) (c : Consumer),
     s.down .timeCore = false ∧ (match c with | .bench b => b < 16 | .ethPort m => m < 8 | .trigger k => k < 8 | _ => True) ∧ s.is F.TIME_SEL_auto = false) ∧
    (∃ (s : State),
     s.down .timeCore = false ∧ s.is F.TIME_PPS_CFG_out_enable = true ∧ s.domState (s.domOfConsumer .ppsOut) ≠ 0) ∧
    (∃ (s : State),
     s.down .timeCore = false) ∧
    (∃ (s : State) (k : Nat),
     s.down .timeCore = false ∧ k < 8 ∧ s.is F.TIME_TRIG_CFG_enable [k] = true ∧ s.triggerTimed k = true) ∧
    (∃ (s : State) (p : Side),
     s.down .timeCore = false ∧ s.portUp p = true ∧ s.is F.TIME_RING_CFG_refresh = true ∧ s.is F.RING_PORT_STATUS_peer_valid [sideIx p] = true) ∧
    (∃ (s : State) (p : Side),
     ∃ c x s',
     let e := s.get F.TIME_RING_CFG_endpoint
     let o := s'.delayOf p
     s.down .timeCore = false ∧ s.delayClass e = some c ∧ s.clearOut.dequeue .delayExchange e c = (some x, s') ∧ byteAt x.bytes 0 = 0x7D ∧ byteAt x.bytes 1 = (if p = .east then 1 else 0) ∧ x.srcHub = s'.get F.RING_PORT_STATUS_peer_hub [sideIx p] ∧ o.waiting = true ∧ beAt x.bytes 8 6 = o.second ∧ s'.portUp p = true) :=
  ⟨⟨{ timed with time := { timed.time with selects := [(.bench 15, .b), (.bench 3, .a)] } }, .bench 15, .b, by decide +kernel⟩,
   ⟨(((timed.set F.TIME_SEL_auto [] 1).set F.TIME_DOM_STATUS_state (domIx .b) 2).set F.TIME_DOM_STATUS_traceable (domIx .b) 1), .bench 15, by decide +kernel⟩,
   ⟨{ timed with time := { timed.time with autoSwitched := [.bench 15] } }, .bench 15, by decide +kernel⟩,
   ⟨timed, .bench 15, by decide +kernel⟩,
   ⟨(timed.set F.TIME_PPS_CFG_out_enable [] 1).set F.TIME_DOM_STATUS_state (domIx .a) 1, by decide +kernel⟩,
   ⟨timed, by decide +kernel⟩,
   ⟨(timed.wr .TIME_TRIG_CFG [7] 0xAF008000).setSett 15 63 { setB with phase := .waiting, wait := some { word := ins 1 0x5800F } }, 7, by decide +kernel⟩,
   ⟨(((looped 1 timed).set F.TIME_RING_CFG_refresh [] 1).set F.RING_PORT_STATUS_peer_valid [1] 1), .west, by decide +kernel⟩,
   ⟨delayState 1, .east, 15, arrivedCell (delayCell 1) 9, delayTaken (delayState 1), by decide +kernel⟩⟩

theorem test_witness_ShotLines :
    (∃ (s : State) (p : Path) (i : Nat) (val : Nat),
     s.down .ring = false ∧ i < 8 ∧ s.admits p .SHOT_FW_DRIVE [i] val ∧ val < 2 ^ 32 ∧ ((val % 2 = 1 → s.is F.SHOT_LINE_CFG_fw_enable [i] = true))) ∧
    (∃ (s : State) (p : Path) (i : Nat) (val : Nat),
     s.down .ring = false ∧ i < 8 ∧ s.admits p .SHOT_FW_DRIVE [i] val ∧ val < 2 ^ 32 ∧ val % 2 = 1 ∧ s.is F.SHOT_LINE_CFG_fw_enable [i] = false) ∧
    (∃ (s : State) (i : Nat),
     s.down .ring = false ∧ i < 8) ∧
    (∃ (s : State) (i : Nat),
     ∃ (d : Side) (h : Nat),
     s.down .ring = false ∧ i < 8 ∧ h < 64 ∧ h ≠ s.hub ∧ s.copyCurrent (if d = .east then .west else .east) h = false) ∧
    (∃ (s : State) (i : Nat),
     ∃ (d : Side) (h : Nat),
     s.down .ring = false ∧ i < 8 ∧ h < 64 ∧ h ≠ s.hub ∧ s.copyCurrent (if d = .east then .west else .east) h = true) :=
  ⟨⟨ready.set F.SHOT_LINE_CFG_fw_enable [7] 1, .hubController, 7, 1, by decide +kernel⟩,
   ⟨ready, .hubController, 7, 1, by decide +kernel⟩,
   ⟨{ ready with shot := { stretching := 0xFF } }, 7, by decide +kernel⟩,
   ⟨ready, 0, .east, 63, by decide +kernel⟩,
   ⟨{ ready.set F.RING_REACH_eg_reach [63] 1 with shot := { copies := [(copyKey .west 63, { entry := 0x2055, fresh := true })] } }, 0, .east, 63, by decide +kernel⟩⟩

theorem test_witness_BridgeIssue :
    (∃ (s : State) (p : Path) (h : Nat) (addr : Nat),
     s.down .hopper = false ∧ s.pathClosed p = false ∧ issuer p = true ∧ h < 256 ∧ addr < 2 ^ 32 ∧ s.isLocal h = true) ∧
    (∃ (s : State) (p : Path) (h : Nat) (addr : Nat),
     s.down .hopper = false ∧ s.pathClosed p = false ∧ issuer p = true ∧ h < 256 ∧ addr < 2 ^ 32 ∧ s.isLocal h = true) ∧
    (∃ (s : State) (p : Path) (h : Nat) (addr : Nat),
     s.down .hopper = false ∧ s.pathClosed p = false ∧ issuer p = true ∧ h < 256 ∧ addr < 2 ^ 32 ∧ s.isLocal h = false ∧ s.notReachable h = false ∧ addr % 4 = 0 ∧ s.brg.offers = [] ∧ s.brg.waiting = []) ∧
    (∃ (s : State) (p : Path) (h : Nat) (addr : Nat),
     s.down .hopper = false ∧ s.pathClosed p = false ∧ issuer p = true ∧ h < 256 ∧ addr < 2 ^ 32 ∧ s.isLocal h = false ∧ s.notReachable h = true ∧ s.is F.BRG_ACCESS_ERR_valid = false) ∧
    (∃ (s : State) (p : Path) (h : Nat) (addr : Nat),
     ∃ t,
     s.down .hopper = false ∧ s.pathClosed p = false ∧ issuer p = true ∧ h < 256 ∧ addr < 2 ^ 32 ∧ s.isLocal h = false ∧ s.notReachable h = false ∧ addr % 4 = 0 ∧ s.faceBusy (s.pathFace p) = false ∧ s.dying = false ∧ s.brg.offers = [] ∧ s.brg.waiting = [] ∧ s.freeTag = some t ∧ s.enqueueOutcome .bridge (s.bridgeQueue h) = .accepted) ∧
    (∃ (s : State) (p : Path) (h : Nat) (addr : Nat),
     s.down .hopper = false ∧ s.pathClosed p = false ∧ issuer p = true ∧ h < 256 ∧ addr < 2 ^ 32 ∧ s.isLocal h = false ∧ s.notReachable h = true) :=
  ⟨⟨bridged, .hubController, 0, Reg.CAUSE_SUMMARY_EN.addr [], by decide +kernel⟩,
   ⟨bridged, .bench 15 2, 255, Reg.CAUSE_SUMMARY_EN.addr [], by decide +kernel⟩,
   ⟨bridged, .hubController, 63, 0xFFFFFFFC, by decide +kernel⟩,
   ⟨bridged, .hubController, 62, 0xFFFFFFFC, by decide +kernel⟩,
   ⟨bridged, .hubController, 63, 0xFFFFFFFC, 0, by decide +kernel⟩,
   ⟨bridged, .hubController, 62, 0xFFFFFFFC, by decide +kernel⟩⟩

theorem test_witness_BridgeOffersAndCells :
    (∃ (s : State) (o : BridgeOffer),
     s.down .hopper = false ∧ s.dying = false ∧ s.brg.waiting = [] ∧ s.brg.offers = [o] ∧ o.write = true ∧ o.hub < 64 ∧ o.hub ≠ s.hub ∧ s.enqueueOutcome .bridge (s.bridgeQueue o.hub) = .accepted) ∧
    (∃ (s : State) (o : BridgeOffer),
     s.down .hopper = false ∧ s.dying = false ∧ s.brg.waiting = [] ∧ s.brg.offers = [o] ∧ o.write = true ∧ o.hub < 64 ∧ s.enqueueOutcome .bridge (s.bridgeQueue o.hub) = .full) ∧
    (∃ (s : State) (o : BridgeOffer),
     s.down .hopper = false ∧ s.dying = false ∧ s.brg.waiting = [] ∧ s.brg.offers = [o] ∧ o.write = true ∧ o.hub < 64 ∧ o.face < 16 ∧ o.addr < 2 ^ 32 ∧ s.is F.BRG_ACCESS_ERR_valid = false) ∧
    (∃ (s : State) (t : Nat),
     ∃ p,
     s.down .hopper = false ∧ s.dying = false ∧ s.brg.waiting = [] ∧ t < 240 ∧ s.brg.offers = [] ∧ (s.tagOf t).used = true ∧ (s.tagOf t).origin = .path p ∧ (s.tagOf t).count = 1) ∧
    (∃ (s : State) (c : Cell),
     let s' := s.clearOut.bridgeTake
     let a := beAt c.bytes 8 4
     ∃ s1,
     s.down .hopper = false ∧ cellMalformed c.bytes = false ∧ cellCount c.bytes = 1 ∧ a % 4 = 0 ∧ s.bridgeFront (fun k => k != cellRead && k != cellResponse) = some c ∧ s'.cellStream c = (true, s1)) ∧
    (∃ (s : State) (c : Cell),
     let s' := s.clearOut.bridgeTake
     let p := cellPath c
     let a := beAt c.bytes 8 4
     ∃ s1 s2 v,
     s.down .hopper = false ∧ cellMalformed c.bytes = false ∧ cellCount c.bytes = 1 ∧ a % 4 = 0 ∧ s.bridgeFront (· == cellRead) = some c ∧ s'.cellStream c = (true, s1) ∧ byteAt c.bytes 12 = 0x0F ∧ s1.read32 p a = (some v, s2) ∧ s2.dying = false ∧ s2.enqueueOutcome .bridge (s2.bridgeQueue c.srcHub) = .accepted ∧ c.srcHub < 64 ∧ c.srcHub ≠ s2.hub) ∧
    (∃ (s : State) (c : Cell),
     let s' := s.clearOut.bridgeTake
     let a := beAt c.bytes 8 4
     let x := s'.tagOf (byteAt c.bytes 3)
     ∃ q,
     s.down .hopper = false ∧ cellMalformed c.bytes = false ∧ cellCount c.bytes = 1 ∧ a % 4 = 0 ∧ s.bridgeFront (· == cellResponse) = some c ∧ x.used = true ∧ x.hub = c.srcHub ∧ x.seq = some (beAt c.bytes 4 2) ∧ s'.faceBusy x.face = false ∧ x.origin = .path q ∧ x.count = 1 ∧ byteAt c.bytes 13 = 0 ∧ beAt c.bytes 14 2 = 0 ∧ s'.brg.offers = [] ∧ s'.brg.waiting = []) ∧
    (∃ (s : State) (c : Cell),
     let s' := s.clearOut.bridgeTake
     let a := beAt c.bytes 8 4
     s.down .hopper = false ∧ cellMalformed c.bytes = false ∧ cellCount c.bytes = 1 ∧ a % 4 = 0 ∧ s.bridgeFront (· == cellResponse) = some c ∧ (s'.tagOf (byteAt c.bytes 3)).used = false) :=
  ⟨⟨offered true, offer1 true 63, by decide +kernel⟩,
   ⟨(offered true).wr .HOP_LIMIT [1023, 15] 0x00020000, offer1 true 63, by decide +kernel⟩,
   ⟨offered true, offer1 true 63, by decide +kernel⟩,
   ⟨{ bridged with brg := { tags := [(239, { used := true, origin := .path .pcie, hub := 63, addr := 8, count := 1 })] } }, 239, .pcie, by decide +kernel⟩,
   ⟨arrived wCell 63, arrivedCell wCell 63, ((arrived wCell 63).clearOut.bridgeTake.cellStream (arrivedCell wCell 63)).2, by decide +kernel⟩,
   ⟨arrived rCell 63, arrivedCell rCell 63, ((arrived rCell 63).clearOut.bridgeTake.cellStream (arrivedCell rCell 63)).2, (((arrived rCell 63).clearOut.bridgeTake.cellStream (arrivedCell rCell 63)).2.read32 (cellPath (arrivedCell rCell 63)) (Reg.CAUSE_SUMMARY_EN.addr [])).2, 0, by decide +kernel⟩,
   ⟨{ (arrived aCell 63) with brg := { tags := [(7, { used := true, origin := .path .pcie, hub := 63, addr := 0x100, count := 1, seq := some 9 })] } }, arrivedCell aCell 63, .pcie, by decide +kernel⟩,
   ⟨arrived aCell 63, arrivedCell aCell 63, by decide +kernel⟩⟩

theorem test_witness_RegisterAccess :
    (∃ (s : State) (p : Path) (r : Reg) (ix : List Nat) (v : Nat),
     let a := r.addr ix
     ∃ (t : State),
     a % 4 = 0 ∧ v < 2 ^ 32 ∧ s.admits p r ix v ∧ s.clearOut.writeReg p r ix v = some t) ∧
    (∃ (s : State) (p : Path) (r : Reg) (ix : List Nat),
     let a := r.addr ix
     ∃ (x : Nat) (t : State),
     a % 4 = 0 ∧ s.admitsRead p r ix ∧ s.clearOut.readReg p r ix = some (x, t)) ∧
    (∃ (s : State) (p : Path),
     ∃ (w : Width) (b : Nat),
     carries p w b = true ∧ s.pathClosed p = false ∧ ((b % widthBytes w ≠ 0 ∨ widthBytes w < 4))) ∧
    (∃ (s : State) (p : Path),
     ∃ (w : Width) (b : Nat),
     carries p w b = true ∧ s.pathClosed p = false ∧ b % widthBytes w ≠ 0) ∧
    (∃ (s : State) (p : Path),
     ∃ (b : Nat),
     carries p .w32 b = true ∧ s.pathClosed p = false ∧ b % 4 = 0 ∧ s.regAt b = none ∧ s.islandHeld p b = false) ∧
    (∃ (s : State) (p : Path),
     ∃ (b : Nat),
     carries p .w32 b = true ∧ s.pathClosed p = false ∧ b % 4 = 0 ∧ s.regAt b = none ∧ s.islandHeld p b = false) :=
  ⟨⟨ready, .hubController, .CAUSE_SUMMARY_EN, [], 0xFFFFFFFF, ((ready).clearOut.writeReg .hubController .CAUSE_SUMMARY_EN [] 0xFFFFFFFF).getD rs, by decide +kernel⟩,
   ⟨ready, .hubController, .CHIP_ID, [], (((ready).clearOut.readReg .hubController .CHIP_ID []).getD (0, rs)).1, (((ready).clearOut.readReg .hubController .CHIP_ID []).getD (0, rs)).2, by decide +kernel⟩,
   ⟨ready, .pcie, .w8, 3, by decide +kernel⟩,
   ⟨ready, .pcie, .w32, 2, by decide +kernel⟩,
   ⟨ready, .pcie, 0x0300, by decide +kernel⟩,
   ⟨ready, .pcie, 0x0300, by decide +kernel⟩⟩

theorem test_witness_RegisterPairsAndWindows :
    (∃ (s : State) (p : Path) (lo : Reg) (hi : Reg) (ix : List Nat),
     highOf lo = some hi ∧ s.admitsRead p lo ix ∧ lo.addr ix % 4 = 0) ∧
    (∃ (s : State) (p : Path) (lo : Reg) (hi : Reg) (ix : List Nat),
     ∃ v,
     lowOf hi = some lo ∧ s.latched p (hi.addr ix - 4) = some v ∧ s.admitsRead p hi ix ∧ hi.addr ix % 4 = 0) ∧
    (∃ (s : State) (p : Path) (lo : Reg) (hi : Reg) (ix : List Nat),
     lowOf hi = some lo ∧ s.latched p (hi.addr ix - 4) = none ∧ s.admitsRead p hi ix ∧ hi.addr ix % 4 = 0) ∧
    (∃ (s : State) (p : Path),
     ∃ (d : Dom) (v : Nat),
     v < 2 ^ 32 ∧ s.admits p .TIME_MEAS_LO (domIx d) v) ∧
    (∃ (s : State) (p : Path),
     ∃ (d : Dom) (l : Nat) (v : Nat),
     l < 2 ^ 32 ∧ v < 2 ^ 32 ∧ s.admits p .TIME_MEAS_HI (domIx d) v ∧ s.heldLow p (Reg.TIME_MEAS_LO.addr (domIx d)) = some l) ∧
    (∃ (s : State) (p : Path),
     ∃ (d : Dom) (v : Nat),
     v < 2 ^ 32 ∧ s.admits p .TIME_MEAS_HI (domIx d) v ∧ s.heldLow p (Reg.TIME_MEAS_LO.addr (domIx d)) = none ∧ postedPath p = false) ∧
    (∃ (s : State) (p : Path),
     ∃ (d : Dom) (v : Nat),
     v < 2 ^ 32 ∧ s.admits p .TIME_MEAS_HI (domIx d) v ∧ s.heldLow p (Reg.TIME_MEAS_LO.addr (domIx d)) = none ∧ postedPath p = true) ∧
    (∃ (s : State),
     let hub := s.get F.CHIP_FABRIC_PAGE_hub
     s.pathClosed .pcie = false ∧ s.isLocal hub = true) ∧
    (∃ (s : State) (write : Bool) (addr : Nat),
     let hub := s.get F.CHIP_FABRIC_PAGE_hub
     let target := s.get F.CHIP_FABRIC_PAGE_page * 4096 + addr % 4096
     s.pathClosed .pcie = false ∧ s.isLocal hub = false ∧ write = true ∧ s.notReachable hub = false ∧ target % 4 = 0 ∧ s.brg.offers = [] ∧ s.brg.waiting = []) ∧
    (∃ (s : State),
     s.pathClosed .pcie = false) ∧
    (∃ (s : State),
     s.pathClosed .pcie = false) ∧
    (∃ (s : State),
     let hub := s.get F.CHIP_FABRIC_PAGE_hub
     s.pathClosed .pcie = false ∧ s.isLocal hub = true) ∧
    (∃ (s : State),
     let hub := s.get F.CHIP_FABRIC_PAGE_hub
     s.pathClosed .pcie = false ∧ s.isLocal hub = false) :=
  ⟨⟨(ready.wr .CHIP_UID_LO [] 7).wr .CHIP_UID_HI [] 9, .pcie, .CHIP_UID_LO, .CHIP_UID_HI, [], by decide +kernel⟩,
   ⟨ready.setLatched .pcie (Reg.CHIP_UID_LO.addr []) (some 9), .pcie, .CHIP_UID_LO, .CHIP_UID_HI, [], 9, by decide +kernel⟩,
   ⟨(ready.wr .CHIP_UID_LO [] 7).wr .CHIP_UID_HI [] 9, .spi, .CHIP_UID_LO, .CHIP_UID_HI, [], by decide +kernel⟩,
   ⟨ready, .hubController, .b, 0xFFFFFFFF, by decide +kernel⟩,
   ⟨((ready.set F.TIME_DOM_CFG_src1 (domIx .b) 3).setHeldLow .pcie (Reg.TIME_MEAS_LO.addr (domIx .b)) (some 0xFFFFFFFE)), .pcie, .b, 0xFFFFFFFE, 0xFFFFFFFF, by decide +kernel⟩,
   ⟨ready, .hubController, .b, 1, by decide +kernel⟩,
   ⟨ready, .pcie, .b, 1, by decide +kernel⟩,
   ⟨ready.set F.CHIP_FABRIC_PAGE_page [] 0xFFFFF, by decide +kernel⟩,
   ⟨bridged.set F.CHIP_FABRIC_PAGE_hub [] 63, true, 0x1FFC, by decide +kernel⟩,
   ⟨ready, by decide +kernel⟩,
   ⟨ready, by decide +kernel⟩,
   ⟨ready.set F.CHIP_FABRIC_PAGE_hub [] 255, by decide +kernel⟩,
   ⟨bridged.set F.CHIP_FABRIC_PAGE_hub [] 63, by decide +kernel⟩⟩

theorem test_witness_SpiTarget :
    (∃ (s : State) (addr : Nat),
     ∃ (x : Nat) (t : State),
     addr < 2 ^ 32 ∧ addr % 4 = 0 ∧ s.clearOut.read32 .spi addr = (some x, t)) ∧
    (∃ (s : State) (addr : Nat) (v : Nat),
     ∃ (t : State),
     addr < 2 ^ 32 ∧ addr % 4 = 0 ∧ s.clearOut.write32 .spi addr (v % 2 ^ 32) = (true, t)) ∧
    (∃ (s : State) (addr : Nat) (v : Nat),
     ∃ (t : State),
     addr < 2 ^ 32 ∧ addr % 4 = 0 ∧ s.clearOut.write32 .spi addr (v % 2 ^ 32) = (false, t)) ∧
    (∃ (addr : Nat) (cmd : Nat),
     addr < 2 ^ 32 ∧ addr % 4 = 0 ∧ cmd ≠ 0x0B ∧ cmd ≠ 0x02) ∧
    (∃ (addr : Nat),
     ∃ n,
     addr < 2 ^ 32 ∧ addr % 4 = 0 ∧ n < 4) ∧
    (∃ (s : State) (addr : Nat) (v : Nat),
     ∃ (t : State),
     addr < 2 ^ 32 ∧ addr % 4 = 0 ∧ s.clearOut.write32 .spi addr (v % 2 ^ 32) = (true, t)) ∧
    (∃ (addr : Nat),
     ∃ (k : Nat),
     addr < 2 ^ 32 ∧ addr % 4 = 0 ∧ k < 4) ∧
    (∃ (s : State) (addr : Nat),
     ∃ (r : Reg) (ix : List Nat) (x : Option Nat) (t : State),
     addr < 2 ^ 32 ∧ addr % 4 = 0 ∧ s.edge.held = false ∧ s.regAt addr = some (r, ix) ∧ s.clearOut.read32 .spi addr = (x, t)) :=
  ⟨⟨ready, 0, 0x10244A31, (ready.clearOut.read32 .spi 0).2, by decide +kernel⟩,
   ⟨ready, Reg.CAUSE_SUMMARY_EN.addr [], 0x1FFFFFFFE, (ready.clearOut.write32 .spi (Reg.CAUSE_SUMMARY_EN.addr []) 0xFFFFFFFE).2, by decide +kernel⟩,
   ⟨ready, Reg.UPD_CTRL.addr [], 3, (ready.clearOut.write32 .spi (Reg.UPD_CTRL.addr []) 3).2, by decide +kernel⟩,
   ⟨0, 0x0C, by decide +kernel⟩,
   ⟨0, 3, by decide +kernel⟩,
   ⟨ready, Reg.CAUSE_SUMMARY_EN.addr [], 0x1FFFFFFFE, (ready.clearOut.write32 .spi (Reg.CAUSE_SUMMARY_EN.addr []) 0xFFFFFFFE).2, by decide +kernel⟩,
   ⟨0, 3, by decide +kernel⟩,
   ⟨ready, 0, .CHIP_ID, [], (ready.clearOut.read32 .spi 0).1, (ready.clearOut.read32 .spi 0).2, by decide +kernel⟩⟩

theorem test_witness_RingTrainingAndBreaks :
    (∃ (s : State) (p : Side),
     s.down .ring = false ∧ s.portEnabled p = true ∧ ((s.portState p = 0 ∨ s.portState p = 7)) ∧ s.get F.CFG_STATUS_state ≠ 5) ∧
    (∃ (s : State) (p : Side),
     let ix := sideIx p
     s.down .ring = false ∧ s.portEnabled p = true ∧ ((s.portState p = 0 ∨ s.portState p = 7)) ∧ s.get F.CFG_STATUS_state = 5 ∧ s.permits.waiting = [] ∧ s.permitHeld .serdes ix = false ∧ s.permitFits .serdes = true ∧ s.is F.PMT_STATUS_revoked = false) ∧
    (∃ (s : State) (p : Side),
     let ix := sideIx p
     s.down .ring = false ∧ s.portState p = 1 ∧ s.permitHeld .serdes ix = true) ∧
    (∃ (s : State) (p : Side),
     let ix := sideIx p
     s.down .ring = false ∧ s.portState p = 1 ∧ s.permitHeld .serdes ix = false) ∧
    (∃ (s : State) (p : Side),
     s.down .ring = false ∧ s.portState p = 2) ∧
    (∃ (s : State) (p : Side),
     ∃ (polInv : Nat) (skew : Nat) (roundTrip : Nat),
     s.down .ring = false ∧ s.portState p = 3 ∧ s.permits.waiting = [] ∧ polInv < 4 ∧ skew < 1024 ∧ roundTrip < 2 ^ 25 ∧ (toSigned skew 10).natAbs ≤ 320) ∧
    (∃ (s : State) (p : Side),
     ∃ (skew : Nat),
     s.down .ring = false ∧ s.portState p = 3 ∧ s.permits.waiting = [] ∧ 320 < (toSigned skew 10).natAbs) ∧
    (∃ (s : State) (p : Side),
     let ix := sideIx p
     s.down .ring = false ∧ 1 ≤ s.portState p ∧ s.portState p ≤ 3 ∧ s.permitHeld .serdes ix = true ∧ s.permits.waiting = []) ∧
    (∃ (s : State) (p : Side),
     s.down .ring = false ∧ 4 ≤ s.portState p ∧ s.portState p ≤ 6) ∧
    (∃ (s : State) (p : Side),
     s.down .ring = false ∧ 4 ≤ s.portState p ∧ s.portState p ≤ 6) ∧
    (∃ (s : State) (p : Side),
     s.down .ring = false ∧ 1 ≤ s.portState p ∧ s.portState p ≤ 3) ∧
    (∃ (s : State) (p : Side),
     s.down .ring = false ∧ 4 ≤ s.portState p ∧ s.portState p ≤ 6) ∧
    (∃ (s : State) (p : Side),
     s.down .ring = false ∧ s.portState p = 6 ∧ (s.hello p).headerSeen = true) ∧
    (∃ (s : State) (p : Side),
     s.down .ring = false ∧ s.portState p = 6 ∧ (s.hello p).headerSeen = false) :=
  ⟨⟨port (enabledPorts rs) .east 7, .east, by decide +kernel⟩,
   ⟨(enabledPorts ready).set F.PMT_CFG_budget [] 63, .east, by decide +kernel⟩,
   ⟨serdes (port ready .east 1) .east, .east, by decide +kernel⟩,
   ⟨serdes (port ready .east 1) (otherSide .east), .east, by decide +kernel⟩,
   ⟨port ready .east 2, .east, by decide +kernel⟩,
   ⟨serdes (port ready .east 3) .east, .east, 3, 320, 2 ^ 25 - 1, by decide +kernel⟩,
   ⟨serdes (port ready .east 3) .east, .east, 321, by decide +kernel⟩,
   ⟨serdes (port ready .east 1) .east, .east, by decide +kernel⟩,
   ⟨looped 1, .east, by decide +kernel⟩,
   ⟨port ready .east 5, .east, by decide +kernel⟩,
   ⟨port ready .east 3, .east, by decide +kernel⟩,
   ⟨port ready .east 5, .east, by decide +kernel⟩,
   ⟨(looped 1).setHello .east { headerSeen := true }, .east, by decide +kernel⟩,
   ⟨looped 1, .east, by decide +kernel⟩⟩

theorem test_witness_RingHelloAndColdStart :
    (∃ (s : State) (p : Side),
     let x := s.hello p
     s.down .ring = false ∧ ((s.portState p = 4 ∨ s.portState p = 5)) ∧ x.compatible = false) ∧
    (∃ (s : State) (p : Side),
     let x := s.hello p
     s.down .ring = false ∧ ((s.portState p = 4 ∨ s.portState p = 5)) ∧ x.compatible = true ∧ x.rxAcks < 3) ∧
    (∃ (s : State) (p : Side),
     let x := s.hello p
     s.down .ring = false ∧ ((s.portState p = 4 ∨ s.portState p = 5)) ∧ x.compatible = true ∧ 3 ≤ x.rxAcks ∧ 2 ≤ x.txAcks) ∧
    (∃ (s : State) (p : Side) (blk : Block),
     let x := s.hello p
     let w := blk.toNat
     s.down .ring = false ∧ ((s.portState p = 4 ∨ s.portState p = 5)) ∧ controlSound w 0xB6 = true ∧ s.helloRefusal w = none ∧ natBit w 35 = true ∧ 2 ≤ x.rxAcks ∧ 3 ≤ x.txAcks) ∧
    (∃ (s : State) (p : Side) (blk : Block),
     let x := s.hello p
     let w := blk.toNat
     ∃ (cnt : Fld),
     s.down .ring = false ∧ ((s.portState p = 4 ∨ s.portState p = 5)) ∧ controlSound w 0xB6 = true ∧ s.helloRefusal w = some cnt ∧ x.refused = false) ∧
    (∃ (s : State) (p : Side) (blk : Block),
     let w := blk.toNat
     s.down .ring = false ∧ ((s.portState p = 4 ∨ s.portState p = 5)) ∧ controlSound w 0xB6 = false) ∧
    (∃ (s : State),
     s.down .ring = false ∧ s.phase = 1) ∧
    (∃ (s : State),
     s.down .ring = false ∧ s.phase = 2) ∧
    (∃ (s : State),
     s.down .ring = false ∧ s.phase = 3 ∧ s.portUp .east = true ∧ s.portUp .west = true) ∧
    (∃ (s : State) (p : Side) (blk : Block),
     let w := blk.toNat
     let pair := natBits w 49 46 * 64 + natBits w 55 50
     s.down .ring = false ∧ s.portUp p = true ∧ controlSound w 0xB7 = true ∧ s.lowerContend pair = false ∧ s.portUp (otherSide p) = true) ∧
    (∃ (s : State) (p : Side) (blk : Block),
     let w := blk.toNat
     let pair := natBits w 49 46 * 64 + natBits w 55 50
     s.down .ring = false ∧ s.portUp p = true ∧ controlSound w 0xB7 = true ∧ ((s.lowerContend pair = true ∨ s.portUp (otherSide p) = false))) ∧
    (∃ (s : State),
     s.down .ring = false ∧ s.phase = 3) :=
  ⟨⟨(port ready .east 5).setHello .east { compatible := false, txAcks := 3 }, .east, by decide +kernel⟩,
   ⟨(port ready .east 5).setHello .east { compatible := true, txAcks := 3 }, .east, by decide +kernel⟩,
   ⟨(port ready .east 5).setHello .east { compatible := true, txAcks := 2, rxAcks := 3 }, .east, by decide +kernel⟩,
   ⟨(port ready .east 5).setHello .east { txAcks := 3, rxAcks := 2 }, .east, helloOk 63 true, by decide +kernel⟩,
   ⟨(port ready .east 5).setHello .east { txAcks := 3, rxAcks := 3 }, .east, helloOk 0 true, F.RING_REFUSE_CNT_duplicate, by decide +kernel⟩,
   ⟨(port ready .east 5).setHello .east { txAcks := 3, rxAcks := 3 }, .east, 5, by decide +kernel⟩,
   ⟨phased 1, by decide +kernel⟩,
   ⟨phased 2, by decide +kernel⟩,
   ⟨phased 3, by decide +kernel⟩,
   ⟨phased 3, .east, blockOf (contendBlock 63 0), by decide +kernel⟩,
   ⟨{ phased 3 with ring := { contends := [(0, 0)] } }, .east, blockOf (contendBlock 63 0), by decide +kernel⟩,
   ⟨phased 3 timed, by decide +kernel⟩⟩

theorem test_witness_RingMastershipAndUpkeep :
    (∃ (s : State),
     s.down .ring = false ∧ s.followsRing = true ∧ s.get F.RING_START_STATUS_backup_pos ≠ 0 ∧ 3 ≤ s.ring.refMissing ∧ s.ring.lossRounds = none) ∧
    (∃ (s : State),
     ∃ n,
     s.down .ring = false ∧ s.ring.lossRounds = some n ∧ s.get F.RING_START_STATUS_backup_pos ≤ n + 1) ∧
    (∃ (s : State),
     ∃ n,
     s.down .ring = false ∧ s.ring.lossRounds = some n ∧ n + 1 < s.get F.RING_START_STATUS_backup_pos) ∧
    (∃ (s : State) (p : Path),
     ∃ (h : Nat) (hs : List Nat),
     s.down .ring = false ∧ s.admits p .RING_START_CTRL [] (s.merged p .RING_START_CTRL [] 0x100 0x100) ∧ s.isMaster = true ∧ s.ring.backups = h :: hs ∧ h < 64 ∧ natBit s.ring.handoffWord 63 = false) ∧
    (∃ (s : State) (p : Path),
     s.down .ring = false ∧ s.admits p .RING_START_CTRL [] (s.merged p .RING_START_CTRL [] 0x100 0x100) ∧ s.isMaster = true ∧ s.ring.backups = []) ∧
    (∃ (s : State) (p : Path),
     ∃ (on : Bool),
     s.down .ring = false ∧ s.admits p .RING_CTRL [] (s.merged p .RING_CTRL [] 0x80 (b2n on * 0x80)) ∧ s.isMaster = false) ∧
    (∃ (s : State) (p : Path),
     s.down .ring = false ∧ s.admits p .RING_CTRL [] (s.merged p .RING_CTRL [] 0x80 0x80) ∧ s.isMaster = true) ∧
    (∃ (s : State),
     ∃ (h : Nat),
     s.down .ring = false ∧ h < 64) ∧
    (∃ (s : State),
     s.down .ring = false ∧ s.phase = 5 ∧ s.ring.silentLeft = 0) ∧
    (∃ (s : State),
     ∃ n,
     s.down .ring = false ∧ s.ring.spareRounds = some n ∧ 8 ≤ n ∧ s.get F.RING_SPARE_STATUS_state = 1) :=
  ⟨⟨{ (looped 1).set F.RING_START_STATUS_backup_pos [] 1 with ring := { refMissing := 3, bitmap := 1 } }, by decide +kernel⟩,
   ⟨{ (looped 1).set F.RING_START_STATUS_backup_pos [] 2 with ring := { lossRounds := some 1 } }, 1, by decide +kernel⟩,
   ⟨{ (looped 1).set F.RING_START_STATUS_backup_pos [] 2 with ring := { lossRounds := some 0 } }, 0, by decide +kernel⟩,
   ⟨{ master with ring := { backups := [63, 4] } }, .hubController, 63, [4], by decide +kernel⟩,
   ⟨master, .hubController, by decide +kernel⟩,
   ⟨looped 1, .hubController, true, by decide +kernel⟩,
   ⟨master, .hubController, by decide +kernel⟩,
   ⟨(looped 1).set F.RING_REACH_eg_reach [63] 1, 63, by decide +kernel⟩,
   ⟨phased 5, by decide +kernel⟩,
   ⟨{ (looped 1).set F.RING_SPARE_STATUS_state [] 1 with ring := { spareRounds := some 8, preferred := [7] } }, 8, by decide +kernel⟩⟩

theorem test_witness_RingSlots :
    (∃ (s : State) (d : Side),
     let begins (n : Nat) : Prop :=
       s.integrated = true ∧ n < s.slotsPerDir ∧ (s.rdir d).runLeft = 0 ∧ (s.rdir d).runIdle = 0 ∧ (s.rdir d).afterRun = false ∧
         s.portUp d = true ∧ ((n ≠ 2 ∧ n ≠ 3) ∨ (s.rdir d).passed.contains (n - 1) = true)
     ∃ n,
     s.down .ring = false ∧ begins n ∧ s.isHead d = true ∧ s.ownsSlot d n = false ∧ 1 ≤ n ∧ s.relayFor d n = none) ∧
    (∃ (s : State) (d : Side),
     let begins (n : Nat) : Prop :=
       s.integrated = true ∧ n < s.slotsPerDir ∧ (s.rdir d).runLeft = 0 ∧ (s.rdir d).runIdle = 0 ∧ (s.rdir d).afterRun = false ∧
         s.portUp d = true ∧ ((n ≠ 2 ∧ n ≠ 3) ∨ (s.rdir d).passed.contains (n - 1) = true)
     ∃ n spare,
     s.down .ring = false ∧ begins n ∧ s.isHead d = true ∧ 3 ≤ n ∧ s.slotEntry d n = (s.hub, 1, spare) ∧ s.mayWrite d = true ∧ s.dying = false ∧ s.keptFill d n = none) ∧
    (∃ (s : State) (d : Side),
     let begins (n : Nat) : Prop :=
       s.integrated = true ∧ n < s.slotsPerDir ∧ (s.rdir d).runLeft = 0 ∧ (s.rdir d).runIdle = 0 ∧ (s.rdir d).afterRun = false ∧
         s.portUp d = true ∧ ((n ≠ 2 ∧ n ≠ 3) ∨ (s.rdir d).passed.contains (n - 1) = true)
     ∃ n,
     s.down .ring = false ∧ begins n ∧ s.isHead d = false ∧ s.isMaster = true ∧ s.isPadding d = true ∧ s.ownsSlot d n = false ∧ 1 ≤ n ∧ smGet (s.rdir d).padBuffer n [] = []) ∧
    (∃ (s : State) (d : Side),
     let begins (n : Nat) : Prop :=
       s.integrated = true ∧ n < s.slotsPerDir ∧ (s.rdir d).runLeft = 0 ∧ (s.rdir d).runIdle = 0 ∧ (s.rdir d).afterRun = false ∧
         s.portUp d = true ∧ ((n ≠ 2 ∧ n ≠ 3) ∨ (s.rdir d).passed.contains (n - 1) = true)
     s.down .ring = false ∧ begins 0 ∧ s.isHead d = true ∧ s.isMaster = true ∧ s.quiet d = false) ∧
    (∃ (s : State) (d : Side),
     ∃ n,
     s.down .ring = false ∧ s.integrated = true ∧ n < s.slotsPerDir ∧ 0 < (s.rdir d).runLeft) ∧
    (∃ (s : State) (d : Side),
     let rx := rxPort d
     s.down .ring = false ∧ s.portUp rx = false) ∧
    (∃ (s : State) (d : Side),
     let rx := rxPort d
     s.down .ring = false ∧ s.portUp rx = false) ∧
    (∃ (s : State) (d : Side) (blks : List Block),
     let rx := rxPort d
     s.down .ring = false ∧ s.portUp rx = true ∧ headerValid (blk blks 0) (s.get F.RING_CTRL_round_len) = false) ∧
    (∃ (s : State) (d : Side) (blks : List Block),
     let rx := rxPort d
     let h := headerOf (blk blks 0)
     let passes : Prop := s.portUp rx = true ∧ s.portUp d = true ∧ s.isHead d = false ∧ (s.isMaster = true → s.isPadding d = false) ∧
       headerValid (blk blks 0) (s.get F.RING_CTRL_round_len) = true ∧ s.ownsArrived d h = false ∧ s.isRunSlot d h = false ∧
       s.comeRound h = false
     s.down .ring = false ∧ passes ∧ poisoned blks = true) ∧
    (∃ (s : State) (d : Side) (blks : List Block),
     let rx := rxPort d
     let h := headerOf (blk blks 0)
     let passes : Prop := s.portUp rx = true ∧ s.portUp d = true ∧ s.isHead d = false ∧ (s.isMaster = true → s.isPadding d = false) ∧
       headerValid (blk blks 0) (s.get F.RING_CTRL_round_len) = true ∧ s.ownsArrived d h = false ∧ s.isRunSlot d h = false ∧
       s.comeRound h = false
     s.down .ring = false ∧ passes ∧ poisoned blks = false ∧ crcOk blks = false ∧ shotOk blks = false) ∧
    (∃ (s : State) (d : Side) (blks : List Block),
     let rx := rxPort d
     let h := headerOf (blk blks 0)
     let passes : Prop := s.portUp rx = true ∧ s.portUp d = true ∧ s.isHead d = false ∧ (s.isMaster = true → s.isPadding d = false) ∧
       headerValid (blk blks 0) (s.get F.RING_CTRL_round_len) = true ∧ s.ownsArrived d h = false ∧ s.isRunSlot d h = false ∧
       s.comeRound h = false
     s.down .ring = false ∧ passes ∧ crcOk blks = true ∧ shotOk blks = true ∧ h.payloadValid = false) ∧
    (∃ (s : State) (d : Side) (blks : List Block),
     let rx := rxPort d
     let h := headerOf (blk blks 0)
     let passes : Prop := s.portUp rx = true ∧ s.portUp d = true ∧ s.isHead d = false ∧ (s.isMaster = true → s.isPadding d = false) ∧
       headerValid (blk blks 0) (s.get F.RING_CTRL_round_len) = true ∧ s.ownsArrived d h = false ∧ s.isRunSlot d h = false ∧
       s.comeRound h = false
     s.down .ring = false ∧ passes ∧ blks ≠ []) :=
  ⟨⟨headed .east, .east, 4, by decide +kernel⟩,
   ⟨((((looped 1).setRdir .east { passed := [2] }).setHead .east true).wr .SLOT_TABLE [0, 3] 0x1000), .east, 3, false, by decide +kernel⟩,
   ⟨(master).set F.RING_PAD_padding [sideIx .east] 1, .east, 9, by decide +kernel⟩,
   ⟨master (headed .east), .east, by decide +kernel⟩,
   ⟨(looped 1).setRdir .east { runLeft := 4 }, .east, 0, by decide +kernel⟩,
   ⟨ready, .east, by decide +kernel⟩,
   ⟨ready, .east, by decide +kernel⟩,
   ⟨looped 1, .east, [], by decide +kernel⟩,
   ⟨looped 1, .east, slotIn 200 true 0xFFFFFFFF true, by decide +kernel⟩,
   ⟨looped 1, .east, slotBad 9, by decide +kernel⟩,
   ⟨looped 1, .east, slotIn 9, by decide +kernel⟩,
   ⟨looped 1, .east, (slotIn 9).take 30, by decide +kernel⟩⟩

theorem test_witness_RingRoundBoundary :
    (∃ (s : State),
     s.down .ring = false ∧ s.integrated = true ∧ s.ring.starting = false ∧ s.time.stepRound = none) ∧
    (∃ (s : State),
     s.down .ring = false ∧ s.integrated = false ∧ s.ring.starting = false) ∧
    (∃ (s : State),
     s.down .ring = false ∧ s.integrated = false ∧ s.ring.starting = true ∧ s.time.stepRound = none) :=
  ⟨⟨looped 1, by decide +kernel⟩,
   ⟨ready.set F.RING_CTRL_transit_only [] 1, by decide +kernel⟩,
   ⟨{ ready with ring := { starting := true } }, by decide +kernel⟩⟩

theorem test_witness_Dresser :
    (∃ (s : State) (b : Nat) (c : Nat),
     let x := s.chan b c
     ∃ w rest,
     s.down .bench = false ∧ b < 16 ∧ c < 64 ∧ c < 32 ∧ x.windows = w :: rest ∧ x.discard = 0) ∧
    (∃ (s : State) (b : Nat) (c : Nat),
     let x := s.chan b c
     ∃ w rest,
     s.down .bench = false ∧ b < 16 ∧ c < 64 ∧ c < 32 ∧ x.windows = w :: rest ∧ x.discard = 0) ∧
    (∃ (s : State) (b : Nat) (c : Nat),
     let x := s.chan b c
     ∃ w rest n,
     s.down .bench = false ∧ b < 16 ∧ c < 64 ∧ c < 32 ∧ x.windows = w :: rest ∧ x.discard = n + 1) ∧
    (∃ (s : State) (b : Nat) (c : Nat),
     ∃ p,
     s.down .bench = false ∧ b < 16 ∧ c < 64 ∧ c < 32 ∧ s.admits p .DRS_CH_CFG [b, c] (s.merged p .DRS_CH_CFG [b, c] 0x40000 0x40000)) ∧
    (∃ (s : State) (b : Nat) (c : Nat),
     let under := s.is F.DRS_CMP_CFG_mode [b, c]
     let written := natBit (smGet s.drs.released b 0) c
     ∃ p val,
     s.down .bench = false ∧ b < 16 ∧ c < 64 ∧ val < 2 ^ 32 ∧ s.admits p .DRS_CMP_LIMIT [b, c] val ∧ levelOk val = true ∧ ((written = true → levelsOk under val (s.rd .DRS_CMP_RELEASE [b, c]) = true))) ∧
    (∃ (s : State) (b : Nat) (c : Nat),
     let under := s.is F.DRS_CMP_CFG_mode [b, c]
     ∃ p val,
     s.down .bench = false ∧ b < 16 ∧ c < 64 ∧ val < 2 ^ 32 ∧ s.admits p .DRS_CMP_RELEASE [b, c] val ∧ levelOk val = true ∧ levelsOk under (s.rd .DRS_CMP_LIMIT [b, c]) val = true) ∧
    (∃ (s : State) (b : Nat) (c : Nat),
     ∃ p val,
     ∃ (release : Bool),
     s.down .bench = false ∧ b < 16 ∧ c < 64 ∧ val < 2 ^ 32 ∧ s.admits p (if release then .DRS_CMP_RELEASE else .DRS_CMP_LIMIT) [b, c] val ∧ levelOk val = false) :=
  ⟨⟨chan 15 31 { discard := 0, windows := [win (2 ^ 31 - 1), win 5] }, 15, 31, win (2 ^ 31 - 1), [win 5], by decide +kernel⟩,
   ⟨chan 15 31 { discard := 0, windows := [win (2 ^ 31 - 1), win 5] }, 15, 31, win (2 ^ 31 - 1), [win 5], by decide +kernel⟩,
   ⟨chan 15 31 { discard := 2, windows := [win 4, win 5] }, 15, 31, win 4, [win 5], 1, by decide +kernel⟩,
   ⟨(chan 15 31 { discard := 0, windows := [win (2 ^ 31 - 1), win 5] }).wr .DRS_CH_GAIN [15, 31] 0x40000000, 15, 31, Path.hubController, by decide +kernel⟩,
   ⟨(ready.wr .DRS_CMP_STATUS [15, 63] 0xFFFFFFFF), 15, 63, Path.hubController, 0x40000000, by decide +kernel⟩,
   ⟨ready.wr .DRS_CMP_LIMIT [15, 63] 0x40000000, 15, 63, Path.hubController, 0x3F800000, by decide +kernel⟩,
   ⟨ready, 15, 63, Path.hubController, 0x7F800000, true, by decide +kernel⟩⟩

theorem test_witness_EthernetReception :
    (∃ (s : State) (m : Nat) (bytes : List Byte) (cut : Bool),
     s.down .ethernet = false ∧ m < 8 ∧ s.linkUp m = true ∧ s.classify m bytes cut = .cut) ∧
    (∃ (s : State) (m : Nat) (bytes : List Byte) (cut : Bool),
     s.down .ethernet = false ∧ m < 8 ∧ s.linkUp m = true ∧ s.classify m bytes cut = .runt) ∧
    (∃ (s : State) (m : Nat) (bytes : List Byte) (cut : Bool),
     s.down .ethernet = false ∧ m < 8 ∧ s.linkUp m = true ∧ s.classify m bytes cut = .oversize) ∧
    (∃ (s : State) (m : Nat) (bytes : List Byte) (cut : Bool),
     s.down .ethernet = false ∧ m < 8 ∧ s.linkUp m = true ∧ s.classify m bytes cut = .fcs) ∧
    (∃ (s : State) (m : Nat) (bytes : List Byte) (cut : Bool),
     let f := bytes.take (bytes.length - 4)
     let c := s.keepClass f (s.ingressClass m f)
     ∃ n q,
     s.down .ethernet = false ∧ m < 8 ∧ s.linkUp m = true ∧ s.classify m bytes cut = .good ∧ s.is F.SWC_SAMPLE_CFG_enable [m] = false ∧ etherType f ≠ 0x8808 ∧ isPtp f = false ∧ reservedAddress f = false ∧ s.fdbEntry (beAt f 0 6) (s.frameVid m f) = some n ∧ q < 8 ∧ q ≠ m ∧ natBit (s.get F.SWC_FDB_ACT_port_mask [n]) q = true ∧ s.linkUp q = true ∧ s.swHeld q c + framePages f ≤ s.get F.SWC_LIMIT_pages [q, c]) ∧
    (∃ (s : State) (m : Nat) (bytes : List Byte) (cut : Bool),
     let f := bytes.take (bytes.length - 4)
     ∃ n q,
     s.down .ethernet = false ∧ m < 8 ∧ s.linkUp m = true ∧ s.classify m bytes cut = .good ∧ s.is F.SWC_SAMPLE_CFG_enable [m] = false ∧ etherType f ≠ 0x8808 ∧ isPtp f = false ∧ reservedAddress f = false ∧ s.fdbEntry (beAt f 0 6) (s.frameVid m f) = some n ∧ q < 8 ∧ q ≠ m ∧ natBit (s.get F.SWC_FDB_ACT_port_mask [n]) q = true ∧ s.linkUp q = false) ∧
    (∃ (s : State) (m : Nat) (bytes : List Byte),
     s.down .ethernet = false ∧ m < 8 ∧ s.linkUp m = true ∧ s.classify m bytes false = .good ∧ s.is F.SWC_SAMPLE_CFG_enable [m] = false ∧ etherType bytes = 0x8808 ∧ beAt bytes (ethBody bytes) 2 = 1) ∧
    (∃ (s : State) (m : Nat),
     s.down .ethernet = false ∧ m < 8 ∧ s.linkUp m = true) :=
  ⟨⟨mac 7, 7, [1], true, by decide +kernel⟩,
   ⟨mac 7, 7, zeros 63, false, by decide +kernel⟩,
   ⟨mac 7, 7, zeros 1523, false, by decide +kernel⟩,
   ⟨mac 7, 7, zeros 64, false, by decide +kernel⟩,
   ⟨fdb 6 (mac 6 (mac 7)), 7, ethGood, false, 3, 6, by decide +kernel⟩,
   ⟨fdb 6 (mac 7), 7, ethGood, false, 3, 6, by decide +kernel⟩,
   ⟨mac 7, 7, pauseOf 0xFFFF, by decide +kernel⟩,
   ⟨(mac 7).set F.ETH_MAC_STATUS_paused [7] 1, 7, by decide +kernel⟩⟩

theorem test_witness_EthernetSendingAndGates :
    (∃ (s : State) (m : Nat),
     ∃ (c : Nat) (f : EthFrame) (rest : List EthFrame),
     let b := padTo (max 60 f.bytes.length) f.bytes
     s.down .ethernet = false ∧ m < 8 ∧ s.linkUp m = true ∧ s.macBusy m = false ∧ s.is F.SWC_GATE_CTRL_enable [m] = false ∧ s.is F.ETH_MAC_STATUS_paused [m] = false ∧ c < 8 ∧ s.swQueue m c = f :: rest ∧ ((∀ k, k < 8 → c < k → s.swQueue m k = [])) ∧ isPtp f.bytes = false ∧ isPtp b = false) ∧
    (∃ (s : State),
     ∃ (c : Nat) (f : EthFrame) (rest : List EthFrame),
     s.down .ethernet = false ∧ c < 8 ∧ s.swQueue 9 c = f :: rest ∧ ((∀ k, k < 8 → c < k → s.swQueue 9 k = []))) ∧
    (∃ (s : State) (m : Nat),
     ∃ rate,
     s.down .ethernet = false ∧ m < 8 ∧ rate < 4 ∧ s.is F.ETH_MAC_CFG_enable [m] = true ∧ s.is F.ETH_MAC_STATUS_link_up [m] = false) ∧
    (∃ (s : State) (m : Nat),
     s.down .ethernet = false ∧ m < 8 ∧ s.is F.ETH_MAC_STATUS_link_up [m] = true) ∧
    (∃ (s : State) (m : Nat),
     ∃ p on,
     s.down .ethernet = false ∧ m < 8 ∧ s.admits p .ETH_MAC_CFG [m] (s.merged p .ETH_MAC_CFG [m] 0x80000000 (b2n on * 0x80000000))) ∧
    (∃ (s : State) (m : Nat),
     ∃ i left,
     s.down .ethernet = false ∧ m < 8 ∧ gateAt (s.gateList m (s.gateBank m)) 0 (s.gatePosition m) = some (i, left)) ∧
    (∃ (s : State) (m : Nat),
     ∃ p,
     s.down .ethernet = false ∧ m < 8 ∧ s.admits p .SWC_GATE_CTRL [m] (s.merged p .SWC_GATE_CTRL [m] 1 1) ∧ s.is F.SWC_GATE_CTRL_swap_pending [m] = false ∧ s.gateValid m (1 - s.gateBank m) = true) ∧
    (∃ (s : State) (m : Nat),
     ∃ p,
     s.down .ethernet = false ∧ m < 8 ∧ s.admits p .SWC_GATE_CTRL [m] (s.merged p .SWC_GATE_CTRL [m] 1 1) ∧ ((s.is F.SWC_GATE_CTRL_swap_pending [m] = true ∨ s.gateValid m (1 - s.gateBank m) = false))) ∧
    (∃ (s : State) (m : Nat),
     s.down .ethernet = false ∧ m < 8 ∧ s.is F.SWC_GATE_CTRL_swap_pending [m] = true) ∧
    (∃ (s : State) (m : Nat),
     s.down .ethernet = false ∧ m < 8 ∧ s.is F.SWC_GATE_CTRL_swap_pending [m] = false) :=
  ⟨⟨sendable 7 3 (mac 7), 7, 3, { bytes := body0.take 20, ingress := 9 }, [{ bytes := body0, ingress := 2 }], by decide +kernel⟩,
   ⟨sendable 9 0, 0, { bytes := body0.take 20, ingress := 9 }, [{ bytes := body0, ingress := 2 }], by decide +kernel⟩,
   ⟨(mac 7).set F.ETH_MAC_STATUS_link_up [7] 0, 7, 3, by decide +kernel⟩,
   ⟨sendable 7 3 (mac 7), 7, by decide +kernel⟩,
   ⟨ready, 7, Path.hubController, true, by decide +kernel⟩,
   ⟨gates 7 0, 7, 0, 600000 * unitsPerNs, by decide +kernel⟩,
   ⟨(gates 7 1).set F.ETH_MAC_STATUS_rate [7] 2, 7, Path.hubController, by decide +kernel⟩,
   ⟨ready, 7, Path.hubController, by decide +kernel⟩,
   ⟨(gates 7 1).set F.SWC_GATE_CTRL_swap_pending [7] 1, 7, by decide +kernel⟩,
   ⟨ready, 7, by decide +kernel⟩⟩

theorem test_witness_EthernetReassemblyAndSegmentation :
    (∃ (s : State) (t : State) (c : Nat) (x : Cell),
     let b1 := byteAt x.bytes 1
     s.down .ethernet = false ∧ s.is F.SWC_RING_CFG_enable = true ∧ s.clearOut.dequeue .switchPort (s.get F.SWC_RING_CFG_endpoint) c = (some x, t) ∧ ringCellBad x.bytes = false ∧ natBit b1 7 = true ∧ natBit b1 6 = false) ∧
    (∃ (s : State) (t : State) (c : Nat) (x : Cell),
     let b1 := byteAt x.bytes 1
     let k := b1 / 8 % 8
     ∃ p,
     s.down .ethernet = false ∧ s.is F.SWC_RING_CFG_enable = true ∧ s.clearOut.dequeue .switchPort (s.get F.SWC_RING_CFG_endpoint) c = (some x, t) ∧ ringCellBad x.bytes = false ∧ natBit b1 7 = false ∧ natBit b1 6 = false ∧ t.ringContext x.srcHub k = some p ∧ beAt x.bytes 2 2 = p.number ∧ byteAt x.bytes 4 = p.next) ∧
    (∃ (s : State) (t : State) (c : Nat) (x : Cell),
     let b1 := byteAt x.bytes 1
     let k := b1 / 8 % 8
     ∃ p,
     s.down .ethernet = false ∧ s.is F.SWC_RING_CFG_enable = true ∧ s.clearOut.dequeue .switchPort (s.get F.SWC_RING_CFG_endpoint) c = (some x, t) ∧ ringCellBad x.bytes = false ∧ natBit b1 7 = false ∧ t.ringContext x.srcHub k = some p ∧ beAt x.bytes 2 2 ≠ p.number) ∧
    (∃ (s : State) (t : State) (c : Nat) (x : Cell),
     let b1 := byteAt x.bytes 1
     let k := b1 / 8 % 8
     ∃ p,
     s.down .ethernet = false ∧ s.is F.SWC_RING_CFG_enable = true ∧ s.clearOut.dequeue .switchPort (s.get F.SWC_RING_CFG_endpoint) c = (some x, t) ∧ ringCellBad x.bytes = true ∧ t.ringContext x.srcHub k = some p) ∧
    (∃ (s : State) (c : Nat),
     ∃ src p,
     s.down .ethernet = false ∧ s.ringContext src c = some p) ∧
    (∃ (s : State),
     let d := s.segDesc
     let e := (s.segEgress d).1
     let fits : Prop := ∀ m, m < 8 → natBit e.ports m = true → segHdr d + segMss d + 4 ≤ s.get F.ETH_MAC_CFG_max_frame [m]
     ∃ p,
     s.down .ethernet = false ∧ s.admits p .SWC_SEG_CTRL [] 1 ∧ s.is F.SWC_SEG_STATUS_busy = false ∧ ((segFieldsOk d = false ∨ ¬ fits))) ∧
    (∃ (s : State),
     let d := s.segDesc
     let e := (s.segEgress d).1
     let n := (segLen d + segMss d - 1) / segMss d
     let fits : Prop := ∀ m, m < 8 → natBit e.ports m = true → segHdr d + segMss d + 4 ≤ s.get F.ETH_MAC_CFG_max_frame [m]
     ∃ p,
     s.down .ethernet = false ∧ s.admits p .SWC_SEG_CTRL [] 1 ∧ s.is F.SWC_SEG_STATUS_busy = false ∧ segFieldsOk d = true ∧ fits ∧ n ≤ 2047) ∧
    (∃ (s : State),
     s.down .ethernet = false ∧ s.is F.SWC_SEG_STATUS_busy = true) ∧
    (∃ (s : State),
     ∃ bytes c i q,
     s.down .ethernet = false ∧ 14 ≤ bytes.length ∧ bytes.length ≤ 9212 ∧ c < 8 ∧ etherType bytes ≠ 0x8808 ∧ reservedAddress bytes = false ∧ isPtp bytes = false ∧ s.fdbEntry (beAt bytes 0 6) (s.frameVid 9 bytes) = some i ∧ q < 8 ∧ natBit (s.get F.SWC_FDB_ACT_port_mask [i]) q = true ∧ s.linkUp q = true ∧ s.swHeld q c + framePages bytes ≤ s.get F.SWC_LIMIT_pages [q, c]) :=
  ⟨⟨ringIn (rf true false 77 0 [1, 2] 200) (none), ringTaken (ringIn (rf true false 77 0 [1, 2] 200) (none)), 15, arrivedCell (rf true false 77 0 [1, 2] 200) 9, by decide +kernel⟩,
   ⟨ringIn (rf false false 77 1 [9] 0) (some { number := 77, next := 1, length := 200, bytes := [1] }), ringTaken (ringIn (rf false false 77 1 [9] 0) (some { number := 77, next := 1, length := 200, bytes := [1] })), 15, arrivedCell (rf false false 77 1 [9] 0) 9, ({ number := 77, next := 1, length := 200, bytes := [1] } : RingFrame), by decide +kernel⟩,
   ⟨ringIn (rf false false 78 1 [9] 0) (some { number := 77, next := 1, length := 200, bytes := [1] }), ringTaken (ringIn (rf false false 78 1 [9] 0) (some { number := 77, next := 1, length := 200, bytes := [1] })), 15, arrivedCell (rf false false 78 1 [9] 0) 9, ({ number := 77, next := 1, length := 200, bytes := [1] } : RingFrame), by decide +kernel⟩,
   ⟨ringIn ((rf false false 77 1 [9] 0).set 0 0x30) (some { number := 77, next := 1, length := 200, bytes := [1] }), ringTaken (ringIn ((rf false false 77 1 [9] 0).set 0 0x30) (some { number := 77, next := 1, length := 200, bytes := [1] })), 15, arrivedCell ((rf false false 77 1 [9] 0).set 0 0x30) 9, ({ number := 77, next := 1, length := 200, bytes := [1] } : RingFrame), by decide +kernel⟩,
   ⟨ready.setRingContext 63 7 (some { number := 77, next := 1, length := 200, bytes := [1] }), 7, 63, ({ number := 77, next := 1, length := 200, bytes := [1] } : RingFrame), by decide +kernel⟩,
   ⟨ready, Path.hubController, by decide +kernel⟩,
   ⟨segJob (segBytes 14 1000 3000 0 0), Path.hubController, by decide +kernel⟩,
   ⟨ready.set F.SWC_SEG_STATUS_busy [] 1, by decide +kernel⟩,
   ⟨fdb 6 (mac 6), body0, 0, 3, 6, by decide +kernel⟩⟩

theorem test_witness_CanFrames :
    (∃ (s : State) (n : Nat),
     ∃ f,
     s.down .can = false ∧ n < 16 ∧ (s.canOf n).stopping = false ∧ s.canOnBus n = true ∧ f.ok = true ∧ ((f.fdf = true → s.is F.CAN_CTRL_fd_enable [n] = true)) ∧ s.get F.CAN_STATUS_rec [n] ≤ 127 ∧ (List.range 16).find? (s.canFilterPasses n f) = none) ∧
    (∃ (s : State) (n : Nat),
     ∃ f,
     s.down .can = false ∧ n < 16 ∧ (s.canOf n).stopping = false ∧ s.canOnBus n = true ∧ f.ok = true ∧ ((f.fdf = true → s.is F.CAN_CTRL_fd_enable [n] = true)) ∧ s.get F.CAN_STATUS_rec [n] ≤ 127 ∧ ((List.range 16).find? (s.canFilterPasses n f)).isSome = true ∧ s.is F.CAN_RX_CFG_state_report [n] = false) ∧
    (∃ (s : State) (n : Nat),
     s.down .can = false ∧ n < 16 ∧ (s.canOf n).stopping = false ∧ s.canOnBus n = false) ∧
    (∃ (s : State) (n : Nat),
     let c := s.canOf n
     ∃ (k : Nat) (x : Cell) (t : State),
     ∃ f,
     s.down .can = false ∧ n < 16 ∧ (s.canOf n).stopping = false ∧ s.canState n ≠ 0 ∧ s.canState n ≠ 7 ∧ c.tx.length < 8 ∧ s.canCellWaits n k = true ∧ ((∀ j, j < 16 → k < j → s.peekIntake (s.get F.CAN_RX_CFG_endpoint [n]) j = none)) ∧ s.clearOut.dequeue (.canChannel n) (s.get F.CAN_RX_CFG_endpoint [n]) k = (some x, t) ∧ t.canCommandFrame n x.bytes = some f ∧ beAt x.bytes 6 6 = 0 ∧ beAt x.bytes 12 4 = 0 ∧ ((t.is F.CAN_CTRL_fc_class [n] = true → t.canState n ≠ 4 ∧ t.canState n ≠ 5))) ∧
    (∃ (s : State) (n : Nat),
     let c := s.canOf n
     ∃ (k : Nat) (x : Cell) (t : State),
     s.down .can = false ∧ n < 16 ∧ (s.canOf n).stopping = false ∧ s.canState n ≠ 0 ∧ s.canState n ≠ 7 ∧ c.tx.length < 8 ∧ s.canCellWaits n k = true ∧ ((∀ j, j < 16 → k < j → s.peekIntake (s.get F.CAN_RX_CFG_endpoint [n]) j = none)) ∧ s.clearOut.dequeue (.canChannel n) (s.get F.CAN_RX_CFG_endpoint [n]) k = (some x, t) ∧ t.canCommandFrame n x.bytes = none ∧ t.is F.CAN_RX_CFG_tx_report [n] = false) ∧
    (∃ (s : State) (n : Nat),
     let c := s.canOf n
     ∃ (i : Nat) (e : CanEntry),
     s.down .can = false ∧ n < 16 ∧ (s.canOf n).stopping = false ∧ c.tx[i]? = some e ∧ e.t ≤ s.now (s.domOfConsumer .can)) ∧
    (∃ (s : State) (n : Nat),
     ∃ (i : Nat) (e : CanEntry),
     s.down .can = false ∧ n < 16 ∧ (s.canOf n).stopping = false ∧ s.canOnBus n = true ∧ s.is F.CAN_CTRL_listen_only [n] = false ∧ s.canOffer n = some (.entry i e)) ∧
    (∃ (s : State) (n : Nat),
     ∃ (i : Nat) (e : CanEntry) (r : CanTxEnd),
     s.down .can = false ∧ n < 16 ∧ (s.canOf n).stopping = false ∧ s.canOnBus n = true ∧ s.is F.CAN_CTRL_listen_only [n] = false ∧ s.canOffer n = some (.entry i e) ∧ r ≠ .sent ∧ e.oneShot = false) ∧
    (∃ (s : State) (n : Nat),
     ∃ (i : Nat) (e : CanEntry) (r : CanTxEnd),
     s.down .can = false ∧ n < 16 ∧ (s.canOf n).stopping = false ∧ s.canOnBus n = true ∧ s.is F.CAN_CTRL_listen_only [n] = false ∧ s.canOffer n = some (.entry i e) ∧ r ≠ .sent ∧ e.oneShot = true) ∧
    (∃ (s : State) (n : Nat),
     ∃ f,
     s.down .can = false ∧ n < 16 ∧ (s.canOf n).stopping = false ∧ s.canOnBus n = true ∧ s.is F.CAN_CTRL_listen_only [n] = false ∧ s.canOffer n = some (.reference f)) :=
  ⟨⟨(bus 15 2).set F.CAN_STATUS_rec [15] 127, 15, frameA, by decide +kernel⟩,
   ⟨((bus 15 3).set F.CAN_STATUS_rec [15] 1).set F.CAN_FILT_ID_valid [15, 15] 1, 15, frameA, by decide +kernel⟩,
   ⟨bus 15 4, 15, by decide +kernel⟩,
   ⟨canEp 15 2 (txCell 0 true), 15, 15, arrivedCell (txCell 0 true) 9, canTaken 15 (canEp 15 2 (txCell 0 true)), frameA, by decide +kernel⟩,
   ⟨canEp 15 2 (txCell 0x3FFFFFFF true), 15, 15, arrivedCell (txCell 0x3FFFFFFF true) 9, canTaken 15 (canEp 15 2 (txCell 0x3FFFFFFF true)), by decide +kernel⟩,
   ⟨bus 15 2 { tx := [entryA, { entryA with due := false }] }, 15, 1, { entryA with due := false }, by decide +kernel⟩,
   ⟨(bus 15 2 { tx := [entryA] }).set F.CAN_STATUS_tec [15] 9, 15, 0, entryA, by decide +kernel⟩,
   ⟨bus 15 2 { tx := [entryA], idle := true }, 15, 0, entryA, CanTxEnd.failed, by decide +kernel⟩,
   ⟨bus 15 2 { tx := [{ entryA with oneShot := true }] }, 15, 0, { entryA with oneShot := true }, CanTxEnd.lostArbitration, by decide +kernel⟩,
   ⟨bus 15 2 { reference := some frameA, refSeq := 15, tx := [entryA] }, 15, frameA, by decide +kernel⟩⟩

theorem test_witness_CanStates :
    (∃ (s : State) (n : Nat),
     ∃ p,
     s.down .can = false ∧ n < 16 ∧ s.admits p .CAN_CTRL [n] (s.merged p .CAN_CTRL [n] 0x80000000 0x80000000) ∧ s.canState n = 0) ∧
    (∃ (s : State) (n : Nat),
     ∃ p,
     s.down .can = false ∧ n < 16 ∧ s.admits p .CAN_CTRL [n] (s.merged p .CAN_CTRL [n] 0x80000000 0) ∧ s.canState n ≠ 0 ∧ s.canFrameInProgress n = false) ∧
    (∃ (s : State) (n : Nat),
     ∃ p,
     s.down .can = false ∧ n < 16 ∧ s.admits p .CAN_CTRL [n] (s.merged p .CAN_CTRL [n] 0x80000000 0) ∧ s.is F.CAN_CTRL_enable [n] = true ∧ s.canState n ≠ 0 ∧ s.canFrameInProgress n = true) ∧
    (∃ (s : State) (n : Nat),
     s.down .can = false ∧ n < 16 ∧ (s.canOf n).stopping = true ∧ s.canOnBus n = true ∧ s.is F.CAN_CTRL_listen_only [n] = false ∧ (s.canOffer n).isSome = true) ∧
    (∃ (s : State) (n : Nat),
     ∃ p,
     s.down .can = false ∧ n < 16 ∧ s.admits p .CAN_CTRL [n] (s.merged p .CAN_CTRL [n] 0x6000000 0x2000000) ∧ s.canState n = 4 ∧ s.is F.CAN_CTRL_enable [n] = true) ∧
    (∃ (s : State) (n : Nat),
     ∃ tec,
     s.down .can = false ∧ n < 16 ∧ s.canOnBus n = true ∧ (s.canOf n).stopping = false ∧ tec ≤ 255) ∧
    (∃ (s : State) (n : Nat),
     ∃ tec,
     s.down .can = false ∧ n < 16 ∧ s.canOnBus n = true ∧ (s.canOf n).stopping = false ∧ 255 < tec) ∧
    (∃ (s : State) (n : Nat),
     s.down .can = false ∧ n < 16 ∧ s.canState n = 5) ∧
    (∃ (s : State) (n : Nat),
     s.down .can = false ∧ n < 16 ∧ s.canState n ≠ 5) ∧
    (∃ (s : State) (n : Nat),
     s.down .can = false ∧ n < 16 ∧ s.canState n = 1 ∧ s.is F.CAN_KA_CFG_agree [n] = false ∧ (s.canOf n).sleepAsked = false ∧ (s.canOf n).stopping = false) :=
  ⟨⟨ready.set F.CAN_STATUS_tec [15] 9, 15, Path.hubController, by decide +kernel⟩,
   ⟨bus 15 2 { idle := true }, 15, Path.hubController, by decide +kernel⟩,
   ⟨bus 15 2 { tx := [entryA] }, 15, Path.hubController, by decide +kernel⟩,
   ⟨bus 15 2 { tx := [entryA], stopping := true, idle := true }, 15, by decide +kernel⟩,
   ⟨bus 15 4, 15, Path.hubController, by decide +kernel⟩,
   ⟨bus 15 2, 15, 127, by decide +kernel⟩,
   ⟨bus 15 2 { tx := [entryA] }, 15, 256, by decide +kernel⟩,
   ⟨(bus 15 5).set F.CAN_STATUS_tec [15] 255, 15, by decide +kernel⟩,
   ⟨bus 15 4, 15, by decide +kernel⟩,
   ⟨bus 15 1, 15, by decide +kernel⟩⟩

theorem test_witness_CanReferenceAndSleep :
    (∃ (s : State) (n : Nat),
     let c := s.canOf n
     ∃ x,
     s.down .can = false ∧ n < 16 ∧ s.is F.CAN_REF_CFG_enable [n] = true ∧ s.is F.CAN_STATUS_ref_master [n] = true ∧ s.canOnBus n = true ∧ c.refStamp = some x) ∧
    (∃ (s : State) (n : Nat),
     let c := s.canOf n
     s.down .can = false ∧ n < 16 ∧ s.is F.CAN_REF_CFG_enable [n] = true ∧ s.is F.CAN_STATUS_ref_master [n] = true ∧ s.canOnBus n = true ∧ c.refStamp = none) ∧
    (∃ (s : State) (n : Nat),
     s.down .can = false ∧ n < 16 ∧ s.is F.CAN_REF_CFG_enable [n] = true ∧ s.is F.CAN_STATUS_ref_master [n] = false ∧ s.canState n ≠ 0) ∧
    (∃ (s : State) (n : Nat),
     s.down .can = false ∧ n < 16 ∧ s.is F.CAN_KA_CFG_agree [n] = true ∧ s.is F.CAN_CTRL_want_awake [n] = true ∧ s.canOnBus n = true) ∧
    (∃ (s : State) (n : Nat),
     let c := s.canOf n
     s.down .can = false ∧ n < 16 ∧ ((s.canState n = 2 ∨ s.canState n = 3)) ∧ s.is F.CAN_KA_CFG_agree [n] = true ∧ s.is F.CAN_CTRL_want_awake [n] = false ∧ c.tx = []) ∧
    (∃ (s : State) (n : Nat),
     s.down .can = false ∧ n < 16 ∧ s.canOnBus n = true ∧ s.is F.CAN_CTRL_want_awake [n] = true) ∧
    (∃ (s : State) (n : Nat),
     let c := s.canOf n
     s.down .can = false ∧ n < 16 ∧ s.canState n = 6 ∧ c.tx = [] ∧ c.idle = true ∧ c.roused ≠ some s.time.cycles) ∧
    (∃ (s : State) (n : Nat),
     let c := s.canOf n
     ∃ p,
     s.down .can = false ∧ n < 16 ∧ s.admits p .CAN_CTRL [n] (s.merged p .CAN_CTRL [n] 0x6000000 0x4000000) ∧ ((s.canState n = 2 ∨ s.canState n = 3)) ∧ s.is F.CAN_CTRL_enable [n] = true ∧ c.tx = [] ∧ c.idle = true) ∧
    (∃ (s : State) (n : Nat),
     let c := s.canOf n
     ∃ tenths,
     s.down .can = false ∧ n < 16 ∧ s.canState n = 7 ∧ c.slept ≠ some s.time.cycles ∧ s.is F.CAN_RX_CFG_wake_frame [n] = false ∧ s.get F.CAN_WAKE_CFG_dom_filter [n] ≤ tenths) ∧
    (∃ (s : State) (n : Nat),
     ∃ tenths,
     s.down .can = false ∧ n < 16 ∧ tenths < s.get F.CAN_WAKE_CFG_dom_filter [n]) ∧
    (∃ (s : State) (n : Nat),
     let c := s.canOf n
     ∃ f,
     s.down .can = false ∧ n < 16 ∧ s.canState n = 7 ∧ c.slept ≠ some s.time.cycles ∧ s.is F.CAN_RX_CFG_wake_frame [n] = true ∧ s.isWakeFrame n f = true) ∧
    (∃ (s : State) (n : Nat),
     let c := s.canOf n
     ∃ f,
     s.down .can = false ∧ n < 16 ∧ s.canState n = 7 ∧ c.slept ≠ some s.time.cycles ∧ s.is F.CAN_RX_CFG_wake_frame [n] = true ∧ f.fdf = false ∧ s.isWakeFrame n f = false) ∧
    (∃ (s : State) (n : Nat),
     let c := s.canOf n
     s.down .can = false ∧ n < 16 ∧ s.canState n = 7 ∧ c.slept ≠ some s.time.cycles ∧ s.is F.CAN_RX_CFG_wake_frame [n] = true ∧ 31 ≤ s.get F.CAN_WAKE_CFG_error_count [n] ∧ s.is F.CAN_WAKE_CFG_fallback [n] = true) ∧
    (∃ (s : State) (n : Nat),
     let c := s.canOf n
     s.down .can = false ∧ n < 16 ∧ s.canState n = 7 ∧ c.slept ≠ some s.time.cycles ∧ s.is F.CAN_RX_CFG_wake_frame [n] = true ∧ s.get F.CAN_WAKE_CFG_error_count [n] < 31) ∧
    (∃ (s : State) (n : Nat),
     let c := s.canOf n
     s.down .can = false ∧ n < 16 ∧ s.canState n = 7 ∧ c.slept ≠ some s.time.cycles) ∧
    (∃ (s : State) (n : Nat),
     s.down .can = false ∧ n < 16 ∧ s.canState n = 6) :=
  ⟨⟨(((bus 15 2 { refStamp := some { t := 123456789012345 }, refValid := true, refSeq := 15 }).set F.CAN_REF_CFG_enable [15] 1).set F.CAN_STATUS_ref_master [15] 1).set F.CAN_REF_CFG_rank [15] 15, 15, { t := 123456789012345 }, by decide +kernel⟩,
   ⟨((bus 15 2 { refSeq := 3 }).set F.CAN_REF_CFG_enable [15] 1).set F.CAN_STATUS_ref_master [15] 1, 15, by decide +kernel⟩,
   ⟨(bus 15 2 { refValid := true }).set F.CAN_REF_CFG_enable [15] 1, 15, by decide +kernel⟩,
   ⟨((bus 15 2 {}).set F.CAN_KA_CFG_agree [15] 1).set F.CAN_CTRL_want_awake [15] 1, 15, by decide +kernel⟩,
   ⟨((bus 15 2 {}).set F.CAN_KA_CFG_agree [15] 1).set F.CAN_CTRL_want_awake [15] 0, 15, by decide +kernel⟩,
   ⟨(bus 15 2 {}).set F.CAN_CTRL_want_awake [15] 1, 15, by decide +kernel⟩,
   ⟨bus 15 6 { idle := true }, 15, by decide +kernel⟩,
   ⟨bus 15 2 { idle := true }, 15, Path.hubController, by decide +kernel⟩,
   ⟨bus 15 7 {}, 15, 100, by decide +kernel⟩,
   ⟨bus 15 7 {}, 15, 0, by decide +kernel⟩,
   ⟨((bus 15 7 {}).set F.CAN_RX_CFG_wake_frame [15] 1).set F.CAN_WAKE_CFG_data_check [15] 0, 15, frameA, by decide +kernel⟩,
   ⟨((bus 15 7 {}).set F.CAN_RX_CFG_wake_frame [15] 1).set F.CAN_WAKE_CFG_error_count [15] 9, 15, { frameA with ide := true }, by decide +kernel⟩,
   ⟨(((bus 15 7 {}).set F.CAN_RX_CFG_wake_frame [15] 1).set F.CAN_WAKE_CFG_error_count [15] 31).set F.CAN_WAKE_CFG_fallback [15] 1, 15, by decide +kernel⟩,
   ⟨((bus 15 7 {}).set F.CAN_RX_CFG_wake_frame [15] 1).set F.CAN_WAKE_CFG_error_count [15] 30, 15, by decide +kernel⟩,
   ⟨bus 15 7 {}, 15, by decide +kernel⟩,
   ⟨bus 15 6 {}, 15, by decide +kernel⟩⟩

theorem test_witness_Twins :
    (∃ (s : State) (p : Path) (val : Nat) (k : Nat) (m : Nat),
     s.down .hopper = false ∧ k < 32 ∧ m < 2 ∧ s.admits p .TWIN_HEALTH [] val ∧ val < 2 ^ 32) ∧
    (∃ (s : State) (k : Nat) (m : Nat),
     s.down .hopper = false ∧ k < 32 ∧ m < 2) ∧
    (∃ (s : State) (k : Nat) (m : Nat),
     s.down .hopper = false ∧ k < 32 ∧ m < 2 ∧ s.is F.TWIN_MEMBER_valid [k, m] = true ∧ 2 < s.claimAge k m) ∧
    (∃ (s : State) (k : Nat) (m : Nat),
     s.down .hopper = false ∧ k < 32 ∧ m < 2 ∧ s.claimAge k m ≤ 2) ∧
    (∃ (s : State) (k : Nat) (m : Nat),
     s.down .hopper = false ∧ k < 32 ∧ m < 2) :=
  ⟨⟨twinOne, .hubController, 0xFFFFFFFF, 0, 0, by decide +kernel⟩,
   ⟨twinOne, 0, 0, by decide +kernel⟩,
   ⟨twinOne, 31, 1, by decide +kernel⟩,
   ⟨twinOne.setTrack 31 0 { hub := 5, round := 9 }, 31, 0, by decide +kernel⟩,
   ⟨{ (twinOne.set F.TWIN_PAIR_STATUS_holdoff [31] 1) with twin := { healthExpired := false } }, 31, 0, by decide +kernel⟩⟩

theorem test_witness_GuardedChecks :
    (∃ (s : State) (r : List Byte) (rest : List (List Byte)),
     let takes (i : Instr) (r : List Byte) : Bool := match i with
       | .operateWhole => recType r == 1 && bodyFragment r == 0
       | .operateFirstPart => recType r == 1 && bodyFragment r == 0x80
       | .operateSecondPart => recType r == 1 && bodyFragment r == 1
       | .claimOverride => recType r == 2
       | .guardedRegisterWrite => recType r == 3
       | .keyLoad => recType r == 5 && bodyOp r == 1
       | .keyErase => recType r == 5 && bodyOp r == 2
       | .faceReset => recType r == 6
       | .benchOutOfService => serviceRecord 1 r
       | .benchReturnToService => serviceRecord 2 r
       | .benchReset => serviceRecord 3 r
       | .updateBegin => opRecord 1 r
       | .updateHandover => opRecord 2 r
       | .updateCommit => opRecord 3 r
       | .updateRollback => opRecord 4 r
       | .updateAbort => opRecord 5 r
       | .updateRevert => opRecord 6 r
       | _ => false
     ∃ i,
     ∃ c,
     s.down .hopper = false ∧ s.grd.inbox = r :: rest ∧ s.grd.responses.length < 32 ∧ takes i r = true ∧ s.verdict r = .result c) ∧
    (∃ (s : State) (r : List Byte) (rest : List (List Byte)),
     let takes (i : Instr) (r : List Byte) : Bool := match i with
       | .operateWhole => recType r == 1 && bodyFragment r == 0
       | .operateFirstPart => recType r == 1 && bodyFragment r == 0x80
       | .operateSecondPart => recType r == 1 && bodyFragment r == 1
       | .claimOverride => recType r == 2
       | .guardedRegisterWrite => recType r == 3
       | .keyLoad => recType r == 5 && bodyOp r == 1
       | .keyErase => recType r == 5 && bodyOp r == 2
       | .faceReset => recType r == 6
       | .benchOutOfService => serviceRecord 1 r
       | .benchReturnToService => serviceRecord 2 r
       | .benchReset => serviceRecord 3 r
       | .updateBegin => opRecord 1 r
       | .updateHandover => opRecord 2 r
       | .updateCommit => opRecord 3 r
       | .updateRollback => opRecord 4 r
       | .updateAbort => opRecord 5 r
       | .updateRevert => opRecord 6 r
       | _ => false
     ∃ i,
     s.down .hopper = false ∧ s.grd.inbox = r :: rest ∧ s.grd.responses.length < 32 ∧ takes i r = true ∧ s.verdict r = .duplicate) :=
  ⟨⟨asked ready (operate 0), operate 0, [], .operateWhole, 1, by decide +kernel⟩,
   ⟨asked (seen keyed) (record 2 37 [31, 2]), record 2 37 [31, 2], [], .claimOverride, by decide +kernel⟩⟩

theorem test_witness_GuardedOperate :
    (∃ (s : State) (r : List Byte) (rest : List (List Byte)),
     let e := bodyEndpoint r
     let cells (s : State) : List (Nat × Nat × List Byte) := smGet s.grd.buffers e []
     s.down .hopper = false ∧ s.grd.inbox = r :: rest ∧ s.grd.responses.length < 32 ∧ s.verdict r = .pass ∧ recType r = 1 ∧ s.guardOf e = none ∧ bodyFragment r = 0 ∧ (cells s).length < 16) ∧
    (∃ (s : State) (r : List Byte) (rest : List (List Byte)),
     let e := bodyEndpoint r
     let cells (s : State) : List (Nat × Nat × List Byte) := smGet s.grd.buffers e []
     s.down .hopper = false ∧ s.grd.inbox = r :: rest ∧ s.grd.responses.length < 32 ∧ s.verdict r = .pass ∧ recType r = 1 ∧ s.guardOf e = none ∧ bodyFragment r = 0 ∧ 16 ≤ (cells s).length) ∧
    (∃ (s : State) (r : List Byte) (rest : List (List Byte)),
     let e := bodyEndpoint r
     s.down .hopper = false ∧ s.grd.inbox = r :: rest ∧ s.grd.responses.length < 32 ∧ s.verdict r = .pass ∧ recType r = 1 ∧ s.guardOf e = none ∧ bodyFragment r = 0x80) ∧
    (∃ (s : State) (r : List Byte) (rest : List (List Byte)),
     let e := bodyEndpoint r
     let cells (s : State) : List (Nat × Nat × List Byte) := smGet s.grd.buffers e []
     ∃ x,
     s.down .hopper = false ∧ s.grd.inbox = r :: rest ∧ s.grd.responses.length < 32 ∧ s.verdict r = .pass ∧ recType r = 1 ∧ s.guardOf e = none ∧ bodyFragment r = 1 ∧ s.heldPart (recIssuer r) e = some x ∧ x.slot = recSlot r ∧ x.cls = bodyClass r ∧ x.counter + 1 = recCounter r ∧ (cells s).length < 16) ∧
    (∃ (s : State) (r : List Byte) (rest : List (List Byte)),
     let e := bodyEndpoint r
     s.down .hopper = false ∧ s.grd.inbox = r :: rest ∧ s.grd.responses.length < 32 ∧ s.verdict r = .pass ∧ recType r = 1 ∧ s.guardOf e = none ∧ bodyFragment r = 1 ∧ s.heldPart (recIssuer r) e = none) ∧
    (∃ (s : State),
     ∃ hub ep,
     s.down .hopper = false ∧ (s.heldPart hub ep).isSome = true) :=
  ⟨⟨asked keyed (operate 0), operate 0, [], by decide +kernel⟩,
   ⟨{ keyed with grd := { inbox := [operate 0], buffers := [(1023, List.replicate 16 (1, 2, zeros 128))] } }, operate 0, [], by decide +kernel⟩,
   ⟨asked keyed (operate 0x80), operate 0x80, [], by decide +kernel⟩,
   ⟨{ keyed with grd := { inbox := [operate 1], held := [heldOne] } }, operate 1, [], heldOne, by decide +kernel⟩,
   ⟨asked keyed (operate 1), operate 1, [], by decide +kernel⟩,
   ⟨{ keyed with grd := { held := [heldOne] } }, 0, 1023, by decide +kernel⟩⟩

theorem test_witness_GuardedKeys :
    (∃ (s : State) (r : List Byte) (rest : List (List Byte)),
     s.down .hopper = false ∧ s.grd.inbox = r :: rest ∧ s.grd.responses.length < 32 ∧ s.verdict r = .pass ∧ recType r = 2) ∧
    (∃ (s : State) (r : List Byte) (rest : List (List Byte)),
     let taken := ({ s.clearOut with grd := { s.grd with inbox := rest } } : State).acceptCounter (recSlot r) (recCounter r)
     ∃ x ix t,
     s.down .hopper = false ∧ s.grd.inbox = r :: rest ∧ s.grd.responses.length < 32 ∧ s.verdict r = .pass ∧ recType r = 3 ∧ bodyCount r = 1 ∧ bodyAddress r % 4 = 0 ∧ taken.regAt (bodyAddress r) = some (x, ix) ∧ taken.judge .guarded x ix (bodyAddress r) true (bodyWord r 0) = none ∧ taken.writeReg .guarded x ix (bodyWord r 0) = some t ∧ t.grd.responses.length < 32) ∧
    (∃ (s : State) (r : List Byte) (rest : List (List Byte)),
     ∃ key,
     s.down .hopper = false ∧ s.grd.inbox = r :: rest ∧ s.grd.responses.length < 32 ∧ s.verdict r = .pass ∧ recType r = 5 ∧ bodyOp r = 1 ∧ kwUnwrap (s.keySlot (recSlot r)).key (slice r 24 24) = some key) ∧
    (∃ (s : State) (r : List Byte) (rest : List (List Byte)),
     s.down .hopper = false ∧ s.grd.inbox = r :: rest ∧ s.grd.responses.length < 32 ∧ s.verdict r = .pass ∧ recType r = 5 ∧ bodyOp r = 1 ∧ kwUnwrap (s.keySlot (recSlot r)).key (slice r 24 24) = none) ∧
    (∃ (s : State) (r : List Byte) (rest : List (List Byte)),
     s.down .hopper = false ∧ s.grd.inbox = r :: rest ∧ s.grd.responses.length < 32 ∧ s.verdict r = .pass ∧ recType r = 5 ∧ bodyOp r = 2) ∧
    (∃ (s : State),
     ∃ i,
     s.down .hopper = false ∧ i < 32 ∧ (s.keySlot i).due = true ∧ s.permitHeld .crypto i = true ∧ s.permits.waiting = []) ∧
    (∃ (s : State),
     ∃ p,
     s.down .hopper = false ∧ s.admits p .GRD_FUSE_CTRL [] 1 ∧ s.is F.CHIP_STATUS_cfg_locked = false ∧ s.is F.GRD_STATUS_fuse_burned = false) ∧
    (∃ (s : State),
     ∃ p,
     s.down .hopper = false ∧ s.admits p .GRD_FUSE_CTRL [] 1 ∧ ((s.is F.CHIP_STATUS_cfg_locked = true ∨ s.is F.GRD_STATUS_fuse_burned = true))) :=
  ⟨⟨asked keyed (record 2 3 [31, 2]), record 2 3 [31, 2], [], by decide +kernel⟩,
   ⟨asked keyed writeRec, writeRec, [], .CAUSE_SUMMARY_EN, [], (({ keyed.clearOut with grd := { keyed.grd with inbox := [] } } : State).acceptCounter 0 2).wr .CAUSE_SUMMARY_EN [] 0x12345678, by decide +kernel⟩,
   ⟨asked keyed (keyRec 1 wrapped), keyRec 1 wrapped, [], 0x00112233445566778899AABBCCDDEEFF, by decide +kernel⟩,
   ⟨asked keyed (keyRec 1 []), keyRec 1 [], [], by decide +kernel⟩,
   ⟨asked keyed (keyRec 2 []), keyRec 2 [], [], by decide +kernel⟩,
   ⟨{ (keyed.setKeySlot 31 { key := 5, due := true, waiting := true }) with permits := { held := [(.crypto, 31)] } }, 31, by decide +kernel⟩,
   ⟨{ rs with grd := { stagedKey := 77 } }, .hubController, by decide +kernel⟩,
   ⟨{ ready with grd := { stagedKey := 77 } }, .hubController, by decide +kernel⟩⟩

theorem test_witness_GuardedWindows :
    (∃ (s : State) (w : Nat),
     let r := s.windowCommand w
     ∃ p,
     s.down .hopper = false ∧ w < 16 ∧ s.admits p .GRD_WIN_CTRL [w] (s.merged p .GRD_WIN_CTRL [w] 0x80000000 0x80000000) ∧ ((byteAt r 0 ≠ 0x51 ∨ recIssuer r ≠ s.hub))) ∧
    (∃ (s : State) (w : Nat),
     let r := s.windowCommand w
     let t := recTarget r % 64
     ∃ p,
     s.down .hopper = false ∧ w < 16 ∧ s.admits p .GRD_WIN_CTRL [w] (s.merged p .GRD_WIN_CTRL [w] 0x80000000 0x80000000) ∧ byteAt r 0 = 0x51 ∧ recIssuer r = s.hub ∧ t = s.hub) ∧
    (∃ (s : State) (w : Nat),
     let r := s.windowCommand w
     let t := recTarget r % 64
     ∃ p,
     s.down .hopper = false ∧ w < 16 ∧ s.admits p .GRD_WIN_CTRL [w] (s.merged p .GRD_WIN_CTRL [w] 0x80000000 0x80000000) ∧ byteAt r 0 = 0x51 ∧ recIssuer r = s.hub ∧ t ≠ s.hub ∧ s.is F.RING_HUBMAP_INFO_present [t] = true) ∧
    (∃ (s : State) (w : Nat),
     let r := s.windowCommand w
     let t := recTarget r % 64
     ∃ p,
     s.down .hopper = false ∧ w < 16 ∧ s.admits p .GRD_WIN_CTRL [w] (s.merged p .GRD_WIN_CTRL [w] 0x80000000 0x80000000) ∧ byteAt r 0 = 0x51 ∧ recIssuer r = s.hub ∧ t ≠ s.hub ∧ s.is F.RING_HUBMAP_INFO_present [t] = false) ∧
    (∃ (s : State) (w : Nat),
     ∃ x rest,
     s.down .hopper = false ∧ w < 16 ∧ s.grd.answers = x :: rest ∧ (List.range 16).find? (s.answersWindow x) = some w) ∧
    (∃ (s : State) (w : Nat),
     ∃ x rest,
     s.down .hopper = false ∧ w < 16 ∧ s.grd.answers = x :: rest ∧ (List.range 16).find? (s.answersWindow x) = none) ∧
    (∃ (s : State) (w : Nat),
     s.down .hopper = false ∧ w < 16 ∧ s.get F.GRD_WIN_CTRL_state [w] = 2) ∧
    (∃ (s : State) (w : Nat),
     s.down .hopper = false ∧ w < 16 ∧ s.get F.GRD_WIN_CTRL_state [w] ≠ 2) :=
  ⟨⟨ready, 15, .hubController, by decide +kernel⟩,
   ⟨window ready 0 0, 0, .hubController, by decide +kernel⟩,
   ⟨(window ready 7 63).set F.RING_HUBMAP_INFO_present [63] 1, 7, .hubController, by decide +kernel⟩,
   ⟨window ready 7 63, 7, .hubController, by decide +kernel⟩,
   ⟨{ ((window ready 7 63).set F.GRD_WIN_CTRL_state [7] 2) with grd := { answers := [[0x52, 5, 63, 0, 0], []] } }, 7, [0x52, 5, 63, 0, 0], [[]], by decide +kernel⟩,
   ⟨{ (window ready 7 63) with grd := { answers := [[0x52, 5, 63, 0, 0]] } }, 7, [0x52, 5, 63, 0, 0], [], by decide +kernel⟩,
   ⟨(window ready 15 63).set F.GRD_WIN_CTRL_state [15] 2, 15, by decide +kernel⟩,
   ⟨(window ready 15 63).set F.GRD_WIN_CTRL_state [15] 1, 15, by decide +kernel⟩⟩

theorem test_witness_BenchService :
    (∃ (s : State) (r : List Byte) (rest : List (List Byte)) (b : Nat),
     s.down .bench = false ∧ b < 16 ∧ s.grd.inbox = r :: rest ∧ s.grd.responses.length < 32 ∧ s.verdict r = .pass ∧ serviceRecord 1 r = true ∧ byteAt r 16 = b ∧ s.is F.BNCH_STATUS_out_of_service [b] = false) ∧
    (∃ (s : State) (r : List Byte) (rest : List (List Byte)) (b : Nat),
     s.down .bench = false ∧ b < 16 ∧ s.grd.inbox = r :: rest ∧ s.grd.responses.length < 32 ∧ s.verdict r = .pass ∧ serviceRecord 2 r = true ∧ byteAt r 16 = b ∧ s.is F.BNCH_STATUS_out_of_service [b] = false) ∧
    (∃ (s : State) (r : List Byte) (rest : List (List Byte)) (b : Nat),
     s.down .bench = false ∧ b < 16 ∧ s.grd.inbox = r :: rest ∧ s.grd.responses.length < 32 ∧ s.verdict r = .pass ∧ serviceRecord 2 r = true ∧ byteAt r 16 = b ∧ s.is F.BNCH_STATUS_out_of_service [b] = true ∧ s.get F.TST_BIST_STATUS_state = 0) ∧
    (∃ (s : State) (r : List Byte) (rest : List (List Byte)) (b : Nat),
     s.down .bench = false ∧ b < 16 ∧ s.grd.inbox = r :: rest ∧ s.grd.responses.length < 32 ∧ s.verdict r = .pass ∧ serviceRecord 3 r = true ∧ byteAt r 16 = b ∧ s.benchTaken b = false) ∧
    (∃ (s : State) (r : List Byte) (rest : List (List Byte)) (b : Nat),
     s.down .bench = false ∧ b < 16 ∧ s.grd.inbox = r :: rest ∧ s.grd.responses.length < 32 ∧ s.verdict r = .pass ∧ recType r = 6 ∧ s.faceResetRefused (byteAt r 16) = true) ∧
    (∃ (s : State) (r : List Byte) (rest : List (List Byte)) (b : Nat),
     s.down .bench = false ∧ b < 16 ∧ s.grd.inbox = r :: rest ∧ s.grd.responses.length < 32 ∧ s.verdict r = .pass ∧ recType r = 6 ∧ s.faceResetRefused (byteAt r 16) = false) ∧
    (∃ (s : State) (b : Nat),
     s.down .bench = false ∧ b < 16 ∧ s.is F.BNCH_STATUS_out_of_service [b] = true ∧ s.is F.BNCH_STATUS_queues_frozen [b] = false) ∧
    (∃ (s : State) (b : Nat),
     s.down .bench = false ∧ b < 16 ∧ (s.benchOf b).reloading = true ∧ s.permitHeld .settReload b = true ∧ s.permits.waiting = []) ∧
    (∃ (s : State) (b : Nat),
     s.down .bench = false ∧ b < 16 ∧ s.is F.BNCH_STATUS_out_of_service [b] = false ∧ s.bitOf F.UPD_PROGRESS_benches [] b = false) ∧
    (∃ (s : State) (b : Nat),
     s.down .bench = false ∧ b < 16 ∧ s.is F.BNCH_STATUS_out_of_service [b] = false ∧ s.bitOf F.UPD_PROGRESS_benches [] b = false) ∧
    (∃ (s : State) (b : Nat),
     ∃ f,
     s.down .bench = false ∧ b < 16 ∧ f < 16 ∧ s.faceBusy f = true ∧ s.faceReads f = false) ∧
    (∃ (s : State) (b : Nat),
     ∃ f,
     s.down .bench = false ∧ b < 16 ∧ s.faceReads f = true) :=
  ⟨⟨asked keyed (service 15 1), service 15 1, [], 15, by decide +kernel⟩,
   ⟨asked keyed (service 15 2), service 15 2, [], 15, by decide +kernel⟩,
   ⟨asked (keyed.set F.BNCH_STATUS_out_of_service [0] 1) (service 0 2), service 0 2, [], 0, by decide +kernel⟩,
   ⟨asked (keyed.set F.BNCH_STATUS_out_of_service [0] 1) (service 0 3), service 0 3, [], 0, by decide +kernel⟩,
   ⟨asked keyed (record 6 1 [0]), record 6 1 [0], [], 0, by decide +kernel⟩,
   ⟨asked ({ keyed with hop := { queues := [(1024 * 3 + 7, { cells := [{ index := 0, srcHub := 0, srcEp := 0, bytes := [] }] })] } }.wr .FACE_EP [0] 0xF000) (record 6 1 [15]), record 6 1 [15], [], 0, by decide +kernel⟩,
   ⟨ready.set F.BNCH_STATUS_out_of_service [3] 1, 3, by decide +kernel⟩,
   ⟨{ (ready.setBench 3 { reloading := true }) with permits := { held := [(.settReload, 3)] } }, 3, by decide +kernel⟩,
   ⟨ready, 15, by decide +kernel⟩,
   ⟨ready, 15, by decide +kernel⟩,
   ⟨ready.setBitOf F.FACE_RESET_STATUS_busy [] 15 true, 0, 15, by decide +kernel⟩,
   ⟨{ ready with brg := { tags := [(0, { used := true, face := 2 })] } }, 0, 2, by decide +kernel⟩⟩

theorem test_witness_UpdateOps :
    (∃ (s : State) (r : List Byte) (rest : List (List Byte)),
     let st := s.updState
     s.down .hopper = false ∧ s.grd.inbox = r :: rest ∧ s.grd.responses.length < 32 ∧ s.verdict r = .pass ∧ s.permits.waiting = [] ∧ recCounter r / 65536 ≤ s.keyCounter (recSlot r) / 65536 ∧ opRecord 1 r = true ∧ ((st = 0 ∨ st = 3 ∨ st = 7))) ∧
    (∃ (s : State) (r : List Byte) (rest : List (List Byte)),
     let st := s.updState
     s.down .hopper = false ∧ s.grd.inbox = r :: rest ∧ s.grd.responses.length < 32 ∧ s.verdict r = .pass ∧ s.permits.waiting = [] ∧ recCounter r / 65536 ≤ s.keyCounter (recSlot r) / 65536 ∧ opRecord 1 r = true ∧ (¬ (st = 0 ∨ st = 3 ∨ st = 7))) ∧
    (∃ (s : State) (r : List Byte) (rest : List (List Byte)),
     let st := s.updState
     let quiet : Prop := s.chip.warmWaiting = false ∧ s.upd.benchResets = []
     s.down .hopper = false ∧ s.grd.inbox = r :: rest ∧ s.grd.responses.length < 32 ∧ s.verdict r = .pass ∧ s.permits.waiting = [] ∧ recCounter r / 65536 ≤ s.keyCounter (recSlot r) / 65536 ∧ opRecord 2 r = true ∧ quiet ∧ st = 3 ∧ s.is F.UPD_STATUS_mode = true ∧ s.versionRule s.targetImage = false) ∧
    (∃ (s : State) (r : List Byte) (rest : List (List Byte)),
     let st := s.updState
     s.down .hopper = false ∧ s.grd.inbox = r :: rest ∧ s.grd.responses.length < 32 ∧ s.verdict r = .pass ∧ s.permits.waiting = [] ∧ recCounter r / 65536 ≤ s.keyCounter (recSlot r) / 65536 ∧ opRecord 2 r = true ∧ st = 3 ∧ s.is F.UPD_STATUS_mode = true ∧ s.versionRule s.targetImage = true) ∧
    (∃ (s : State) (r : List Byte) (rest : List (List Byte)),
     let st := s.updState
     s.down .hopper = false ∧ s.grd.inbox = r :: rest ∧ s.grd.responses.length < 32 ∧ s.verdict r = .pass ∧ s.permits.waiting = [] ∧ recCounter r / 65536 ≤ s.keyCounter (recSlot r) / 65536 ∧ opRecord 2 r = true ∧ ((st ≠ 3 ∨ s.is F.UPD_STATUS_mode = false))) ∧
    (∃ (s : State) (r : List Byte) (rest : List (List Byte)),
     let st := s.updState
     s.down .hopper = false ∧ s.grd.inbox = r :: rest ∧ s.grd.responses.length < 32 ∧ s.verdict r = .pass ∧ s.permits.waiting = [] ∧ recCounter r / 65536 ≤ s.keyCounter (recSlot r) / 65536 ∧ opRecord 3 r = true ∧ st = 5) ∧
    (∃ (s : State) (r : List Byte) (rest : List (List Byte)),
     let st := s.updState
     s.down .hopper = false ∧ s.grd.inbox = r :: rest ∧ s.grd.responses.length < 32 ∧ s.verdict r = .pass ∧ s.permits.waiting = [] ∧ recCounter r / 65536 ≤ s.keyCounter (recSlot r) / 65536 ∧ opRecord 3 r = true ∧ st = 3 ∧ s.is F.UPD_STATUS_mode = false ∧ s.versionRule s.targetImage = false ∧ s.genRule s.targetImage = false) ∧
    (∃ (s : State) (r : List Byte) (rest : List (List Byte)),
     let st := s.updState
     s.down .hopper = false ∧ s.grd.inbox = r :: rest ∧ s.grd.responses.length < 32 ∧ s.verdict r = .pass ∧ s.permits.waiting = [] ∧ recCounter r / 65536 ≤ s.keyCounter (recSlot r) / 65536 ∧ opRecord 4 r = true ∧ st = 3) ∧
    (∃ (s : State) (r : List Byte) (rest : List (List Byte)),
     let st := s.updState
     let quiet : Prop := s.chip.warmWaiting = false ∧ s.upd.benchResets = []
     s.down .hopper = false ∧ s.grd.inbox = r :: rest ∧ s.grd.responses.length < 32 ∧ s.verdict r = .pass ∧ s.permits.waiting = [] ∧ recCounter r / 65536 ≤ s.keyCounter (recSlot r) / 65536 ∧ opRecord 4 r = true ∧ quiet ∧ ((st = 4 ∨ st = 5)) ∧ s.rd .UPD_PROGRESS = 0) ∧
    (∃ (s : State) (r : List Byte) (rest : List (List Byte)),
     let st := s.updState
     s.down .hopper = false ∧ s.grd.inbox = r :: rest ∧ s.grd.responses.length < 32 ∧ s.verdict r = .pass ∧ s.permits.waiting = [] ∧ recCounter r / 65536 ≤ s.keyCounter (recSlot r) / 65536 ∧ opRecord 4 r = true ∧ st ≠ 3 ∧ st ≠ 4 ∧ st ≠ 5) ∧
    (∃ (s : State) (r : List Byte) (rest : List (List Byte)),
     let st := s.updState
     s.down .hopper = false ∧ s.grd.inbox = r :: rest ∧ s.grd.responses.length < 32 ∧ s.verdict r = .pass ∧ s.permits.waiting = [] ∧ recCounter r / 65536 ≤ s.keyCounter (recSlot r) / 65536 ∧ opRecord 5 r = true ∧ ((st = 1 ∨ st = 2))) ∧
    (∃ (s : State) (r : List Byte) (rest : List (List Byte)),
     let st := s.updState
     s.down .hopper = false ∧ s.grd.inbox = r :: rest ∧ s.grd.responses.length < 32 ∧ s.verdict r = .pass ∧ s.permits.waiting = [] ∧ recCounter r / 65536 ≤ s.keyCounter (recSlot r) / 65536 ∧ opRecord 5 r = true ∧ st ≠ 1 ∧ st ≠ 2) ∧
    (∃ (s : State) (r : List Byte) (rest : List (List Byte)),
     let st := s.updState
     s.down .hopper = false ∧ s.grd.inbox = r :: rest ∧ s.grd.responses.length < 32 ∧ s.verdict r = .pass ∧ s.permits.waiting = [] ∧ recCounter r / 65536 ≤ s.keyCounter (recSlot r) / 65536 ∧ opRecord 6 r = true ∧ st = 0 ∧ s.is F.UPD_STATUS_revert_ok = true) ∧
    (∃ (s : State) (r : List Byte) (rest : List (List Byte)),
     let st := s.updState
     s.down .hopper = false ∧ s.grd.inbox = r :: rest ∧ s.grd.responses.length < 32 ∧ s.verdict r = .pass ∧ s.permits.waiting = [] ∧ recCounter r / 65536 ≤ s.keyCounter (recSlot r) / 65536 ∧ opRecord 6 r = true ∧ ((st ≠ 0 ∨ s.is F.UPD_STATUS_revert_ok = false))) :=
  ⟨⟨asked (upd 0) (opRec 1), opRec 1, [], by decide +kernel⟩,
   ⟨asked (upd 4) (opRec 1), opRec 1, [], by decide +kernel⟩,
   ⟨asked (handing 3) (opRec 2), opRec 2, [], by decide +kernel⟩,
   ⟨(asked (handing 3) (opRec 2)).set F.RING_HUBMAP_INFO_present [63] 1 |>.set F.RING_HUBMAP_INFO_fw_major [63] 1, opRec 2, [], by decide +kernel⟩,
   ⟨asked (upd 3) (opRec 2), opRec 2, [], by decide +kernel⟩,
   ⟨asked (upd 5) (opRec 3), opRec 3, [], by decide +kernel⟩,
   ⟨asked (upd 3) (opRec 3), opRec 3, [], by decide +kernel⟩,
   ⟨asked (upd 3) (opRec 4), opRec 4, [], by decide +kernel⟩,
   ⟨asked (upd 4) (opRec 4), opRec 4, [], by decide +kernel⟩,
   ⟨asked (upd 6) (opRec 4), opRec 4, [], by decide +kernel⟩,
   ⟨asked (upd 1) (opRec 5), opRec 5, [], by decide +kernel⟩,
   ⟨asked (upd 0) (opRec 5), opRec 5, [], by decide +kernel⟩,
   ⟨asked ((upd 0).set F.UPD_STATUS_revert_ok [] 1) (opRec 6), opRec 6, [], by decide +kernel⟩,
   ⟨asked (upd 0) (opRec 6), opRec 6, [], by decide +kernel⟩⟩

theorem test_witness_UpdateSteps :
    (∃ (s : State),
     ∃ p index len,
     s.down .hopper = false ∧ index < 2 ^ 16 ∧ 1 ≤ len ∧ len ≤ 4096 ∧ s.admits p .UPD_CHUNK_CTRL [] (len * 2 ^ 16 + index) ∧ s.permits.waiting = [] ∧ s.updState = 1 ∧ s.upd.next = index ∧ s.permitHeld .deltaApply 0 = true ∧ s.upd.delta.length + len < 64) ∧
    (∃ (s : State),
     ∃ p index len,
     s.down .hopper = false ∧ index < 2 ^ 16 ∧ 1 ≤ len ∧ len ≤ 4096 ∧ s.admits p .UPD_CHUNK_CTRL [] (len * 2 ^ 16 + index) ∧ s.permits.waiting = [] ∧ s.updState = 1 ∧ s.upd.next = index ∧ s.permitHeld .deltaApply 0 = false ∧ s.permitFits .deltaApply = false) ∧
    (∃ (s : State),
     ∃ p index len,
     s.down .hopper = false ∧ index < 2 ^ 16 ∧ 1 ≤ len ∧ len ≤ 4096 ∧ s.admits p .UPD_CHUNK_CTRL [] (len * 2 ^ 16 + index) ∧ s.permits.waiting = [] ∧ ((s.updState ≠ 1 ∨ s.upd.next ≠ index))) ∧
    (∃ (s : State),
     s.down .hopper = false ∧ s.updState = 2 ∧ s.upd.verifying = true ∧ s.permits.waiting = []) ∧
    (∃ (s : State),
     let quiet : Prop := s.chip.warmWaiting = false ∧ s.upd.benchResets = []
     ∃ b,
     s.down .hopper = false ∧ b < 16 ∧ quiet ∧ s.permits.waiting = [] ∧ s.updState = 4 ∧ s.upd.step = b ∧ s.stepDue = true ∧ (s.benchOf b).reloading = true) ∧
    (∃ (s : State),
     let quiet : Prop := s.chip.warmWaiting = false ∧ s.upd.benchResets = []
     ∃ b,
     s.down .hopper = false ∧ b < 16 ∧ quiet ∧ ((s.updState = 4 ∨ s.updState = 3 ∧ s.upd.begun = true)) ∧ s.upd.step = b ∧ s.stepDue = true ∧ (s.benchOf b).reloading = false ∧ s.reloadReady b = true) ∧
    (∃ (s : State),
     ∃ b,
     s.down .hopper = false ∧ s.upd.begun = false ∧ s.upd.step ≠ b) ∧
    (∃ (s : State),
     let quiet : Prop := s.chip.warmWaiting = false ∧ s.upd.benchResets = []
     s.down .hopper = false ∧ quiet ∧ s.updState = 4 ∧ s.upd.step = 16 ∧ s.stepDue = true) ∧
    (∃ (s : State),
     s.down .hopper = false ∧ s.updState = 5 ∧ s.is F.UPD_CFG_auto_commit = true) ∧
    (∃ (s : State),
     s.down .hopper = false ∧ s.is F.UPD_CFG_auto_commit = false) ∧
    (∃ (s : State),
     let quiet : Prop := s.chip.warmWaiting = false ∧ s.upd.benchResets = []
     s.down .hopper = false ∧ quiet ∧ s.updState = 6 ∧ s.upd.step = 16 ∧ s.stepDue = true ∧ s.get F.UPD_PROGRESS_benches = 0) ∧
    (∃ (s : State),
     let quiet : Prop := s.chip.warmWaiting = false ∧ s.upd.benchResets = []
     ∃ b,
     s.down .hopper = false ∧ b < 16 ∧ quiet ∧ s.updState = 6 ∧ s.upd.step = b ∧ s.stepDue = true ∧ (s.benchOf b).reloading = false ∧ s.reloadReady b = true) :=
  ⟨⟨{ ((upd 1).wr .UPD_CHUNK [0] 0x01020304) with permits := { held := [(.deltaApply, 0)] } }, .hubController, 0, 63, by decide +kernel⟩,
   ⟨{ (upd 1) with upd := { next := 65535 }, permits := { held := (List.range 14).map fun i => (.dresserBurst, i) } }, .hubController, 65535, 4096, by decide +kernel⟩,
   ⟨upd 0, .hubController, 0, 1, by decide +kernel⟩,
   ⟨{ (upd 2) with upd := { verifying := true }, permits := { held := [(.deltaApply, 0), (.scrub, 0)] } }, by decide +kernel⟩,
   ⟨{ (handing 4).setBench 3 { reloading := true } with upd := { step := 3 } }, 3, by decide +kernel⟩,
   ⟨handing 4, 0, by decide +kernel⟩,
   ⟨handing 4, 1, by decide +kernel⟩,
   ⟨{ (handing 4) with upd := { step := 16 } }, by decide +kernel⟩,
   ⟨(handing 5).set F.UPD_CFG_auto_commit [] 1, by decide +kernel⟩,
   ⟨(handing 5).set F.UPD_CFG_auto_commit [] 0, by decide +kernel⟩,
   ⟨{ (handing 6).set F.UPD_PROGRESS_controller [] 1 with upd := { step := 16, rollback := 0x11 } }, by decide +kernel⟩,
   ⟨{ (handing 6).set F.UPD_PROGRESS_benches [] 0x8001 with upd := { step := 15, rollback := 0x11 } }, 15, by decide +kernel⟩⟩

theorem test_witness_CauseTreeAndLeafEvents :
    (∃ (s : State) (p : Path) (w : Nat) (val : Nat),
     s.down .hopper = false ∧ w < 28 ∧ val < 2 ^ 32 ∧ s.admits p .CAUSE_LEAF [w] val) ∧
    (∃ (s : State) (p : Path) (w : Nat) (val : Nat),
     s.down .hopper = false ∧ w < 28 ∧ val < 2 ^ 32 ∧ s.admits p .CAUSE_EN [w] val) ∧
    (∃ (s : State) (p : Path) (w : Nat) (val : Nat),
     s.down .hopper = false ∧ w < 28 ∧ val < 2 ^ 32 ∧ s.admits p .CAUSE_FAULT_CTRL [] 0x80000000) ∧
    (∃ (s : State) (p : Path) (w : Nat) (val : Nat),
     s.down .hopper = false ∧ w < 28 ∧ val < 2 ^ 32 ∧ s.admits p .CAUSE_FAULT_CTRL [] 0x40000000) ∧
    (∃ (s : State) (w : Nat) (val : Nat),
     s.down .hopper = false ∧ w < 28 ∧ val < 2 ^ 32 ∧ s.ringReady = true) ∧
    (∃ (s : State) (w : Nat) (val : Nat),
     s.down .hopper = false ∧ w < 28 ∧ val < 2 ^ 32 ∧ s.ringReady = false) ∧
    (∃ (s : State) (w : Nat) (val : Nat),
     s.down .hopper = false ∧ w < 28 ∧ val < 2 ^ 32 ∧ s.edge.held = false) ∧
    (∃ (s : State) (w : Nat) (val : Nat),
     s.down .hopper = false ∧ w < 28 ∧ val < 2 ^ 32 ∧ s.ringReady = true ∧ s.chipFault = false) ∧
    (∃ (s : State) (w : Nat) (val : Nat),
     s.down .hopper = false ∧ w < 28 ∧ val < 2 ^ 32 ∧ ((s.ringReady = false ∨ s.chipFault = true))) ∧
    (∃ (n : Nat),
     leafAssigned n = true) :=
  ⟨⟨busyTree, .hubController, 0, 0xFFFFFFFF, by decide +kernel⟩,
   ⟨busyTree, .hubController, 27, 0xFFFFFFFF, by decide +kernel⟩,
   ⟨ready, .hubController, 0, 0, by decide +kernel⟩,
   ⟨ready, .hubController, 0, 0, by decide +kernel⟩,
   ⟨ready, 0, 0, by decide +kernel⟩,
   ⟨rs, 0, 0, by decide +kernel⟩,
   ⟨ready, 0, 0, by decide +kernel⟩,
   ⟨ready, 0, 0, by decide +kernel⟩,
   ⟨ready.enterFault 0, 0, 0, by decide +kernel⟩,
   ⟨0, by decide +kernel⟩⟩

theorem test_witness_Resets :
    (∃ (s : State),
     ∃ ns,
     s.down .hopper = false ∧ 1000 ≤ ns ∧ s.edge.held = false ∧ s.dying = false) ∧
    (∃ (s : State),
     ∃ ns,
     s.down .hopper = false ∧ ((ns < 200 ∨ s.dying = true))) ∧
    (∃ (s : State) (p : Path),
     s.down .hopper = false ∧ s.admits p .CHIP_RESET [] 1 ∧ s.coldInProgress = false ∧ s.handingOver = false) ∧
    (∃ (s : State) (p : Path),
     s.down .hopper = false ∧ s.admits p .CHIP_RESET [] 1 ∧ s.coldInProgress = false ∧ s.handingOver = true) ∧
    (∃ (s : State) (p : Path),
     s.down .hopper = false ∧ s.admits p .CHIP_RESET [] 1 ∧ s.coldInProgress = true) ∧
    (∃ (s : State),
     ∃ failed,
     s.down .hopper = false ∧ natBit failed 0 = true ∧ natBit failed 1 = true ∧ s.edge.held = false ∧ s.get F.CFG_STATUS_state = 0 ∧ s.get F.TST_MODE_tmode = 0) ∧
    (∃ (s : State),
     s.down .hopper = false ∧ s.get F.CFG_STATUS_state ≠ 0) ∧
    (∃ (s : State),
     s.down .hopper = false ∧ s.edge.held = false ∧ s.get F.CFG_STATUS_state = 0 ∧ s.get F.TST_MODE_tmode = 0) ∧
    (∃ (s : State),
     s.down .hopper = false ∧ s.is F.CHIP_STATUS_cfg_locked = true ∧ s.get F.CFG_STATUS_state = 4) ∧
    (∃ (s : State) (p : Path),
     s.down .hopper = false ∧ s.admits p .CFG_BOOT [] 0x80000000 ∧ s.inRecovery = true) ∧
    (∃ (s : State) (p : Path),
     s.down .hopper = false ∧ s.admits p .CFG_BOOT [] 0x80000000 ∧ s.inRecovery = false) :=
  ⟨⟨ready, 1000, by decide +kernel⟩,
   ⟨ready, 199, by decide +kernel⟩,
   ⟨busyTree, .hubController, by decide +kernel⟩,
   ⟨{ (ready.set F.UPD_STATUS_state [] 4) with upd := { atRound := 0 } }, .hubController, by decide +kernel⟩,
   ⟨rs, .hubController, by decide +kernel⟩,
   ⟨rs, 3, by decide +kernel⟩,
   ⟨ready, by decide +kernel⟩,
   ⟨rs, by decide +kernel⟩,
   ⟨(rs.set F.CHIP_STATUS_cfg_locked [] 1).set F.CFG_STATUS_state [] 4, by decide +kernel⟩,
   ⟨recovery, .spi, by decide +kernel⟩,
   ⟨ready, .spi, by decide +kernel⟩⟩

theorem test_witness_FlashOperations :
    (∃ (s : State) (p : Path),
     let addr := s.get F.CFG_FLASH_ADDR_address
     let free : Prop := s.is F.CFG_FLASH_CMD_busy = false
     s.down .hopper = false ∧ s.admits p .CFG_FLASH_CMD [] 1 ∧ free ∧ addr % 256 = 0) ∧
    (∃ (s : State) (p : Path),
     let addr := s.get F.CFG_FLASH_ADDR_address
     let free : Prop := s.is F.CFG_FLASH_CMD_busy = false
     s.down .hopper = false ∧ s.admits p .CFG_FLASH_CMD [] 1 ∧ free ∧ addr % 256 ≠ 0) ∧
    (∃ (s : State) (p : Path),
     let addr := s.get F.CFG_FLASH_ADDR_address
     let free : Prop := s.is F.CFG_FLASH_CMD_busy = false
     s.down .hopper = false ∧ s.admits p .CFG_FLASH_CMD [] 2 ∧ free ∧ addr % 256 = 0) ∧
    (∃ (s : State) (p : Path),
     let addr := s.get F.CFG_FLASH_ADDR_address
     let free : Prop := s.is F.CFG_FLASH_CMD_busy = false
     s.down .hopper = false ∧ s.admits p .CFG_FLASH_CMD [] 2 ∧ free ∧ addr % 256 ≠ 0) ∧
    (∃ (s : State) (p : Path),
     let addr := s.get F.CFG_FLASH_ADDR_address
     let free : Prop := s.is F.CFG_FLASH_CMD_busy = false
     s.down .hopper = false ∧ s.admits p .CFG_FLASH_CMD [] 3 ∧ free ∧ addr % 65536 = 0) ∧
    (∃ (s : State) (p : Path),
     let addr := s.get F.CFG_FLASH_ADDR_address
     let free : Prop := s.is F.CFG_FLASH_CMD_busy = false
     s.down .hopper = false ∧ s.admits p .CFG_FLASH_CMD [] 3 ∧ free ∧ addr % 65536 ≠ 0) ∧
    (∃ (s : State),
     s.down .hopper = false ∧ s.chip.flashOp ≠ 0 ∧ ((s.chip.flashOp ≠ 3 ∨ s.dying = false))) ∧
    (∃ (s : State),
     s.down .hopper = false ∧ s.chip.flashOp = 1) ∧
    (∃ (s : State),
     s.down .hopper = false ∧ s.chip.flashOp = 2) ∧
    (∃ (s : State),
     s.down .hopper = false ∧ s.chip.flashOp = 3 ∧ s.dying = true) ∧
    (∃ (s : State),
     s.down .hopper = false ∧ s.chip.flashOp = 3 ∧ s.dying = false) ∧
    (∃ (s : State),
     s.down .hopper = false ∧ s.chip.flashOp = 0 ∧ ((s.updState = 1 ∨ s.updState = 2))) ∧
    (∃ (s : State),
     s.down .hopper = false ∧ s.ringReady = true ∧ s.dying = false) ∧
    (∃ (m : List (Nat × Byte)),
     smWf m erased = true) :=
  ⟨⟨recovery.wr .CFG_FLASH_ADDR [] 0x3FFFF00, .spi, by decide +kernel⟩,
   ⟨recovery.wr .CFG_FLASH_ADDR [] 0x3FFFF01, .spi, by decide +kernel⟩,
   ⟨recovery, .spi, by decide +kernel⟩,
   ⟨recovery.wr .CFG_FLASH_ADDR [] 255, .spi, by decide +kernel⟩,
   ⟨recovery.wr .CFG_FLASH_ADDR [] 65536, .spi, by decide +kernel⟩,
   ⟨recovery.wr .CFG_FLASH_ADDR [] 256, .spi, by decide +kernel⟩,
   ⟨flashOp 3, by decide +kernel⟩,
   ⟨flashOp 1, by decide +kernel⟩,
   ⟨flashOp 2, by decide +kernel⟩,
   ⟨{ (flashOp 3).set F.EDGE_STATUS_state [] 5 with edge := {} }, by decide +kernel⟩,
   ⟨flashOp 3, by decide +kernel⟩,
   ⟨ready.set F.UPD_STATUS_state [] 1, by decide +kernel⟩,
   ⟨ready, by decide +kernel⟩,
   ⟨[(0, 1), (5, 2), (300, 3)], by decide +kernel⟩⟩

theorem test_witness_TestAndLink :
    (∃ (s : State) (p : Path) (val : Nat),
     s.admits p .TST_UNLOCK [] val ∧ s.chip.unlockWindow = true ∧ s.get F.CFG_STATUS_state = 0) ∧
    (∃ (s : State) (p : Path) (val : Nat),
     s.admits p .TST_UNLOCK [] val ∧ s.chip.unlockWindow = false) ∧
    (∃ (s : State),
     s.chip.perst = false ∧ s.edge.held = false ∧ s.dying = false ∧ s.chip.linkUp = false) ∧
    (∃ (s : State),
     s.chip.linkUp = true) ∧
    (∃ (s : State),
     ((s.edge.held = true ∨ s.chip.tap.low = true))) ∧
    (∃ (s : State),
     s.edge.held = false ∧ s.chip.tap.low = false) ∧
    (∃ (s : State),
     s.edge.held = false ∧ s.chip.tap.low = false) ∧
    (∃ (s : State),
     s.edge.held = false ∧ s.chip.tap.low = false) ∧
    (∃ (s : State),
     s.edge.held = false ∧ s.chip.tap.low = false) :=
  ⟨⟨unlockable, .hubController, 0, by decide +kernel⟩,
   ⟨ready, .spi, 0x5A5A, by decide +kernel⟩,
   ⟨ready, by decide +kernel⟩,
   ⟨{ ready with chip := { linkUp := true } }, by decide +kernel⟩,
   ⟨ready, by decide +kernel⟩,
   ⟨{ ready with chip := { tap := {} } }, by decide +kernel⟩,
   ⟨{ ready with chip := { tap := { state := .shiftDr } } }, by decide +kernel⟩,
   ⟨{ ready with chip := { tap := {} } }, by decide +kernel⟩,
   ⟨{ ready with chip := { tap := { state := .shiftDr, shifted := [true] } } }, by decide +kernel⟩⟩

theorem test_witness_PermitsAndTest :
    (∃ (s : State) (k : PermitKind) (unit : Nat),
     s.down .hopper = false ∧ s.permitKnown k unit = true) ∧
    (∃ (s : State) (k : PermitKind) (unit : Nat),
     s.down .hopper = false ∧ k ≠ .deltaApply ∧ s.permitKnown k unit = false ∧ s.permits.waiting = [] ∧ s.permitFits k = true ∧ s.burstCapped k = false ∧ s.is F.PMT_STATUS_revoked = false) ∧
    (∃ (s : State) (k : PermitKind) (unit : Nat),
     s.down .hopper = false ∧ s.permitKnown k unit = false ∧ s.permits.waiting = [] ∧ ((s.permitFits k = false ∨ s.burstCapped k = true))) ∧
    (∃ (s : State) (k : PermitKind) (unit : Nat),
     s.down .hopper = false ∧ s.permitHeld k unit = true ∧ s.permits.waiting = []) ∧
    (∃ (s : State) (k : PermitKind) (unit : Nat),
     ∃ since,
     s.down .hopper = false ∧ s.permits.waiting = [{ kind := k, unit := unit, since := since }]) ∧
    (∃ (s : State) (p : Path),
     ∃ budget,
     s.down .hopper = false ∧ budget < 64 ∧ s.admits p .PMT_CFG [] (s.merged p .PMT_CFG [] 0x3F budget) ∧ s.permits.waiting = [] ∧ s.lockedFor p = false ∧ 4 ≤ budget) ∧
    (∃ (s : State) (p : Path),
     ∃ budget,
     s.down .hopper = false ∧ budget < 64 ∧ s.admits p .PMT_CFG [] (s.merged p .PMT_CFG [] 0x3F budget) ∧ s.permits.waiting = [] ∧ s.lockedFor p = false ∧ budget < 4) ∧
    (∃ (s : State) (p : Path),
     ∃ budget,
     s.down .hopper = false ∧ budget < 64 ∧ s.admits p .PMT_CFG [] (s.merged p .PMT_CFG [] 0x3F budget) ∧ s.permits.waiting = [] ∧ s.lockedFor p = true ∧ budget ≠ s.get F.PMT_CFG_budget) ∧
    (∃ (s : State) (p : Path),
     ∃ b,
     s.down .hopper = false ∧ b < 16 ∧ s.admits p .TST_BIST_CTRL [] (2 ^ 31 + b) ∧ s.permits.waiting = [] ∧ s.permitHeld .bist 0 = false) ∧
    (∃ (s : State),
     s.down .hopper = false ∧ s.get F.TST_BIST_STATUS_state = 2 ∧ s.permits.waiting = []) ∧
    (∃ (s : State),
     ∃ n,
     s.down .hopper = false ∧ s.get F.TST_BIST_STATUS_state = 2 ∧ s.permits.waiting = [] ∧ 1 ≤ n ∧ n ≤ 7) :=
  ⟨⟨{ ready with permits := { held := [(.scrub, 0)] } }, .scrub, 0, by decide +kernel⟩,
   ⟨{ ready with permits := { held := [(.scrub, 0)] } }, .dresserBurst, 15, by decide +kernel⟩,
   ⟨{ ready with permits := { held := [(.settReload, 0), (.settReload, 1), (.settReload, 2), (.settReload, 3), (.scrub, 0), (.deltaApply, 0)] } }, .bist, 0, by decide +kernel⟩,
   ⟨{ ready with permits := { held := [(.scrub, 0), (.bist, 0)] } }, .bist, 0, by decide +kernel⟩,
   ⟨{ ready with permits := { waiting := [{ kind := .bist, unit := 0, since := 7 }] } }, .bist, 0, 7, by decide +kernel⟩,
   ⟨rs, .hubController, 63, by decide +kernel⟩,
   ⟨rs, .hubController, 3, by decide +kernel⟩,
   ⟨ready, .hubController, 3, by decide +kernel⟩,
   ⟨outBench 15, .hubController, 15, by decide +kernel⟩,
   ⟨bistRun, by decide +kernel⟩,
   ⟨bistRun, 7, by decide +kernel⟩⟩

theorem test_witness_EdgeFeeds :
    (∃ vina vinb vhold,
     4000 < max vina (max vinb vhold)) ∧
    (∃ vina vinb vhold,
     max vina (max vinb vhold) ≤ 4000) ∧
    (∃ (s : State),
     s.edge.stopped = true) ∧
    (∃ (s : State),
     ∃ mv,
     s.edge.stopped = false ∧ mv < 65536) ∧
    (∃ (s : State),
     ∃ feedB,
     s.edge.stopped = false ∧ s.is (gateFld feedB) = true) ∧
    (∃ (s : State),
     ∃ feedB,
     s.is (gateFld feedB) = false) ∧
    (∃ (s : State),
     s.pending = [] ∧ s.edge.stopped = false ∧ (s.edge.tick + 1) % 5000 = 0 ∧ s.is F.EDGE_STATUS_hs_on = false ∧ s.edgeState ≠ 5 ∧ s.is F.EDGE_HS_CFG_diode = false) :=
  ⟨⟨48000, 0, 4001, by decide +kernel⟩,
   ⟨4000, 0, 0, by decide +kernel⟩,
   ⟨{ rs with edge := { stopped := true } }, by decide +kernel⟩,
   ⟨edgeOn 0, 48000, by decide +kernel⟩,
   ⟨edgeOn 4, false, by decide +kernel⟩,
   ⟨edgeOn 4, true, by decide +kernel⟩,
   ⟨{ edge 0 with edge := { tick := 4999, charge := 5, bankMa := -7, charging := some (1, 2) } }, by decide +kernel⟩⟩

theorem test_witness_EdgeInrush :
    (∃ (s : State),
     ∃ (seatB : Bool) (asserted : Bool),
     let f := if seatB then F.EDGE_STATUS_seat_b else F.EDGE_STATUS_seat_a
     s.edge.stopped = false ∧ s.is f = asserted) ∧
    (∃ (s : State),
     ∃ (seatB : Bool) (asserted : Bool),
     let f := if seatB then F.EDGE_STATUS_seat_b else F.EDGE_STATUS_seat_a
     s.edge.stopped = false ∧ s.is f ≠ asserted) ∧
    (∃ (s : State),
     s.edge.stopped = false ∧ s.seated = true) ∧
    (∃ (s : State),
     let cool : Prop := toSigned (s.get F.EDGE_THERM_STATUS_t_fet) 16 ≤ s.get F.EDGE_THERM_CFG_t_restart * 64
     s.edge.stopped = false ∧ s.edgeState = 1 ∧ s.edge.debounced = true ∧ s.is F.EDGE_RETRY_running = false ∧ cool) ∧
    (∃ (s : State),
     let cool : Prop := toSigned (s.get F.EDGE_THERM_STATUS_t_fet) 16 ≤ s.get F.EDGE_THERM_CFG_t_restart * 64
     s.edge.stopped = false ∧ ((s.edgeState ≠ 1 ∨ s.edge.debounced = false ∨ s.is F.EDGE_RETRY_running = true ∨ ¬ cool))) ∧
    (∃ (s : State),
     s.edge.stopped = false ∧ s.edgeState = 2 ∧ s.edge.gateCheck = false) ∧
    (∃ (s : State),
     s.edge.stopped = false ∧ s.edgeState = 2 ∧ s.edge.gateCheck = false) ∧
    (∃ (s : State),
     s.edge.stopped = false ∧ s.edgeState = 2 ∧ s.edge.gateCheck = true) ∧
    (∃ (s : State),
     s.edge.stopped = false ∧ s.edgeState = 2 ∧ s.edge.gateCheck = true) ∧
    (∃ (s : State),
     s.edge.stopped = false ∧ s.feedValid = true ∧ s.is F.EDGE_STATUS_hs_on = false) ∧
    (∃ (s : State),
     s.edge.stopped = false ∧ s.is F.EDGE_RETRY_running = true) ∧
    (∃ (s : State),
     s.edge.stopped = false ∧ s.is F.EDGE_STATUS_hs_on = true) ∧
    (∃ (s : State),
     s.edge.stopped = false ∧ s.is F.EDGE_STATUS_hs_on = false ∧ s.gaspBeganNow = false) ∧
    (∃ (s : State),
     ∃ t,
     s.edge.stopped = false ∧ t < 32768 ∧ s.is F.EDGE_STATUS_hs_on = true ∧ s.get F.EDGE_THERM_CFG_t_limit * 64 ≤ t) :=
  ⟨⟨edgeOn 4, true, true, by decide +kernel⟩,
   ⟨edgeOn 4, true, false, by decide +kernel⟩,
   ⟨edgeOn 1, by decide +kernel⟩,
   ⟨{ (edgeOn 1) with edge := { debounced := true } }, by decide +kernel⟩,
   ⟨edgeOn 1, by decide +kernel⟩,
   ⟨edgeOn 2, by decide +kernel⟩,
   ⟨edgeOn 2, by decide +kernel⟩,
   ⟨gated (edgeOn 2), by decide +kernel⟩,
   ⟨gated (edgeOn 2), by decide +kernel⟩,
   ⟨(edgeOn 0).set F.EDGE_STATUS_hs_on [] 0, by decide +kernel⟩,
   ⟨(edgeOn 0).set F.EDGE_RETRY_running [] 1, by decide +kernel⟩,
   ⟨edgeOn 4, by decide +kernel⟩,
   ⟨edge 4, by decide +kernel⟩,
   ⟨edgeOn 4, 9600, by decide +kernel⟩⟩

theorem test_witness_EdgeRails :
    (∃ (s : State) (k : Nat),
     s.edge.stopped = false ∧ k < 6) ∧
    (∃ (s : State) (k : Nat),
     let en := s.get F.EDGE_RAIL_STATUS_pwr_en
     let highest : Prop := natBit en k = true ∧ ∀ j, j < 6 → k < j → natBit en j = false
     s.edge.stopped = false ∧ k < 6 ∧ s.edge.dropping = true ∧ highest) ∧
    (∃ (s : State) (k : Nat),
     let en := s.get F.EDGE_RAIL_STATUS_pwr_en
     let good := s.get F.EDGE_RAIL_STATUS_pgood
     s.edge.stopped = false ∧ k < 6 ∧ s.edge.dropping = false ∧ s.edgeState = 3 ∧ en = 31 ∧ good = 63) ∧
    (∃ (s : State) (k : Nat),
     let en := s.get F.EDGE_RAIL_STATUS_pwr_en
     let good := s.get F.EDGE_RAIL_STATUS_pgood
     s.edge.stopped = false ∧ k < 6 ∧ s.edge.dropping = false ∧ s.edgeState = 3 ∧ 1 ≤ k ∧ en = 2 ^ k - 1 ∧ natBit good (k - 1) = true ∧ ((k ≠ 5 ∨ good ≠ 63))) ∧
    (∃ (s : State) (k : Nat),
     let en := s.get F.EDGE_RAIL_STATUS_pwr_en
     let good := s.get F.EDGE_RAIL_STATUS_pgood
     let highest : Prop := natBit en k = true ∧ ∀ j, j < 6 → k < j → natBit en j = false
     s.edge.stopped = false ∧ k < 6 ∧ s.edgeState = 3 ∧ highest ∧ natBit good k = false) ∧
    (∃ (s : State) (k : Nat),
     s.edge.stopped = false ∧ k < 6 ∧ s.edgeState = 4) ∧
    (∃ (s : State) (k : Nat),
     s.edge.stopped = false ∧ k < 6 ∧ s.edgeState ≠ 4) :=
  ⟨⟨rails (edgeOn 3) 63 31, 5, by decide +kernel⟩,
   ⟨{ (rails (edgeOn 0) 7 3) with edge := { dropping := true } }, 2, by decide +kernel⟩,
   ⟨{ rails (edgeOn 3) 31 63 with edge := { strapPos := 63, strapTmode := 2 } }, 5, by decide +kernel⟩,
   ⟨rails (edgeOn 3) 1 1, 1, by decide +kernel⟩,
   ⟨rails (edgeOn 3) 3 1, 1, by decide +kernel⟩,
   ⟨rails (edgeOn 4) 63 63, 5, by decide +kernel⟩,
   ⟨rails (edgeOn 3) 63 63, 5, by decide +kernel⟩⟩

theorem test_witness_EdgeGasp :
    (∃ (s : State),
     ∃ cause,
     s.edge.stopped = false ∧ 1 ≤ cause ∧ cause ≤ 4 ∧ s.edgeState = 4) ∧
    (∃ (s : State),
     ∃ cause,
     s.edge.stopped = false ∧ 1 ≤ cause ∧ cause ≤ 4 ∧ s.gaspBeganNow = true ∧ cause < s.edge.gaspCause) ∧
    (∃ (s : State),
     ∃ cause,
     s.edge.stopped = false ∧ ((s.edgeState ≠ 4 ∧ (s.gaspBeganNow = false ∨ s.edge.gaspCause ≤ cause) ∨ cause = 0 ∨ 4 < cause))) ∧
    (∃ (s : State),
     s.edge.stopped = false ∧ s.edgeState = 5) ∧
    (∃ (s : State),
     s.edge.stopped = false ∧ s.edgeState ≠ 5) ∧
    (∃ (s : State),
     s.edge.stopped = false ∧ s.edgeState = 6 ∧ s.edge.dropping = false) ∧
    (∃ (s : State),
     s.edge.stopped = false ∧ ((s.edgeState ≠ 6 ∨ s.edge.dropping = true))) ∧
    (∃ (s : State),
     ∃ mv,
     s.edge.stopped = false ∧ mv < 40960 ∧ s.inInrush = false) ∧
    (∃ (s : State),
     s.edge.stopped = false ∧ s.inInrush = true ∧ s.edge.folded = false) ∧
    (∃ (s : State),
     ∃ mv q v,
     s.edge.stopped = false ∧ s.edge.charging = some (q, v) ∧ v + 1000 ≤ mv ∧ s.inInrush = false) ∧
    (∃ (s : State),
     ∃ mv,
     s.edge.stopped = false ∧ s.edge.charging.all (fun c => mv < c.2 + 1000) = true) ∧
    (∃ (s : State),
     let v := s.get F.EDGE_HOLD_STATUS_e_v
     let q := s.get F.EDGE_HOLD_CAP_e_q
     s.edge.stopped = false ∧ ((10 * v + max v 50 < 10 * q ∨ 10 * q + max v 50 < 10 * v))) ∧
    (∃ (s : State),
     let v := s.get F.EDGE_HOLD_STATUS_e_v
     let q := s.get F.EDGE_HOLD_CAP_e_q
     s.edge.stopped = false ∧ 10 * q ≤ 10 * v + max v 50 ∧ 10 * v ≤ 10 * q + max v 50) ∧
    (∃ (s : State),
     s.edge.stopped = false ∧ s.edge.bankMa.natAbs < s.get F.EDGE_HOLD_CFG2_i_quiet) ∧
    (∃ (s : State),
     s.edge.stopped = false ∧ s.get F.EDGE_HOLD_CFG2_i_quiet ≤ s.edge.bankMa.natAbs) :=
  ⟨⟨rails (edgeOn 4) 63 63, 4, by decide +kernel⟩,
   ⟨{ edge 5 with edge := { gaspCause := 3, lastWords := [0x7E, 0, 3, 0, 0] } }, 2, by decide +kernel⟩,
   ⟨edgeOn 4, 5, by decide +kernel⟩,
   ⟨edge 5, by decide +kernel⟩,
   ⟨edge 4, by decide +kernel⟩,
   ⟨rails (edgeOn 6) 63 63, by decide +kernel⟩,
   ⟨edge 5, by decide +kernel⟩,
   ⟨edgeOn 4, 40959, by decide +kernel⟩,
   ⟨((edgeOn 2).set F.EDGE_FEED_V_vina [] 48000), by decide +kernel⟩,
   ⟨{ rs with edge := { charging := some (100000000, 2000) } }, 3000, 100000000, 2000, by decide +kernel⟩,
   ⟨{ rs with edge := { charging := some (1, 2000) } }, 2999, by decide +kernel⟩,
   ⟨rs.set F.EDGE_HOLD_STATUS_e_v [] 500, by decide +kernel⟩,
   ⟨rs.set F.EDGE_HOLD_CAP_e_q [] 5, by decide +kernel⟩,
   ⟨rs.set F.EDGE_HOLD_CFG2_i_quiet [] 6 |>.set F.EDGE_HOLD_STATUS_disagree [] 1, by decide +kernel⟩,
   ⟨{ rs with edge := { bankMa := -70000 } }, by decide +kernel⟩⟩

end Sys2Proof.Tests
end

section

/-! The state after reset: the register store is empty, so every word is at its Reset column. -/

namespace Sys2Proof.Machine

theorem State.rd_reset (r : Reg) (ix : List Nat) : State.reset.rd r ix = r.desc.reset % 2 ^ 32 := by
  have hword : State.reset.rdw r ix = r.resetWord := BitVec.zero_xor
  rw [State.rd, hword, Reg.resetWord, BitVec.toNat_ofNat]

theorem State.get_reset (f : Fld) (ix : List Nat) : State.reset.get f ix = natBits (f.reg.desc.reset % 2 ^ 32) f.hi f.lo := by
  rw [State.get, State.rd_reset]

/-- Settles O57: the stores are empty, and a field's value is that of its register's Reset column. -/
theorem resetState : Obligations.ResetState := by
  unfold Obligations.ResetState
  have hfault : State.reset.chipFault = false := by rw [State.chipFault, State.is, State.get_reset]; rfl
  have hlocked : State.reset.is F.CHIP_STATUS_cfg_locked = false := by rw [State.is, State.get_reset]; rfl
  have hmode : State.reset.integrated = false := by rw [State.integrated, State.get_reset]; rfl
  have hdomain (d : Dom) : State.reset.domState d = 0 := by rw [State.domState, State.get_reset]; rfl
  exact ⟨rfl, rfl, rfl, State.rd_reset, State.rd_reset .CHIP_ID [], hlocked, hfault, rfl, hmode, rfl, rfl, rfl, hdomain .a,
    hdomain .b, rfl, fun _ _ _ _ => ⟨rfl, rfl⟩⟩

end Sys2Proof.Machine

end

section

/-! The local map is one to one (R4, R30, R32). A heading is a run of words: a base and nested index ranges. Two checks of the
descriptors, `Reg.placed` and `Reg.steady`, say that the headings of one block share no word and that every copy of a heading lies
in blocks that list the same headings; the rest is arithmetic about runs. -/

namespace Sys2Proof.Machine

/-! Runs: a base and index ranges. -/

/-- An index list names a copy among index ranges. -/
def dimIn (ds : List (Nat × Nat)) (is : List Nat) : Prop := is.length = ds.length ∧ ∀ e ∈ is.zip ds, e.1 < e.2.1

/-- The greatest offset an index list can select among index ranges. -/
def dimMax : List (Nat × Nat) → Nat
  | [] => 0
  | (count, stride) :: ds => (count - 1) * stride + dimMax ds

/-- Index ranges whose copies do not run into one another: each stride passes over everything that the ranges after it select, and
is a whole number of words. -/
def dimsNested : List (Nat × Nat) → Bool
  | [] => true
  | (_, stride) :: ds => dimMax ds < stride && stride % 4 == 0 && dimsNested ds

/-- Two runs that meet nowhere: one lies below the other, or both advance by one stride, within which they meet nowhere. -/
def runsApart : Nat → List (Nat × Nat) → Nat → List (Nat × Nat) → Bool
  | b, (m, s) :: ds, b', (m', s') :: ds' =>
    b + dimMax ((m, s) :: ds) < b' || b' + dimMax ((m', s') :: ds') < b
      || (s == s' && b + dimMax ds < b' + s && b' + dimMax ds' < b + s && runsApart b ds b' ds')
  | b, ds, b', ds' => b + dimMax ds < b' || b' + dimMax ds' < b

theorem dimIn_nil {is : List Nat} : dimIn [] is ↔ is = [] := by
  simp [dimIn]

theorem dimIn_cons {d : Nat × Nat} {i : Nat} {ds : List (Nat × Nat)} {is : List Nat} :
    dimIn (d :: ds) (i :: is) ↔ i < d.1 ∧ dimIn ds is := by
  simp only [dimIn, List.length_cons, List.zip_cons_cons, List.forall_mem_cons, Nat.succ_inj]
  exact and_left_comm

theorem exists_of_dimIn_cons {d : Nat × Nat} {ds : List (Nat × Nat)} {is : List Nat} (h : dimIn (d :: ds) is) :
    ∃ i js, is = i :: js ∧ i < d.1 ∧ dimIn ds js := by
  cases is with
  | nil => simp [dimIn] at h
  | cons i js => exact ⟨i, js, rfl, dimIn_cons.mp h⟩

theorem dimOffset_le {ds : List (Nat × Nat)} {is : List Nat} (h : dimIn ds is) : dimOffset ds is ≤ dimMax ds := by
  induction ds generalizing is with
  | nil => exact Nat.zero_le _
  | cons d ds ih =>
    obtain ⟨i, js, rfl, hi, hjs⟩ := exists_of_dimIn_cons h
    exact Nat.add_le_add (Nat.mul_le_mul_right _ (Nat.le_sub_one_of_lt hi)) (ih hjs)

theorem dimOffset_mod_four {ds : List (Nat × Nat)} {is : List Nat} (hn : dimsNested ds = true) : dimOffset ds is % 4 = 0 := by
  induction ds generalizing is with
  | nil => rfl
  | cons d ds ih =>
    obtain ⟨count, stride⟩ := d
    simp only [dimsNested, Bool.and_eq_true, decide_eq_true_eq, beq_iff_eq] at hn
    obtain ⟨⟨-, hstride⟩, hds⟩ := hn
    cases is with
    | nil => rfl
    | cons i js => simp [dimOffset, Nat.add_mod, Nat.mul_mod, hstride, ih hds]

/-- The offset of a copy leads back to its index list. -/
theorem dimIndex_dimOffset {ds : List (Nat × Nat)} {is : List Nat} (hn : dimsNested ds = true) (h : dimIn ds is) :
    dimIndex ds (dimOffset ds is) = some is := by
  induction ds generalizing is with
  | nil => simp [dimIn_nil.mp h, dimOffset, dimIndex]
  | cons d ds ih =>
    obtain ⟨count, stride⟩ := d
    obtain ⟨i, js, rfl, hi, hjs⟩ := exists_of_dimIn_cons h
    simp only [dimsNested, Bool.and_eq_true, decide_eq_true_eq] at hn
    obtain ⟨⟨hlt, -⟩, hds⟩ := hn
    have hoff : dimOffset ds js < stride := Nat.lt_of_le_of_lt (dimOffset_le hjs) hlt
    have hdiv : (i * stride + dimOffset ds js) / stride = i := by
      rw [Nat.mul_comm, Nat.mul_add_div (by omega), Nat.div_eq_of_lt hoff, Nat.add_zero]
    have hmod : (i * stride + dimOffset ds js) % stride = dimOffset ds js := by
      rw [Nat.mul_comm, Nat.mul_add_mod, Nat.mod_eq_of_lt hoff]
    simp [dimIndex, dimOffset, hdiv, hmod, show i < count from hi, ih hds hjs]

/-- What an offset leads to is a copy at that offset. -/
theorem of_dimIndex {ds : List (Nat × Nat)} {off : Nat} {is : List Nat} (h : dimIndex ds off = some is) :
    dimIn ds is ∧ dimOffset ds is = off := by
  induction ds generalizing off is with
  | nil =>
    obtain ⟨rfl, h⟩ := Option.ite_none_right_eq_some.mp h
    cases h
    exact ⟨dimIn_nil.mpr rfl, rfl⟩
  | cons d ds ih =>
    obtain ⟨count, stride⟩ := d
    obtain ⟨hlt, h⟩ := Option.ite_none_right_eq_some.mp h
    obtain ⟨js, hjs, rfl⟩ := Option.map_eq_some_iff.mp h
    obtain ⟨hin, hoff⟩ := ih hjs
    exact ⟨dimIn_cons.mpr ⟨hlt, hin⟩, by rw [dimOffset, hoff, Nat.div_add_mod']⟩

/-- Copies of two ranges of one stride, each copy within a stride of both bases, differ as soon as what is left of them does. -/
theorem add_mul_ne_of_lt {b b' i i' o o' s : Nat} (h : b + o < b' + s) (h' : b' + o' < b + s) (hne : b + o ≠ b' + o') :
    b + (i * s + o) ≠ b' + (i' * s + o') := by
  rcases Nat.lt_trichotomy i i' with hi | rfl | hi
  · have := Nat.succ_mul i s ▸ Nat.mul_le_mul_right s hi
    omega
  · omega
  · have := Nat.succ_mul i' s ▸ Nat.mul_le_mul_right s hi
    omega

/-- Runs that lie apart share no address. -/
theorem add_dimOffset_ne_of_runsApart {b b' : Nat} {ds ds' : List (Nat × Nat)} {is is' : List Nat}
    (ha : runsApart b ds b' ds' = true) (h : dimIn ds is) (h' : dimIn ds' is') : b + dimOffset ds is ≠ b' + dimOffset ds' is' := by
  have hle := dimOffset_le h
  have hle' := dimOffset_le h'
  induction ds generalizing ds' is is' with
  | nil =>
    simp only [runsApart, Bool.or_eq_true, decide_eq_true_eq] at ha
    omega
  | cons d ds ih =>
    obtain ⟨m, s⟩ := d
    cases ds' with
    | nil =>
      simp only [runsApart, Bool.or_eq_true, decide_eq_true_eq] at ha
      omega
    | cons d' ds' =>
      obtain ⟨m', s'⟩ := d'
      simp only [runsApart, Bool.or_eq_true, Bool.and_eq_true, decide_eq_true_eq, beq_iff_eq] at ha
      rcases ha with hbelow | ⟨⟨⟨rfl, hlt⟩, hlt'⟩, ha⟩
      · omega
      · obtain ⟨i, js, rfl, -, hjs⟩ := exists_of_dimIn_cons h
        obtain ⟨i', js', rfl, -, hjs'⟩ := exists_of_dimIn_cons h'
        have hj := dimOffset_le hjs
        have hj' := dimOffset_le hjs'
        exact add_mul_ne_of_lt (by omega) (by omega) (ih ha hjs hjs' hj hj')

/-! The blocks of R30 and R32. -/

/-- A heading stands in the list of its base's block, on words, apart from every other heading of that list. -/
def Reg.placed (r : Reg) : Bool :=
  dimsNested r.desc.dims && r.desc.base % 4 == 0 && (blockRegs r.desc.base).contains r &&
    (blockRegs r.desc.base).all fun q => q == r || runsApart r.desc.base r.desc.dims q.desc.base q.desc.dims

/-- The blocks that `m` addresses after `b` reach list the headings of the block of `b`. -/
def blocksAgree (bench : Bool) (b m : Nat) : Bool :=
  (List.range ((b % 0x10000 + m) / 0x10000 + 1)).all fun k =>
    Reg.inBlock bench (b / 0x10000 + k) == Reg.inBlock bench (b / 0x10000)

/-- A run keeps to blocks that list the same headings: outside the bench windows as a whole, inside them window by window. -/
def runSteady (b : Nat) : List (Nat × Nat) → Bool
  | [] => true
  | (count, stride) :: ds =>
    if 0x01000000 ≤ b ∧ b < 0x02000000 then
      count == 16 && stride == 0x100000 && b + dimMax ds < 0x01100000 && blocksAgree true (b % 0x100000) (dimMax ds)
    else (b + dimMax ((count, stride) :: ds) < 0x01000000 || 0x02000000 ≤ b) && blocksAgree false b (dimMax ((count, stride) :: ds))

theorem Reg.placed_all (r : Reg) : r.placed = true := by
  cases r <;> decide +kernel

theorem Reg.steady_all (r : Reg) : runSteady r.desc.base r.desc.dims = true := by
  cases r <;> decide +kernel

theorem inBlock_add {bench : Bool} {b m off : Nat} (h : blocksAgree bench b m = true) (hoff : off ≤ m) :
    Reg.inBlock bench ((b + off) / 0x10000) = Reg.inBlock bench (b / 0x10000) := by
  have hsplit : (b + off) / 0x10000 = b / 0x10000 + (b % 0x10000 + off) / 0x10000 := by omega
  have hmem : (b % 0x10000 + off) / 0x10000 ∈ List.range ((b % 0x10000 + m) / 0x10000 + 1) := List.mem_range.mpr (by omega)
  rw [hsplit]
  exact eq_of_beq (List.all_eq_true.mp h _ hmem)

theorem blockRegs_of_bench {a : Nat} (h : 0x01000000 ≤ a) (h' : a < 0x02000000) :
    blockRegs a = Reg.inBlock true (a % 0x100000 / 0x10000) := if_pos ⟨h, h'⟩

theorem blockRegs_of_not_bench {a : Nat} (h : a < 0x01000000 ∨ 0x02000000 ≤ a) : blockRegs a = Reg.inBlock false (a / 0x10000) :=
  if_neg (by omega)

/-- Every address of a steady run lies in a block that lists the headings of its base's block. -/
theorem blockRegs_add_dimOffset {b : Nat} {ds : List (Nat × Nat)} {is : List Nat} (hs : runSteady b ds = true) (h : dimIn ds is) :
    blockRegs (b + dimOffset ds is) = blockRegs b := by
  cases ds with
  | nil => rfl
  | cons d ds =>
    obtain ⟨count, stride⟩ := d
    by_cases hbench : 0x01000000 ≤ b ∧ b < 0x02000000
    · simp only [runSteady, if_pos hbench, Bool.and_eq_true, decide_eq_true_eq, beq_iff_eq] at hs
      obtain ⟨⟨⟨rfl, rfl⟩, hlt⟩, hag⟩ := hs
      obtain ⟨i, js, rfl, hi, hjs⟩ := exists_of_dimIn_cons h
      have hoff := dimOffset_le hjs
      have hmod : (b + (i * 0x100000 + dimOffset ds js)) % 0x100000 = b % 0x100000 + dimOffset ds js := by omega
      rw [dimOffset, blockRegs_of_bench (by omega) (by omega), blockRegs_of_bench hbench.1 hbench.2, hmod, inBlock_add hag hoff]
    · simp only [runSteady, if_neg hbench, Bool.and_eq_true, Bool.or_eq_true, decide_eq_true_eq] at hs
      obtain ⟨hb, hag⟩ := hs
      have hoff := dimOffset_le h
      rw [blockRegs_of_not_bench (by omega), blockRegs_of_not_bench (by omega), inBlock_add hag hoff]

/-! Registers and their addresses. -/

theorem Reg.placed_iff (r : Reg) : r.placed = true ↔
    dimsNested r.desc.dims = true ∧ r.desc.base % 4 = 0 ∧ r ∈ blockRegs r.desc.base ∧
      ∀ q ∈ blockRegs r.desc.base, q = r ∨ runsApart r.desc.base r.desc.dims q.desc.base q.desc.dims = true := by
  simp [Reg.placed, and_assoc]

theorem Reg.nested (r : Reg) : dimsNested r.desc.dims = true :=
  let ⟨hnested, _⟩ := r.placed_iff.mp r.placed_all
  hnested

theorem Reg.base_mod_four (r : Reg) : r.desc.base % 4 = 0 :=
  let ⟨_, hbase, _⟩ := r.placed_iff.mp r.placed_all
  hbase

theorem Reg.mem_blockRegs_base (r : Reg) : r ∈ blockRegs r.desc.base :=
  let ⟨_, _, hmem, _⟩ := r.placed_iff.mp r.placed_all
  hmem

theorem Reg.eq_or_runsApart {r q : Reg} (hq : q ∈ blockRegs r.desc.base) :
    q = r ∨ runsApart r.desc.base r.desc.dims q.desc.base q.desc.dims = true :=
  let ⟨_, _, _, hall⟩ := r.placed_iff.mp r.placed_all
  hall q hq

theorem Reg.addr_mod_four (r : Reg) (ix : List Nat) : r.addr ix % 4 = 0 := by
  have := r.base_mod_four
  have := dimOffset_mod_four (is := ix) r.nested
  unfold Reg.addr
  omega

theorem Reg.blockRegs_addr {r : Reg} {ix : List Nat} (h : r.indexed ix) : blockRegs (r.addr ix) = blockRegs r.desc.base :=
  blockRegs_add_dimOffset r.steady_all h

theorem Reg.indexAt_addr {r : Reg} {ix : List Nat} (h : r.indexed ix) : r.indexAt (r.addr ix) = some ix := by
  have hsub : r.addr ix - r.desc.base = dimOffset r.desc.dims ix := Nat.add_sub_cancel_left ..
  rw [Reg.indexAt, hsub, dimIndex_dimOffset r.nested h]
  exact if_pos (Nat.le_add_right ..)

theorem Reg.of_indexAt {r : Reg} {a : Nat} {ix : List Nat} (h : r.indexAt a = some ix) : r.indexed ix ∧ r.addr ix = a := by
  obtain ⟨hle, h⟩ := Option.ite_none_right_eq_some.mp h
  obtain ⟨hin, hoff⟩ := of_dimIndex h
  exact ⟨hin, by rw [Reg.addr, hoff, Nat.add_sub_cancel' hle]⟩

/-- No two copies share an address. -/
theorem Reg.addr_inj {r q : Reg} {ix jx : List Nat} (hr : r.indexed ix) (hq : q.indexed jx) (h : q.addr jx = r.addr ix) :
    q = r ∧ jx = ix := by
  have hblock : blockRegs q.desc.base = blockRegs r.desc.base := by rw [← Reg.blockRegs_addr hq, h, Reg.blockRegs_addr hr]
  rcases Reg.eq_or_runsApart (hblock ▸ q.mem_blockRegs_base) with rfl | hapart
  · have hjx := Reg.indexAt_addr hq
    rw [h, Reg.indexAt_addr hr] at hjx
    exact ⟨rfl, (Option.some.inj hjx).symm⟩
  · exact absurd h.symm (add_dimOffset_ne_of_runsApart hapart hr hq)

/-- The search of a copy's block finds that copy: what it finds lies at the same address. -/
theorem findSome_blockRegs_addr {r : Reg} {ix : List Nat} (h : r.indexed ix) :
    ((blockRegs (r.addr ix)).findSome? fun q => (q.indexAt (r.addr ix)).map fun jx => (q, jx)) = some (r, ix) := by
  have hmem : r ∈ blockRegs (r.addr ix) := Reg.blockRegs_addr h ▸ r.mem_blockRegs_base
  cases hf : (blockRegs (r.addr ix)).findSome? fun q => (q.indexAt (r.addr ix)).map fun jx => (q, jx) with
  | none => simpa [Reg.indexAt_addr h] using List.findSome?_eq_none_iff.mp hf r hmem
  | some p =>
    obtain ⟨q, -, hq⟩ := List.exists_of_findSome?_eq_some hf
    obtain ⟨jx, hjx, rfl⟩ := Option.map_eq_some_iff.mp hq
    obtain ⟨hin, haddr⟩ := Reg.of_indexAt hjx
    obtain ⟨rfl, rfl⟩ := Reg.addr_inj h hin haddr
    rfl

theorem State.regAt_addr {s : State} {r : Reg} {ix : List Nat} (h : r.indexed ix)
    (hslot : r = .SLOT_TABLE → ix.getD 1 0 < s.slotsPerDir) : s.regAt (r.addr ix) = some (r, ix) := by
  unfold State.regAt
  rw [findSome_blockRegs_addr h]
  split
  · next heq =>
    cases heq
    exact if_pos (hslot rfl)
  · rfl

/-- Settles O58: a copy's block lists its heading and none that meets it, so the search finds the copy and nothing else. -/
theorem addressesAreOneToOne : Obligations.AddressesAreOneToOne := by
  unfold Obligations.AddressesAreOneToOne
  intro s r ix h hslot
  exact ⟨State.regAt_addr h hslot, r.addr_mod_four ix, fun _ _ h' heq => Reg.addr_inj h h' heq⟩

end Sys2Proof.Machine

end

section

/-! What every function of the model that answers a state keeps: the queue of commands, and the canonical forms of the register
store and of the flash. `State.Keeps` says it of two states, with one rule for each way a state is put together; below, one lemma
for each such function follows the function's definition, and `State.Leads` says the same of a command's outcome. -/

namespace Sys2Proof.Machine

theorem smWf_iff {α : Type} [DecidableEq α] (m : List (Nat × α)) (d : α) :
    smWf m d = true ↔ m.Pairwise (fun x y => x.1 < y.1) ∧ ∀ e ∈ m, e.2 ≠ d := by
  induction m with
  | nil => simp [smWf]
  | cons e t ih =>
    obtain ⟨a, v⟩ := e
    rw [smWf_cons, ih, List.pairwise_cons, List.forall_mem_cons]
    unfold keysAbove
    tauto

theorem smWf_append {α : Type} [DecidableEq α] {m n : List (Nat × α)} {d : α} (hm : smWf m d = true) (hn : smWf n d = true)
    (h : ∀ x ∈ m, ∀ y ∈ n, x.1 < y.1) : smWf (m ++ n) d = true := by
  obtain ⟨hm₁, hm₂⟩ := (smWf_iff m d).mp hm
  obtain ⟨hn₁, hn₂⟩ := (smWf_iff n d).mp hn
  exact (smWf_iff _ d).mpr ⟨List.pairwise_append.mpr ⟨hm₁, hn₁, h⟩, List.forall_mem_append.mpr ⟨hm₂, hn₂⟩⟩

theorem flashEntries_range {addr : Nat} {bs : List Byte} : ∀ e ∈ flashEntries addr bs, addr ≤ e.1 ∧ e.1 < addr + bs.length := by
  induction bs generalizing addr with
  | nil => simp [flashEntries]
  | cons b bs ih =>
    intro e he
    have hlen : (b :: bs).length = bs.length + 1 := rfl
    by_cases hb : b = erased
    · have := ih e (by simpa [flashEntries, hb] using he)
      omega
    · rcases (by simpa [flashEntries, hb] using he : e = (addr, b) ∨ e ∈ flashEntries (addr + 1) bs) with rfl | he
      · exact ⟨Nat.le_refl _, by omega⟩
      · have := ih e he
        omega

theorem smWf_flashEntries {addr : Nat} {bs : List Byte} : smWf (flashEntries addr bs) 0xFF = true := by
  induction bs generalizing addr with
  | nil => rfl
  | cons b bs ih =>
    unfold flashEntries
    split
    · exact ih
    · next hb => exact (smWf_cons ..).mpr ⟨hb, fun e he => (flashEntries_range e he).1, ih⟩

theorem smWf_flashPut {m : List (Nat × Byte)} {addr : Nat} {bs : List Byte} (h : smWf m 0xFF = true) :
    smWf (flashPut m addr bs) 0xFF = true := by
  refine smWf_append (smWf_append (smWf_filter _ _ _ h) smWf_flashEntries fun x hx y hy => ?_) (smWf_filter _ _ _ h)
    fun x hx y hy => ?_
  · have hx' := (List.mem_filter.mp hx).2
    have := flashEntries_range y hy
    simp only [decide_eq_true_eq] at hx'
    omega
  · have hy' := (List.mem_filter.mp hy).2
    simp only [decide_eq_true_eq] at hy'
    rcases List.mem_append.mp hx with hx | hx
    · have hx' := (List.mem_filter.mp hx).2
      simp only [decide_eq_true_eq] at hx'
      omega
    · have := flashEntries_range x hx
      omega

theorem smWf_flashProgram {m : List (Nat × Byte)} {addr : Nat} {bs : List Byte} (h : smWf m 0xFF = true) :
    smWf (flashProgram m addr bs) 0xFF = true := smWf_flashPut h

theorem smWf_flashErase {m : List (Nat × Byte)} {addr n : Nat} (h : smWf m 0xFF = true) : smWf (flashErase m addr n) 0xFF = true :=
  smWf_filter _ _ _ h

/-- What `u` keeps of `s`: the same commands wait, and the stores of `u` are canonical when those of `s` are. -/
def State.Keeps (s u : State) : Prop := u.pending = s.pending ∧ (s.wf = true → u.wf = true)

namespace State.Keeps

variable {s₀ s : State}

theorem refl (s : State) : s.Keeps s := ⟨rfl, id⟩

/-- The outputs of the last command are not among what is kept. -/
theorem cleared : s.Keeps s.clearOut := refl s

/-- Nothing but the queue, the register store and the flash matters. -/
theorem frame {out line free faultPair time shot permits ring twin hop brg setts pins benches drs ports can canT ethT hopT ringT
    sw grd edge upd} (hs : s₀.Keeps s) :
    s₀.Keeps ⟨s.pending, out, line, s.regs, free, faultPair, time, shot, permits, ring, twin, hop, brg, setts, pins, benches, drs,
      ports, can, canT, ethT, hopT, ringT, sw, grd, edge, s.chip, upd⟩ := hs

theorem chipFrame {out line free faultPair time shot permits ring twin hop brg setts pins benches drs ports can canT ethT hopT ringT
    sw grd edge upd latched held boot flashOp revoked unlockWindow warmWaiting kicked linkUp perst bar0 bar2 tap firmware}
    (hs : s₀.Keeps s) :
    s₀.Keeps ⟨s.pending, out, line, s.regs, free, faultPair, time, shot, permits, ring, twin, hop, brg, setts, pins, benches, drs,
      ports, can, canT, ethT, hopT, ringT, sw, grd, edge, ⟨latched, held, s.chip.flash, boot, flashOp, revoked, unlockWindow, warmWaiting,
      kicked, linkUp, perst, bar0, bar2, tap, firmware⟩, upd⟩ := hs

theorem wf_iff (s : State) : s.wf = true ↔ smWf s.regs 0 = true ∧ smWf s.chip.flash 0xFF = true := by
  simp [State.wf]

theorem wrw {r : Reg} {ix : List Nat} {w : Word} (hs : s₀.Keeps s) : s₀.Keeps (s.wrw r ix w) :=
  ⟨hs.1, fun h => by
    obtain ⟨hr, hf⟩ := (wf_iff s).mp (hs.2 h)
    exact (wf_iff _).mpr ⟨smWf_smSet _ _ _ _ hr, hf⟩⟩

/-- A fresh free value has been drawn. -/
theorem drawn (hs : s₀.Keeps s) : s₀.Keeps { s with free := s.free + 1 } := hs

theorem setFlash {m : List (Nat × Byte)} (hs : s₀.Keeps s) (hm : smWf s.chip.flash 0xFF = true → smWf m 0xFF = true) :
    s₀.Keeps (s.setFlash m) :=
  ⟨hs.1, fun h => by
    obtain ⟨hr, hf⟩ := (wf_iff s).mp (hs.2 h)
    exact (wf_iff _).mpr ⟨hr, hm hf⟩⟩

/-- As `frame`, with register words returned to their Reset column. -/
theorem filterFrame {out line free faultPair time shot permits ring twin hop brg setts pins benches drs ports can canT ethT hopT
    ringT sw grd edge upd} {p : Nat × Word → Bool} (hs : s₀.Keeps s) :
    s₀.Keeps ⟨s.pending, out, line, s.regs.filter p, free, faultPair, time, shot, permits, ring, twin, hop, brg, setts, pins, benches,
      drs, ports, can, canT, ethT, hopT, ringT, sw, grd, edge, s.chip, upd⟩ :=
  ⟨hs.1, fun h => by
    obtain ⟨hr, hf⟩ := (wf_iff s).mp (hs.2 h)
    exact (wf_iff _).mpr ⟨smWf_filter _ _ _ hr, hf⟩⟩

theorem clearRegs {gone : Nat → Bool} (hs : s₀.Keeps s) : s₀.Keeps (s.clearRegs gone) := .filterFrame hs

protected theorem ite {c : Prop} [Decidable c] {a b : State} (ha : s₀.Keeps a) (hb : s₀.Keeps b) : s₀.Keeps (if c then a else b) := by
  split
  · exact ha
  · exact hb

theorem when {c : Bool} {f : State → State} (hs : s₀.Keeps s) (hf : ∀ {u}, s₀.Keeps u → s₀.Keeps (f u)) : s₀.Keeps (s.when c f) :=
  .ite (hf hs) hs

theorem foldl {α : Type} {xs : List α} {f : State → α → State} (hs : s₀.Keeps s) (hf : ∀ {u x}, s₀.Keeps u → s₀.Keeps (f u x)) :
    s₀.Keeps (xs.foldl f s) := by
  induction xs generalizing s with
  | nil => exact hs
  | cons x xs ih => exact ih (hf hs)

theorem each {α : Type} {xs : List α} {f : State → α → State} (hs : s₀.Keeps s) (hf : ∀ {u x}, s₀.Keeps u → s₀.Keeps (f u x)) :
    s₀.Keeps (s.each xs f) := hs.foldl hf

theorem foldlPair {α β : Type} {xs : List α} {f : β × State → α → β × State} {p : β × State} (hp : s₀.Keeps p.2)
    (hf : ∀ {q x}, s₀.Keeps q.2 → s₀.Keeps (f q x).2) : s₀.Keeps (xs.foldl f p).2 := by
  induction xs generalizing p with
  | nil => exact hp
  | cons x xs ih => exact ih (hf hp)

/-- The state a function answers beside a result. -/
theorem of_eq {α : Type} {p : α × State} {a : α} {u : State} (e : p = (a, u)) (hp : s₀.Keeps p.2) : s₀.Keeps u := by
  subst e; exact hp

end State.Keeps

/-- A command's outcome: a next state that keeps what `State.Keeps` says. -/
def State.Leads (s : State) (o : Host.Outcome State Fault Refusal) : Prop := ∃ u, o = .next u ∧ s.Keeps u

namespace State.Leads

theorem next {s₀ u : State} (hu : s₀.Keeps u) : s₀.Leads (.next u) := ⟨u, rfl, hu⟩

protected theorem ite {s₀ : State} {c : Prop} [Decidable c] {a b : Host.Outcome State Fault Refusal} (ha : s₀.Leads a) (hb : s₀.Leads b) :
    s₀.Leads (if c then a else b) := by
  split
  · exact ha
  · exact hb

/-- A command whose island is held in reset only clears the outputs. -/
theorem unlessDown {s : State} {c : Prop} [Decidable c] {o : Host.Outcome State Fault Refusal} (ho : s.Leads o) :
    s.Leads (if c then .next s.clearOut else o) := .ite (.next .cleared) ho

end State.Leads

end Sys2Proof.Machine

end

section

/-! Words, fields and outputs (Machine/Ops). -/

namespace Sys2Proof.Machine

namespace State.Keeps

variable {s₀ s : State}

theorem wr {r : Reg} {ix : List Nat} {v : Nat} (hs : s₀.Keeps s) : s₀.Keeps (s.wr r ix v) := .wrw hs

theorem set {f : Fld} {ix : List Nat} {v : Nat} (hs : s₀.Keeps s) : s₀.Keeps (s.set f ix v) := .wr hs

theorem setB {f : Fld} {ix : List Nat} {b : Bool} (hs : s₀.Keeps s) : s₀.Keeps (s.setB f ix b) := .set hs

theorem inc {f : Fld} {ix : List Nat} (hs : s₀.Keeps s) : s₀.Keeps (s.inc f ix) := .set hs

theorem add {f : Fld} {ix : List Nat} {k : Nat} (hs : s₀.Keeps s) : s₀.Keeps (s.add f ix k) := .set hs

theorem setBitOf {f : Fld} {ix : List Nat} {i : Nat} {b : Bool} (hs : s₀.Keeps s) : s₀.Keeps (s.setBitOf f ix i b) := .set hs

theorem emit {o : Out} (hs : s₀.Keeps s) : s₀.Keeps (s.emit o) := .frame hs

theorem emits {os : List Out} (hs : s₀.Keeps s) : s₀.Keeps (s.emits os) := .frame hs

theorem clearOut (hs : s₀.Keeps s) : s₀.Keeps s.clearOut := hs

end State.Keeps

end Sys2Proof.Machine

end

section

/-! Leaves, records, the journal and chip fault (Machine/Cause). -/

namespace Sys2Proof.Machine

namespace State.Keeps

variable {s₀ s : State}

theorem journal {leaf face word1 : Nat} (hs : s₀.Keeps s) : s₀.Keeps (s.journal leaf face word1) :=
  .when (.set <| .wr <| .wr <| .wr <| .wr hs) .setB

theorem leaf {n unit code : Nat} {recovering : Bool} (hs : s₀.Keeps s) : s₀.Keeps (s.leaf n unit code recovering) :=
  .ite (.ite (.journal <| .wr <| .wr hs) (.when (.wr <| .wr hs) .setB)) hs

theorem leafClear {n : Nat} (hs : s₀.Keeps s) : s₀.Keeps (s.leafClear n) := by
  unfold State.leafClear
  dsimp only
  split
  · exact .when (.wr hs) .set
  · split
    · exact .wr <| .wr <| .when (.wr hs) .set
    · exact .wr <| .when (.wr hs) .set

theorem recovered {n : Nat} (hs : s₀.Keeps s) : s₀.Keeps (s.recovered n) := .ite (.ite (.setB hs) (.leafClear <| .setB hs)) hs

theorem enterFault {bit : Nat} (hs : s₀.Keeps s) : s₀.Keeps (s.enterFault bit) := .ite (.wr hs) (.frame <| .journal <| .wr hs)

end State.Keeps

end Sys2Proof.Machine

end

section

/-! The boot record and the journal area in the flash (Machine/Flash). -/

namespace Sys2Proof.Machine

namespace State.Keeps

variable {s₀ s : State}

theorem bootWrite {slot : Nat} (hs : s₀.Keeps s) : s₀.Keeps (s.bootWrite slot) := by
  unfold State.bootWrite
  exact .chipFrame <| .setFlash hs (fun hf => smWf_flashPut (smWf_flashErase hf))

theorem flushJournal (hs : s₀.Keeps s) : s₀.Keeps s.flushJournal := .setFlash hs smWf_flashProgram

end State.Keeps

end Sys2Proof.Machine

end

section

/-! The engine of an update (Machine/Delta). -/

namespace Sys2Proof.Machine

namespace State.Keeps

variable {s₀ s : State}

theorem toUpd {st : Nat} (hs : s₀.Keeps s) : s₀.Keeps (s.toUpd st) := .set hs

theorem handoverBegins (hs : s₀.Keeps s) : s₀.Keeps s.handoverBegins := .when hs fun h => .frame <| .toUpd h

theorem updRefuse {reason : Nat} (hs : s₀.Keeps s) : s₀.Keeps (s.updRefuse reason) :=
  .frame <| .leaf <| .setB <| .frame <| .set <| .toUpd hs

theorem writeTarget {target : List Byte} (hs : s₀.Keeps s) : s₀.Keeps (s.writeTarget target) := by
  unfold State.writeTarget
  exact .setFlash hs (fun hf => smWf_flashPut (smWf_flashErase hf))

theorem chunkConsume (hs : s₀.Keeps s) : s₀.Keeps s.chunkConsume := by
  unfold State.chunkConsume
  split
  · exact hs
  · dsimp only
    split
    · exact .setB <| .frame hs
    · split
      · exact .updRefuse <| .setB <| .frame hs
      · exact .ite (.updRefuse <| .writeTarget <| .set <| .setB <| .frame hs)
          (.ite (.frame <| .toUpd <| .writeTarget <| .set <| .setB <| .frame hs) (.writeTarget <| .set <| .setB <| .frame hs))

end State.Keeps

end Sys2Proof.Machine

end

section

/-! Permits and their grants (Machine/Permit). -/

namespace Sys2Proof.Machine

namespace State.Keeps

variable {s₀ s : State}

theorem permitGrant {w : PermitWait} (hs : s₀.Keeps s) : s₀.Keeps (s.permitGrant w) := by
  unfold State.permitGrant
  exact .when (.when (.when (.frame hs) .setB) .chunkConsume) .set

theorem permitScan {ws : List PermitWait} (hs : s₀.Keeps s) : s₀.Keeps (s.permitScan ws) := by
  induction ws generalizing s with
  | nil => exact hs
  | cons w ws ih => exact .ite (.ite (ih hs) (ih <| .permitGrant hs)) hs

theorem permitExamine (hs : s₀.Keeps s) : s₀.Keeps s.permitExamine := .ite hs (.permitScan hs)

theorem permitAsk {k : PermitKind} {unit : Nat} (hs : s₀.Keeps s) : s₀.Keeps (s.permitAsk k unit) := by
  unfold State.permitAsk
  exact .ite hs (.permitExamine <| .frame hs)

theorem permitGive {k : PermitKind} {unit : Nat} (hs : s₀.Keeps s) : s₀.Keeps (s.permitGive k unit) :=
  .ite (.permitExamine <| .frame hs) hs

theorem permitLate {k : PermitKind} {unit : Nat} (hs : s₀.Keeps s) : s₀.Keeps (s.permitLate k unit) :=
  .ite (.leaf <| .inc <| .frame hs) hs

theorem permitJudge (hs : s₀.Keeps s) : s₀.Keeps s.permitJudge := .each hs .permitLate

theorem holderStops {x : PermitKind × Nat} (hs : s₀.Keeps s) : s₀.Keeps (s.holderStops x) := by
  unfold State.holderStops
  split
  · exact .set hs
  · exact .frame <| .setB <| .toUpd hs
  · exact hs

theorem permitRevoke (hs : s₀.Keeps s) : s₀.Keeps s.permitRevoke := .when (.setB <| .setB <| .frame <| .each hs .holderStops) .set

end State.Keeps

namespace State.Leads

theorem permitRequest (s : State) {k : PermitKind} {unit : Nat} : s.Leads (execPermitRequest k unit s) :=
  .unlessDown <| .next <| .permitAsk .cleared

theorem permitReturn (s : State) {k : PermitKind} {unit : Nat} : s.Leads (execPermitReturn k unit s) :=
  .unlessDown <| .next <| .permitGive .cleared

theorem permitWaitLimit (s : State) {k : PermitKind} {unit : Nat} : s.Leads (execPermitWaitLimit k unit s) :=
  .unlessDown <| .next <| .permitLate .cleared

end State.Leads

end Sys2Proof.Machine

end

section

/-! Shot lines, tracked copies and the image (Machine/Shot). -/

namespace Sys2Proof.Machine

namespace State.Keeps

variable {s₀ s : State}

theorem ownChanged {before : Nat} (hs : s₀.Keeps s) : s₀.Keeps (s.ownChanged before) := .frame hs

theorem settLines {b t lines : Nat} (hs : s₀.Keeps s) : s₀.Keeps (s.settLines b t lines) := .ownChanged <| .frame hs

theorem comparatorLines {b m lines : Nat} (hs : s₀.Keeps s) : s₀.Keeps (s.comparatorLines b m lines) := .ownChanged <| .frame hs

theorem settShot {b t i : Nat} {assert : Bool} (hs : s₀.Keeps s) : s₀.Keeps (s.settShot b t i assert) :=
  .ite (.settLines hs) (.leaf hs)

theorem comparatorShot {b m i : Nat} {on : Bool} (hs : s₀.Keeps s) : s₀.Keeps (s.comparatorShot b m i on) :=
  .ite (.comparatorLines hs) (.ite (.comparatorLines hs) (.leaf hs))

theorem ownEntrySent {d : Side} (hs : s₀.Keeps s) : s₀.Keeps (s.ownEntrySent d) := by
  unfold State.ownEntrySent
  dsimp only
  split <;> exact .frame hs

theorem imageRefresh {h : Nat} (hs : s₀.Keeps s) : s₀.Keeps (s.imageRefresh h) := by
  unfold State.imageRefresh
  split
  · exact hs
  · split
    · exact .setB <| .setB <| .set hs
    · exact .ite hs (.when (.inc <| .setB hs) .leaf)

theorem copyArrives {d : Side} {h entry : Nat} (hs : s₀.Keeps s) : s₀.Keeps (s.copyArrives d h entry) :=
  .ite hs (.ite (.imageRefresh <| .frame <| .ite (.setB hs) (.setB hs)) (.inc <| .ite (.setB hs) (.setB hs)))

theorem copyStale {d : Side} {h : Nat} (hs : s₀.Keeps s) : s₀.Keeps (s.copyStale d h) := .imageRefresh <| .frame hs

theorem fwDriveWrite {i val : Nat} (hs : s₀.Keeps s) : s₀.Keeps (s.fwDriveWrite i val) := .ite (.leaf hs) (.ownChanged <| .set hs)

theorem reachLost {d : Side} {h : Nat} (hs : s₀.Keeps s) : s₀.Keeps (s.reachLost d h) := .imageRefresh <| .ite (.setB hs) (.setB hs)

end State.Keeps

namespace State.Leads

theorem shotStretchEnd (s : State) {i : Nat} : s.Leads (execShotStretchEnd i s) := by
  unfold execShotStretchEnd
  exact .unlessDown <| .next <| .frame .cleared

theorem shotStaleTimeout (s : State) {d : Side} {h : Nat} : s.Leads (execShotStaleTimeout d h s) :=
  .unlessDown <| .next <| .copyStale .cleared

end State.Leads

end Sys2Proof.Machine

end

section

/-! Domains, servos, captures and domain selection (Machine/Time). -/

namespace Sys2Proof.Machine

namespace State.Keeps

variable {s₀ s : State}

theorem setDom {d : Dom} {x : DomainState} (hs : s₀.Keeps s) : s₀.Keeps (s.setDom d x) := by
  unfold State.setDom
  split <;> exact .frame hs

theorem setRate {d : Dom} {r : Int} (hs : s₀.Keeps s) : s₀.Keeps (s.setRate d r) := .wr hs

theorem toDomState {d : Dom} {st : Nat} (hs : s₀.Keeps s) : s₀.Keeps (s.toDomState d st) := .ite hs (.leaf <| .when (.set hs) .setB)

theorem domStep {d : Dom} {theta : Int} (hs : s₀.Keeps s) : s₀.Keeps (s.domStep d theta) := .inc <| .setDom hs

theorem showSource {d : Dom} (hs : s₀.Keeps s) : s₀.Keeps (s.showSource d) := .setB hs

theorem setRound {r : Nat} (hs : s₀.Keeps s) : s₀.Keeps (s.setRound r) := .wr <| .wr hs

theorem slew {d : Dom} {ring : Bool} {theta : Int} (hs : s₀.Keeps s) : s₀.Keeps (s.slew d ring theta) := .setRate <| .setDom hs

theorem slewRemainder {theta : Int} (hs : s₀.Keeps s) : s₀.Keeps (s.slewRemainder theta) := .setRate <| .setDom hs

theorem recordTheta {d : Dom} {theta : Int} (hs : s₀.Keeps s) : s₀.Keeps (s.recordTheta d theta) := .wr <| .setDom hs

theorem clearRuns {d : Dom} (hs : s₀.Keeps s) : s₀.Keeps (s.clearRuns d) := .setDom hs

theorem measureState {d : Dom} {traceable : Bool} (hs : s₀.Keeps s) : s₀.Keeps (s.measureState d traceable) :=
  .when (.when (.when (.when hs fun h => .setDom <| .toDomState <| .clearRuns h) fun h => .toDomState <|
      .clearRuns h) .toDomState) .setB

theorem announceStep {theta : Int} (hs : s₀.Keeps s) : s₀.Keeps (s.announceStep theta) :=
  .ite (.slewRemainder hs) (.slewRemainder <| .setB <| .frame hs)

theorem roundFollows {d : Dom} (hs : s₀.Keeps s) : s₀.Keeps (s.roundFollows d) := .when hs .setRound

theorem measure {d : Dom} {theta : Int} {traceable : Bool} {clockClass : Nat} (hs : s₀.Keeps s) :
    s₀.Keeps (s.measure d theta traceable clockClass) :=
  .ite (.ite (.roundFollows <| .domStep <| .measureState <| .set <| .recordTheta hs)
      (.ite (.announceStep <| .measureState <| .set <| .recordTheta hs) (.slew <| .measureState <| .set <| .recordTheta hs)))
      (.slew <| .measureState <| .set <| .recordTheta hs)

theorem timeMeasurement {d : Dom} {lo hi : Nat} (hs : s₀.Keeps s) : s₀.Keeps (s.timeMeasurement d lo hi) :=
  .ite (.showSource <| .setDom hs) (.ite (.measure <| .showSource <| .setDom hs) (.showSource <| .setDom hs))

theorem ppsMeasurement {d : Dom} (hs : s₀.Keeps s) : s₀.Keeps (s.ppsMeasurement d) :=
  .ite (.showSource <| .setDom hs) (.ite (.measure <| .showSource <| .setDom hs) (.showSource <| .setDom hs))

theorem enterHoldover {d : Dom} (hs : s₀.Keeps s) : s₀.Keeps (s.enterHoldover d) :=
  .ite (.setRate <| .setB <| .toDomState <| .setDom <| .clearRuns hs) hs

theorem checkSources {d : Dom} (hs : s₀.Keeps s) : s₀.Keeps (s.checkSources d) :=
  .ite (.showSource hs) (.enterHoldover <| .showSource hs)

theorem domCycle {d : Dom} (hs : s₀.Keeps s) : s₀.Keeps (s.domCycle d) := .setDom hs

theorem followA (hs : s₀.Keeps s) : s₀.Keeps s.followA :=
  .ite (.measureState <| .set <| .recordTheta <| .setRate <| .setDom <| .showSource hs) (.showSource hs)

theorem timeCycle (hs : s₀.Keeps s) : s₀.Keeps s.timeCycle := .frame <| .followA <| .domCycle <| .domCycle hs

theorem timeSnap {latch : Nat} (hs : s₀.Keeps s) : s₀.Keeps (s.timeSnap latch) := .frame hs

theorem capture {edge : Bool} (hs : s₀.Keeps s) : s₀.Keeps (s.capture edge) :=
  .ite hs (.frame <| .wr <| .wr <| .wr <| .wr <| .when hs fun h => .leaf <| .setB h)

theorem captureRead (hs : s₀.Keeps s) : s₀.Keeps s.captureRead := .frame <| .setB hs

theorem setConsumer {c : Consumer} {d : Dom} (hs : s₀.Keeps s) : s₀.Keeps (s.setConsumer c d) := by
  unfold State.setConsumer
  split
  · exact .wr hs
  · exact .set hs
  · exact .set hs
  · exact .set hs
  · exact .set hs

theorem ppsSettle (hs : s₀.Keeps s) : s₀.Keeps s.ppsSettle := .when hs fun h => .emit <| .frame h

theorem switchTo {c : Consumer} {d : Dom} (hs : s₀.Keeps s) : s₀.Keeps (s.switchTo c d) := .ppsSettle <| .setConsumer hs

theorem selectDomain {c : Consumer} {d : Dom} (hs : s₀.Keeps s) : s₀.Keeps (s.selectDomain c d) := .ite (.frame hs) (.frame hs)

theorem ringStepN (hs : s₀.Keeps s) : s₀.Keeps s.ringStepN := by
  unfold State.ringStepN
  split
  · exact .ite (.setB <| .frame <| .setRound <| .domStep hs) hs
  · exact hs

theorem measureRing {theta : Int} {traceable : Bool} {clockClass : Nat} (hs : s₀.Keeps s) :
    s₀.Keeps (s.measureRing theta traceable clockClass) :=
  .slew <| .when (.measureState <| .set <| .recordTheta hs) fun h => .frame <| .clearRuns h

end State.Keeps

namespace State.Leads

theorem ppsInEdge (s : State) {rising : Bool} : s.Leads (execPpsInEdge rising s) := by
  unfold execPpsInEdge
  exact .unlessDown <| .ite (.next <| .ppsMeasurement <| .ppsMeasurement <| .capture .cleared) (.next .cleared)

theorem sourceLossTimeout (s : State) {d : Dom} {second : Bool} : s.Leads (execSourceLossTimeout d second s) := by
  unfold execSourceLossTimeout
  exact .unlessDown <| .next <| .checkSources <| .setDom .cleared

theorem holdTraceExpiry (s : State) {d : Dom} : s.Leads (execHoldTraceExpiry d s) := by
  unfold execHoldTraceExpiry
  exact .unlessDown <| .next <| .when .cleared .setB

theorem domainSelectApply (s : State) {c : Consumer} : s.Leads (execDomainSelectApply c s) := by
  unfold execDomainSelectApply
  refine .unlessDown ?_
  dsimp only
  split
  · exact .next <| .frame <| .switchTo .cleared
  · exact .next .cleared

theorem domainAutoSwitch (s : State) {c : Consumer} : s.Leads (execDomainAutoSwitch c s) := by
  unfold execDomainAutoSwitch
  exact .unlessDown <| .ite (.next <| .leaf <| .frame <| .switchTo .cleared) (.next .cleared)

theorem ppsOutEdge (s : State) {rising : Bool} : s.Leads (execPpsOutEdge rising s) := by
  unfold execPpsOutEdge
  exact .unlessDown <| .next <| .emit <| .frame .cleared

end State.Leads

end Sys2Proof.Machine

end

section

/-! Claims, heartbeats, roles and hold-off (Machine/Twin). -/

namespace Sys2Proof.Machine

namespace State.Keeps

variable {s₀ s : State}

theorem setTrack {k m : Nat} {x : TwinMember} (hs : s₀.Keeps s) : s₀.Keeps (s.setTrack k m x) := .frame hs

theorem endHoldoff {k : Nat} (hs : s₀.Keeps s) : s₀.Keeps (s.endHoldoff k) := .ite (.frame <| .setB hs) hs

theorem twinRefresh {k : Nat} (hs : s₀.Keeps s) : s₀.Keeps (s.twinRefresh k) := by
  unfold State.twinRefresh
  exact .when (.set <| .set <| .setB <| .when hs .endHoldoff) .leaf

theorem twinRefreshAll (hs : s₀.Keeps s) : s₀.Keeps s.twinRefreshAll := .each hs .twinRefresh

theorem enterHoldoff {k : Nat} (hs : s₀.Keeps s) : s₀.Keeps (s.enterHoldoff k) := .when hs .setB

theorem healthChanged {before : List Nat} (hs : s₀.Keeps s) : s₀.Keeps (s.healthChanged before) :=
  .twinRefreshAll <| .each hs fun h => .when h .enterHoldoff

theorem healthForcedNow (hs : s₀.Keeps s) : s₀.Keeps s.healthForcedNow := .twinRefreshAll <| .leaf hs

theorem raiseFault {bit : Nat} (hs : s₀.Keeps s) : s₀.Keeps (s.raiseFault bit) :=
  .ite (.enterFault hs) (.healthForcedNow <| .enterFault hs)

theorem healthWrite {val : Nat} (hs : s₀.Keeps s) : s₀.Keeps (s.healthWrite val) := .healthChanged <| .frame <| .set hs

theorem overrideWrite {k mode : Nat} (hs : s₀.Keeps s) : s₀.Keeps (s.overrideWrite k mode) := .healthChanged <| .set hs

theorem heartbeatBegins (hs : s₀.Keeps s) : s₀.Keeps s.heartbeatBegins :=
  .ite (.twinRefreshAll <| .frame hs) (.twinRefreshAll <| .each (.frame hs) .enterHoldoff)

theorem showMissing {k : Nat} (hs : s₀.Keeps s) : s₀.Keeps (s.showMissing k) := .setB <| .setB hs

theorem claimLost {k m : Nat} (hs : s₀.Keeps s) : s₀.Keeps (s.claimLost k m) :=
  .ite (.twinRefresh <| .when (.showMissing <| .wr <| .setTrack hs) fun h => .leaf <| .setB h) hs

theorem recordClaim {d : Side} {k claim r : Nat} (hs : s₀.Keeps s) : s₀.Keeps (s.recordClaim d k claim r) := by
  unfold State.recordClaim
  dsimp only
  split
  · exact .leaf <| .inc <| .each hs .claimLost
  · exact .twinRefresh <| .when (.showMissing <| .when (.setTrack <| .each hs .claimLost) .wr) .setB

theorem heartbeatReceived {d : Side} {owner sequence : Nat} {cell : List Byte} (hs : s₀.Keeps s) :
    s₀.Keeps (s.heartbeatReceived d owner sequence cell) :=
  .ite hs (.foldl hs fun h => .ite (.inc h) (.recordClaim h))

theorem twinRound (hs : s₀.Keeps s) : s₀.Keeps s.twinRound :=
  .twinRefreshAll <| .frame <| .each hs fun h => .when h fun h1 => .when (.showMissing <| .set <| .setTrack h1) .leaf

theorem guardCount {n src : Nat} {ordinary : Bool} (hs : s₀.Keeps s) : s₀.Keeps (s.guardCount n src ordinary) :=
  .ite (.inc hs) (.inc hs)

end State.Keeps

namespace State.Leads

theorem healthWatchdogExpiry (s : State) : s.Leads (execHealthWatchdogExpiry s) := by
  unfold execHealthWatchdogExpiry
  exact .unlessDown <| .next <| .healthForcedNow <| .frame .cleared

theorem claimLost (s : State) {k m : Nat} : s.Leads (execClaimLost k m s) := .unlessDown <| .next <| .claimLost .cleared

theorem holdoffEnd (s : State) {k : Nat} : s.Leads (execHoldoffEnd k s) :=
  .unlessDown <| .next <| .twinRefresh <| .endHoldoff .cleared

end State.Leads

end Sys2Proof.Machine

end

section

/-! Queues, cells and host descriptor rings (Machine/Hopper). -/

namespace Sys2Proof.Machine

namespace State.Keeps

variable {s₀ s : State}

theorem setQueue {q : Nat} {x : Queue} (hs : s₀.Keeps s) : s₀.Keeps (s.setQueue q x) := .frame hs

theorem queueRefused {q : Nat} (hs : s₀.Keeps s) : s₀.Keeps (s.queueRefused q) := .setQueue hs

theorem takeIndex (hs : s₀.Keeps s) : s₀.Keeps s.takeIndex.2 := .frame hs

theorem appendCell {q srcHub srcEp : Nat} {bytes : List Byte} (hs : s₀.Keeps s) : s₀.Keeps (s.appendCell q srcHub srcEp bytes) :=
  .ite (.setQueue <| .takeIndex hs) (.frame <| .setQueue <| .takeIndex hs)

theorem loseCell {c : Cell} {readBackOk : Bool} (hs : s₀.Keeps s) : s₀.Keeps (s.loseCell c readBackOk) :=
  .ite (.leaf <| .inc hs) (.ite (.raiseFault <| .leaf <| .setB <| .set <| .frame <| .leaf <| .inc hs)
      (.set <| .frame <| .leaf <| .inc hs))

theorem dropBad {q : Nat} (hs : s₀.Keeps s) : s₀.Keeps (s.dropBad q) :=
  .ite (.frame <| .foldl (.setQueue hs) .loseCell) (.foldl (.setQueue hs) .loseCell)

theorem popCell {q : Nat} (hs : s₀.Keeps s) : s₀.Keeps (s.popCell q).2 := by
  unfold State.popCell
  dsimp only
  split
  · exact .dropBad hs
  · exact .dropBad <| .setQueue <| .dropBad hs

theorem applyFreeze (hs : s₀.Keeps s) : s₀.Keeps s.applyFreeze := .each (.frame hs) fun h => .when h .setB

theorem deliverTo {E c srcHub srcEp : Nat} {cell : List Byte} (hs : s₀.Keeps s) : s₀.Keeps (s.deliverTo E c srcHub srcEp cell) :=
  .appendCell hs

theorem deliverChecked {more E c srcHub srcEp : Nat} {cell : List Byte} (hs : s₀.Keeps s) :
    s₀.Keeps (s.deliverChecked more E c srcHub srcEp cell) := by
  induction more generalizing s E c srcHub srcEp cell with
  | zero => exact hs
  | succ more ih =>
    unfold State.deliverChecked
    split
    · exact hs.deliverTo
    · refine .ite hs.deliverTo (.ite hs.guardCount ?_)
      dsimp only
      split
      · refine .ite ?_ hs.guardCount.frame.appendCell
        split
        · exact ih hs.guardCount.frame
        · exact hs.guardCount.frame
      · exact hs.guardCount.frame.queueRefused

theorem deliver {E c srcHub srcEp : Nat} {cell : List Byte} (hs : s₀.Keeps s) : s₀.Keeps (s.deliver E c srcHub srcEp cell) :=
  .deliverChecked hs

theorem enqueue {p : Producer} {q : Nat} {cell : List Byte} (hs : s₀.Keeps s) : s₀.Keeps (s.enqueue p q cell).2 := by
  unfold State.enqueue
  split
  · exact hs
  · split
    · split
      · split
        · exact .deliver hs
        · exact .queueRefused hs
      · exact .appendCell hs
    · exact .queueRefused hs

theorem cellArrives {owner : Nat} {cell : List Byte} (hs : s₀.Keeps s) : s₀.Keeps (s.cellArrives owner cell) := by
  unfold State.cellArrives
  dsimp only
  split
  · exact hs
  · split
    · exact hs
    · split
      · exact .leaf <| .inc hs
      · exact .ite (.leaf <| .queueRefused <| .inc hs) (.deliver hs)

theorem payloadArrives {owner : Nat} {payload : List Byte} (hs : s₀.Keeps s) : s₀.Keeps (s.payloadArrives owner payload) :=
  .foldl hs .cellArrives

theorem checkHeld {d : Nat} (hs : s₀.Keeps s) : s₀.Keeps (s.checkHeld d) := by
  unfold State.checkHeld
  split
  · exact hs
  · exact .ite (.frame hs) (.frame hs)

theorem departFrom {q : Nat} (hs : s₀.Keeps s) : s₀.Keeps (s.departFrom q).2 := by
  unfold State.departFrom
  split
  · next hq => exact .frame <| .of_eq hq (.popCell hs)
  · next hq => exact .of_eq hq (.popCell hs)

theorem fillPositions {face n : Nat} {dir : Option Side} (hs : s₀.Keeps s) : s₀.Keeps (s.fillPositions face dir n).2.2 := by
  induction n generalizing s with
  | zero => exact hs
  | succ n ih =>
    unfold State.fillPositions
    split
    · exact ih <| .departFrom hs
    · exact hs

theorem unreachable {d : Nat} (hs : s₀.Keeps s) : s₀.Keeps (s.unreachable d) :=
  .ite hs (.ite hs (.leaf <| .add <| .frame <| .foldl hs .setQueue))

theorem takeGuarded {e : Nat} (hs : s₀.Keeps s) : s₀.Keeps (s.takeGuarded e).2 := by
  unfold State.takeGuarded
  split
  · exact .frame hs
  · exact hs

theorem dequeue {p : Producer} {e c : Nat} (hs : s₀.Keeps s) : s₀.Keeps (s.dequeue p e c).2 := by
  unfold State.dequeue
  split
  · split
    · next hq1 => exact .of_eq hq1 (.takeGuarded hs)
    · split
      · next hq2 _ => exact .of_eq hq2 (.takeGuarded hs)
      · next hq2 _ => exact .popCell <| .of_eq hq2 (.takeGuarded hs)
  · exact hs

theorem setRing {r : Nat} {x : HostRing} (hs : s₀.Keeps s) : s₀.Keeps (s.setRing r x) := .frame hs

theorem ringComplete {r result : Nat} (hs : s₀.Keeps s) : s₀.Keeps (s.ringComplete r result) := by
  unfold State.ringComplete
  exact .when (.setRing <| .set <| .set hs) .leaf

theorem ringStop {r : Nat} (hs : s₀.Keeps s) : s₀.Keeps (s.ringStop r) := .leaf <| .setB <| .set <| .setB hs

theorem ringTake {r : Nat} (hs : s₀.Keeps s) : s₀.Keeps (s.ringTake r).2 := by
  unfold State.ringTake
  split
  · split <;> next hq1 => exact .of_eq hq1 (.takeGuarded hs)
  · split
    · dsimp only
      split
      · next hq2 => exact .setRing <| .of_eq hq2 (.popCell hs)
      · next hq2 => exact .of_eq hq2 (.popCell hs)
    · exact hs

end State.Keeps

namespace State.Leads

theorem enqueue (s : State) {prod : Producer} {q : Nat} {cell : List Byte} : s.Leads (execEnqueue prod q cell s) := by
  unfold execEnqueue
  exact .unlessDown <| .next <| .emit <| .enqueue .cleared

theorem dequeue (s : State) {prod : Producer} {e c : Nat} : s.Leads (execDequeue prod e c s) := by
  unfold execDequeue
  refine .unlessDown ?_
  split
  · next hq1 => exact .next <| .emit <| .of_eq hq1 (.dequeue .cleared)
  · next hq1 => exact .next <| .of_eq hq1 (.dequeue .cleared)

theorem heldClear (s : State) {h : Nat} : s.Leads (execHeldClear h s) := by
  unfold execHeldClear
  exact .unlessDown <| .next <| .frame .cleared

theorem cellEccError (s : State) {k : Nat} {readBackOk : Bool} : s.Leads (execCellEccError k readBackOk s) := by
  unfold execCellEccError
  refine .unlessDown ?_
  dsimp only
  split
  · exact .next <| .dropBad <| .setQueue .cleared
  · exact .next .cleared

theorem queueStateEccError (s : State) {q : Nat} : s.Leads (execQueueStateEccError q s) := by
  unfold execQueueStateEccError
  exact .unlessDown <| .next <| .raiseFault <| .leaf <| .setB <| .setQueue .cleared

theorem correctableEccError (s : State) : s.Leads (execCorrectableEccError s) := .unlessDown <| .next <| .inc .cleared

theorem scrubBurstEnd (s : State) : s.Leads (execScrubBurstEnd s) := by
  unfold execScrubBurstEnd
  exact .unlessDown <| .ite (.next <| .leaf <| .permitGive <| .setB <| .setB .cleared) (.next .cleared)

theorem sendDescriptor (s : State) {r : Nat} {desc buf : List Byte} : s.Leads (execSendDescriptor r desc buf s) := by
  unfold execSendDescriptor
  refine .unlessDown ?_
  dsimp only
  split
  · split
    · exact .next <| .ringComplete <| .emit <| .queueRefused .cleared
    · exact .next <| .ringComplete <| .emit <| .enqueue .cleared
  · exact .next .cleared

theorem receiveDescriptor (s : State) {r : Nat} {desc : List Byte} : s.Leads (execReceiveDescriptor r desc s) := by
  unfold execReceiveDescriptor
  refine .unlessDown ?_
  dsimp only
  split
  · split
    · exact .next <| .ringComplete <| .emit .cleared
    · split
      · next hq3 => exact .next <| .ringComplete <| .emit <| .emit <| .of_eq hq3 (.ringTake .cleared)
      · next hq3 => exact .next <| .of_eq hq3 (.ringTake .cleared)
  · exact .next .cleared

theorem hostMemoryError (s : State) {r : Nat} {cellTaken statusWritable : Bool} :
    s.Leads (execHostMemoryError r cellTaken statusWritable s) := by
  unfold execHostMemoryError
  exact .unlessDown <| .ite (.next <| .ringStop <| .when (.when .cleared .emit) fun h => by
  split
  · next hq => exact .inc <| .of_eq hq (.ringTake h)
  · next hq => exact .of_eq hq (.ringTake h)) (.next .cleared)

end State.Leads

end Sys2Proof.Machine

end

section

/-! Port instances and their records (Machine/PortTable). -/

namespace Sys2Proof.Machine

namespace State.Keeps

variable {s₀ s : State}

theorem setPort {b k : Nat} {x : Port} (hs : s₀.Keeps s) : s₀.Keeps (s.setPort b k x) := .frame hs

theorem onPort {b k : Nat} {f : Port → Port} (hs : s₀.Keeps s) : s₀.Keeps (s.onPort b k f) := .setPort hs

theorem portOverrun {b t : Nat} (hs : s₀.Keeps s) : s₀.Keeps (s.portOverrun b t) := by
  unfold State.portOverrun
  split
  · exact .onPort hs
  · exact hs

theorem portRecord {b k flags residue : Nat} {x : Stamp} {payload : List Byte} (hs : s₀.Keeps s) :
    s₀.Keeps (s.portRecord b k flags residue x payload) := by
  unfold State.portRecord
  dsimp only
  split
  · next hq => exact .of_eq hq (.enqueue <| .set <| .onPort hs)
  · next hq => exact .onPort <| .inc <| .of_eq hq (.enqueue <| .set <| .onPort hs)

theorem portShow {b k st : Nat} (hs : s₀.Keeps s) : s₀.Keeps (s.portShow b k st) := .set hs

end State.Keeps

end Sys2Proof.Machine

end

section

/-! Channels, groups and comparators (Machine/Dresser). -/

namespace Sys2Proof.Machine

namespace State.Keeps

variable {s₀ s : State}

theorem setChan {b c : Nat} {x : DrsChannel} (hs : s₀.Keeps s) : s₀.Keeps (s.setChan b c x) := .frame hs

theorem setGroup {b g : Nat} {x : DrsGroup} (hs : s₀.Keeps s) : s₀.Keeps (s.setGroup b g x) := .frame hs

theorem burstAsk {b : Nat} (hs : s₀.Keeps s) : s₀.Keeps (s.burstAsk b) := .each hs fun h => .ite (.permitAsk h) (.permitGive h)

theorem burstGive {b : Nat} (hs : s₀.Keeps s) : s₀.Keeps (s.burstGive b) := .each hs .permitGive

theorem groupRecord {b g type flags : Nat} {x : Stamp} {payload : List Byte} (hs : s₀.Keeps s) :
    s₀.Keeps (s.groupRecord b g type flags x payload) := by
  unfold State.groupRecord
  split
  · dsimp only
    split
    · next hq1 => exact .of_eq hq1 (.enqueue <| .setGroup hs)
    · next hq1 => exact .setGroup <| .of_eq hq1 (.enqueue <| .setGroup hs)
  · exact hs

theorem sampleRecord {b g : Nat} {x : Stamp} (hs : s₀.Keeps s) : s₀.Keeps (s.sampleRecord b g x) := by
  unfold State.sampleRecord
  exact .groupRecord hs

theorem sendNow {b g : Nat} (hs : s₀.Keeps s) : s₀.Keeps (s.sendNow b g) := by
  unfold State.sendNow
  split
  · exact .sampleRecord <| .setGroup hs
  · exact hs

theorem sendDue {b g : Nat} (hs : s₀.Keeps s) : s₀.Keeps (s.sendDue b g) := by
  unfold State.sendDue
  split
  · exact .ite hs (.sendNow hs)
  · exact hs

theorem countResult {b c : Nat} {x : Stamp} (hs : s₀.Keeps s) : s₀.Keeps (s.countResult b c x) := by
  unfold State.countResult
  exact .ite (.sendDue <| .ite (.ite (.setGroup <| .sendNow hs) (.setGroup hs)) hs) hs

theorem cmpEvent {b m : Nat} {holds forced : Bool} {x : Stamp} {y raw : Nat} (hs : s₀.Keeps s) :
    s₀.Keeps (s.cmpEvent b m holds forced x y raw) := by
  unfold State.cmpEvent
  exact .ite (.groupRecord hs) hs

theorem cmpChange {b m : Nat} {holds forced : Bool} {x : Stamp} {y raw : Nat} (hs : s₀.Keeps s) :
    s₀.Keeps (s.cmpChange b m holds forced x y raw) := by
  unfold State.cmpChange
  exact .cmpEvent <| .when (.when (.set <| .setB <| .setB hs) .inc) .comparatorShot

theorem cmpFollow {old : Machine.State} {b m : Nat} (hs : s₀.Keeps s) : s₀.Keeps (s.cmpFollow old b m) :=
  .ite hs (.ite (.comparatorLines hs) (.when (.comparatorLines hs) .leaf))

theorem cmpResult {b m : Nat} {x : Stamp} {y raw : Nat} (hs : s₀.Keeps s) : s₀.Keeps (s.cmpResult b m x y raw) := by
  unfold State.cmpResult
  exact .ite (.cmpChange hs) (.set hs)

theorem cmpInvalid {b m : Nat} {x : Stamp} {y raw : Nat} (hs : s₀.Keeps s) : s₀.Keeps (s.cmpInvalid b m x y raw) := by
  unfold State.cmpInvalid
  dsimp only
  split
  · exact .ite hs (.cmpChange hs)
  · exact .ite (.cmpChange hs) (.set hs)
  · exact hs

theorem cmpEndAll {b : Nat} (hs : s₀.Keeps s) : s₀.Keeps (s.cmpEndAll b) :=
  .each hs fun h => .comparatorLines <| .set <| .setB <| .setB h

theorem clearFilter {b c : Nat} (hs : s₀.Keeps s) : s₀.Keeps (s.clearFilter b c) := .setChan hs

theorem dresserBit {b c : Nat} {bit : Bool} {stamp : Stamp} (hs : s₀.Keeps s) : s₀.Keeps (s.dresserBit b c bit stamp) :=
  .ite (.ite (.setChan <| .when hs .setB) (.setChan hs)) hs

theorem channelLost {b c : Nat} {stamp : Stamp} (hs : s₀.Keeps s) : s₀.Keeps (s.channelLost b c stamp) := by
  unfold State.channelLost
  exact .each (.sendDue <| .setChan <| .setBitOf hs) .cmpInvalid

theorem channelRecovers {b c : Nat} (hs : s₀.Keeps s) : s₀.Keeps (s.channelRecovers b c) :=
  .each (.clearFilter <| .setBitOf hs) .set

theorem deliverResult {b c : Nat} {w : Window} {parityOk : Bool} (hs : s₀.Keeps s) : s₀.Keeps (s.deliverResult b c w parityOk) := by
  unfold State.deliverResult
  exact .countResult <| .each (.when (.wr <| .wr <| .wr <| .setChan hs) .leaf) fun h => .ite (.cmpResult h) (.cmpInvalid h)

theorem windowEnd {b c : Nat} {parityOk : Bool} (hs : s₀.Keeps s) : s₀.Keeps (s.windowEnd b c parityOk) := by
  unfold State.windowEnd
  dsimp only
  split
  · exact .ite (.sendDue <| .setChan <| .setChan hs) (.deliverResult <| .setChan hs)
  · exact hs

theorem coefficientsApply {b c : Nat} (hs : s₀.Keeps s) : s₀.Keeps (s.coefficientsApply b c) := .setChan hs

theorem coefficientsApplyAll {b : Nat} (hs : s₀.Keeps s) : s₀.Keeps (s.coefficientsApplyAll b) := .each hs .coefficientsApply

theorem thresholdWrite {b m v : Nat} {release : Bool} {u : State} (hs : s₀.Keeps s) (hu : s.thresholdWrite b m release v = some u) :
    s₀.Keeps u := by
  unfold State.thresholdWrite at hu
  obtain ⟨-, hu⟩ := Option.ite_none_right_eq_some.mp hu
  cases hu
  exact .set <| .ite (.frame <| .wr hs) (.wr hs)

end State.Keeps

namespace State.Leads

theorem decimationWindowEnd (s : State) {b c : Nat} {parityOk : Bool} : s.Leads (execDecimationWindowEnd b c parityOk s) :=
  .unlessDown <| .next <| .windowEnd .cleared

end State.Leads

end Sys2Proof.Machine

end

section

/-! Setts (Machine/Sett). -/

namespace Sys2Proof.Machine

namespace State.Keeps

variable {s₀ s : State}

theorem setSett {b k : Nat} {x : Sett} (hs : s₀.Keeps s) : s₀.Keeps (s.setSett b k x) := .frame hs

theorem onSett {b k : Nat} {f : Sett → Sett} (hs : s₀.Keeps s) : s₀.Keeps (s.onSett b k f) := .setSett hs

theorem setPin {b p : Nat} {x : Pin} (hs : s₀.Keeps s) : s₀.Keeps (s.setPin b p x) := .frame hs

theorem setBench {b : Nat} {x : Bench} (hs : s₀.Keeps s) : s₀.Keeps (s.setBench b x) := .frame hs

theorem meet {b k : Nat} (hs : s₀.Keeps s) : s₀.Keeps (s.meet b k) := .onSett hs

theorem meetLines {b : Nat} (hs : s₀.Keeps s) : s₀.Keeps (s.meetLines b) :=
  .each hs fun h => by
  split
  · dsimp only
    split
    · exact .when h .meet
    · exact h
  · exact h

theorem meetPin {b p : Nat} {level : Bool} (hs : s₀.Keeps s) : s₀.Keeps (s.meetPin b p level) :=
  .each hs fun h => by
  split
  · exact .when h .meet
  · exact h

theorem stampEdge {b k : Nat} {rising : Bool} (hs : s₀.Keeps s) : s₀.Keeps (s.stampEdge b k rising) := .when (.setSett hs) .inc

theorem ballLevel {b p : Nat} {level : Bool} (hs : s₀.Keeps s) : s₀.Keeps (s.ballLevel b p level) :=
  .ite hs (.meetPin <| .when (.when (.setPin hs) .stampEdge) .onSett)

theorem settleBall {b p : Nat} (hs : s₀.Keeps s) : s₀.Keeps (s.settleBall b p) := by
  unfold State.settleBall
  split
  · exact .ballLevel hs
  · exact hs

theorem sample {b p : Nat} (hs : s₀.Keeps s) : s₀.Keeps (s.sample b p).2 := by
  unfold State.sample
  split
  · exact .ballLevel <| .drawn hs
  · exact hs

theorem readPin {b k j : Nat} (hs : s₀.Keeps s) : s₀.Keeps (s.readPin b k j).2 := by
  unfold State.readPin
  exact .sample hs

theorem readPins {b k j n : Nat} (hs : s₀.Keeps s) : s₀.Keeps (s.readPins b k j n).2 := by
  induction n with
  | zero => exact hs
  | succ n ih => exact .readPin ih

theorem output {b p : Nat} {x : Pin} (hs : s₀.Keeps s) : s₀.Keeps (s.output b p x) :=
  .ite (.setPin hs) (.settleBall <| .emit <| .setPin hs)

theorem padWritten {old : Machine.State} {b p : Nat} (hs : s₀.Keeps s) : s₀.Keeps (s.padWritten old b p) :=
  .ite hs (.settleBall <| .when (.setPin hs) .emit)

theorem contention {b k p : Nat} (hs : s₀.Keeps s) : s₀.Keeps (s.contention b k p) :=
  .when (.leaf <| .setBitOf <| .setPin hs) fun h => .onSett <| .leaf h

theorem drive {b k p : Nat} {f : Pin → Pin} (hs : s₀.Keeps s) : s₀.Keeps (s.drive b k p f) :=
  .ite hs (.ite (.output hs) (.contention hs))

theorem driveOut {b k p : Nat} {level : Bool → Bool} (hs : s₀.Keeps s) : s₀.Keeps (s.driveOut b k p level) := .drive hs

theorem driveLevel {b k p : Nat} {level : Bool} (hs : s₀.Keeps s) : s₀.Keeps (s.driveLevel b k p level) := .driveOut hs

theorem driveEdge {b k p : Nat} {level : Bool} (hs : s₀.Keeps s) : s₀.Keeps (s.driveEdge b k p level) := .drive hs

theorem driveEnable {b k p : Nat} {on : Bool} (hs : s₀.Keeps s) : s₀.Keeps (s.driveEnable b k p on) := .drive hs

theorem safePin {b p : Nat} (hs : s₀.Keeps s) : s₀.Keeps (s.safePin b p) := by
  unfold State.safePin
  dsimp only
  split
  · exact .output hs
  · exact .output hs
  · exact .output hs
  · exact hs

theorem safeOwned {b k : Nat} (hs : s₀.Keeps s) : s₀.Keeps (s.safeOwned b k) := .each hs .safePin

theorem sideSet {b k w : Nat} {driven : Nat → Bool} (hs : s₀.Keeps s) : s₀.Keeps (s.sideSet b k w driven) :=
  .each hs fun h => by
  dsimp only
  split
  · exact .driveLevel h
  · exact .when h .driveOut
  · exact .when h fun h1 => .drive <| .driveLevel h1
  · exact h

theorem trap {b k cause : Nat} (hs : s₀.Keeps s) : s₀.Keeps (s.trap b k cause) := .safeOwned <| .when (.leaf <| .onSett hs) .leaf

theorem stopSett {b k cause : Nat} (hs : s₀.Keeps s) : s₀.Keeps (s.stopSett b k cause) := .onSett hs

theorem applyEdges {b k : Nat} {es : List SettEdge} (hs : s₀.Keeps s) : s₀.Keeps (s.applyEdges b k es) := by
  induction es generalizing s with
  | nil => exact hs.onSett
  | cons e rest ih =>
    unfold State.applyEdges
    split
    · exact .ite (ih hs.driveEdge) hs.driveEdge.onSett
    · exact hs.driveEdge.onSett

theorem stopContended {b k : Nat} (hs : s₀.Keeps s) : s₀.Keeps (s.stopContended b k) := .ite (.ite (.stopSett hs) (.onSett hs)) hs

theorem armEdge {b k pin : Nat} {level : Bool} {T : Int} {dom : Dom} (hs : s₀.Keeps s) : s₀.Keeps (s.armEdge b k pin level T dom) :=
  .ite (.driveEdge <| .when hs .inc) (.setSett <| .when hs .inc)

theorem setReference {b k : Nat} {T : Int} {dom : Dom} (hs : s₀.Keeps s) : s₀.Keeps (s.setReference b k T dom) := .onSett hs

theorem stampRead {b k : Nat} (hs : s₀.Keeps s) : s₀.Keeps (s.stampRead b k) := .onSett hs

theorem overrun {b k : Nat} (hs : s₀.Keeps s) : s₀.Keeps (s.overrun b k) := .portOverrun <| .leaf <| .inc hs

theorem waitHolds {b k w : Nat} {time : Option (Int × Dom)} (hs : s₀.Keeps s) : s₀.Keeps (s.waitHolds b k w time).2 := by
  unfold State.waitHolds
  split
  · exact .readPin hs
  · exact .readPin hs
  · exact hs
  · exact hs
  · exact hs
  · exact hs
  · exact hs
  · split <;> exact hs

theorem ready {b k w : Nat} {time : Option (Int × Dom)} (hs : s₀.Keeps s) : s₀.Keeps (s.ready b k w time).2 := by
  unfold State.ready
  split
  · exact .waitHolds hs
  · exact hs
  · exact hs
  · exact hs
  · exact hs
  · exact hs
  · exact hs
  · exact hs
  · exact hs

theorem jump {b k target : Nat} (hs : s₀.Keeps s) : s₀.Keeps (s.jump b k target) := .onSett hs

theorem doJmp {b k w : Nat} (hs : s₀.Keeps s) : s₀.Keeps (s.doJmp b k w) := by
  unfold State.doJmp
  dsimp only
  split
  · exact .ite (.jump hs) hs
  · exact .ite (.jump hs) hs
  · exact .ite (.jump hs) hs
  · exact .ite (.jump <| .readPin hs) (.readPin hs)
  · exact .ite (.jump <| .readPin hs) (.readPin hs)
  · exact .ite (.jump hs) hs
  · exact .ite (.jump hs) hs
  · exact .ite (.jump hs) hs
  · exact .ite (.jump hs) hs
  · exact .ite (.jump hs) hs
  · exact .ite (.jump hs) hs
  · exact .ite (.jump hs) hs

theorem doIn {b k w : Nat} (hs : s₀.Keeps s) : s₀.Keeps (s.doIn b k w) := by
  unfold State.doIn
  split
  · exact .onSett <| .readPins hs
  · exact .onSett hs
  · exact .onSett hs
  · exact .onSett hs
  · exact .onSett hs
  · exact .onSett hs

theorem doOut {b k w : Nat} (hs : s₀.Keeps s) : s₀.Keeps (s.doOut b k w) := by
  unfold State.doOut
  dsimp only
  split
  · exact .each (.onSett hs) .driveLevel
  · exact .each (.onSett hs) .driveEnable
  · exact .onSett <| .onSett hs
  · exact .onSett <| .onSett hs
  · exact .onSett hs

theorem doPush {b k : Nat} (hs : s₀.Keeps s) : s₀.Keeps (s.doPush b k) := .onSett <| .ite (.setSett hs) (.overrun hs)

theorem doPull {b k : Nat} (hs : s₀.Keeps s) : s₀.Keeps (s.doPull b k) := .onSett hs

theorem doMov {b k w : Nat} (hs : s₀.Keeps s) : s₀.Keeps (s.doMov b k w) := by
  unfold State.doMov
  dsimp only
  split
  · exact .onSett hs
  · exact .onSett hs
  · exact .onSett hs
  · exact .onSett hs
  · exact .onSett hs
  · exact .onSett <| .readPins hs
  · exact .onSett hs
  · exact .onSett <| .stampRead <| .setSett hs
  · exact .onSett hs
  · exact .onSett hs
  · exact .onSett hs
  · exact .onSett hs
  · exact .onSett hs

theorem doSeti {b k w : Nat} (hs : s₀.Keeps s) : s₀.Keeps (s.doSeti b k w) := .onSett hs

theorem doAddi {b k w : Nat} (hs : s₀.Keeps s) : s₀.Keeps (s.doAddi b k w) := .onSett hs

theorem doDjnz {b k w : Nat} (hs : s₀.Keeps s) : s₀.Keeps (s.doDjnz b k w) := by
  unfold State.doDjnz
  exact .ite (.jump <| .onSett hs) (.onSett hs)

theorem doStamp {b k w : Nat} (hs : s₀.Keeps s) : s₀.Keeps (s.doStamp b k w) :=
  .ite (.ite (.onSett <| .stampRead hs) (.overrun <| .stampRead hs)) (.onSett <| .stampRead hs)

theorem doAt {b k : Nat} {i : SettWait} (hs : s₀.Keeps s) : s₀.Keeps (s.doAt b k i) := by
  unfold State.doAt
  dsimp only
  split
  · exact .inc hs
  · exact .setReference <| .armEdge hs

theorem doShot {b k w : Nat} (hs : s₀.Keeps s) : s₀.Keeps (s.doShot b k w) := .settShot hs

theorem setEvents {b v : Nat} (hs : s₀.Keeps s) : s₀.Keeps (s.setEvents b v) := .meetLines <| .setBench hs

theorem doRaise {b k w : Nat} (hs : s₀.Keeps s) : s₀.Keeps (s.doRaise b k w) := by
  unfold State.doRaise
  dsimp only
  split
  · exact .setEvents hs
  · exact .setEvents hs
  · exact .setEvents <| .setEvents hs

theorem doCnt {b k w : Nat} (hs : s₀.Keeps s) : s₀.Keeps (s.doCnt b k w) := .onSett hs

theorem doCrcb {b k w : Nat} (hs : s₀.Keeps s) : s₀.Keeps (s.doCrcb b k w) := .onSett hs

theorem doFlag {b k w : Nat} (hs : s₀.Keeps s) : s₀.Keeps (s.doFlag b k w) := by
  unfold State.doFlag
  dsimp only
  split
  · exact .onSett <| .readPin hs
  · exact .onSett hs

theorem doDir {b k w : Nat} (hs : s₀.Keeps s) : s₀.Keeps (s.doDir b k w) := .each hs .driveEnable

theorem doLdt {b k w : Nat} (hs : s₀.Keeps s) : s₀.Keeps (s.doLdt b k w) := .setSett hs

theorem doCmpj {b k w : Nat} (hs : s₀.Keeps s) : s₀.Keeps (s.doCmpj b k w) := .ite (.jump hs) hs

theorem doTout {b k : Nat} {i : SettWait} (hs : s₀.Keeps s) : s₀.Keeps (s.doTout b k i) := .onSett hs

theorem doIrqw {b k w : Nat} (hs : s₀.Keeps s) : s₀.Keeps (s.doIrqw b k w) := .onSett hs

theorem doHalt {b k : Nat} (hs : s₀.Keeps s) : s₀.Keeps (s.doHalt b k) := .onSett hs

theorem effect {b k : Nat} {i : SettWait} (hs : s₀.Keeps s) : s₀.Keeps (s.effect b k i) := by
  unfold State.effect
  dsimp only
  split
  · exact .doJmp hs
  · exact .doIn hs
  · exact .doOut hs
  · exact .doPush hs
  · exact .doPull hs
  · exact .doMov hs
  · exact .doSeti hs
  · exact .doAddi hs
  · exact .doDjnz hs
  · exact .doStamp hs
  · exact .doAt hs
  · exact .doShot hs
  · exact .doRaise hs
  · exact .doCnt hs
  · exact .doCrcb hs
  · exact .doFlag hs
  · exact .doDir hs
  · exact .doHalt hs
  · exact .doLdt hs
  · exact .doCmpj hs
  · exact .doTout hs
  · exact .doIrqw hs
  · exact hs

theorem complete {b k : Nat} {x : SettWait} (hs : s₀.Keeps s) : s₀.Keeps (s.complete b k x) := by
  unfold State.complete
  exact .stopContended <| .onSett <| .effect <| .onSett hs

theorem completeWaiting {b k : Nat} (hs : s₀.Keeps s) : s₀.Keeps (s.completeWaiting b k) := by
  unfold State.completeWaiting
  split
  · exact .complete hs
  · exact hs

theorem openBarrier {b g : Nat} (hs : s₀.Keeps s) : s₀.Keeps (s.openBarrier b g) := by
  unfold State.openBarrier
  exact .each hs .completeWaiting

theorem checkWait {b k : Nat} (hs : s₀.Keeps s) : s₀.Keeps (s.checkWait b k) := by
  unfold State.checkWait
  split
  · split
    next hq =>
      have hu := of_eq hq (by split; exacts [hs, .ready hs])
      exact .ite (.ite (.openBarrier hu) (.complete hu)) hu
  · exact hs

theorem beginWait {b k w : Nat} (hs : s₀.Keeps s) : s₀.Keeps (s.beginWait b k w).2 := by
  unfold State.beginWait
  split
  · split
    · dsimp only
      split
      · exact .setReference hs
      · exact .inc hs
    · dsimp only
      split
      · exact .setReference hs
      · exact .inc hs
  · exact hs

theorem sideWithEnables {b k w : Nat} (hs : s₀.Keeps s) : s₀.Keeps (s.sideWithEnables b k w) := .sideSet <| .each hs .driveEnable

theorem beginWord {b k w : Nat} {injected : Bool} {back : SettPhase} (hs : s₀.Keeps s) :
    s₀.Keeps (s.beginWord b k w injected back) := by
  unfold State.beginWord
  exact .stopContended <| .ite (.checkWait <| .sideWithEnables <| .onSett <| .beginWait <| .onSett hs)
      (.sideSet <| .checkWait <| .onSett <| .beginWait <| .onSett hs)

theorem instruction {op : Option Nat} {b k : Nat} {e : Ecc} (hs : s₀.Keeps s) : s₀.Keeps (s.instruction op b k e) := by
  unfold State.instruction
  split
  · split
    · exact .ite hs (.trap <| .leaf hs)
    · split
      · exact .ite hs (.ite (.trap <| .when hs .leaf) hs)
      · exact .ite hs (.ite (.beginWord <| .onSett <| .when hs .leaf) hs)

end State.Keeps

namespace State.Leads

theorem jmp (s : State) {b k : Nat} {e : Ecc} : s.Leads (execJmp b k e s) := .unlessDown <| .next <| .instruction .cleared

theorem wait (s : State) {b k : Nat} {e : Ecc} : s.Leads (execWait b k e s) := .unlessDown <| .next <| .instruction .cleared

theorem inShift (s : State) {b k : Nat} {e : Ecc} : s.Leads (execInShift b k e s) := .unlessDown <| .next <| .instruction .cleared

theorem outShift (s : State) {b k : Nat} {e : Ecc} : s.Leads (execOutShift b k e s) := .unlessDown <| .next <| .instruction .cleared

theorem push (s : State) {b k : Nat} {e : Ecc} : s.Leads (execPush b k e s) := .unlessDown <| .next <| .instruction .cleared

theorem pull (s : State) {b k : Nat} {e : Ecc} : s.Leads (execPull b k e s) := .unlessDown <| .next <| .instruction .cleared

theorem mov (s : State) {b k : Nat} {e : Ecc} : s.Leads (execMov b k e s) := .unlessDown <| .next <| .instruction .cleared

theorem seti (s : State) {b k : Nat} {e : Ecc} : s.Leads (execSeti b k e s) := .unlessDown <| .next <| .instruction .cleared

theorem addi (s : State) {b k : Nat} {e : Ecc} : s.Leads (execAddi b k e s) := .unlessDown <| .next <| .instruction .cleared

theorem djnz (s : State) {b k : Nat} {e : Ecc} : s.Leads (execDjnz b k e s) := .unlessDown <| .next <| .instruction .cleared

theorem stamp (s : State) {b k : Nat} {e : Ecc} : s.Leads (execStamp b k e s) := .unlessDown <| .next <| .instruction .cleared

theorem armAt (s : State) {b k : Nat} {e : Ecc} : s.Leads (execArmAt b k e s) := .unlessDown <| .next <| .instruction .cleared

theorem shot (s : State) {b k : Nat} {e : Ecc} : s.Leads (execShot b k e s) := .unlessDown <| .next <| .instruction .cleared

theorem raise (s : State) {b k : Nat} {e : Ecc} : s.Leads (execRaise b k e s) := .unlessDown <| .next <| .instruction .cleared

theorem cnt (s : State) {b k : Nat} {e : Ecc} : s.Leads (execCnt b k e s) := .unlessDown <| .next <| .instruction .cleared

theorem crcb (s : State) {b k : Nat} {e : Ecc} : s.Leads (execCrcb b k e s) := .unlessDown <| .next <| .instruction .cleared

theorem flag (s : State) {b k : Nat} {e : Ecc} : s.Leads (execFlag b k e s) := .unlessDown <| .next <| .instruction .cleared

theorem dir (s : State) {b k : Nat} {e : Ecc} : s.Leads (execDir b k e s) := .unlessDown <| .next <| .instruction .cleared

theorem sync (s : State) {b k : Nat} {e : Ecc} : s.Leads (execSync b k e s) := .unlessDown <| .next <| .instruction .cleared

theorem halt (s : State) {b k : Nat} {e : Ecc} : s.Leads (execHalt b k e s) := .unlessDown <| .next <| .instruction .cleared

theorem ldt (s : State) {b k : Nat} {e : Ecc} : s.Leads (execLdt b k e s) := .unlessDown <| .next <| .instruction .cleared

theorem cmpj (s : State) {b k : Nat} {e : Ecc} : s.Leads (execCmpj b k e s) := .unlessDown <| .next <| .instruction .cleared

theorem tout (s : State) {b k : Nat} {e : Ecc} : s.Leads (execTout b k e s) := .unlessDown <| .next <| .instruction .cleared

theorem irqw (s : State) {b k : Nat} {e : Ecc} : s.Leads (execIrqw b k e s) := .unlessDown <| .next <| .instruction .cleared

theorem reservedOpcode (s : State) {b k : Nat} {e : Ecc} : s.Leads (execReservedOpcode b k e s) :=
  .unlessDown <| .next <| .instruction .cleared

theorem waitSatisfied (s : State) {b k : Nat} : s.Leads (execWaitSatisfied b k s) := by
  unfold execWaitSatisfied
  exact .unlessDown <| .next <| .ite (.checkWait .cleared) .cleared

end State.Leads

end Sys2Proof.Machine

end

section

/-! Port personalities (Machine/Port). -/

namespace Sys2Proof.Machine

namespace State.Keeps

variable {s₀ s : State}

theorem armIdle {b k : Nat} (hs : s₀.Keeps s) : s₀.Keeps (s.armIdle b k) := .onSett hs

theorem cancelIdle {b k : Nat} (hs : s₀.Keeps s) : s₀.Keeps (s.cancelIdle b k) := .onSett hs

theorem frameBegin {b k : Nat} {x : Stamp} (hs : s₀.Keeps s) : s₀.Keeps (s.frameBegin b k x) := .portShow <| .onPort hs

theorem frameOut {b k : Nat} (hs : s₀.Keeps s) : s₀.Keeps (s.frameOut b k) := .cancelIdle <| .portShow <| .onPort hs

theorem sendMore {b k : Nat} (hs : s₀.Keeps s) : s₀.Keeps (s.sendMore b k) := by
  unfold State.sendMore
  exact .onPort <| .portRecord hs

theorem addUnit {b k hold : Nat} {u : PortUnit} (hs : s₀.Keeps s) : s₀.Keeps (s.addUnit b k hold u) := by
  unfold State.addUnit
  exact .ite (.sendMore <| .onPort hs) (.onPort hs)

theorem splitLong {b k : Nat} (hs : s₀.Keeps s) : s₀.Keeps (s.splitLong b k) := .ite (.sendMore hs) hs

theorem frameClose {b k flags residue : Nat} {x : Stamp} (hs : s₀.Keeps s) : s₀.Keeps (s.frameClose b k flags residue x) := by
  unfold State.frameClose
  exact .frameOut <| .ite hs (.portRecord hs)

theorem truncateFrame {b k : Nat} (hs : s₀.Keeps s) : s₀.Keeps (s.truncateFrame b k) := by
  unfold State.truncateFrame
  exact .ite (.frameOut hs) (.frameClose <| .splitLong <| .inc hs)

theorem uartChar {b k : Nat} (hs : s₀.Keeps s) : s₀.Keeps (s.uartChar b k) := by
  unfold State.uartChar
  exact .ite (.ite (.frameOut <| .cancelIdle <| .onPort hs) (.cancelIdle <| .onPort hs))
      (.addUnit <| .onPort <| .cancelIdle <| .onPort hs)

theorem uartBit {b k : Nat} {level : Bool} (hs : s₀.Keeps s) : s₀.Keeps (s.uartBit b k level) := by
  unfold State.uartBit
  exact .ite (.ite (.frameOut <| .cancelIdle <| .onPort hs) (.cancelIdle <| .onPort hs))
      (.ite (.onPort hs) (.ite (.uartChar <| .onPort hs) (.onPort hs)))

theorem uartSamples {b k t n : Nat} {level all : Bool} (hs : s₀.Keeps s) : s₀.Keeps (s.uartSamples b k level all t n) := by
  induction n generalizing s with
  | zero => exact hs
  | succ n ih => exact .ite (ih <| .uartBit hs) hs

theorem uartEdge {b k : Nat} {level : Bool} {x : Stamp} (hs : s₀.Keeps s) : s₀.Keeps (s.uartEdge b k level x) := by
  unfold State.uartEdge
  exact .ite (.ite (.uartSamples hs) (.armIdle <| .onPort <| .ite (.uartSamples hs) (.frameBegin <| .uartSamples hs))) hs

theorem uartGap {b k : Nat} (hs : s₀.Keeps s) : s₀.Keeps (s.uartGap b k) := by
  unfold State.uartGap
  exact .ite (.frameClose <| .uartSamples hs) (.uartSamples hs)

theorem spiBit {b k : Nat} {level : Bool} {x : Stamp} (hs : s₀.Keeps s) : s₀.Keeps (s.spiBit b k level x) := by
  unfold State.spiBit
  exact .ite (.addUnit <| .onPort hs) (.onPort hs)

theorem spiSent {b k : Nat} (hs : s₀.Keeps s) : s₀.Keeps (s.spiSent b k) := .emit hs

theorem spiTargetOpen {b k : Nat} {x : Stamp} (hs : s₀.Keeps s) : s₀.Keeps (s.spiTargetOpen b k x) :=
  .armIdle <| .onPort <| .frameBegin hs

theorem spiTargetClose {b k : Nat} (hs : s₀.Keeps s) : s₀.Keeps (s.spiTargetClose b k) := by
  unfold State.spiTargetClose
  exact .ite (.frameClose <| .spiSent hs) hs

theorem spiTargetEdge {b k role : Nat} {level : Bool} {x : Stamp} (hs : s₀.Keeps s) :
    s₀.Keeps (s.spiTargetEdge b k role level x) := by
  unfold State.spiTargetEdge
  split
  · exact .ite (.ite (.cancelIdle <| .onPort hs) hs) (.spiTargetOpen <| .spiTargetClose hs)
  · exact .ite (.spiBit hs) hs
  · exact hs

theorem hdlcClose {b k : Nat} (hs : s₀.Keeps s) : s₀.Keeps (s.hdlcClose b k) := by
  unfold State.hdlcClose
  exact .ite (.frameOut hs) (.frameOut <| .portRecord <| .splitLong <| .onPort hs)

theorem hdlcFlag {b k : Nat} {x : Stamp} (hs : s₀.Keeps s) : s₀.Keeps (s.hdlcFlag b k x) := by
  unfold State.hdlcFlag
  exact .onPort <| .armIdle <| .frameBegin <| .ite (.hdlcClose hs) hs

theorem hdlcAbort {b k : Nat} (hs : s₀.Keeps s) : s₀.Keeps (s.hdlcAbort b k) := by
  unfold State.hdlcAbort
  exact .ite (.ite (.frameOut <| .onPort hs) (.frameClose <| .splitLong <| .onPort hs)) (.onPort hs)

theorem hdlcData {b k : Nat} {bit : Bool} {x : Stamp} (hs : s₀.Keeps s) : s₀.Keeps (s.hdlcData b k bit x) := by
  unfold State.hdlcData
  exact .ite (.ite (.frameClose <| .onPort <| .addUnit <| .onPort hs) (.addUnit <| .onPort hs)) (.onPort hs)

theorem hdlcBit {b k : Nat} {bit : Bool} {x : Stamp} (hs : s₀.Keeps s) : s₀.Keeps (s.hdlcBit b k bit x) := by
  unfold State.hdlcBit
  exact .ite (.ite (.hdlcAbort <| .onPort <| .onPort hs) (.ite (.hdlcData <| .onPort <| .onPort hs) (.onPort <| .onPort hs)))
      (.ite (.hdlcFlag <| .onPort <| .onPort hs) (.ite (.hdlcData <| .onPort <| .onPort hs) (.onPort <| .onPort hs)))

theorem irigNumber {els : List Nat} {n : Nat} {digits : List (Nat × Nat)} (hs : s₀.Keeps s) :
    s₀.Keeps (s.irigNumber els n digits).2 := by
  unfold State.irigNumber
  split
  · exact hs
  · exact .drawn hs

theorem irigPayload {digit : Nat} {els : List Nat} {truncated : Bool} (hs : s₀.Keeps s) :
    s₀.Keeps (s.irigPayload digit els truncated).2 := by
  unfold State.irigPayload
  split
  next hq =>
    have hu := of_eq hq (by split; exacts [.drawn hs, hs])
    dsimp only
    split
    · exact .irigNumber <| .irigNumber <| .irigNumber <| .irigNumber <| .irigNumber hu
    · exact .irigNumber <| .irigNumber <| .irigNumber <| .irigNumber hu

theorem irigEdge {b k : Nat} {level : Bool} {x : Stamp} (hs : s₀.Keeps s) : s₀.Keeps (s.irigEdge b k level x) := by
  unfold State.irigEdge
  split
  · exact .onPort hs
  · dsimp only
    split
    · exact .ite (.frameOut <| .portRecord <| .irigPayload <| .onPort <| .onPort hs) (.onPort <| .onPort hs)
    · exact .ite (.armIdle <| .onPort <| .frameBegin <| .onPort hs) (.onPort hs)

theorem irigTruncate {b k : Nat} (hs : s₀.Keeps s) : s₀.Keeps (s.irigTruncate b k) := by
  unfold State.irigTruncate
  exact .onPort <| .frameOut <| .portRecord <| .irigPayload (truncated := true) <| .inc hs

theorem ppsEdge {b k : Nat} {level : Bool} {x : Stamp} (hs : s₀.Keeps s) : s₀.Keeps (s.ppsEdge b k level x) := by
  unfold State.ppsEdge
  exact .ite (.portRecord <| .when hs .onPort) hs

theorem ppsWindow {b k : Nat} (hs : s₀.Keeps s) : s₀.Keeps (s.ppsWindow b k) := by
  unfold State.ppsWindow
  exact .ite (.onPort hs) (.portRecord <| .drawn hs)

theorem binaryRecord {b k reason count : Nat} {x : Stamp} (hs : s₀.Keeps s) : s₀.Keeps (s.binaryRecord b k reason count x) :=
  .portRecord hs

theorem binaryAccept {b k : Nat} {level : Bool} {x : Stamp} (hs : s₀.Keeps s) : s₀.Keeps (s.binaryAccept b k level x) := by
  unfold State.binaryAccept
  exact .ite (.onPort hs) (.ite (.binaryRecord <| .portShow <| .onPort <| .onPort hs) (.binaryRecord <| .onPort hs))

theorem binaryEdge {b k : Nat} {level : Bool} {x : Stamp} (hs : s₀.Keeps s) : s₀.Keeps (s.binaryEdge b k level x) := by
  unfold State.binaryEdge
  exact .ite (.binaryAccept <| .onPort hs) (.onPort hs)

theorem binaryDebounced {b k : Nat} (hs : s₀.Keeps s) : s₀.Keeps (s.binaryDebounced b k) := by
  unfold State.binaryDebounced
  exact .ite (.binaryAccept hs) hs

theorem binaryQuiet {b k : Nat} (hs : s₀.Keeps s) : s₀.Keeps (s.binaryQuiet b k) := by
  unfold State.binaryQuiet
  exact .ite (.binaryRecord <| .portShow <| .onPort hs) hs

theorem readbackEdge {b k : Nat} {x : Stamp} (hs : s₀.Keeps s) : s₀.Keeps (s.readbackEdge b k x) := by
  unfold State.readbackEdge
  exact .when (.when hs .onPort) fun h => .portRecord <| .drawn h

theorem supervisedDrive {b k : Nat} {f : State → State} (hs : s₀.Keeps (f s)) : s₀.Keeps (s.supervisedDrive b k f) := by
  unfold State.supervisedDrive
  exact .when (.onPort hs) .readbackEdge

theorem superviseExpired {b k : Nat} (hs : s₀.Keeps s) : s₀.Keeps (s.superviseExpired b k) := by
  unfold State.superviseExpired
  exact .ite (.when (.leaf <| .portRecord <| .onPort hs) fun h => .portShow <| .onPort <| .safePin h) hs

theorem sdEdge {b k : Nat} {rising : Bool} {x : Stamp} (hs : s₀.Keeps s) : s₀.Keeps (s.sdEdge b k rising x) :=
  .ite (.each (.armIdle <| .portShow <| .onPort <| .each hs fun h => .when (.when h .channelRecovers) .setChan) .dresserBit)
      (.armIdle <| .portShow <| .onPort <| .each hs fun h => .when (.when h .channelRecovers) .setChan)

theorem sdLost {b k : Nat} (hs : s₀.Keeps s) : s₀.Keeps (s.sdLost b k) := by
  unfold State.sdLost
  exact .each (.leaf <| .portShow <| .onPort hs) .channelLost

theorem triggerEdge {b k : Nat} {x : Stamp} (hs : s₀.Keeps s) : s₀.Keeps (s.triggerEdge b k x) := by
  unfold State.triggerEdge
  exact .ite (.portRecord <| .onPort hs) (.onPort hs)

theorem i2cBegin {b k : Nat} (hs : s₀.Keeps s) : s₀.Keeps (s.i2cBegin b k) := .ite hs (.armIdle <| .frameBegin hs)

theorem i2cEnd {b k status : Nat} {x : Stamp} {steps : List I2cStep} {read : List Byte} (hs : s₀.Keeps s) :
    s₀.Keeps (s.i2cEnd b k status x steps read) := by
  unfold State.i2cEnd
  exact .i2cBegin <| .frameOut <| .portRecord <| .emit hs

theorem i2cGiveUp {b k : Nat} (hs : s₀.Keeps s) : s₀.Keeps (s.i2cGiveUp b k) := .i2cEnd <| .onPort hs

theorem portEdge {b k role : Nat} {level : Bool} (hs : s₀.Keeps s) : s₀.Keeps (s.portEdge b k role level) := by
  unfold State.portEdge
  split
  · split
    · split
      · dsimp only
        split
        · exact .uartEdge hs
        · exact .spiTargetEdge hs
        · exact .hdlcBit hs
        · exact .irigEdge hs
        · exact .ppsEdge hs
        · exact .binaryEdge hs
        · exact .ite (.readbackEdge hs) hs
        · exact .ite (.sdEdge hs) hs
        · exact hs
      · dsimp only
        split
        · exact .uartEdge hs
        · exact .spiTargetEdge hs
        · exact hs
        · exact .irigEdge hs
        · exact .ppsEdge hs
        · exact .binaryEdge hs
        · exact .ite (.readbackEdge hs) hs
        · exact .ite (.sdEdge hs) hs
        · exact hs
    · split
      · dsimp only
        split
        · exact hs
        · exact .spiTargetEdge hs
        · exact .hdlcBit hs
        · exact .irigEdge hs
        · exact .ppsEdge hs
        · exact .binaryEdge hs
        · exact .ite (.readbackEdge hs) hs
        · exact .ite (.sdEdge hs) hs
        · exact hs
      · dsimp only
        split
        · exact hs
        · exact .spiTargetEdge hs
        · exact hs
        · exact .irigEdge hs
        · exact .ppsEdge hs
        · exact .binaryEdge hs
        · exact .ite (.readbackEdge hs) hs
        · exact .ite (.sdEdge hs) hs
        · exact hs
  · split
    · split
      · dsimp only
        split
        · exact .uartEdge <| .onPort hs
        · exact .spiTargetEdge <| .onPort hs
        · exact .hdlcBit <| .onPort hs
        · exact .irigEdge <| .onPort hs
        · exact .ppsEdge <| .onPort hs
        · exact .binaryEdge <| .onPort hs
        · exact .ite (.readbackEdge <| .onPort hs) (.onPort hs)
        · exact .ite (.sdEdge <| .onPort hs) (.onPort hs)
        · exact .onPort hs
      · dsimp only
        split
        · exact .uartEdge <| .onPort hs
        · exact .spiTargetEdge <| .onPort hs
        · exact .onPort hs
        · exact .irigEdge <| .onPort hs
        · exact .ppsEdge <| .onPort hs
        · exact .binaryEdge <| .onPort hs
        · exact .ite (.readbackEdge <| .onPort hs) (.onPort hs)
        · exact .ite (.sdEdge <| .onPort hs) (.onPort hs)
        · exact .onPort hs
    · split
      · dsimp only
        split
        · exact .onPort hs
        · exact .spiTargetEdge <| .onPort hs
        · exact .hdlcBit <| .onPort hs
        · exact .irigEdge <| .onPort hs
        · exact .ppsEdge <| .onPort hs
        · exact .binaryEdge <| .onPort hs
        · exact .ite (.readbackEdge <| .onPort hs) (.onPort hs)
        · exact .ite (.sdEdge <| .onPort hs) (.onPort hs)
        · exact .onPort hs
      · dsimp only
        split
        · exact .onPort hs
        · exact .spiTargetEdge <| .onPort hs
        · exact .onPort hs
        · exact .irigEdge <| .onPort hs
        · exact .ppsEdge <| .onPort hs
        · exact .binaryEdge <| .onPort hs
        · exact .ite (.readbackEdge <| .onPort hs) (.onPort hs)
        · exact .ite (.sdEdge <| .onPort hs) (.onPort hs)
        · exact .onPort hs

theorem ballChange {b p : Nat} {level : Option Bool} (hs : s₀.Keeps s) : s₀.Keeps (s.ballChange b p level) := by
  unfold State.ballChange
  split
  · exact .ite (.ballLevel <| .setPin hs) (.settleBall <| .sample <| .setPin hs)
  · exact .settleBall <| .sample <| .setPin hs

theorem ballOnly {b p : Nat} {level : Option Bool} (hs : s₀.Keeps s) : s₀.Keeps (s.ballOnly b p level) := by
  unfold State.ballOnly
  split
  · dsimp only
    split
    · exact .setPin <| .setPin hs
    · exact .setPin hs
  · exact hs

theorem settIdle {b k : Nat} (hs : s₀.Keeps s) : s₀.Keeps (s.settIdle b k) := by
  unfold State.settIdle
  split
  · dsimp only
    split
    · exact .ite (.onSett <| .onSett hs) (.onSett hs)
    · exact .onSett hs
  · exact hs

theorem portIdle {b k : Nat} (hs : s₀.Keeps s) : s₀.Keeps (s.portIdle b k) := by
  unfold State.portIdle
  split
  · exact .ite (.truncateFrame <| .uartSamples hs) (.uartSamples hs)
  · exact .ite (.truncateFrame <| .spiSent hs) hs
  · exact .ite (.i2cGiveUp hs) hs
  · exact .ite (.onPort <| .truncateFrame hs) hs
  · exact .ite (.irigTruncate hs) hs
  · exact .ite (.sdLost hs) hs
  · exact hs

theorem commandRefused {b k code : Nat} (hs : s₀.Keeps s) : s₀.Keeps (s.commandRefused b k code) := .portRecord hs

theorem portCommand {b k : Nat} {cell : List Byte} (hs : s₀.Keeps s) : s₀.Keeps (s.portCommand b k cell) := by
  unfold State.portCommand
  exact .ite (.commandRefused hs) (.ite (.commandRefused hs) (.ite (.i2cBegin <| .onPort hs) (.onPort hs)))

theorem takeCommandOf {b k code : Nat} (hs : s₀.Keeps s) : s₀.Keeps (s.takeCommandOf b k code).2 := by
  unfold State.takeCommandOf
  split
  · split
    · exact .onPort hs
    · exact hs
  · exact hs

theorem waveEdge {b k : Nat} {lead : Bool} {i : Int} {t : Nat} (hs : s₀.Keeps s) : s₀.Keeps (s.waveEdge b k lead i t) := by
  unfold State.waveEdge
  dsimp only
  split
  · exact .when (.onPort <| .driveEdge hs) .triggerEdge
  · exact .sdEdge <| .onPort <| .driveEdge hs
  · exact .onPort <| .driveEdge hs

theorem applyWaves {b t : Nat} (hs : s₀.Keeps s) : s₀.Keeps (s.applyWaves b t) := by
  unfold State.applyWaves
  exact .each hs fun h => by
    split
    · exact .waveEdge h
    · exact h

theorem applyPending {b t : Nat} (hs : s₀.Keeps s) : s₀.Keeps (s.applyPending b t) := by
  unfold State.applyPending
  split
  · split
    · exact hs
    · dsimp only
      split
      · exact .stopContended <| .supervisedDrive <| .applyEdges hs
      · exact .stopContended <| .applyEdges hs
  · exact hs

theorem waveStart {b k : Nat} (hs : s₀.Keeps s) : s₀.Keeps (s.waveStart b k) := .ite (.driveEnable <| .driveLevel <| .onPort hs) hs

theorem startInstance {b k : Nat} (hs : s₀.Keeps s) : s₀.Keeps (s.startInstance b k) := by
  unfold State.startInstance
  exact .ite (.when (.onPort <| .wr <| .setPort hs) .binaryRecord) (.waveStart <| .wr <| .setPort hs)

theorem startInstances {b : Nat} (hs : s₀.Keeps s) : s₀.Keeps (s.startInstances b) := by
  unfold State.startInstances
  exact .burstAsk <| .each (.each (.wr hs) .wr) .startInstance

theorem stopInstances {b : Nat} (hs : s₀.Keeps s) : s₀.Keeps (s.stopInstances b) := .each hs fun h => .portShow <| .setPort h

end State.Keeps

namespace State.Leads

theorem pinEdge (s : State) {b pin : Nat} {level : Option Bool} : s.Leads (execPinEdge b pin level s) := by
  unfold execPinEdge
  exact .ite (.next <| .ballOnly .cleared) (.ite (.ite (.next <| .ballChange .cleared)
      (.next <| .each (.ballChange .cleared) fun h => by
    split
    · exact .portEdge h
    · exact h)) (.next .cleared))

theorem idleTimeoutExpiry (s : State) {b k : Nat} : s.Leads (execIdleTimeoutExpiry b k s) := by
  unfold execIdleTimeoutExpiry
  exact .unlessDown <| .ite (.next <| .each (.settIdle .cleared) fun h => .ite (.portIdle h) h) (.next .cleared)

theorem personalityCommand (s : State) {b k c : Nat} : s.Leads (execPersonalityCommand b k c s) := by
  unfold execPersonalityCommand
  refine .unlessDown ?_
  dsimp only
  split
  · split
    · next hq2 => exact .next <| .portCommand <| .of_eq hq2 (.dequeue .cleared)
    · next hq2 => exact .next <| .of_eq hq2 (.dequeue .cleared)
  · exact .next .cleared

theorem commandTimeDue (s : State) {b k : Nat} : s.Leads (execCommandTimeDue b k s) := by
  unfold execCommandTimeDue
  exact .unlessDown <| .next <| .i2cBegin <| .setPort .cleared

theorem uartTransmit (s : State) {b k : Nat} : s.Leads (execUartTransmit b k s) := by
  unfold execUartTransmit
  refine .unlessDown ?_
  split
  · next hq1 => exact .next <| .when (.emit <| .when (.onPort <| .of_eq hq1 (.takeCommandOf .cleared)) .emit) .emit
  · next hq1 => exact .next <| .of_eq hq1 (.takeCommandOf .cleared)

theorem uartGapEnd (s : State) {b k : Nat} : s.Leads (execUartGapEnd b k s) := by
  unfold execUartGapEnd
  exact .unlessDown <| .next <| .ite (.uartGap .cleared) .cleared

theorem spiControllerTransaction (s : State) {b k : Nat} {miso : List Nat} : s.Leads (execSpiControllerTransaction b k miso s) := by
  unfold execSpiControllerTransaction
  refine .unlessDown ?_
  split
  · next hq1 => exact .next <| .portRecord <| .emits <| .of_eq hq1 (.takeCommandOf .cleared)
  · next hq1 => exact .next <| .of_eq hq1 (.takeCommandOf .cleared)

theorem spiTargetFrame (s : State) {b k : Nat} : s.Leads (execSpiTargetFrame b k s) := by
  unfold execSpiTargetFrame
  exact .unlessDown <| .next <| .ite (.spiTargetClose .cleared) .cleared

theorem i2cTransaction (s : State) {b k : Nat} {r : I2cResult} : s.Leads (execI2cTransaction b k r s) := by
  unfold execI2cTransaction
  refine .unlessDown ?_
  split
  · next hq1 => exact .ite (.next <| .i2cEnd <| .of_eq hq1 (.takeCommandOf .cleared)) (.next .cleared)
  · next hq1 => exact .next <| .of_eq hq1 (.takeCommandOf .cleared)

theorem hdlcTransmit (s : State) {b k : Nat} : s.Leads (execHdlcTransmit b k s) := by
  unfold execHdlcTransmit
  refine .unlessDown ?_
  dsimp only
  split
  · split
    · exact .next <| .emit <| .onPort .cleared
    · exact .next .cleared
  · exact .next .cleared

theorem ppsWindowEnd (s : State) {b k : Nat} : s.Leads (execPpsWindowEnd b k s) := by
  unfold execPpsWindowEnd
  exact .unlessDown <| .next <| .ite (.ppsWindow .cleared) .cleared

theorem debounceExpiry (s : State) {b k : Nat} : s.Leads (execDebounceExpiry b k s) := by
  unfold execDebounceExpiry
  exact .unlessDown <| .next <| .ite (.binaryDebounced .cleared) .cleared

theorem chatterQuietExpiry (s : State) {b k : Nat} : s.Leads (execChatterQuietExpiry b k s) := by
  unfold execChatterQuietExpiry
  exact .unlessDown <| .next <| .ite (.binaryQuiet .cleared) .cleared

theorem supervisedOutputCommand (s : State) {b k : Nat} : s.Leads (execSupervisedOutputCommand b k s) := by
  unfold execSupervisedOutputCommand
  refine .unlessDown ?_
  split
  · next hq₂ =>
      exact .ite (.next <| .commandRefused <| .of_eq hq₂ (.takeCommandOf .cleared))
        (.next <| .when (.supervisedDrive <| .driveEnable <| .driveLevel <| .when (.of_eq hq₂ (.takeCommandOf .cleared)) fun h =>
        .portShow <| .onPort h) .armEdge)
  · next hq₂ => exact .next <| .of_eq hq₂ (.takeCommandOf .cleared)

theorem scheduledEdgeDue (s : State) {b k : Nat} : s.Leads (execScheduledEdgeDue b k s) :=
  .unlessDown <| .next <| .applyWaves <| .applyPending .cleared

theorem supervisionWindowExpiry (s : State) {b k : Nat} : s.Leads (execSupervisionWindowExpiry b k s) := by
  unfold execSupervisionWindowExpiry
  exact .unlessDown <| .next <| .ite (.superviseExpired .cleared) .cleared

end State.Leads

end Sys2Proof.Machine

end

section

/-! Benches (Machine/Bench). -/

namespace Sys2Proof.Machine

namespace State.Keeps

variable {s₀ s : State}

theorem startSett {b k : Nat} (hs : s₀.Keeps s) : s₀.Keeps (s.startSett b k) := by
  unfold State.startSett
  dsimp only
  split
  · exact .setSett hs
  · exact .setSett hs
  · exact hs

theorem stopCommand {b k : Nat} (hs : s₀.Keeps s) : s₀.Keeps (s.stopCommand b k) := by
  unfold State.stopCommand
  split
  · exact .stopSett hs
  · exact .stopSett hs
  · exact hs

theorem resetSett {b k : Nat} (hs : s₀.Keeps s) : s₀.Keeps (s.resetSett b k) := .safeOwned <| .settLines <| .setSett hs

theorem settCommand {b k bits : Nat} (hs : s₀.Keeps s) : s₀.Keeps (s.settCommand b k bits) :=
  .ite (.ite hs (.resetSett hs)) (.ite (.stopCommand hs) (.ite (.startSett hs) hs))

theorem groupApply {b op : Nat} (hs : s₀.Keeps s) : s₀.Keeps (s.groupApply b op) := .each hs .settCommand

theorem groupWrite {b val : Nat} (hs : s₀.Keeps s) : s₀.Keeps (s.groupWrite b val) := .ite hs (.ite (.setBench hs) (.groupApply hs))

theorem injectWrite {b k val : Nat} (hs : s₀.Keeps s) : s₀.Keeps (s.injectWrite b k val) := .ite (.inc hs) (.setSett hs)

theorem mboxAppend {b k val : Nat} {u : State} (hs : s₀.Keeps s) (hu : s.mboxAppend b k val = some u) : s₀.Keeps u := by
  unfold State.mboxAppend at hu
  dsimp only at hu
  split at hu
  · cases hu
    exact hs.setSett
  · cases hu

theorem mboxTake {b k v : Nat} {u : State} (hs : s₀.Keeps s) (hu : s.mboxTake b k = some (v, u)) : s₀.Keeps u := by
  unfold State.mboxTake at hu
  dsimp only at hu
  split at hu
  · cases hu
    exact hs.setSett
  · cases hu

theorem raiseLine {b line : Nat} {level : Bool} (hs : s₀.Keeps s) : s₀.Keeps (s.raiseLine b line level) :=
  .meetLines <| .ite (.each (.setBench hs) .onSett) (.setBench hs)

theorem safeBench {b : Nat} (hs : s₀.Keeps s) : s₀.Keeps (s.safeBench b) := .each hs .safePin

theorem serviceStop {b k : Nat} (hs : s₀.Keeps s) : s₀.Keeps (s.serviceStop b k) := .settLines <| .onSett hs

theorem benchOut {b : Nat} (hs : s₀.Keeps s) : s₀.Keeps (s.benchOut b) := by
  unfold State.benchOut
  exact .ite hs (.setB <| .setB <| .burstGive <| .safeBench <| .setB <| .leaf <| .stopInstances <| .cmpEndAll <|
      .each hs .serviceStop)

theorem firmwareFault {b code : Nat} (hs : s₀.Keeps s) : s₀.Keeps (s.firmwareFault b code) := .benchOut <| .leaf <| .set hs

theorem pinsRestart {b : Nat} {keep : Bool} (hs : s₀.Keeps s) : s₀.Keeps (s.pinsRestart b keep) := .frame <| .emits hs

theorem benchRestart {b : Nat} {keep : Bool} (hs : s₀.Keeps s) : s₀.Keeps (s.benchRestart b keep) := by
  unfold State.benchRestart
  exact .filterFrame <| .permitGive <| .burstGive <| .cmpEndAll <|
    .each (.ite (.pinsRestart <| .safeBench hs) (.pinsRestart hs)) .settLines

theorem benchResetBegin {b : Nat} (hs : s₀.Keeps s) : s₀.Keeps (s.benchResetBegin b) := by
  unfold State.benchResetBegin
  exact .permitAsk <| .setB <| .setB <| .setB <| .setBench <| .benchRestart <| .when hs fun h => .permitGive <| .set h

theorem benchRelease {b : Nat} (hs : s₀.Keeps s) : s₀.Keeps (s.benchRelease b) := by
  unfold State.benchRelease
  exact .when (.setB <| .drawn <| .set <| .set <| .drawn <| .each hs .onSett) .leaf

end State.Keeps

namespace State.Leads

theorem groupCmdAtRound (s : State) {b : Nat} : s.Leads (execGroupCmdAtRound b s) := by
  unfold execGroupCmdAtRound
  refine .unlessDown ?_
  dsimp only
  split
  · exact .next <| .groupApply <| .setBench .cleared
  · exact .next .cleared

theorem controllerIrqRaise (s : State) {b line : Nat} {level : Bool} : s.Leads (execControllerIrqRaise b line level s) := by
  unfold execControllerIrqRaise
  exact .unlessDown <| .next <| .ite (.raiseLine .cleared) .cleared

theorem benchFreezeTimeout (s : State) {b : Nat} : s.Leads (execBenchFreezeTimeout b s) := by
  unfold execBenchFreezeTimeout
  exact .unlessDown <| .ite (.next <| .raiseFault <| .leaf .cleared) (.next .cleared)

end State.Leads

end Sys2Proof.Machine

end

section

/-! The fabric bridge (Machine/Bridge). -/

namespace Sys2Proof.Machine

namespace State.Keeps

variable {s₀ s : State}

theorem addressLeaf {n : Option Nat} {addr : Nat} (hs : s₀.Keeps s) : s₀.Keeps (s.addressLeaf n addr) := by
  unfold State.addressLeaf
  split
  · exact .leaf hs
  · exact hs

theorem accessRecord {reason hub : Nat} {remote : Bool} {face addr : Nat} (hs : s₀.Keeps s) :
    s₀.Keeps (s.accessRecord reason hub remote face addr) :=
  .ite (.addressLeaf <| .ite (.inc hs) (.wr <| .wr hs)) (.leaf <| .ite (.inc hs) (.wr <| .wr hs))

theorem streamRestart {h : Nat} (hs : s₀.Keeps s) : s₀.Keeps (s.streamRestart h) := .frame <| .set hs

theorem streamCheck {src : Nat} {first : Bool} {seq face : Nat} (hs : s₀.Keeps s) :
    s₀.Keeps (s.streamCheck src first seq face).2 := by
  unfold State.streamCheck
  dsimp only
  split
  · exact .set <| .setB hs
  · split
    · exact .set <| .setB <| .accessRecord <| .leaf <| .add hs
    · exact .inc hs

theorem malformedCell (hs : s₀.Keeps s) : s₀.Keeps s.malformedCell := .leaf <| .inc hs

theorem setTag {t : Nat} {x : BridgeTag} (hs : s₀.Keeps s) : s₀.Keeps (s.setTag t x) := .frame hs

theorem pollFailed {k : Nat} (hs : s₀.Keeps s) : s₀.Keeps (s.pollFailed k) := .leaf <| .inc <| .setB <| .setB hs

theorem readFails {o : ReadOrigin} {hub addr n : Nat} (hs : s₀.Keeps s) : s₀.Keeps (s.readFails o hub addr n) := by
  unfold State.readFails
  split
  · exact .foldl hs .emit
  · exact .pollFailed hs

theorem offerOne {o : BridgeOffer} (hs : s₀.Keeps s) : s₀.Keeps (s.offerOne o).2 := by
  unfold State.offerOne
  split
  · next hq₁ => exact .when (.frame <| .set <| .of_eq hq₁ (.enqueue hs)) .setTag
  · next hq₁ => exact .of_eq hq₁ (.enqueue hs)
  · next hq₁ =>
      split
      · exact .accessRecord <| .of_eq hq₁ (.enqueue hs)
      · exact .readFails <| .setTag <| .of_eq hq₁ (.enqueue hs)

theorem offerList {kept os : List BridgeOffer} {stuck : Bool} (hs : s₀.Keeps s) : s₀.Keeps (s.offerList kept stuck os).2 := by
  induction os generalizing s kept stuck with
  | nil => exact hs
  | cons o rest ih =>
    unfold State.offerList
    split
    · exact ih hs
    · dsimp only
      split
      · exact ih <| .offerOne hs
      · exact ih <| .offerOne hs

theorem acceptAccess {x : BridgeOffer} (hs : s₀.Keeps s) : s₀.Keeps (s.acceptAccess x) := by
  unfold State.acceptAccess
  dsimp only
  split <;> exact .when (.frame hs) .setTag

theorem admitList {kept os : List BridgeOffer} (hs : s₀.Keeps s) : s₀.Keeps (s.admitList kept os) := by
  induction os generalizing s kept with
  | nil => exact hs.frame
  | cons o rest ih => exact .ite (ih hs) (ih hs.acceptAccess)

theorem admitWaiting (hs : s₀.Keeps s) : s₀.Keeps s.admitWaiting := .admitList hs

theorem bridgeTurn {writes : Bool} (hs : s₀.Keeps s) : s₀.Keeps (s.bridgeTurn writes) := by
  unfold State.bridgeTurn
  exact .admitWaiting <| .frame <| .offerList hs

theorem freeTagOf {t : Nat} (hs : s₀.Keeps s) : s₀.Keeps (s.freeTagOf t) := .bridgeTurn <| .admitWaiting <| .setTag hs

theorem issueAccess {x : BridgeOffer} (hs : s₀.Keeps s) : s₀.Keeps (s.issueAccess x) := .admitWaiting <| .frame hs

theorem issueWrite {p : Sys2Proof.Path} {w : Width} {hub addr val : Nat} (hs : s₀.Keeps s) :
    s₀.Keeps (s.issueWrite p w hub addr val) :=
  .ite (.accessRecord hs) (.ite (.accessRecord <| .addressLeaf hs) (.issueAccess hs))

theorem issueRead {o : ReadOrigin} {face hub addr n lanes : Nat} (hs : s₀.Keeps s) :
    s₀.Keeps (s.issueRead o face hub addr n lanes) :=
  .ite (.readFails hs) (.issueAccess hs)

theorem issuePathRead {p : Sys2Proof.Path} {w : Width} {hub addr : Nat} (hs : s₀.Keeps s) :
    s₀.Keeps (s.issuePathRead p w hub addr) :=
  .ite (.emit hs) (.ite (.emit <| .addressLeaf hs) (.ite (.emit hs) (.issueRead hs)))

theorem pollIssue {k hub : Nat} (hs : s₀.Keeps s) : s₀.Keeps (s.pollIssue k hub) := by
  unfold State.pollIssue
  exact .bridgeTurn <| .issueRead <| .setB hs

theorem pollAnswered {k v : Nat} (hs : s₀.Keeps s) : s₀.Keeps (s.pollAnswered k v) := .setB <| .setB <| .wr hs

theorem readAnswered {x : BridgeTag} {c : List Byte} (hs : s₀.Keeps s) : s₀.Keeps (s.readAnswered x c) := by
  unfold State.readAnswered
  dsimp only
  split
  · exact .ite (.pollAnswered hs) (.pollFailed hs)
  · exact .foldl hs fun h => .ite (.emit h) (.emit h)

theorem responseArrives {src : Nat} {c : List Byte} (hs : s₀.Keeps s) : s₀.Keeps (s.responseArrives src c) := by
  unfold State.responseArrives
  exact .ite (.freeTagOf <| .readAnswered hs) (.inc hs)

theorem readExpires {t : Nat} (hs : s₀.Keeps s) : s₀.Keeps (s.readExpires t) := by
  unfold State.readExpires
  exact .ite (.freeTagOf <| .readFails <| .leaf <| .inc <| .frame hs) hs

theorem waitExpires {i : Nat} (hs : s₀.Keeps s) : s₀.Keeps (s.waitExpires i) := by
  unfold State.waitExpires
  split
  · exact .bridgeTurn <| .admitWaiting <| .readFails <| .leaf <| .inc <| .frame hs
  · exact hs

theorem postedExpires {i : Nat} (hs : s₀.Keeps s) : s₀.Keeps (s.postedExpires i) := by
  unfold State.postedExpires
  split
  · exact .bridgeTurn <| .admitWaiting <| .accessRecord <| .frame hs
  · exact hs

end State.Keeps

namespace State.Leads

theorem postedWriteOffer (s : State) : s.Leads (execPostedWriteOffer s) := .unlessDown <| .next <| .bridgeTurn .cleared

theorem postedWriteTimeout (s : State) {i : Nat} : s.Leads (execPostedWriteTimeout i s) :=
  .unlessDown <| .next <| .postedExpires .cleared

theorem readTimeout (s : State) {tag : Nat} : s.Leads (execReadTimeout tag s) :=
  .unlessDown <| .next <| .ite (.readExpires .cleared) (.ite .cleared (.waitExpires .cleared))

end State.Leads

end Sys2Proof.Machine

end

section

/-! CAN channels (Machine/Can). -/

namespace Sys2Proof.Machine

namespace State.Keeps

variable {s₀ s : State}

theorem setCan {n : Nat} {x : CanChannel} (hs : s₀.Keeps s) : s₀.Keeps (s.setCan n x) := .frame hs

theorem onCan {n : Nat} {f : CanChannel → CanChannel} (hs : s₀.Keeps s) : s₀.Keeps (s.onCan n f) := .setCan hs

theorem canRecord {n type : Nat} {x : Stamp} {payload : List Byte} (hs : s₀.Keeps s) : s₀.Keeps (s.canRecord n type x payload) := by
  unfold State.canRecord
  dsimp only
  split
  · next hq => exact .onCan <| .of_eq hq (.enqueue <| .onCan hs)
  · next hq => exact .onCan <| .leaf <| .inc <| .of_eq hq (.enqueue <| .onCan hs)

theorem canResult {n code : Nat} {x : Stamp} {idWord : Nat} (hs : s₀.Keeps s) : s₀.Keeps (s.canResult n code x idWord) :=
  .when hs .canRecord

theorem canDiscardAll {n code : Nat} (hs : s₀.Keeps s) : s₀.Keeps (s.canDiscardAll n code) := by
  unfold State.canDiscardAll
  exact .each (.onCan hs) .canResult

theorem toCanState {n st : Nat} (hs : s₀.Keeps s) : s₀.Keeps (s.toCanState n st) := by
  unfold State.toCanState
  exact .ite hs (.when (.set hs) .canRecord)

theorem canShowErrors {n : Nat} (hs : s₀.Keeps s) : s₀.Keeps (s.canShowErrors n) := .ite (.toCanState hs) hs

theorem canCounters {n tec rec : Nat} (hs : s₀.Keeps s) : s₀.Keeps (s.canCounters n tec rec) := by
  unfold State.canCounters
  exact .canShowErrors <| .when (.onCan <| .set <| .set hs) .leaf

theorem canTryLastCall {n : Nat} (hs : s₀.Keeps s) : s₀.Keeps (s.canTryLastCall n) := by
  unfold State.canTryLastCall
  exact .ite (.onCan <| .toCanState hs) hs

theorem canReturnAwake {n : Nat} (hs : s₀.Keeps s) : s₀.Keeps (s.canReturnAwake n) := .ite (.onCan <| .toCanState hs) hs

theorem canTrySleep {n : Nat} (hs : s₀.Keeps s) : s₀.Keeps (s.canTrySleep n) := by
  unfold State.canTrySleep
  exact .ite (.ite (.onCan <| .canReturnAwake hs) (.onCan <| .set <| .toCanState hs)) hs

theorem canWake {n cause : Nat} (hs : s₀.Keeps s) : s₀.Keeps (s.canWake n cause) := by
  unfold State.canWake
  exact .ite (.ite (.toCanState hs) (.onCan <| .toCanState <| .leaf <| .inc <| .set hs)) (.when hs .onCan)

theorem canWantAwake {n : Nat} (hs : s₀.Keeps s) : s₀.Keeps (s.canWantAwake n) :=
  .ite (.canReturnAwake <| .canWake hs) (.canTryLastCall hs)

theorem canSleepNow {n : Nat} (hs : s₀.Keeps s) : s₀.Keeps (s.canSleepNow n) := .ite hs (.canTrySleep <| .onCan hs)

theorem canDeliver {n : Nat} {f : CanFrame} {x : Stamp} (hs : s₀.Keeps s) : s₀.Keeps (s.canDeliver n f x) := by
  unfold State.canDeliver
  split
  · exact .canRecord hs
  · exact .inc hs

theorem canMaster {n : Nat} {on : Bool} (hs : s₀.Keeps s) : s₀.Keeps (s.canMaster n on) := .ite hs (.onCan <| .leaf <| .setB hs)

theorem canReceivedOk {n : Nat} (hs : s₀.Keeps s) : s₀.Keeps (s.canReceivedOk n) := by
  unfold State.canReceivedOk
  exact .ite (.canCounters <| .drawn hs) (.canCounters hs)

theorem canStop {n : Nat} (hs : s₀.Keeps s) : s₀.Keeps (s.canStop n) := by
  unfold State.canStop
  exact .recovered <| .onCan <| .toCanState <| .canMaster <| .canDiscardAll hs

theorem canFrameEnd {n : Nat} (hs : s₀.Keeps s) : s₀.Keeps (s.canFrameEnd n) := .ite (.canStop hs) hs

theorem canTakeCommand {n : Nat} {cell : List Byte} (hs : s₀.Keeps s) : s₀.Keeps (s.canTakeCommand n cell) := by
  unfold State.canTakeCommand
  dsimp only
  split
  · exact .canResult <| .canReturnAwake hs
  · exact .ite (.canResult <| .canReturnAwake hs) (.ite (.canResult <| .canReturnAwake hs) (.onCan <| .canReturnAwake hs))

theorem canSent {n ago : Nat} {o : CanOffer} (hs : s₀.Keeps s) : s₀.Keeps (s.canSent n ago o) := by
  unfold State.canSent
  dsimp only
  split
  · exact .onCan <| .canCounters <| .emit hs
  · exact .onCan <| .canCounters <| .emit hs
  · exact .canTryLastCall <| .canResult <| .onCan <| .canCounters <| .emit hs

theorem canFailed {n : Nat} {o : CanOffer} (hs : s₀.Keeps s) : s₀.Keeps (s.canFailed n o) := by
  unfold State.canFailed
  split
  · exact .onCan hs
  · exact hs
  · exact .ite (.canTryLastCall <| .canResult <| .onCan hs) hs

theorem canRecoverBegin {n : Nat} (hs : s₀.Keeps s) : s₀.Keeps (s.canRecoverBegin n) := by
  unfold State.canRecoverBegin
  exact .when (.toCanState hs) .setB

theorem canBusOff {n : Nat} (hs : s₀.Keeps s) : s₀.Keeps (s.canBusOff n) := by
  unfold State.canBusOff
  exact .ite (.canDiscardAll <| .onCan <| .leaf <| .inc <| .toCanState hs)
      (.canRecoverBegin <| .onCan <| .leaf <| .inc <| .toCanState hs)

theorem canRecover {n : Nat} (hs : s₀.Keeps s) : s₀.Keeps (s.canRecover n) := .ite (.canRecoverBegin hs) hs

theorem canEnable {n : Nat} (hs : s₀.Keeps s) : s₀.Keeps (s.canEnable n) :=
  .ite (.toCanState <| .set <| .set hs) (.canWake <| .when hs .onCan)

theorem canDisable {n : Nat} (hs : s₀.Keeps s) : s₀.Keeps (s.canDisable n) := .ite hs (.ite (.onCan hs) (.canStop hs))

theorem referenceFrame {n : Nat} (hs : s₀.Keeps s) : s₀.Keeps (s.referenceFrame n).2 := by
  unfold State.referenceFrame
  split
  · next hq =>
      split
      · dsimp only
        split
        · exact hs
        · next hq2 _ _ => exact .of_eq hq2 (.drawn <| .of_eq hq (.drawn hs))

theorem wakeError {n : Nat} (hs : s₀.Keeps s) : s₀.Keeps (s.wakeError n) := by
  unfold State.wakeError
  exact .when (.set hs) .canWake

end State.Keeps

namespace State.Leads

theorem canFrameReceived (s : State) {n ago : Nat} {f : CanFrame} : s.Leads (execCanFrameReceived n ago f s) := by
  unfold execCanFrameReceived
  exact .unlessDown <| .ite (.next <| .canFrameEnd <| .when (.when (.canDeliver <| .canReceivedOk <| .onCan .cleared) fun h =>
      .canReturnAwake <| .onCan h) .canMaster) (.next .cleared)

theorem canTransmitCommand (s : State) {n c : Nat} : s.Leads (execCanTransmitCommand n c s) := by
  unfold execCanTransmitCommand
  refine .unlessDown ?_
  dsimp only
  split
  · split
    · next hq2 => exact .next <| .canTakeCommand <| .of_eq hq2 (.dequeue .cleared)
    · next hq2 => exact .next <| .of_eq hq2 (.dequeue .cleared)
  · exact .next .cleared

theorem canCommandDue (s : State) {n i : Nat} : s.Leads (execCanCommandDue n i s) := by
  unfold execCanCommandDue
  refine .unlessDown ?_
  dsimp only
  split
  · exact .ite (.next <| .onCan .cleared) (.next .cleared)
  · exact .next .cleared

theorem canTransmitEnd (s : State) {n ago : Nat} {r : CanTxEnd} : s.Leads (execCanTransmitEnd n ago r s) := by
  unfold execCanTransmitEnd
  refine .unlessDown ?_
  dsimp only
  split
  · split
    · exact .next <| .canFrameEnd <| .ite (.canSent <| .onCan .cleared) (.canFailed <| .onCan .cleared)
    · exact .next .cleared
  · exact .next .cleared

theorem canBusError (s : State) {n tec rec : Nat} : s.Leads (execCanBusError n tec rec s) := by
  unfold execCanBusError
  exact .unlessDown <| .ite (.next <| .canFrameEnd <| .ite (.canBusOff <| .canCounters <| .onCan .cleared)
      (.canCounters <| .onCan .cleared)) (.next .cleared)

theorem busOffRecoveryEnd (s : State) {n : Nat} : s.Leads (execBusOffRecoveryEnd n s) := by
  unfold execBusOffRecoveryEnd
  exact .unlessDown <| .ite (.next <| .recovered <| .toCanState <| .canCounters .cleared) (.next .cleared)

theorem busIdleDetected (s : State) {n : Nat} : s.Leads (execBusIdleDetected n s) := by
  unfold execBusIdleDetected
  exact .unlessDown <| .unlessDown <| .ite (.next <| .canStop .cleared)
      (.next <| .canTrySleep <| .canTryLastCall <| .ite (.toCanState <| .onCan .cleared) (.onCan .cleared))

theorem canReferenceFrameSend (s : State) {n : Nat} : s.Leads (execCanReferenceFrameSend n s) := by
  unfold execCanReferenceFrameSend
  exact .unlessDown <| .ite (.next <| .onCan <| .referenceFrame .cleared) (.next .cleared)

theorem canRefMasterTimeout (s : State) {n : Nat} : s.Leads (execCanRefMasterTimeout n s) := by
  unfold execCanRefMasterTimeout
  exact .unlessDown <| .next <| .when .cleared .canMaster

theorem keepAliveSend (s : State) {n : Nat} : s.Leads (execKeepAliveSend n s) := by
  unfold execKeepAliveSend
  exact .unlessDown <| .ite (.next <| .onCan .cleared) (.next .cleared)

theorem lastCallTimeout (s : State) {n : Nat} : s.Leads (execLastCallTimeout n s) := by
  unfold execLastCallTimeout
  exact .unlessDown <| .next <| .when .cleared fun h => .canTryLastCall <| .onCan h

theorem sleepEntry (s : State) {n : Nat} : s.Leads (execSleepEntry n s) := by
  unfold execSleepEntry
  exact .unlessDown <| .next <| .canTrySleep <| .when .cleared .onCan

theorem wakeDominant (s : State) {n tenths : Nat} : s.Leads (execWakeDominant n tenths s) := by
  unfold execWakeDominant
  exact .unlessDown <| .next <| .when .cleared .canWake

theorem wakeFrame (s : State) {n ago : Nat} {x : CanSeen} : s.Leads (execWakeFrame n ago x s) := by
  unfold execWakeFrame
  refine .unlessDown ?_
  dsimp only
  split
  · split
    · exact .next <| .wakeError .cleared
    · exact .ite (.next <| .ite .cleared (.wakeError .cleared))
        (.next <| .ite (.canDeliver <| .canWake <| .set .cleared) (.set .cleared))
  · exact .next .cleared

theorem localWake (s : State) {n : Nat} : s.Leads (execLocalWake n s) :=
  .unlessDown <| .next <| .canReturnAwake <| .canWake .cleared

end State.Leads

end Sys2Proof.Machine

end

section

/-! Host faces (Machine/Face). -/

namespace Sys2Proof.Machine

namespace State.Keeps

variable {s₀ s : State}

theorem flushQueue {q : Nat} (hs : s₀.Keeps s) : s₀.Keeps (s.flushQueue q) := .add <| .frame <| .setQueue hs

theorem faceWindows {f : Nat} (hs : s₀.Keeps s) : s₀.Keeps (s.faceWindows f) := .each hs fun h => .leaf <| .set h

theorem faceResetBegin {f : Nat} (hs : s₀.Keeps s) : s₀.Keeps (s.faceResetBegin f) :=
  .each (.faceWindows <| .setBitOf hs) .flushQueue

end State.Keeps

namespace State.Leads

theorem faceResetComplete (s : State) {f : Nat} : s.Leads (execFaceResetComplete f s) := by
  unfold execFaceResetComplete
  exact .unlessDown <| .ite (.next <| .bridgeTurn <| .admitWaiting <| .leaf <| .inc <| .setBitOf <| .setBitOf .cleared)
      (.next .cleared)

end State.Leads

end Sys2Proof.Machine

end

section

/-! Guarded commands (Machine/Guarded). -/

namespace Sys2Proof.Machine

namespace State.Keeps

variable {s₀ s : State}

theorem setKeySlot {k : Nat} {x : KeySlot} (hs : s₀.Keeps s) : s₀.Keeps (s.setKeySlot k x) := .frame hs

theorem setKeyCounter {k h : Nat} (hs : s₀.Keeps s) : s₀.Keeps (s.setKeyCounter k h) := .wr <| .wr hs

theorem keyStoreDue {k : Nat} (hs : s₀.Keeps s) : s₀.Keeps (s.keyStoreDue k) := by
  unfold State.keyStoreDue
  exact .permitAsk <| .setKeySlot hs

theorem acceptCounter {k c : Nat} (hs : s₀.Keeps s) : s₀.Keeps (s.acceptCounter k c) := by
  unfold State.acceptCounter
  exact .ite (.when (.setKeySlot <| .setKeyCounter hs) .keyStoreDue) (.setKeySlot hs)

theorem keyWrite {k key : Nat} (hs : s₀.Keeps s) : s₀.Keeps (s.keyWrite k key) := by
  unfold State.keyWrite
  exact .keyStoreDue <| .setKeySlot <| .setKeyCounter <| .set <| .set hs

theorem keyEraseSlot {k : Nat} (hs : s₀.Keeps s) : s₀.Keeps (s.keyEraseSlot k) := by
  unfold State.keyEraseSlot
  exact .keyStoreDue <| .setKeySlot <| .set <| .set hs

theorem storeWrite {k : Nat} (hs : s₀.Keeps s) : s₀.Keeps (s.storeWrite k) := by
  unfold State.storeWrite
  exact .setFlash hs smWf_flashPut

theorem respond {snap : Machine.State} {r : List Byte} {result : Nat} {detail : List Byte} (hs : s₀.Keeps s) :
    s₀.Keeps (s.respond snap r result detail) :=
  .ite (.frame hs) (.ite (.frame hs) (.inc hs))

theorem countRefused (hs : s₀.Keeps s) : s₀.Keeps s.countRefused := .leaf <| .inc hs

theorem guardEnd {snap : Machine.State} {r : List Byte} {e : GuardEnd} (hs : s₀.Keeps s) : s₀.Keeps (s.guardEnd snap r e) := by
  unfold State.guardEnd
  split
  · exact .respond hs
  · exact .respond hs
  · exact .respond hs
  · exact .respond <| .countRefused hs

theorem guardRun {own : List Byte → Bool} {run : List Byte → State → GuardEnd × State} (hs : s₀.Keeps s) (hr : ∀
    {r u}, s₀.Keeps u → s₀.Keeps (run r u).2) : s₀.Keeps (s.guardRun own run) := by
  unfold State.guardRun
  split
  · refine .ite ?_ hs
    dsimp only
    split
    · exact .respond <| .when (.countRefused <| .frame hs) fun h => .leaf <| .inc h
    · exact .inc <| .frame hs
    · exact .guardEnd <| hr <| .acceptCounter <| .frame hs
  · exact hs

theorem operateCell {e src c : Nat} {cell : List Byte} (hs : s₀.Keeps s) : s₀.Keeps (s.operateCell e src c cell).2 := by
  unfold State.operateCell
  split
  · dsimp only
    split
    · exact .guardCount hs
    · split
      · exact hs
      · exact .frame hs
  · dsimp only
    split
    · exact hs
    · split
      · exact hs
      · exact .frame hs

theorem dropHeld {h e : Nat} (hs : s₀.Keeps s) : s₀.Keeps (s.dropHeld h e) := .frame hs

theorem setWindow {w st result : Nat} (hs : s₀.Keeps s) : s₀.Keeps (s.setWindow w st result) := .set <| .set hs

theorem submitWindow {w : Nat} (hs : s₀.Keeps s) : s₀.Keeps (s.submitWindow w) :=
  .ite (.setWindow hs) (.ite (.frame <| .setWindow hs) (.ite (.setWindow hs) (.frame <| .setWindow hs)))

theorem fuseBurn (hs : s₀.Keeps s) : s₀.Keeps s.fuseBurn := .ite hs (.setB <| .frame hs)

end State.Keeps

namespace State.Leads

theorem keyStoreWrite (s : State) {k : Nat} : s.Leads (execKeyStoreWrite k s) := by
  unfold execKeyStoreWrite
  exact .unlessDown <| .ite (.next <| .leaf <| .permitGive <| .setKeySlot <| .storeWrite .cleared) (.next .cleared)

theorem operateWhole (s : State) : s.Leads (execOperateWhole s) := .unlessDown <| .next <| .guardRun .cleared .operateCell

theorem operateFirstPart (s : State) : s.Leads (execOperateFirstPart s) := by
  unfold execOperateFirstPart
  exact .unlessDown <| .next <| .guardRun .cleared fun h => .frame <| .dropHeld <| .when h .inc

theorem operateSecondPart (s : State) : s.Leads (execOperateSecondPart s) := by
  unfold execOperateSecondPart
  exact .unlessDown <| .next <| .guardRun .cleared fun h => by
    split
    · split
      · exact .operateCell <| .dropHeld h
      · exact h
    · exact h

theorem heldPartTimeout (s : State) {hub ep : Nat} : s.Leads (execHeldPartTimeout hub ep s) := by
  unfold execHeldPartTimeout
  exact .unlessDown <| .next <| .when .cleared fun h => .inc <| .dropHeld h

theorem claimOverride (s : State) : s.Leads (execClaimOverride s) := .unlessDown <| .next <| .guardRun .cleared .overrideWrite

theorem keyLoad (s : State) : s.Leads (execKeyLoad s) := by
  unfold execKeyLoad
  exact .unlessDown <| .next <| .guardRun .cleared fun h => by
    split
    · exact .keyWrite h
    · exact h

theorem keyErase (s : State) : s.Leads (execKeyErase s) := .unlessDown <| .next <| .guardRun .cleared .keyEraseSlot

theorem faceReset (s : State) : s.Leads (execFaceReset s) :=
  .unlessDown <| .next <| .guardRun .cleared fun h => by
  split
  · exact h
  · exact .faceResetBegin h

theorem grdResponseReceived (s : State) : s.Leads (execGrdResponseReceived s) := by
  unfold execGrdResponseReceived
  refine .unlessDown ?_
  dsimp only
  split
  · split
    · exact .next <| .leaf <| .setWindow <| .each (.frame .cleared) .wr
    · exact .next <| .inc <| .frame .cleared
  · exact .next .cleared

theorem grdWindowTimeout (s : State) {w : Nat} : s.Leads (execGrdWindowTimeout w s) := by
  unfold execGrdWindowTimeout
  exact .unlessDown <| .next <| .when .cleared fun h => .leaf <| .set h

end State.Leads

end Sys2Proof.Machine

end

section

/-! Training, hellos and mastership of the ring (Machine/Ring). -/

namespace Sys2Proof.Machine

namespace State.Keeps

variable {s₀ s : State}

theorem setRdir {d : Side} {x : RingDir} (hs : s₀.Keeps s) : s₀.Keeps (s.setRdir d x) := by
  unfold State.setRdir
  split <;> exact .frame hs

theorem setHello {p : Side} {x : HelloState} (hs : s₀.Keeps s) : s₀.Keeps (s.setHello p x) := by
  unfold State.setHello
  split <;> exact .frame hs

theorem setPortState {p : Side} {v : Nat} (hs : s₀.Keeps s) : s₀.Keeps (s.setPortState p v) := .set hs

theorem setHead {d : Side} {v : Bool} (hs : s₀.Keeps s) : s₀.Keeps (s.setHead d v) := by
  unfold State.setHead
  split <;> exact .setB hs

theorem setPhase {v : Nat} (hs : s₀.Keeps s) : s₀.Keeps (s.setPhase v) := .set hs

theorem setAnn {h : Nat} {x : Announcement} (hs : s₀.Keeps s) : s₀.Keeps (s.setAnn h x) := .frame hs

theorem portsUnseen (hs : s₀.Keeps s) : s₀.Keeps s.portsUnseen := .each hs .setAnn

theorem setMode {m : Nat} (hs : s₀.Keeps s) : s₀.Keeps (s.setMode m) := .ite hs (.leaf <| .when (.setB <| .set hs) .portsUnseen)

theorem showRing (hs : s₀.Keeps s) : s₀.Keeps s.showRing := .setB hs

theorem sendBlock {p : Side} {lane : Nat} {control : Bool} {b : Block} (hs : s₀.Keeps s) :
    s₀.Keeps (s.sendBlock p lane control b) :=
  .frame hs

theorem sendBlocks {p : Side} {k : Nat} {bs : List Block} (hs : s₀.Keeps s) : s₀.Keeps (s.sendBlocks p k bs) := by
  induction bs generalizing s k with
  | nil => exact hs
  | cons b bs ih => exact ih hs.sendBlock

theorem sendControl {p : Side} {b : Block} (hs : s₀.Keeps s) : s₀.Keeps (s.sendControl p b) := .sendBlock <| .emit hs

theorem sendIdles {p : Side} {n : Nat} (hs : s₀.Keeps s) : s₀.Keeps (s.sendIdles p n) := .ite hs (.foldl (.emit hs) .sendBlock)

theorem setGrants {g : List Nat} (hs : s₀.Keeps s) : s₀.Keeps (s.setGrants g) := .frame hs

theorem applyGrant {w : Nat} (hs : s₀.Keeps s) : s₀.Keeps (s.applyGrant w) := .each hs fun h => .set <| .setB h

theorem grantRound (hs : s₀.Keeps s) : s₀.Keeps s.grantRound := .setGrants <| .foldl hs .applyGrant

theorem clearGrants (hs : s₀.Keeps s) : s₀.Keeps s.clearGrants :=
  .each hs fun h => .each h fun h1 => .when h1 fun h2 => .set <| .setB h2

theorem grantsInForce (hs : s₀.Keeps s) : s₀.Keeps s.grantsInForce :=
  .foldl (.clearGrants hs) fun h => .ite (.ite (.applyGrant h) (.applyGrant h)) (.ite h (.applyGrant h))

theorem serveRequest {owner : Nat} {release : Bool} {dir n : Nat} (hs : s₀.Keeps s) :
    s₀.Keeps (s.serveRequest owner release dir n) := by
  unfold State.serveRequest
  dsimp only
  split
  · exact .setGrants hs
  · split
    · split
      · exact .setGrants hs
      · exact hs
    · exact hs

theorem endGrants {h : Nat} (hs : s₀.Keeps s) : s₀.Keeps (s.endGrants h) := .setGrants hs

theorem cancelClosure (hs : s₀.Keeps s) : s₀.Keeps s.cancelClosure := .setB <| .when (.frame hs) .frame

theorem checkClosureReach (hs : s₀.Keeps s) : s₀.Keeps s.checkClosureReach := .ite (.cancelClosure hs) hs

theorem slotLost {d : Side} {bs : List Block} (hs : s₀.Keeps s) : s₀.Keeps (s.slotLost d bs) := .when hs .inc

theorem loseFills {d : Side} (hs : s₀.Keeps s) : s₀.Keeps (s.loseFills d) := .setRdir <| .foldl hs .inc

theorem forgetSlots (hs : s₀.Keeps s) : s₀.Keeps s.forgetSlots := .frame <| .loseFills <| .loseFills hs

theorem becomeHead {d : Side} (hs : s₀.Keeps s) : s₀.Keeps (s.becomeHead d) :=
  .ite (.setB <| .setRdir <| .setMode <| .setHead <| .foldl hs .slotLost) hs

theorem leaveHead {d : Side} (hs : s₀.Keeps s) : s₀.Keeps (s.leaveHead d) := .setRdir <| .setHead hs

theorem portDown {p : Side} (hs : s₀.Keeps s) : s₀.Keeps (s.portDown p) :=
  .sendControl <| .when (.becomeHead <| .when (.portsUnseen <| .cancelClosure <| .setB <| .setHello <| .ite
      (.setB <| .leaf <| .setPortState hs) (.setB <| .leaf <| .setPortState hs)) .frame) .setMode

theorem portFails {p : Side} (hs : s₀.Keeps s) : s₀.Keeps (s.portFails p) := .ite (.portDown hs) (.ite (.setPortState hs) hs)

theorem mastershipLapses (hs : s₀.Keeps s) : s₀.Keeps s.mastershipLapses :=
  .ite (.leaf <| .showRing <| .forgetSlots <| .frame <| .setB <| .setB <| .setB <| .leaveHead <| .leaveHead <| .setPhase <|
      .setMode hs) hs

theorem portBecomesUp {p : Side} (hs : s₀.Keeps s) : s₀.Keeps (s.portBecomesUp p) :=
  .when (.setHello <| .recovered <| .recovered <| .ite (.setB <| .setPortState <| .mastershipLapses hs)
      (.setB <| .setPortState <| .mastershipLapses hs)) .setPhase

theorem helloCheck {p : Side} (hs : s₀.Keeps s) : s₀.Keeps (s.helloCheck p) := .ite (.portBecomesUp hs) hs

theorem helloBegins {p : Side} (hs : s₀.Keeps s) : s₀.Keeps (s.helloBegins p) := .when hs .setPortState

theorem contended {pair : Nat} (hs : s₀.Keeps s) : s₀.Keeps (s.contended pair) := .frame hs

theorem candidateSeen {pair : Nat} (hs : s₀.Keeps s) : s₀.Keeps (s.candidateSeen pair) := .ite hs (.frame <| .set hs)

theorem takeMastership (hs : s₀.Keeps s) : s₀.Keeps s.takeMastership :=
  .leaf <| .showRing <| .frame <| .setB <| .set <| .set <| .setB hs

theorem lineMaster (hs : s₀.Keeps s) : s₀.Keeps s.lineMaster := .when hs fun h => .becomeHead <| .becomeHead h

theorem sourcesApply (hs : s₀.Keeps s) : s₀.Keeps s.sourcesApply := .checkSources hs

theorem referenceLost (hs : s₀.Keeps s) : s₀.Keeps s.referenceLost := .when hs fun h => .leaf <| .setB h

theorem seenRound (hs : s₀.Keeps s) : s₀.Keeps s.seenRound := .frame hs

theorem masterBitmap {seen : Nat} (hs : s₀.Keeps s) : s₀.Keeps (s.masterBitmap seen) := .frame hs

theorem announceHandoff (hs : s₀.Keeps s) : s₀.Keeps s.announceHandoff := by
  unfold State.announceHandoff
  split
  · split
    · exact .ite (.frame hs) (.leaf hs)
    · exact .leaf hs
  · exact hs

theorem giveUpMastership (hs : s₀.Keeps s) : s₀.Keeps s.giveUpMastership :=
  .leaf <| .showRing <| .frame <| .setB <| .setB <| .setB <| .foldl hs fun h => .setRdir <| .foldl h .slotLost

theorem yieldMastership (hs : s₀.Keeps s) : s₀.Keeps s.yieldMastership :=
  .frame <| .foldl (.giveUpMastership hs) fun h => .when h .leaveHead

theorem handoffRound (hs : s₀.Keeps s) : s₀.Keeps s.handoffRound :=
  .ite (.ite (.frame <| .foldl (.sourcesApply <| .takeMastership <| .frame hs) .setB)
      (.frame <| .set <| .ite (.giveUpMastership <| .frame hs) (.when (.frame hs) .leaf))) hs

theorem showBackup (hs : s₀.Keeps s) : s₀.Keeps s.showBackup := .set hs

theorem showComplete (hs : s₀.Keeps s) : s₀.Keeps s.showComplete := .setB hs

theorem masterVersion (hs : s₀.Keeps s) : s₀.Keeps s.masterVersion := .ite hs (.ite (.frame hs) (.frame hs))

theorem versionRound (hs : s₀.Keeps s) : s₀.Keeps s.versionRound := .ite (.frame <| .set hs) hs

theorem headAtEnds (hs : s₀.Keeps s) : s₀.Keeps s.headAtEnds := .foldl hs fun h => .when h .becomeHead

theorem alignRing {theta : Int} (hs : s₀.Keeps s) : s₀.Keeps (s.alignRing theta) :=
  .when (.domStep <| .frame hs) fun h => .toDomState <| .clearRuns h

theorem integrate {master r : Nat} {line : Bool} {theta : Option Int} (hs : s₀.Keeps s) :
    s₀.Keeps (s.integrate master r line theta) := by
  unfold State.integrate
  dsimp only
  split
  · exact .alignRing <| .showRing <| .set <| .frame <| .setB <| .setPhase <| .forgetSlots <| .setMode <| .set <| .setRound hs
  · exact .showRing <| .set <| .frame <| .setB <| .setPhase <| .forgetSlots <| .setMode <| .set <| .setRound hs

theorem leaveIntegration (hs : s₀.Keeps s) : s₀.Keeps s.leaveIntegration :=
  .checkSources <| .showRing <| .forgetSlots <| .frame <| .setB <| .setB <| .setB <| .leaveHead <| .leaveHead <| .setPhase <|
      .setMode hs

theorem refuseIntegration {cnt : Fld} (hs : s₀.Keeps s) : s₀.Keeps (s.refuseIntegration cnt) :=
  .leaf <| .inc <| .leaveIntegration hs

theorem withdraw (hs : s₀.Keeps s) : s₀.Keeps s.withdraw := .frame <| .refuseIntegration hs

theorem copyMap {pl : List Byte} (hs : s₀.Keeps s) : s₀.Keeps (s.copyMap pl) := .showComplete <| .showBackup <| .set <| .frame hs

theorem hearReference {master r gen : Nat} {line : Bool} {theta : Option Int} {pl : List Byte} (hs : s₀.Keeps s) :
    s₀.Keeps (s.hearReference master r gen line theta pl) :=
  .ite (.frame hs) (.ite (.when (.frame hs) .copyMap) (.ite (.when (.frame hs) .copyMap)
      (.ite (.ite (.frame <| .when (.frame hs) .copyMap) (.leaf <| .inc <| .setPhase <| .frame <| .when (.frame hs) .copyMap))
      (.ite (.ite (.when (.frame hs) .copyMap) (.leaf <| .inc <| .setPhase <| .when (.frame hs) .copyMap))
      (.ite (.integrate <| .frame <| .when (.when (.frame hs) .copyMap) .setPhase)
      (.frame <| .when (.when (.frame hs) .copyMap) .setPhase))))))

theorem hubMapChanged (hs : s₀.Keeps s) : s₀.Keeps s.hubMapChanged := .showComplete <| .set <| .when hs fun h => .set <| .frame h

theorem enterRecord {h : Nat} {r : List Byte} {round : Nat} (hs : s₀.Keeps s) : s₀.Keeps (s.enterRecord h r round) :=
  .when (.when (.ite (.showComplete <| .setAnn <| .wr <| .wr <| .wr hs)
      (.hubMapChanged <| .streamRestart <| .setAnn <| .wr <| .wr <| .wr hs)) .refuseIntegration) .serveRequest

theorem enterOwn {r : List Byte} {round : Nat} (hs : s₀.Keeps s) : s₀.Keeps (s.enterOwn r round) :=
  .showComplete <| .setAnn <| .wr <| .wr <| .wr hs

theorem duplicateRecord {r : List Byte} (hs : s₀.Keeps s) : s₀.Keeps (s.duplicateRecord r) :=
  .ite (.withdraw hs) (.ite hs (.ite (.withdraw hs) hs))

theorem recordArrives {owner : Nat} {r : List Byte} {round : Nat} (hs : s₀.Keeps s) : s₀.Keeps (s.recordArrives owner r round) :=
  .ite (.ite (.ite (.enterOwn hs) (.duplicateRecord hs)) (.enterRecord hs)) hs

theorem serveOwn (hs : s₀.Keeps s) : s₀.Keeps s.serveOwn := .when hs .serveRequest

theorem commandSlotPassed {h round : Nat} (hs : s₀.Keeps s) : s₀.Keeps (s.commandSlotPassed h round) :=
  .ite (.serveOwn hs) (.ite hs (.ite (.unreachable <| .hubMapChanged <| .when (.setB <| .setAnn hs) .endGrants) (.setAnn hs)))

theorem setCmdPass {n : Nat} {x : CommandPass} (hs : s₀.Keeps s) : s₀.Keeps (s.setCmdPass n x) := .ite (.frame hs) (.frame hs)

theorem judgePass {n : Nat} (hs : s₀.Keeps s) : s₀.Keeps (s.judgePass n) := .ite hs (.commandSlotPassed <| .setCmdPass hs)

theorem commandPasses {d : Side} {n round : Nat} (hs : s₀.Keeps s) : s₀.Keeps (s.commandPasses d n round) :=
  .ite (.judgePass <| .setCmdPass <| .ite hs (.setCmdPass <| .judgePass hs)) (.setCmdPass <| .ite hs (.setCmdPass <| .judgePass hs))

theorem requestEntry {dir n : Nat} (hs : s₀.Keeps s) : s₀.Keeps (s.requestEntry dir n) := .frame <| .inc <| .set <| .set <| .set hs

theorem nextRequest (hs : s₀.Keeps s) : s₀.Keeps s.nextRequest := by
  unfold State.nextRequest
  split
  · split
    · exact .requestEntry hs
    · exact hs
  · exact hs

theorem checkGrant (hs : s₀.Keeps s) : s₀.Keeps s.checkGrant := .ite (.frame <| .set hs) hs

theorem takeClosureWord {w : Nat} (hs : s₀.Keeps s) : s₀.Keeps (s.takeClosureWord w) :=
  .ite (.frame <| .when hs .cancelClosure) (.ite hs (.ite (.frame hs)
      (.setB <| .when (.when (.when (.when (.frame hs) .setRdir) .setRdir) .setRdir) .frame)))

theorem refuseClosure {d : Side} (hs : s₀.Keeps s) : s₀.Keeps (s.refuseClosure d) := .leaf <| .setB <| .setRdir hs

theorem checkClosure (hs : s₀.Keeps s) : s₀.Keeps s.checkClosure := .ite (.cancelClosure hs) hs

theorem checkPads (hs : s₀.Keeps s) : s₀.Keeps s.checkPads := .foldl hs fun h => .when h fun h1 => .becomeHead <| .refuseClosure h1

theorem attemptClosure (hs : s₀.Keeps s) : s₀.Keeps s.attemptClosure :=
  .ite (.ite (.when (.when hs .refuseClosure) .refuseClosure)
      (.takeClosureWord <| .setB <| .frame <| .when (.when hs .refuseClosure) .refuseClosure)) hs

theorem closeDirection {d : Side} (hs : s₀.Keeps s) : s₀.Keeps (s.closeDirection d) :=
  .ite (.when (.leaveHead <| .setRdir hs) fun h => .ite (.set <| .setB h) (.becomeHead <| .refuseClosure h)) hs

theorem closureRound (hs : s₀.Keeps s) : s₀.Keeps s.closureRound :=
  .setB <| .when (.when (.closeDirection <| .closeDirection hs) fun h => .setMode <| .frame h) .frame

theorem mirrorDeliver {n q : Nat} (hs : s₀.Keeps s) : s₀.Keeps (s.mirrorDeliver n q).2 := by
  unfold State.mirrorDeliver
  split
  · exact .inc hs
  · split
    · exact .inc hs
    · exact .frame hs

theorem refreshMaster (hs : s₀.Keeps s) : s₀.Keeps s.refreshMaster :=
  .showComplete <| .masterVersion <| .foldl (.frame <| .masterBitmap hs) fun h => .when h .set

theorem copyStep {pl : List Byte} (hs : s₀.Keeps s) : s₀.Keeps (s.copyStep pl) := .setB <| .frame hs

theorem copyReference {pl : List Byte} (hs : s₀.Keeps s) : s₀.Keeps (s.copyReference pl) :=
  .takeClosureWord <| .when (.copyStep <| .set <| .set <| .copyMap hs) fun h => .setB <| .setB <| .set <| .setB h

theorem refMeasured {d : Side} {c : RefCopy} (hs : s₀.Keeps s) : s₀.Keeps (s.refMeasured d c) :=
  .ite (.alignRing <| .setB <| .frame <| .setB hs) (.measureRing <| .setB <| .frame <| .setB hs)

theorem refCopy {d : Side} {c : RefCopy} (hs : s₀.Keeps s) : s₀.Keeps (s.refCopy d c) := by
  unfold State.refCopy
  dsimp only
  split <;> exact .ite (.refMeasured <| .frame hs) (.frame hs)

theorem refDiff {diff : Int} (hs : s₀.Keeps s) : s₀.Keeps (s.refDiff diff) :=
  .when (.when (.frame <| .set hs) fun h => .leaf <| .setB h) .setB

theorem refRoundEnd (hs : s₀.Keeps s) : s₀.Keeps s.refRoundEnd := by
  unfold State.refRoundEnd
  extract_lets pref used other s₁ t₁ s₂
  clear_value used other
  have h₁ : s₀.Keeps s₁ := by
    unfold s₁
    split
    · exact .refMeasured hs
    · exact .setB hs
    · exact hs
  have h₂ : s₀.Keeps s₂ := by
    unfold s₂
    split
    · exact .refDiff h₁
    · exact .frame h₁
  exact .frame h₂

theorem ringStepRound (hs : s₀.Keeps s) : s₀.Keeps s.ringStepRound := by
  unfold State.ringStepRound
  split
  · exact .leaf <| .frame <| .domStep hs
  · exact hs

theorem follow {d : Side} {m r : Nat} {alive : Bool} (hs : s₀.Keeps s) : s₀.Keeps (s.follow d m r alive) :=
  .when (.frame <| .leaf <| .set hs) .leaveHead

theorem referenceDelivered {r q : Nat} (hs : s₀.Keeps s) : s₀.Keeps (s.referenceDelivered r q).2 := by
  unfold State.referenceDelivered
  split
  · exact hs
  · exact .mirrorDeliver hs

theorem referenceTaken {m r q : Nat} {pl : List Byte} (hs : s₀.Keeps s) : s₀.Keeps (s.referenceTaken m r q pl) :=
  .when (.ite (.frame <| .setRound <| .frame <| .referenceDelivered hs) (.frame <| .referenceDelivered hs)) .copyReference

theorem referenceArrives {d : Side} {h : Header} {pl : List Byte} {correction : Int} {b97 : Bool} {seq : Nat} (hs : s₀.Keeps s) :
    s₀.Keeps (s.referenceArrives d h pl correction b97 seq) :=
  .ite (.when hs .mirrorDeliver) (.ite (.ite (.headAtEnds <| .grantsInForce <| .copyReference <| .hearReference hs)
      (.hearReference hs)) (.ite (.ite (.frame hs) (.frame hs))
      (.ite (.when (.frame hs) .follow) (.ite (.refuseIntegration <| .frame <| .when (.frame hs) .follow)
      (.ite (.inc <| .when (.frame hs) .follow) (.ite (.refCopy <| .referenceTaken <| .setB <| .when (.frame hs) .follow)
      (.referenceTaken <| .setB <| .when (.frame hs) .follow)))))))

theorem hopsLearned {d : Side} {h k : Nat} (hs : s₀.Keeps s) : s₀.Keeps (s.hopsLearned d h k) :=
  .ite hs (.imageRefresh <| .checkHeld <| .ite (.set hs) (.set hs))

end State.Keeps

namespace State.Leads

theorem signalDetect (s : State) {p : Side} : s.Leads (execSignalDetect p s) := by
  unfold execSignalDetect
  exact .unlessDown <| .ite (.next <| .when (.inc <| .setPortState .cleared) .permitAsk) (.next .cleared)

theorem cdrLock (s : State) {p : Side} : s.Leads (execCdrLock p s) := by
  unfold execCdrLock
  exact .unlessDown <| .next <| .when .cleared .setPortState

theorem blockLock (s : State) {p : Side} : s.Leads (execBlockLock p s) := by
  unfold execBlockLock
  exact .unlessDown <| .next <| .when .cleared .setPortState

theorem deskewComplete (s : State) {p : Side} {swap : Bool} {polInv skew roundTrip : Nat} :
    s.Leads (execDeskewComplete p swap polInv skew roundTrip s) := by
  unfold execDeskewComplete
  exact .unlessDown <| .ite (.ite (.next <| .setHello <| .permitGive <| .setPortState <| .set <| .set <| .set <| .setB .cleared)
      (.next <| .leaf <| .permitGive <| .setPortState .cleared)) (.next .cleared)

theorem trainingTimeout (s : State) {p : Side} : s.Leads (execTrainingTimeout p s) := by
  unfold execTrainingTimeout
  exact .unlessDown <| .ite (.next <| .leaf <| .permitGive <| .setPortState .cleared) (.next .cleared)

theorem blockLockLoss (s : State) {p : Side} : s.Leads (execBlockLockLoss p s) := .unlessDown <| .next <| .portFails .cleared

theorem lossOfSignal (s : State) {p : Side} : s.Leads (execLossOfSignal p s) := .unlessDown <| .next <| .portFails .cleared

theorem remoteFaultReceived (s : State) {p : Side} : s.Leads (execRemoteFaultReceived p s) := by
  unfold execRemoteFaultReceived
  exact .unlessDown <| .next <| .when .cleared .portDown

theorem portDownTimeout (s : State) {p : Side} : s.Leads (execPortDownTimeout p s) := by
  unfold execPortDownTimeout
  exact .unlessDown <| .next <| .when .cleared .portDown

theorem reachTimeout (s : State) {d : Side} {h : Nat} : s.Leads (execReachTimeout d h s) :=
  .unlessDown <| .next <| .portsUnseen <| .checkClosureReach <| .checkHeld <| .reachLost .cleared

theorem helloSend (s : State) {p : Side} : s.Leads (execHelloSend p s) := by
  unfold execHelloSend
  exact .unlessDown <| .ite (.next <| .helloCheck <| .setHello <| .sendIdles <| .sendControl <| .helloBegins .cleared)
      (.next .cleared)

theorem helloReceived (s : State) {p : Side} {blk : Block} : s.Leads (execHelloReceived p blk s) := by
  unfold execHelloReceived
  refine .unlessDown ?_
  dsimp only
  split
  · split
    · split
      · exact .next <| .ite (.setHello <| .setB <| .set <| .helloBegins .cleared)
          (.leaf <| .inc <| .setHello <| .setB <| .set <| .helloBegins .cleared)
      · exact .next <| .helloCheck <| .setHello <| .setB <| .set <| .helloBegins .cleared
    · exact .next <| .setHello <| .helloBegins .cleared
  · exact .next .cleared

theorem listenWindowEnd (s : State) : s.Leads (execListenWindowEnd s) := by
  unfold execListenWindowEnd
  exact .unlessDown <| .next <| .when .cleared .setPhase

theorem backoffEnd (s : State) : s.Leads (execBackoffEnd s) := by
  unfold execBackoffEnd
  exact .unlessDown <| .next <| .when .cleared fun h => .frame <| .set <| .setPhase h

theorem contendSend (s : State) : s.Leads (execContendSend s) := by
  unfold execContendSend
  exact .unlessDown <| .ite (.next <| .when (.when (.when .cleared .sendControl) .sendControl) .contended) (.next .cleared)

theorem contendReceived (s : State) {p : Side} {blk : Block} : s.Leads (execContendReceived p blk s) := by
  unfold execContendReceived
  exact .unlessDown <| .ite (.next <| .when (.candidateSeen <| .when .cleared fun h => .contended <| .sendControl h) .setPhase)
      (.next .cleared)

theorem contentionWindowEnd (s : State) : s.Leads (execContentionWindowEnd s) := by
  unfold execContentionWindowEnd
  exact .unlessDown <| .ite (.next <| .frame <| .takeMastership <| .setPhase <| .setRound .cleared) (.next .cleared)

theorem masterLost (s : State) : s.Leads (execMasterLost s) := by
  unfold execMasterLost
  exact .unlessDown <| .ite (.next <| .frame .cleared) (.next .cleared)

theorem backupTakeover (s : State) : s.Leads (execBackupTakeover s) := by
  unfold execBackupTakeover
  refine .unlessDown ?_
  dsimp only
  split
  · exact .ite (.next <| .frame <| .masterBitmap <| .sourcesApply <| .lineMaster <| .takeMastership .cleared) (.next .cleared)
  · exact .next .cleared

theorem spareRequestTimeout (s : State) : s.Leads (execSpareRequestTimeout s) := by
  unfold execSpareRequestTimeout
  refine .unlessDown ?_
  dsimp only
  split
  · exact .ite (.ite (.next <| .set <| .frame .cleared) (.next <| .leaf <| .set <| .frame .cleared)) (.next .cleared)
  · exact .next .cleared

end State.Leads

end Sys2Proof.Machine

end

section

/-! Slots of the ring (Machine/RingSlot). -/

namespace Sys2Proof.Machine

namespace State.Keeps

variable {s₀ s : State}

theorem takeCommand (hs : s₀.Keeps s) : s₀.Keeps s.takeCommand.2 := by
  unfold State.takeCommand
  split
  · split
    · exact .set <| .frame hs
    · exact hs
  · exact hs

theorem takeResponse (hs : s₀.Keeps s) : s₀.Keeps s.takeResponse.2 := by
  unfold State.takeResponse
  split
  · split
    · exact .frame hs
    · exact hs
  · exact hs

theorem guardPosition {commandFirst : Bool} (hs : s₀.Keeps s) : s₀.Keeps (s.guardPosition commandFirst).2 := by
  unfold State.guardPosition
  cases commandFirst
  · dsimp only [Bool.false_eq_true, if_false]
    split
    · exact .takeResponse hs
    · split
      · exact .takeCommand <| .takeResponse hs
      · exact .takeCommand <| .takeResponse hs
  · dsimp only [if_true]
    split
    · exact .takeCommand hs
    · split
      · exact .takeResponse <| .takeCommand hs
      · exact .takeResponse <| .takeCommand hs

theorem commandPayload (hs : s₀.Keeps s) : s₀.Keeps s.commandPayload.2 := by
  unfold State.commandPayload
  exact .guardPosition <| .guardPosition <| .guardPosition <| .guardPosition <| .nextRequest hs

theorem scheduledFill {d : Side} {n : Nat} (hs : s₀.Keeps s) : s₀.Keeps (s.scheduledFill d n).2 := by
  unfold State.scheduledFill
  dsimp only
  split
  · exact .applyFreeze hs
  · exact .fillPositions <| .when (.applyFreeze hs) .heartbeatBegins

theorem dropMirror {n : Nat} (hs : s₀.Keeps s) : s₀.Keeps (s.dropMirror n) := .frame hs

theorem keepFill {d : Side} {f : SlotFill} (hs : s₀.Keeps s) : s₀.Keeps (s.keepFill d f) := .setRdir hs

theorem dropFill {d : Side} {n : Nat} (hs : s₀.Keeps s) : s₀.Keeps (s.dropFill d n) := .setRdir hs

theorem newFill {d : Side} {n : Nat} (hs : s₀.Keeps s) : s₀.Keeps (s.newFill d n).2 := by
  unfold State.newFill
  split
  · exact .commandPayload hs
  · exact .scheduledFill hs

theorem loseFill {d : Side} {n : Nat} (hs : s₀.Keeps s) : s₀.Keeps (s.loseFill d n) := by
  unfold State.loseFill
  split
  · exact .when (.dropFill hs) .inc
  · exact hs

theorem splitFill {d : Side} {n : Nat} (hs : s₀.Keeps s) : s₀.Keeps (s.splitFill d n) := by
  unfold State.splitFill
  dsimp only
  split
  · exact .keepFill <| .when hs .loseFill
  · exact .keepFill <| .newFill <| .when hs .loseFill

theorem renewFill {d : Side} {f : SlotFill} (hs : s₀.Keeps s) : s₀.Keeps (s.renewFill d f).2 := by
  unfold State.renewFill
  dsimp only
  split
  · exact hs
  · split
    · exact .heartbeatBegins hs
    · exact hs

theorem mirroredFill {d : Side} {n : Nat} (hs : s₀.Keeps s) : s₀.Keeps (s.mirroredFill d n) := by
  unfold State.mirroredFill
  split
  · split
    · exact .keepFill <| .dropMirror hs
    · dsimp only
      split
      · split
        · exact .keepFill <| .dropMirror <| .renewFill hs
        · exact .keepFill <| .dropMirror <| .newFill hs
      · split
        · exact .frame <| .keepFill <| .dropMirror <| .renewFill hs
        · exact .frame <| .keepFill <| .dropMirror <| .newFill hs
  · split
    · exact .keepFill <| .dropMirror hs
    · dsimp only
      split
      · split
        · exact .keepFill <| .dropMirror <| .renewFill hs
        · exact .keepFill <| .dropMirror <| .newFill hs
      · split
        · exact .frame <| .keepFill <| .dropMirror <| .renewFill hs
        · exact .frame <| .keepFill <| .dropMirror <| .newFill hs

theorem mirrorSkip {d : Side} {n : Nat} (hs : s₀.Keeps s) : s₀.Keeps (s.mirrorSkip d n) :=
  .ite (.dropMirror hs) (.ite hs (.frame hs))

theorem ownFill {d : Side} {n : Nat} (hs : s₀.Keeps s) : s₀.Keeps (s.ownFill d n) :=
  .ite (.ite (.mirroredFill hs) (.mirrorSkip hs)) (.when hs .splitFill)

theorem sendSlot {d : Side} {bs : List Block} (hs : s₀.Keeps s) : s₀.Keeps (s.sendSlot d bs) :=
  .setRdir <| .sendBlocks <| .emit <| .ownEntrySent hs

theorem noteOriginated {n : Nat} (hs : s₀.Keeps s) : s₀.Keeps (s.noteOriginated n) := .ite (.frame hs) hs

theorem sendOwn {d : Side} {n : Nat} {c : Option SlotFill} {hdr : Header} {shots : List Block} {trust : Nat} (hs : s₀.Keeps s) :
    s₀.Keeps (s.sendOwn d n c hdr shots trust) :=
  .noteOriginated <| .when (.sendSlot hs) .dropFill

theorem sendRelay {d : Side} {n : Nat} {r : Relay} (hs : s₀.Keeps s) : s₀.Keeps (s.sendRelay d n r) := .sendSlot <| .setRdir hs

theorem generateSlot {d : Side} {n : Nat} {blank : Bool} {later : Nat} (hs : s₀.Keeps s) :
    s₀.Keeps (s.generateSlot d n blank later) := by
  unfold State.generateSlot
  split
  · dsimp only
    split
    · exact .sendRelay hs
    · exact .sendOwn hs
  · exact hs

theorem runSlot {d : Side} (hs : s₀.Keeps s) : s₀.Keeps (s.runSlot d) := .ite (.sendSlot <| .setRdir hs) (.setRdir hs)

theorem endRun {d : Side} (hs : s₀.Keeps s) : s₀.Keeps (s.endRun d) := .when (.setRdir hs) .sendIdles

theorem padSlot {d : Side} {n : Nat} (hs : s₀.Keeps s) : s₀.Keeps (s.padSlot d n) :=
  .ite (.ite (.sendOwn <| .setRdir hs) (.ite (.sendSlot <| .setRdir hs) (.sendSlot <| .setRdir hs))) (.slotLost <| .setRdir hs)

theorem positionPasses {d : Side} {n : Nat} (hs : s₀.Keeps s) : s₀.Keeps (s.positionPasses d n) :=
  .ite (.when (.setRdir hs) .commandPasses) hs

theorem portError {p : Side} {cnt : Fld} {leaf : Nat} (hs : s₀.Keeps s) : s₀.Keeps (s.portError p cnt leaf) := .leaf <| .inc hs

theorem takeEntries {d : Side} {shots : List Block} {trust : Nat} (hs : s₀.Keeps s) : s₀.Keeps (s.takeEntries d shots trust) :=
  .foldl hs fun h => .ite (.copyArrives h) h

theorem arrivedContent {d : Side} {h : Header} (hs : s₀.Keeps s) : s₀.Keeps (s.arrivedContent d h).2 := by
  unfold State.arrivedContent
  exact .when hs fun h => .ite (.mirroredFill h) (.mirrorSkip h)

theorem forwardSlot {d : Side} {bs : List Block} {cut : Bool} {sent : Nat} {missing : Bool} (hs : s₀.Keeps s) :
    s₀.Keeps (s.forwardSlot d bs cut sent missing) := by
  unfold State.forwardSlot
  exact .ite hs (.ite (.slotLost hs) (.ite (.sendOwn <| .arrivedContent hs) (.ite (.sendSlot hs) (.sendSlot hs))))

theorem lastWordsArrive {owner : Nat} {cell : List Byte} (hs : s₀.Keeps s) : s₀.Keeps (s.lastWordsArrive owner cell) :=
  .ite (.wr hs) hs

theorem guardedArrives {r : List Byte} (hs : s₀.Keeps s) : s₀.Keeps (s.guardedArrives r) :=
  .ite (.ite (.frame hs) hs) (.ite (.frame hs) hs)

theorem keepRelay {d : Side} {h : Header} {bs : List Block} (hs : s₀.Keeps s) : s₀.Keeps (s.keepRelay d h bs) :=
  .ite (.setRdir hs) hs

theorem takeCommandSlot {d : Side} {h : Header} {bs : List Block} (hs : s₀.Keeps s) : s₀.Keeps (s.takeCommandSlot d h bs) :=
  .ite (.mirrorDeliver <| .foldl (.keepRelay <| .when hs .recordArrives) .guardedArrives)
      (.foldl (.keepRelay <| .when hs .recordArrives) .guardedArrives)

theorem takeScheduled {d : Side} {bs : List Block} (hs : s₀.Keeps s) : s₀.Keeps (s.takeScheduled d bs) := by
  unfold State.takeScheduled
  refine .ite hs (.ite ?_ (.ite (.inc hs) (.payloadArrives hs)))
  split
  next hq => exact .ite (.payloadArrives <| .of_eq hq (.mirrorDeliver hs)) (.of_eq hq (.mirrorDeliver hs))

theorem takePayload {d : Side} {bs : List Block} (hs : s₀.Keeps s) : s₀.Keeps (s.takePayload d bs) := by
  unfold State.takePayload
  exact .ite (.referenceArrives <| .when hs .lastWordsArrive)
      (.ite (.takeCommandSlot <| .when hs .lastWordsArrive) (.when
      (.when (.when hs .lastWordsArrive) .heartbeatReceived) .takeScheduled))

theorem lineEntry {h : Header} (hs : s₀.Keeps s) : s₀.Keeps (s.lineEntry h) := .ite (.setMode hs) hs

theorem keepShots {d : Side} {bs : List Block} {cut : Bool} (hs : s₀.Keeps s) : s₀.Keeps (s.keepShots d bs cut) := .setRdir hs

theorem slotPasses {d : Side} {n round : Nat} (hs : s₀.Keeps s) : s₀.Keeps (s.slotPasses d n round) :=
  .ite (.commandPasses <| .setRdir hs) hs

theorem badHeader {d : Side} {bs : List Block} {cut : Bool} (hs : s₀.Keeps s) : s₀.Keeps (s.badHeader d bs cut) :=
  .slotPasses <| .ite (.generateSlot <| .setRdir <| .keepShots <| .portError hs) (.setRdir <| .keepShots <| .portError hs)

theorem goodHeader {d : Side} {h : Header} (hs : s₀.Keeps s) : s₀.Keeps (s.goodHeader d h) := .lineEntry <| .setRdir <| .setHello hs

theorem keepForPad {d : Side} {bs : List Block} {cut : Bool} (hs : s₀.Keeps s) : s₀.Keeps (s.keepForPad d bs cut) := by
  unfold State.keepForPad
  dsimp only
  split
  · exact .setRdir <| .keepShots hs
  · exact .keepShots hs

theorem useShots {d : Side} {bs : List Block} (hs : s₀.Keeps s) : s₀.Keeps (s.useShots d bs) :=
  .ite (.takeEntries <| .when hs .hopsLearned) hs

theorem checkHeldAll (hs : s₀.Keeps s) : s₀.Keeps s.checkHeldAll := .foldl hs .checkHeld

theorem runArrives {d : Side} {bs : List Block} (hs : s₀.Keeps s) : s₀.Keeps (s.runArrives d bs) :=
  .setB <| .when (.checkHeldAll <| .useShots <| .keepShots hs) .setRdir

theorem cutArrives {d : Side} {bs : List Block} {sent : Nat} {missing : Bool} (hs : s₀.Keeps s) :
    s₀.Keeps (s.cutArrives d bs sent missing) := by
  unfold State.cutArrives
  exact .slotPasses <| .setRdir <| .keepForPad <| .forwardSlot <| .portError hs

theorem wholeArrives {d : Side} {bs : List Block} (hs : s₀.Keeps s) : s₀.Keeps (s.wholeArrives d bs) := by
  unfold State.wholeArrives
  exact .checkHeldAll <| .slotPasses <| .when (.useShots <| .keepForPad <| .setRdir <| .forwardSlot <| .when
      (.when hs .portError) .portError) .takePayload

theorem transitRound (hs : s₀.Keeps s) : s₀.Keeps s.transitRound := .ite hs (.leaf <| .setB hs)

end State.Keeps

namespace State.Leads

theorem slotStart (s : State) {d : Side} {n : Nat} : s.Leads (execSlotStart d n s) := by
  unfold execSlotStart
  exact .unlessDown <| .ite (.ite (.next <| .runSlot .cleared)
      (.ite (.next <| .generateSlot <| .when (.when (.positionPasses .cleared) .endRun) .ownFill)
      (.ite (.next <| .padSlot <| .when (.when (.positionPasses .cleared) .endRun) .ownFill)
      (.ite (.next <| .generateSlot <| .when (.when (.positionPasses .cleared) .endRun) .ownFill)
      (.next <| .when (.when (.positionPasses .cleared) .endRun) .ownFill))))) (.next .cleared)

theorem slotArrival (s : State) {d : Side} {blks : List Block} : s.Leads (execSlotArrival d blks s) := by
  unfold execSlotArrival
  exact .unlessDown <| .unlessDown <| .ite (.next <| .badHeader .cleared)
      (.ite (.next <| .runArrives <| .goodHeader .cleared) (.ite (.next <| .cutArrives <| .goodHeader .cleared)
      (.next <| .wholeArrives <| .goodHeader .cleared)))

theorem slotCut (s : State) {d : Side} {blks : List Block} : s.Leads (execSlotCut d blks s) := by
  unfold execSlotCut
  exact .unlessDown <| .unlessDown <| .next <| .setRdir <| .ite (.badHeader .cleared) (.cutArrives <| .goodHeader .cleared)

theorem silentTurnEnd (s : State) : s.Leads (execSilentTurnEnd s) := by
  unfold execSilentTurnEnd
  exact .unlessDown <| .ite (.next <| .setPhase .cleared) (.next .cleared)

end State.Leads

end Sys2Proof.Machine

end

section

/-! Ethernet ports and switch (Machine/Switch). -/

namespace Sys2Proof.Machine

namespace State.Keeps

variable {s₀ s : State}

theorem setSwQueue {q c : Nat} {x : List EthFrame} (hs : s₀.Keeps s) : s₀.Keeps (s.setSwQueue q c x) := .frame hs

theorem flushPort {q : Nat} (hs : s₀.Keeps s) : s₀.Keeps (s.flushPort q) := .each (.frame <| .add hs) fun h => .add <| .setSwQueue h

theorem lookup {q : Nat} {f : List Byte} (hs : s₀.Keeps s) : s₀.Keeps (s.lookup q f).2 := by
  unfold State.lookup
  split
  · exact hs
  · split
    · dsimp only
      split
      · next hq2 _ => exact .of_eq hq2 (.drawn hs)
      · exact hs

theorem ringCopy {c : Nat} {f : List Byte} {h : Nat} (hs : s₀.Keeps s) : s₀.Keeps (s.ringCopy c f h).2 := by
  unfold State.ringCopy
  split
  · dsimp only
    split
    · split
      · exact hs
      · split
        · next hq3 => exact .each (.frame <| .of_eq hq3 (.enqueue hs)) .enqueue
        · next hq3 => exact .inc <| .of_eq hq3 (.enqueue hs)
    · exact .inc hs
  · dsimp only
    split
    · split
      · exact hs
      · split
        · next hq3 => exact .each (.frame <| .of_eq hq3 (.enqueue hs)) .enqueue
        · next hq3 => exact .inc <| .of_eq hq3 (.enqueue hs)
    · exact .inc hs

theorem ringSend {c k : Nat} {f : List Byte} (hs : s₀.Keeps s) : s₀.Keeps (s.ringSend c f k).2 := by
  unfold State.ringSend
  split
  · exact .foldlPair hs .ringCopy
  · exact .inc hs

theorem admitAt {q c : Nat} {f : EthFrame} (hs : s₀.Keeps s) : s₀.Keeps (s.admitAt q c f).2 := by
  unfold State.admitAt
  split
  · exact .inc hs
  · split
    · exact .setSwQueue hs
    · exact .inc hs

theorem admitFrame {e : Egress} {c : Nat} {f : EthFrame} (hs : s₀.Keeps s) : s₀.Keeps (s.admitFrame e c f).2 := by
  unfold State.admitFrame
  split
  next hq =>
    have hu := of_eq hq (.foldlPair hs .admitAt)
    split
    · exact .ringSend hu
    · exact hu

theorem forward {q c : Nat} {f : EthFrame} (hs : s₀.Keeps s) : s₀.Keeps (s.forward q c f).2 := by
  unfold State.forward
  split
  · exact .when hs .inc
  · split
    next hq₂ => exact .admitFrame <| .of_eq hq₂ (.lookup hs)

theorem sampleFrame {m : Nat} {bytes : List Byte} {x : Stamp} (hs : s₀.Keeps s) : s₀.Keeps (s.sampleFrame m bytes x) := by
  unfold State.sampleFrame
  split
  · dsimp only
    split
    · split
      · next hq₃ => exact .of_eq hq₃ (.admitAt <| .frame hs)
      · next hq₃ => exact .leaf <| .of_eq hq₃ (.admitAt <| .frame hs)
    · exact .frame hs
  · exact hs

theorem pauseFor {m time : Nat} (hs : s₀.Keeps s) : s₀.Keeps (s.pauseFor m time) := .frame <| .setB <| .inc hs

theorem macControl {m : Nat} {f : List Byte} (hs : s₀.Keeps s) : s₀.Keeps (s.macControl m f) := .ite (.pauseFor hs) (.inc hs)

theorem goodFrame {m ago : Nat} {bytes : List Byte} (hs : s₀.Keeps s) : s₀.Keeps (s.goodFrame m ago bytes) := by
  unfold State.goodFrame
  exact .ite (.macControl <| .sampleFrame hs) (.forward <| .when (.sampleFrame hs) .frame)

theorem frameIn {m ago : Nat} {bytes : List Byte} {cut : Bool} (hs : s₀.Keeps s) : s₀.Keeps (s.frameIn m ago bytes cut) := by
  unfold State.frameIn
  split
  · exact .inc hs
  · exact .inc hs
  · exact .inc hs
  · exact .inc hs
  · exact .goodFrame hs

theorem gateSwap {m : Nat} (hs : s₀.Keeps s) : s₀.Keeps (s.gateSwap m) := .ite (.leaf hs) (.setB hs)

theorem gateDrops {m c fuel : Nat} (hs : s₀.Keeps s) : s₀.Keeps (s.gateDrops m c fuel) := by
  induction fuel generalizing s with
  | zero => exact hs
  | succ fuel ih =>
    unfold State.gateDrops
    split
    · exact .ite (ih hs.setSwQueue.inc.leaf) hs
    · exact hs

theorem sendFrame {m : Nat} {f : EthFrame} (hs : s₀.Keeps s) : s₀.Keeps (s.sendFrame m f) := .emit <| .frame hs

theorem setLink {m : Nat} {up : Bool} (hs : s₀.Keeps s) : s₀.Keeps (s.setLink m up) :=
  .ite hs (.when (.leaf <| .setB hs) .flushPort)

theorem advertise {m : Nat} (hs : s₀.Keeps s) : s₀.Keeps (s.advertise m) := .when hs .emit

theorem macEnable {m : Nat} {on : Bool} (hs : s₀.Keeps s) : s₀.Keeps (s.macEnable m on) := .ite (.setB hs) (.setLink <| .setB hs)

theorem setRingContext {h c : Nat} {x : Option RingFrame} (hs : s₀.Keeps s) : s₀.Keeps (s.setRingContext h c x) := .frame hs

theorem dropPartial {h c : Nat} (hs : s₀.Keeps s) : s₀.Keeps (s.dropPartial h c) := by
  unfold State.dropPartial
  split
  · exact .leaf <| .inc <| .setRingContext hs
  · exact hs

theorem ringFrameTest {h c : Nat} {last : Bool} {x : RingFrame} (hs : s₀.Keeps s) : s₀.Keeps (s.ringFrameTest h c last x) := by
  unfold State.ringFrameTest
  exact .ite (.setRingContext hs) (.ite (.forward <| .setRingContext <| .setRingContext hs) (.dropPartial <| .setRingContext hs))

theorem ringCell {h : Nat} {cell : List Byte} (hs : s₀.Keeps s) : s₀.Keeps (s.ringCell h cell) := by
  unfold State.ringCell
  split
  · exact .dropPartial <| .leaf <| .inc hs
  · dsimp only
    split
    · exact .ringFrameTest <| .dropPartial hs
    · split
      · exact .ite (.ringFrameTest hs) (.dropPartial hs)
      · exact hs

theorem segEgress {d : List Byte} (hs : s₀.Keeps s) : s₀.Keeps (s.segEgress d).2 := by
  unfold State.segEgress
  split
  · exact hs
  · dsimp only
    exact .lookup hs

theorem segGo (hs : s₀.Keeps s) : s₀.Keeps s.segGo := by
  unfold State.segGo
  split
  · exact .leaf hs
  · dsimp only
    split
    · exact .leaf <| .setB <| .wr <| .segEgress hs
    · exact .each (.setB <| .wr <| .segEgress hs) fun h => by
        split <;> next hq₁ => exact .inc <| .of_eq hq₁ (.admitFrame h)

end State.Keeps

namespace State.Leads

theorem frameReceived (s : State) {m ago : Nat} {bytes : List Byte} {cut : Bool} :
    s.Leads (execFrameReceived m ago bytes cut s) := by
  unfold execFrameReceived
  exact .unlessDown <| .next <| .when .cleared .frameIn

theorem pauseFrame (s : State) {m ago : Nat} {bytes : List Byte} : s.Leads (execPauseFrame m ago bytes s) := by
  unfold execPauseFrame
  exact .unlessDown <| .next <| .when .cleared .frameIn

theorem pauseExpiry (s : State) {m : Nat} : s.Leads (execPauseExpiry m s) := by
  unfold execPauseExpiry
  exact .unlessDown <| .next <| .when .cleared fun h => .frame <| .setB h

theorem gateIntervalChange (s : State) {m : Nat} : s.Leads (execGateIntervalChange m s) := by
  unfold execGateIntervalChange
  refine .unlessDown ?_
  dsimp only
  split
  · exact .next <| .frame .cleared
  · exact .next .cleared

theorem gateSwapApply (s : State) {m : Nat} : s.Leads (execGateSwapApply m s) := by
  unfold execGateSwapApply
  exact .unlessDown <| .next <| .when .cleared fun h => .frame <| .set <| .setB h

theorem frameTransmit (s : State) {m : Nat} : s.Leads (execFrameTransmit m s) := by
  unfold execFrameTransmit
  refine .unlessDown ?_
  dsimp only
  split
  · exact .next .cleared
  · split
    · split
      · split
        · exact .next <| .sendFrame <| .setSwQueue <| .each .cleared .gateDrops
        · exact .next <| .each .cleared .gateDrops
      · exact .next <| .each .cleared .gateDrops
    · split
      · split
        · split
          · exact .next <| .emit <| .setSwQueue .cleared
          · exact .next .cleared
        · exact .next .cleared
      · exact .next .cleared

theorem linkChange (s : State) {m : Nat} {up : Bool} {rate : Nat} : s.Leads (execLinkChange m up rate s) := by
  unfold execLinkChange
  exact .unlessDown <| .ite (.ite (.next <| .when .cleared fun h => .setLink <| .set h)
      (.next <| .when (.setLink .cleared) .advertise)) (.next .cleared)

theorem ringFrameCell (s : State) {c : Nat} : s.Leads (execRingFrameCell c s) := by
  unfold execRingFrameCell
  refine .unlessDown ?_
  dsimp only
  split
  · split
    · next hq₃ => exact .next <| .ringCell <| .of_eq hq₃ (.dequeue .cleared)
    · next hq₃ => exact .next <| .of_eq hq₃ (.dequeue .cleared)
  · exact .next .cleared

theorem ringFrameTimeout (s : State) {src c : Nat} : s.Leads (execRingFrameTimeout src c s) := by
  unfold execRingFrameTimeout
  refine .unlessDown ?_
  dsimp only
  split
  · exact .next <| .leaf <| .inc <| .setRingContext .cleared
  · exact .next .cleared

theorem segmentationJobEnd (s : State) : s.Leads (execSegmentationJobEnd s) := by
  unfold execSegmentationJobEnd
  exact .unlessDown <| .next <| .when .cleared fun h => .leaf <| .setB h

theorem hubControllerFrameSend (s : State) {bytes : List Byte} {c : Nat} : s.Leads (execHubControllerFrameSend bytes c s) := by
  unfold execHubControllerFrameSend
  exact .unlessDown <| .next <| .when .cleared .forward

end State.Leads

end Sys2Proof.Machine

end

section

/-! Resets (Machine/Reset). -/

namespace Sys2Proof.Machine

namespace State.Keeps

variable {s₀ s : State}

theorem permitDrop {kinds : List PermitKind} (hs : s₀.Keeps s) : s₀.Keeps (s.permitDrop kinds) := .permitExamine <| .frame hs

theorem calibrate {unit : Nat} (hs : s₀.Keeps s) : s₀.Keeps (s.calibrate unit).2 := by
  unfold State.calibrate
  dsimp only
  exact .when (.drawn hs) .leaf

theorem hopperRestart {keepCause : Bool} (hs : s₀.Keeps s) : s₀.Keeps (s.hopperRestart keepCause) := by
  unfold State.hopperRestart
  exact .permitDrop <| .chipFrame <| .set <| .set <| .clearRegs hs

theorem ethRestart (hs : s₀.Keeps s) : s₀.Keeps s.ethRestart := by
  unfold State.ethRestart
  exact .frame <| .calibrate <| .frame <| .clearRegs hs

theorem canRestart (hs : s₀.Keeps s) : s₀.Keeps s.canRestart := by
  unfold State.canRestart
  exact .frame <| .calibrate <| .frame <| .clearRegs hs

theorem hopperStarts {keepCause : Bool} (hs : s₀.Keeps s) : s₀.Keeps (s.hopperStarts keepCause) := by
  unfold State.hopperStarts
  exact .frame <| .calibrate <| .hopperRestart hs

theorem ringTimeRestart (hs : s₀.Keeps s) : s₀.Keeps s.ringTimeRestart := by
  unfold State.ringTimeRestart
  exact .permitDrop <| .frame <| .clearRegs hs

theorem ringStarts (hs : s₀.Keeps s) : s₀.Keeps s.ringStarts := by
  unfold State.ringStarts
  exact .frame <| .calibrate hs

theorem pairLow (hs : s₀.Keeps s) : s₀.Keeps s.pairLow := .frame hs

theorem coldReset {pos : Nat} (hs : s₀.Keeps s) : s₀.Keeps (s.coldReset pos) := by
  unfold State.coldReset
  exact .pairLow <| .set <| .set <| .set <| .canRestart <| .ethRestart <| .each
      (.chipFrame <| .ringStarts <| .ringTimeRestart <| .hopperStarts <| .each (.frame hs) .benchRestart) .benchRelease

theorem powerOnReset {pos tmode : Nat} (hs : s₀.Keeps s) : s₀.Keeps (s.powerOnReset pos tmode) := by
  unfold State.powerOnReset
  exact .chipFrame <| .set <| .set <| .coldReset <| .setB <| .clearRegs <| .frame hs

theorem leaveRing (hs : s₀.Keeps s) : s₀.Keeps s.leaveRing := .ite (.frame <| .setPhase <| .leaveIntegration hs) hs

theorem warmNow (hs : s₀.Keeps s) : s₀.Keeps s.warmNow := by
  unfold State.warmNow
  exact .pairLow <| .set <| .set <| .canRestart <| .ethRestart <| .each
      (.hopperStarts <| .each (.each (.leaveRing <| .permitDrop hs) .fwDriveWrite) .benchRestart) .benchRelease

theorem warmWrite (hs : s₀.Keeps s) : s₀.Keeps s.warmWrite := by
  unfold State.warmWrite
  exact .ite hs (.ite (.chipFrame hs) (.warmNow hs))

theorem kick (hs : s₀.Keeps s) : s₀.Keeps s.kick := .chipFrame hs

theorem reload (hs : s₀.Keeps s) : s₀.Keeps s.reload := by
  unfold State.reload
  exact .ite (.canRestart <| .ethRestart <| .each (.ringStarts <| .wr hs) .benchRelease) hs

theorem flashCommand {op : Nat} (hs : s₀.Keeps s) : s₀.Keeps (s.flashCommand op) :=
  .ite hs (.ite (.setB hs) (.chipFrame <| .setB <| .setB hs))

theorem testUnlock (hs : s₀.Keeps s) : s₀.Keeps s.testUnlock := .ite (.setB hs) (.leaf hs)

theorem pcieLink {up : Bool} (hs : s₀.Keeps s) : s₀.Keeps (s.pcieLink up) := .ite hs (.leaf <| .chipFrame hs)

theorem pcieReset (hs : s₀.Keeps s) : s₀.Keeps s.pcieReset := .chipFrame hs

end State.Keeps

namespace State.Leads

theorem resetN (s : State) {lowNs pos : Nat} : s.Leads (execResetN lowNs pos s) := by
  unfold execResetN
  exact .unlessDown <| .ite (.next <| .coldReset .cleared) (.next <| .ite (.coldReset <| .drawn .cleared) (.drawn .cleared))

theorem ringReady (s : State) : s.Leads (execRingReady s) := by
  unfold execRingReady
  exact .unlessDown <| .ite (.next <| .chipFrame <| .setB <| .set <| .each (.each .cleared fun h => .when h .permitAsk) fun h =>
      .startInstances <| .setB h) (.next .cleared)

theorem controllerWatchdogExpiry (s : State) : s.Leads (execControllerWatchdogExpiry s) := by
  unfold execControllerWatchdogExpiry
  exact .unlessDown <| .next <| .when .cleared .raiseFault

theorem refclkLoss (s : State) : s.Leads (execRefclkLoss s) := .next <| .when .cleared fun h => .raiseFault <| .leaf h

theorem faultPairSwap (s : State) : s.Leads (execFaultPairSwap s) := by
  unfold execFaultPairSwap
  exact .ite (.next <| .frame .cleared) (.next <| .frame .cleared)

theorem flashOperationEnd (s : State) {ok : Bool} : s.Leads (execFlashOperationEnd ok s) := by
  unfold execFlashOperationEnd
  refine .unlessDown ?_
  dsimp only
  split
  · exact .next .cleared
  · split
    · exact .next <| .ite (.permitExamine <| .updRefuse .cleared) .cleared
    · split
      · exact .next <| .setB <| .setB <| .chipFrame .cleared
      · split
        · exact .next <| .each (.setB <| .setB <| .chipFrame .cleared) .wr
        · exact .next <| .setFlash (.setB <| .setB <| .chipFrame .cleared) smWf_flashProgram
        · exact .next <| .setFlash (.setB <| .setB <| .chipFrame .cleared) smWf_flashErase

theorem journalEraseComplete (s : State) : s.Leads (execJournalEraseComplete s) := by
  unfold execJournalEraseComplete
  exact .unlessDown <| .ite (.next <| .frame <| .setFlash .cleared smWf_flashErase) (.next .cleared)

theorem pciePerst (s : State) {low : Bool} : s.Leads (execPciePerst low s) := by
  unfold execPciePerst
  exact .next <| .when (.chipFrame .cleared) fun h => .pcieReset <| .pcieLink h

theorem pcieLinkChange (s : State) {up : Bool} : s.Leads (execPcieLinkChange up s) := by
  unfold execPcieLinkChange
  exact .next <| .ite .cleared (.pcieLink .cleared)

end State.Leads

end Sys2Proof.Machine

end

section

/-! What registers read as (Machine/Live). -/

namespace Sys2Proof.Machine

namespace State.Keeps

variable {s₀ s : State}

theorem setLatched {p : Sys2Proof.Path} {lowAddr : Nat} {v : Option Nat} (hs : s₀.Keeps s) : s₀.Keeps (s.setLatched p lowAddr v) :=
  .chipFrame hs

theorem setHeldLow {p : Sys2Proof.Path} {lowAddr : Nat} {v : Option Nat} (hs : s₀.Keeps s) : s₀.Keeps (s.setHeldLow p lowAddr v) :=
  .chipFrame hs

theorem pairReadEffect {r : Reg} {ix : List Nat} (hs : s₀.Keeps s) : s₀.Keeps (s.pairReadEffect r ix) := by
  unfold State.pairReadEffect
  split
  · exact .stampRead hs
  · exact .ite (.captureRead hs) hs
  · exact hs

theorem readReg {p : Path} {r : Reg} {ix : List Nat} {v : Nat} {u : State} (hs : s₀.Keeps s) (hu : s.readReg p r ix = some (v, u)) :
    s₀.Keeps u := by
  unfold State.readReg at hu
  dsimp only at hu
  split at hu
  · exact hs.mboxTake hu
  · split at hu
    · cases hu
      exact hs.setLatched.pairReadEffect
    · split at hu <;> cases hu <;> exact hs
    · cases hu
      exact hs

end State.Keeps

end Sys2Proof.Machine

end

section

/-! Register writes (Machine/RegWrite). -/

namespace Sys2Proof.Machine

namespace State.Keeps

variable {s₀ s : State}

theorem storeWord {p : Sys2Proof.Path} {locked : Bool} {r : Reg} {ix : List Nat} {w : Nat} (hs : s₀.Keeps s) :
    s₀.Keeps (s.storeWord p locked r ix w) := by
  unfold State.storeWord
  exact .when (.when (.wr hs) fun h => by
  split
  · exact .leaf h
  · exact h) .leaf

theorem ownersChanged {old : Machine.State} {b q : Nat} (hs : s₀.Keeps s) : s₀.Keeps (s.ownersChanged old b q) :=
  .each hs fun h => .ite h (.onSett h)

theorem selectAll {w : Nat} (hs : s₀.Keeps s) : s₀.Keeps (s.selectAll w) := .selectDomain <| .each hs .selectDomain

theorem hringEnable {r : Nat} (hs : s₀.Keeps s) : s₀.Keeps (s.hringEnable r) := by
  unfold State.hringEnable
  exact .when (.setRing <| .wr <| .wr hs) .recovered

theorem bistStart {b : Nat} (hs : s₀.Keeps s) : s₀.Keeps (s.bistStart b) := by
  unfold State.bistStart
  exact .permitAsk <| .set <| .set <| .wr hs

theorem chunkGo (hs : s₀.Keeps s) : s₀.Keeps s.chunkGo := by
  unfold State.chunkGo
  exact .ite (.permitExamine <| .updRefuse hs) (.ite (.permitExamine <| .chunkConsume <| .frame <| .setB hs)
      (.permitAsk <| .frame <| .setB hs))

theorem canWritten {n w : Nat} (hs : s₀.Keeps s) : s₀.Keeps (s.canWritten n w) := by
  unfold State.canWritten
  exact .when (.when (.canWantAwake <| .ite (.canEnable hs) (.canDisable hs)) .canRecover) .canSleepNow

theorem afterWrite {old : Machine.State} {p : Sys2Proof.Path} {locked : Bool} {r : Reg} {ix : List Nat}
    {w : Nat} (hs : s₀.Keeps s) : s₀.Keeps (s.afterWrite old p locked r ix w) := by
  unfold State.afterWrite
  split
  · exact .when hs .announceHandoff
  · exact .settCommand hs
  · exact .groupWrite hs
  · exact .ownersChanged hs
  · exact .padWritten hs
  · exact .when (.when (.when hs .clearFilter) .coefficientsApply) .burstAsk
  · exact .cmpFollow hs
  · exact .when hs .burstAsk
  · exact .when hs .permitAsk
  · exact .frame hs
  · exact .when hs .hringEnable
  · exact .timeSnap hs
  · exact .selectAll hs
  · exact .ite hs (.checkSources <| .showSource hs)
  · exact .ite (.ppsSettle <| .when hs .capture) (.selectDomain <| .ppsSettle <| .when hs .capture)
  · exact .selectDomain hs
  · exact .selectDomain hs
  · exact .when (.macEnable hs) .advertise
  · exact .frame hs
  · exact .when hs .gateSwap
  · exact .when hs .segGo
  · exact .canWritten hs
  · exact .twinRefreshAll hs
  · exact .twinRefreshAll hs
  · exact .twinRefreshAll hs
  · exact .frame hs
  · exact .when hs .fuseBurn
  · exact .when hs .submitWindow
  · exact .when (.when hs .kick) .raiseFault
  · exact .when hs .warmWrite
  · exact .when hs .reload
  · exact .flashCommand hs
  · exact .chunkGo hs
  · exact .when hs .bistStart
  · exact .testUnlock hs
  · exact .permitExamine <| .permitJudge hs
  · exact hs

theorem leavesClear {w mask : Nat} (hs : s₀.Keeps s) : s₀.Keeps (s.leavesClear w mask) := .each hs fun h => .when h .leafClear

theorem writeReg {p : Path} {r : Reg} {ix : List Nat} {w : Nat} {u : State} (hs : s₀.Keeps s) (hu : s.writeReg p r ix w = some u) :
    s₀.Keeps u := by
  have hplain : s₀.Keeps ((s.storeWord p (s.lockedFor p) r ix w).afterWrite s p (s.lockedFor p) r ix w) := .afterWrite <|
      .storeWord hs
  have hthreshold {release : Bool} : s₀.Keeps (match s.thresholdWrite (ix.getD 0 0) (ix.getD 1 0) release w with
      | some t => t
      | none => s.leaf (benchLeaf (ix.getD 0 0) 15)) := by
    split
    · next ht => exact .thresholdWrite hs ht
    · exact .leaf hs
  unfold State.writeReg at hu
  dsimp only at hu
  split at hu
  case h_1 => exact .mboxAppend hs hu
  case h_4 =>
    split at hu
    · cases hu
      exact .timeMeasurement <| .setHeldLow hs
    · cases hu
  all_goals cases hu
  · exact .injectWrite hs
  · exact .setHeldLow hs
  · exact hthreshold
  · exact hthreshold
  · exact .fwDriveWrite hs
  · exact .ite hs hplain
  · exact .healthWrite hs
  · exact .leavesClear hs
  · exact .wr hs
  · exact .ite (.leaf hs) hplain
  · exact .ite (.wr <| .wr hs) hs
  · exact .ite (.wr <| .wr hs) hs
  · exact hplain

end State.Keeps

end Sys2Proof.Machine

end

section

/-! Judged accesses (Machine/Access). -/

namespace Sys2Proof.Machine

namespace State.Keeps

variable {s₀ s : State}

theorem faceViolation {p : Sys2Proof.Path} {owner addr : Nat} {write : Bool} (hs : s₀.Keeps s) :
    s₀.Keeps (s.faceViolation p owner addr write) :=
  .leaf <| .ite (.inc hs) (.wr <| .wr hs)

theorem postedRefusal {p : Sys2Proof.Path} {reason addr : Nat} (hs : s₀.Keeps s) : s₀.Keeps (s.postedRefusal p reason addr) := by
  unfold State.postedRefusal
  split
  · exact .accessRecord hs
  · exact .accessRecord hs
  · exact hs

theorem deny {p : Sys2Proof.Path} {addr : Nat} {write : Bool} {d : Denial} (hs : s₀.Keeps s) :
    s₀.Keeps (s.deny p addr write d) := by
  unfold State.deny
  split
  · exact .ite (.postedRefusal <| .addressLeaf hs) (.addressLeaf hs)
  · exact .ite (.postedRefusal hs) hs
  · exact .ite (.postedRefusal hs) hs
  · exact .faceViolation hs

theorem holeSeen {p : Sys2Proof.Path} {addr : Nat} (hs : s₀.Keeps s) : s₀.Keeps (s.holeSeen p addr) := by
  unfold State.holeSeen
  split
  · dsimp only
    split
    · exact .wr <| .addressLeaf hs
    · exact .addressLeaf hs
  · exact hs

theorem readShown {p : Path} {addr shown : Nat} (hs : s₀.Keeps s) : s₀.Keeps (s.readShown p addr shown).2 := by
  unfold State.readShown
  split
  · split
    · exact .deny hs
    · exact .holeSeen hs
  · split
    · exact .deny hs
    · split
      · next hu => exact .readReg hs hu
      · exact .deny hs

theorem read32 {p : Sys2Proof.Path} {addr : Nat} (hs : s₀.Keeps s) : s₀.Keeps (s.read32 p addr).2 := .readShown hs

theorem write32 {p : Path} {addr w : Nat} (hs : s₀.Keeps s) : s₀.Keeps (s.write32 p addr w).2 := by
  unfold State.write32
  split
  · split
    · exact .deny hs
    · exact .holeSeen hs
  · split
    · exact .deny hs
    · split
      · next hu => exact .writeReg hs hu
      · exact .deny hs

theorem readNarrow {p : Sys2Proof.Path} {n addr : Nat} (hs : s₀.Keeps s) : s₀.Keeps (s.readNarrow p n addr).2 := by
  unfold State.readNarrow
  dsimp only
  split
  · split
    · exact .deny hs
    · exact .readShown hs
  · exact .readShown hs

theorem answerRead {p : Path} {addr : Nat} {x : Option Nat × State} (hx : s₀.Keeps x.2) : s₀.Keeps (State.answerRead p addr x) := by
  unfold State.answerRead
  split
  · exact hx.emit
  · exact hx.emit

theorem answerWrite {p : Path} {addr : Nat} {x : Bool × State} (hx : s₀.Keeps x.2) : s₀.Keeps (State.answerWrite p addr x) :=
  .ite hx hx.emit

theorem busRead {p : Sys2Proof.Path} {w : Width} {addr : Nat} (hs : s₀.Keeps s) : s₀.Keeps (s.busRead p w addr) := by
  unfold State.busRead
  split
  · exact .answerRead <| .deny hs
  · split
    · exact .answerRead <| .readNarrow hs
    · exact .answerRead <| .readNarrow hs
    · exact .answerRead <| .read32 hs
    · exact .answerRead <| .read32 <| .answerRead <| .read32 hs

theorem busWrite {p : Sys2Proof.Path} {w : Width} {addr val : Nat} (hs : s₀.Keeps s) : s₀.Keeps (s.busWrite p w addr val) := by
  unfold State.busWrite
  exact .ite (.answerWrite <| .deny hs) (.ite (.answerWrite <| .write32 <| .answerWrite <| .write32 hs)
      (.answerWrite <| .write32 hs))

theorem pathWrite {p : Sys2Proof.Path} {w : Width} {addr val : Nat} (hs : s₀.Keeps s) : s₀.Keeps (s.pathWrite p w addr val) :=
  .ite (.busWrite hs) hs

theorem pathRead {p : Sys2Proof.Path} {w : Width} {addr : Nat} (hs : s₀.Keeps s) : s₀.Keeps (s.pathRead p w addr) :=
  .ite (.busRead hs) hs

theorem putReg {p : Sys2Proof.Path} {r : Reg} {ix : List Nat} {val : Nat} (hs : s₀.Keeps s) : s₀.Keeps (s.putReg p r ix val) :=
  .pathWrite hs

theorem putBits {p : Sys2Proof.Path} {r : Reg} {ix : List Nat} {mask bits : Nat} (hs : s₀.Keeps s) :
    s₀.Keeps (s.putBits p r ix mask bits) :=
  .putReg hs

end State.Keeps

end Sys2Proof.Machine

end

section

/-! Commands that are register accesses (Machine/Bus). -/

namespace Sys2Proof.Machine

namespace State.Keeps

variable {s₀ s : State}

theorem fabricWrite {p : Sys2Proof.Path} {w : Width} {hub addr val : Nat} (hs : s₀.Keeps s) :
    s₀.Keeps (s.fabricWrite p w hub addr val) :=
  .ite (.busWrite hs) (.issueWrite hs)

theorem fabricRead {p : Sys2Proof.Path} {w : Width} {hub addr : Nat} (hs : s₀.Keeps s) : s₀.Keeps (s.fabricRead p w hub addr) :=
  .ite (.busRead hs) (.bridgeTurn <| .issuePathRead hs)

theorem bar2 {write : Bool} {w : Width} {off val : Nat} (hs : s₀.Keeps s) : s₀.Keeps (s.bar2 write w off val) := by
  unfold State.bar2
  exact .ite hs (.ite (.fabricWrite hs) (.fabricRead hs))

theorem bar2Read {off : Nat} (hs : s₀.Keeps s) : s₀.Keeps (s.bar2Read off) := by
  unfold State.bar2Read
  exact .ite (.bar2 hs) (.issuePathRead hs)

theorem longAccess {bar2 write : Bool} {addr n : Nat} {data : List Nat} (hs : s₀.Keeps s) :
    s₀.Keeps (s.longAccess bar2 write addr n data) := by
  induction n generalizing s addr data with
  | zero => exact hs
  | succ n ih => exact ih (.ite (.ite (.bar2 hs) (.bar2Read hs)) (.ite (.pathWrite hs) (.pathRead hs)))

theorem spiPut {addr val : Nat} (hs : s₀.Keeps s) : s₀.Keeps (s.spiPut addr val).2 := by
  unfold State.spiPut
  split
  · exact .write32 hs
  · exact .ite (.deny hs) hs

theorem guardedWords {r : List Byte} {ok : Bool} {is : List Nat} (hs : s₀.Keeps s) : s₀.Keeps (s.guardedWords r ok is).2 := by
  induction is generalizing s ok with
  | nil => exact hs
  | cons i is ih =>
    unfold State.guardedWords
    dsimp only
    split
    · exact ih (.deny hs)
    · exact ih (.write32 hs)

theorem dropLatches {p : Sys2Proof.Path} (hs : s₀.Keeps s) : s₀.Keeps (s.dropLatches p) := .chipFrame hs

end State.Keeps

namespace State.Leads

theorem registerWrite (s : State) {p : Sys2Proof.Path} {w : Width} {addr val : Nat} : s.Leads (execRegisterWrite p w addr val s) :=
  .next <| .pathWrite .cleared

theorem registerRead (s : State) {p : Sys2Proof.Path} {w : Width} {addr : Nat} : s.Leads (execRegisterRead p w addr s) :=
  .next <| .pathRead .cleared

theorem pairLowRead (s : State) {p : Sys2Proof.Path} {addr : Nat} : s.Leads (execPairLowRead p addr s) :=
  .next <| .pathRead .cleared

theorem pairHighRead (s : State) {p : Sys2Proof.Path} {addr : Nat} : s.Leads (execPairHighRead p addr s) :=
  .next <| .pathRead .cleared

theorem pairLowWrite (s : State) {p : Sys2Proof.Path} {addr val : Nat} : s.Leads (execPairLowWrite p addr val s) :=
  .next <| .pathWrite .cleared

theorem pairHighWrite (s : State) {p : Sys2Proof.Path} {addr val : Nat} : s.Leads (execPairHighWrite p addr val s) :=
  .next <| .pathWrite .cleared

theorem bar2Access (s : State) {write : Bool} {w : Width} {off val : Nat} : s.Leads (execBar2Access write w off val s) :=
  .next <| .bar2 .cleared

theorem pcieLongTransaction (s : State) {bar2 write : Bool} {addr n : Nat} {data : List Nat} :
    s.Leads (execPcieLongTransaction bar2 write addr n data s) := by
  unfold execPcieLongTransaction
  exact .next <| .when (.longAccess .cleared) .bridgeTurn

theorem spiRead (s : State) {addr : Nat} : s.Leads (execSpiRead addr s) := by
  unfold execSpiRead
  refine .unlessDown ?_
  split
  · exact .next <| .emit <| .drawn <| .ite (.deny .cleared) .cleared
  · dsimp only
    split
    · next hq₃ => exact .next <| .emit <| .of_eq hq₃ (.read32 .cleared)
    · next hq₃ => exact .next <| .emit <| .drawn <| .of_eq hq₃ (.read32 .cleared)

theorem spiWrite (s : State) {addr val : Nat} : s.Leads (execSpiWrite addr val s) := by
  unfold execSpiWrite
  exact .unlessDown <| .next <| .emit <| .spiPut .cleared

theorem spiOtherCommand (s : State) {cmd : Nat} : s.Leads (execSpiOtherCommand cmd s) := by
  unfold execSpiOtherCommand
  exact .unlessDown <| .next <| .ite .cleared (.leaf .cleared)

theorem spiCsRelease (s : State) {write : Bool} {addrBytes addr dataBytes val : Nat} :
    s.Leads (execSpiCsRelease write addrBytes addr dataBytes val s) := by
  unfold execSpiCsRelease
  refine .unlessDown ?_
  split
  · exact .next .cleared
  · split
    · exact .next <| .ite .cleared (.spiPut .cleared)
    · split
      · dsimp only
        split
        · exact .next <| .ite (.read32 .cleared) .cleared
        · exact .next .cleared
      · exact .next .cleared

theorem transitOnlyWrite (s : State) {p : Sys2Proof.Path} {on : Bool} : s.Leads (execTransitOnlyWrite p on s) :=
  .next <| .putBits .cleared

theorem handoff (s : State) {p : Sys2Proof.Path} : s.Leads (execHandoff p s) := .next <| .putBits .cleared

theorem shotFwDriveWrite (s : State) {p : Sys2Proof.Path} {i val : Nat} : s.Leads (execShotFwDriveWrite p i val s) :=
  .next <| .putReg .cleared

theorem settStart (s : State) {p : Sys2Proof.Path} {b k : Nat} : s.Leads (execSettStart p b k s) := .next <| .putBits .cleared

theorem settStop (s : State) {p : Sys2Proof.Path} {b k : Nat} : s.Leads (execSettStop p b k s) := .next <| .putBits .cleared

theorem settReset (s : State) {p : Sys2Proof.Path} {b k : Nat} : s.Leads (execSettReset p b k s) := .next <| .putBits .cleared

theorem groupStart (s : State) {p : Sys2Proof.Path} {b : Nat} {atRound : Bool} : s.Leads (execGroupStart p b atRound s) :=
  .next <| .putReg .cleared

theorem groupStop (s : State) {p : Sys2Proof.Path} {b : Nat} {atRound : Bool} : s.Leads (execGroupStop p b atRound s) :=
  .next <| .putReg .cleared

theorem groupReset (s : State) {p : Sys2Proof.Path} {b : Nat} {atRound : Bool} : s.Leads (execGroupReset p b atRound s) :=
  .next <| .putReg .cleared

theorem settProgWrite (s : State) {p : Sys2Proof.Path} {b k n val : Nat} : s.Leads (execSettProgWrite p b k n val s) :=
  .next <| .putReg .cleared

theorem settInject (s : State) {p : Sys2Proof.Path} {b k val : Nat} : s.Leads (execSettInject p b k val s) :=
  .next <| .putReg .cleared

theorem stampLowRead (s : State) {p : Sys2Proof.Path} {b k : Nat} : s.Leads (execStampLowRead p b k s) :=
  .next <| .pathRead .cleared

theorem mboxInWrite (s : State) {p : Sys2Proof.Path} {b k val : Nat} : s.Leads (execMboxInWrite p b k val s) :=
  .next <| .putReg .cleared

theorem mboxOutRead (s : State) {p : Sys2Proof.Path} {b k : Nat} : s.Leads (execMboxOutRead p b k s) := .next <| .pathRead .cleared

theorem descriptorTableWrite (s : State) {p : Sys2Proof.Path} {b off val : Nat} :
    s.Leads (execDescriptorTableWrite p b off val s) :=
  .next <| .pathWrite .cleared

theorem coefficientApply (s : State) {p : Sys2Proof.Path} {b c : Nat} : s.Leads (execCoefficientApply p b c s) :=
  .next <| .putBits .cleared

theorem comparatorThresholdWrite (s : State) {p : Sys2Proof.Path} {b m : Nat} {release : Bool} {val : Nat} :
    s.Leads (execComparatorThresholdWrite p b m release val s) :=
  .next <| .putReg .cleared

theorem endpointFreezeWrite (s : State) {p : Sys2Proof.Path} {k val : Nat} : s.Leads (execEndpointFreezeWrite p k val s) :=
  .next <| .putReg .cleared

theorem queueSnapshot (s : State) {p : Sys2Proof.Path} {q : Nat} : s.Leads (execQueueSnapshot p q s) := .next <| .putReg .cleared

theorem scrubBurstRequest (s : State) {p : Sys2Proof.Path} : s.Leads (execScrubBurstRequest p s) := .next <| .putBits .cleared

theorem hostRingEnable (s : State) {p : Sys2Proof.Path} {r cfg : Nat} : s.Leads (execHostRingEnable p r cfg s) :=
  .next <| .putReg .cleared

theorem hostRingDisable (s : State) {p : Sys2Proof.Path} {r : Nat} : s.Leads (execHostRingDisable p r s) :=
  .next <| .putBits .cleared

theorem hostRingTailWrite (s : State) {p : Sys2Proof.Path} {r tail : Nat} : s.Leads (execHostRingTailWrite p r tail s) :=
  .next <| .putReg .cleared

theorem timeSnapshot (s : State) {p : Sys2Proof.Path} : s.Leads (execTimeSnapshot p s) := .next <| .putReg .cleared

theorem timeMeasurementWrite (s : State) {p : Sys2Proof.Path} {d : Dom} {lo hi : Nat} :
    s.Leads (execTimeMeasurementWrite p d lo hi s) :=
  .next <| .putReg <| .putReg .cleared

theorem captureNow (s : State) {p : Sys2Proof.Path} : s.Leads (execCaptureNow p s) := .next <| .putBits .cleared

theorem macEnableWrite (s : State) {p : Sys2Proof.Path} {m : Nat} {on : Bool} : s.Leads (execMacEnableWrite p m on s) :=
  .next <| .putBits .cleared

theorem gateBankSwap (s : State) {p : Sys2Proof.Path} {m : Nat} : s.Leads (execGateBankSwap p m s) := .next <| .putBits .cleared

theorem segmentationGo (s : State) {p : Sys2Proof.Path} : s.Leads (execSegmentationGo p s) := .next <| .putReg .cleared

theorem canRecover (s : State) {p : Sys2Proof.Path} {n : Nat} : s.Leads (execCanRecover p n s) := .next <| .putBits .cleared

theorem canEnable (s : State) {p : Sys2Proof.Path} {n : Nat} : s.Leads (execCanEnable p n s) := .next <| .putBits .cleared

theorem canDisable (s : State) {p : Sys2Proof.Path} {n : Nat} : s.Leads (execCanDisable p n s) := .next <| .putBits .cleared

theorem sleepNow (s : State) {p : Sys2Proof.Path} {n : Nat} : s.Leads (execSleepNow p n s) := .next <| .putBits .cleared

theorem twinHealthWrite (s : State) {p : Sys2Proof.Path} {val : Nat} : s.Leads (execTwinHealthWrite p val s) :=
  .next <| .putReg .cleared

theorem grdSubmit (s : State) {p : Sys2Proof.Path} {w : Nat} : s.Leads (execGrdSubmit p w s) := .next <| .putBits .cleared

theorem fuseBurn (s : State) {p : Sys2Proof.Path} : s.Leads (execFuseBurn p s) := .next <| .putReg .cleared

theorem guardedRegisterWrite (s : State) : s.Leads (execGuardedRegisterWrite s) := by
  unfold execGuardedRegisterWrite
  exact .unlessDown <| .next <| .guardRun .cleared fun h => .dropLatches <| .guardedWords h

theorem chunkCommit (s : State) {p : Sys2Proof.Path} {index len : Nat} : s.Leads (execChunkCommit p index len s) :=
  .next <| .putReg .cleared

theorem causeLeafClear (s : State) {p : Sys2Proof.Path} {w val : Nat} : s.Leads (execCauseLeafClear p w val s) :=
  .next <| .putReg .cleared

theorem causeEnableWrite (s : State) {p : Sys2Proof.Path} {w val : Nat} : s.Leads (execCauseEnableWrite p w val s) :=
  .next <| .putReg .cleared

theorem watchdogKick (s : State) {p : Sys2Proof.Path} : s.Leads (execWatchdogKick p s) := .next <| .putReg .cleared

theorem faultForce (s : State) {p : Sys2Proof.Path} : s.Leads (execFaultForce p s) := .next <| .putReg .cleared

theorem warmReset (s : State) {p : Sys2Proof.Path} : s.Leads (execWarmReset p s) := .next <| .putReg .cleared

theorem configReload (s : State) {p : Sys2Proof.Path} : s.Leads (execConfigReload p s) := .next <| .putReg .cleared

theorem flashReadPage (s : State) {p : Sys2Proof.Path} : s.Leads (execFlashReadPage p s) := .next <| .putReg .cleared

theorem flashProgramPage (s : State) {p : Sys2Proof.Path} : s.Leads (execFlashProgramPage p s) := .next <| .putReg .cleared

theorem flashEraseSector (s : State) {p : Sys2Proof.Path} : s.Leads (execFlashEraseSector p s) := .next <| .putReg .cleared

theorem testUnlock (s : State) {p : Sys2Proof.Path} {val : Nat} : s.Leads (execTestUnlock p val s) := .next <| .putReg .cleared

theorem budgetWrite (s : State) {p : Sys2Proof.Path} {budget : Nat} : s.Leads (execBudgetWrite p budget s) :=
  .next <| .putBits .cleared

theorem bistGo (s : State) {p : Sys2Proof.Path} {b : Nat} : s.Leads (execBistGo p b s) := .next <| .putReg .cleared

end State.Leads

end Sys2Proof.Machine

end

section

/-! The power edge (Machine/Edge). -/

namespace Sys2Proof.Machine

namespace State.Keeps

variable {s₀ s : State}

theorem toEdge {st : Nat} (hs : s₀.Keeps s) : s₀.Keeps (s.toEdge st) := .set hs

theorem fetOff {cause : Nat} (hs : s₀.Keeps s) : s₀.Keeps (s.fetOff cause) := .ite (.set <| .setB <| .frame <| .set <| .setB hs) hs

theorem holdIslands {keepCause : Bool} (hs : s₀.Keeps s) : s₀.Keeps (s.holdIslands keepCause) := by
  unfold State.holdIslands
  extract_lets s₁ s₂ s₃
  have h₂ : s₀.Keeps s₂ := .ringTimeRestart <| .hopperRestart <| .each (.frame hs) .benchRestart
  exact .pairLow (State.Keeps.chipFrame (s := s₂.clearRegs _) (.clearRegs h₂))

theorem dropRail (hs : s₀.Keeps s) : s₀.Keeps s.dropRail := by
  unfold State.dropRail
  dsimp only
  split
  · exact .setBitOf hs
  · exact hs

theorem railsDown (hs : s₀.Keeps s) : s₀.Keeps s.railsDown := .when (.frame <| .dropRail hs) .toEdge

theorem sequenceOff (hs : s₀.Keeps s) : s₀.Keeps s.sequenceOff := .railsDown <| .toEdge hs

theorem edgeSettle (hs : s₀.Keeps s) : s₀.Keeps s.edgeSettle :=
  .ite (.toEdge hs) (.ite hs (.ite (.toEdge hs) (.ite (.frame <| .toEdge <| .fetOff hs) (.ite (.sequenceOff <| .fetOff hs) hs))))

theorem onEdge {f : State → State} (hs : s₀.Keeps s) (hf : ∀ {u}, s₀.Keeps u → s₀.Keeps (f u)) : s₀.Keeps (s.onEdge f) :=
  .ite (.clearOut hs) (hf <| .clearOut hs)

theorem showBank {mv : Nat} (hs : s₀.Keeps s) : s₀.Keeps (s.showBank mv) := .setB <| .set <| .set hs

theorem setCharge {q : Nat} (hs : s₀.Keeps s) : s₀.Keeps (s.setCharge q) := .set <| .frame hs

theorem rebase (hs : s₀.Keeps s) : s₀.Keeps s.rebase := .setCharge <| .setB hs

theorem energyAt {mv : Nat} (hs : s₀.Keeps s) : s₀.Keeps (s.energyAt mv) := by
  unfold State.energyAt
  exact .when (.showBank hs) .leaf

theorem bankSample {mv : Nat} {ih : Int} (hs : s₀.Keeps s) : s₀.Keeps (s.bankSample mv ih) := .frame hs

theorem gaugeStep (hs : s₀.Keeps s) : s₀.Keeps s.gaugeStep := .setCharge <| .frame hs

theorem foldSettle (hs : s₀.Keeps s) : s₀.Keeps s.foldSettle := .ite (.leaf <| .frame hs) hs

theorem feedAt {feedB : Bool} {mv : Nat} (hs : s₀.Keeps s) : s₀.Keeps (s.feedAt feedB mv) := by
  unfold State.feedAt
  exact .when (.when (.when (.setB <| .setB <| .set hs) .setB) .leaf) .leaf

theorem alwaysOnLost (hs : s₀.Keeps s) : s₀.Keeps s.alwaysOnLost := by
  unfold State.alwaysOnLost
  exact .frame <| .clearRegs <| .holdIslands hs

theorem damage (hs : s₀.Keeps s) : s₀.Keeps s.damage := by
  unfold State.damage
  exact .when (.frame <| .toEdge <| .leaf <| .setB <| .setB <| .setB <| .fetOff hs) .holdIslands

theorem shedLoads (hs : s₀.Keeps s) : s₀.Keeps s.shedLoads := by
  unfold State.shedLoads
  exact .set <| .pcieLink <| .each (.each (.each hs .benchOut) .macEnable) fun h => .setB <| .when h .canStop

theorem gasp {cause : Nat} (hs : s₀.Keeps s) : s₀.Keeps (s.gasp cause) := by
  unfold State.gasp
  exact .ite (.frame <| .setB <| .shedLoads <| .permitRevoke <| .raiseFault <| .leaf <| .toEdge hs) (.ite (.frame hs) hs)

theorem trip {leaf cause : Nat} (hs : s₀.Keeps s) : s₀.Keeps (s.trip leaf cause) := by
  unfold State.trip
  exact .ite (.ite (.edgeSettle <| .frame <| .toEdge <| .fetOff <| .leaf hs)
      (.ite (.edgeSettle <| .sequenceOff <| .fetOff <| .leaf hs) (.gasp <| .fetOff <| .leaf hs))) hs

theorem fetCurrent (hs : s₀.Keeps s) : s₀.Keeps s.fetCurrent.2 := by
  unfold State.fetCurrent
  split
  · exact hs
  · split
    · exact hs
    · exact .drawn hs

theorem fetAt {hot : Int} (hs : s₀.Keeps s) : s₀.Keeps (s.fetAt hot) := .ite (.trip hs) hs

theorem thermalModel (hs : s₀.Keeps s) : s₀.Keeps s.thermalModel := by
  unfold State.thermalModel
  exact .ite hs (.fetAt <| .frame <| .set <| .set <| .fetCurrent hs)

theorem retryStep (hs : s₀.Keeps s) : s₀.Keeps s.retryStep := .when hs .set

theorem edgeTick (hs : s₀.Keeps s) : s₀.Keeps s.edgeTick := by
  unfold State.edgeTick
  exact .ite hs (.when (.retryStep <| .frame hs) fun h => .thermalModel <| .gaugeStep h)

theorem sequenceSettle (hs : s₀.Keeps s) : s₀.Keeps s.sequenceSettle := .ite (.toEdge <| .powerOnReset hs) hs

theorem idle (hs : s₀.Keeps s) : s₀.Keeps s.idle := by
  unfold State.idle
  exact .edgeTick <| .when (.clearOut hs) .timeCycle

theorem bistClear {b unit : Nat} (hs : s₀.Keeps s) : s₀.Keeps (s.bistClear b unit) :=
  .when (.when (.clearRegs hs) .setBench) fun h => .each h .onSett

end State.Keeps

namespace State.Leads

theorem holdupReadyChange (s : State) {x : BankSample} : s.Leads (execHoldupReadyChange x s) :=
  .next <| .onEdge (.refl s) fun h => .foldSettle <| .energyAt <| .bankSample h

theorem capacitanceMeasured (s : State) {mv : Nat} : s.Leads (execCapacitanceMeasured mv s) := by
  unfold execCapacitanceMeasured
  exact .next <| .onEdge (.refl s) fun h => by
    split
    · exact .ite (.foldSettle <| .energyAt <| .setCharge <| .frame <| .when (.setB <| .set h) fun h1 => .leaf <| .setB h1) h
    · exact h

theorem gaugeDisagreement (s : State) : s.Leads (execGaugeDisagreement s) :=
  .next <| .onEdge (.refl s) fun h => .ite (.leaf <| .setB h) h

theorem quietPeriodEnd (s : State) : s.Leads (execQuietPeriodEnd s) := .next <| .onEdge (.refl s) fun h => .ite (.rebase h) h

theorem feedChange (s : State) {feedB : Bool} {mv : Nat} : s.Leads (execFeedChange feedB mv s) :=
  .next <| .onEdge (.refl s) fun h => .foldSettle <| .edgeSettle <| .feedAt h

theorem feedReverse (s : State) {feedB : Bool} : s.Leads (execFeedReverse feedB s) :=
  .next <| .onEdge (.refl s) fun h => .ite (.leaf <| .setB h) h

theorem coldStart (s : State) {vina vinb vhold : Nat} : s.Leads (execColdStart vina vinb vhold s) := by
  unfold execColdStart
  exact .ite (.next <| .edgeSettle <| .set <| .set <| .showBank <| .bankSample <| .ite
      (.feedAt <| .feedAt <| .alwaysOnLost .cleared) (.feedAt <| .feedAt <| .alwaysOnLost .cleared)) (.next .cleared)

theorem alwaysOnStop (s : State) : s.Leads (execAlwaysOnStop s) := by
  unfold execAlwaysOnStop
  exact .next <| .frame <| .alwaysOnLost .cleared

theorem seatingDebounced (s : State) : s.Leads (execSeatingDebounced s) := by
  unfold execSeatingDebounced
  exact .next <| .onEdge (.refl s) fun h => .ite (.frame h) h

theorem inrushStart (s : State) : s.Leads (execInrushStart s) := by
  unfold execInrushStart
  exact .next <| .onEdge (.refl s) fun h => .ite (.foldSettle <| .frame <| .setB <| .toEdge h) h

theorem inrushEnd (s : State) : s.Leads (execInrushEnd s) := by
  unfold execInrushEnd
  exact .next <| .onEdge (.refl s) fun h => .ite (.frame <| .rebase h) h

theorem inrushTimeout (s : State) : s.Leads (execInrushTimeout s) :=
  .next <| .onEdge (.refl s) fun h => .ite (.edgeSettle <| .toEdge <| .fetOff h) h

theorem gateCheckPass (s : State) : s.Leads (execGateCheckPass s) := by
  unfold execGateCheckPass
  exact .next <| .onEdge (.refl s) fun h => .ite (.set <| .toEdge <| .frame h) h

theorem gateCheckFail (s : State) : s.Leads (execGateCheckFail s) := .next <| .onEdge (.refl s) fun h => .ite (.damage h) h

theorem shortDetected (s : State) : s.Leads (execShortDetected s) := .next <| .onEdge (.refl s) fun h => .ite (.damage h) h

theorem retryExpiry (s : State) : s.Leads (execRetryExpiry s) :=
  .next <| .onEdge (.refl s) fun h => .ite (.leaf <| .set <| .setB h) h

theorem dyingGasp (s : State) {cause : Nat} : s.Leads (execDyingGasp cause s) :=
  .next <| .onEdge (.refl s) fun h => .ite (.gasp h) h

theorem fuseTrip (s : State) : s.Leads (execFuseTrip s) := .next <| .onEdge (.refl s) .trip

theorem thermalTrip (s : State) {t : Nat} : s.Leads (execThermalTrip t s) := by
  unfold execThermalTrip
  exact .next <| .onEdge (.refl s) fun h => .fetAt <| .frame <| .when (.set h) .set

theorem seatingChange (s : State) {seatB asserted : Bool} : s.Leads (execSeatingChange seatB asserted s) := by
  unfold execSeatingChange
  exact .next <| .onEdge (.refl s) fun h => .ite h (.ite (.edgeSettle <| .leaf <| .setB h)
      (.fetOff <| .ite (.gasp <| .fetOff <| .frame <| .leaf <| .setB h) (.edgeSettle <| .frame <| .leaf <| .setB h)))

theorem journalFlushEnd (s : State) {done : Bool} : s.Leads (execJournalFlushEnd done s) := by
  unfold execJournalFlushEnd
  exact .next <| .onEdge (.refl s) fun h => .ite (.toEdge <| .holdIslands <| .when h fun h1 => .leaf <| .flushJournal h1) h

theorem park (s : State) : s.Leads (execPark s) := by
  unfold execPark
  exact .next <| .onEdge (.refl s) fun h => .ite (.edgeSettle <| .railsDown <| .fetOff <| .holdIslands h) h

theorem pgoodRise (s : State) {k pos tmode : Nat} : s.Leads (execPgoodRise k pos tmode s) := by
  unfold execPgoodRise
  exact .next <| .onEdge (.refl s) fun h => .ite (.sequenceSettle <| .setBitOf <| .frame h) h

theorem railGapExpiry (s : State) : s.Leads (execRailGapExpiry s) := by
  unfold execRailGapExpiry
  exact .next <| .onEdge (.refl s) fun h => by
    split
    · exact .when (.railsDown h) .edgeSettle
    · split
      · split
        · exact .when h fun h1 => .sequenceSettle <| .setBitOf h1
        · exact h
      · exact h

theorem pgoodTimeout (s : State) : s.Leads (execPgoodTimeout s) := by
  unfold execPgoodTimeout
  exact .next <| .onEdge (.refl s) fun h => by
    split
    · split
      · exact .ite h (.edgeSettle <| .sequenceOff <| .fetOff <| .leaf <| .set h)
      · exact h
    · exact h

theorem pgoodLoss (s : State) {k : Nat} : s.Leads (execPgoodLoss k s) := by
  unfold execPgoodLoss
  exact .next <| .onEdge (.refl s) fun h => .ite (.ite (.edgeSettle <| .railsDown <| .toEdge <| .fetOff <| .holdIslands <| .set <|
      .leaf <| .setBitOf h) (.when (.setBitOf h) fun h1 => .each h1 .pinsRestart)) h

theorem bistEnd (s : State) {r : BistResult} : s.Leads (execBistEnd r s) := by
  unfold execBistEnd
  refine .unlessDown ?_
  dsimp only
  split
  · split
    · exact .next <| .permitGive <| .leaf <| .set <| .bistClear .cleared
    · exact .ite (.next <| .permitGive <| .leaf <| .set <| .set <| .set <| .bistClear .cleared) (.next .cleared)
  · exact .next .cleared

end State.Leads

end Sys2Proof.Machine

end

section

/-! Fabric accesses in slots (Machine/Fabric). -/

namespace Sys2Proof.Machine

namespace State.Keeps

variable {s₀ s : State}

theorem bridgeTake (hs : s₀.Keeps s) : s₀.Keeps s.bridgeTake := .dequeue hs

theorem cellStream {c : Cell} (hs : s₀.Keeps s) : s₀.Keeps (s.cellStream c).2 := .streamCheck hs

theorem writeWords {p : Path} {addr : Nat} {bytes : List Byte} {ks : List Nat} (hs : s₀.Keeps s) :
    s₀.Keeps (s.writeWords p addr bytes ks) := by
  induction ks generalizing s with
  | nil => exact hs
  | cons k ks ih => exact ih (.ite (.deny hs) (.write32 hs))

theorem readLanes {p : Sys2Proof.Path} {addr lanes : Nat} (hs : s₀.Keeps s) : s₀.Keeps (s.readLanes p addr lanes).2 := by
  unfold State.readLanes
  split
  · exact .deny hs
  · split
    · exact .read32 hs
    · split
      · split
        · next hq₄ =>
            dsimp only
            split
            · exact .deny hs
            · exact .of_eq hq₄ (.read32 hs)
      · split
        · next hq₄ =>
            dsimp only
            split
            · exact .deny hs
            · exact .of_eq hq₄ (.read32 hs)

theorem readWords {p : Path} {addr lanes : Nat} {ks : List Nat} (hs : s₀.Keeps s) : s₀.Keeps (s.readWords p addr lanes ks).2.2 := by
  induction ks generalizing s with
  | nil => exact hs
  | cons k ks ih => exact ih (.readLanes hs)

theorem respondCell {c : Cell} {status refused : Nat} {words : List Nat} (hs : s₀.Keeps s) :
    s₀.Keeps (s.respondCell c status refused words) := by
  unfold State.respondCell
  dsimp only
  split
  · next hq => exact .of_eq hq (.enqueue hs)
  · next hq => exact .leaf <| .inc <| .of_eq hq (.enqueue hs)

theorem pollEntry {k : Nat} (hs : s₀.Keeps s) : s₀.Keeps (s.pollEntry k) := by
  unfold State.pollEntry
  dsimp only
  split
  · split
    · split
      · next hq₃ => exact .pollAnswered <| .of_eq hq₃ (.read32 hs)
      · next hq₃ => exact .pollFailed <| .of_eq hq₃ (.read32 hs)
    · exact .pollIssue hs
  · exact hs

theorem pollRound (hs : s₀.Keeps s) : s₀.Keeps s.pollRound := .each hs .pollEntry

end State.Keeps

namespace State.Leads

theorem fabricWriteIssue (s : State) {p : Sys2Proof.Path} {w : Width} {fa val : Nat} :
    s.Leads (execFabricWriteIssue p w fa val s) := by
  unfold execFabricWriteIssue
  exact .unlessDown <| .next <| .ite (.fabricWrite .cleared) .cleared

theorem fabricReadIssue (s : State) {p : Sys2Proof.Path} {w : Width} {fa : Nat} : s.Leads (execFabricReadIssue p w fa s) := by
  unfold execFabricReadIssue
  exact .unlessDown <| .next <| .ite (.fabricRead .cleared) .cleared

theorem bridgeCellApply (s : State) : s.Leads (execBridgeCellApply s) := by
  unfold execBridgeCellApply
  refine .unlessDown ?_
  dsimp only
  split
  · exact .ite (.next <| .malformedCell <| .bridgeTake .cleared)
      (.ite (.next <| .dropLatches <| .writeWords <| .cellStream <| .bridgeTake .cleared)
      (.next <| .cellStream <| .bridgeTake .cleared))
  · exact .next .cleared

theorem readRequestApply (s : State) : s.Leads (execReadRequestApply s) := by
  unfold execReadRequestApply
  refine .unlessDown ?_
  dsimp only
  split
  · exact .ite (.next <| .respondCell <| .malformedCell <| .bridgeTake .cleared)
      (.ite (.next <| .respondCell <| .dropLatches <| .readWords <| .cellStream <| .bridgeTake .cleared)
      (.next <| .respondCell <| .cellStream <| .bridgeTake .cleared))
  · exact .next .cleared

theorem readResponseReceived (s : State) : s.Leads (execReadResponseReceived s) := by
  unfold execReadResponseReceived
  refine .unlessDown ?_
  dsimp only
  split
  · exact .next <| .ite (.malformedCell <| .bridgeTake .cleared) (.responseArrives <| .bridgeTake .cleared)
  · exact .next .cleared

end State.Leads

end Sys2Proof.Machine

end

section

/-! The load of a configuration, and recovery (Machine/Load). -/

namespace Sys2Proof.Machine

namespace State.Keeps

variable {s₀ s : State}

theorem recordSlotFault {x : SlotFault} (hs : s₀.Keeps s) : s₀.Keeps (s.recordSlotFault x) := .leaf <| .wr <| .set <| .set hs

theorem applyPair {addr val : Nat} (hs : s₀.Keeps s) : s₀.Keeps (s.applyPair addr val).2 := by
  unfold State.applyPair
  split
  · exact hs
  · split
    · exact hs
    · split
      · exact hs
      · split
        · exact hs
        · exact .write32 hs

theorem applySchedule {img : List Byte} (hs : s₀.Keeps s) : s₀.Keeps (s.applySchedule img) :=
  .frame <| .each hs fun h => .each h fun h1 => .frame <| .wr h1

theorem applyTable {img : List Byte} {b : Nat} (hs : s₀.Keeps s) : s₀.Keeps (s.applyTable img b) := .each hs .wr

theorem installKey {k st gen face types : Nat} {wrapped : List Byte} {h : Nat} (hs : s₀.Keeps s) :
    s₀.Keeps (s.installKey k st gen face types wrapped h) := by
  unfold State.installKey
  exact .keyStoreDue <| .setKeySlot <| .setKeyCounter <| .set <| .set <| .set <| .set hs

theorem installStored {k : Nat} {r : List Byte} (hs : s₀.Keeps s) : s₀.Keeps (s.installStored k r) := .installKey hs

theorem installImage {k : Nat} {x : ImageKey} (hs : s₀.Keeps s) : s₀.Keeps (s.installImage k x) := by
  unfold State.installImage
  exact .setKeySlot <| .installKey hs

theorem loadKey {keys : List ImageKey} {k : Nat} (hs : s₀.Keeps s) : s₀.Keeps (s.loadKey keys k) := by
  unfold State.loadKey
  split
  · exact hs
  · exact .installStored hs
  · exact .installImage hs
  · exact .ite (.installImage hs) (.installStored hs)

theorem loadKeys {img : List Byte} (hs : s₀.Keeps s) : s₀.Keeps (s.loadKeys img) := by
  unfold State.loadKeys
  exact .ite (.setB <| .each hs .loadKey) (.leaf <| .setB hs)

theorem loadBenchFirmware {img : List Byte} {b : Nat} (hs : s₀.Keeps s) : s₀.Keeps (s.loadBenchFirmware img b) := .setBench hs

theorem loadFirmware {img : List Byte} (hs : s₀.Keeps s) : s₀.Keeps (s.loadFirmware img) := .each (.chipFrame hs) .loadBenchFirmware

theorem hopperRestartInLoad (hs : s₀.Keeps s) : s₀.Keeps s.hopperRestartInLoad := by
  unfold State.hopperRestartInLoad
  exact .chipFrame <| .wr <| .wr <| .wr <| .hopperStarts hs

theorem restartWritten {touched : List Nat} (hs : s₀.Keeps s) : s₀.Keeps (s.restartWritten touched) := by
  unfold State.restartWritten
  exact .when (.when (.each (.hopperRestartInLoad <| .each (.permitDrop hs) .benchRestart) .benchRelease) .ethRestart) .canRestart

theorem acceptSlot {slot ringCtrl : Nat} (hs : s₀.Keeps s) : s₀.Keeps (s.acceptSlot slot ringCtrl) := by
  unfold State.acceptSlot
  exact .when (.each (.chipFrame <| .set <| .set <| .set <| .set <| .set <| .wr <| .set <| .setB hs) .coefficientsApplyAll) fun h =>
      .portFails <| .portFails h

theorem enterRecovery (hs : s₀.Keeps s) : s₀.Keeps s.enterRecovery := by
  unfold State.enterRecovery
  extract_lets s₁ s₂ s₃ s₄ s₅ s₆
  have h₄ : s₀.Keeps s₄ := .clearRegs <| .hopperRestartInLoad <| .each (.leaveRing <| .frame hs) .benchRestart
  have h₆ : s₀.Keeps s₆ := .frame (s := s₅) (.frame h₄)
  exact .pairLow <| .set h₆

theorem applyPairs {ps : List (Nat × Nat × Nat)} {x : Applied} (hx : s₀.Keeps x.s) : s₀.Keeps (Machine.applyPairs ps x).s := by
  induction ps generalizing x with
  | nil => exact hx
  | cons p ps ih =>
    unfold Machine.applyPairs
    split
    · next hq => exact ih (of_eq hq (.applyPair hx))
    · next hq => exact of_eq hq (.applyPair hx)

theorem applyImage {img : List Byte} (hs : s₀.Keeps s) : s₀.Keeps (s.applyImage img).s := by
  unfold State.applyImage
  extract_lets x u v w
  have hx : s₀.Keeps x.s := .applyPairs hs
  split
  · exact hx
  · exact .loadFirmware <| .loadKeys <| .each (.applySchedule hx) .applyTable

theorem trySlot {slot : Nat} {failed : Bool} (hs : s₀.Keeps s) : s₀.Keeps (s.trySlot slot failed).s := by
  unfold State.trySlot
  dsimp only
  split
  · exact .set hs
  · split
    · exact .set hs
    · exact .applyImage <| .set hs

theorem benchApply {img : List Byte} {b : Nat} (hs : s₀.Keeps s) : s₀.Keeps (s.benchApply img b) := by
  unfold State.benchApply
  exact .coefficientsApplyAll <| .applyTable <| .each (.loadBenchFirmware hs) .write32

theorem benchRuns {b : Nat} (hs : s₀.Keeps s) : s₀.Keeps (s.benchRuns b) := .setB <| .setB <| .startInstances hs

theorem benchBack {b : Nat} (hs : s₀.Keeps s) : s₀.Keeps (s.benchBack b) := .leaf <| .recovered <| .setB <| .setB hs

end State.Keeps

namespace State.Leads

theorem configLoad (s : State) {failed : Nat} : s.Leads (execConfigLoad failed s) := by
  unfold execConfigLoad
  refine .ite (.next .cleared) ?_
  extract_lets chip
  split
  next found first info hboot =>
    extract_lets s₁ s₂ s₃ ringCtrl x
    have hx : s.Keeps x.s := .trySlot <| .set <| .set <| .setB <| .chipFrame .cleared
    split
    · exact .next <| .acceptSlot hx
    · extract_lets s₄ y
      have hy : s.Keeps y.s := .trySlot <| .restartWritten <| .setB <| .recordSlotFault hx
      split
      · exact .next <| .leaf <| .acceptSlot hy
      · exact .next <| .enterRecovery <| .recordSlotFault hy

theorem benchReloadComplete (s : State) {b : Nat} : s.Leads (execBenchReloadComplete b s) := by
  unfold execBenchReloadComplete
  exact .unlessDown <| .ite (.next <| .permitGive <| .ite (.benchRuns <| .benchBack <| .setBench <| .benchApply <|
      .when .cleared .benchRelease) (.ite (.setBench <| .benchApply <| .when .cleared .benchRelease)
      (.benchRuns <| .setBench <| .benchApply <| .when .cleared .benchRelease))) (.next .cleared)

theorem benchOutOfService (s : State) : s.Leads (execBenchOutOfService s) := .unlessDown <| .next <| .guardRun .cleared .benchOut

theorem benchReturnToService (s : State) : s.Leads (execBenchReturnToService s) := by
  unfold execBenchReturnToService
  exact .unlessDown <| .next <| .guardRun .cleared fun h => by
    dsimp only
    split
    · exact .permitAsk <| .setBench h
    · exact h

theorem benchReset (s : State) : s.Leads (execBenchReset s) := by
  unfold execBenchReset
  refine .unlessDown <| .next <| .guardRun .cleared fun h => ?_
  dsimp only
  split
  · dsimp only
    exact .frame h
  · dsimp only
    exact .benchResetBegin h

end State.Leads

end Sys2Proof.Machine

end

section

/-! Rounds of the ring (Machine/RingRound). -/

namespace Sys2Proof.Machine

namespace State.Keeps

variable {s₀ s : State}

theorem startMaster (hs : s₀.Keeps s) : s₀.Keeps s.startMaster :=
  .showRing <| .seenRound <| .setRound <| .set <| .frame <| .setHead <| .setHead <| .setMode hs

theorem withdrawnRound (hs : s₀.Keeps s) : s₀.Keeps s.withdrawnRound := by
  unfold State.withdrawnRound
  split
  · exact hs
  · exact .when (.frame hs) .setPhase

theorem refRound (hs : s₀.Keeps s) : s₀.Keeps s.refRound := by
  unfold State.refRound
  exact .ite (.when (.when (.frame <| .refRoundEnd hs) .enterHoldover) .referenceLost) hs

theorem commandSlotsPassed {r : Nat} (hs : s₀.Keeps s) : s₀.Keeps (s.commandSlotsPassed r) :=
  .foldl hs fun h => .ite h (.judgePass <| .ite h (.setCmdPass <| .judgePass h))

theorem countRound (hs : s₀.Keeps s) : s₀.Keeps s.countRound := .frame hs

theorem masterRound (hs : s₀.Keeps s) : s₀.Keeps s.masterRound :=
  .ite hs (.ite (.yieldMastership hs) (.attemptClosure <| .checkClosure <| .checkPads <| .refreshMaster hs))

theorem roundBegins (hs : s₀.Keeps s) : s₀.Keeps s.roundBegins := by
  unfold State.roundBegins
  exact .pollRound <| .checkHeldAll <| .twinRound <| .showComplete <| .showBackup <| .masterRound <| .closureRound <|
      .handoffRound <| .versionRound <| .checkGrant <| .grantRound <| .countRound <| .ringStepRound <| .ringStepN <| .setRound <|
      .commandSlotsPassed <| .refRound hs

end State.Keeps

namespace State.Leads

theorem roundBoundary (s : State) : s.Leads (execRoundBoundary s) := by
  unfold execRoundBoundary
  exact .unlessDown <| .next <| .ite (.handoverBegins <| .seenRound <| .when
      (.when (.withdrawnRound <| .transitRound .cleared) .startMaster) .roundBegins)
      (.applyFreeze <| .handoverBegins <| .seenRound <| .when
      (.when (.withdrawnRound <| .transitRound .cleared) .startMaster) .roundBegins)

end State.Leads

end Sys2Proof.Machine

end

section

/-! The TAP (Machine/Tap). -/

namespace Sys2Proof.Machine

namespace State.Keeps

variable {s₀ s : State}

theorem setTap {t : TapPort} (hs : s₀.Keeps s) : s₀.Keeps (s.setTap t) := .chipFrame hs

theorem tapShift {tdi : Bool} (hs : s₀.Keeps s) : s₀.Keeps (s.tapShift tdi) := by
  unfold State.tapShift
  dsimp only
  split
  · split
    · exact .emit <| .setTap hs
    · split
      · exact .emit <| .setTap hs
      · exact .emit <| .setTap <| .drawn hs
  · exact hs

theorem tapClock {tms tdi : Bool} (hs : s₀.Keeps s) : s₀.Keeps (s.tapClock tms tdi) := by
  unfold State.tapClock
  dsimp only
  split <;> exact .setTap <| .tapShift hs

theorem tapScan {ins : TapIns} {n v : Nat} (hs : s₀.Keeps s) : s₀.Keeps (s.tapScan ins n v) := .emit <| .setTap hs

end State.Keeps

namespace State.Leads

theorem jtagTapOperation (s : State) {op : TapOp} : s.Leads (execJtagTapOperation op s) := by
  unfold execJtagTapOperation
  dsimp only
  split
  · exact .next <| .setTap .cleared
  · exact .next <| .setTap .cleared
  · exact .next <| .ite .cleared (.tapClock .cleared)
  · exact .next <| .ite .cleared (.tapScan .cleared)
  · exact .next <| .ite .cleared (.tapScan .cleared)
  · exact .unlessDown <| .next <| .tapScan <| .drawn .cleared

end State.Leads

end Sys2Proof.Machine

end

section

/-! Trigger ticks (Machine/Trigger). -/

namespace Sys2Proof.Machine

namespace State.Keeps

variable {s₀ s : State}

theorem setDelay {p : Side} {x : DelayStamps} (hs : s₀.Keeps s) : s₀.Keeps (s.setDelay p x) := by
  unfold State.setDelay
  split <;> exact .frame hs

theorem delayArrives {p : Side} {cell : List Byte} (hs : s₀.Keeps s) : s₀.Keeps (s.delayArrives p cell) :=
  .ite (.set <| .setDelay hs) hs

theorem pulseEvent {b e : Nat} (hs : s₀.Keeps s) : s₀.Keeps (s.pulseEvent b e) := .setEvents <| .setEvents hs

end State.Keeps

namespace State.Leads

theorem linkDelayExchange (s : State) {p : Side} {txAgo rxAgo : Nat} : s.Leads (execLinkDelayExchange p txAgo rxAgo s) := by
  unfold execLinkDelayExchange
  exact .unlessDown <| .ite (.next <| .enqueue <| .setDelay .cleared) (.next .cleared)

theorem delayCellReceived (s : State) : s.Leads (execDelayCellReceived s) := by
  unfold execDelayCellReceived
  refine .unlessDown ?_
  dsimp only
  split
  · split
    · next hq2 => exact .ite (.next <| .delayArrives <| .of_eq hq2 (.dequeue .cleared)) (.next <| .of_eq hq2 (.dequeue .cleared))
    · next hq2 => exact .next <| .of_eq hq2 (.dequeue .cleared)
  · exact .next .cleared

theorem triggerTick (s : State) {k : Nat} : s.Leads (execTriggerTick k s) := by
  unfold execTriggerTick
  exact .unlessDown <| .ite (.next <| .when (.each .cleared .pulseEvent) .leaf) (.next .cleared)

end State.Leads

end Sys2Proof.Machine

end

section

/-! Update commands (Machine/Update). -/

namespace Sys2Proof.Machine

namespace State.Keeps

variable {s₀ s : State}

theorem opRefused (hs : s₀.Keeps s) : s₀.Keeps s.opRefused.2 := .setB hs

theorem versionRefused (hs : s₀.Keeps s) : s₀.Keeps s.versionRefused.2 := .opRefused <| .leaf <| .set hs

theorem updateOp {op : Nat} {run : State → Option (GuardEnd × State)} (hs : s₀.Keeps s) (hr : ∀
    {u x}, s₀.Keeps u → run u = some x → s₀.Keeps x.2) : s₀.Keeps (s.updateOp op run) := by
  unfold State.updateOp
  refine .guardRun hs fun h => ?_
  split
  · split
    · next hx => exact hr h hx
    · exact .opRefused h
  · exact .opRefused h

theorem updIdle (hs : s₀.Keeps s) : s₀.Keeps s.updIdle := .frame <| .toUpd hs

theorem reloadGive {b : Nat} (hs : s₀.Keeps s) : s₀.Keeps (s.reloadGive b) := .when hs .permitGive

theorem notBegun (hs : s₀.Keeps s) : s₀.Keeps s.notBegun := .when hs .reloadGive

theorem commit {live : Bool} (hs : s₀.Keeps s) : s₀.Keeps (s.commit live) := by
  unfold State.commit
  exact .ite (.frame <| .updIdle <| .setB <| .set <| .bootWrite hs) (.updIdle <| .setB <| .set <| .bootWrite hs)

theorem setProgram {b k : Nat} {words : List Nat} (hs : s₀.Keeps s) : s₀.Keeps (s.setProgram b k words) := .each hs .wr

theorem swapSett {b k : Nat} {words : List Nat} {go : Nat → SwapPc} (hs : s₀.Keeps s) : s₀.Keeps (s.swapSett b k words go) := by
  unfold State.swapSett
  dsimp only
  split
  · split
    · exact .setSett <| .setProgram hs
    · exact .setSett <| .drawn <| .setProgram hs
    · exact .ite (.startSett <| .resetSett <| .setSett <| .setProgram hs) (.setSett <| .setProgram hs)
  · exact .setProgram hs

theorem closeInstance {b k : Nat} (hs : s₀.Keeps s) : s₀.Keeps (s.closeInstance b k) := by
  unfold State.closeInstance
  split
  · split
    · exact .portShow <| .setPort <| .truncateFrame <| .spiSent hs
    · exact .portShow <| .setPort <| .i2cGiveUp <| .onPort hs
    · exact .portShow <| .setPort <| .irigTruncate hs
    · exact .portShow <| .setPort <| .truncateFrame hs
  · exact .portShow <| .setPort hs

theorem freshInstance {b k : Nat} (hs : s₀.Keeps s) : s₀.Keeps (s.freshInstance b k) := by
  unfold State.freshInstance
  exact .ite (.startInstance <| .set hs) (.wr <| .set hs)

theorem applyBenchPairs {img : List Byte} {b : Nat} (hs : s₀.Keeps s) : s₀.Keeps (s.applyBenchPairs img b) := .each hs .write32

theorem acceptsRecords {old new : List Byte} (hs : s₀.Keeps s) : s₀.Keeps (s.acceptsRecords old new).2 := by
  unfold State.acceptsRecords
  split
  · exact hs
  · exact .drawn hs

theorem benchSwitch {b : Nat} {old new : List Byte} {go : Nat → Nat → SwapPc} (hs : s₀.Keeps s) :
    s₀.Keeps (s.benchSwitch b old new go) := by
  unfold State.benchSwitch
  exact .ite (.each (.coefficientsApplyAll <| .applyBenchPairs <| .applyTable <| .when
      (.acceptsRecords <| .loadBenchFirmware hs) fun h => .each h .closeInstance) .setProgram)
      (.each (.burstAsk <| .each (.wr <| .coefficientsApplyAll <| .applyBenchPairs <| .applyTable <| .when
      (.acceptsRecords <| .loadBenchFirmware hs) fun h => .each h .closeInstance) .freshInstance) .swapSett)

theorem askReload {b : Nat} (hs : s₀.Keeps s) : s₀.Keeps (s.askReload b) := .when hs .permitAsk

theorem rollbackOn (hs : s₀.Keeps s) : s₀.Keeps s.rollbackOn := by
  unfold State.rollbackOn
  split
  · exact .when (.frame hs) .askReload
  · exact .leaf <| .updIdle <| .set hs

theorem afterHandover {b : Nat} (hs : s₀.Keeps s) : s₀.Keeps (s.afterHandover b) := by
  unfold State.afterHandover
  exact .ite (.warmNow <| .ite (.benchResetBegin <| .frame hs) hs) (.ite (.benchResetBegin <| .frame hs) hs)

theorem rollbackStart {reason : Nat} (hs : s₀.Keeps s) : s₀.Keeps (s.rollbackStart reason) := by
  unfold State.rollbackStart
  exact .afterHandover <| .rollbackOn <| .frame <| .toUpd <| .when hs .reloadGive

theorem deferStep {b : Nat} (hs : s₀.Keeps s) : s₀.Keeps (s.deferStep b) := by
  unfold State.deferStep
  exact .afterHandover <| .askReload <| .frame hs

theorem benchHandBack {b : Nat} (hs : s₀.Keeps s) : s₀.Keeps (s.benchHandBack b) := by
  unfold State.benchHandBack
  exact .reloadGive <| .setBitOf <| .benchSwitch hs

theorem controllerSwitch {img : List Byte} (hs : s₀.Keeps s) : s₀.Keeps (s.controllerSwitch img) := .chipFrame hs

theorem updateFault {b : Nat} (hs : s₀.Keeps s) : s₀.Keeps (s.updateFault b) := .when hs .rollbackStart

theorem prepareBench (hs : s₀.Keeps s) : s₀.Keeps s.prepareBench := by
  unfold State.prepareBench
  exact .ite hs (.ite (.rollbackStart hs) (.askReload hs))

end State.Keeps

namespace State.Leads

theorem deltaVerify (s : State) : s.Leads (execDeltaVerify s) := by
  unfold execDeltaVerify
  refine .unlessDown ?_
  dsimp only
  split
  · split
    · exact .next <| .permitExamine <| .updRefuse .cleared
    · exact .next <| .permitGive <| .leaf <| .setB <| .frame <| .toUpd .cleared
  · exact .next .cleared

theorem updateBegin (s : State) : s.Leads (execUpdateBegin s) := by
  unfold execUpdateBegin
  refine .unlessDown <| .next <| .updateOp .cleared fun h hx => ?_
  obtain ⟨-, hx⟩ := Option.ite_none_right_eq_some.mp hx
  cases hx
  exact .wr <| .setB <| .toUpd <| .updIdle <| .notBegun h

theorem updateAbort (s : State) : s.Leads (execUpdateAbort s) := by
  unfold execUpdateAbort
  refine .unlessDown <| .next <| .updateOp .cleared fun h hx => ?_
  obtain ⟨-, hx⟩ := Option.ite_none_right_eq_some.mp hx
  cases hx
  exact .permitGive <| .setB <| .updIdle h

theorem updateCommit (s : State) : s.Leads (execUpdateCommit s) := by
  unfold execUpdateCommit
  refine .unlessDown <| .next <| .updateOp .cleared fun h hx => ?_
  split at hx
  · cases hx
    exact .commit h
  · obtain ⟨-, hx⟩ := Option.ite_none_right_eq_some.mp hx
    cases hx
    split
    · exact .versionRefused h
    · exact .commit h

theorem updateRevert (s : State) : s.Leads (execUpdateRevert s) := by
  unfold execUpdateRevert
  refine .unlessDown <| .next <| .updateOp .cleared fun h hx => ?_
  obtain ⟨-, hx⟩ := Option.ite_none_right_eq_some.mp hx
  cases hx
  exact .setB <| .bootWrite h

theorem rollbackBenchStep (s : State) : s.Leads (execRollbackBenchStep s) := by
  unfold execRollbackBenchStep
  exact .unlessDown <| .ite (.ite (.ite (.next <| .deferStep .cleared)
      (.next <| .afterHandover <| .rollbackOn <| .frame <| .benchHandBack .cleared))
      (.next <| .afterHandover <| .rollbackOn <| .controllerSwitch <| .setB .cleared)) (.next .cleared)

theorem updateRollback (s : State) : s.Leads (execUpdateRollback s) := by
  unfold execUpdateRollback
  refine .unlessDown <| .next <| .updateOp .cleared fun h hx => ?_
  split at hx
  · cases hx
    exact .updIdle <| .notBegun h
  · obtain ⟨-, hx⟩ := Option.ite_none_right_eq_some.mp hx
    cases hx
    exact .rollbackStart h

theorem benchWatchdogExpiry (s : State) {b : Nat} : s.Leads (execBenchWatchdogExpiry b s) := by
  unfold execBenchWatchdogExpiry
  exact .unlessDown <| .ite (.next <| .updateFault <| .firmwareFault <| .drawn .cleared) (.next .cleared)

theorem firmwareException (s : State) {b code : Nat} : s.Leads (execFirmwareException b code s) := by
  unfold execFirmwareException
  exact .unlessDown <| .next <| .ite (.updateFault <| .firmwareFault .cleared) .cleared

theorem updateHandover (s : State) : s.Leads (execUpdateHandover s) := by
  unfold execUpdateHandover
  refine .unlessDown <| .next <| .updateOp .cleared fun h hx => ?_
  obtain ⟨-, hx⟩ := Option.ite_none_right_eq_some.mp hx
  cases hx
  split
  · exact .versionRefused h
  · exact .prepareBench <| .wr <| .frame h

theorem benchHandover (s : State) {b : Nat} : s.Leads (execBenchHandover b s) := by
  unfold execBenchHandover
  exact .unlessDown <| .ite (.ite (.next <| .deferStep <| .when .cleared .handoverBegins)
      (.next <| .afterHandover <| .prepareBench <| .frame <| .when
      (.setBitOf <| .benchSwitch <| .when .cleared .handoverBegins) .permitGive)) (.next <| .when .cleared .handoverBegins)

theorem controllerHandover (s : State) : s.Leads (execControllerHandover s) := by
  unfold execControllerHandover
  exact .unlessDown <| .ite (.next <| .afterHandover <| .leaf <| .controllerSwitch <| .toUpd <| .setB .cleared) (.next .cleared)

theorem trialEnd (s : State) : s.Leads (execTrialEnd s) := by
  unfold execTrialEnd
  exact .unlessDown <| .next <| .ite (.commit .cleared) .cleared

end State.Leads

end Sys2Proof.Machine

end

section

/-! Machine/Step: every command leads to a next state, and a step takes the front of the queue and keeps the stores canonical. -/

namespace Sys2Proof.Machine

/-- Every command leads on. -/
theorem State.Leads.exec (s : State) (c : Instr) : s.Leads (Machine.exec c s) := by
  cases c with
  | registerWrite => exact .registerWrite s
  | pairLowRead => exact .pairLowRead s
  | pairHighRead => exact .pairHighRead s
  | pairLowWrite => exact .pairLowWrite s
  | pairHighWrite => exact .pairHighWrite s
  | pcieLongTransaction => exact .pcieLongTransaction s
  | bar2Access => exact .bar2Access s
  | spiRead => exact .spiRead s
  | spiWrite => exact .spiWrite s
  | spiOtherCommand => exact .spiOtherCommand s
  | spiCsRelease => exact .spiCsRelease s
  | signalDetect => exact .signalDetect s
  | cdrLock => exact .cdrLock s
  | blockLock => exact .blockLock s
  | deskewComplete => exact .deskewComplete s
  | trainingTimeout => exact .trainingTimeout s
  | blockLockLoss => exact .blockLockLoss s
  | lossOfSignal => exact .lossOfSignal s
  | remoteFaultReceived => exact .remoteFaultReceived s
  | portDownTimeout => exact .portDownTimeout s
  | helloSend => exact .helloSend s
  | helloReceived => exact .helloReceived s
  | listenWindowEnd => exact .listenWindowEnd s
  | backoffEnd => exact .backoffEnd s
  | contendSend => exact .contendSend s
  | contendReceived => exact .contendReceived s
  | contentionWindowEnd => exact .contentionWindowEnd s
  | slotStart => exact .slotStart s
  | slotArrival => exact .slotArrival s
  | slotCut => exact .slotCut s
  | roundBoundary => exact .roundBoundary s
  | transitOnlyWrite => exact .transitOnlyWrite s
  | handoff => exact .handoff s
  | reachTimeout => exact .reachTimeout s
  | silentTurnEnd => exact .silentTurnEnd s
  | masterLost => exact .masterLost s
  | backupTakeover => exact .backupTakeover s
  | spareRequestTimeout => exact .spareRequestTimeout s
  | shotFwDriveWrite => exact .shotFwDriveWrite s
  | shotStretchEnd => exact .shotStretchEnd s
  | shotStaleTimeout => exact .shotStaleTimeout s
  | settStart => exact .settStart s
  | settStop => exact .settStop s
  | settReset => exact .settReset s
  | groupStart => exact .groupStart s
  | groupStop => exact .groupStop s
  | groupReset => exact .groupReset s
  | groupCmdAtRound => exact .groupCmdAtRound s
  | settProgWrite => exact .settProgWrite s
  | settInject => exact .settInject s
  | pinEdge => exact .pinEdge s
  | stampLowRead => exact .stampLowRead s
  | scheduledEdgeDue => exact .scheduledEdgeDue s
  | mboxInWrite => exact .mboxInWrite s
  | mboxOutRead => exact .mboxOutRead s
  | controllerIrqRaise => exact .controllerIrqRaise s
  | benchWatchdogExpiry => exact .benchWatchdogExpiry s
  | firmwareException => exact .firmwareException s
  | jmp => exact .jmp s
  | wait => exact .wait s
  | waitSatisfied => exact .waitSatisfied s
  | inShift => exact .inShift s
  | outShift => exact .outShift s
  | push => exact .push s
  | pull => exact .pull s
  | mov => exact .mov s
  | seti => exact .seti s
  | addi => exact .addi s
  | djnz => exact .djnz s
  | stamp => exact .stamp s
  | armAt => exact .armAt s
  | shot => exact .shot s
  | raise => exact .raise s
  | cnt => exact .cnt s
  | crcb => exact .crcb s
  | flag => exact .flag s
  | dir => exact .dir s
  | sync => exact .sync s
  | halt => exact .halt s
  | ldt => exact .ldt s
  | cmpj => exact .cmpj s
  | tout => exact .tout s
  | irqw => exact .irqw s
  | reservedOpcode => exact .reservedOpcode s
  | idleTimeoutExpiry => exact .idleTimeoutExpiry s
  | descriptorTableWrite => exact .descriptorTableWrite s
  | personalityCommand => exact .personalityCommand s
  | commandTimeDue => exact .commandTimeDue s
  | uartTransmit => exact .uartTransmit s
  | uartGapEnd => exact .uartGapEnd s
  | spiControllerTransaction => exact .spiControllerTransaction s
  | spiTargetFrame => exact .spiTargetFrame s
  | i2cTransaction => exact .i2cTransaction s
  | hdlcTransmit => exact .hdlcTransmit s
  | ppsWindowEnd => exact .ppsWindowEnd s
  | debounceExpiry => exact .debounceExpiry s
  | chatterQuietExpiry => exact .chatterQuietExpiry s
  | supervisedOutputCommand => exact .supervisedOutputCommand s
  | supervisionWindowExpiry => exact .supervisionWindowExpiry s
  | decimationWindowEnd => exact .decimationWindowEnd s
  | coefficientApply => exact .coefficientApply s
  | comparatorThresholdWrite => exact .comparatorThresholdWrite s
  | enqueue => exact .enqueue s
  | dequeue => exact .dequeue s
  | heldClear => exact .heldClear s
  | endpointFreezeWrite => exact .endpointFreezeWrite s
  | cellEccError => exact .cellEccError s
  | queueStateEccError => exact .queueStateEccError s
  | queueSnapshot => exact .queueSnapshot s
  | scrubBurstRequest => exact .scrubBurstRequest s
  | scrubBurstEnd => exact .scrubBurstEnd s
  | hostRingEnable => exact .hostRingEnable s
  | hostRingDisable => exact .hostRingDisable s
  | hostRingTailWrite => exact .hostRingTailWrite s
  | sendDescriptor r desc buf => exact .sendDescriptor (r := r) (desc := desc) (buf := buf) s
  | receiveDescriptor r desc => exact .receiveDescriptor (r := r) (desc := desc) s
  | hostMemoryError => exact .hostMemoryError s
  | fabricWriteIssue => exact .fabricWriteIssue s
  | fabricReadIssue => exact .fabricReadIssue s
  | postedWriteOffer => exact .postedWriteOffer s
  | postedWriteTimeout => exact .postedWriteTimeout s
  | bridgeCellApply => exact .bridgeCellApply s
  | readRequestApply => exact .readRequestApply s
  | readResponseReceived => exact .readResponseReceived s
  | readTimeout => exact .readTimeout s
  | timeSnapshot => exact .timeSnapshot s
  | timeMeasurementWrite => exact .timeMeasurementWrite s
  | ppsInEdge => exact .ppsInEdge s
  | sourceLossTimeout => exact .sourceLossTimeout s
  | holdTraceExpiry => exact .holdTraceExpiry s
  | linkDelayExchange => exact .linkDelayExchange s
  | delayCellReceived => exact .delayCellReceived s
  | domainSelectApply => exact .domainSelectApply s
  | domainAutoSwitch => exact .domainAutoSwitch s
  | ppsOutEdge => exact .ppsOutEdge s
  | captureNow => exact .captureNow s
  | triggerTick => exact .triggerTick s
  | frameReceived => exact .frameReceived s
  | pauseFrame => exact .pauseFrame s
  | pauseExpiry => exact .pauseExpiry s
  | frameTransmit => exact .frameTransmit s
  | linkChange => exact .linkChange s
  | macEnableWrite => exact .macEnableWrite s
  | gateIntervalChange => exact .gateIntervalChange s
  | gateBankSwap => exact .gateBankSwap s
  | gateSwapApply => exact .gateSwapApply s
  | ringFrameCell => exact .ringFrameCell s
  | ringFrameTimeout => exact .ringFrameTimeout s
  | segmentationGo => exact .segmentationGo s
  | segmentationJobEnd => exact .segmentationJobEnd s
  | canFrameReceived => exact .canFrameReceived s
  | canTransmitCommand => exact .canTransmitCommand s
  | canCommandDue => exact .canCommandDue s
  | canTransmitEnd => exact .canTransmitEnd s
  | canBusError => exact .canBusError s
  | canRecover => exact .canRecover s
  | busOffRecoveryEnd => exact .busOffRecoveryEnd s
  | canEnable => exact .canEnable s
  | canDisable => exact .canDisable s
  | busIdleDetected => exact .busIdleDetected s
  | canReferenceFrameSend => exact .canReferenceFrameSend s
  | canRefMasterTimeout => exact .canRefMasterTimeout s
  | keepAliveSend => exact .keepAliveSend s
  | lastCallTimeout => exact .lastCallTimeout s
  | sleepEntry => exact .sleepEntry s
  | sleepNow => exact .sleepNow s
  | wakeDominant => exact .wakeDominant s
  | wakeFrame => exact .wakeFrame s
  | localWake => exact .localWake s
  | twinHealthWrite => exact .twinHealthWrite s
  | healthWatchdogExpiry => exact .healthWatchdogExpiry s
  | claimLost => exact .claimLost s
  | holdoffEnd => exact .holdoffEnd s
  | grdSubmit => exact .grdSubmit s
  | operateWhole => exact .operateWhole s
  | operateFirstPart => exact .operateFirstPart s
  | operateSecondPart => exact .operateSecondPart s
  | heldPartTimeout => exact .heldPartTimeout s
  | claimOverride => exact .claimOverride s
  | guardedRegisterWrite => exact .guardedRegisterWrite s
  | keyLoad => exact .keyLoad s
  | keyErase => exact .keyErase s
  | keyStoreWrite => exact .keyStoreWrite s
  | grdResponseReceived => exact .grdResponseReceived s
  | grdWindowTimeout => exact .grdWindowTimeout s
  | fuseBurn => exact .fuseBurn s
  | benchOutOfService => exact .benchOutOfService s
  | benchFreezeTimeout => exact .benchFreezeTimeout s
  | benchReturnToService => exact .benchReturnToService s
  | benchReset => exact .benchReset s
  | faceReset => exact .faceReset s
  | faceResetComplete => exact .faceResetComplete s
  | updateBegin => exact .updateBegin s
  | chunkCommit => exact .chunkCommit s
  | deltaVerify => exact .deltaVerify s
  | updateHandover => exact .updateHandover s
  | benchHandover => exact .benchHandover s
  | controllerHandover => exact .controllerHandover s
  | trialEnd => exact .trialEnd s
  | updateCommit => exact .updateCommit s
  | updateRollback => exact .updateRollback s
  | rollbackBenchStep => exact .rollbackBenchStep s
  | updateAbort => exact .updateAbort s
  | updateRevert => exact .updateRevert s
  | causeLeafClear => exact .causeLeafClear s
  | causeEnableWrite => exact .causeEnableWrite s
  | watchdogKick => exact .watchdogKick s
  | faultForce => exact .faultForce s
  | controllerWatchdogExpiry => exact .controllerWatchdogExpiry s
  | faultPairSwap => exact .faultPairSwap s
  | refclkLoss => exact .refclkLoss s
  | resetN => exact .resetN s
  | warmReset => exact .warmReset s
  | configLoad => exact .configLoad s
  | ringReady => exact .ringReady s
  | configReload => exact .configReload s
  | flashReadPage => exact .flashReadPage s
  | flashProgramPage => exact .flashProgramPage s
  | flashEraseSector => exact .flashEraseSector s
  | flashOperationEnd => exact .flashOperationEnd s
  | testUnlock => exact .testUnlock s
  | pciePerst => exact .pciePerst s
  | coldStart => exact .coldStart s
  | feedChange => exact .feedChange s
  | feedReverse => exact .feedReverse s
  | seatingChange => exact .seatingChange s
  | seatingDebounced => exact .seatingDebounced s
  | inrushStart => exact .inrushStart s
  | inrushEnd => exact .inrushEnd s
  | inrushTimeout => exact .inrushTimeout s
  | gateCheckFail => exact .gateCheckFail s
  | gateCheckPass => exact .gateCheckPass s
  | shortDetected => exact .shortDetected s
  | fuseTrip => exact .fuseTrip s
  | thermalTrip => exact .thermalTrip s
  | retryExpiry => exact .retryExpiry s
  | pgoodRise => exact .pgoodRise s
  | railGapExpiry => exact .railGapExpiry s
  | pgoodTimeout => exact .pgoodTimeout s
  | pgoodLoss => exact .pgoodLoss s
  | capacitanceMeasured => exact .capacitanceMeasured s
  | gaugeDisagreement => exact .gaugeDisagreement s
  | quietPeriodEnd => exact .quietPeriodEnd s
  | holdupReadyChange => exact .holdupReadyChange s
  | dyingGasp => exact .dyingGasp s
  | journalFlushEnd => exact .journalFlushEnd s
  | park => exact .park s
  | permitRequest => exact .permitRequest s
  | permitReturn => exact .permitReturn s
  | permitWaitLimit => exact .permitWaitLimit s
  | budgetWrite => exact .budgetWrite s
  | bistGo => exact .bistGo s
  | bistEnd => exact .bistEnd s
  | alwaysOnStop => exact .alwaysOnStop s
  | registerRead => exact .registerRead s
  | pcieLinkChange => exact .pcieLinkChange s
  | jtagTapOperation => exact .jtagTapOperation s
  | journalEraseComplete => exact .journalEraseComplete s
  | benchReloadComplete => exact .benchReloadComplete s
  | hubControllerFrameSend => exact .hubControllerFrameSend s
  | correctableEccError => exact .correctableEccError s

/-- A step takes the front of the queue, adds none, and keeps the stores canonical. -/
theorem State.step_keeps {s u : State} (h : Machine.step s = .next u) : u.pending = s.pending.tail ∧ (s.wf = true → u.wf = true) := by
  unfold Machine.step at h
  split at h
  · next hp =>
    cases h
    obtain ⟨hq, hwf⟩ := State.Keeps.idle (.refl s)
    exact ⟨by rw [hq, hp]; rfl, hwf⟩
  · next c rest hp =>
    obtain ⟨v, hv, hq, hwf⟩ := State.Leads.exec { s with pending := rest } c
    obtain rfl : v = u := by simpa [hv] using h
    exact ⟨by rw [hq, hp]; rfl, hwf⟩

/-- Settles O54: every function of the model that answers a state keeps the canonical forms, so every step does. -/
theorem storesStayCanonical : Obligations.StoresStayCanonical := by
  unfold Obligations.StoresStayCanonical
  intro s u hs h
  exact (State.step_keeps h).2 hs

end Sys2Proof.Machine

end

section

/-! A command whose island is held in reset, or which recovery keeps out of operation, only clears the outputs (R14, R508). Most
commands open with that check of their own island; those of the paths find their path closed instead. -/

namespace Sys2Proof.Machine

/-- The always-on island alone is never held in reset. -/
theorem State.down_alwaysOn (s : State) : s.down .alwaysOn = false := by simp [State.down]

variable {s : State}

/-- Recovery leaves the paths open: only the power edge closes them (R545). -/
theorem State.held_of_down_host (h : s.down .host = true) : s.edge.held = true := by simpa [State.down] using h

theorem State.pathClosed_of_down_host (h : s.down .host = true) (p : Path) : s.pathClosed p = true := by simp [State.pathClosed, h]

theorem State.pathWrite_of_pathClosed {p : Path} (h : s.pathClosed p = true) (w : Width) (addr val : Nat) :
    s.pathWrite p w addr val = s := by
  simp [State.pathWrite, h]

theorem State.pathRead_of_pathClosed {p : Path} (h : s.pathClosed p = true) (w : Width) (addr : Nat) : s.pathRead p w addr = s := by
  simp [State.pathRead, h]

theorem State.bar2_of_pathClosed (h : s.pathClosed .pcie = true) (write : Bool) (w : Width) (off val : Nat) :
    s.bar2 write w off val = s := if_pos h

theorem State.bar2Read_of_pathClosed (h : s.pathClosed .pcie = true) (off : Nat) : s.bar2Read off = s := by
  simp [State.bar2Read, h, State.bar2_of_pathClosed h]

/-- Through a closed PCI Express port no word of a long transaction passes. -/
theorem State.longAccess_of_pathClosed (h : s.pathClosed .pcie = true) (bar2 write : Bool) (addr n : Nat) (data : List Nat) :
    s.longAccess bar2 write addr n data = s := by
  induction n generalizing addr data with
  | zero => rfl
  | succ n ih =>
    rw [State.longAccess, State.bar2_of_pathClosed h, State.bar2Read_of_pathClosed h, State.pathWrite_of_pathClosed h,
      State.pathRead_of_pathClosed h]
    simpa using ih (addr + 4) data.tail

/-- A command that asks for its island first ends there; an access finds its path closed; the always-on island is never down. -/
theorem exec_of_down {c : Instr} (h : s.down c.island = true) : exec c s = .next s.clearOut := by
  have closed (hh : s.down .host = true) (p : Path) : s.clearOut.pathClosed p = true := State.pathClosed_of_down_host hh p
  cases c with
  | spiRead | spiWrite | spiOtherCommand | spiCsRelease | signalDetect | cdrLock | blockLock | deskewComplete |
    trainingTimeout | blockLockLoss | lossOfSignal | remoteFaultReceived | portDownTimeout | helloSend | helloReceived |
    listenWindowEnd | backoffEnd | contendSend | contendReceived | contentionWindowEnd | slotStart | slotArrival | slotCut |
    roundBoundary | reachTimeout | silentTurnEnd | masterLost | backupTakeover | spareRequestTimeout | shotStretchEnd |
    shotStaleTimeout | groupCmdAtRound | scheduledEdgeDue | controllerIrqRaise | benchWatchdogExpiry | firmwareException |
    jmp | wait | waitSatisfied | inShift | outShift | push | pull | mov | seti | addi | djnz | stamp | armAt | shot | raise |
    cnt | crcb | flag | dir | sync | halt | ldt | cmpj | tout | irqw | reservedOpcode | idleTimeoutExpiry |
    personalityCommand | commandTimeDue | uartTransmit | uartGapEnd | spiControllerTransaction | spiTargetFrame |
    i2cTransaction | hdlcTransmit | ppsWindowEnd | debounceExpiry | chatterQuietExpiry | supervisionWindowExpiry |
    decimationWindowEnd | benchFreezeTimeout | benchReloadComplete | enqueue | dequeue | heldClear | cellEccError |
    queueStateEccError | scrubBurstEnd | sendDescriptor | receiveDescriptor | hostMemoryError | postedWriteOffer |
    postedWriteTimeout | bridgeCellApply | readRequestApply | readResponseReceived | readTimeout | healthWatchdogExpiry |
    claimLost | holdoffEnd | operateWhole | operateFirstPart | operateSecondPart | heldPartTimeout | claimOverride |
    guardedRegisterWrite | keyLoad | keyErase | keyStoreWrite | grdResponseReceived | grdWindowTimeout | benchOutOfService |
    benchReturnToService | benchReset | faceReset | faceResetComplete | updateBegin | deltaVerify | updateHandover |
    benchHandover | controllerHandover | trialEnd | updateCommit | updateRollback | rollbackBenchStep | updateAbort |
    updateRevert | controllerWatchdogExpiry | ringReady | flashOperationEnd | permitRequest | permitReturn | permitWaitLimit |
    bistEnd | journalEraseComplete | correctableEccError | ppsInEdge | sourceLossTimeout | holdTraceExpiry |
    linkDelayExchange | delayCellReceived | domainSelectApply | domainAutoSwitch | ppsOutEdge | triggerTick | frameReceived |
    pauseFrame | pauseExpiry | frameTransmit | linkChange | gateIntervalChange | gateSwapApply | ringFrameCell |
    ringFrameTimeout | segmentationJobEnd | hubControllerFrameSend | canFrameReceived | canTransmitCommand | canCommandDue |
    canTransmitEnd | canBusError | busOffRecoveryEnd | busIdleDetected | canReferenceFrameSend | canRefMasterTimeout |
    keepAliveSend | lastCallTimeout | sleepEntry | wakeDominant | wakeFrame | localWake =>
    exact if_pos h
  | registerWrite | pairLowWrite | pairHighWrite | transitOnlyWrite | handoff | shotFwDriveWrite | settStart | settStop |
    settReset | groupStart | groupStop | groupReset | settProgWrite | settInject | mboxInWrite | descriptorTableWrite |
    coefficientApply | comparatorThresholdWrite | endpointFreezeWrite | queueSnapshot | scrubBurstRequest | hostRingEnable |
    hostRingDisable | hostRingTailWrite | timeSnapshot | captureNow | macEnableWrite | gateBankSwap | segmentationGo |
    canRecover | canEnable | canDisable | sleepNow | twinHealthWrite | grdSubmit | fuseBurn | chunkCommit | causeLeafClear |
    causeEnableWrite | watchdogKick | faultForce | warmReset | configReload | flashReadPage | flashProgramPage |
    flashEraseSector | testUnlock | budgetWrite | bistGo =>
    exact congrArg _ (State.pathWrite_of_pathClosed (closed h _) _ _ _)
  | pairLowRead | pairHighRead | stampLowRead | mboxOutRead | registerRead =>
    exact congrArg _ (State.pathRead_of_pathClosed (closed h _) _ _)
  | pinEdge | faultPairSwap | coldStart | pcieLinkChange | jtagTapOperation | pciePerst | feedChange | feedReverse |
    seatingChange | inrushStart | inrushEnd | inrushTimeout | gateCheckPass | thermalTrip | retryExpiry | pgoodRise |
    railGapExpiry | pgoodTimeout | pgoodLoss | capacitanceMeasured | journalFlushEnd | park | seatingDebounced |
    gateCheckFail | shortDetected | fuseTrip | gaugeDisagreement | quietPeriodEnd | holdupReadyChange | dyingGasp |
    alwaysOnStop =>
    exact absurd h (by simp [Instr.island, State.down_alwaysOn])
  | timeMeasurementWrite p d lo hi =>
    have hlo := State.pathWrite_of_pathClosed (closed h p) .w32 (Reg.TIME_MEAS_LO.addr (domIx d)) lo
    have hhi := State.pathWrite_of_pathClosed (closed h p) .w32 (Reg.TIME_MEAS_HI.addr (domIx d)) hi
    exact congrArg _ ((congrArg (State.putReg · p .TIME_MEAS_HI (domIx d) hi) hlo).trans hhi)
  | pcieLongTransaction bar2 write addr n data =>
    have hlong := State.longAccess_of_pathClosed (closed h .pcie) bar2 write addr n data
    simp [exec, execPcieLongTransaction, hlong, State.pathClosed_of_down_host h, State.when]
  | bar2Access write w off val => exact congrArg _ (State.bar2_of_pathClosed (closed h .pcie) write w off val)
  | supervisedOutputCommand => exact if_pos (.inl h)
  | fabricWriteIssue | fabricReadIssue => exact if_pos (by simpa using .inl h)
  | configLoad => exact if_pos (.inl h)
  | refclkLoss => exact congrArg _ (if_neg (by simpa using State.held_of_down_host h))
  | resetN => exact if_pos (.inl (State.held_of_down_host h))

/-- Settles O52: every command leads to a next state, and clears the outputs alone when its island is down. -/
theorem everyCommandCompletes : Obligations.EveryCommandCompletes := by
  unfold Obligations.EveryCommandCompletes
  intro c s
  obtain ⟨u, hu, -⟩ := State.Leads.exec s c
  exact ⟨⟨u, hu⟩, exec_of_down⟩

end Sys2Proof.Machine

end

section

/-! Queue numbers (R27). -/

namespace Sys2Proof.Machine

/-- The parts of a queue number stand side by side in its bits. -/
theorem queueNo_eq_or {c d : Nat} (e : Nat) (hc : c < 16) (hd : d < 64) : queueNo e c d = (e <<< 10) ||| (c <<< 6) ||| d := by
  have hlow : c <<< 6 + d < 2 ^ 10 := by rw [Nat.shiftLeft_eq]; omega
  calc queueNo e c d = e <<< 10 + (c <<< 6 + d) := by simp only [queueNo, Nat.shiftLeft_eq]; omega
    _ = e <<< 10 ||| (c <<< 6 + d) := Nat.shiftLeft_add_eq_or_of_lt hlow e
    _ = e <<< 10 ||| (c <<< 6 ||| d) := by rw [Nat.shiftLeft_add_eq_or_of_lt hd]
    _ = e <<< 10 ||| c <<< 6 ||| d := (Nat.or_assoc ..).symm

variable {e c d : Nat}

theorem queueNo_le (he : e < 1024) (hc : c < 16) (hd : d < 64) : queueNo e c d ≤ 1048575 := by unfold queueNo; omega

theorem queueEp_queueNo (he : e < 1024) (hc : c < 16) (hd : d < 64) : queueEp (queueNo e c d) = e := by
  unfold queueEp queueNo; omega

theorem queueClass_queueNo (hc : c < 16) (hd : d < 64) : queueClass (queueNo e c d) = c := by unfold queueClass queueNo; omega

theorem queueDest_queueNo (hd : d < 64) : queueDest (queueNo e c d) = d := by unfold queueDest queueNo; omega

theorem queueNo_of_parts {q : Nat} (hq : q ≤ 1048575) : q = queueNo (queueEp q) (queueClass q) (queueDest q) := by
  unfold queueNo queueEp queueClass queueDest; omega

/-- Settles O59: the three parts are digits of the queue number in the bases 1024, 16 and 64. -/
theorem queueNumbers : Obligations.QueueNumbers := by
  unfold Obligations.QueueNumbers
  intro e c d he hc hd
  exact ⟨queueNo_eq_or e hc hd, queueNo_le he hc hd, queueEp_queueNo he hc hd, queueClass_queueNo hc hd, queueDest_queueNo hd,
    fun _ => queueNo_of_parts⟩

end Sys2Proof.Machine

end

section

/-! Fabric accesses to the hub itself (R25). -/

namespace Sys2Proof.Machine

/-- Hub number and local address of a fabric address (R24). -/
theorem fabricAddress_parts {h addr : Nat} (hh : h < 256) (ha : addr < 2 ^ 32) :
    (h * 2 ^ 32 + addr) / 2 ^ 32 % 256 = h ∧ (h * 2 ^ 32 + addr) % 2 ^ 32 = addr := by omega

variable {s : State} {h addr : Nat}

theorem State.isLocal_hub (s : State) : s.isLocal s.hub = true := by simp [State.isLocal]

theorem State.isLocal_ff (s : State) : s.isLocal 0xFF = true := rfl

theorem State.hub_lt (s : State) : s.hub < 256 :=
  Nat.lt_of_lt_of_le (s.get_lt F.CHIP_HUBNUM_hub_number []) (by decide)

/-- A write to an address served locally goes onto the bus of this hub, whichever number names it. -/
theorem execFabricWriteIssue_of_isLocal (hl : s.isLocal h = true) (hh : h < 256) (ha : addr < 2 ^ 32) (p : Path) (w : Width)
    (val : Nat) :
    execFabricWriteIssue p w (h * 2 ^ 32 + addr) val s =
      if s.down .hopper || s.pathClosed p then .next s.clearOut
      else .next (if issuer p then s.clearOut.busWrite p w addr val else s.clearOut) := by
  obtain ⟨hhub, haddr⟩ := fabricAddress_parts hh ha
  have hbus : s.clearOut.fabricWrite p w h addr val = s.clearOut.busWrite p w addr val := if_pos hl
  simp only [execFabricWriteIssue, hhub, haddr, hbus]

/-- A read likewise. -/
theorem execFabricReadIssue_of_isLocal (hl : s.isLocal h = true) (hh : h < 256) (ha : addr < 2 ^ 32) (p : Path) (w : Width) :
    execFabricReadIssue p w (h * 2 ^ 32 + addr) s =
      if s.down .hopper || s.pathClosed p then .next s.clearOut
      else .next (if issuer p then s.clearOut.busRead p w addr else s.clearOut) := by
  obtain ⟨hhub, haddr⟩ := fabricAddress_parts hh ha
  have hbus : s.clearOut.fabricRead p w h addr = s.clearOut.busRead p w addr := if_pos hl
  simp only [execFabricReadIssue, hhub, haddr, hbus]

/-- Settles O60: the hub's own number and 0xFF are the two numbers served locally. -/
theorem ownHubNumberIsLocal : Obligations.OwnHubNumberIsLocal := by
  unfold Obligations.OwnHubNumberIsLocal
  intro s p w addr val ha
  have hwrite := execFabricWriteIssue_of_isLocal s.isLocal_hub s.hub_lt ha p w val
  have hread := execFabricReadIssue_of_isLocal s.isLocal_hub s.hub_lt ha p w
  refine ⟨hwrite.trans (execFabricWriteIssue_of_isLocal s.isLocal_ff (by decide) ha p w val).symm,
    hread.trans (execFabricReadIssue_of_isLocal s.isLocal_ff (by decide) ha p w).symm, fun hi hd hc => ?_⟩
  exact ⟨hwrite.trans (by simp [hi, hd, hc]), hread.trans (by simp [hi, hd, hc])⟩

end Sys2Proof.Machine

end

section

/-! A read refused at issue still gives the bridge its turn at the hopper (R344, R345): a read that the hopper had refused as full
departs in that turn, so a refused read does not always leave the bridge as it was. -/

namespace Sys2Proof.Machine

/-- A read of a word of hub 63 that its bridge still offers, with tag 0. -/
def heldRead : BridgeOffer :=
  { write := false, origin := .path .hubController, hub := 63, face := 0, addr := 0, count := 1, lanes := 0x0F }

/-- Hub 0 of a ring with hub 63, its bridge on endpoint 0 in class 0, and one free cell toward hub 63 while `heldRead` waits. -/
def hubWithHeldRead : State :=
  let s := (State.reset.set F.RING_STATUS_mode [] 2).set F.BRG_CFG_enable [] 1
  let s := (s.set F.HOP_EP_CFG_kind [0] 3).set F.HOP_LIMIT_out_limit [0, 0] 1
  { s with
    ring := { bitmap := 2 ^ 63 }
    brg := { offers := [heldRead], tags := [(0, { used := true, origin := heldRead.origin, hub := 63, count := 1 })] } }

/-- The read of hub 62 is refused, and the held read of hub 63 departs in the turn that follows, with sequence number 0. -/
theorem refusedRead_sends_heldRead :
    (hubWithHeldRead.clearOut.fabricRead .hubController .w32 62 0).brg.offers = [] ∧
      ((hubWithHeldRead.clearOut.fabricRead .hubController .w32 62 0).tagOf 0).seq = some 0 := by decide

/-- Refutes O17: its last clause says that a read of an unreachable hub leaves the bridge as it was, and puts no condition on the
reads that already wait; here one departs. -/
theorem not_bridgeIssue : ¬ Obligations.BridgeIssue := by
  unfold Obligations.BridgeIssue
  intro h
  obtain ⟨-, -, -, -, -, hrefused⟩ :=
    h hubWithHeldRead .hubController 62 0 0 (by decide) (by decide) (by decide) (by decide) (by decide)
  obtain ⟨u, hu, hbrg, -⟩ := hrefused (by decide) (by decide)
  have hexec : exec (.fabricReadIssue .hubController .w32 (62 * 2 ^ 32 + 0)) hubWithHeldRead =
      .next (hubWithHeldRead.clearOut.fabricRead .hubController .w32 62 0) := by rfl
  obtain rfl := Host.Outcome.next.inj (hexec.symm.trans hu)
  have hkept : [] = [heldRead] := refusedRead_sends_heldRead.1.symm.trans (congrArg BridgeState.offers hbrg)
  exact absurd hkept (by simp)

end Sys2Proof.Machine

end

section

/-! The queue of commands (R47). -/

namespace Sys2Proof.Machine

/-- Settles O53: a step leaves the rest of its queue waiting, and every function of the model keeps that queue. -/
theorem queueIsFirstInFirstOut : Obligations.QueueIsFirstInFirstOut := by
  unfold Obligations.QueueIsFirstInFirstOut
  intro s u h
  obtain ⟨hqueue, -⟩ := State.step_keeps h
  exact hqueue

end Sys2Proof.Machine

end

section

/-! What an access is judged by: the outputs and the latches of pairs are no part of it (R34, R456, R476). -/

namespace Sys2Proof.Machine

/-- The state with other outputs, and with other contents beside the islands (latches among them). -/
def State.relatched (s : State) (out : List Out) (line : List LaneBlock) (chip : ChipState) : State :=
  { s with out := out, line := line, chip := chip }

section

variable {s : State} {p : Path} {r : Reg} {ix : List Nat} {a i j v : Nat} {write : Bool}
  {out : List Out} {line : List LaneBlock} {chip : ChipState}

theorem State.pathFace_relatched : (s.relatched out line chip).pathFace p = s.pathFace p := by
  cases p <;> rfl

theorem State.ringFace_relatched : (s.relatched out line chip).ringFace i = s.ringFace i := by
  have hassigned : (fun e => (s.relatched out line chip).assignedTo (.hostRing i) e) = fun e => s.assignedTo (.hostRing i) e := rfl
  unfold State.ringFace
  rw [hassigned]
  split
  · rfl
  · rfl

theorem State.regFace_relatched : (s.relatched out line chip).regFace r ix = s.regFace r ix := by
  have hep {e : Nat} : (s.relatched out line chip).epFace e = s.epFace e := rfl
  have hport : (s.relatched out line chip).portFace = s.portFace := rfl
  have hsett : (s.relatched out line chip).settFace = s.settFace := rfl
  have hgroup : (s.relatched out line chip).groupFace = s.groupFace := rfl
  have hchannel : (s.relatched out line chip).channelFace = s.channelFace := rfl
  have hcomparator : (s.relatched out line chip).comparatorFace = s.comparatorFace := rfl
  have hcell : (s.relatched out line chip).queueOfCell = s.queueOfCell := rfl
  have hleaf : (s.relatched out line chip).leafFace = s.leafFace := rfl
  have hget {f : Fld} {jx : List Nat} : (s.relatched out line chip).get f jx = s.get f jx := rfl
  have hring : (s.relatched out line chip).ring = s.ring := rfl
  simp only [State.regFace, hep, hport, hsett, hgroup, hchannel, hcomparator, hcell, hleaf, hget, hring, State.ringFace_relatched]

theorem State.faceBars_relatched : (s.relatched out line chip).faceBars p r ix write = s.faceBars p r ix write := by
  simp only [State.faceBars, State.regFace_relatched, State.pathFace_relatched]

theorem State.chapterBars_relatched : (s.relatched out line chip).chapterBars p r ix write v = s.chapterBars p r ix write v := by
  unfold State.chapterBars
  rfl

theorem State.judge_relatched : (s.relatched out line chip).judge p r ix a write v = s.judge p r ix a write v := by
  have hheld : (s.relatched out line chip).islandHeld p a = s.islandHeld p a := rfl
  have hguarded : (s.relatched out line chip).guardedOnly p r a = s.guardedOnly p r a := rfl
  simp only [State.judge, hheld, hguarded, State.faceBars_relatched, State.chapterBars_relatched]

/-- A write is admitted or not whatever was put out and latched, while PCIE_PERST_N stays as it was (R590). -/
theorem State.admits_relatched (hperst : chip.perst = s.chip.perst) :
    (s.relatched out line chip).admits p r ix v ↔ s.admits p r ix v := by
  have hclosed : (s.relatched out line chip).pathClosed p = s.pathClosed p :=
    congrArg (fun x => s.down .host || (p == .pcie && x)) hperst
  have hreg : (s.relatched out line chip).regAt (r.addr ix) = s.regAt (r.addr ix) := rfl
  simp only [State.admits, hclosed, hreg, State.judge_relatched]

theorem State.admitsRead_relatched (hperst : chip.perst = s.chip.perst) :
    (s.relatched out line chip).admitsRead p r ix ↔ s.admitsRead p r ix := by
  have hclosed : (s.relatched out line chip).pathClosed p = s.pathClosed p :=
    congrArg (fun x => s.down .host || (p == .pcie && x)) hperst
  have hreg : (s.relatched out line chip).regAt (r.addr ix) = s.regAt (r.addr ix) := rfl
  simp only [State.admitsRead, hclosed, hreg, State.judge_relatched]

theorem State.admits_clearOut : s.clearOut.admits p r ix v ↔ s.admits p r ix v := State.admits_relatched rfl

theorem State.admitsRead_clearOut : s.clearOut.admitsRead p r ix ↔ s.admitsRead p r ix := State.admitsRead_relatched rfl

end

end Sys2Proof.Machine

end

section

/-! Accesses that reach their register, and what the path sees of them (R34). -/

namespace Sys2Proof.Machine

variable {s t : State} {p : Path} {r : Reg} {ix : List Nat} {v : Nat}

theorem State.pathWrite_of_carries {w : Width} {addr : Nat} (hc : carries p w addr = true) (ho : s.pathClosed p = false) (val : Nat) :
    s.pathWrite p w addr val = s.busWrite p w addr val := if_pos (by simp [hc, ho])

theorem State.pathRead_of_carries {w : Width} {addr : Nat} (hc : carries p w addr = true) (ho : s.pathClosed p = false) :
    s.pathRead p w addr = s.busRead p w addr := if_pos (by simp [hc, ho])

theorem State.busWrite_aligned {addr : Nat} (ha : addr % 4 = 0) (val : Nat) :
    s.busWrite p .w32 addr val = State.answerWrite p addr (s.write32 p addr (val % 2 ^ 32)) := by
  simp [State.busWrite, widthBytes, ha]

theorem State.busRead_aligned {addr : Nat} (ha : addr % 4 = 0) :
    s.busRead p .w32 addr = State.answerRead p addr (s.read32 p addr) := by
  simp [State.busRead, widthBytes, ha]

/-- A posted path sees nothing of an accepted write, and any other path its acknowledgement. -/
theorem State.answerWrite_true (addr : Nat) : State.answerWrite p addr (true, t) = t.emits (acknowledged p addr) := by
  unfold State.answerWrite acknowledged
  split
  · simp [State.emits]
  · rfl

theorem State.answerWrite_false (addr : Nat) :
    State.answerWrite p addr (false, t) = t.emits (if postedPath p then [] else [.accessError p addr]) := by
  unfold State.answerWrite
  split
  · simp [State.emits]
  · rfl

/-- A write that nothing refuses has the outcome of the register's own rules. -/
theorem State.putReg_of_admits (h : s.admits p r ix v) (hv : v < 2 ^ 32) (hw : s.writeReg p r ix v = some t) :
    s.putReg p r ix v = t.emits (acknowledged p (r.addr ix)) := by
  obtain ⟨hcarries, hopen, hreg, hjudge⟩ := h
  have hwrite : s.write32 p (r.addr ix) v = (true, t) := by simp only [State.write32, hreg, hjudge, hw]
  calc s.putReg p r ix v = s.busWrite p .w32 (r.addr ix) v := State.pathWrite_of_carries hcarries hopen v
    _ = State.answerWrite p (r.addr ix) (true, t) := by
      rw [State.busWrite_aligned (r.addr_mod_four ix), Nat.mod_eq_of_lt hv, hwrite]
    _ = t.emits (acknowledged p (r.addr ix)) := State.answerWrite_true _

/-- A read likewise. -/
theorem State.pathRead_of_admitsRead {x : Nat} (h : s.admitsRead p r ix) (hr : s.readReg p r ix = some (x, t)) :
    s.pathRead p .w32 (r.addr ix) = t.emit (.readData p (r.addr ix) x) := by
  obtain ⟨hcarries, hopen, hreg, hjudge⟩ := h
  have hread : s.read32 p (r.addr ix) = (some x, t) := by simp only [State.read32, State.readShown, hreg, hjudge, hr]
  calc s.pathRead p .w32 (r.addr ix) = s.busRead p .w32 (r.addr ix) := State.pathRead_of_carries hcarries hopen
    _ = State.answerRead p (r.addr ix) (some x, t) := by rw [State.busRead_aligned (r.addr_mod_four ix), hread]
    _ = t.emit (.readData p (r.addr ix) x) := rfl

end Sys2Proof.Machine

end

section

/-! What an access does that reaches no register (R34, R37, R352): leaves and records of the cause tree, and the record of a
refused posted write. -/

namespace Sys2Proof.Machine

variable {s t u : State} {f g : Nat → Bool}

@[simp] theorem State.out_when {c : Bool} {k : State → State} (h : (k s).out = s.out) : (s.when c k).out = s.out := by
  unfold State.when
  split
  · exact h
  · rfl

@[simp] theorem State.out_journal (s : State) (leaf face w : Nat) : (s.journal leaf face w).out = s.out := by
  unfold State.journal
  dsimp only
  rw [State.out_when (State.out_setB _ _ _ _), State.out_set, State.out_wr, State.out_wr, State.out_wr, State.out_wr]

/-- A cause event is no output. -/
@[simp] theorem State.out_leaf (s : State) (n unit code : Nat) (rec : Bool) : (s.leaf n unit code rec).out = s.out := by
  unfold State.leaf
  dsimp only
  split
  · split
    · rw [State.out_journal, State.out_wr, State.out_wr]
    · rw [State.out_when (State.out_setB _ _ _ _), State.out_wr, State.out_wr]
  · rfl

/-- From `s` to `t` register words changed where `f` holds, and nothing else: no output either. -/
def State.Marks (s t : State) (f : Nat → Bool) : Prop := s.regsOnly t f ∧ t.out = s.out

namespace State.Marks

theorem refl (s : State) (f : Nat → Bool) : s.Marks s f := ⟨s.regsOnly_refl f, rfl⟩

theorem trans (h : s.Marks t f) (k : t.Marks u f) : s.Marks u f := ⟨State.regsOnly_trans h.1 k.1, k.2.trans h.2⟩

theorem mono (h : s.Marks t f) (k : ∀ a, f a = true → g a = true) : s.Marks t g := ⟨State.regsOnly_mono h.1 k, h.2⟩

theorem wr {r : Reg} {ix : List Nat} {v : Nat} (h : s.Marks t f) (hr : f (r.addr ix) = true) : s.Marks (t.wr r ix v) f :=
  h.trans ⟨State.regsOnly_wr _ _ _ _ _ hr, rfl⟩

theorem when {c : Bool} {k : State → State} (h : s.Marks t f) (hk : s.Marks (k t) f) : s.Marks (t.when c k) f := by
  unfold State.when
  split
  · exact hk
  · exact h

theorem leaf {n unit code : Nat} {rec : Bool} (h : s.Marks t f) (hf : ∀ a, causeAddr a = true → f a = true) :
    s.Marks (t.leaf n unit code rec) f :=
  h.trans (mono ⟨t.leaf_regsOnly _ _ _ _, t.out_leaf _ _ _ _⟩ hf)

theorem addressLeaf {n : Option Nat} {addr : Nat} (h : s.Marks t f) (hf : ∀ a, causeAddr a = true → f a = true) :
    s.Marks (t.addressLeaf n addr) f := by
  cases n with
  | none => exact h
  | some n => exact h.leaf hf

/-- A command that did no more than this shows only what it puts out at its end. -/
theorem emits (h : s.clearOut.Marks t f) (os : List Out) : s.regsOnly (t.emits os) f ∧ (t.emits os).out = os := by
  obtain ⟨hregs, hout⟩ := h
  refine ⟨State.regsOnly_trans (s.regsOnly_clearOut f) (State.regsOnly_trans hregs ⟨rfl, fun _ _ => rfl⟩), ?_⟩
  simp [State.emits, hout]

end State.Marks

/-- The words a refused write may change: the cause tree's, and the record of a refused posted write. -/
def refusalAddr (a : Nat) : Bool := causeAddr a || (0x400010 ≤ a && a < 0x400018)

theorem refusalAddr_of_causeAddr (a : Nat) (h : causeAddr a = true) : refusalAddr a = true := by simp [refusalAddr, h]

theorem holeAddrIndex_lt {n k : Nat} (h : holeAddrIndex n = some k) : k < 20 := by
  unfold holeAddrIndex at h
  split at h
  · split at h
    · cases h
      omega
    · cases h
  · grind

theorem causeAddr_holeAddr {k : Nat} (h : k < 20) : causeAddr (Reg.CAUSE_HOLE_ADDR.addr [k]) = true := by
  simp [causeAddr, Reg.addr, Reg.desc, dimOffset]
  omega

namespace State.Marks

theorem accessRecord {reason hub : Nat} {remote : Bool} {face addr : Nat} (h : s.Marks t refusalAddr) :
    s.Marks (t.accessRecord reason hub remote face addr) refusalAddr := by
  have hrecord : s.Marks (if t.is F.BRG_ACCESS_ERR_valid then t.inc F.BRG_ACCESS_ERR_merge
      else (t.wr .BRG_ACCESS_ERR [] (2 ^ 31 + reason * 2 ^ 24 + hub % 64 * 2 ^ 14 + b2n remote * 2 ^ 13 + face % 16 * 2 ^ 9)).wr
        .BRG_ACCESS_ADDR [] (if reason = 5 then 0 else addr)) refusalAddr := by
    split
    · exact h.wr rfl
    · exact (h.wr rfl).wr rfl
  unfold State.accessRecord
  dsimp only
  split
  · exact hrecord.addressLeaf refusalAddr_of_causeAddr
  · exact hrecord.leaf refusalAddr_of_causeAddr

theorem postedRefusal {p : Path} {reason addr : Nat} (h : s.Marks t refusalAddr) :
    s.Marks (t.postedRefusal p reason addr) refusalAddr := by
  unfold State.postedRefusal
  split
  · exact h.accessRecord
  · exact h.accessRecord
  · exact h

/-- A read refused by its shape leaves its path's leaf. -/
theorem denyRead (s : State) (p : Path) (addr : Nat) : s.Marks (s.deny p addr false .shape) causeAddr :=
  (refl s _).addressLeaf fun _ h => h

/-- A write refused by its shape leaves its path's leaf, and a posted one its record too. -/
theorem denyWrite (s : State) (p : Path) (addr : Nat) : s.Marks (s.deny p addr true .shape) refusalAddr :=
  ((refl s _).addressLeaf refusalAddr_of_causeAddr).postedRefusal

/-- An access to a hole leaves its path's leaf and the address of the first. -/
theorem holeSeen (s : State) (p : Path) (addr : Nat) : s.Marks (s.holeSeen p addr) causeAddr := by
  have hleaf (n : Option Nat) : s.Marks (s.addressLeaf n addr) causeAddr := (refl s _).addressLeaf fun _ h => h
  unfold State.holeSeen
  split
  · dsimp only
    split
    · next hk => exact (hleaf _).wr (causeAddr_holeAddr (holeAddrIndex_lt hk))
    · exact hleaf _
  · exact refl s _

end State.Marks

variable {p : Path} {w : Width} {addr : Nat}

theorem State.busWrite_of_shape (h : addr % widthBytes w ≠ 0 ∨ widthBytes w < 4) (val : Nat) :
    s.busWrite p w addr val = (s.deny p addr true .shape).emits (if postedPath p then [] else [.accessError p addr]) :=
  (if_pos h).trans (State.answerWrite_false addr)

theorem State.busRead_of_misaligned (h : addr % widthBytes w ≠ 0) :
    s.busRead p w addr = (s.deny p addr false .shape).emits [.accessError p addr] := if_pos h

theorem State.busWrite_of_hole (ha : addr % 4 = 0) (hreg : s.regAt addr = none) (hheld : s.islandHeld p addr = false) (val : Nat) :
    s.busWrite p .w32 addr val = (s.holeSeen p addr).emits (acknowledged p addr) := by
  have hwrite (x : Nat) : s.write32 p addr x = (true, s.holeSeen p addr) := by simp [State.write32, hreg, hheld]
  rw [State.busWrite_aligned ha, hwrite, State.answerWrite_true]

theorem State.busRead_of_hole (ha : addr % 4 = 0) (hreg : s.regAt addr = none) (hheld : s.islandHeld p addr = false) :
    s.busRead p .w32 addr = (s.holeSeen p addr).emits [.readData p addr 0] := by
  have hread : s.read32 p addr = (some 0, s.holeSeen p addr) := by simp [State.read32, State.readShown, hreg, hheld]
  rw [State.busRead_aligned ha, hread]
  rfl

/-- Settles O19: an access that reaches its register has the outcome of the register's rules, a refused shape leaves its leaf and
record, and a hole its leaf and address. -/
theorem registerAccess : Obligations.RegisterAccess := by
  unfold Obligations.RegisterAccess
  intro s p r ix v
  have hwrite {w : Width} {b : Nat} (hc : carries p w b = true) (ho : s.pathClosed p = false) :
      exec (.registerWrite p w b v) s = .next (s.clearOut.busWrite p w b v) :=
    congrArg Host.Outcome.next (State.pathWrite_of_carries (s := s.clearOut) hc ho v)
  have hread {w : Width} {b : Nat} (hc : carries p w b = true) (ho : s.pathClosed p = false) :
      exec (.registerRead p w b) s = .next (s.clearOut.busRead p w b) :=
    congrArg Host.Outcome.next (State.pathRead_of_carries (s := s.clearOut) hc ho)
  refine ⟨fun t _ hv hadmits hw => ?_, fun x t _ hadmits hr => ?_, fun w b hc ho hshape => ?_, fun w b hc ho hshape => ?_,
    fun b hc ho ha hreg hheld => ⟨?_, ?_⟩⟩
  · exact ⟨_, congrArg Host.Outcome.next (State.putReg_of_admits (State.admits_clearOut.mpr hadmits) hv hw), rfl, rfl⟩
  · exact ⟨_, congrArg Host.Outcome.next (State.pathRead_of_admitsRead (State.admitsRead_clearOut.mpr hadmits) hr), rfl, rfl⟩
  · refine ⟨_, hwrite hc ho, ?_⟩
    rw [State.busWrite_of_shape hshape]
    exact (State.Marks.denyWrite s.clearOut p b).emits _
  · refine ⟨_, hread hc ho, ?_⟩
    rw [State.busRead_of_misaligned hshape]
    exact (State.Marks.denyRead s.clearOut p b).emits _
  · refine ⟨_, hread hc ho, ?_⟩
    rw [State.busRead_of_hole (s := s.clearOut) ha hreg hheld]
    exact (State.Marks.holeSeen s.clearOut p b).emits _
  · refine ⟨_, hwrite hc ho, ?_⟩
    rw [State.busWrite_of_hole (s := s.clearOut) ha hreg hheld]
    exact (State.Marks.holeSeen s.clearOut p b).emits _

end Sys2Proof.Machine

end

section

/-! The SPI target of a hub whose islands are held in reset (R14, R545). -/

namespace Sys2Proof.Machine

/-- The power edge holds every island but the always-on one in reset. -/
def heldHub : State := { State.reset with edge := { held := true } }

/-- An unknown command byte sets no leaf there: the host island only clears its outputs. -/
theorem leafSet_spiOtherCommand_held : heldHub.clearOut.leafSet 820 = false := by decide

/-- Refutes O21: its clause on other command bytes says of every state that leaf 820 is set; in a hub held in reset the SPI
target does nothing. -/
theorem not_spiTarget : ¬ Obligations.SpiTarget := by
  unfold Obligations.SpiTarget
  intro h
  obtain ⟨-, -, -, hother, -⟩ := h heldHub 0 0 0 (by decide) (by decide)
  obtain ⟨u, hu, hleaf, -⟩ := hother (by decide) (by decide)
  have hexec : exec (.spiOtherCommand 0) heldHub = .next heldHub.clearOut := exec_of_down rfl
  obtain rfl := Host.Outcome.next.inj (hexec.symm.trans hu)
  exact absurd (hleaf.symm.trans leafSet_spiOtherCommand_held) (by decide)

end Sys2Proof.Machine

end

section

/-! A firmware measurement that steps its domain (R36, R364, R365): what a step takes off the clock, it takes off the measured
whole seconds too. -/

namespace Sys2Proof.Machine

/-- Domain B in free-run under source 3, with a low word of 0 held for the hub controller's write of TIME_MEAS. -/
def hubWithHeldMeasurement : State :=
  (State.reset.set F.TIME_DOM_CFG_src1 [1] 3).setHeldLow .hubController (Reg.TIME_MEAS_LO.addr [1]) (some 0)

/-- That hub after the write of a high word of 1: a measurement of 2^32 half nanoseconds, which is 2 whole seconds. -/
def hubSteppedByMeasurement : State :=
  hubWithHeldMeasurement.clearOut.pathWrite .hubController .w32 (Reg.TIME_MEAS_HI.addr [1]) 1

theorem seconds_of_steppedDomain : (hubSteppedByMeasurement.dom .b).seconds = 0 := by decide

theorem seconds_of_measurement : roundDiv (toSigned (0 + 1 * 2 ^ 32) 64 * 2 ^ 15) sec16 = 2 := by decide

/-- Refutes O20: its clause on a high word written after its low word says that the domain then holds the whole seconds measured,
and puts no condition on the domain's state; a domain that steps by the measurement holds none. -/
theorem not_registerPairsAndWindows : ¬ Obligations.RegisterPairsAndWindows := by
  unfold Obligations.RegisterPairsAndWindows
  intro h
  obtain ⟨-, -, -, -, hhigh, -⟩ := h.1 hubWithHeldMeasurement .hubController .TIME_MEAS_LO .TIME_MEAS_HI [1]
  obtain ⟨u, hu, -, hseconds, -⟩ := hhigh .b 0 1 (by decide) (by decide) (by decide) (by decide)
  have hexec : exec (.pairHighWrite .hubController (Reg.TIME_MEAS_HI.addr [1]) 1) hubWithHeldMeasurement =
      .next hubSteppedByMeasurement := rfl
  obtain rfl := Host.Outcome.next.inj (hexec.symm.trans hu)
  have hzero : (0 : Int) = 2 := seconds_of_steppedDomain.symm.trans (hseconds.trans seconds_of_measurement)
  exact absurd hzero (by decide)

end Sys2Proof.Machine

end

section

/-! The domains of the time core (R358 to R367): what the servo writes, and what it leaves. -/

namespace Sys2Proof.Machine

/-! A domain beside its registers. -/

section

variable (s : State) (d : Dom) (x : DomainState)

@[simp] theorem State.dom_setDom : (s.setDom d x).dom d = x := by cases d <;> rfl

@[simp] theorem State.capUnread_setDom : (s.setDom d x).time.capUnread = s.time.capUnread := by cases d <;> rfl

@[simp] theorem domOf_domIx : domOf ((domIx d).getD 0 0) = d := by cases d <;> rfl

end

/-- The words a servo writes: the state and the rate of a domain, the round of a master, and the cause tree. -/
def servoAddr (a : Nat) : Bool :=
  causeAddr a || ringAddr a || [0, 1].any fun i => a == Reg.TIME_DOM_STATUS.addr [i] || a == Reg.TIME_DOM_RATE.addr [i]

theorem servoAddr_of_causeAddr (a : Nat) (h : causeAddr a = true) : servoAddr a = true := by simp [servoAddr, h]

theorem servoAddr_status (d : Dom) : servoAddr (Reg.TIME_DOM_STATUS.addr (domIx d)) = true := by cases d <;> decide

theorem servoAddr_rate (d : Dom) : servoAddr (Reg.TIME_DOM_RATE.addr (domIx d)) = true := by cases d <;> decide

/-- From `s` to `t` domain d is steered: it keeps its last measurement and its firmware source, and the words beside `servoAddr`
and a capture not yet read stay. -/
structure State.Steers (d : Dom) (s t : State) : Prop where
  words : s.wordsKept t servoAddr
  capUnread : t.time.capUnread = s.time.capUnread
  theta : (t.dom d).theta = (s.dom d).theta
  measured : (t.dom d).measured = (s.dom d).measured
  fwValid : (t.dom d).fwValid = (s.dom d).fwValid

namespace State.Steers

variable {s₀ s : State} {d : Dom}

theorem refl (d : Dom) (s : State) : s.Steers d s := ⟨s.wordsKept_refl _, rfl, rfl, rfl, rfl⟩

theorem regsOnly {t : State} (hs : s₀.Steers d s) (h : s.regsOnly t servoAddr) : s₀.Steers d t := by
  obtain ⟨heq, hkept⟩ := h
  have htime : t.time = s.time := by rw [heq]
  have hdom : t.dom d = s.dom d := by simp only [State.dom, htime]
  exact ⟨State.wordsKept_trans hs.words hkept, (congrArg TimeState.capUnread htime).trans hs.capUnread,
    (congrArg DomainState.theta hdom).trans hs.theta, (congrArg DomainState.measured hdom).trans hs.measured,
    (congrArg DomainState.fwValid hdom).trans hs.fwValid⟩

theorem wr {r : Reg} {ix : List Nat} {v : Nat} (hs : s₀.Steers d s) (h : servoAddr (r.addr ix) = true) :
    s₀.Steers d (s.wr r ix v) :=
  hs.regsOnly (State.regsOnly_wr _ _ _ _ _ h)

/-- A field of the domain's TIME_DOM_STATUS is written. -/
theorem status {f : Fld} {v : Nat} (hs : s₀.Steers d s) (hf : f.reg = .TIME_DOM_STATUS := by rfl) :
    s₀.Steers d (s.set f (domIx d) v) :=
  hs.wr (hf ▸ servoAddr_status d)

theorem leaf {n unit code : Nat} {rec : Bool} (hs : s₀.Steers d s) : s₀.Steers d (s.leaf n unit code rec) :=
  hs.regsOnly (State.regsOnly_mono (s.leaf_regsOnly _ _ _ _) servoAddr_of_causeAddr)

theorem setDom {x : DomainState} (hs : s₀.Steers d s) (ht : x.theta = (s.dom d).theta) (hm : x.measured = (s.dom d).measured)
    (hf : x.fwValid = (s.dom d).fwValid) : s₀.Steers d (s.setDom d x) where
  words a ha := by simpa using hs.words a ha
  capUnread := by simpa using hs.capUnread
  theta := by simpa [ht] using hs.theta
  measured := by simpa [hm] using hs.measured
  fwValid := by simpa [hf] using hs.fwValid

theorem ite {c : Prop} [Decidable c] {a b : State} (ha : s₀.Steers d a) (hb : s₀.Steers d b) :
    s₀.Steers d (if c then a else b) := by
  split
  · exact ha
  · exact hb

theorem when {c : Bool} {f : State → State} (hs : s₀.Steers d s) (hf : ∀ {u}, s₀.Steers d u → s₀.Steers d (f u)) :
    s₀.Steers d (s.when c f) := .ite (hf hs) hs

theorem setRate {r : Int} (hs : s₀.Steers d s) : s₀.Steers d (s.setRate d r) := hs.wr (servoAddr_rate d)

theorem toDomState {st : Nat} (hs : s₀.Steers d s) : s₀.Steers d (s.toDomState d st) :=
  .ite hs (.leaf (.when hs.status fun h => h.status))

theorem showSource (hs : s₀.Steers d s) : s₀.Steers d (s.showSource d) := hs.status

theorem clearRuns (hs : s₀.Steers d s) : s₀.Steers d (s.clearRuns d) := hs.setDom rfl rfl rfl

theorem domStep {theta : Int} (hs : s₀.Steers d s) : s₀.Steers d (s.domStep d theta) :=
  .status <| .setDom hs rfl rfl rfl

theorem slew {ring : Bool} {theta : Int} (hs : s₀.Steers d s) : s₀.Steers d (s.slew d ring theta) :=
  .setRate <| .setDom hs rfl rfl rfl

theorem slewRemainder {theta : Int} (hs : s₀.Steers .a s) : s₀.Steers .a (s.slewRemainder theta) :=
  .setRate <| .setDom hs rfl rfl rfl

theorem stepAnnounced {r : Option Nat} {n : Int} (hs : s₀.Steers .a s) :
    s₀.Steers .a { s with time := { s.time with stepRound := r, stepN := n } } :=
  ⟨hs.words, hs.capUnread, hs.theta, hs.measured, hs.fwValid⟩

theorem announceStep {theta : Int} (hs : s₀.Steers .a s) : s₀.Steers .a (s.announceStep theta) :=
  .ite hs.slewRemainder (.slewRemainder (hs.stepAnnounced.wr rfl))

theorem roundFollows (hs : s₀.Steers d s) : s₀.Steers d (s.roundFollows d) := .when hs fun h => (h.wr rfl).wr rfl

theorem measureState {traceable : Bool} (hs : s₀.Steers d s) : s₀.Steers d (s.measureState d traceable) := by
  unfold State.measureState
  refine .when (.when (.when (.when hs fun h => ?_) fun h => h.clearRuns.toDomState) fun h => h.toDomState) fun h => h.status
  exact .setDom h.clearRuns.toDomState rfl rfl rfl

/-- What a measurement does after it has recorded θ. -/
theorem measure (s : State) (d : Dom) (theta : Int) (traceable : Bool) (clockClass : Nat) :
    (s.recordTheta d theta).Steers d (s.measure d theta traceable clockClass) := by
  have hstate : (s.recordTheta d theta).Steers d (((s.recordTheta d theta).set F.TIME_DOM_STATUS_clock_class (domIx d)
      clockClass).measureState d traceable) := (refl d _).status.measureState
  unfold State.measure
  dsimp only
  split
  · split
    · exact hstate.domStep.roundFollows
    · split
      · next hmaster =>
        obtain rfl : d = .a := by simpa using (Bool.and_eq_true_iff.mp hmaster).1
        exact hstate.announceStep
      · exact hstate.slew
  · exact hstate.slew

end State.Steers

end Sys2Proof.Machine

end

section

/-! Measurements of a domain by firmware, and the loss of its source (R363 to R365). -/

namespace Sys2Proof.Machine

variable {s t : State} {d : Dom}

/-- A measurement is the domain's last one. -/
theorem State.dom_recordTheta (s : State) (d : Dom) (theta : Int) :
    ((s.recordTheta d theta).dom d).theta = theta ∧ ((s.recordTheta d theta).dom d).measured = true ∧
      ((s.recordTheta d theta).dom d).fwValid = (s.dom d).fwValid := by
  cases d <;> exact ⟨rfl, rfl, rfl⟩

theorem ofSigned_lt (i : Int) (w : Nat) : ofSigned i w < 2 ^ w := by
  unfold ofSigned
  have hpos : (0 : Int) < ((2 ^ w : Nat) : Int) := by exact_mod_cast Nat.two_pow_pos w
  have hlt := Int.emod_lt_of_pos i hpos
  have hnonneg := Int.emod_nonneg i hpos.ne'
  omega

theorem State.offset_recordTheta (s : State) (d : Dom) (theta : Int) :
    (s.recordTheta d theta).rd .TIME_DOM_OFFSET (domIx d) = ofSigned (satSigned (theta / 256) 32) 32 := by
  unfold State.recordTheta
  dsimp only
  rw [State.rd_wr, Nat.mod_eq_of_lt (ofSigned_lt _ 32)]

theorem servoAddr_offset (d : Dom) : servoAddr (Reg.TIME_DOM_OFFSET.addr (domIx d)) = false := by cases d <;> decide

/-- Registers a servo does not write stay as they are while a domain is steered. -/
theorem State.Steers.rd (h : s.Steers d t) {r : Reg} {ix : List Nat} (hr : servoAddr (r.addr ix) = false) : t.rd r ix = s.rd r ix :=
  State.wordsKept_rd h.words r ix hr

/-- What a measurement by the source in use leaves (R363, R364). -/
theorem State.measure_result (s : State) (d : Dom) (theta : Int) (traceable : Bool) (clockClass : Nat) :
    let u := s.measure d theta traceable clockClass
    (u.dom d).theta = theta ∧ (u.dom d).measured = true ∧ (u.dom d).fwValid = (s.dom d).fwValid ∧
      u.rd .TIME_DOM_OFFSET (domIx d) = ofSigned (satSigned (theta / 256) 32) 32 := by
  have hsteers := State.Steers.measure s d theta traceable clockClass
  obtain ⟨htheta, hmeasured, hfw⟩ := s.dom_recordTheta d theta
  exact ⟨hsteers.theta.trans htheta, hsteers.measured.trans hmeasured, hsteers.fwValid.trans hfw,
    (hsteers.rd (servoAddr_offset d)).trans (s.offset_recordTheta d theta)⟩

/-! The source in use. -/

/-- A word of TIME_DOM_STATUS is not read when the source in use is found, nor when the ring reference is. -/
theorem State.followsRing_showSource (s : State) (d : Dom) : (s.showSource d).followsRing = s.followsRing := by
  unfold State.followsRing State.integrated State.isMaster State.is State.showSource State.setB
  rw [State.get_set_ne _ _ _ _ _ _ (by cases d <;> decide), State.get_set_ne _ _ _ _ _ _ (by cases d <;> decide)]

theorem State.src1_showSource (s : State) (d : Dom) : (s.showSource d).src1 d = s.src1 d :=
  State.get_set_ne _ _ _ _ _ _ (by cases d <;> decide)

theorem State.src2_showSource (s : State) (d : Dom) : (s.showSource d).src2 d = s.src2 d :=
  State.get_set_ne _ _ _ _ _ _ (by cases d <;> decide)

theorem State.dom_of_time (h : t.time = s.time) : t.dom d = s.dom d := by
  unfold State.dom
  rw [h]

@[simp] theorem State.dom_showSource (s : State) (d e : Dom) : (s.showSource d).dom e = s.dom e :=
  State.dom_of_time (State.time_setB ..)

@[simp] theorem State.followsRing_setDom (s : State) (d : Dom) (x : DomainState) : (s.setDom d x).followsRing = s.followsRing := by
  simp [State.followsRing, State.integrated, State.isMaster]

/-- Source 3 is in use while firmware measures (R364). -/
theorem State.sourceInUse_of_firmware (h3 : s.src1 d = 3) (hfw : (s.dom d).fwValid = true) : s.sourceInUse d = some 3 := by
  simp [State.sourceInUse, State.sourceValid, h3, hfw]

theorem State.sourceInUse_of_lost (h3 : s.src1 d = 3) (h0 : s.src2 d = 0) (hfw : (s.dom d).fwValid = false) :
    s.sourceInUse d = none := by
  simp [State.sourceInUse, State.sourceValid, h3, h0, hfw]

/-- A domain that does not follow the ring, with source 3 first, is measured by TIME_MEAS (R364, R365). -/
theorem State.timeMeasurement_result {lo hi : Nat} (hlo : lo < 2 ^ 32) (hhi : hi < 2 ^ 32) (hring : d = .a → s.followsRing = false)
    (h3 : s.src1 d = 3) :
    let u := s.timeMeasurement d lo hi
    let theta := toSigned (lo + hi * 2 ^ 32) 64 * 2 ^ 15
    (u.dom d).theta = theta ∧ (u.dom d).measured = true ∧ (u.dom d).fwValid = true ∧
      u.rd .TIME_DOM_OFFSET (domIx d) = ofSigned (satSigned (theta / 256) 32) 32 := by
  have hfree (x : DomainState) : ¬ (d == .a && ((s.setDom d x).showSource d).followsRing) = true := by
    rw [State.followsRing_showSource, State.followsRing_setDom]
    cases d with
    | a => simpa using hring rfl
    | b => simp
  have huse (x : DomainState) (hx : x.fwValid = true) : ((s.setDom d x).showSource d).sourceInUse d = some 3 := by
    refine State.sourceInUse_of_firmware ?_ (by simpa using hx)
    rw [State.src1_showSource]
    exact (State.get_setDom ..).trans h3
  unfold State.timeMeasurement
  dsimp only
  rw [if_neg (hfree _), if_pos (huse _ rfl), Nat.mod_eq_of_lt hlo, Nat.mod_eq_of_lt hhi]
  obtain ⟨htheta, hmeasured, hfw, hoffset⟩ := State.measure_result ((s.setDom d _).showSource d) d _ _ _
  refine ⟨htheta, hmeasured, hfw.trans ?_, hoffset⟩
  rw [State.dom_showSource, State.dom_setDom]

/-! Holdover. -/

/-- A write of another register leaves a leaf as it was. -/
theorem State.leafSet_wr_ne {r : Reg} {ix : List Nat} {n v : Nat} (h : Reg.CAUSE_LEAF.addr [n / 32] ≠ r.addr ix) :
    (s.wr r ix v).leafSet n = s.leafSet n := by
  unfold State.leafSet
  rw [State.rd_wr_ne _ _ _ _ _ _ h]

theorem causeAddr_status (d : Dom) : causeAddr (Reg.TIME_DOM_STATUS.addr (domIx d)) = false := by cases d <;> decide

theorem State.toDomState_holdover (h : s.domState d ≠ holdover) :
    s.toDomState d holdover = (s.set F.TIME_DOM_STATUS_state (domIx d) holdover).leaf (timeLeaf (4 + domBit d)) := if_neg h

/-- The rate of a domain is no part of its state, its traceability or its leaf. -/
theorem State.get_status_setRate (s : State) (d : Dom) (r : Int) {f : Fld} (hf : f.reg = .TIME_DOM_STATUS) :
    (s.setRate d r).get f (domIx d) = s.get f (domIx d) :=
  State.get_wr_ne _ _ _ _ _ _ (by rw [hf]; cases d <;> decide)

theorem State.Steers.enterHoldover {s₀ : State} (hs : s₀.Steers d s) : s₀.Steers d (s.enterHoldover d) :=
  .ite (.setRate <| .status <| .toDomState <| .setDom hs.clearRuns (by simp [State.clearRuns]) (by simp [State.clearRuns])
    (by simp [State.clearRuns])) hs

/-- A domain that takes the state holdover, with its leaf, its traceability and its rate. -/
def State.holdoverSet (s : State) (d : Dom) (keep : Bool) (r : Int) : State :=
  (((s.set F.TIME_DOM_STATUS_state (domIx d) holdover).leaf (timeLeaf (4 + domBit d))).setB F.TIME_DOM_STATUS_traceable (domIx d)
    keep).setRate d r

theorem State.domState_holdoverSet (s : State) (d : Dom) (keep : Bool) (r : Int) : (s.holdoverSet d keep r).domState d = holdover := by
  have hkeep (t : State) : (t.setB F.TIME_DOM_STATUS_traceable (domIx d) keep).get F.TIME_DOM_STATUS_state (domIx d) =
      t.get F.TIME_DOM_STATUS_state (domIx d) := State.get_set_field _ _ _ _ _ rfl (by decide) (by decide)
  have hleaf (t : State) : (t.leaf (timeLeaf (4 + domBit d))).get F.TIME_DOM_STATUS_state (domIx d) =
      t.get F.TIME_DOM_STATUS_state (domIx d) := State.get_leaf _ _ _ _ _ _ _ (causeAddr_status d)
  unfold State.domState State.holdoverSet
  rw [State.get_status_setRate _ _ _ rfl, hkeep, hleaf, State.get_set _ _ _ _ (by decide) (by decide)]
  rfl

theorem State.traceable_holdoverSet (s : State) (d : Dom) (keep : Bool) (r : Int) : (s.holdoverSet d keep r).traceable d = keep := by
  unfold State.traceable State.is State.holdoverSet
  rw [State.get_status_setRate _ _ _ rfl]
  unfold State.setB
  rw [State.get_set _ _ _ _ (by decide) (by decide)]
  cases keep <;> rfl

theorem State.leafSet_holdoverSet (s : State) (d : Dom) (keep : Bool) (r : Int) :
    (s.holdoverSet d keep r).leafSet (548 + domBit d) = true := by
  have hrate : Reg.CAUSE_LEAF.addr [(548 + domBit d) / 32] ≠ Reg.TIME_DOM_RATE.addr (domIx d) := by cases d <;> decide
  have hstatus : Reg.CAUSE_LEAF.addr [(548 + domBit d) / 32] ≠ Reg.TIME_DOM_STATUS.addr (domIx d) := by cases d <;> decide
  refine (State.leafSet_wr_ne hrate).trans ((State.leafSet_wr_ne hstatus).trans ?_)
  cases d <;> exact State.leafSet_leaf _ _ _ _ _ (by decide)

/-- A locked domain without a source enters holdover, traceable only with hold_trace seconds to keep it (R363). -/
theorem State.enterHoldover_of_locked (h : s.domState d = locked) :
    ∃ (t : State) (r : Int), s.enterHoldover d = t.holdoverSet d (s.traceable d && s.is F.TIME_DOM_CFG_hold_trace (domIx d)) r := by
  have hin : (s.domState d == locked || s.domState d == acquiring) = true := by simp [h]
  have hlocked (x : DomainState) : ((s.clearRuns d).setDom d x).domState d ≠ holdover := by
    have hstate : ((s.clearRuns d).setDom d x).domState d = s.domState d := (State.get_setDom ..).trans (State.get_setDom ..)
    rw [hstate, h]
    decide
  unfold State.enterHoldover
  dsimp only
  rw [if_pos hin, State.toDomState_holdover (hlocked _)]
  exact ⟨_, _, rfl⟩

end Sys2Proof.Machine

end

section

/-! A domain whose only source is lost (R363, R364). -/

namespace Sys2Proof.Machine

variable {s : State} {d : Dom}

/-- A field of TIME_DOM_STATUS beside on_src2 stays when the source in use is shown. -/
theorem State.get_status_showSource (s : State) (d : Dom) {f : Fld} (hf : f.reg = .TIME_DOM_STATUS) (hbits : 28 < f.lo ∨ f.hi < 28) :
    (s.showSource d).get f (domIx d) = s.get f (domIx d) :=
  State.get_set_field _ F.TIME_DOM_STATUS_on_src2 f _ _ hf hbits (by decide)

/-- The sources of a domain, when its firmware source was the only one and is lost. -/
theorem State.checkSources_of_lost (hring : d = .a → s.followsRing = false) (h3 : s.src1 d = 3) (h0 : s.src2 d = 0)
    (hfw : (s.dom d).fwValid = false) : s.checkSources d = (s.showSource d).enterHoldover d := by
  have hnone : (s.showSource d).sourceInUse d = none :=
    State.sourceInUse_of_lost ((State.src1_showSource ..).trans h3) ((State.src2_showSource ..).trans h0) (by simpa using hfw)
  refine if_neg ?_
  rw [hnone, State.followsRing_showSource]
  cases d with
  | a => simp [hring rfl]
  | b => simp

/-- What the loss of the source of a locked domain leaves (R363). -/
theorem State.sourceLossTimeout_result (hring : d = .a → s.followsRing = false) (h3 : s.src1 d = 3) (h0 : s.src2 d = 0)
    (hlocked : s.domState d = 2) :
    let u := (s.setDom d { s.dom d with fwValid := false }).checkSources d
    u.domState d = 3 ∧ (u.dom d).fwValid = false ∧ u.leafSet (548 + domBit d) = true ∧
      u.traceable d = (s.traceable d && s.is F.TIME_DOM_CFG_hold_trace (domIx d)) := by
  generalize hx : ({ s.dom d with fwValid := false } : DomainState) = x
  have hxfw : x.fwValid = false := by rw [← hx]
  have hstate : ((s.setDom d x).showSource d).domState d = locked :=
    ((State.get_status_showSource _ d rfl (by decide)).trans (State.get_setDom ..)).trans hlocked
  have htrace : ((s.setDom d x).showSource d).traceable d = s.traceable d :=
    congrArg (· != 0) ((State.get_status_showSource _ d rfl (by decide)).trans (State.get_setDom ..))
  have hhold : ((s.setDom d x).showSource d).is F.TIME_DOM_CFG_hold_trace (domIx d) = s.is F.TIME_DOM_CFG_hold_trace (domIx d) :=
    congrArg (· != 0) ((State.get_set_ne _ _ _ _ _ _ (by cases d <;> decide)).trans (State.get_setDom ..))
  obtain ⟨t, r, heq⟩ := State.enterHoldover_of_locked hstate
  have hfw := ((State.Steers.refl d ((s.setDom d x).showSource d)).enterHoldover).fwValid
  rw [State.dom_showSource, State.dom_setDom, hxfw] at hfw
  rw [State.checkSources_of_lost (by simpa using hring) ((State.get_setDom ..).trans h3) ((State.get_setDom ..).trans h0)
    (by simpa using hxfw)]
  refine ⟨?_, hfw, ?_, ?_⟩
  · rw [heq]
    exact State.domState_holdoverSet ..
  · rw [heq]
    exact State.leafSet_holdoverSet ..
  · rw [heq, State.traceable_holdoverSet, htrace, hhold]

end Sys2Proof.Machine

end

section

/-! Snapshots and captures: both domains at one instant (R362, R386). -/

namespace Sys2Proof.Machine

variable {s t u : State}

theorem State.time_of_regsOnly {f : Nat → Bool} (h : s.regsOnly t f) : t.time = s.time := by rw [h.1]

theorem State.now_of_time (h : t.time = s.time) (d : Dom) : t.now d = s.now d := congrArg DomainState.t (State.dom_of_time h)

/-- A write stores its word and may set leaves of the cause tree; it changes nothing else (R6, R9, R610). -/
theorem State.Marks.storeWord (s : State) (p : Path) (locked : Bool) (r : Reg) (ix : List Nat) (w : Nat) :
    s.Marks (s.storeWord p locked r ix w) fun a => causeAddr a || a == r.addr ix := by
  have hcause (a : Nat) (h : causeAddr a = true) : (causeAddr a || a == r.addr ix) = true := by simp [h]
  have hword (v : Nat) : s.Marks (s.wr r ix v) fun a => causeAddr a || a == r.addr ix := (refl s _).wr (by simp)
  have hreserved (v : Nat) (c : Bool) : s.Marks ((s.wr r ix v).when c fun s => match invalidLeaf (r.addr ix) with
      | some n => s.leaf n (if 608 ≤ n ∧ n < 672 then (n - 608) / 8 else 0)
      | none => s) fun a => causeAddr a || a == r.addr ix := by
    refine (hword v).when ?_
    split
    · exact (hword v).leaf hcause
    · exact hword v
  exact (hreserved _ _).when ((hreserved _ _).leaf hcause)

/-! Snapshots. -/

theorem State.snapOf_of_time (h : t.time = s.time) (l d : Nat) : t.snapOf l d = s.snapOf l d := by
  unfold State.snapOf
  rw [h]

theorem State.snapOf_timeSnap (s : State) (l d : Nat) : (s.timeSnap l).snapOf l d = if d = 0 then s.now .a else s.now .b := by
  unfold State.timeSnap State.snapOf
  rw [smGet_smSet_same]

theorem State.snapOf_timeSnap_ne (s : State) {l m : Nat} (h : m ≠ l) (d : Nat) : (s.timeSnap l).snapOf m d = s.snapOf m d := by
  unfold State.timeSnap State.snapOf
  rw [smGet_smSet_ne _ _ _ _ _ h]

theorem State.writeReg_timeSnap (s : State) (p : Path) (v : Nat) :
    s.writeReg p .TIME_SNAP [] v = some ((s.storeWord p (s.lockedFor p) .TIME_SNAP [] v).timeSnap (pathLatch p)) := rfl

/-! Captures. -/

/-- The words of a capture. -/
def captureAddr (a : Nat) : Bool := [0, 1].any fun k => a == Reg.TIME_CAP_NS.addr [k] || a == Reg.TIME_CAP_SEC.addr [k]

/-- From `s` to `t` a capture stays as it was, and unread if it was. -/
def State.KeepsCapture (s t : State) : Prop := s.wordsKept t (fun a => !captureAddr a) ∧ t.time.capUnread = s.time.capUnread

namespace State.KeepsCapture

theorem refl (s : State) : s.KeepsCapture s := ⟨s.wordsKept_refl _, rfl⟩

theorem trans (h : s.KeepsCapture t) (k : t.KeepsCapture u) : s.KeepsCapture u :=
  ⟨State.wordsKept_trans h.1 k.1, k.2.trans h.2⟩

theorem wr {r : Reg} {ix : List Nat} {v : Nat} (h : s.KeepsCapture t) (hr : captureAddr (r.addr ix) = false) :
    s.KeepsCapture (t.wr r ix v) :=
  h.trans ⟨(State.regsOnly_wr _ _ _ _ _ (by simpa using hr)).2, rfl⟩

theorem when {c : Bool} {f : State → State} (h : s.KeepsCapture t) (hf : s.KeepsCapture (f t)) : s.KeepsCapture (t.when c f) := by
  unfold State.when
  split
  · exact hf
  · exact h

/-- A servo writes no word of a capture. -/
theorem of_steers {d : Dom} (h : s.Steers d t) : s.KeepsCapture t := by
  refine ⟨fun a ha => h.words a ?_, h.capUnread⟩
  have hcap : captureAddr a = true := by simpa using ha
  rcases (by simpa [captureAddr, or_assoc] using hcap :
    a = Reg.TIME_CAP_NS.addr [0] ∨ a = Reg.TIME_CAP_SEC.addr [0] ∨ a = Reg.TIME_CAP_NS.addr [1] ∨ a = Reg.TIME_CAP_SEC.addr [1])
    with rfl | rfl | rfl | rfl
  all_goals decide

theorem recordTheta (s : State) (d : Dom) (theta : Int) : s.KeepsCapture (s.recordTheta d theta) :=
  .wr ⟨fun _ _ => by simp, by simp⟩ (by cases d <;> decide)

theorem measure (s : State) (d : Dom) (theta : Int) (traceable : Bool) (clockClass : Nat) :
    s.KeepsCapture (s.measure d theta traceable clockClass) :=
  (recordTheta s d theta).trans (of_steers (.measure ..))

theorem ppsMeasurement (s : State) (d : Dom) : s.KeepsCapture (s.ppsMeasurement d) := by
  have hshown : s.KeepsCapture ((s.setDom d { s.dom d with ppsValid := true }).showSource d) :=
    of_steers (.showSource <| .setDom (.refl d s) rfl rfl rfl)
  unfold State.ppsMeasurement
  dsimp only
  split
  · exact hshown
  · split
    · exact hshown.trans (measure ..)
    · exact hshown

theorem ppsSettle (h : s.KeepsCapture t) : s.KeepsCapture t.ppsSettle := .when h h

theorem selectDomain {c : Consumer} {d : Dom} (h : s.KeepsCapture t) : s.KeepsCapture (t.selectDomain c d) := by
  unfold State.selectDomain
  dsimp only
  split
  · exact h
  · exact h

end State.KeepsCapture

/-- `u` holds an unread capture of the times of `s`. -/
def State.Captured (s u : State) : Prop :=
  u.rd .TIME_CAP_NS [0] = quarterOf (s.now .a) * 2 ^ 30 + nsOf (s.now .a) ∧ u.rd .TIME_CAP_SEC [0] = secOf (s.now .a) % 2 ^ 32 ∧
    u.rd .TIME_CAP_NS [1] = quarterOf (s.now .b) * 2 ^ 30 + nsOf (s.now .b) ∧ u.rd .TIME_CAP_SEC [1] = secOf (s.now .b) % 2 ^ 32 ∧
    u.time.capUnread = true

theorem State.Captured.keep (h : s.Captured t) (k : t.KeepsCapture u) : s.Captured u := by
  obtain ⟨hnsA, hsecA, hnsB, hsecB, hunread⟩ := h
  obtain ⟨hwords, hsame⟩ := k
  exact ⟨(State.wordsKept_rd hwords _ _ rfl).trans hnsA, (State.wordsKept_rd hwords _ _ rfl).trans hsecA,
    (State.wordsKept_rd hwords _ _ rfl).trans hnsB, (State.wordsKept_rd hwords _ _ rfl).trans hsecB, hsame.trans hunread⟩

theorem State.Captured.of_time (h : t.Captured u) (htime : t.time = s.time) : s.Captured u := by
  unfold State.Captured at h ⊢
  rw [State.now_of_time htime, State.now_of_time htime] at h
  exact h

theorem captureWord_lt (t : Nat) : quarterOf t * 2 ^ 30 + nsOf t < 2 ^ 32 := by
  unfold quarterOf nsOf
  omega

/-- The four words of a capture do not overlap. -/
theorem State.rd_captureWords (s : State) (nsA secA nsB secB : Nat) :
    let u := (((s.wr .TIME_CAP_NS [0] nsA).wr .TIME_CAP_SEC [0] secA).wr .TIME_CAP_NS [1] nsB).wr .TIME_CAP_SEC [1] secB
    u.rd .TIME_CAP_NS [0] = nsA % 2 ^ 32 ∧ u.rd .TIME_CAP_SEC [0] = secA % 2 ^ 32 ∧ u.rd .TIME_CAP_NS [1] = nsB % 2 ^ 32 ∧
      u.rd .TIME_CAP_SEC [1] = secB % 2 ^ 32 := by
  refine ⟨?_, ?_, ?_, State.rd_wr ..⟩
  · rw [State.rd_wr_ne _ _ _ _ _ _ (by decide), State.rd_wr_ne _ _ _ _ _ _ (by decide), State.rd_wr_ne _ _ _ _ _ _ (by decide),
      State.rd_wr]
  · rw [State.rd_wr_ne _ _ _ _ _ _ (by decide), State.rd_wr_ne _ _ _ _ _ _ (by decide), State.rd_wr]
  · rw [State.rd_wr_ne _ _ _ _ _ _ (by decide), State.rd_wr]

/-- A capture counts as unread from the moment it is made. -/
theorem State.captured_withTime {x : TimeState} (hx : x.capUnread = true)
    (hnsA : t.rd .TIME_CAP_NS [0] = quarterOf (s.now .a) * 2 ^ 30 + nsOf (s.now .a))
    (hsecA : t.rd .TIME_CAP_SEC [0] = secOf (s.now .a) % 2 ^ 32)
    (hnsB : t.rd .TIME_CAP_NS [1] = quarterOf (s.now .b) * 2 ^ 30 + nsOf (s.now .b))
    (hsecB : t.rd .TIME_CAP_SEC [1] = secOf (s.now .b) % 2 ^ 32) : s.Captured { t with time := x } :=
  ⟨hnsA, hsecA, hnsB, hsecB, hx⟩

/-- A capture that is not turned away captures both domains. -/
theorem State.captured_capture {edge : Bool} (h : edge = true ∨ s.time.capMade ≠ some (s.time.cycles, true)) :
    s.Captured (s.capture edge) := by
  have htaken : ¬ (!edge ∧ s.time.capMade = some (s.time.cycles, true)) := by
    rcases h with rfl | h
    · simp
    · simp [h]
  have hmissed (c : Bool) : s.Marks (s.when c fun s => (s.setB F.TIME_PPS_CFG_cap_missed [] true).leaf (timeLeaf 6)) fun _ => true :=
    .when (.refl s _) (.leaf (.wr (.refl s _) rfl) fun _ _ => rfl)
  unfold State.capture
  dsimp only
  rw [if_neg htaken]
  have hm := State.time_of_regsOnly (hmissed (s.time.capUnread && !(edge && s.time.capMade == some (s.time.cycles, false)))).1
  generalize (s.when _ _) = m at hm ⊢
  obtain ⟨hnsA, hsecA, hnsB, hsecB⟩ := m.rd_captureWords (quarterOf (m.now .a) * 2 ^ 30 + nsOf (m.now .a)) (secOf (m.now .a) % 2 ^ 32)
    (quarterOf (m.now .b) * 2 ^ 30 + nsOf (m.now .b)) (secOf (m.now .b) % 2 ^ 32)
  exact State.Captured.of_time (State.captured_withTime (s := m) rfl (hnsA.trans (Nat.mod_eq_of_lt (captureWord_lt _)))
    (hsecA.trans (Nat.mod_mod _ _)) (hnsB.trans (Nat.mod_eq_of_lt (captureWord_lt _))) (hsecB.trans (Nat.mod_mod _ _))) hm

/-! CAPTURE_NOW: a write with the bit cap_now (R386). -/

/-- A merged word carries the bits asked for. -/
theorem State.testBit_merged (s : State) (p : Path) (r : Reg) (ix : List Nat) {mask bits i : Nat} (hm : mask.testBit i = true)
    (hb : bits.testBit i = true) : (s.merged p r ix mask bits).testBit i = true := by
  simp [State.merged, hm, hb]

theorem State.merged_lt (s : State) (p : Path) (r : Reg) (ix : List Nat) {mask : Nat} (bits : Nat) (h : mask < 2 ^ 32) :
    s.merged p r ix mask bits < 2 ^ 32 :=
  Nat.or_lt_two_pow (Nat.lt_of_le_of_lt Nat.and_le_right (by omega)) (Nat.lt_of_le_of_lt Nat.and_le_right h)

theorem State.writeReg_timePpsCfg (s : State) (p : Path) (v : Nat) :
    s.writeReg p .TIME_PPS_CFG [] v =
      let t := ((s.storeWord p (s.lockedFor p) .TIME_PPS_CFG [] v).when (natBit v 27) fun s => s.capture false).ppsSettle
      some (if s.lockedFor p then t else t.selectDomain .ppsOut (domOf (F.TIME_PPS_CFG_out_domain.of v))) := rfl

/-- A write to TIME_PPS_CFG with cap_now captures both domains, and goes on to PPS_OUT. -/
theorem State.writeReg_capNow (s : State) (p : Path) {v : Nat} (h : natBit v 27 = true)
    (hfirst : s.time.capMade ≠ some (s.time.cycles, true)) : ∃ t, s.writeReg p .TIME_PPS_CFG [] v = some t ∧ s.Captured t := by
  have hstored : (s.storeWord p (s.lockedFor p) .TIME_PPS_CFG [] v).time = s.time :=
    State.time_of_regsOnly (State.Marks.storeWord ..).1
  have hcaptured : s.Captured ((s.storeWord p (s.lockedFor p) .TIME_PPS_CFG [] v).capture false) :=
    .of_time (State.captured_capture (.inr (by rwa [hstored]))) hstored
  have hsettled := hcaptured.keep (.ppsSettle (.refl _))
  rw [State.writeReg_timePpsCfg, State.when, if_pos h]
  refine ⟨_, rfl, ?_⟩
  split
  · exact hsettled
  · exact hsettled.keep (.selectDomain (.refl _))

end Sys2Proof.Machine

end

section

/-! The commands of the time core that take a snapshot or a capture, measure, or lose a source. -/

namespace Sys2Proof.Machine

variable {s t : State} {p : Path} {d : Dom}

/-- The low word of a measurement is held for its path, and the high word takes it (R36). -/
theorem State.heldLow_setHeldLow (s : State) (p : Path) (addr : Nat) (v : Option Nat) : (s.setHeldLow p addr v).heldLow p addr = v :=
  smGet_smSet_same ..

theorem State.admits_setHeldLow {q : Path} {r : Reg} {ix : List Nat} {addr v : Nat} {x : Option Nat} {os : List Out} :
    ((s.setHeldLow q addr x).emits os).admits p r ix v ↔ s.admits p r ix v :=
  State.admits_relatched (s := s) (out := s.out ++ os) (line := s.line) (chip := (s.setHeldLow q addr x).chip) rfl

theorem measHi_addr (d : Dom) : Reg.TIME_MEAS_HI.addr (domIx d) - 4 = Reg.TIME_MEAS_LO.addr (domIx d) := by cases d <;> rfl

theorem State.writeReg_measLo (s : State) (p : Path) (ix : List Nat) (v : Nat) :
    s.writeReg p .TIME_MEAS_LO ix v = some (s.setHeldLow p (Reg.TIME_MEAS_LO.addr ix) (some v)) := rfl

theorem State.writeReg_measHi {lo : Nat} (h : s.heldLow p (Reg.TIME_MEAS_LO.addr (domIx d)) = some lo) (v : Nat) :
    s.writeReg p .TIME_MEAS_HI (domIx d) v =
      some ((s.setHeldLow p (Reg.TIME_MEAS_LO.addr (domIx d)) none).timeMeasurement d lo v) := by
  rw [← measHi_addr] at h ⊢
  simp only [State.writeReg, h, domOf_domIx]

/-- What TIME_SNAPSHOT leaves: the path's snapshot of both domains, and every other path's as it was. -/
theorem exec_timeSnapshot (h : s.admits p .TIME_SNAP [] 1) :
    ∃ u, exec (.timeSnapshot p) s = .next u ∧ u.snapOf (pathLatch p) 0 = s.now .a ∧ u.snapOf (pathLatch p) 1 = s.now .b ∧
      ∀ l, l ≠ pathLatch p → ∀ d, u.snapOf l d = s.snapOf l d := by
  have htime (locked : Bool) : (s.clearOut.storeWord p locked .TIME_SNAP [] 1).time = s.time :=
    State.time_of_regsOnly (s := s.clearOut) (State.Marks.storeWord ..).1
  have hput := State.putReg_of_admits (State.admits_clearOut.mpr h) (by decide) (State.writeReg_timeSnap s.clearOut p 1)
  refine ⟨_, congrArg Host.Outcome.next hput, ?_, ?_, fun l hl d => ?_⟩
  · exact (State.snapOf_timeSnap _ (pathLatch p) 0).trans (State.now_of_time (htime _) .a)
  · exact (State.snapOf_timeSnap _ (pathLatch p) 1).trans (State.now_of_time (htime _) .b)
  · exact (State.snapOf_timeSnap_ne _ hl d).trans (State.snapOf_of_time (htime _) l d)

/-- What an edge of PPS_IN of the polarity in cap_src leaves. -/
theorem exec_ppsInEdge_captured {rising : Bool} (hup : s.down .timeCore = false)
    (hsel : s.get F.TIME_PPS_CFG_cap_src = if rising then 1 else 2) :
    ∃ u, exec (.ppsInEdge rising) s = .next u ∧ s.Captured u := by
  have hcaptured : s.Captured (s.clearOut.capture true) := .of_time (State.captured_capture (.inl rfl)) rfl
  refine ⟨((s.clearOut.capture true).ppsMeasurement .a).ppsMeasurement .b, ?_,
    (hcaptured.keep (.ppsMeasurement _ .a)).keep (.ppsMeasurement _ .b)⟩
  have htaken : (s.get F.TIME_PPS_CFG_cap_src = 1 ∧ rising) ∨ (s.get F.TIME_PPS_CFG_cap_src = 2 ∧ ¬ rising) := by
    cases rising with
    | false => exact .inr ⟨hsel, by simp⟩
    | true => exact .inl ⟨hsel, rfl⟩
  exact (if_neg (by simp [hup])).trans (if_pos htaken)

/-- An edge of the other polarity is not taken. -/
theorem exec_ppsInEdge_ignored (hup : s.down .timeCore = false) (hsel : s.get F.TIME_PPS_CFG_cap_src = 1) :
    exec (.ppsInEdge false) s = .next s.clearOut :=
  (if_neg (by simp [hup])).trans (if_neg (by simp [hsel]))

/-- What CAPTURE_NOW leaves, when no edge of PPS_IN has been captured in the same cycle. -/
theorem exec_captureNow (h : s.admits p .TIME_PPS_CFG [] (s.merged p .TIME_PPS_CFG [] 0x8000000 0x8000000))
    (hfirst : s.time.capMade ≠ some (s.time.cycles, true)) : ∃ u, exec (.captureNow p) s = .next u ∧ s.Captured u := by
  have hbit : natBit (s.merged p .TIME_PPS_CFG [] 0x8000000 0x8000000) 27 = true :=
    State.testBit_merged _ _ _ _ (by decide) (by decide)
  obtain ⟨t, hwrite, hcaptured⟩ := s.clearOut.writeReg_capNow p hbit hfirst
  have hput := State.putReg_of_admits (State.admits_clearOut.mpr h) (State.merged_lt _ _ _ _ _ (by decide)) hwrite
  exact ⟨_, congrArg Host.Outcome.next hput, (hcaptured.of_time rfl).keep ⟨fun _ _ => rfl, rfl⟩⟩

/-- What TIME_MEASUREMENT_WRITE leaves of a domain under source 3 (R36, R364, R365). -/
theorem exec_timeMeasurementWrite {lo hi : Nat} (hring : d = .a → s.followsRing = false) (hlo : lo < 2 ^ 32) (hhi : hi < 2 ^ 32)
    (hadmitsLo : s.admits p .TIME_MEAS_LO (domIx d) lo) (hadmitsHi : s.admits p .TIME_MEAS_HI (domIx d) hi) (h3 : s.src1 d = 3) :
    let theta := toSigned (lo + hi * 2 ^ 32) 64 * 2 ^ 15
    ∃ u, exec (.timeMeasurementWrite p d lo hi) s = .next u ∧ (u.dom d).theta = theta ∧ (u.dom d).measured = true ∧
      (u.dom d).fwValid = true ∧ u.rd .TIME_DOM_OFFSET (domIx d) = ofSigned (satSigned (theta / 256) 32) 32 := by
  have hputLo := State.putReg_of_admits (State.admits_clearOut.mpr hadmitsLo) hlo (State.writeReg_measLo s.clearOut p (domIx d) lo)
  generalize acknowledged p (Reg.TIME_MEAS_LO.addr (domIx d)) = os at hputLo
  have hheld : ((s.clearOut.setHeldLow p (Reg.TIME_MEAS_LO.addr (domIx d)) (some lo)).emits os).heldLow p
      (Reg.TIME_MEAS_LO.addr (domIx d)) = some lo := State.heldLow_setHeldLow ..
  have hputHi := State.putReg_of_admits (State.admits_setHeldLow.mpr (State.admits_clearOut.mpr hadmitsHi)) hhi
    (State.writeReg_measHi hheld hi)
  have hexec : exec (.timeMeasurementWrite p d lo hi) s = .next ((s.clearOut.putReg p .TIME_MEAS_LO (domIx d) lo).putReg p
      .TIME_MEAS_HI (domIx d) hi) := rfl
  rw [hputLo, hputHi] at hexec
  exact ⟨_, hexec, State.timeMeasurement_result hlo hhi hring h3⟩

/-- What SOURCE_LOSS_TIMEOUT leaves of a locked domain whose source 3 was its only one (R363). -/
theorem exec_sourceLossTimeout (hup : s.down .timeCore = false) (hring : d = .a → s.followsRing = false) (h3 : s.src1 d = 3)
    (h0 : s.src2 d = 0) (hlocked : s.domState d = 2) :
    ∃ u, exec (.sourceLossTimeout d false) s = .next u ∧ u.domState d = 3 ∧ (u.dom d).fwValid = false ∧
      u.leafSet (548 + domBit d) = true ∧ u.traceable d = (s.traceable d && s.is F.TIME_DOM_CFG_hold_trace (domIx d)) := by
  have h3' : s.clearOut.src1 d = 3 := h3
  have hexec : exec (.sourceLossTimeout d false) s =
      .next ((s.clearOut.setDom d { s.clearOut.dom d with fwValid := false }).checkSources d) :=
    (if_neg (by simp [hup])).trans (by simp [h3'])
  exact ⟨_, hexec, State.sourceLossTimeout_result hring h3 h0 hlocked⟩

/-- What HOLD_TRACE_EXPIRY leaves of a domain in holdover (R363). -/
theorem exec_holdTraceExpiry (hup : s.down .timeCore = false) (h : s.domState d = 3) :
    ∃ u, exec (.holdTraceExpiry d) s = .next u ∧ u.traceable d = false ∧
      s.regsOnly u fun a => a == Reg.TIME_DOM_STATUS.addr (domIx d) := by
  have hholdover : (s.clearOut.domState d == holdover) = true := beq_iff_eq.mpr h
  refine ⟨s.clearOut.setB F.TIME_DOM_STATUS_traceable (domIx d) false, (if_neg (by simp [hup])).trans ?_, ?_, ?_⟩
  · exact congrArg Host.Outcome.next (if_pos hholdover)
  · unfold State.traceable State.is State.setB
    rw [State.get_set _ _ _ _ (by decide) (by decide)]
    rfl
  · exact State.regsOnly_trans (s.regsOnly_clearOut _) (State.regsOnly_wr _ _ _ _ _ (beq_self_eq_true _))

/-- Settles O14: each command of the time core has the outcome of its rule. -/
theorem timeCapturesAndSources : Obligations.TimeCapturesAndSources := by
  unfold Obligations.TimeCapturesAndSources
  refine ⟨fun s p hup => ?_, fun s p d hup hring => ?_⟩
  · exact ⟨exec_timeSnapshot, exec_ppsInEdge_captured (rising := true) hup, exec_ppsInEdge_captured (rising := false) hup,
      exec_ppsInEdge_ignored hup, exec_captureNow⟩
  · exact ⟨fun lo hi hlo hhi hadmitsLo hadmitsHi h3 => exec_timeMeasurementWrite hring hlo hhi hadmitsLo hadmitsHi h3,
      exec_sourceLossTimeout hup hring, exec_holdTraceExpiry hup⟩

end Sys2Proof.Machine

end

section

/-! A backup that takes over a hub which heads both directions already (R134): it has no head to become, so nothing brings it to
line mode. -/

namespace Sys2Proof.Machine

/-- What BACKUP_TAKEOVER makes of a backup whose turn has come (R133, R134). -/
def State.takenOver (s : State) : State :=
  let t := s.takeMastership.lineMaster.sourcesApply.masterBitmap s.ring.seenBefore
  { t with ring := { t.ring with originated := true } }

theorem exec_backupTakeover {s : State} {n : Nat} (hup : s.down .ring = false) (hlost : s.ring.lossRounds = some n)
    (hturn : s.get F.RING_START_STATUS_backup_pos ≤ n + 1) : exec .backupTakeover s = .next s.clearOut.takenOver := by
  have hlost' : s.clearOut.ring.lossRounds = some n := hlost
  refine (if_neg (by simp [hup])).trans ?_
  dsimp only
  rw [hlost']
  exact if_pos hturn

/-- A hub in loop mode whose RING_STATUS shows it head of both directions, in the round in which the loss was declared. -/
def loopHubAtBothEnds : State :=
  { ((State.reset.set F.RING_STATUS_mode [] 1).setHead .east true).setHead .west true with ring := { lossRounds := some 0 } }

theorem down_loopHubAtBothEnds : loopHubAtBothEnds.down .ring = false := by decide +kernel

theorem backupPos_loopHubAtBothEnds : loopHubAtBothEnds.get F.RING_START_STATUS_backup_pos ≤ 0 + 1 := by decide +kernel

theorem mode_loopHubAtBothEnds : loopHubAtBothEnds.get F.RING_STATUS_mode = 1 := by decide +kernel

theorem mode_takenOver_loopHubAtBothEnds : loopHubAtBothEnds.clearOut.takenOver.get F.RING_STATUS_mode = 1 := by decide +kernel

/-- Refutes O24: its clause on BACKUP_TAKEOVER says that loop mode gives way to line mode in every state; a hub that heads both
directions already becomes head of neither, and its mode stays. -/
theorem not_ringMastershipAndUpkeep : ¬ Obligations.RingMastershipAndUpkeep := by
  unfold Obligations.RingMastershipAndUpkeep
  intro h
  obtain ⟨-, htakeover, -⟩ := h.1 loopHubAtBothEnds .hubController down_loopHubAtBothEnds
  obtain ⟨u, hu, -, -, -, hline, -⟩ := htakeover 0 rfl backupPos_loopHubAtBothEnds
  obtain rfl := Host.Outcome.next.inj
    ((exec_backupTakeover down_loopHubAtBothEnds rfl backupPos_loopHubAtBothEnds).symm.trans hu)
  have hmode : 1 = 2 := mode_takenOver_loopHubAtBothEnds.symm.trans (hline mode_loopHubAtBothEnds)
  cases hmode

end Sys2Proof.Machine

end

section

/-! Fields of one register (R55): a counter that counts on, and a direction or a hello that is replaced. -/

namespace Sys2Proof.Machine

theorem satInc_le (n top : Nat) : satInc n top ≤ top := by
  unfold satInc
  split
  · assumption
  · exact Nat.le_refl _

/-- A counter counts on to its top (R7). -/
theorem State.get_inc (s : State) (f : Fld) (ix : List Nat) (h : f.lo ≤ f.hi) (h32 : f.hi < 32) :
    (s.inc f ix).get f ix = satInc (s.get f ix) f.top := by
  have hlt : satInc (s.get f ix) f.top < 2 ^ (f.hi + 1 - f.lo) :=
    Nat.lt_of_le_of_lt (satInc_le _ _) (Nat.sub_lt (Nat.two_pow_pos _) Nat.one_pos)
  rw [State.inc, State.get_set _ _ _ _ h h32, Nat.mod_eq_of_lt hlt]

theorem State.when_of {P : State → Prop} {s : State} {c : Bool} {f : State → State} (hs : P s) (hf : P (f s)) : P (s.when c f) := by
  unfold State.when
  split
  · exact hf
  · exact hs

/-- A field shows its register word alone. -/
theorem State.get_of_regs {s t : State} (h : t.regs = s.regs) (f : Fld) (ix : List Nat) : t.get f ix = s.get f ix := by
  unfold State.get State.rd State.rdw
  rw [h]

theorem State.is_of_regs {s t : State} (h : t.regs = s.regs) (f : Fld) (ix : List Nat) : t.is f ix = s.is f ix := by
  unfold State.is
  rw [State.get_of_regs h]

theorem State.rd_of_regs {s t : State} (h : t.regs = s.regs) (r : Reg) (ix : List Nat) : t.rd r ix = s.rd r ix := by
  unfold State.rd State.rdw
  rw [h]

theorem State.leafSet_of_regs {s t : State} (h : t.regs = s.regs) (n : Nat) : t.leafSet n = s.leafSet n := by
  unfold State.leafSet State.rd State.rdw
  rw [h]

theorem State.is_setB (s : State) (f : Fld) (ix : List Nat) (b : Bool) (h : f.lo = f.hi) (h32 : f.hi < 32) :
    (s.setB f ix b).is f ix = b := by
  unfold State.is State.setB
  rw [State.get_set _ _ _ _ (Nat.le_of_eq h) h32, h, Nat.add_sub_cancel_left]
  cases b <;> rfl

@[simp] theorem State.rdir_setRdir (s : State) (d : Side) (x : RingDir) : (s.setRdir d x).rdir d = x := by cases d <;> rfl

@[simp] theorem State.hello_setRdir (s : State) (d p : Side) (x : RingDir) : (s.setRdir d x).hello p = s.hello p := by
  cases d <;> cases p <;> rfl

@[simp] theorem State.hello_setHello (s : State) (p : Side) (x : HelloState) : (s.setHello p x).hello p = x := by cases p <;> rfl

end Sys2Proof.Machine

end

section

/-! Permits while no request waits (R564, R566): a request is granted at once, and a return grants nothing. -/

namespace Sys2Proof.Machine

/-- The state with other permits. -/
def State.withPermits (s : State) (x : PermitState) : State := { s with permits := x }

variable {s : State}

theorem State.permitExamine_of_noneWaits (h : s.permits.waiting = []) : s.permitExamine = s := by
  have horder : s.permitOrder = [] := by simp [State.permitOrder, h]
  unfold State.permitExamine
  rw [horder]
  split <;> rfl

theorem State.permitGive_of_noneWaits (k : PermitKind) (unit : Nat) (h : s.permits.waiting = []) :
    s.permitGive k unit = s.withPermits { held := s.permits.held.erase (k, unit) } := by
  unfold State.permitGive
  split
  · rw [State.permitExamine_of_noneWaits (by simp [h]), h]
    rfl
  · next hunknown =>
    have hheld : (k, unit) ∉ s.permits.held := by
      simp only [State.permitKnown, State.permitHeld, h] at hunknown
      simpa using hunknown
    rw [List.erase_of_not_mem hheld, ← h]
    rfl

/-- A request made now. -/
def State.requestNow (s : State) (k : PermitKind) (unit : Nat) : PermitWait := { kind := k, unit := unit, since := s.time.cycles }

theorem State.permitAsk_of_noneWaits {k : PermitKind} {unit : Nat} (h : s.permits.waiting = []) (hheld : s.permitHeld k unit = false) :
    s.permitAsk k unit = (s.withPermits { held := s.permits.held, waiting := [s.requestNow k unit] }).permitExamine := by
  have hunknown : s.permitKnown k unit = false := by simp [State.permitKnown, hheld, h]
  unfold State.permitAsk
  rw [if_neg (by simp [hunknown]), h]
  rfl

/-- The examination of one port's request grants it where it fits. -/
theorem State.permitExamine_serdes {unit : Nat} (hfits : s.permitFits .serdes = true) (hrevoked : s.is F.PMT_STATUS_revoked = false) :
    (s.withPermits { held := s.permits.held, waiting := [s.requestNow .serdes unit] }).permitExamine =
      s.withPermits { held := s.permits.held ++ [(.serdes, unit)],
                      waiting := [s.requestNow .serdes unit].erase (s.requestNow .serdes unit) } :=
  (if_neg (ne_true_of_eq_false hrevoked)).trans <| (if_pos hfits).trans <| (if_neg Bool.false_ne_true).trans rfl

/-- A port's request that fits is granted in the examination it brings. -/
theorem State.permitAsk_serdes_granted {unit : Nat} (h : s.permits.waiting = []) (hheld : s.permitHeld .serdes unit = false)
    (hfits : s.permitFits .serdes = true) (hrevoked : s.is F.PMT_STATUS_revoked = false) :
    s.permitAsk .serdes unit = s.withPermits { held := s.permits.held ++ [(.serdes, unit)] } := by
  rw [State.permitAsk_of_noneWaits h hheld, State.permitExamine_serdes hfits hrevoked, List.erase_cons_head]

theorem State.regs_withPermits (s : State) (x : PermitState) : (s.withPermits x).regs = s.regs := rfl

end Sys2Proof.Machine

end

section

/-! Training of a port (R54 to R57, R564). -/

namespace Sys2Proof.Machine

theorem leafAssigned_portLeaf (p : Side) {i : Nat} (h : i < 2) : leafAssigned (portLeaf p i) = true := by
  obtain rfl | rfl : i = 0 ∨ i = 1 := by omega
  all_goals cases p <;> decide

theorem causeAddr_portStatus (p : Side) : causeAddr (Reg.RING_PORT_STATUS.addr [sideIx p]) = false := by cases p <;> rfl

theorem portState_setPortState (s : State) (p : Side) (v : Nat) (h : v < 16) : (s.setPortState p v).portState p = v :=
  (s.get_set F.RING_PORT_STATUS_state [sideIx p] v (by decide) (by decide)).trans (Nat.mod_eq_of_lt h)

theorem State.regsOnly_permits {s t : State} {f : Nat → Bool} (h : s.regsOnly t f) : t.permits = s.permits := by rw [h.1]

theorem State.wordsKept_leaf (s : State) (n unit code : Nat) (rec : Bool) {f : Nat → Bool} (h : ∀ a, causeAddr a = true → f a = true) :
    s.wordsKept (s.leaf n unit code rec) f := (State.regsOnly_mono (s.leaf_regsOnly n unit code rec) h).2

section

variable {s : State} {p : Side}

theorem regsOnly_setPortState (s : State) (v : Nat) :
    s.clearOut.regsOnly (s.clearOut.setPortState p v) fun a => a == Reg.RING_PORT_STATUS.addr [sideIx p] :=
  State.regsOnly_set _ _ _ _ _ (beq_self_eq_true _)

/-- The port once the signal is seen (R55). -/
def State.signalSeen (s : State) (p : Side) : State := (s.clearOut.setPortState p 1).inc F.RING_PORT_STATUS_retrain_count [sideIx p]

theorem regsOnly_signalSeen (s : State) (p : Side) : s.regsOnly (s.signalSeen p) fun a => a == Reg.RING_PORT_STATUS.addr [sideIx p] :=
  State.regsOnly_trans (regsOnly_setPortState s 1) (State.regsOnly_set _ _ _ _ _ (beq_self_eq_true _))

theorem permits_signalSeen (s : State) (p : Side) : (s.signalSeen p).permits = s.permits :=
  State.regsOnly_permits (regsOnly_signalSeen s p)

theorem portState_signalSeen (s : State) (p : Side) : (s.signalSeen p).portState p = 1 :=
  (State.get_set_field _ F.RING_PORT_STATUS_retrain_count F.RING_PORT_STATUS_state _ _ rfl (by decide) (by decide)).trans
    (portState_setPortState _ _ _ (by decide))

theorem retrainCount_signalSeen (s : State) (p : Side) :
    (s.signalSeen p).get F.RING_PORT_STATUS_retrain_count [sideIx p] = satInc (s.get F.RING_PORT_STATUS_retrain_count [sideIx p]) 127 := by
  unfold State.signalSeen
  rw [State.get_inc _ _ _ (by decide) (by decide)]
  exact congrArg (satInc · 127) (State.get_set_field _ F.RING_PORT_STATUS_state F.RING_PORT_STATUS_retrain_count _ _ rfl (by decide) (by decide))

theorem exec_signalDetect (hup : s.down .ring = false) (hen : s.portEnabled p = true) (h : s.portState p = 0 ∨ s.portState p = 7) :
    exec (.signalDetect p) s = .next ((s.signalSeen p).when (s.get F.CFG_STATUS_state == 5) fun s => s.permitAsk .serdes (sideIx p)) :=
  (if_neg (by simp [hup])).trans <| (if_pos ⟨hen, h⟩).trans <| by
    have hstate : (s.signalSeen p).get F.CFG_STATUS_state = s.get F.CFG_STATUS_state :=
      State.regsOnly_get (regsOnly_signalSeen s p) F.CFG_STATUS_state [] (by cases p <;> rfl)
    rw [← hstate]
    rfl

/-- A signal before ring-ready asks for no permit. -/
theorem exec_signalDetect_unready (hup : s.down .ring = false) (hen : s.portEnabled p = true)
    (h : s.portState p = 0 ∨ s.portState p = 7) (hready : s.get F.CFG_STATUS_state ≠ 5) :
    ∃ u, exec (.signalDetect p) s = .next u ∧ s.regsOnly u (fun a => a == Reg.RING_PORT_STATUS.addr [sideIx p]) ∧ u.portState p = 1 ∧
      u.get F.RING_PORT_STATUS_retrain_count [sideIx p] = satInc (s.get F.RING_PORT_STATUS_retrain_count [sideIx p]) 127 :=
  ⟨s.signalSeen p, (exec_signalDetect hup hen h).trans (by simp [State.when, hready]), regsOnly_signalSeen s p, portState_signalSeen s p,
    retrainCount_signalSeen s p⟩

/-- From ring-ready on the permit is asked for with the signal, and a free governor grants it at once. -/
theorem exec_signalDetect_ready (hup : s.down .ring = false) (hen : s.portEnabled p = true)
    (h : s.portState p = 0 ∨ s.portState p = 7) (hready : s.get F.CFG_STATUS_state = 5) (hnone : s.permits.waiting = [])
    (hheld : s.permitHeld .serdes (sideIx p) = false) (hfits : s.permitFits .serdes = true) (hrevoked : s.is F.PMT_STATUS_revoked = false) :
    ∃ u, exec (.signalDetect p) s = .next u ∧ s.wordsKept u (fun a => a == Reg.RING_PORT_STATUS.addr [sideIx p]) ∧ u.portState p = 1 ∧
      u.permits.held = s.permits.held ++ [(.serdes, sideIx p)] := by
  have hkept (f : Fld) (hf : (f.reg.addr [] == Reg.RING_PORT_STATUS.addr [sideIx p]) = false) : (s.signalSeen p).get f = s.get f :=
    State.regsOnly_get (regsOnly_signalSeen s p) f [] hf
  have hfits' : (s.signalSeen p).permitFits .serdes = true := by
    unfold State.permitFits State.unitsInUse
    rw [hkept F.PMT_CFG_budget (by cases p <;> rfl), permits_signalSeen]
    exact hfits
  have hrevoked' : (s.signalSeen p).is F.PMT_STATUS_revoked = false := by
    unfold State.is
    rw [hkept F.PMT_STATUS_revoked (by cases p <;> rfl)]
    exact hrevoked
  have hheld' : (s.signalSeen p).permitHeld .serdes (sideIx p) = false := by rw [State.permitHeld, permits_signalSeen, ← hheld]; rfl
  have hask := State.permitAsk_serdes_granted (by rwa [permits_signalSeen]) hheld' hfits' hrevoked'
  rw [permits_signalSeen] at hask
  refine ⟨(s.signalSeen p).withPermits { held := s.permits.held ++ [(.serdes, sideIx p)] },
    (exec_signalDetect hup hen h).trans (congrArg _ ?_), ?_, ?_, rfl⟩
  · rw [State.when, if_pos (beq_iff_eq.mpr hready), hask]
  · exact (regsOnly_signalSeen s p).2
  · exact (State.get_of_regs (State.regs_withPermits _ _) _ _).trans (portState_signalSeen s p)

theorem exec_cdrLock (hup : s.down .ring = false) :
    exec (.cdrLock p) s =
      .next (s.clearOut.when (s.portState p == 1 && s.permitHeld .serdes (sideIx p)) fun s => s.setPortState p 2) :=
  if_neg (by simp [hup])

theorem exec_blockLock (hup : s.down .ring = false) :
    exec (.blockLock p) s = .next (s.clearOut.when (s.portState p == 2) fun s => s.setPortState p 3) :=
  if_neg (by simp [hup])

/-! The end of training. -/

/-- A port whose training has failed (R55, R57): its permit is returned, and its leaf set. -/
def State.trainingFailed (s : State) (p : Side) : State :=
  ((s.clearOut.setPortState p 0).permitGive .serdes (sideIx p)).leaf (portLeaf p 1) (sideIx p) 0 true

theorem trainingFailed_result (hnone : s.permits.waiting = []) :
    (s.trainingFailed p).portState p = 0 ∧ (s.trainingFailed p).leafSet (portLeaf p 1) = true ∧
      s.wordsKept (s.trainingFailed p) (fun a => a == Reg.RING_PORT_STATUS.addr [sideIx p] || causeAddr a) ∧
      (s.trainingFailed p).permits.held = s.permits.held.erase (.serdes, sideIx p) := by
  have hpermits : (s.clearOut.setPortState p 0).permits = s.permits := State.regsOnly_permits (regsOnly_setPortState s 0)
  have hgive := State.permitGive_of_noneWaits (s := s.clearOut.setPortState p 0) .serdes (sideIx p) (by rwa [hpermits])
  rw [hpermits] at hgive
  unfold State.trainingFailed
  refine ⟨?_, State.leafSet_leaf _ _ _ _ _ (leafAssigned_portLeaf p (by decide)), ?_, ?_⟩
  · exact (State.get_leaf _ _ _ _ _ F.RING_PORT_STATUS_state _ (causeAddr_portStatus p)).trans
      (hgive ▸ portState_setPortState s.clearOut p 0 (by decide))
  · refine State.wordsKept_trans ?_ (State.wordsKept_leaf _ _ _ _ _ (by simp_all))
    rw [hgive]
    exact (State.regsOnly_mono (regsOnly_setPortState s 0) (by simp_all)).2
  · rw [State.regsOnly_permits (State.leaf_regsOnly _ _ _ _ _), hgive]
    rfl

/-- The lane facts and the link delay of a port that is deskewed (R54, R55, R57). -/
def State.laneFacts (s : State) (p : Side) (swap : Bool) (polInv skew roundTrip : Nat) : State :=
  ((((s.setB F.RING_PORT_STATUS_lane_swap [sideIx p] swap).set F.RING_PORT_STATUS_pol_inv [sideIx p] polInv).set
    F.RING_PORT_STATUS_skew [sideIx p] skew).set F.RING_LINK_DELAY_link_delay [sideIx p] (roundTrip / 2)).setPortState p 4

theorem laneFacts_result (s : State) (p : Side) (swap : Bool) {polInv skew roundTrip : Nat} (hpol : polInv < 4) (hskew : skew < 1024)
    (htrip : roundTrip < 2 ^ 25) :
    (s.laneFacts p swap polInv skew roundTrip).portState p = 4 ∧
      (s.laneFacts p swap polInv skew roundTrip).is F.RING_PORT_STATUS_lane_swap [sideIx p] = swap ∧
      (s.laneFacts p swap polInv skew roundTrip).get F.RING_PORT_STATUS_pol_inv [sideIx p] = polInv ∧
      (s.laneFacts p swap polInv skew roundTrip).get F.RING_PORT_STATUS_skew [sideIx p] = skew ∧
      (s.laneFacts p swap polInv skew roundTrip).get F.RING_LINK_DELAY_link_delay [sideIx p] = roundTrip / 2 := by
  have hapart : Reg.RING_PORT_STATUS.addr [sideIx p] ≠ Reg.RING_LINK_DELAY.addr [sideIx p] := by cases p <;> decide
  have hdelay (g : Fld) (hg : g.reg = .RING_PORT_STATUS) (t : State) :
      (t.set F.RING_LINK_DELAY_link_delay [sideIx p] (roundTrip / 2)).get g [sideIx p] = t.get g [sideIx p] :=
    State.get_set_ne _ F.RING_LINK_DELAY_link_delay g _ _ _ (hg ▸ hapart)
  have hstate (g : Fld) (hg : g.reg = .RING_PORT_STATUS) (hlo : g.hi < 28) (t : State) :
      (t.setPortState p 4).get g [sideIx p] = t.get g [sideIx p] :=
    State.get_set_field _ F.RING_PORT_STATUS_state g _ _ hg (.inr hlo) (by decide)
  refine ⟨portState_setPortState _ _ _ (by decide), ?_, ?_, ?_, ?_⟩
  · unfold State.is State.laneFacts
    rw [hstate _ rfl (by decide), hdelay _ rfl, State.get_set_field _ F.RING_PORT_STATUS_skew F.RING_PORT_STATUS_lane_swap _ _ rfl (by decide) (by decide),
      State.get_set_field _ F.RING_PORT_STATUS_pol_inv F.RING_PORT_STATUS_lane_swap _ _ rfl (by decide) (by decide)]
    exact State.is_setB _ F.RING_PORT_STATUS_lane_swap _ _ rfl (by decide)
  · unfold State.laneFacts
    rw [hstate _ rfl (by decide), hdelay _ rfl, State.get_set_field _ F.RING_PORT_STATUS_skew F.RING_PORT_STATUS_pol_inv _ _ rfl (by decide) (by decide),
      State.get_set _ _ _ _ (by decide) (by decide)]
    exact Nat.mod_eq_of_lt hpol
  · unfold State.laneFacts
    rw [hstate _ rfl (by decide), hdelay _ rfl, State.get_set _ _ _ _ (by decide) (by decide)]
    exact Nat.mod_eq_of_lt hskew
  · unfold State.laneFacts State.setPortState
    rw [State.get_set_ne _ F.RING_PORT_STATUS_state F.RING_LINK_DELAY_link_delay _ _ _ hapart.symm,
      State.get_set _ _ _ _ (by decide) (by decide)]
    exact Nat.mod_eq_of_lt (by simp [F.RING_LINK_DELAY_link_delay]; omega)

theorem regsOnly_laneFacts (s : State) (p : Side) (swap : Bool) (polInv skew roundTrip : Nat) :
    s.regsOnly (s.laneFacts p swap polInv skew roundTrip)
      fun a => a == Reg.RING_PORT_STATUS.addr [sideIx p] || a == Reg.RING_LINK_DELAY.addr [sideIx p] := by
  have hport (t : State) (f : Fld) (v : Nat) (hf : f.reg = .RING_PORT_STATUS) : t.regsOnly (t.set f [sideIx p] v)
      fun a => a == Reg.RING_PORT_STATUS.addr [sideIx p] || a == Reg.RING_LINK_DELAY.addr [sideIx p] :=
    State.regsOnly_set _ _ _ _ _ (by simp [hf])
  have hdelay (t : State) : t.regsOnly (t.set F.RING_LINK_DELAY_link_delay [sideIx p] (roundTrip / 2))
      fun a => a == Reg.RING_PORT_STATUS.addr [sideIx p] || a == Reg.RING_LINK_DELAY.addr [sideIx p] :=
    State.regsOnly_set _ _ _ _ _ (by simp [F.RING_LINK_DELAY_link_delay])
  exact State.regsOnly_trans (State.regsOnly_trans (State.regsOnly_trans (State.regsOnly_trans (hport s _ _ rfl) (hport _ _ _ rfl))
    (hport _ _ _ rfl)) (hdelay _)) (hport _ _ _ rfl)

theorem permits_laneFacts (s : State) (p : Side) (swap : Bool) (polInv skew roundTrip : Nat) :
    (s.laneFacts p swap polInv skew roundTrip).permits = s.permits := State.regsOnly_permits (regsOnly_laneFacts s p swap polInv skew roundTrip)

theorem exec_deskewComplete {swap : Bool} {polInv skew roundTrip : Nat} (hup : s.down .ring = false) (h : s.portState p = 3) :
    exec (.deskewComplete p swap polInv skew roundTrip) s =
      if (toSigned skew 10).natAbs ≤ 320 then
        .next (((s.clearOut.laneFacts p swap polInv skew roundTrip).permitGive .serdes (sideIx p)).setHello p {})
      else .next (s.trainingFailed p) :=
  (if_neg (by simp [hup])).trans (if_pos h)

theorem exec_deskewComplete_deskewed {swap : Bool} {polInv skew roundTrip : Nat} (hup : s.down .ring = false) (h : s.portState p = 3)
    (hnone : s.permits.waiting = []) (hpol : polInv < 4) (hskew : skew < 1024) (htrip : roundTrip < 2 ^ 25)
    (hnear : (toSigned skew 10).natAbs ≤ 320) :
    ∃ u, exec (.deskewComplete p swap polInv skew roundTrip) s = .next u ∧
      s.wordsKept u (fun a => a == Reg.RING_PORT_STATUS.addr [sideIx p] || a == Reg.RING_LINK_DELAY.addr [sideIx p]) ∧ u.portState p = 4 ∧
      u.is F.RING_PORT_STATUS_lane_swap [sideIx p] = swap ∧ u.get F.RING_PORT_STATUS_pol_inv [sideIx p] = polInv ∧
      u.get F.RING_PORT_STATUS_skew [sideIx p] = skew ∧ u.get F.RING_LINK_DELAY_link_delay [sideIx p] = roundTrip / 2 ∧
      u.hello p = {} ∧ u.permits.held = s.permits.held.erase (.serdes, sideIx p) := by
  obtain ⟨hstate, hswap, hpolInv, hskew', hdelay⟩ := laneFacts_result s.clearOut p swap hpol hskew htrip
  have hgive := State.permitGive_of_noneWaits (s := s.clearOut.laneFacts p swap polInv skew roundTrip) .serdes (sideIx p)
    (by rw [permits_laneFacts]; exact hnone)
  rw [permits_laneFacts] at hgive
  have hregs : (((s.clearOut.laneFacts p swap polInv skew roundTrip).permitGive .serdes (sideIx p)).setHello p {}).regs =
      (s.clearOut.laneFacts p swap polInv skew roundTrip).regs := by rw [State.regs_setHello, hgive, State.regs_withPermits]
  refine ⟨_, (exec_deskewComplete hup h).trans (if_pos hnear), ?_, ?_, ?_, ?_, ?_, ?_, State.hello_setHello _ _ _, ?_⟩
  · intro a ha
    rw [hregs]
    exact (regsOnly_laneFacts s.clearOut p swap polInv skew roundTrip).2 a ha
  · exact (State.get_of_regs hregs _ _).trans hstate
  · exact (State.is_of_regs hregs _ _).trans hswap
  · exact (State.get_of_regs hregs _ _).trans hpolInv
  · exact (State.get_of_regs hregs _ _).trans hskew'
  · exact (State.get_of_regs hregs _ _).trans hdelay
  · rw [State.permits_setHello, hgive]
    rfl

theorem exec_trainingTimeout (hup : s.down .ring = false) (h1 : 1 ≤ s.portState p) (h3 : s.portState p ≤ 3)
    (hheld : s.permitHeld .serdes (sideIx p) = true) : exec (.trainingTimeout p) s = .next (s.trainingFailed p) :=
  (if_neg (by simp [hup])).trans (if_pos ⟨h1, h3, hheld⟩)

end

end Sys2Proof.Machine

end

section

/-! What a port that is declared down shows (R92, R93), and what a break does that leaves it (R82, R96, R107): closures are cancelled,
the hub becomes head, and its mode changes. -/

namespace Sys2Proof.Machine

/-- What is said of a port after a break: its status word, the bits of RING_STATUS for both ports, its hello, and the outputs. -/
def State.portView (s : State) (p : Side) : Nat × Nat × Nat × HelloState × List Out :=
  (s.rd .RING_PORT_STATUS [sideIx p], s.get F.RING_STATUS_east_up, s.get F.RING_STATUS_west_up, s.hello p, s.out)

/-- From `s` to `t` what is said of port `p` stays, and no leaf is cleared. -/
structure State.KeepsPort (p : Side) (s t : State) : Prop where
  view : t.portView p = s.portView p
  leaf : ∀ n, n < 896 → s.leafSet n = true → t.leafSet n = true

/-- A write of `r` at `ix` meets neither the words of `State.portView` nor a leaf. -/
def offPort (p : Side) (r : Reg) (ix : List Nat) : Prop :=
  Reg.RING_PORT_STATUS.addr [sideIx p] ≠ r.addr ix ∧ Reg.RING_STATUS.addr [] ≠ r.addr ix ∧ ∀ k < 28, Reg.CAUSE_LEAF.addr [k] ≠ r.addr ix

theorem offPort_cut (p d : Side) : offPort p F.RING_ERRCNT_cut.reg [sideIx (rxPort d)] := by
  cases p <;> cases d <;> exact ⟨by decide, by decide, by decide⟩

theorem offPort_padding (p d : Side) : offPort p F.RING_PAD_padding.reg [sideIx d] := by
  cases p <;> cases d <;> exact ⟨by decide, by decide, by decide⟩

namespace State.KeepsPort

variable {s₀ s : State} {p : Side}

theorem refl (s : State) : s.KeepsPort p s := ⟨rfl, fun _ _ h => h⟩

theorem wr {r : Reg} {ix : List Nat} {v : Nat} (hs : s₀.KeepsPort p s) (h : offPort p r ix) : s₀.KeepsPort p (s.wr r ix v) := by
  obtain ⟨hport, hstatus, hleaf⟩ := h
  refine ⟨Eq.trans ?_ hs.view, fun n hn hset => ?_⟩
  · unfold State.portView
    rw [State.rd_wr_ne _ _ _ _ _ _ hport, State.get_wr_ne _ F.RING_STATUS_east_up _ _ _ _ hstatus,
      State.get_wr_ne _ F.RING_STATUS_west_up _ _ _ _ hstatus]
    rfl
  · rw [State.leafSet_wr_ne (hleaf _ (by omega))]
    exact hs.leaf n hn hset

theorem set {f : Fld} {ix : List Nat} {v : Nat} (hs : s₀.KeepsPort p s) (h : offPort p f.reg ix) : s₀.KeepsPort p (s.set f ix v) :=
  hs.wr h

/-- A field of RING_STATUS above the bits of the ports. -/
theorem setStatus {f : Fld} {v : Nat} (hs : s₀.KeepsPort p s) (hf : f.reg = .RING_STATUS) (hlo : 17 < f.lo) (hhi : f.hi < 32) :
    s₀.KeepsPort p (s.set f [] v) := by
  have hport : Reg.RING_PORT_STATUS.addr [sideIx p] ≠ f.reg.addr [] := by rw [hf]; cases p <;> decide
  have hleaf : ∀ k < 28, Reg.CAUSE_LEAF.addr [k] ≠ f.reg.addr [] := by rw [hf]; decide
  refine ⟨Eq.trans ?_ hs.view, fun n hn hset => ?_⟩
  · unfold State.portView
    rw [State.get_set_field _ f F.RING_STATUS_east_up _ _ hf.symm (.inr (by simp [F.RING_STATUS_east_up]; omega)) hhi,
      State.get_set_field _ f F.RING_STATUS_west_up _ _ hf.symm (.inr hlo) hhi]
    unfold State.set
    rw [State.rd_wr_ne _ _ _ _ _ _ hport]
    rfl
  · unfold State.set
    rw [State.leafSet_wr_ne (hleaf _ (by omega))]
    exact hs.leaf n hn hset

theorem setLeaf {n unit code : Nat} {rec : Bool} (hs : s₀.KeepsPort p s) (hn : leafAssigned n = true) :
    s₀.KeepsPort p (s.leaf n unit code rec) := by
  have hstatus : causeAddr (Reg.RING_STATUS.addr []) = false := rfl
  refine ⟨Eq.trans ?_ hs.view, fun m hm hset => ?_⟩
  · unfold State.portView
    rw [State.rd_leaf _ _ _ _ _ _ _ (causeAddr_portStatus p), State.get_leaf _ _ _ _ _ F.RING_STATUS_east_up _ hstatus,
      State.get_leaf _ _ _ _ _ F.RING_STATUS_west_up _ hstatus, State.out_leaf]
    unfold State.hello
    rw [(s.leaf_regsOnly n unit code rec).1]
  · by_cases hmn : m = n
    · subst hmn
      exact State.leafSet_leaf _ _ _ _ _ hn
    · rw [State.leafSet_leaf_ne _ _ _ _ _ _ hn hm hmn]
      exact hs.leaf m hm hset

/-- Of the ring's own state only the hellos matter. -/
theorem ringFrame {t : State} (hs : s₀.KeepsPort p s) (hregs : t.regs = s.regs) (hout : t.out = s.out) (hhello : t.hello p = s.hello p) :
    s₀.KeepsPort p t := by
  refine ⟨Eq.trans ?_ hs.view, fun n hn hset => ?_⟩
  · unfold State.portView State.rd State.rdw
    rw [State.get_of_regs hregs, State.get_of_regs hregs, hregs, hout, hhello]
  · unfold State.leafSet State.rd State.rdw
    rw [hregs]
    exact hs.leaf n hn hset

protected theorem ite {c : Prop} [Decidable c] {a b : State} (ha : s₀.KeepsPort p a) (hb : s₀.KeepsPort p b) :
    s₀.KeepsPort p (if c then a else b) := by
  split
  · exact ha
  · exact hb

theorem when {c : Bool} {f : State → State} (hs : s₀.KeepsPort p s) (hf : ∀ {u}, s₀.KeepsPort p u → s₀.KeepsPort p (f u)) :
    s₀.KeepsPort p (s.when c f) := .ite (hf hs) hs

theorem foldl {α : Type} {xs : List α} {f : State → α → State} (hs : s₀.KeepsPort p s)
    (hf : ∀ {u x}, s₀.KeepsPort p u → s₀.KeepsPort p (f u x)) : s₀.KeepsPort p (xs.foldl f s) := by
  induction xs generalizing s with
  | nil => exact hs
  | cons x xs ih => exact ih (hf hs)

theorem setAnn {h : Nat} {x : Announcement} (hs : s₀.KeepsPort p s) : s₀.KeepsPort p (s.setAnn h x) := hs.ringFrame rfl rfl rfl

theorem setRdir {d : Side} {x : RingDir} (hs : s₀.KeepsPort p s) : s₀.KeepsPort p (s.setRdir d x) :=
  hs.ringFrame (State.regs_setRdir _ _ _) (State.out_setRdir _ _ _) (State.hello_setRdir _ _ _ _)

theorem portsUnseen (hs : s₀.KeepsPort p s) : s₀.KeepsPort p s.portsUnseen := .foldl hs .setAnn

theorem cancelClosure (hs : s₀.KeepsPort p s) : s₀.KeepsPort p s.cancelClosure :=
  .setStatus (.when (hs.ringFrame rfl rfl rfl) fun h => h.ringFrame rfl rfl rfl) rfl (by decide) (by decide)

theorem setMode {m : Nat} (hs : s₀.KeepsPort p s) : s₀.KeepsPort p (s.setMode m) := by
  have hmode : s₀.KeepsPort p ((s.set F.RING_STATUS_mode [] m).setB F.CHIP_STATUS_ring_integrated [] (m != 0)) :=
    .set (.setStatus hs rfl (by decide) (by decide)) ⟨by cases p <;> decide, by decide, by decide⟩
  exact .ite hs (.setLeaf (.when hmode .portsUnseen) (by decide))

theorem setHead {d : Side} {v : Bool} (hs : s₀.KeepsPort p s) : s₀.KeepsPort p (s.setHead d v) := by
  cases d <;> exact .setStatus hs rfl (by decide) (by decide)

theorem slotLost {d : Side} {bs : List Block} (hs : s₀.KeepsPort p s) : s₀.KeepsPort p (s.slotLost d bs) :=
  .when hs fun h => .set h (offPort_cut p d)

theorem becomeHead {d : Side} (hs : s₀.KeepsPort p s) : s₀.KeepsPort p (s.becomeHead d) :=
  .ite (.set (.setRdir <| .setMode <| .setHead <| .foldl hs .slotLost) (offPort_padding p d)) hs

end State.KeepsPort

end Sys2Proof.Machine

end

section

/-! A port that is declared down (R58, R82, R92, R93, R116). -/

namespace Sys2Proof.Machine

variable {s : State} {p : Side}

/-- The bit of RING_STATUS that shows a port up is cleared. -/
def State.clearUp (s : State) (p : Side) : State :=
  if p = .east then s.setB F.RING_STATUS_east_up [] false else s.setB F.RING_STATUS_west_up [] false

/-- A port's state, leaf, bits and hello once it is declared down, before anything else is said of the ring. -/
def State.declaredDown (s : State) (p : Side) : State :=
  ((((s.setPortState p 7).leaf (portLeaf p 0) (sideIx p) 0 true).clearUp p).setHello p {}).setB F.RING_PORT_STATUS_peer_valid
    [sideIx p] false

/-- A master that has lost its last port while it had backups (R135). -/
def State.lapsesWithoutPorts (s : State) (p : Side) : State :=
  s.when (s.isMaster && s.integrated && !s.portUp (otherSide p) && !s.ring.backups.isEmpty) fun s =>
    { s with ring := { s.ring with lapsing := true } }

/-- The ring after the break: closures cancelled, and the lost direction headed here. -/
def State.broken (s : State) (p : Side) : State :=
  ((s.cancelClosure.portsUnseen.lapsesWithoutPorts p).becomeHead (rxPort p)).when
    ((s.cancelClosure.portsUnseen.lapsesWithoutPorts p).becomeHead (rxPort p)).integrated fun s => s.setMode 2

theorem portDown_eq (s : State) (p : Side) : s.portDown p = ((s.declaredDown p).broken p).sendControl p (blockOf remoteFault) := rfl

/-! What is said of the port. -/

theorem State.KeepsPort.lapsesWithoutPorts {s₀ : State} {q : Side} (hs : s₀.KeepsPort p s) : s₀.KeepsPort p (s.lapsesWithoutPorts q) :=
  .when hs fun h => h.ringFrame rfl rfl rfl

theorem State.KeepsPort.broken {s₀ : State} {q : Side} (hs : s₀.KeepsPort p s) : s₀.KeepsPort p (s.broken q) :=
  .when (.becomeHead <| .lapsesWithoutPorts <| .portsUnseen <| .cancelClosure hs) .setMode

theorem clearUp_result (s : State) (p : Side) :
    (if p = .east then (s.clearUp p).is F.RING_STATUS_east_up else (s.clearUp p).is F.RING_STATUS_west_up) = false ∧
      (s.clearUp p).portState p = s.portState p ∧ (∀ n < 896, (s.clearUp p).leafSet n = s.leafSet n) ∧ (s.clearUp p).out = s.out ∧
      (s.clearUp p).get F.RING_STATUS_mode = s.get F.RING_STATUS_mode := by
  have hleaf : ∀ k < 28, Reg.CAUSE_LEAF.addr [k] ≠ Reg.RING_STATUS.addr [] := by decide
  have hset (f : Fld) (hf : f.reg = .RING_STATUS) (hhi : f.hi < 24) (q : Side) :
      (s.setB f [] false).portState q = s.portState q ∧ (∀ n < 896, (s.setB f [] false).leafSet n = s.leafSet n) ∧
        (s.setB f [] false).out = s.out ∧ (s.setB f [] false).get F.RING_STATUS_mode = s.get F.RING_STATUS_mode := by
    refine ⟨?_, fun n hn => ?_, rfl, ?_⟩
    · exact State.get_set_ne _ f F.RING_PORT_STATUS_state _ _ _ (by rw [hf]; cases q <;> decide)
    · exact State.leafSet_wr_ne (by rw [hf]; exact hleaf _ (by omega))
    · exact State.get_set_field _ f F.RING_STATUS_mode _ _ hf.symm (.inl hhi) (by omega)
  cases p with
  | east => exact ⟨State.is_setB _ _ _ _ rfl (by decide), hset F.RING_STATUS_east_up rfl (by decide) .east⟩
  | west => exact ⟨State.is_setB _ _ _ _ rfl (by decide), hset F.RING_STATUS_west_up rfl (by decide) .west⟩

/-- RING_STATUS stays when the peer is no longer valid. -/
theorem get_status_setB_peerValid (t : State) (p : Side) (f : Fld) (hf : f.reg = .RING_STATUS) :
    (t.setB F.RING_PORT_STATUS_peer_valid [sideIx p] false).get f = t.get f :=
  State.get_set_ne _ F.RING_PORT_STATUS_peer_valid f _ _ _ (by rw [hf]; cases p <;> decide)

theorem portState_declaredDown (s : State) (p : Side) : (s.declaredDown p).portState p = 7 := by
  obtain ⟨-, hstate, -⟩ := clearUp_result ((s.setPortState p 7).leaf (portLeaf p 0) (sideIx p) 0 true) p
  unfold State.declaredDown State.portState
  rw [State.setB, State.get_set_field _ F.RING_PORT_STATUS_peer_valid F.RING_PORT_STATUS_state _ _ rfl (by decide) (by decide),
    State.get_setHello]
  exact hstate.trans ((State.get_leaf _ _ _ _ _ F.RING_PORT_STATUS_state _ (causeAddr_portStatus p)).trans
    (portState_setPortState _ _ _ (by decide)))

theorem leafSet_declaredDown (s : State) (p : Side) : (s.declaredDown p).leafSet (portLeaf p 0) = true := by
  obtain ⟨-, -, hleaf, -⟩ := clearUp_result ((s.setPortState p 7).leaf (portLeaf p 0) (sideIx p) 0 true) p
  have hassigned : leafAssigned (portLeaf p 0) = true := leafAssigned_portLeaf p (by decide)
  unfold State.declaredDown State.setB State.set
  rw [State.leafSet_wr_ne (by cases p <;> decide), State.leafSet_of_regs (State.regs_setHello _ _ _),
    hleaf _ (Nat.lt_trans (leafAssigned_lt hassigned) (by decide))]
  exact State.leafSet_leaf _ _ _ _ _ hassigned

theorem upBit_declaredDown (s : State) (p : Side) :
    (if p = .east then (s.declaredDown p).is F.RING_STATUS_east_up else (s.declaredDown p).is F.RING_STATUS_west_up) = false := by
  obtain ⟨hup, -⟩ := clearUp_result ((s.setPortState p 7).leaf (portLeaf p 0) (sideIx p) 0 true) p
  unfold State.declaredDown State.is at *
  rw [get_status_setB_peerValid _ _ _ rfl, get_status_setB_peerValid _ _ _ rfl, State.get_setHello, State.get_setHello]
  exact hup

theorem out_declaredDown (s : State) (p : Side) : (s.declaredDown p).out = s.out := by
  obtain ⟨-, -, -, hout, -⟩ := clearUp_result ((s.setPortState p 7).leaf (portLeaf p 0) (sideIx p) 0 true) p
  unfold State.declaredDown
  rw [State.out_setB, State.out_setHello, hout, State.out_leaf, State.setPortState, State.out_set]

theorem mode_declaredDown (s : State) (p : Side) : (s.declaredDown p).get F.RING_STATUS_mode = s.get F.RING_STATUS_mode := by
  obtain ⟨-, -, -, -, hmode⟩ := clearUp_result ((s.setPortState p 7).leaf (portLeaf p 0) (sideIx p) 0 true) p
  unfold State.declaredDown
  rw [get_status_setB_peerValid _ _ _ rfl, State.get_setHello, hmode, State.get_leaf _ _ _ _ _ F.RING_STATUS_mode _ rfl]
  exact State.get_set_ne _ F.RING_PORT_STATUS_state F.RING_STATUS_mode _ _ _ (by cases p <;> decide)

/-! The mode of the ring, and the direction that arrived by the port. -/

theorem State.integrated_of_mode {s t : State} (h : t.get F.RING_STATUS_mode = s.get F.RING_STATUS_mode) : t.integrated = s.integrated := by
  unfold State.integrated
  rw [h]

theorem State.regs_portsUnseen (s : State) : s.portsUnseen.regs = s.regs := by
  have h : ∀ (xs : List Nat) (t : State), (xs.foldl (fun s h => s.setAnn h { s.ann h with fresh := false }) t).regs = t.regs := by
    intro xs
    induction xs with
    | nil => intro t; rfl
    | cons x xs ih => intro t; exact ih _
  exact h _ _

theorem mode_cancelClosure (s : State) : s.cancelClosure.get F.RING_STATUS_mode = s.get F.RING_STATUS_mode := by
  unfold State.cancelClosure
  dsimp only
  rw [State.setB, State.get_set_field _ F.RING_STATUS_closure_pending F.RING_STATUS_mode _ _ rfl (by decide) (by decide)]
  exact State.when_of (P := fun t => t.get F.RING_STATUS_mode = s.get F.RING_STATUS_mode) (State.get_of_regs rfl _ _) (State.get_of_regs rfl _ _)

theorem regs_lapsesWithoutPorts (s : State) (p : Side) : (s.lapsesWithoutPorts p).regs = s.regs := by
  unfold State.lapsesWithoutPorts State.when
  split <;> rfl

theorem mode_broken_start (s : State) (p : Side) :
    (s.cancelClosure.portsUnseen.lapsesWithoutPorts p).get F.RING_STATUS_mode = s.get F.RING_STATUS_mode :=
  (State.get_of_regs ((regs_lapsesWithoutPorts _ p).trans (State.regs_portsUnseen _)) _ _).trans (mode_cancelClosure s)

/-- The word and the bit that show a mode. -/
def State.showMode (s : State) (m : Nat) : State := (s.set F.RING_STATUS_mode [] m).setB F.CHIP_STATUS_ring_integrated [] (m != 0)

theorem mode_showMode (s : State) {m : Nat} (h : m < 4) : (s.showMode m).get F.RING_STATUS_mode = m :=
  (State.get_set_ne _ F.CHIP_STATUS_ring_integrated F.RING_STATUS_mode _ _ _ (by decide)).trans
    ((State.get_set _ F.RING_STATUS_mode _ _ (by decide) (by decide)).trans (Nat.mod_eq_of_lt h))

theorem setMode_of_ne {s : State} {m : Nat} (h : s.get F.RING_STATUS_mode ≠ m) :
    s.setMode m = ((s.showMode m).when (m == 2) fun s => s.portsUnseen).leaf (ringLeaf 21) := if_neg h

/-- A field of RING_STATUS that is no part of the mode stays through its changes. -/
theorem get_status_setMode (s : State) (m : Nat) (f : Fld) (hf : f.reg = .RING_STATUS) (hbits : 25 < f.lo ∨ f.hi < 24) :
    (s.setMode m).get f = s.get f := by
  by_cases h : s.get F.RING_STATUS_mode = m
  · rw [State.setMode, if_pos h]
  · have hshow : (s.showMode m).get f = s.get f :=
      (State.get_set_ne _ F.CHIP_STATUS_ring_integrated f _ _ _ (by rw [hf]; decide)).trans
        (State.get_set_field _ F.RING_STATUS_mode f _ _ hf hbits (by decide))
    rw [setMode_of_ne h, State.get_leaf _ _ _ _ _ _ _ (by rw [hf]; rfl)]
    exact State.when_of (P := fun t => t.get f = s.get f) hshow ((State.get_of_regs (State.regs_portsUnseen _) _ _).trans hshow)

theorem mode_setMode (s : State) {m : Nat} (hm : m < 4) : (s.setMode m).get F.RING_STATUS_mode = m := by
  by_cases h : s.get F.RING_STATUS_mode = m
  · rw [State.setMode, if_pos h, h]
  · rw [setMode_of_ne h, State.get_leaf _ _ _ _ _ F.RING_STATUS_mode _ rfl]
    exact State.when_of (P := fun t => t.get F.RING_STATUS_mode = m) (mode_showMode s hm)
      ((State.get_of_regs (State.regs_portsUnseen _) _ _).trans (mode_showMode s hm))

theorem isHead_setHead (s : State) (d : Side) (v : Bool) : (s.setHead d v).isHead d = v := by
  cases d <;> exact State.is_setB _ _ _ _ rfl (by decide)

theorem isHead_setMode (s : State) (d : Side) (m : Nat) : (s.setMode m).isHead d = s.isHead d := by
  cases d with
  | east => exact congrArg (· != 0) (get_status_setMode s m F.RING_STATUS_eg_head rfl (.inr (by decide)))
  | west => exact congrArg (· != 0) (get_status_setMode s m F.RING_STATUS_wg_head rfl (.inr (by decide)))

theorem State.isHead_of_rd {s t : State} (h : t.rd .RING_STATUS = s.rd .RING_STATUS) (d : Side) : t.isHead d = s.isHead d := by
  cases d <;> (unfold State.isHead State.is State.get; exact congrArg (fun w => natBits w _ _ != 0) h)

/-- An integrated hub heads the direction after the break, and stays integrated. -/
theorem becomeHead_result (d : Side) (h : s.integrated = true) : (s.becomeHead d).isHead d = true ∧ (s.becomeHead d).integrated = true := by
  unfold State.becomeHead
  split
  · dsimp only
    have hpad (t : State) (x : RingDir) : ((t.setRdir d x).setB F.RING_PAD_padding [sideIx d] false).rd .RING_STATUS = t.rd .RING_STATUS :=
      (State.rd_wr_ne _ _ _ _ _ _ (by cases d <;> decide)).trans (State.rd_setRdir _ _ _ _ _)
    refine ⟨?_, ?_⟩
    · rw [State.isHead_of_rd (hpad _ _), isHead_setMode, isHead_setHead]
    · have hmode (t : State) (x : RingDir) :
          (((t.setMode 2).setRdir d x).setB F.RING_PAD_padding [sideIx d] false).get F.RING_STATUS_mode = 2 :=
        (congrArg (natBits · _ _) (hpad _ _)).trans (mode_setMode t (by decide))
      unfold State.integrated
      rw [hmode]
      rfl
  · next hhead => exact ⟨by simpa [h] using hhead, h⟩

/-- The head and the mode of an integrated hub after the break. -/
theorem broken_result (s : State) (p : Side) (h : s.integrated = true) :
    (s.broken p).isHead (rxPort p) = true ∧ (s.broken p).get F.RING_STATUS_mode = 2 := by
  have hstart := (State.integrated_of_mode (mode_broken_start s p)).trans h
  obtain ⟨hhead, hint⟩ := becomeHead_result (rxPort p) hstart
  unfold State.broken State.when
  rw [if_pos hint]
  exact ⟨(isHead_setMode _ _ _).trans hhead, mode_setMode _ (by decide)⟩

/-- What PORT_DOWN leaves of a port that has trained (R92, R93, R82). -/
def State.showsDown (s : State) (p : Side) (u : State) : Prop :=
  u.portState p = 7 ∧ u.leafSet (portLeaf p 0) = true ∧ u.out = [.control p (blockOf remoteFault)] ∧ u.hello p = {} ∧
    (if p = .east then u.is F.RING_STATUS_east_up else u.is F.RING_STATUS_west_up) = false ∧
    u.is F.RING_PORT_STATUS_peer_valid [sideIx p] = false ∧
    (s.integrated = true → u.isHead (rxPort p) = true ∧ u.get F.RING_STATUS_mode = 2)

theorem peerValid_declaredDown (s : State) (p : Side) : (s.declaredDown p).is F.RING_PORT_STATUS_peer_valid [sideIx p] = false :=
  State.is_setB _ _ _ _ rfl (by decide)

theorem hello_declaredDown (s : State) (p : Side) : (s.declaredDown p).hello p = {} := State.hello_setHello _ _ _

/-- A control block that leaves is an output and nothing else beside the lanes. -/
theorem State.sendControl_eq (s : State) (q : Side) (b : Block) :
    ∃ scram line, s.sendControl q b = { s with ring := { s.ring with scram := scram }, line := line, out := s.out ++ [.control q b] } :=
  ⟨_, _, rfl⟩

theorem State.regs_sendControl (s : State) (q : Side) (b : Block) : (s.sendControl q b).regs = s.regs := by
  obtain ⟨_, _, h⟩ := s.sendControl_eq q b
  rw [h]

theorem State.out_sendControl (s : State) (q : Side) (b : Block) : (s.sendControl q b).out = s.out ++ [.control q b] := by
  obtain ⟨_, _, h⟩ := s.sendControl_eq q b
  rw [h]

theorem State.hello_sendControl (s : State) (q : Side) (b : Block) : (s.sendControl q b).hello p = s.hello p := by
  obtain ⟨_, _, h⟩ := s.sendControl_eq q b
  rw [h]
  cases p <;> rfl

/-- What is said of a port shows in what is said of it after a control block. -/
theorem showsDown_of_keeps {t u : State} (hkeeps : (t.declaredDown p).KeepsPort p u) (hout : t.out = [])
    (hhead : s.integrated = true → u.isHead (rxPort p) = true ∧ u.get F.RING_STATUS_mode = 2) :
    s.showsDown p (u.sendControl p (blockOf remoteFault)) := by
  obtain ⟨hstatus, heast, hwest, hhello, hkept⟩ : _ ∧ _ ∧ _ ∧ _ ∧ _ := by
    simpa only [State.portView, Prod.mk.injEq] using hkeeps.view
  have hregs := State.regs_sendControl u p (blockOf remoteFault)
  have hword (f : Fld) (hf : f.reg = .RING_PORT_STATUS) :
      (u.sendControl p (blockOf remoteFault)).get f [sideIx p] = (t.declaredDown p).get f [sideIx p] := by
    rw [State.get_of_regs hregs, State.get, State.get, hf, hstatus]
  refine ⟨?_, ?_, ?_, ?_, ?_, ?_, ?_⟩
  · exact (hword F.RING_PORT_STATUS_state rfl).trans (portState_declaredDown t p)
  · rw [State.leafSet_of_regs hregs]
    exact hkeeps.leaf _ (Nat.lt_trans (leafAssigned_lt (leafAssigned_portLeaf p (by decide))) (by decide)) (leafSet_declaredDown t p)
  · rw [State.out_sendControl, hkept, out_declaredDown, hout]
    rfl
  · rw [State.hello_sendControl, hhello]
    exact hello_declaredDown t p
  · have hup := upBit_declaredDown t p
    unfold State.is at hup ⊢
    rw [State.get_of_regs hregs, State.get_of_regs hregs, heast, hwest]
    exact hup
  · have hvalid := peerValid_declaredDown t p
    unfold State.is at hvalid ⊢
    rw [hword _ rfl]
    exact hvalid
  · intro h
    obtain ⟨hhead, hline⟩ := hhead h
    exact ⟨(State.isHead_of_rd (State.rd_of_regs hregs _ _) _).trans hhead, (State.get_of_regs hregs _ _).trans hline⟩

theorem portDown_showsDown (s : State) (p : Side) : s.showsDown p (s.clearOut.portDown p) := by
  rw [portDown_eq]
  exact showsDown_of_keeps (.broken (.refl _)) rfl fun h =>
    broken_result _ p ((State.integrated_of_mode (mode_declaredDown s.clearOut p)).trans h)

/-! The commands. -/

theorem clearOut_portFails_down (h4 : 4 ≤ s.portState p) (h6 : s.portState p ≤ 6) : s.clearOut.portFails p = s.clearOut.portDown p :=
  if_pos (show s.portState p = 4 ∨ s.portState p = 5 ∨ s.portState p = 6 by omega)

theorem clearOut_portFails_training (h1 : 1 ≤ s.portState p) (h3 : s.portState p ≤ 3) :
    s.clearOut.portFails p = s.clearOut.setPortState p 0 :=
  (if_neg (show ¬(s.portState p = 4 ∨ s.portState p = 5 ∨ s.portState p = 6) by omega)).trans (if_pos ⟨h1, h3⟩)

theorem exec_blockLockLoss (hup : s.down .ring = false) : exec (.blockLockLoss p) s = .next (s.clearOut.portFails p) :=
  if_neg (by simp [hup])

theorem exec_lossOfSignal (hup : s.down .ring = false) : exec (.lossOfSignal p) s = .next (s.clearOut.portFails p) :=
  if_neg (by simp [hup])

theorem exec_remoteFaultReceived (hup : s.down .ring = false) (h4 : 4 ≤ s.portState p) (h6 : s.portState p ≤ 6) :
    exec (.remoteFaultReceived p) s = .next (s.clearOut.portDown p) :=
  (if_neg (by simp [hup])).trans (congrArg Host.Outcome.next (if_pos (by
    rw [Bool.and_eq_true]
    exact ⟨decide_eq_true h4, decide_eq_true h6⟩)))

theorem exec_portDownTimeout (hup : s.down .ring = false) :
    exec (.portDownTimeout p) s = .next (s.clearOut.when (s.portState p == 6 && (s.hello p).headerSeen) fun s => s.portDown p) := by
  refine (if_neg (by simp [hup])).trans ?_
  cases p <;> rfl

theorem exec_portFails_training (hup : s.down .ring = false) (h1 : 1 ≤ s.portState p) (h3 : s.portState p ≤ 3) :
    ∃ u, exec (.blockLockLoss p) s = .next u ∧ exec (.lossOfSignal p) s = .next u ∧ u.portState p = 0 ∧
      s.regsOnly u (fun a => a == Reg.RING_PORT_STATUS.addr [sideIx p]) := by
  refine ⟨s.clearOut.setPortState p 0, ?_, ?_, portState_setPortState _ _ _ (by decide), ?_⟩
  · rw [exec_blockLockLoss hup, clearOut_portFails_training h1 h3]
  · rw [exec_lossOfSignal hup, clearOut_portFails_training h1 h3]
  · exact State.regsOnly_trans (s.regsOnly_clearOut _) (regsOnly_setPortState s 0)

end Sys2Proof.Machine

end

section

/-! Training of a port, and what takes a port down. -/

namespace Sys2Proof.Machine

theorem State.portStep_next {s : State} {p : Side} {v : Nat} {o : Host.Outcome State Fault Refusal} (hv : v < 16)
    (ho : o = .next (s.clearOut.setPortState p v)) :
    ∃ u, o = .next u ∧ s.regsOnly u (fun a => a == Reg.RING_PORT_STATUS.addr [sideIx p]) ∧ u.portState p = v :=
  ⟨_, ho, State.regsOnly_trans (s.regsOnly_clearOut _) (regsOnly_setPortState s v), portState_setPortState _ _ _ hv⟩

/-- Settles O22: a port trains through its states under its permit, and one that has trained is declared down with all the rule names. -/
theorem ringTrainingAndBreaks : Obligations.RingTrainingAndBreaks := by
  unfold Obligations.RingTrainingAndBreaks
  refine ⟨fun s p hup => ?_, fun s p hup => ?_⟩
  · refine ⟨exec_signalDetect_unready hup, exec_signalDetect_ready hup, fun h hheld => ?_, fun h hheld => ?_, fun h => ?_, ?_, ?_, ?_⟩
    · exact State.portStep_next (by decide) ((exec_cdrLock hup).trans (by simp [State.when, h, hheld]))
    · exact (exec_cdrLock hup).trans (by simp [State.when, hheld])
    · exact State.portStep_next (by decide) ((exec_blockLock hup).trans (by simp [State.when, h]))
    · intro swap polInv skew roundTrip h hnone hpol hskew htrip hnear
      exact exec_deskewComplete_deskewed hup h hnone hpol hskew htrip hnear
    · intro swap polInv skew roundTrip h hnone hfar
      obtain ⟨hstate, hleaf, -, hheld⟩ := trainingFailed_result (p := p) hnone
      exact ⟨_, (exec_deskewComplete hup h).trans (if_neg (by omega)), hstate, hleaf, hheld⟩
    · intro h1 h3 hheld hnone
      obtain ⟨hstate, hleaf, hkept, hheld'⟩ := trainingFailed_result (p := p) hnone
      exact ⟨_, exec_trainingTimeout hup h1 h3 hheld, hstate, hleaf, hkept, hheld'⟩
  · refine ⟨fun h4 h6 => ⟨⟨_, ?_, portDown_showsDown s p⟩, ⟨_, ?_, portDown_showsDown s p⟩⟩, exec_portFails_training hup, fun h4 h6 => ?_,
      fun h hseen => ⟨_, ?_, portDown_showsDown s p⟩, fun h hunseen => ?_⟩
    · rw [exec_blockLockLoss hup, clearOut_portFails_down h4 h6]
    · rw [exec_lossOfSignal hup, clearOut_portFails_down h4 h6]
    · exact ⟨_, exec_remoteFaultReceived hup h4 h6, portDown_showsDown s p⟩
    · exact (exec_portDownTimeout hup).trans (by simp [State.when, h, hseen])
    · exact (exec_portDownTimeout hup).trans (by simp [State.when, hunseen])

end Sys2Proof.Machine

end

section

/-! What the boundary of a round and a slot's passing leave alone: the words and the ring facts behind the round number, the counters
of the ports, the mode, the outputs, and every leaf that stands. -/

namespace Sys2Proof.Machine

-- Many short rules with decided side conditions: checked one after another, they hold one thread.
set_option Elab.async false

/-- The words of the round (R60), of the ring's minor version (R113), of the ports' counters, and the mode. -/
def State.flowWords (s : State) : List Nat :=
  [s.rd .RING_ROUND_LO, s.rd .RING_ROUND_HI, s.get F.RING_START_STATUS_ring_minor, s.rd .RING_ERRCNT [0], s.rd .RING_ERRCNT [1],
    s.get F.RING_STATUS_mode]

/-- The position each direction received last, whether the hub generates it, the ring facts a round boundary turns on, and the
outputs. -/
def State.flowFacts (s : State) : (Option Nat × Bool) × (Option Nat × Bool) × Bool × Nat × Option Nat × List Out :=
  ((s.ring.eg.lastReceived, s.ring.eg.generating), (s.ring.wg.lastReceived, s.ring.wg.generating), s.ring.starting, s.ring.versionWord,
    s.time.stepRound, s.out)

/-- From `s` to `t` these words and facts stay, and no leaf is cleared. -/
structure State.KeepsFlow (s t : State) : Prop where
  words : t.flowWords = s.flowWords
  facts : t.flowFacts = s.flowFacts
  leaf : ∀ n, n < 896 → s.leafSet n = true → t.leafSet n = true

/-- The address of a copy of a heading is none of the words of `State.flowWords`, and no leaf. -/
def offFlow (r : Reg) (ix : List Nat) : Bool :=
  [Reg.RING_ROUND_LO.addr [], Reg.RING_ROUND_HI.addr [], Reg.RING_START_STATUS.addr [], Reg.RING_ERRCNT.addr [0],
    Reg.RING_ERRCNT.addr [1], Reg.RING_STATUS.addr []].all (· != r.addr ix) && (List.range 28).all fun k => Reg.CAUSE_LEAF.addr [k] != r.addr ix

/-- A heading above the small ring registers meets none of them, whatever its index. -/
theorem offFlow_of_base {r : Reg} (h : 0x100048 ≤ r.desc.base) (ix : List Nat) : offFlow r ix = true := by
  have hne {a : Nat} (ha : a < 0x100048) : (a != r.addr ix) = true := by
    have : r.desc.base ≤ r.addr ix := Nat.le_add_right _ _
    exact bne_iff_ne.mpr (by omega)
  have hall {l : List Nat} (hl : ∀ a ∈ l, a < 0x100048) : l.all (· != r.addr ix) = true := List.all_eq_true.mpr fun a ha => hne (hl a ha)
  unfold offFlow
  rw [Bool.and_eq_true]
  refine ⟨hall (by decide), List.all_eq_true.mpr fun k hk => hne ?_⟩
  have : k < 28 := List.mem_range.mp hk
  simp [Reg.addr, Reg.desc, dimOffset]
  omega

theorem offFlow_words {r : Reg} {ix : List Nat} (h : offFlow r ix = true) :
    Reg.RING_ROUND_LO.addr [] ≠ r.addr ix ∧ Reg.RING_ROUND_HI.addr [] ≠ r.addr ix ∧ Reg.RING_START_STATUS.addr [] ≠ r.addr ix ∧
      Reg.RING_ERRCNT.addr [0] ≠ r.addr ix ∧ Reg.RING_ERRCNT.addr [1] ≠ r.addr ix ∧ Reg.RING_STATUS.addr [] ≠ r.addr ix ∧
      ∀ k < 28, Reg.CAUSE_LEAF.addr [k] ≠ r.addr ix := by
  simpa [offFlow, and_assoc] using h

theorem State.flowWords_wr {s : State} {r : Reg} {ix : List Nat} {v : Nat} (h : offFlow r ix = true) :
    (s.wr r ix v).flowWords = s.flowWords := by
  obtain ⟨hlo, hhi, hstart, heast, hwest, hstatus, -⟩ := offFlow_words h
  unfold State.flowWords
  rw [State.rd_wr_ne _ _ _ _ _ _ hlo, State.rd_wr_ne _ _ _ _ _ _ hhi, State.get_wr_ne _ F.RING_START_STATUS_ring_minor _ _ _ _ hstart,
    State.rd_wr_ne _ _ _ _ _ _ heast, State.rd_wr_ne _ _ _ _ _ _ hwest, State.get_wr_ne _ F.RING_STATUS_mode _ _ _ _ hstatus]

theorem State.flowWords_of_regs {s t : State} (h : t.regs = s.regs) : t.flowWords = s.flowWords := by
  unfold State.flowWords
  rw [State.rd_of_regs h, State.rd_of_regs h, State.get_of_regs h, State.rd_of_regs h, State.rd_of_regs h, State.get_of_regs h]

/-- A field of RING_START_STATUS beside the minor version. -/
theorem State.flowWords_setStart {s : State} {f : Fld} {v : Nat} (hf : f.reg = .RING_START_STATUS) (hbits : f.hi < 24 ∨ 27 < f.lo)
    (h32 : f.hi < 32) : (s.set f [] v).flowWords = s.flowWords := by
  have hne (r : Reg) (ix : List Nat) (h : r.addr ix ≠ Reg.RING_START_STATUS.addr []) : (s.set f [] v).rd r ix = s.rd r ix :=
    State.rd_wr_ne _ _ _ _ _ _ (by rw [hf]; exact h)
  unfold State.flowWords
  rw [hne _ _ (by decide), hne _ _ (by decide), hne _ _ (by decide), hne _ _ (by decide),
    State.get_set_field _ f F.RING_START_STATUS_ring_minor _ _ hf.symm hbits h32,
    State.get_set_ne _ f F.RING_STATUS_mode _ _ _ (by rw [hf]; decide)]

theorem State.flowWords_of_regsOnly {s t : State} {f : Nat → Bool} (h : s.regsOnly t f)
    (hf : ([Reg.RING_ROUND_LO.addr [], Reg.RING_ROUND_HI.addr [], Reg.RING_START_STATUS.addr [], Reg.RING_ERRCNT.addr [0],
      Reg.RING_ERRCNT.addr [1], Reg.RING_STATUS.addr []].all fun a => !f a) = true) : t.flowWords = s.flowWords := by
  simp only [List.all_cons, List.all_nil, Bool.and_true, Bool.and_eq_true, Bool.not_eq_true'] at hf
  obtain ⟨hlo, hhi, hstart, heast, hwest, hstatus⟩ := hf
  unfold State.flowWords
  rw [State.regsOnly_rd h _ _ hlo, State.regsOnly_rd h _ _ hhi, State.regsOnly_get h F.RING_START_STATUS_ring_minor _ hstart,
    State.regsOnly_rd h _ _ heast, State.regsOnly_rd h _ _ hwest, State.regsOnly_get h F.RING_STATUS_mode _ hstatus]

theorem State.flowFacts_of_regsOnly {s t : State} {f : Nat → Bool} (h : s.regsOnly t f) (hout : t.out = s.out) :
    t.flowFacts = s.flowFacts := by
  unfold State.flowFacts
  rw [hout, h.1]

/-- A leaf that stands stays set through any cause event: one of no assigned number does nothing (R485). -/
theorem State.leafSet_leaf_of {s : State} {m n unit code : Nat} {rec : Bool} (hm : m < 896) (h : s.leafSet m = true) :
    (s.leaf n unit code rec).leafSet m = true := by
  by_cases hn : leafAssigned n = true
  · by_cases hmn : m = n
    · subst hmn
      exact State.leafSet_leaf _ _ _ _ _ hn
    · rw [State.leafSet_leaf_ne _ _ _ _ _ _ hn hm hmn]
      exact h
  · rw [State.leaf, if_neg hn]
    exact h

namespace State.KeepsFlow

variable {s₀ s : State}

theorem refl (s : State) : s.KeepsFlow s := ⟨rfl, rfl, fun _ _ h => h⟩

theorem trans {t u : State} (h : s.KeepsFlow t) (k : t.KeepsFlow u) : s.KeepsFlow u :=
  ⟨k.words.trans h.words, k.facts.trans h.facts, fun n hn hset => k.leaf n hn (h.leaf n hn hset)⟩

/-- Nothing but register words, the ring, the time core's step and the outputs matters. -/
theorem framed {t : State} (hs : s₀.KeepsFlow s) (hregs : t.regs = s.regs := by rfl) (hfacts : t.flowFacts = s.flowFacts := by rfl) :
    s₀.KeepsFlow t :=
  hs.trans ⟨State.flowWords_of_regs hregs, hfacts, fun n _ h => (State.leafSet_of_regs hregs n).trans h⟩

/-- As `framed`, with all that matters in place. -/
theorem frame {pending line free faultPair shot permits twin hop brg setts pins benches drs ports can canT ethT hopT ringT sw grd edge
    chip upd} (hs : s₀.KeepsFlow s) :
    s₀.KeepsFlow ⟨pending, s.out, line, s.regs, free, faultPair, s.time, shot, permits, s.ring, twin, hop, brg, setts, pins, benches, drs,
      ports, can, canT, ethT, hopT, ringT, sw, grd, edge, chip, upd⟩ := .framed hs

theorem wrAt {r : Reg} {ix : List Nat} {v : Nat} (h : offFlow r ix = true) (hs : s₀.KeepsFlow s) : s₀.KeepsFlow (s.wr r ix v) := by
  obtain ⟨-, -, -, -, -, -, hleaf⟩ := offFlow_words h
  exact hs.trans ⟨State.flowWords_wr h, rfl, fun n hn hset => (State.leafSet_wr_ne (hleaf _ (by omega))).trans hset⟩

theorem wr {r : Reg} {ix : List Nat} {v : Nat} (hs : s₀.KeepsFlow s) (h : 0x100048 ≤ r.desc.base := by decide) :
    s₀.KeepsFlow (s.wr r ix v) := .wrAt (offFlow_of_base h ix) hs

theorem set {f : Fld} {ix : List Nat} {v : Nat} (hs : s₀.KeepsFlow s) (h : 0x100048 ≤ f.reg.desc.base := by decide) :
    s₀.KeepsFlow (s.set f ix v) := .wr hs h

theorem setB {f : Fld} {ix : List Nat} {b : Bool} (hs : s₀.KeepsFlow s) (h : 0x100048 ≤ f.reg.desc.base := by decide) :
    s₀.KeepsFlow (s.setB f ix b) := .wr hs h

theorem inc {f : Fld} {ix : List Nat} (hs : s₀.KeepsFlow s) (h : 0x100048 ≤ f.reg.desc.base := by decide) :
    s₀.KeepsFlow (s.inc f ix) := .wr hs h

theorem add {f : Fld} {ix : List Nat} {k : Nat} (hs : s₀.KeepsFlow s) (h : 0x100048 ≤ f.reg.desc.base := by decide) :
    s₀.KeepsFlow (s.add f ix k) := .wr hs h

theorem setStart {f : Fld} {v : Nat} (hs : s₀.KeepsFlow s) (hf : f.reg = .RING_START_STATUS := by rfl)
    (hbits : f.hi < 24 ∨ 27 < f.lo := by decide) (h32 : f.hi < 32 := by decide) : s₀.KeepsFlow (s.set f [] v) := by
  refine hs.trans ⟨State.flowWords_setStart hf hbits h32, rfl, fun n hn hset => Eq.trans ?_ hset⟩
  have hleaf : ∀ k < 28, Reg.CAUSE_LEAF.addr [k] ≠ f.reg.addr [] := by rw [hf]; decide
  exact State.leafSet_wr_ne (hleaf _ (by omega))

theorem setLeaf {n unit code : Nat} {rec : Bool} (hs : s₀.KeepsFlow s) : s₀.KeepsFlow (s.leaf n unit code rec) :=
  hs.trans ⟨State.flowWords_of_regsOnly (State.leaf_regsOnly _ _ _ _ _) (by decide),
    State.flowFacts_of_regsOnly (State.leaf_regsOnly _ _ _ _ _) (State.out_leaf _ _ _ _ _), fun _ hm => State.leafSet_leaf_of hm⟩

protected theorem ite {c : Prop} [Decidable c] {a b : State} (ha : s₀.KeepsFlow a) (hb : s₀.KeepsFlow b) :
    s₀.KeepsFlow (if c then a else b) := by
  split
  · exact ha
  · exact hb

theorem when {c : Bool} {f : State → State} (hs : s₀.KeepsFlow s) (hf : ∀ {u}, s₀.KeepsFlow u → s₀.KeepsFlow (f u)) :
    s₀.KeepsFlow (s.when c f) := .ite (hf hs) hs

theorem foldl {α : Type} {xs : List α} {f : State → α → State} (hs : s₀.KeepsFlow s)
    (hf : ∀ {u x}, s₀.KeepsFlow u → s₀.KeepsFlow (f u x)) : s₀.KeepsFlow (xs.foldl f s) := by
  induction xs generalizing s with
  | nil => exact hs
  | cons x xs ih => exact ih (hf hs)

/-! A command slot that has passed (R128): its hub's announcement, the hub map, the grants, and the cells toward a hub that has gone. -/

theorem setAnn {h : Nat} {x : Announcement} (hs : s₀.KeepsFlow s) : s₀.KeepsFlow (s.setAnn h x) := .framed hs

theorem setGrants {g : List Nat} (hs : s₀.KeepsFlow s) : s₀.KeepsFlow (s.setGrants g) := .framed hs

theorem setCmdPass {n : Nat} {x : CommandPass} (hs : s₀.KeepsFlow s) : s₀.KeepsFlow (s.setCmdPass n x) := .ite (.framed hs) (.framed hs)

theorem showComplete (hs : s₀.KeepsFlow s) : s₀.KeepsFlow s.showComplete := .setStart hs

theorem hubMapChanged (hs : s₀.KeepsFlow s) : s₀.KeepsFlow s.hubMapChanged :=
  .showComplete <| .set <| .when hs fun h => .set <| .framed h

theorem serveRequest {owner : Nat} {release : Bool} {dir n : Nat} (hs : s₀.KeepsFlow s) :
    s₀.KeepsFlow (s.serveRequest owner release dir n) := by
  unfold State.serveRequest
  dsimp only
  split
  · exact .setGrants hs
  · split
    · split
      · exact .setGrants hs
      · exact hs
    · exact hs

theorem serveOwn (hs : s₀.KeepsFlow s) : s₀.KeepsFlow s.serveOwn := .when hs .serveRequest

theorem unreachable {d : Nat} (hs : s₀.KeepsFlow s) : s₀.KeepsFlow (s.unreachable d) :=
  .ite hs (.ite hs (.setLeaf <| .add <| .frame <| .foldl hs .frame))

theorem commandSlotPassed {h round : Nat} (hs : s₀.KeepsFlow s) : s₀.KeepsFlow (s.commandSlotPassed h round) :=
  .ite (.serveOwn hs) (.ite hs (.ite (.unreachable <| .hubMapChanged <| .when (.setB <| .setAnn hs) .setGrants) (.setAnn hs)))

theorem judgePass {n : Nat} (hs : s₀.KeepsFlow s) : s₀.KeepsFlow (s.judgePass n) := .ite hs (.commandSlotPassed <| .setCmdPass hs)

theorem checkHeld {d : Nat} (hs : s₀.KeepsFlow s) : s₀.KeepsFlow (s.checkHeld d) := by
  unfold State.checkHeld
  split
  · exact hs
  · exact .ite (.framed hs) (.framed hs)

theorem checkHeldAll (hs : s₀.KeepsFlow s) : s₀.KeepsFlow s.checkHeldAll := .foldl hs .checkHeld

end State.KeepsFlow

end Sys2Proof.Machine

end

section

/-! What the boundary of a round leaves alone (R60): the round number, the minor version, whether a start is due, the version word, and
a step of the time that is announced. -/

namespace Sys2Proof.Machine

-- Many short rules with decided side conditions: checked one after another, they hold one thread.
set_option Elab.async false

/-- The words of the round and of the ring's minor version. -/
def State.roundWords (s : State) : Nat × Nat × Nat := (s.rd .RING_ROUND_LO, s.rd .RING_ROUND_HI, s.get F.RING_START_STATUS_ring_minor)

/-- Whether a start is due, the version word where `v` counts it, and the round of an announced step. -/
def State.roundFacts (s : State) (v : Bool) : Bool × Nat × Option Nat :=
  (s.ring.starting, if v then s.ring.versionWord else 0, s.time.stepRound)

/-- From `s` to `t` these stay; the version word only where `v` counts it. -/
structure State.KeepsRound (v : Bool) (s t : State) : Prop where
  words : t.roundWords = s.roundWords
  facts : t.roundFacts v = s.roundFacts v

/-- The address of a copy of a heading is none of the words of `State.roundWords`. -/
def offRound (r : Reg) (ix : List Nat) : Bool :=
  [Reg.RING_ROUND_LO.addr [], Reg.RING_ROUND_HI.addr [], Reg.RING_START_STATUS.addr []].all (· != r.addr ix)

theorem offRound_of_base {r : Reg} (h : 0x100048 ≤ r.desc.base) (ix : List Nat) : offRound r ix = true := by
  have hle : r.desc.base ≤ r.addr ix := Nat.le_add_right _ _
  have hsmall : ∀ a ∈ [Reg.RING_ROUND_LO.addr [], Reg.RING_ROUND_HI.addr [], Reg.RING_START_STATUS.addr []], a < 0x100048 := by decide
  exact List.all_eq_true.mpr fun a ha => bne_iff_ne.mpr (by have := hsmall a ha; omega)

theorem offRound_words {r : Reg} {ix : List Nat} (h : offRound r ix = true) :
    Reg.RING_ROUND_LO.addr [] ≠ r.addr ix ∧ Reg.RING_ROUND_HI.addr [] ≠ r.addr ix ∧ Reg.RING_START_STATUS.addr [] ≠ r.addr ix := by
  simpa [offRound] using h

theorem State.roundWords_wr {s : State} {r : Reg} {ix : List Nat} {v : Nat} (h : offRound r ix = true) :
    (s.wr r ix v).roundWords = s.roundWords := by
  obtain ⟨hlo, hhi, hstart⟩ := offRound_words h
  unfold State.roundWords
  rw [State.rd_wr_ne _ _ _ _ _ _ hlo, State.rd_wr_ne _ _ _ _ _ _ hhi, State.get_wr_ne _ F.RING_START_STATUS_ring_minor _ _ _ _ hstart]

theorem State.roundWords_of_regs {s t : State} (h : t.regs = s.regs) : t.roundWords = s.roundWords := by
  unfold State.roundWords
  rw [State.rd_of_regs h, State.rd_of_regs h, State.get_of_regs h]

theorem State.roundWords_of_flowWords {s t : State} (h : t.flowWords = s.flowWords) : t.roundWords = s.roundWords := by
  simp only [State.flowWords, List.cons.injEq] at h
  obtain ⟨hlo, hhi, hminor, -⟩ := h
  unfold State.roundWords
  rw [hlo, hhi, hminor]

theorem State.roundFacts_of_flowFacts {s t : State} {v : Bool} (h : t.flowFacts = s.flowFacts) : t.roundFacts v = s.roundFacts v := by
  simp only [State.flowFacts, Prod.mk.injEq] at h
  obtain ⟨-, -, hstarting, hversion, hstep, -⟩ := h
  unfold State.roundFacts
  rw [hstarting, hversion, hstep]

/-- The round number is among the words kept. -/
theorem State.KeepsRound.round {v : Bool} {s t : State} (h : s.KeepsRound v t) : t.round = s.round := by
  have hwords := h.words
  simp only [State.roundWords, Prod.mk.injEq] at hwords
  obtain ⟨hlo, hhi, -⟩ := hwords
  unfold State.round
  rw [hlo, hhi]

theorem State.KeepsRound.minor {v : Bool} {s t : State} (h : s.KeepsRound v t) :
    t.get F.RING_START_STATUS_ring_minor = s.get F.RING_START_STATUS_ring_minor := congrArg (·.2.2) h.words

theorem State.KeepsRound.starting {v : Bool} {s t : State} (h : s.KeepsRound v t) : t.ring.starting = s.ring.starting :=
  congrArg (·.1) h.facts

theorem State.KeepsRound.versionWord {s t : State} (h : s.KeepsRound true t) : t.ring.versionWord = s.ring.versionWord :=
  congrArg (·.2.1) h.facts

theorem State.KeepsRound.stepRound {v : Bool} {s t : State} (h : s.KeepsRound v t) : t.time.stepRound = s.time.stepRound :=
  congrArg (·.2.2) h.facts

namespace State.KeepsRound

variable {v : Bool} {s₀ s : State}

theorem refl (s : State) : s.KeepsRound v s := ⟨rfl, rfl⟩

theorem trans {t u : State} (h : s.KeepsRound v t) (k : t.KeepsRound v u) : s.KeepsRound v u :=
  ⟨k.words.trans h.words, k.facts.trans h.facts⟩

theorem flow {t : State} (hs : s₀.KeepsRound v s) (h : s.KeepsFlow t) : s₀.KeepsRound v t :=
  hs.trans ⟨State.roundWords_of_flowWords h.words, State.roundFacts_of_flowFacts h.facts⟩

/-- Nothing but register words, the ring and the time core matters. -/
theorem frame {pending out line free faultPair shot permits twin hop brg setts pins benches drs ports can canT ethT hopT ringT sw grd
    edge chip upd} (hs : s₀.KeepsRound v s) :
    s₀.KeepsRound v ⟨pending, out, line, s.regs, free, faultPair, s.time, shot, permits, s.ring, twin, hop, brg, setts, pins, benches,
      drs, ports, can, canT, ethT, hopT, ringT, sw, grd, edge, chip, upd⟩ := hs.trans ⟨State.roundWords_of_regs rfl, rfl⟩

/-- Of the ring the start and the version word matter. -/
theorem ringFrame {pending out line free faultPair shot permits twin hop brg setts pins benches drs ports can canT ethT hopT ringT sw
    grd edge chip upd helloEast helloWest eg wg delivered announcements refRound refMaster refRun refSeen refMissing masterSeen
    masterMissing refOther lossRounds bitmap backups handoffWord grants silentLeft roundsIntegrated withdrawnLeft relocking yielding
    originated contends bestSeen closureWord closureReach closureTaken closureOff lapsing loopAt loopFrom mirrorFills pass1 pass2 scram
    fwVersion slotFaces schedGen heardGen preferred spareIndex spareRequest spareRounds currentSeen seenBefore} (hs : s₀.KeepsRound v s)
    :
    s₀.KeepsRound v ⟨pending, out, line, s.regs, free, faultPair, s.time, shot, permits, ⟨helloEast, helloWest, eg, wg, delivered,
      announcements, refRound, refMaster, refRun, refSeen, refMissing, masterSeen, masterMissing, refOther, lossRounds, bitmap,
      s.ring.versionWord, backups, handoffWord, grants, silentLeft, roundsIntegrated, withdrawnLeft, relocking, yielding,
      s.ring.starting, originated, contends, bestSeen, closureWord, closureReach, closureTaken, closureOff, lapsing, loopAt, loopFrom,
      mirrorFills, pass1, pass2, scram, fwVersion, slotFaces, schedGen, heardGen, preferred, spareIndex, spareRequest, spareRounds,
      currentSeen, seenBefore⟩, twin, hop, brg, setts, pins, benches, drs, ports, can, canT, ethT, hopT, ringT, sw, grd, edge, chip,
      upd⟩ := hs.trans ⟨State.roundWords_of_regs rfl, rfl⟩

/-- Of the time core the announced step matters. -/
theorem timeFrame {pending out line free faultPair shot permits twin hop brg setts pins benches drs ports can canT ethT hopT ringT sw
    grd edge chip upd a b snaps capUnread capMade selects stepN ringStep diffHigh diffLow refEg refWg alignDue refUsed unmeasured
    autoSwitched delayEast delayWest ppsOut cycles} (hs : s₀.KeepsRound v s) :
    s₀.KeepsRound v ⟨pending, out, line, s.regs, free, faultPair, ⟨a, b, snaps, capUnread, capMade, selects, s.time.stepRound, stepN,
      ringStep, diffHigh, diffLow, refEg, refWg, alignDue, refUsed, unmeasured, autoSwitched, delayEast, delayWest, ppsOut, cycles⟩,
      shot, permits, s.ring, twin, hop, brg, setts, pins, benches, drs, ports, can, canT, ethT, hopT, ringT, sw, grd, edge, chip, upd⟩
      := hs.trans ⟨State.roundWords_of_regs rfl, rfl⟩

/-- As `ringFrame` and `timeFrame`, where both change. -/
theorem ringTimeFrame {pending out line free faultPair shot permits twin hop brg setts pins benches drs ports can canT ethT hopT ringT
    sw grd edge chip upd helloEast helloWest eg wg delivered announcements refRound refMaster refRun refSeen refMissing masterSeen
    masterMissing refOther lossRounds bitmap backups handoffWord grants silentLeft roundsIntegrated withdrawnLeft relocking yielding
    originated contends bestSeen closureWord closureReach closureTaken closureOff lapsing loopAt loopFrom mirrorFills pass1 pass2 scram
    fwVersion slotFaces schedGen heardGen preferred spareIndex spareRequest spareRounds currentSeen seenBefore a b snaps capUnread
    capMade selects stepN ringStep diffHigh diffLow refEg refWg alignDue refUsed unmeasured autoSwitched delayEast delayWest ppsOut
    cycles} (hs : s₀.KeepsRound v s) :
    s₀.KeepsRound v ⟨pending, out, line, s.regs, free, faultPair, ⟨a, b, snaps, capUnread, capMade, selects, s.time.stepRound, stepN,
      ringStep, diffHigh, diffLow, refEg, refWg, alignDue, refUsed, unmeasured, autoSwitched, delayEast, delayWest, ppsOut, cycles⟩,
      shot, permits, ⟨helloEast, helloWest, eg, wg, delivered, announcements, refRound, refMaster, refRun, refSeen, refMissing,
      masterSeen, masterMissing, refOther, lossRounds, bitmap, s.ring.versionWord, backups, handoffWord, grants, silentLeft,
      roundsIntegrated, withdrawnLeft, relocking, yielding, s.ring.starting, originated, contends, bestSeen, closureWord, closureReach,
      closureTaken, closureOff, lapsing, loopAt, loopFrom, mirrorFills, pass1, pass2, scram, fwVersion, slotFaces, schedGen, heardGen,
      preferred, spareIndex, spareRequest, spareRounds, currentSeen, seenBefore⟩, twin, hop, brg, setts, pins, benches, drs, ports, can,
      canT, ethT, hopT, ringT, sw, grd, edge, chip, upd⟩ := hs.trans ⟨State.roundWords_of_regs rfl, rfl⟩

theorem wrAt {r : Reg} {ix : List Nat} {x : Nat} (h : offRound r ix = true) (hs : s₀.KeepsRound v s) : s₀.KeepsRound v (s.wr r ix x) :=
  hs.trans ⟨State.roundWords_wr h, rfl⟩

theorem setAt {f : Fld} {ix : List Nat} {x : Nat} (h : offRound f.reg ix = true) (hs : s₀.KeepsRound v s) : s₀.KeepsRound v (s.set f ix x) :=
  .wrAt h hs

theorem setBAt {f : Fld} {ix : List Nat} {b : Bool} (h : offRound f.reg ix = true) (hs : s₀.KeepsRound v s) :
    s₀.KeepsRound v (s.setB f ix b) := .wrAt h hs

theorem wr {r : Reg} {ix : List Nat} {x : Nat} (hs : s₀.KeepsRound v s) (h : 0x100048 ≤ r.desc.base := by decide) :
    s₀.KeepsRound v (s.wr r ix x) := .wrAt (offRound_of_base h ix) hs

theorem set {f : Fld} {ix : List Nat} {x : Nat} (hs : s₀.KeepsRound v s) (h : 0x100048 ≤ f.reg.desc.base := by decide) :
    s₀.KeepsRound v (s.set f ix x) := .wr hs h

theorem setB {f : Fld} {ix : List Nat} {b : Bool} (hs : s₀.KeepsRound v s) (h : 0x100048 ≤ f.reg.desc.base := by decide) :
    s₀.KeepsRound v (s.setB f ix b) := .wr hs h

theorem inc {f : Fld} {ix : List Nat} (hs : s₀.KeepsRound v s) (h : 0x100048 ≤ f.reg.desc.base := by decide) :
    s₀.KeepsRound v (s.inc f ix) := .wr hs h

/-- A field of RING_START_STATUS beside the minor version. -/
theorem setStart {f : Fld} {x : Nat} (hs : s₀.KeepsRound v s) (hf : f.reg = .RING_START_STATUS := by rfl)
    (hbits : f.hi < 24 ∨ 27 < f.lo := by decide) (h32 : f.hi < 32 := by decide) : s₀.KeepsRound v (s.set f [] x) :=
  hs.flow (.setStart (.refl s) hf hbits h32)

theorem setLeaf {n unit code : Nat} {rec : Bool} (hs : s₀.KeepsRound v s) : s₀.KeepsRound v (s.leaf n unit code rec) :=
  hs.flow (.setLeaf (.refl s))

protected theorem ite {c : Prop} [Decidable c] {a b : State} (ha : s₀.KeepsRound v a) (hb : s₀.KeepsRound v b) :
    s₀.KeepsRound v (if c then a else b) := by
  split
  · exact ha
  · exact hb

theorem when {c : Bool} {f : State → State} (hs : s₀.KeepsRound v s) (hf : ∀ {u}, s₀.KeepsRound v u → s₀.KeepsRound v (f u)) :
    s₀.KeepsRound v (s.when c f) := .ite (hf hs) hs

theorem foldlMem {α : Type} {xs : List α} {f : State → α → State} (hs : s₀.KeepsRound v s)
    (hf : ∀ {u x}, x ∈ xs → s₀.KeepsRound v u → s₀.KeepsRound v (f u x)) : s₀.KeepsRound v (xs.foldl f s) := by
  induction xs generalizing s with
  | nil => exact hs
  | cons x xs ih => exact ih (hf (by simp) hs) fun hx => hf (by simp [hx])

theorem foldl {α : Type} {xs : List α} {f : State → α → State} (hs : s₀.KeepsRound v s)
    (hf : ∀ {u x}, s₀.KeepsRound v u → s₀.KeepsRound v (f u x)) : s₀.KeepsRound v (xs.foldl f s) := .foldlMem hs fun _ => hf

/-- The state a function answers beside a result. -/
theorem of_eq {α : Type} {p : α × State} {a : α} {u : State} (e : p = (a, u)) (hp : s₀.KeepsRound v p.2) : s₀.KeepsRound v u := by
  subst e
  exact hp

end State.KeepsRound

end Sys2Proof.Machine

end

section

/-! Domains and the reference at the boundary of a round (R363 to R371). -/

namespace Sys2Proof.Machine

namespace State.KeepsRound

variable {v : Bool} {s₀ s : State}

theorem setDom {d : Dom} {x : DomainState} (hs : s₀.KeepsRound v s) : s₀.KeepsRound v (s.setDom d x) := by
  cases d <;> exact .timeFrame hs

theorem setRate {d : Dom} {r : Int} (hs : s₀.KeepsRound v s) : s₀.KeepsRound v (s.setRate d r) := .wr hs

theorem toDomState {d : Dom} {st : Nat} (hs : s₀.KeepsRound v s) : s₀.KeepsRound v (s.toDomState d st) :=
  .ite hs (.setLeaf <| .when (.set hs) .setB)

theorem domStep {d : Dom} {theta : Int} (hs : s₀.KeepsRound v s) : s₀.KeepsRound v (s.domStep d theta) := .inc <| .setDom hs

theorem showSource {d : Dom} (hs : s₀.KeepsRound v s) : s₀.KeepsRound v (s.showSource d) := .setB hs

theorem slew {d : Dom} {ring : Bool} {theta : Int} (hs : s₀.KeepsRound v s) : s₀.KeepsRound v (s.slew d ring theta) :=
  .setRate <| .setDom hs

theorem recordTheta {d : Dom} {theta : Int} (hs : s₀.KeepsRound v s) : s₀.KeepsRound v (s.recordTheta d theta) := .wr <| .setDom hs

theorem clearRuns {d : Dom} (hs : s₀.KeepsRound v s) : s₀.KeepsRound v (s.clearRuns d) := .setDom hs

theorem measureState {d : Dom} {traceable : Bool} (hs : s₀.KeepsRound v s) : s₀.KeepsRound v (s.measureState d traceable) :=
  .when (.when (.when (.when hs fun h => .setDom <| .toDomState <| .clearRuns h) fun h => .toDomState <| .clearRuns h) .toDomState) .setB

theorem measureRing {theta : Int} {traceable : Bool} {clockClass : Nat} (hs : s₀.KeepsRound v s) :
    s₀.KeepsRound v (s.measureRing theta traceable clockClass) :=
  .slew <| .when (.measureState <| .set <| .recordTheta hs) fun h => .timeFrame <| .clearRuns h

theorem enterHoldover {d : Dom} (hs : s₀.KeepsRound v s) : s₀.KeepsRound v (s.enterHoldover d) :=
  .ite (.setRate <| .setB <| .toDomState <| .setDom <| .clearRuns hs) hs

theorem checkSources {d : Dom} (hs : s₀.KeepsRound v s) : s₀.KeepsRound v (s.checkSources d) :=
  .ite (.showSource hs) (.enterHoldover <| .showSource hs)

theorem alignRing {theta : Int} (hs : s₀.KeepsRound v s) : s₀.KeepsRound v (s.alignRing theta) :=
  .when (.domStep <| .timeFrame hs) fun h => .toDomState <| .clearRuns h

theorem refMeasured {d : Side} {c : RefCopy} (hs : s₀.KeepsRound v s) : s₀.KeepsRound v (s.refMeasured d c) :=
  .ite (.alignRing <| .setB <| .timeFrame <| .setB hs) (.measureRing <| .setB <| .timeFrame <| .setB hs)

theorem refDiff {diff : Int} (hs : s₀.KeepsRound v s) : s₀.KeepsRound v (s.refDiff diff) :=
  .when (.when (.timeFrame <| .set hs) fun h => .setLeaf <| .setB h) .setB

theorem refRoundEnd (hs : s₀.KeepsRound v s) : s₀.KeepsRound v s.refRoundEnd := by
  unfold State.refRoundEnd
  extract_lets pref used other s₁ t₁ s₂
  clear_value used other
  have h₁ : s₀.KeepsRound v s₁ := by
    unfold s₁
    split
    · exact .refMeasured hs
    · exact .setB hs
    · exact hs
  have h₂ : s₀.KeepsRound v s₂ := by
    unfold s₂
    split
    · exact .refDiff h₁
    · exact .timeFrame h₁
  exact .timeFrame h₂

theorem referenceLost (hs : s₀.KeepsRound v s) : s₀.KeepsRound v s.referenceLost := .when hs fun h => .setLeaf <| .setStart h

theorem refRound (hs : s₀.KeepsRound v s) : s₀.KeepsRound v s.refRound := by
  unfold State.refRound
  exact .ite (.when (.when (.ringTimeFrame <| .refRoundEnd hs) .enterHoldover) .referenceLost) hs

theorem ringStepRound (hs : s₀.KeepsRound v s) : s₀.KeepsRound v s.ringStepRound := by
  unfold State.ringStepRound
  split
  · exact .setLeaf <| .timeFrame <| .domStep hs
  · exact hs

end State.KeepsRound

end Sys2Proof.Machine

end

section

/-! Grants, mastership and closures at the boundary of a round (R80, R102 to R107, R133 to R146). -/

namespace Sys2Proof.Machine

-- Many short rules with decided side conditions: checked one after another, they hold one thread.
set_option Elab.async false

theorem offRound_pad {d : Nat} (h : d ∈ [0, 1]) : offRound .RING_PAD [d] = true := by
  obtain rfl | rfl : d = 0 ∨ d = 1 := by simpa using h
  all_goals rfl

theorem offRound_side {r : Reg} (h : offRound r [0] = true ∧ offRound r [1] = true) (d : Side) : offRound r [sideIx d] = true := by
  cases d with
  | east => exact h.1
  | west => exact h.2

theorem offRound_of_addr {r : Reg} {ix : List Nat} (h : r.addr ix < 0x100000) : offRound r ix = true := by
  have hlarge : ∀ a ∈ [Reg.RING_ROUND_LO.addr [], Reg.RING_ROUND_HI.addr [], Reg.RING_START_STATUS.addr []], 0x100000 ≤ a := by decide
  exact List.all_eq_true.mpr fun a ha => bne_iff_ne.mpr (by have := hlarge a ha; omega)

theorem offRound_pairStatus {k : Nat} (h : k < 32) : offRound .TWIN_PAIR_STATUS [k] = true :=
  offRound_of_addr (by simp [Reg.addr, Reg.desc, dimOffset]; omega)

/-- The members of the pairs as TWIN_MEMBER numbers them. -/
theorem pair_mem {x : Nat × Nat} (h : x ∈ allPairs.flatMap fun k => [(k, 0), (k, 1)]) : x.1 < 32 ∧ x.2 < 2 := by
  obtain ⟨k, hk, hx⟩ := List.mem_flatMap.mp h
  have : k < 32 := List.mem_range.mp hk
  obtain rfl | rfl : x = (k, 0) ∨ x = (k, 1) := by simpa using hx
  all_goals exact ⟨this, by simp⟩

theorem offRound_member {x : Nat × Nat} (h : x.1 < 32 ∧ x.2 < 2) : offRound .TWIN_MEMBER [x.1, x.2] = true :=
  offRound_of_addr (by simp [Reg.addr, Reg.desc, dimOffset]; omega)

namespace State.KeepsRound

variable {v : Bool} {s₀ s : State}

/-- A field of RING_PAD of a direction. -/
theorem setPad {f : Fld} {d : Side} {x : Nat} (hs : s₀.KeepsRound v s) (hf : f.reg = .RING_PAD := by rfl) :
    s₀.KeepsRound v (s.set f [sideIx d] x) :=
  .setAt (hf ▸ offRound_side ⟨rfl, rfl⟩ d) hs

theorem setRdir {d : Side} {x : RingDir} (hs : s₀.KeepsRound v s) : s₀.KeepsRound v (s.setRdir d x) := by
  cases d <;> exact .ringFrame hs

theorem setHead {d : Side} {b : Bool} (hs : s₀.KeepsRound v s) : s₀.KeepsRound v (s.setHead d b) := by
  cases d <;> exact .setBAt rfl hs

theorem setAnn {h : Nat} {x : Announcement} (hs : s₀.KeepsRound v s) : s₀.KeepsRound v (s.setAnn h x) := .ringFrame hs

theorem portsUnseen (hs : s₀.KeepsRound v s) : s₀.KeepsRound v s.portsUnseen := .foldl hs .setAnn

theorem setMode {m : Nat} (hs : s₀.KeepsRound v s) : s₀.KeepsRound v (s.setMode m) :=
  .ite hs (.setLeaf <| .when (.setBAt rfl <| .setAt rfl hs) .portsUnseen)

theorem showRing (hs : s₀.KeepsRound v s) : s₀.KeepsRound v s.showRing := .setB hs

theorem showComplete (hs : s₀.KeepsRound v s) : s₀.KeepsRound v s.showComplete := .setStart hs

theorem showBackup (hs : s₀.KeepsRound v s) : s₀.KeepsRound v s.showBackup := .setStart hs

/-! Grants. -/

theorem applyGrant {w : Nat} (hs : s₀.KeepsRound v s) : s₀.KeepsRound v (s.applyGrant w) := .foldl hs fun h => .set <| .setB h

theorem grantRound (hs : s₀.KeepsRound v s) : s₀.KeepsRound v s.grantRound := .ringFrame <| .foldl hs .applyGrant

theorem checkGrant (hs : s₀.KeepsRound v s) : s₀.KeepsRound v s.checkGrant := .ite (.ringFrame <| .set hs) hs

/-! Command slots, and the counts of rounds. -/

theorem setCmdPass {n : Nat} {x : CommandPass} (hs : s₀.KeepsRound v s) : s₀.KeepsRound v (s.setCmdPass n x) := hs.flow (.setCmdPass (.refl s))

theorem judgePass {n : Nat} (hs : s₀.KeepsRound v s) : s₀.KeepsRound v (s.judgePass n) := hs.flow (.judgePass (.refl s))

theorem checkHeldAll (hs : s₀.KeepsRound v s) : s₀.KeepsRound v s.checkHeldAll := hs.flow (.checkHeldAll (.refl s))

theorem commandSlotsPassed {r : Nat} (hs : s₀.KeepsRound v s) : s₀.KeepsRound v (s.commandSlotsPassed r) :=
  .foldl hs fun h => .ite h (.judgePass <| .ite h (.setCmdPass <| .judgePass h))

theorem countRound (hs : s₀.KeepsRound v s) : s₀.KeepsRound v s.countRound := .ringFrame hs

/-! Heads and closures. -/

theorem slotLost {d : Side} {bs : List Block} (hs : s₀.KeepsRound v s) : s₀.KeepsRound v (s.slotLost d bs) :=
  .when hs fun h => .setAt (offRound_side ⟨rfl, rfl⟩ _) h

theorem becomeHead {d : Side} (hs : s₀.KeepsRound v s) : s₀.KeepsRound v (s.becomeHead d) :=
  .ite (.setPad <| .setRdir <| .setMode <| .setHead <| .foldl hs .slotLost) hs

theorem leaveHead {d : Side} (hs : s₀.KeepsRound v s) : s₀.KeepsRound v (s.leaveHead d) := .setRdir <| .setHead hs

theorem cancelClosure (hs : s₀.KeepsRound v s) : s₀.KeepsRound v s.cancelClosure := .setBAt rfl <| .when (.ringFrame hs) .ringFrame

theorem refuseClosure {d : Side} (hs : s₀.KeepsRound v s) : s₀.KeepsRound v (s.refuseClosure d) := .setLeaf <| .setBAt rfl <| .setRdir hs

theorem takeClosureWord {w : Nat} (hs : s₀.KeepsRound v s) : s₀.KeepsRound v (s.takeClosureWord w) :=
  .ite (.ringFrame <| .when hs .cancelClosure) (.ite hs (.ite (.ringFrame hs)
    (.setBAt rfl <| .when (.when (.when (.when (.ringFrame hs) .setRdir) .setRdir) .setRdir) .ringFrame)))

theorem checkClosure (hs : s₀.KeepsRound v s) : s₀.KeepsRound v s.checkClosure := .ite (.cancelClosure hs) hs

theorem checkPads (hs : s₀.KeepsRound v s) : s₀.KeepsRound v s.checkPads := .foldl hs fun h => .when h fun h1 => .becomeHead <| .refuseClosure h1

theorem attemptClosure (hs : s₀.KeepsRound v s) : s₀.KeepsRound v s.attemptClosure :=
  .ite (.ite (.when (.when hs .refuseClosure) .refuseClosure)
    (.takeClosureWord <| .setBAt rfl <| .ringFrame <| .when (.when hs .refuseClosure) .refuseClosure)) hs

theorem closeDirection {d : Side} (hs : s₀.KeepsRound v s) : s₀.KeepsRound v (s.closeDirection d) :=
  .ite (.when (.leaveHead <| .setRdir hs) fun h => .ite (.setPad <| .setPad h) (.becomeHead <| .refuseClosure h)) hs

theorem closureRound (hs : s₀.KeepsRound v s) : s₀.KeepsRound v s.closureRound :=
  .setBAt rfl <| .when (.when (.closeDirection <| .closeDirection hs) fun h => .setMode <| .ringFrame h) .ringFrame

/-! Mastership. -/

theorem takeMastership (hs : s₀.KeepsRound v s) : s₀.KeepsRound v s.takeMastership :=
  .setLeaf <| .showRing <| .ringFrame <| .setStart <| .setStart <| .setAt rfl <| .setStart hs

theorem sourcesApply (hs : s₀.KeepsRound v s) : s₀.KeepsRound v s.sourcesApply := .checkSources hs

theorem giveUpMastership (hs : s₀.KeepsRound v s) : s₀.KeepsRound v s.giveUpMastership :=
  .setLeaf <| .showRing <| .ringTimeFrame <| .setBAt rfl <| .setBAt rfl <| .setStart <| .foldl hs fun h => .setRdir <| .foldl h .slotLost

theorem yieldMastership (hs : s₀.KeepsRound v s) : s₀.KeepsRound v s.yieldMastership :=
  .ringFrame <| .foldl (.giveUpMastership hs) fun h => .when h .leaveHead

theorem handoffRound (hs : s₀.KeepsRound v s) : s₀.KeepsRound v s.handoffRound :=
  .ite (.ite (.ringFrame <| .foldlMem (.sourcesApply <| .takeMastership <| .ringFrame hs) fun hd h => .setBAt (offRound_pad hd) h)
    (.ringFrame <| .setAt rfl <| .ite (.giveUpMastership <| .ringFrame hs) (.when (.ringFrame hs) .setLeaf))) hs

theorem masterBitmap {seen : Nat} (hs : s₀.KeepsRound v s) : s₀.KeepsRound v (s.masterBitmap seen) := .ringFrame hs

/-- The version word, where it does not count. -/
theorem setVersion {w : Nat} (hs : s₀.KeepsRound false s) : s₀.KeepsRound false { s with ring := { s.ring with versionWord := w } } :=
  hs.trans ⟨State.roundWords_of_regs rfl, rfl⟩

theorem masterVersion (hs : s₀.KeepsRound false s) : s₀.KeepsRound false s.masterVersion := .ite hs (.ite (.setVersion hs) (.setVersion hs))

theorem refreshMaster (hs : s₀.KeepsRound false s) : s₀.KeepsRound false s.refreshMaster :=
  .showComplete <| .masterVersion <| .foldlMem (.ringFrame <| .masterBitmap hs) fun hd h => .when h fun h1 => .setAt (offRound_pad hd) h1

theorem masterRound (hs : s₀.KeepsRound false s) : s₀.KeepsRound false s.masterRound :=
  .ite hs (.ite (.yieldMastership hs) (.attemptClosure <| .checkClosure <| .checkPads <| .refreshMaster hs))

/-! Twins. -/

theorem endHoldoff {k : Nat} (hk : k < 32) (hs : s₀.KeepsRound v s) : s₀.KeepsRound v (s.endHoldoff k) :=
  .ite (.frame <| .setBAt (offRound_pairStatus hk) hs) hs

theorem twinRefresh {k : Nat} (hk : k < 32) (hs : s₀.KeepsRound v s) : s₀.KeepsRound v (s.twinRefresh k) := by
  unfold State.twinRefresh
  exact .when (.setAt (offRound_pairStatus hk) <| .setAt (offRound_pairStatus hk) <| .setBAt (offRound_pairStatus hk) <|
    .when hs (.endHoldoff hk)) .setLeaf

theorem twinRefreshAll (hs : s₀.KeepsRound v s) : s₀.KeepsRound v s.twinRefreshAll :=
  .foldlMem hs fun hk => .twinRefresh (List.mem_range.mp hk)

theorem showMissing {k : Nat} (hk : k < 32) (hs : s₀.KeepsRound v s) : s₀.KeepsRound v (s.showMissing k) :=
  .setBAt (offRound_pairStatus hk) <| .setBAt (offRound_pairStatus hk) hs

theorem twinRound (hs : s₀.KeepsRound v s) : s₀.KeepsRound v s.twinRound :=
  .twinRefreshAll <| .frame <| .foldlMem hs fun hx h => .when h fun h1 =>
    .when (.showMissing (pair_mem hx).1 <| .setAt (offRound_member (pair_mem hx)) <| .frame h1) .setLeaf

/-! What follows the round. -/

theorem seenRound (hs : s₀.KeepsRound v s) : s₀.KeepsRound v s.seenRound := .ringFrame hs

theorem handoverBegins (hs : s₀.KeepsRound v s) : s₀.KeepsRound v s.handoverBegins := .when hs fun h => .frame <| .setAt rfl h

theorem applyFreeze (hs : s₀.KeepsRound v s) : s₀.KeepsRound v s.applyFreeze := .foldl (.frame hs) fun h => .when h .setB

end State.KeepsRound

end Sys2Proof.Machine

end

section

/-! Polls at the start of a round (R356, R357): a read of a register here, or one that the bridge issues. -/

namespace Sys2Proof.Machine

-- Many short rules with decided side conditions: checked one after another, they hold one thread.
set_option Elab.async false

theorem offRound_guardCnt {n : Nat} (h : n < 64) : offRound .TWIN_GUARD_CNT [n] = true :=
  offRound_of_addr (by simp [Reg.addr, Reg.desc, dimOffset]; omega)

theorem offRound_remote {k : Nat} (h : k < 64) : offRound .CAUSE_REMOTE [k] = true :=
  offRound_of_addr (by simp [Reg.addr, Reg.desc, dimOffset]; omega)

theorem offRound_holeAddr {k : Nat} (h : k < 20) : offRound .CAUSE_HOLE_ADDR [k] = true :=
  offRound_of_addr (by simp [Reg.addr, Reg.desc, dimOffset]; omega)

theorem guardOf_lt {s : State} {e n : Nat} (h : s.guardOf e = some n) : n < 64 := List.mem_range.mp (List.mem_of_find?_eq_some h)

namespace State.KeepsRound

variable {v : Bool} {s₀ s : State}

/-! Cells that are enqueued. -/

theorem setQueue {q : Nat} {x : Queue} (hs : s₀.KeepsRound v s) : s₀.KeepsRound v (s.setQueue q x) := .frame hs

theorem queueRefused {q : Nat} (hs : s₀.KeepsRound v s) : s₀.KeepsRound v (s.queueRefused q) := .setQueue hs

theorem takeIndex (hs : s₀.KeepsRound v s) : s₀.KeepsRound v s.takeIndex.2 := .frame hs

theorem appendCell {q srcHub srcEp : Nat} {bytes : List Byte} (hs : s₀.KeepsRound v s) :
    s₀.KeepsRound v (s.appendCell q srcHub srcEp bytes) :=
  .ite (.setQueue <| .takeIndex hs) (.frame <| .setQueue <| .takeIndex hs)

theorem guardCount {n src : Nat} {ordinary : Bool} (hn : n < 64) (hs : s₀.KeepsRound v s) :
    s₀.KeepsRound v (s.guardCount n src ordinary) :=
  .ite (.setAt (offRound_guardCnt hn) hs) (.setAt (offRound_guardCnt hn) hs)

theorem deliverChecked {more E c srcHub srcEp : Nat} {cell : List Byte} (hs : s₀.KeepsRound v s) :
    s₀.KeepsRound v (s.deliverChecked more E c srcHub srcEp cell) := by
  induction more generalizing s E c srcHub srcEp cell with
  | zero => exact hs
  | succ more ih =>
    unfold State.deliverChecked
    split
    · exact .appendCell hs
    · next hn =>
      have hcount := guardCount (src := srcHub) (ordinary := true) (guardOf_lt hn) hs
      refine .ite (.appendCell hs) (.ite hcount ?_)
      dsimp only
      split
      · refine .ite ?_ (.appendCell <| .frame hcount)
        split
        · exact ih (.frame hcount)
        · exact .frame hcount
      · exact .queueRefused <| .frame hcount

theorem enqueue {p : Producer} {q : Nat} {cell : List Byte} (hs : s₀.KeepsRound v s) : s₀.KeepsRound v (s.enqueue p q cell).2 := by
  unfold State.enqueue
  split
  · exact hs
  · split
    · split
      · split
        · exact .deliverChecked hs
        · exact .queueRefused hs
      · exact .appendCell hs
    · exact .queueRefused hs

/-! The bridge. -/

theorem addressLeaf {n : Option Nat} {addr : Nat} (hs : s₀.KeepsRound v s) : s₀.KeepsRound v (s.addressLeaf n addr) := by
  cases n with
  | none => exact hs
  | some n => exact .setLeaf hs

theorem accessRecord {reason hub : Nat} {remote : Bool} {face addr : Nat} (hs : s₀.KeepsRound v s) :
    s₀.KeepsRound v (s.accessRecord reason hub remote face addr) :=
  .ite (.addressLeaf <| .ite (.inc hs) (.wr <| .wr hs)) (.setLeaf <| .ite (.inc hs) (.wr <| .wr hs))

theorem setTag {t : Nat} {x : BridgeTag} (hs : s₀.KeepsRound v s) : s₀.KeepsRound v (s.setTag t x) := .frame hs

theorem pollFailed {k : Nat} (hs : s₀.KeepsRound v s) : s₀.KeepsRound v (s.pollFailed k) := .setLeaf <| .inc <| .setB <| .setB hs

theorem readFails {o : ReadOrigin} {hub addr n : Nat} (hs : s₀.KeepsRound v s) : s₀.KeepsRound v (s.readFails o hub addr n) := by
  unfold State.readFails
  split
  · exact .foldl hs .frame
  · exact .pollFailed hs

theorem offerOne {o : BridgeOffer} (hs : s₀.KeepsRound v s) : s₀.KeepsRound v (s.offerOne o).2 := by
  unfold State.offerOne
  split
  · next hq => exact .when (.frame <| .set <| .of_eq hq (.enqueue hs)) .setTag
  · next hq => exact .of_eq hq (.enqueue hs)
  · next hq =>
    split
    · dsimp only
      exact .accessRecord <| .of_eq hq (.enqueue hs)
    · exact .readFails <| .setTag <| .of_eq hq (.enqueue hs)

theorem offerList {kept os : List BridgeOffer} {stuck : Bool} (hs : s₀.KeepsRound v s) : s₀.KeepsRound v (s.offerList kept stuck os).2 := by
  induction os generalizing s kept stuck with
  | nil => exact hs
  | cons o rest ih =>
    unfold State.offerList
    split
    · exact ih hs
    · dsimp only
      split
      · exact ih (.offerOne hs)
      · exact ih (.offerOne hs)

theorem acceptAccess {x : BridgeOffer} (hs : s₀.KeepsRound v s) : s₀.KeepsRound v (s.acceptAccess x) := by
  unfold State.acceptAccess
  dsimp only
  split <;> exact .when (.frame hs) .setTag

theorem admitList {kept os : List BridgeOffer} (hs : s₀.KeepsRound v s) : s₀.KeepsRound v (s.admitList kept os) := by
  induction os generalizing s kept with
  | nil => exact .frame hs
  | cons o rest ih => exact .ite (ih hs) (ih (.acceptAccess hs))

theorem bridgeTurn {writes : Bool} (hs : s₀.KeepsRound v s) : s₀.KeepsRound v (s.bridgeTurn writes) := by
  unfold State.bridgeTurn
  exact .admitList <| .frame <| .offerList hs

theorem issueRead {o : ReadOrigin} {face hub addr n lanes : Nat} (hs : s₀.KeepsRound v s) :
    s₀.KeepsRound v (s.issueRead o face hub addr n lanes) :=
  .ite (.readFails hs) (.admitList <| .frame hs)

theorem pollIssue {k hub : Nat} (hs : s₀.KeepsRound v s) : s₀.KeepsRound v (s.pollIssue k hub) := by
  unfold State.pollIssue
  exact .bridgeTurn <| .issueRead <| .setB hs

theorem pollAnswered {k x : Nat} (hk : k < 64) (hs : s₀.KeepsRound v s) : s₀.KeepsRound v (s.pollAnswered k x) :=
  .setB <| .setB <| .wrAt (offRound_remote hk) hs

/-! A register that is read here. -/

theorem mboxTake {b k x : Nat} {u : State} (hs : s₀.KeepsRound v s) (hu : s.mboxTake b k = some (x, u)) : s₀.KeepsRound v u := by
  unfold State.mboxTake at hu
  dsimp only at hu
  split at hu
  · cases hu
    exact .frame hs
  · cases hu

theorem captureRead (hs : s₀.KeepsRound v s) : s₀.KeepsRound v s.captureRead := .timeFrame <| .setB hs

theorem pairReadEffect {r : Reg} {ix : List Nat} (hs : s₀.KeepsRound v s) : s₀.KeepsRound v (s.pairReadEffect r ix) := by
  unfold State.pairReadEffect
  split
  · exact .frame hs
  · exact .ite (.captureRead hs) hs
  · exact hs

theorem readReg {p : Path} {r : Reg} {ix : List Nat} {x : Nat} {u : State} (hs : s₀.KeepsRound v s)
    (hu : s.readReg p r ix = some (x, u)) : s₀.KeepsRound v u := by
  unfold State.readReg at hu
  dsimp only at hu
  split at hu
  · exact .mboxTake hs hu
  · split at hu
    · cases hu
      exact .pairReadEffect <| .frame hs
    · split at hu <;> cases hu <;> exact hs
    · cases hu
      exact hs

theorem faceViolation {p : Path} {owner addr : Nat} {write : Bool} (hs : s₀.KeepsRound v s) :
    s₀.KeepsRound v (s.faceViolation p owner addr write) :=
  .setLeaf <| .ite (.setAt rfl hs) (.wrAt rfl <| .wrAt rfl hs)

theorem postedRefusal {p : Path} {reason addr : Nat} (hs : s₀.KeepsRound v s) : s₀.KeepsRound v (s.postedRefusal p reason addr) := by
  unfold State.postedRefusal
  split
  · exact .accessRecord hs
  · exact .accessRecord hs
  · exact hs

theorem deny {p : Path} {addr : Nat} {write : Bool} {d : Denial} (hs : s₀.KeepsRound v s) : s₀.KeepsRound v (s.deny p addr write d) := by
  cases d with
  | shape => exact .ite (.postedRefusal <| .addressLeaf hs) (.addressLeaf hs)
  | chapter => exact .ite (.postedRefusal hs) hs
  | guarded => exact .ite (.postedRefusal hs) hs
  | face owner => exact .faceViolation hs

theorem holeSeen {p : Path} {addr : Nat} (hs : s₀.KeepsRound v s) : s₀.KeepsRound v (s.holeSeen p addr) := by
  unfold State.holeSeen
  split
  · dsimp only
    split
    · next hk => exact .wrAt (offRound_holeAddr (holeAddrIndex_lt hk)) <| .addressLeaf hs
    · exact .addressLeaf hs
  · exact hs

theorem read32 {p : Path} {addr : Nat} (hs : s₀.KeepsRound v s) : s₀.KeepsRound v (s.read32 p addr).2 := by
  unfold State.read32 State.readShown
  split
  · split
    · dsimp only
      exact .deny hs
    · exact .holeSeen hs
  · split
    · exact .deny hs
    · split
      · next hu => exact .readReg hs hu
      · dsimp only
        exact .deny hs

theorem pollEntry {k : Nat} (hk : k < 64) (hs : s₀.KeepsRound v s) : s₀.KeepsRound v (s.pollEntry k) := by
  unfold State.pollEntry
  dsimp only
  split
  · split
    · split
      · next hq => exact .pollAnswered hk <| .of_eq hq (.read32 hs)
      · next hq => exact .pollFailed <| .of_eq hq (.read32 hs)
    · exact .pollIssue hs
  · exact hs

theorem pollRound (hs : s₀.KeepsRound v s) : s₀.KeepsRound v s.pollRound := .foldlMem hs fun hk => .pollEntry (List.mem_range.mp hk)

end State.KeepsRound

end Sys2Proof.Machine

end

section

/-! The parts of a round's boundary (R60): the round is counted, what is due in it takes effect, and the hub serves it. -/

namespace Sys2Proof.Machine

-- Many short rules with decided side conditions: checked one after another, they hold one thread.
set_option Elab.async false

variable {v : Bool} {s₀ s : State}

/-- The round is counted, once the command slots of the one that ended are judged. -/
def State.countsRound (s : State) : State := (s.refRound.commandSlotsPassed s.round).setRound (s.round + 1)

/-- Steps of the time, the counts of rounds, and grants. -/
def State.takesEffect (s : State) : State := ((s.ringStepN.ringStepRound).countRound).grantRound.checkGrant

/-- What a hub does in a round that has begun. -/
def State.servesRound (s : State) : State :=
  ((s.handoffRound.closureRound.masterRound.showBackup.showComplete).twinRound.checkHeldAll).pollRound

theorem roundBegins_eq (s : State) : s.roundBegins = s.countsRound.takesEffect.versionRound.servesRound := rfl

theorem round_setRound (s : State) (r : Nat) : (s.setRound r).round = r % 2 ^ 64 := by
  unfold State.setRound State.round
  rw [State.rd_wr, State.rd_wr_ne _ _ _ _ _ _ (by decide), State.rd_wr]
  omega

theorem minor_setRound (s : State) (r : Nat) : (s.setRound r).get F.RING_START_STATUS_ring_minor = s.get F.RING_START_STATUS_ring_minor :=
  (State.get_wr_ne _ F.RING_START_STATUS_ring_minor _ _ _ _ (by decide)).trans
    (State.get_wr_ne _ F.RING_START_STATUS_ring_minor _ _ _ _ (by decide))

theorem keepsRound_ended (s : State) : s.KeepsRound true (s.refRound.commandSlotsPassed s.round) := .commandSlotsPassed <| .refRound (.refl s)

theorem round_countsRound (s : State) : s.countsRound.round = (s.round + 1) % 2 ^ 64 := round_setRound _ _

theorem minor_countsRound (s : State) : s.countsRound.get F.RING_START_STATUS_ring_minor = s.get F.RING_START_STATUS_ring_minor :=
  (minor_setRound _ _).trans (keepsRound_ended s).minor

theorem roundFacts_setRound (s : State) (r : Nat) : (s.setRound r).roundFacts v = s.roundFacts v := rfl

theorem facts_countsRound (s : State) : s.countsRound.roundFacts true = s.roundFacts true :=
  (roundFacts_setRound _ _).trans (keepsRound_ended s).facts

/-- No announced step of the time is due. -/
theorem keepsRound_takesEffect (h : s.time.stepRound = none) : s.KeepsRound v s.takesEffect := by
  have hstep : s.ringStepN = s := by
    unfold State.ringStepN
    rw [h]
  unfold State.takesEffect
  rw [hstep]
  exact .checkGrant <| .grantRound <| .countRound <| .ringStepRound (.refl s)

theorem State.round_of_regs {s t : State} (h : t.regs = s.regs) : t.round = s.round := by
  unfold State.round
  rw [State.rd_of_regs h, State.rd_of_regs h]

theorem round_setMinor (s : State) (x : Nat) : (s.set F.RING_START_STATUS_ring_minor [] x).round = s.round := by
  unfold State.round State.set
  rw [State.rd_wr_ne _ _ _ _ _ _ (by decide), State.rd_wr_ne _ _ _ _ _ _ (by decide)]

/-- The minor version a round takes up (R113). -/
def State.minorRound (s : State) (x : Nat) : State :=
  let t := s.set F.RING_START_STATUS_ring_minor [] x
  { t with ring := { t.ring with versionWord := x * 2 ^ 60 } }

theorem versionRound_eq (s : State) : s.versionRound =
    if natBit s.ring.versionWord 59 && natBits s.ring.versionWord 47 0 == s.round % 2 ^ 48 then
      s.minorRound (natBits s.ring.versionWord 55 52) else s := rfl

theorem State.regs_minorRound (s : State) (x : Nat) : (s.minorRound x).regs = (s.set F.RING_START_STATUS_ring_minor [] x).regs := rfl

theorem round_minorRound (s : State) (x : Nat) : (s.minorRound x).round = s.round :=
  (State.round_of_regs (State.regs_minorRound s x)).trans (round_setMinor s x)

/-- A change of the minor version leaves the round as it is. -/
theorem round_versionRound (s : State) : s.versionRound.round = s.round := by
  rw [versionRound_eq]
  split
  · exact round_minorRound _ _
  · rfl

/-- No change of the minor version is announced. -/
theorem versionRound_of_settled (h : natBit s.ring.versionWord 59 = false) : s.versionRound = s := by
  rw [versionRound_eq, h]
  rfl

theorem keepsRound_servesRound (s : State) : s.KeepsRound false s.servesRound :=
  .pollRound <| .checkHeldAll <| .twinRound <| .showComplete <| .showBackup <| .masterRound <| .closureRound <| .handoffRound (.refl s)

/-- The round of an integrated hub goes on by one (R60). -/
theorem round_roundBegins (h : s.time.stepRound = none) : s.roundBegins.round = (s.round + 1) % 2 ^ 64 := by
  have hstep : s.countsRound.time.stepRound = none := (congrArg (·.2.2) (facts_countsRound s)).trans h
  calc s.roundBegins.round
      = s.countsRound.takesEffect.versionRound.servesRound.round := by rw [roundBegins_eq]
    _ = s.countsRound.takesEffect.versionRound.round := (keepsRound_servesRound _).round
    _ = s.countsRound.takesEffect.round := round_versionRound _
    _ = s.countsRound.round := (keepsRound_takesEffect (v := true) hstep).round
    _ = (s.round + 1) % 2 ^ 64 := round_countsRound s

/-- A round in which no change of the minor version is announced keeps it, and begins no start. -/
theorem start_roundBegins (h : s.time.stepRound = none) (hver : natBit s.ring.versionWord 59 = false) :
    s.roundBegins.ring.starting = s.ring.starting ∧
      s.roundBegins.get F.RING_START_STATUS_ring_minor = s.get F.RING_START_STATUS_ring_minor := by
  have hfacts := facts_countsRound s
  have hstep : s.countsRound.time.stepRound = none := (congrArg (·.2.2) hfacts).trans h
  have heffect := keepsRound_takesEffect (v := true) hstep
  have hword : s.countsRound.takesEffect.ring.versionWord = s.ring.versionWord := heffect.versionWord.trans (congrArg (·.2.1) hfacts)
  have hserves := keepsRound_servesRound s.countsRound.takesEffect
  rw [roundBegins_eq, versionRound_of_settled (by rw [hword]; exact hver)]
  exact ⟨hserves.starting.trans (heffect.starting.trans (congrArg (·.1) hfacts)),
    hserves.minor.trans (heffect.minor.trans (minor_countsRound s))⟩

/-! The boundary itself. -/

/-- What takes effect at every boundary: transit-only, and the wait after a withdrawal. -/
def State.boundaryComes (s : State) : State := s.clearOut.transitRound.withdrawnRound

/-- A candidate that has won starts. -/
def State.startsRound (s : State) : State := s.when s.ring.starting fun s => s.startMaster

/-- An integrated hub begins its round. -/
def State.beginsRound (s : State) : State := s.when s.integrated fun s => s.roundBegins

/-- The record of current copies, a handover that is due, and the freezes (R328, R529, R612). -/
def State.boundaryEnds (s : State) : State :=
  if s.seenRound.handoverBegins.integrated && s.seenRound.handoverBegins.ownsScheduled then s.seenRound.handoverBegins
  else s.seenRound.handoverBegins.applyFreeze

theorem exec_roundBoundary (hup : s.down .ring = false) :
    exec .roundBoundary s = .next s.boundaryComes.startsRound.beginsRound.boundaryEnds := if_neg (by simp [hup])

theorem keepsRound_boundaryEnds (s : State) : s.KeepsRound v s.boundaryEnds :=
  .ite (.handoverBegins <| .seenRound (.refl s)) (.applyFreeze <| .handoverBegins <| .seenRound (.refl s))

theorem keepsRound_boundaryComes (s : State) : s.KeepsRound v s.boundaryComes := by
  have htransit : s.KeepsRound v s.clearOut.transitRound := .ite (.frame (.refl s)) (.setLeaf <| .setBAt rfl <| .frame (.refl s))
  unfold State.boundaryComes State.withdrawnRound
  split
  · exact htransit
  · exact .when (.ringFrame htransit) .setStart

theorem mode_boundaryComes (s : State) : s.boundaryComes.get F.RING_STATUS_mode = s.get F.RING_STATUS_mode := by
  have htransit : s.clearOut.transitRound.get F.RING_STATUS_mode = s.get F.RING_STATUS_mode := by
    unfold State.transitRound
    dsimp only
    split
    · rfl
    · exact (State.get_leaf _ _ _ _ _ F.RING_STATUS_mode _ rfl).trans
        (State.get_set_field _ F.RING_STATUS_transit_active F.RING_STATUS_mode _ _ rfl (.inl (by decide)) (by decide))
  unfold State.boundaryComes State.withdrawnRound
  split
  · exact htransit
  · exact State.when_of (P := fun t => t.get F.RING_STATUS_mode = s.get F.RING_STATUS_mode) ((State.get_of_regs rfl _ _).trans htransit)
      ((State.get_set_ne _ F.RING_START_STATUS_phase F.RING_STATUS_mode _ _ _ (by decide)).trans ((State.get_of_regs rfl _ _).trans htransit))

/-- The boundary at an integrated hub with no start due. -/
theorem exec_roundBoundary_integrated (hup : s.down .ring = false) (hint : s.integrated = true) (hstart : s.ring.starting = false)
    (hstep : s.time.stepRound = none) : ∃ u, exec .roundBoundary s = .next u ∧ u.round = (s.round + 1) % 2 ^ 64 := by
  have hcomes := keepsRound_boundaryComes (v := true) s
  have hstarts : s.boundaryComes.startsRound = s.boundaryComes := by
    rw [State.startsRound, hcomes.starting, hstart]
    rfl
  have hbegins : s.boundaryComes.beginsRound = s.boundaryComes.roundBegins := by
    rw [State.beginsRound, State.integrated_of_mode (mode_boundaryComes s), hint]
    rfl
  refine ⟨_, exec_roundBoundary hup, ?_⟩
  rw [(keepsRound_boundaryEnds (v := true) _).round, hstarts, hbegins, round_roundBegins (hcomes.stepRound.trans hstep), hcomes.round]

end Sys2Proof.Machine

end

section

/-! The boundary at a hub that is not integrated (R108, R122, R132, R328), and the start of a candidate that has won (R113, R122). -/

namespace Sys2Proof.Machine

-- Many short rules with decided side conditions: checked one after another, they hold one thread.
set_option Elab.async false

variable {s t : State}

/-! Transit-only. -/

theorem transitRound_of_eq (h : s.is F.RING_CTRL_transit_only = s.is F.RING_STATUS_transit_active) : s.transitRound = s := if_pos h

theorem transitRound_of_ne (h : s.is F.RING_CTRL_transit_only ≠ s.is F.RING_STATUS_transit_active) :
    s.transitRound = (s.setB F.RING_STATUS_transit_active [] (s.is F.RING_CTRL_transit_only)).leaf (testLeaf 3) := if_neg h

/-- The words transit-only and the end of a wait may change. -/
def comesAddr (a : Nat) : Bool := a == Reg.RING_STATUS.addr [] || a == Reg.RING_START_STATUS.addr [] || causeAddr a

theorem regsOnly_transitRound (s : State) : s.regsOnly s.transitRound comesAddr := by
  by_cases h : s.is F.RING_CTRL_transit_only = s.is F.RING_STATUS_transit_active
  · rw [transitRound_of_eq h]
    exact s.regsOnly_refl _
  · rw [transitRound_of_ne h]
    exact State.regsOnly_trans (State.regsOnly_set _ _ _ _ _ (by decide))
      (State.regsOnly_mono (State.leaf_regsOnly _ _ _ _ _) fun a ha => by simp [comesAddr, ha])

theorem active_transitRound (s : State) : s.transitRound.is F.RING_STATUS_transit_active = s.is F.RING_CTRL_transit_only := by
  by_cases h : s.is F.RING_CTRL_transit_only = s.is F.RING_STATUS_transit_active
  · rw [transitRound_of_eq h, h]
  · rw [transitRound_of_ne h, State.is, State.get_leaf _ _ _ _ _ F.RING_STATUS_transit_active _ rfl]
    exact State.is_setB _ _ _ _ rfl (by decide)

theorem leaf_transitRound (h : s.is F.RING_CTRL_transit_only ≠ s.is F.RING_STATUS_transit_active) :
    s.transitRound.leafSet (testLeaf 3) = true := by
  rw [transitRound_of_ne h]
  exact State.leafSet_leaf _ _ _ _ _ (by decide)

/-! The wait after a withdrawal. -/

/-- The wait goes on by one round. -/
def State.waitsOn (s : State) (n : Nat) : State := { s with ring := { s.ring with withdrawnLeft := n } }

theorem withdrawnRound_zero (h : s.ring.withdrawnLeft = 0) : s.withdrawnRound = s := by
  unfold State.withdrawnRound
  rw [h]

theorem withdrawnRound_succ {n : Nat} (h : s.ring.withdrawnLeft = n + 1) :
    s.withdrawnRound = (s.waitsOn n).when (n == 0) fun s => s.setPhase 4 := by
  unfold State.withdrawnRound
  rw [h]
  rfl

theorem withdrawnLeft_withdrawnRound (s : State) : s.withdrawnRound.ring.withdrawnLeft = s.ring.withdrawnLeft - 1 := by
  cases h : s.ring.withdrawnLeft with
  | zero => rw [withdrawnRound_zero h, h]
  | succ n =>
    rw [withdrawnRound_succ h]
    exact State.when_of (P := fun t => t.ring.withdrawnLeft = n) rfl rfl

theorem phase_withdrawnRound (h : s.ring.withdrawnLeft = 1) : s.withdrawnRound.phase = 4 := by
  rw [withdrawnRound_succ h]
  exact State.get_set _ _ _ _ (by decide) (by decide)

theorem wordsKept_withdrawnRound (s : State) : s.wordsKept s.withdrawnRound fun a => a == Reg.RING_START_STATUS.addr [] := by
  cases h : s.ring.withdrawnLeft with
  | zero =>
    rw [withdrawnRound_zero h]
    exact s.wordsKept_refl _
  | succ n =>
    rw [withdrawnRound_succ h]
    exact State.when_of (P := fun t => s.wordsKept t _) (fun _ _ => rfl)
      (State.regsOnly_set (s.waitsOn n) _ _ _ (fun a => a == Reg.RING_START_STATUS.addr []) (by decide)).2

/-! Freezes (R328). -/

/-- The words a handover that begins and the freezes may change. -/
def endsAddr (a : Nat) : Bool := a == Reg.UPD_STATUS.addr [] || (List.range 16).any fun b => a == Reg.BNCH_STATUS.addr [b]

theorem endsAddr_bench {b : Nat} (hb : b < 16) : endsAddr (Reg.BNCH_STATUS.addr [b]) = true := by
  simp only [endsAddr, Bool.or_eq_true, List.any_eq_true]
  exact .inr ⟨b, List.mem_range.mpr hb, beq_self_eq_true _⟩

/-- The freeze words, as they take effect. -/
def State.freezeWords (s : State) : List (Nat × Nat) :=
  (List.range 32).foldl (fun m k => smSet m k (s.rd .HOP_EP_FREEZE [k]) 0) s.hop.frozen

/-- The state with the freeze words in effect. -/
def State.frozenNow (s : State) : State := { s with hop := { s.hop with frozen := s.freezeWords } }

/-- The queues of a bench out of service freeze (R571). -/
def State.freezesBench (s : State) (b : Nat) : State :=
  s.when (s.is F.BNCH_STATUS_out_of_service [b]) fun s => s.setB F.BNCH_STATUS_queues_frozen [b] true

theorem applyFreeze_eq (s : State) : s.applyFreeze = (List.range 16).foldl State.freezesBench s.frozenNow := rfl

theorem regsOnly_freezesBench (s : State) {b : Nat} (hb : b < 16) : s.regsOnly (s.freezesBench b) endsAddr :=
  State.when_of (P := fun t => s.regsOnly t endsAddr) (s.regsOnly_refl _)
    (State.regsOnly_set _ _ _ _ _ (endsAddr_bench hb))

theorem regsOnly_freezesBenches (xs : List Nat) (hxs : ∀ b ∈ xs, b < 16) (s : State) : s.regsOnly (xs.foldl State.freezesBench s) endsAddr := by
  induction xs generalizing s with
  | nil => exact s.regsOnly_refl _
  | cons b xs ih =>
    exact State.regsOnly_trans (regsOnly_freezesBench s (hxs b List.mem_cons_self)) (ih (fun c hc => hxs c (List.mem_cons_of_mem _ hc)) _)

/-- After the freezes, only words of the benches differ from the state with the freeze words in effect. -/
theorem regsOnly_applyFreeze (s : State) : s.frozenNow.regsOnly s.applyFreeze endsAddr :=
  regsOnly_freezesBenches _ (fun _ => List.mem_range.mp) _

theorem smGet_foldl_smSet (f : Nat → Nat) (xs : List Nat) (m : List (Nat × Nat)) (k : Nat) :
    smGet (xs.foldl (fun m k => smSet m k (f k) 0) m) k 0 = if k ∈ xs then f k else smGet m k 0 := by
  induction xs generalizing m with
  | nil => simp
  | cons x xs ih =>
    rw [List.foldl_cons, ih]
    by_cases hk : k = x
    · subst hk
      simp [smGet_smSet_same]
    · simp [hk, smGet_smSet_ne]

theorem frozen_applyFreeze (s : State) {k : Nat} (hk : k < 32) : smGet s.applyFreeze.hop.frozen k 0 = s.rd .HOP_EP_FREEZE [k] := by
  have hhop : s.applyFreeze.hop = s.frozenNow.hop := by rw [(regsOnly_applyFreeze s).1]
  rw [hhop, State.frozenNow, State.freezeWords, smGet_foldl_smSet, if_pos (List.mem_range.mpr hk)]

theorem ring_applyFreeze (s : State) : s.applyFreeze.ring = s.ring := by rw [(regsOnly_applyFreeze s).1]; rfl

theorem wordsKept_applyFreeze (s : State) : s.wordsKept s.applyFreeze endsAddr := (regsOnly_applyFreeze s).2

/-- The update engine's state replaced. -/
def State.withUpd (s : State) (x : UpdateState) : State := { s with upd := x }

theorem State.ring_withUpd (s : State) (x : UpdateState) : (s.withUpd x).ring = s.ring := rfl

theorem State.regs_withUpd (s : State) (x : UpdateState) : (s.withUpd x).regs = s.regs := rfl

/-- The engine hands over (R529). -/
def State.handsOver (s : State) : State := (s.toUpd 4).withUpd { s.upd with begun := false }

theorem State.ring_handsOver (s : State) : s.handsOver.ring = (s.toUpd 4).ring := State.ring_withUpd _ _

theorem State.regs_handsOver (s : State) : s.handsOver.regs = (s.toUpd 4).regs := State.regs_withUpd _ _

theorem handoverBegins_of {P : State → Prop} (hs : P s) (hbegins : P s.handsOver) : P s.handoverBegins := State.when_of hs hbegins

theorem ring_handoverBegins (s : State) : s.handoverBegins.ring = s.ring :=
  handoverBegins_of (P := fun t => t.ring = s.ring) rfl (s.ring_handsOver.trans (State.ring_set _ _ _ _))

theorem wordsKept_handoverBegins (s : State) : s.wordsKept s.handoverBegins endsAddr :=
  handoverBegins_of (P := fun t => s.wordsKept t endsAddr) (s.wordsKept_refl _) fun a ha => by
    rw [State.regs_handsOver]
    exact (State.regsOnly_set s _ _ _ endsAddr (by decide)).2 a ha

theorem wordsKept_seenRound (s : State) (f : Nat → Bool) : s.wordsKept s.seenRound f := fun _ _ => rfl

/-- The state in which the freezes take effect. -/
def State.freezesFrom (s : State) : State := s.seenRound.handoverBegins

theorem wordsKept_freezesFrom (s : State) : s.wordsKept s.freezesFrom endsAddr :=
  State.wordsKept_trans (wordsKept_seenRound s _) (wordsKept_handoverBegins _)

theorem boundaryEnds_of_apart (h : s.integrated = false) : s.boundaryEnds = s.freezesFrom.applyFreeze := by
  have hint : s.freezesFrom.integrated = false :=
    (State.integrated_of_mode (State.wordsKept_get (wordsKept_freezesFrom s) F.RING_STATUS_mode _ (by decide))).trans h
  exact if_neg (by rw [show s.seenRound.handoverBegins.integrated = false from hint]; simp)

theorem wordsKept_endsApart (h : s.integrated = false) : s.wordsKept s.boundaryEnds endsAddr := by
  rw [boundaryEnds_of_apart h]
  exact State.wordsKept_trans (wordsKept_freezesFrom s) (wordsKept_applyFreeze _)

theorem ring_freezesFrom (s : State) : s.freezesFrom.ring = s.seenRound.ring := ring_handoverBegins _

/-! A hub that is not integrated. -/

/-- With transit-only in effect. -/
def State.boundaryTransit (s : State) : State := s.clearOut.transitRound

theorem boundaryComes_eq (s : State) : s.boundaryComes = s.boundaryTransit.withdrawnRound := rfl

theorem regsOnly_boundaryTransit (s : State) : s.clearOut.regsOnly s.boundaryTransit comesAddr := regsOnly_transitRound _

theorem ring_boundaryTransit (s : State) : s.boundaryTransit.ring = s.ring := by rw [(regsOnly_boundaryTransit s).1]; rfl

theorem wordsKept_boundaryComes (s : State) : s.wordsKept s.boundaryComes comesAddr :=
  State.wordsKept_trans (regsOnly_boundaryTransit s).2 fun a ha => wordsKept_withdrawnRound _ a (by
    simp only [comesAddr, Bool.or_eq_false_iff] at ha
    exact ha.1.2)

theorem leafSet_of_wordsKept {f : Nat → Bool} (h : s.wordsKept t f) {n : Nat} (hf : f (Reg.CAUSE_LEAF.addr [n / 32]) = false) :
    t.leafSet n = s.leafSet n := by
  unfold State.leafSet
  rw [State.wordsKept_rd h _ _ hf]

theorem comesAddr_freeze {k : Nat} (hk : k < 32) : comesAddr (Reg.HOP_EP_FREEZE.addr [k]) = false := by
  have hall : ∀ k < 32, comesAddr (Reg.HOP_EP_FREEZE.addr [k]) = false := by decide
  exact hall k hk

theorem endsAddr_freeze {k : Nat} (hk : k < 32) : endsAddr (Reg.HOP_EP_FREEZE.addr [k]) = false := by
  have hall : ∀ k < 32, endsAddr (Reg.HOP_EP_FREEZE.addr [k]) = false := by decide
  exact hall k hk

theorem exec_roundBoundary_apart (hup : s.down .ring = false) (hint : s.integrated = false) (hstart : s.ring.starting = false) :
    ∃ u, exec .roundBoundary s = .next u ∧ u.round = s.round ∧
      u.is F.RING_STATUS_transit_active = s.is F.RING_CTRL_transit_only ∧
      (s.is F.RING_CTRL_transit_only ≠ s.is F.RING_STATUS_transit_active → u.leafSet (testLeaf 3) = true) ∧
      (s.ring.withdrawnLeft = 1 → u.phase = 4) ∧ u.ring.withdrawnLeft = s.ring.withdrawnLeft - 1 ∧
      ∀ k, k < 32 → smGet u.hop.frozen k 0 = s.rd .HOP_EP_FREEZE [k] := by
  have hcomes := keepsRound_boundaryComes (v := true) s
  have hintC : s.boundaryComes.integrated = false := (State.integrated_of_mode (mode_boundaryComes s)).trans hint
  have hstarts : s.boundaryComes.startsRound = s.boundaryComes := by
    rw [State.startsRound, hcomes.starting, hstart]
    rfl
  have hbegins : s.boundaryComes.beginsRound = s.boundaryComes := by
    rw [State.beginsRound, hintC]
    rfl
  have hends := wordsKept_endsApart hintC
  have hring : s.boundaryComes.boundaryEnds.ring.withdrawnLeft = s.boundaryComes.ring.withdrawnLeft := by
    rw [boundaryEnds_of_apart hintC, ring_applyFreeze, ring_freezesFrom]
    rfl
  have hwaits := wordsKept_withdrawnRound s.boundaryTransit
  refine ⟨_, exec_roundBoundary hup, ?_⟩
  rw [hstarts, hbegins]
  refine ⟨(keepsRound_boundaryEnds (v := true) _).round.trans hcomes.round, ?_, ?_, ?_, ?_, ?_⟩
  · rw [State.is, State.wordsKept_get hends F.RING_STATUS_transit_active _ (by decide), boundaryComes_eq,
      State.wordsKept_get hwaits F.RING_STATUS_transit_active _ (by decide)]
    exact active_transitRound s.clearOut
  · intro hne
    rw [leafSet_of_wordsKept hends (by decide), boundaryComes_eq, leafSet_of_wordsKept hwaits (by decide)]
    exact leaf_transitRound hne
  · intro hleft
    rw [State.phase, State.wordsKept_get hends F.RING_START_STATUS_phase _ (by decide)]
    exact phase_withdrawnRound ((congrArg RingState.withdrawnLeft (ring_boundaryTransit s)).trans hleft)
  · rw [hring, boundaryComes_eq, withdrawnLeft_withdrawnRound, ring_boundaryTransit]
  · intro k hk
    rw [boundaryEnds_of_apart hintC, frozen_applyFreeze _ hk, State.wordsKept_rd (wordsKept_freezesFrom _) _ _ (endsAddr_freeze hk),
      State.wordsKept_rd (wordsKept_boundaryComes s) _ _ (comesAddr_freeze hk)]

end Sys2Proof.Machine

end

section

/-! A candidate that has won starts (R113, R122): the round is that of its time core. -/

namespace Sys2Proof.Machine

-- Many short rules with decided side conditions: checked one after another, they hold one thread.
set_option Elab.async false

variable {s t : State}

/-- The time of domain A and the round length, by which `State.roundByTime` goes. -/
def State.clock (s : State) : TimeState × Nat := (s.time, s.get F.RING_CTRL_round_len)

theorem roundByTime_of_clock (h : t.clock = s.clock) : t.roundByTime = s.roundByTime := by
  simp only [State.clock, Prod.mk.injEq] at h
  obtain ⟨htime, hlen⟩ := h
  unfold State.roundByTime State.now16 State.now State.dom State.round16 State.roundNs
  rw [htime, hlen]

theorem clock_of_regsOnly {f : Nat → Bool} (h : s.regsOnly t f) (hf : f (Reg.RING_CTRL.addr []) = false) : t.clock = s.clock := by
  unfold State.clock
  rw [State.regsOnly_get h F.RING_CTRL_round_len _ hf, h.1]

theorem clock_set (s : State) (f : Fld) (v : Nat) (h : Reg.RING_CTRL.addr [] ≠ f.reg.addr []) : (s.set f [] v).clock = s.clock := by
  unfold State.clock
  rw [State.time_set, State.get_set_ne _ f F.RING_CTRL_round_len _ _ _ h]

theorem clock_portsUnseen (s : State) : s.portsUnseen.clock = s.clock := by
  have h (xs : List Nat) (t : State) : (xs.foldl (fun s h => s.setAnn h { s.ann h with fresh := false }) t).time = t.time := by
    induction xs generalizing t with
    | nil => rfl
    | cons x xs ih => exact ih _
  unfold State.clock
  rw [State.get_of_regs (State.regs_portsUnseen s)]
  exact congrArg (·, _) (h _ s)

theorem clock_setMode (s : State) (m : Nat) : (s.setMode m).clock = s.clock := by
  by_cases h : s.get F.RING_STATUS_mode = m
  · rw [State.setMode, if_pos h]
  · have hshow : (s.showMode m).clock = s.clock := (clock_set _ _ _ (by decide)).trans (clock_set _ _ _ (by decide))
    rw [setMode_of_ne h, clock_of_regsOnly (State.leaf_regsOnly _ _ _ _ _) (by decide)]
    exact State.when_of (P := fun t => t.clock = s.clock) hshow ((clock_portsUnseen _).trans hshow)

theorem clock_setHead (s : State) (d : Side) (b : Bool) : (s.setHead d b).clock = s.clock := by
  cases d <;> exact clock_set _ _ _ (by decide)

/-! The state of the start. -/

/-- Line mode, with this hub head of both directions. -/
def State.headsBoth (s : State) : State := ((s.setMode 2).setHead .east true).setHead .west true

/-- The ring facts and the heartbeat of a master that starts. -/
def State.masterFacts (s : State) : State :=
  { s with ring := { s.ring with starting := false, roundsIntegrated := 0, silentLeft := 0, bitmap := 2 ^ s.hub,
                                 versionWord := 3 * 2 ^ 60 },
           twin := { s.twin with heartbeatSent := false } }

/-- A master that starts, with the highest minor version it speaks. -/
def State.startsMinor (s : State) : State := s.headsBoth.masterFacts.set F.RING_START_STATUS_ring_minor [] 3

theorem startMaster_eq (s : State) :
    s.startMaster = (s.startsMinor.setRound (s.headsBoth.masterFacts.roundByTime - 1)).seenRound.showRing := rfl

theorem regs_masterFacts (s : State) : s.masterFacts.regs = s.regs := rfl

theorem roundFacts_iff {b : Bool} {w : Nat} {r : Option Nat} :
    s.roundFacts true = (b, w, r) ↔ s.ring.starting = b ∧ s.ring.versionWord = w ∧ s.time.stepRound = r := by
  simp [State.roundFacts]

theorem roundFacts_masterFacts (s : State) : s.masterFacts.roundFacts true = (false, 3 * 2 ^ 60, s.time.stepRound) :=
  roundFacts_iff.mpr ⟨rfl, rfl, rfl⟩

theorem clock_masterFacts (s : State) : s.masterFacts.clock = s.clock :=
  congrArg (s.time, ·) (State.get_of_regs (regs_masterFacts s) _ _)

theorem mode_setHead (s : State) (d : Side) (b : Bool) : (s.setHead d b).get F.RING_STATUS_mode = s.get F.RING_STATUS_mode := by
  cases d <;> exact State.get_set_field _ _ F.RING_STATUS_mode _ _ rfl (.inl (by decide)) (by decide)

theorem mode_headsBoth (s : State) : s.headsBoth.get F.RING_STATUS_mode = 2 := by
  rw [State.headsBoth, mode_setHead, mode_setHead, mode_setMode _ (by decide)]

theorem keepsRound_headsBoth (s : State) : s.KeepsRound true s.headsBoth := .setHead <| .setHead <| .setMode (.refl s)

theorem clock_startFacts (s : State) : s.headsBoth.masterFacts.clock = s.clock := by
  rw [clock_masterFacts, State.headsBoth, clock_setHead, clock_setHead, clock_setMode]

theorem roundFacts_set (s : State) (f : Fld) (ix : List Nat) (x : Nat) (v : Bool) : (s.set f ix x).roundFacts v = s.roundFacts v := rfl

theorem roundFacts_startsMinor (s : State) : s.startsMinor.roundFacts true = (false, 3 * 2 ^ 60, s.time.stepRound) := by
  rw [State.startsMinor, roundFacts_set, roundFacts_masterFacts, (keepsRound_headsBoth s).stepRound]

theorem minor_startsMinor (s : State) : s.startsMinor.get F.RING_START_STATUS_ring_minor = 3 := State.get_set _ _ _ _ (by decide) (by decide)

theorem mode_startsMinor (s : State) : s.startsMinor.get F.RING_STATUS_mode = 2 := by
  rw [State.startsMinor, State.get_set_ne _ F.RING_START_STATUS_ring_minor F.RING_STATUS_mode _ _ _ (by decide),
    State.get_of_regs (regs_masterFacts _), mode_headsBoth]

theorem mode_setRound (s : State) (r : Nat) : (s.setRound r).get F.RING_STATUS_mode = s.get F.RING_STATUS_mode :=
  (State.get_wr_ne _ F.RING_STATUS_mode _ _ _ _ (by decide)).trans (State.get_wr_ne _ F.RING_STATUS_mode _ _ _ _ (by decide))

theorem mode_showRing (s : State) : s.showRing.get F.RING_STATUS_mode = s.get F.RING_STATUS_mode :=
  State.get_set_ne _ F.TIME_DOM_STATUS_ring F.RING_STATUS_mode _ _ _ (by decide)

theorem regs_seenRound (s : State) : s.seenRound.regs = s.regs := rfl

theorem integrated_startMaster (s : State) : s.startMaster.integrated = true := by
  have hmode : s.startMaster.get F.RING_STATUS_mode = 2 := by
    rw [startMaster_eq, mode_showRing, State.get_of_regs (regs_seenRound _), mode_setRound, mode_startsMinor]
  rw [State.integrated, hmode]
  rfl

/-- What follows the round of the start. -/
theorem keepsRound_startEnds (s : State) : s.KeepsRound true s.seenRound.showRing := .showRing <| .seenRound (.refl s)

theorem round_startMaster (s : State) : s.startMaster.round = (s.roundByTime - 1) % 2 ^ 64 := by
  rw [startMaster_eq, (keepsRound_startEnds _).round, round_setRound, roundByTime_of_clock (clock_startFacts s)]

theorem minor_startMaster (s : State) : s.startMaster.get F.RING_START_STATUS_ring_minor = 3 := by
  rw [startMaster_eq, (keepsRound_startEnds _).minor, minor_setRound, minor_startsMinor]

theorem roundFacts_startMaster (s : State) : s.startMaster.roundFacts true = (false, 3 * 2 ^ 60, s.time.stepRound) := by
  rw [startMaster_eq, (keepsRound_startEnds _).facts, roundFacts_setRound, roundFacts_startsMinor]

theorem clock_setPhase (s : State) (v : Nat) : (s.setPhase v).clock = s.clock := clock_set _ _ _ (by decide)

theorem clock_waitsOn (s : State) (n : Nat) : (s.waitsOn n).clock = s.clock := rfl

theorem clock_withdrawnRound (s : State) : s.withdrawnRound.clock = s.clock := by
  cases h : s.ring.withdrawnLeft with
  | zero => rw [withdrawnRound_zero h]
  | succ n =>
    rw [withdrawnRound_succ h]
    exact State.when_of (P := fun t => t.clock = s.clock) (clock_waitsOn s n) ((clock_setPhase _ _).trans (clock_waitsOn s n))

theorem clock_boundaryComes (s : State) : s.boundaryComes.clock = s.clock := by
  have hclear : s.clearOut.clock = s.clock := rfl
  have htransit : s.boundaryTransit.clock = s.clock := (clock_of_regsOnly (regsOnly_boundaryTransit s) (by decide)).trans hclear
  rw [boundaryComes_eq, clock_withdrawnRound, htransit]

/-- The boundary at a candidate that has won. -/
theorem exec_roundBoundary_start (hup : s.down .ring = false) (hstart : s.ring.starting = true) (hstep : s.time.stepRound = none) :
    ∃ u, exec .roundBoundary s = .next u ∧ u.ring.starting = false ∧ u.get F.RING_START_STATUS_ring_minor = 3 ∧
      (0 < s.roundByTime → u.round = s.roundByTime % 2 ^ 64) := by
  have hcomes := keepsRound_boundaryComes (v := true) s
  have hstarts : s.boundaryComes.startsRound = s.boundaryComes.startMaster := by
    rw [State.startsRound, hcomes.starting, hstart]
    rfl
  have hbegins : s.boundaryComes.startMaster.beginsRound = s.boundaryComes.startMaster.roundBegins := by
    rw [State.beginsRound, integrated_startMaster]
    rfl
  obtain ⟨hstarting, hversion, hnone⟩ := roundFacts_iff.mp (roundFacts_startMaster s.boundaryComes)
  replace hnone := hnone.trans (hcomes.stepRound.trans hstep)
  have hends := keepsRound_boundaryEnds (v := true) s.boundaryComes.startMaster.roundBegins
  obtain ⟨hkept, hminor⟩ := start_roundBegins hnone (by rw [hversion]; decide)
  refine ⟨_, exec_roundBoundary hup, ?_⟩
  rw [hstarts, hbegins]
  refine ⟨hends.starting.trans (hkept.trans hstarting), hends.minor.trans (hminor.trans (minor_startMaster _)), fun hpos => ?_⟩
  rw [hends.round, round_roundBegins hnone, round_startMaster, roundByTime_of_clock (clock_boundaryComes s)]
  omega

/-- Settles O26: by the frame `State.KeepsRound` of the parts of a boundary (R60), each hub goes on from the round it counted or
started with. -/
theorem ringRoundBoundary : Obligations.RingRoundBoundary := by
  intro s hup
  exact ⟨exec_roundBoundary_integrated hup, exec_roundBoundary_apart hup, fun _ => exec_roundBoundary_start hup⟩

end Sys2Proof.Machine

end

section

/-! What the arrival of a slot leaves alone (R62 to R92): sending, the end of a command slot, and the copies of its shot entries. -/

namespace Sys2Proof.Machine

-- Many short rules with decided side conditions: checked one after another, they hold one thread.
set_option Elab.async false

variable {s₀ s t : State} {d : Side}

/-! Sending. -/

theorem State.sendBlock_eq (s : State) (p : Side) (lane : Nat) (control : Bool) (b : Block) :
    ∃ scram line, s.sendBlock p lane control b = { s with ring := { s.ring with scram := scram }, line := line } := ⟨_, _, rfl⟩

/-- Blocks that leave change the lanes and nothing else. -/
theorem State.sendBlocks_eq (s : State) (p : Side) (k : Nat) (bs : List Block) :
    ∃ scram line, s.sendBlocks p k bs = { s with ring := { s.ring with scram := scram }, line := line } := by
  induction bs generalizing s k with
  | nil => exact ⟨_, _, rfl⟩
  | cons b bs ih =>
    obtain ⟨scram, line, hone⟩ := s.sendBlock_eq p (k % 2) (k == 99) b
    obtain ⟨_, _, hrest⟩ := ih (s.sendBlock p (k % 2) (k == 99) b) (k + 1)
    rw [State.sendBlocks, hrest, hone]
    exact ⟨_, _, rfl⟩

/-- The own entry that leaves changes the shot state alone. -/
theorem State.ownEntrySent_eq (s : State) (d : Side) : ∃ shot, s.ownEntrySent d = { s with shot := shot } := by
  cases d <;> exact ⟨_, rfl⟩

/-- A slot that has left: an output, the lanes, the shot state, and the position last sent (R96, R155). -/
theorem State.sendSlot_eq (s : State) (d : Side) (bs : List Block) : ∃ scram line shot slot round, s.sendSlot d bs =
    ({ s with ring := { s.ring with scram := scram }, line := line, shot := shot, out := s.out ++ [.slot d bs] } : State).setRdir d
      { s.rdir d with lastSlot := slot, lastRound := round } := by
  obtain ⟨shot, hshot⟩ := s.ownEntrySent_eq d
  obtain ⟨scram, line, hsent⟩ := ((s.ownEntrySent d).emit (.slot d bs)).sendBlocks_eq d 0 bs
  unfold State.sendSlot
  dsimp only
  rw [hsent, hshot]
  cases d <;> exact ⟨_, _, _, _, _, rfl⟩

theorem State.out_sendSlot (s : State) (d : Side) (bs : List Block) : (s.sendSlot d bs).out = s.out ++ [.slot d bs] := by
  obtain ⟨_, _, _, _, _, h⟩ := s.sendSlot_eq d bs
  rw [h, State.out_setRdir]

/-- What a slot that leaves keeps: the register words, the hopper, and of each direction what its arrivals and its runs turn on. -/
structure State.KeepsLine (s t : State) : Prop where
  regs : t.regs = s.regs
  hop : t.hop = s.hop
  received : ∀ d, (t.rdir d).lastReceived = (s.rdir d).lastReceived
  run : ∀ d, (t.rdir d).runLeft = (s.rdir d).runLeft

namespace State.KeepsLine

theorem refl (s : State) : s.KeepsLine s := ⟨rfl, rfl, fun _ => rfl, fun _ => rfl⟩

theorem trans {u : State} (h : s.KeepsLine t) (k : t.KeepsLine u) : s.KeepsLine u :=
  ⟨k.regs.trans h.regs, k.hop.trans h.hop, fun d => (k.received d).trans (h.received d), fun d => (k.run d).trans (h.run d)⟩

theorem setRdir {x : RingDir} (hs : s₀.KeepsLine s) (hreceived : x.lastReceived = (s.rdir d).lastReceived)
    (hrun : x.runLeft = (s.rdir d).runLeft) : s₀.KeepsLine (s.setRdir d x) := by
  have hother (e : Side) (h : e ≠ d) : (s.setRdir d x).rdir e = s.rdir e := by
    cases d with
    | east => cases e with | east => exact absurd rfl h | west => rfl
    | west => cases e with | east => rfl | west => exact absurd rfl h
  refine hs.trans ⟨s.regs_setRdir d x, s.hop_setRdir d x, fun e => ?_, fun e => ?_⟩
  all_goals
    obtain rfl | hne := eq_or_ne e d
    · rw [State.rdir_setRdir]
      assumption
    · rw [hother e hne]

theorem sendSlot {bs : List Block} (hs : s₀.KeepsLine s) : s₀.KeepsLine (s.sendSlot d bs) := by
  obtain ⟨_, _, _, _, _, h⟩ := s.sendSlot_eq d bs
  rw [h]
  exact .setRdir (hs.trans ⟨rfl, rfl, fun e => by cases e <;> rfl, fun e => by cases e <;> rfl⟩) (by cases d <;> rfl) (by cases d <;> rfl)

theorem dropFill {n : Nat} (hs : s₀.KeepsLine s) : s₀.KeepsLine (s.dropFill d n) := .setRdir hs rfl rfl

theorem noteOriginated {n : Nat} (hs : s₀.KeepsLine s) : s₀.KeepsLine (s.noteOriginated n) := by
  unfold State.noteOriginated
  split
  · exact hs.trans ⟨rfl, rfl, fun e => by cases e <;> rfl, fun e => by cases e <;> rfl⟩
  · exact hs

theorem sendOwn {n : Nat} {c : Option SlotFill} {hdr : Header} {shots : List Block} {trust : Nat} (hs : s₀.KeepsLine s) :
    s₀.KeepsLine (s.sendOwn d n c hdr shots trust) :=
  .noteOriginated <| State.when_of (sendSlot hs) (dropFill (sendSlot hs))

theorem sendRelay {n : Nat} {r : Relay} (hs : s₀.KeepsLine s) : s₀.KeepsLine (s.sendRelay d n r) := .sendSlot <| .setRdir hs rfl rfl

theorem generateSlot {n : Nat} {blank : Bool} {later : Nat} (hs : s₀.KeepsLine s) : s₀.KeepsLine (s.generateSlot d n blank later) := by
  unfold State.generateSlot
  dsimp only
  split
  · split
    · exact .sendRelay hs
    · exact .sendOwn hs
  · exact hs

end State.KeepsLine

/-! After the sending. -/

namespace State.KeepsFlow

/-- A direction's state, with the position it received last and whether the hub generates it in place. -/
theorem setRdir {x : RingDir} (hs : s₀.KeepsFlow s) (hreceived : x.lastReceived = (s.rdir d).lastReceived := by rfl)
    (hgenerating : x.generating = (s.rdir d).generating := by rfl) : s₀.KeepsFlow (s.setRdir d x) := by
  refine .framed hs (s.regs_setRdir d x) ?_
  cases d with
  | east => exact congrArg₂ (fun a b => ((a, b), (s.ring.wg.lastReceived, s.ring.wg.generating), s.ring.starting, s.ring.versionWord,
      s.time.stepRound, s.out)) hreceived hgenerating
  | west => exact congrArg₂ (fun a b => ((s.ring.eg.lastReceived, s.ring.eg.generating), (a, b), s.ring.starting, s.ring.versionWord,
      s.time.stepRound, s.out)) hreceived hgenerating

theorem setShot {x : ShotState} (hs : s₀.KeepsFlow s) : s₀.KeepsFlow { s with shot := x } := .frame hs

theorem setSeen {x : Nat} (hs : s₀.KeepsFlow s) : s₀.KeepsFlow { s with ring := { s.ring with currentSeen := x } } := .framed hs

theorem imageRefresh {h : Nat} (hs : s₀.KeepsFlow s) : s₀.KeepsFlow (s.imageRefresh h) := by
  unfold State.imageRefresh
  split
  · exact hs
  · split
    · exact .setB <| .setB <| .set hs
    · exact .ite hs (.when (.inc <| .setB hs) .setLeaf)

theorem copyArrives {h entry : Nat} (hs : s₀.KeepsFlow s) : s₀.KeepsFlow (s.copyArrives d h entry) :=
  .ite hs (.ite (.imageRefresh <| .setSeen <| .setShot <| .ite (.setB hs) (.setB hs)) (.inc <| .ite (.setB hs) (.setB hs)))

theorem takeEntries {shots : List Block} {trust : Nat} (hs : s₀.KeepsFlow s) : s₀.KeepsFlow (s.takeEntries d shots trust) :=
  .foldl hs fun h => .ite (.copyArrives h) h

/-- A slot without payload teaches no hops (R78). -/
theorem useShots {bs : List Block} (hs : s₀.KeepsFlow s) (hbs : shotOk bs = true → (headerOf (blk bs 0)).payloadValid = false) :
    s₀.KeepsFlow (s.useShots d bs) := by
  unfold State.useShots
  split
  · next hshot =>
    dsimp only
    rw [hbs hshot]
    exact .takeEntries hs
  · exact hs

theorem commandPasses {n round : Nat} (hs : s₀.KeepsFlow s) : s₀.KeepsFlow (s.commandPasses d n round) :=
  .ite (.judgePass <| .setCmdPass <| .ite hs (.setCmdPass <| .judgePass hs)) (.setCmdPass <| .ite hs (.setCmdPass <| .judgePass hs))

theorem slotPasses {n round : Nat} (hs : s₀.KeepsFlow s) : s₀.KeepsFlow (s.slotPasses d n round) := .ite (.commandPasses <| .setRdir hs) hs

theorem keepShots {bs : List Block} {cut : Bool} (hs : s₀.KeepsFlow s) : s₀.KeepsFlow (s.keepShots d bs cut) := .setRdir hs

theorem keepForPad {bs : List Block} {cut : Bool} (hs : s₀.KeepsFlow s) : s₀.KeepsFlow (s.keepForPad d bs cut) := by
  unfold State.keepForPad
  dsimp only
  split
  · exact .setRdir <| .keepShots hs
  · exact .keepShots hs

/-! What is kept, in the words of the statements. -/

theorem errcnt (h : s.KeepsFlow t) (f : Fld) (p : Side) (hf : f.reg = .RING_ERRCNT := by rfl) : t.get f [sideIx p] = s.get f [sideIx p] := by
  obtain ⟨-, -, -, heast, hwest, -⟩ : _ ∧ _ ∧ _ ∧ _ ∧ _ ∧ _ := by
    simpa only [State.flowWords, List.cons.injEq] using h.words
  unfold State.get
  rw [hf]
  cases p with
  | east => exact congrArg (natBits · _ _) heast
  | west => exact congrArg (natBits · _ _) hwest

theorem integrated (h : s.KeepsFlow t) : t.integrated = s.integrated := by
  obtain ⟨-, -, -, -, -, hmode⟩ : _ ∧ _ ∧ _ ∧ _ ∧ _ ∧ _ := by
    simpa only [State.flowWords, List.cons.injEq, and_true] using h.words
  exact State.integrated_of_mode hmode

theorem outs (h : s.KeepsFlow t) : t.out = s.out := congrArg (·.2.2.2.2.2) h.facts

theorem received (h : s.KeepsFlow t) (d : Side) : (t.rdir d).lastReceived = (s.rdir d).lastReceived := by
  cases d with
  | east => exact congrArg (·.1.1) h.facts
  | west => exact congrArg (·.2.1.1) h.facts

end State.KeepsFlow

end Sys2Proof.Machine

end

section

/-! What the hub looks at when a slot passes it (R62, R69, R82): it stays through a header that is valid and through a counted error. -/

namespace Sys2Proof.Machine

-- Many short rules with decided side conditions: checked one after another, they hold one thread.
set_option Elab.async false

variable {s₀ s t u : State} {d : Side} {h : Header}

/-- The words behind what passes: the hub number, the state of the edge, and the ring island's beside RING_STATUS and the counters. -/
def sightAddr (a : Nat) : Bool :=
  a == 0xC || a == 0x40000 || a == 0x100000 || (0x100008 ≤ a && a < 0x100020) || (0x100028 ≤ a && a < 0x300000)

/-- RING_STATUS as it bears on what passes. -/
def State.statusView (s : State) : Nat × Bool × Bool × Bool × Bool :=
  (s.get F.RING_STATUS_master_hub, s.is F.RING_STATUS_transit_active, s.isHead .east, s.isHead .west, s.integrated)

/-- The shot state, and the position each direction received last. -/
def State.sightFacts (s : State) : ShotState × Option Nat × Option Nat := (s.shot, s.ring.eg.lastReceived, s.ring.wg.lastReceived)

/-- From `s` to `t` all of it stays. -/
structure State.SameSight (s t : State) : Prop where
  words : s.wordsKept t fun a => !sightAddr a
  status : t.statusView = s.statusView
  facts : t.sightFacts = s.sightFacts

namespace State.SameSight

theorem trans (h : s.SameSight t) (k : t.SameSight u) : s.SameSight u :=
  ⟨State.wordsKept_trans h.words k.words, k.status.trans h.status, k.facts.trans h.facts⟩

theorem rd (h : s.SameSight t) (r : Reg) (ix : List Nat) (hr : sightAddr (r.addr ix) = true) : t.rd r ix = s.rd r ix :=
  State.wordsKept_rd h.words r ix (by simp [hr])

theorem get (h : s.SameSight t) (f : Fld) (ix : List Nat) (hr : sightAddr (f.reg.addr ix) = true) : t.get f ix = s.get f ix := by
  unfold State.get
  rw [h.rd _ _ hr]

theorem is (h : s.SameSight t) (f : Fld) (ix : List Nat) (hr : sightAddr (f.reg.addr ix) = true) : t.is f ix = s.is f ix := by
  unfold State.is
  rw [h.get _ _ hr]

theorem hub (h : s.SameSight t) : t.hub = s.hub := h.get F.CHIP_HUBNUM_hub_number [] rfl

theorem isMaster (h : s.SameSight t) : t.isMaster = s.isMaster := h.is F.RING_START_STATUS_is_master [] rfl

theorem round (h : s.SameSight t) : t.round = s.round := by
  unfold State.round
  rw [h.rd _ _ rfl, h.rd _ _ rfl]

theorem portUp (h : s.SameSight t) (p : Side) : t.portUp p = s.portUp p := by
  unfold State.portUp State.portState
  rw [h.get _ _ (by cases p <;> rfl)]

theorem isPadding (h : s.SameSight t) (d : Side) : t.isPadding d = s.isPadding d := h.is _ _ (by cases d <;> rfl)

theorem hopTime (h : s.SameSight t) (d : Side) : t.hopTime d = s.hopTime d := by
  unfold State.hopTime State.linkDelay16
  rw [h.get _ _ (by cases d <;> rfl)]

theorem isHead (h : s.SameSight t) (d : Side) : t.isHead d = s.isHead d := by
  cases d with
  | east => exact congrArg (·.2.2.1) h.status
  | west => exact congrArg (·.2.2.2.1) h.status

theorem integrated (h : s.SameSight t) : t.integrated = s.integrated := congrArg (·.2.2.2.2) h.status

theorem transit (h : s.SameSight t) : t.is F.RING_STATUS_transit_active = s.is F.RING_STATUS_transit_active := congrArg (·.2.1) h.status

theorem shot (h : s.SameSight t) : t.shot = s.shot := congrArg (·.1) h.facts

theorem received (h : s.SameSight t) (d : Side) : (t.rdir d).lastReceived = (s.rdir d).lastReceived := by
  cases d with
  | east => exact congrArg (·.2.1) h.facts
  | west => exact congrArg (·.2.2) h.facts

theorem dying (h : s.SameSight t) : t.dying = s.dying := by
  unfold State.dying
  rw [h.get _ _ rfl]

theorem fwLines (h : s.SameSight t) : t.fwLines = s.fwLines := by
  have haddr : ∀ i < 8, sightAddr (F.SHOT_FW_DRIVE_assert.reg.addr [i]) = true := by decide
  have hline : ∀ i ∈ List.range 8, t.get F.SHOT_FW_DRIVE_assert [i] = s.get F.SHOT_FW_DRIVE_assert [i] := fun i hi =>
    h.get _ _ (haddr i (List.mem_range.mp hi))
  unfold State.fwLines
  exact List.foldl_ext _ _ _ fun a i hi => by rw [hline i hi]

theorem ownLines (h : s.SameSight t) : t.ownLines = s.ownLines := by
  unfold State.ownLines State.ownDrive
  rw [h.shot, h.fwLines]

theorem ownEntry (h : s.SameSight t) (d : Side) : t.ownEntry d = s.ownEntry d := by
  unfold State.ownEntry
  rw [h.integrated, h.transit, h.dying, h.shot, h.ownLines]

theorem slotEntry (h : s.SameSight t) (d : Side) {n : Nat} (hn : n < 512) : t.slotEntry d n = s.slotEntry d n := by
  unfold State.slotEntry
  rw [show t.get F.RING_STATUS_master_hub = s.get F.RING_STATUS_master_hub from congrArg (·.1) h.status, h.round,
    h.rd .SLOT_TABLE _ (by cases d <;> simp [sightAddr, Reg.addr, Reg.desc, dimOffset, sideIx] <;> omega)]

theorem ownsSlot (h : s.SameSight t) (d : Side) {n : Nat} (hn : n < 512) : t.ownsSlot d n = s.ownsSlot d n := by
  unfold State.ownsSlot
  rw [h.slotEntry d hn, h.hub]

theorem ownsArrived (k : s.SameSight t) (d : Side) (hn : h.slot < 512) : t.ownsArrived d h = s.ownsArrived d h := by
  unfold State.ownsArrived
  rw [k.integrated, k.isMaster, k.hub, k.ownsSlot d hn]

theorem comeRound (k : s.SameSight t) (h : Header) : t.comeRound h = s.comeRound h := by
  unfold State.comeRound
  rw [k.integrated, k.hub]

theorem isRunSlot (k : s.SameSight t) (d : Side) (h : Header) : t.isRunSlot d h = s.isRunSlot d h := by
  unfold State.isRunSlot
  rw [k.received]

end State.SameSight

/-- Words of the causes alone, and nothing of the rest. -/
theorem State.SameSight.of_causes {f : Nat → Bool} (h : s.regsOnly t f) (hf : ∀ a, f a = true → sightAddr a = false)
    (hstatus : f (Reg.RING_STATUS.addr []) = false) : s.SameSight t := by
  have hword : t.rd .RING_STATUS = s.rd .RING_STATUS := State.regsOnly_rd h _ _ hstatus
  refine ⟨fun a ha => h.2 a (Bool.eq_false_iff.mpr fun hfa => by simp [hf a hfa] at ha), ?_, by rw [State.sightFacts, h.1]; rfl⟩
  unfold State.statusView State.is State.integrated State.get
  rw [State.isHead_of_rd hword, State.isHead_of_rd hword]
  exact congrArg (fun w => (natBits w _ _, natBits w _ _ != 0, s.isHead .east, s.isHead .west, natBits w _ _ != 0)) hword

theorem sightAddr_cause {a : Nat} (h : causeAddr a = true) : sightAddr a = false := by
  simp only [causeAddr, Bool.and_eq_true, decide_eq_true_eq] at h
  simp [sightAddr]
  omega

/-! An error on a port is counted (R66, R89). -/

/-- The words a counted error changes. -/
def errorAddr (a : Nat) : Bool := a == Reg.RING_ERRCNT.addr [0] || a == Reg.RING_ERRCNT.addr [1] || causeAddr a

/-- The three counters and leaves of a received slot. -/
def isErrorCounter (f : Fld) : Prop := f.reg = .RING_ERRCNT ∧ f.lo ≤ f.hi ∧ f.hi < 32 ∧ f.top = 255

theorem leafAssigned_portError (p : Side) {i : Nat} (h : i < 7) : leafAssigned (portLeaf p i) = true := by
  have hall : ∀ i < 7, leafAssigned (portLeaf .east i) = true ∧ leafAssigned (portLeaf .west i) = true := by decide
  cases p with
  | east => exact (hall i h).1
  | west => exact (hall i h).2

theorem regsOnly_portError (s : State) (p : Side) {f : Fld} (hf : f.reg = .RING_ERRCNT) (i : Nat) :
    s.regsOnly (s.portError p f i) errorAddr :=
  State.regsOnly_trans (State.regsOnly_set _ _ _ _ _ (by rw [hf]; cases p <;> rfl))
    (State.regsOnly_mono (State.leaf_regsOnly _ _ _ _ _) fun a ha => by simp [errorAddr, ha])

theorem sameSight_portError (s : State) (p : Side) {f : Fld} (hf : f.reg = .RING_ERRCNT) (i : Nat) : s.SameSight (s.portError p f i) := by
  refine .of_causes (regsOnly_portError s p hf i) (fun a ha => ?_) rfl
  simp only [errorAddr, Bool.or_eq_true, beq_iff_eq] at ha
  obtain (rfl | rfl) | ha := ha
  · rfl
  · rfl
  · exact sightAddr_cause ha

theorem leafSet_portError (s : State) (p : Side) (f : Fld) {i : Nat} (hi : i < 7) : (s.portError p f i).leafSet (portLeaf p i) = true :=
  State.leafSet_leaf _ _ _ _ _ (leafAssigned_portError p hi)

theorem causeAddr_errcnt (p : Side) {f : Fld} (hf : f.reg = .RING_ERRCNT) : causeAddr (f.reg.addr [sideIx p]) = false := by
  rw [hf]
  cases p <;> rfl

theorem count_portError (s : State) (p : Side) {f : Fld} (hf : isErrorCounter f) (i : Nat) :
    (s.portError p f i).get f [sideIx p] = satInc (s.get f [sideIx p]) 255 := by
  obtain ⟨hreg, hle, h32, htop⟩ := hf
  rw [State.portError, State.get_leaf _ _ _ _ _ _ _ (causeAddr_errcnt p hreg), State.get_inc _ _ _ hle h32, htop]

/-- Another counter of the port stays. -/
theorem count_portError_ne (s : State) (p : Side) {f g : Fld} (hf : isErrorCounter f) (hg : g.reg = f.reg) (hbits : f.hi < g.lo ∨ g.hi < f.lo)
    (i : Nat) : (s.portError p f i).get g [sideIx p] = s.get g [sideIx p] := by
  obtain ⟨hreg, -, h32, -⟩ := hf
  rw [State.portError, State.get_leaf _ _ _ _ _ _ _ (causeAddr_errcnt p (hg.trans hreg)), State.inc, State.get_set_field _ _ _ _ _ hg hbits h32]

theorem out_portError (s : State) (p : Side) (f : Fld) (i : Nat) : (s.portError p f i).out = s.out :=
  (State.out_leaf _ _ _ _ _).trans (State.out_set _ _ _ _)

theorem leafSet_portError_of (s : State) (p : Side) {f : Fld} (hf : f.reg = .RING_ERRCNT) (i : Nat) {m : Nat} (hm : m < 896)
    (hset : s.leafSet m = true) : (s.portError p f i).leafSet m = true := by
  have hoff : ∀ k < 28, Reg.CAUSE_LEAF.addr [k] ≠ f.reg.addr [sideIx p] := by
    rw [hf]
    cases p <;> decide
  exact State.leafSet_leaf_of hm ((State.leafSet_wr_ne (hoff _ (by omega))).trans hset)

/-! A valid header (R85, R92, R116). -/

/-- The words a change of the mode touches. -/
def modeAddr (a : Nat) : Bool := a == Reg.RING_STATUS.addr [] || a == Reg.CHIP_STATUS.addr [] || causeAddr a

theorem sightFacts_portsUnseen (s : State) : s.portsUnseen.sightFacts = s.sightFacts := by
  have h (xs : List Nat) (t : State) :
      (xs.foldl (fun s h => s.setAnn h { s.ann h with fresh := false }) t).sightFacts = t.sightFacts := by
    induction xs generalizing t with
    | nil => rfl
    | cons x xs ih => exact ih _
  exact h _ s

theorem sightFacts_set (s : State) (f : Fld) (ix : List Nat) (v : Nat) : (s.set f ix v).sightFacts = s.sightFacts := rfl

theorem sightFacts_showMode (s : State) (m : Nat) : (s.showMode m).sightFacts = s.sightFacts :=
  (sightFacts_set _ _ _ _).trans (sightFacts_set _ _ _ _)

theorem sightFacts_leaf (s : State) (n : Nat) : (s.leaf n).sightFacts = s.sightFacts := by
  rw [State.sightFacts, (s.leaf_regsOnly n 0 0 false).1]
  rfl

theorem sightFacts_setMode (s : State) (m : Nat) : (s.setMode m).sightFacts = s.sightFacts := by
  by_cases h : s.get F.RING_STATUS_mode = m
  · rw [State.setMode, if_pos h]
  · rw [setMode_of_ne h, sightFacts_leaf]
    exact State.when_of (P := fun t => t.sightFacts = s.sightFacts) (sightFacts_showMode s m)
      ((sightFacts_portsUnseen _).trans (sightFacts_showMode s m))

theorem wordsKept_setMode (s : State) (m : Nat) : s.wordsKept (s.setMode m) modeAddr := by
  by_cases h : s.get F.RING_STATUS_mode = m
  · rw [State.setMode, if_pos h]
    exact s.wordsKept_refl _
  · have hshow : s.wordsKept (s.showMode m) modeAddr :=
      State.wordsKept_trans (State.regsOnly_set s F.RING_STATUS_mode [] m modeAddr rfl).2
        (State.regsOnly_set _ F.CHIP_STATUS_ring_integrated [] _ modeAddr rfl).2
    rw [setMode_of_ne h]
    refine State.wordsKept_trans (State.when_of (P := fun t => s.wordsKept t modeAddr) hshow fun a ha => ?_)
      (State.wordsKept_leaf _ _ _ _ _ fun a ha => by simp [modeAddr, ha])
    rw [State.regs_portsUnseen]
    exact hshow a ha

end Sys2Proof.Machine

end

section

/-! A slot that is no position of this hub's own passes it (R62, R69, R82, R86 to R90). -/

namespace Sys2Proof.Machine

-- Many short rules with decided side conditions: checked one after another, they hold one thread.
set_option Elab.async false

variable {s t : State} {d : Side} {h : Header} {blks bs : List Block}

/-! A valid header. -/

/-- The stream is back. -/
def State.headerSeen (s : State) (d : Side) : State :=
  (s.setHello (rxPort d) { s.hello (rxPort d) with headerSeen := true }).setRdir d
    { (s.setHello (rxPort d) { s.hello (rxPort d) with headerSeen := true }).rdir d with generating := false }

theorem goodHeader_eq (s : State) (d : Side) (h : Header) : s.goodHeader d h = (s.headerSeen d).lineEntry h := rfl

theorem regs_headerSeen (s : State) (d : Side) : (s.headerSeen d).regs = s.regs := by cases d <;> rfl

theorem sightFacts_headerSeen (s : State) (d : Side) : (s.headerSeen d).sightFacts = s.sightFacts := by cases d <;> rfl

theorem out_headerSeen (s : State) (d : Side) : (s.headerSeen d).out = s.out := by cases d <;> rfl

/-- Nothing but register words that stay is looked at. -/
theorem State.SameSight.of_regs (h : t.regs = s.regs) (hfacts : t.sightFacts = s.sightFacts) : s.SameSight t := by
  have hword : t.rd .RING_STATUS = s.rd .RING_STATUS := State.rd_of_regs h _ _
  refine ⟨fun a _ => by rw [h], ?_, hfacts⟩
  unfold State.statusView
  rw [State.isHead_of_rd hword, State.isHead_of_rd hword, State.is_of_regs h, State.get_of_regs h,
    State.integrated_of_mode (State.get_of_regs h _ _)]

theorem integrated_setMode_line (s : State) : (s.setMode 2).integrated = true := by
  unfold State.integrated
  rw [mode_setMode s (by decide)]
  rfl

/-- Line mode is one of the modes of an integrated hub. -/
theorem sameSight_setMode_line (h : s.integrated = true) : s.SameSight (s.setMode 2) := by
  refine ⟨fun a ha => wordsKept_setMode s 2 a ?_, ?_, sightFacts_setMode s 2⟩
  · refine Bool.eq_false_iff.mpr fun hmode => ?_
    simp only [modeAddr, Bool.or_eq_true, beq_iff_eq] at hmode
    obtain (rfl | rfl) | hcause := hmode
    · exact absurd ha (by decide)
    · exact absurd ha (by decide)
    · simp [sightAddr_cause hcause] at ha
  · unfold State.statusView
    rw [isHead_setMode, isHead_setMode, integrated_setMode_line, h, get_status_setMode s 2 F.RING_STATUS_master_hub rfl (.inl (by decide)),
      State.is, get_status_setMode s 2 F.RING_STATUS_transit_active rfl (.inr (by decide))]
    rfl

theorem lineEntry_of {P : State → Prop} (hs : P s) (hline : s.get F.RING_STATUS_mode = 1 → P (s.setMode 2)) : P (s.lineEntry h) := by
  unfold State.lineEntry
  dsimp only
  split
  · next hcond =>
    simp only [Bool.and_eq_true, beq_iff_eq] at hcond
    exact hline hcond.2
  · exact hs

theorem sameSight_lineEntry (s : State) (h : Header) : s.SameSight (s.lineEntry h) :=
  lineEntry_of (P := fun t => s.SameSight t) (.of_regs rfl rfl) fun hmode => sameSight_setMode_line (by rw [State.integrated, hmode]; rfl)

theorem sameSight_goodHeader (s : State) (d : Side) (h : Header) : s.SameSight (s.goodHeader d h) :=
  (State.SameSight.of_regs (regs_headerSeen s d) (sightFacts_headerSeen s d)).trans (sameSight_lineEntry _ h)

theorem out_setMode (s : State) (m : Nat) : (s.setMode m).out = s.out := by
  have hunseen (xs : List Nat) (t : State) : (xs.foldl (fun s h => s.setAnn h { s.ann h with fresh := false }) t).out = t.out := by
    induction xs generalizing t with
    | nil => rfl
    | cons x xs ih => exact ih _
  by_cases h : s.get F.RING_STATUS_mode = m
  · rw [State.setMode, if_pos h]
  · have hshow : (s.showMode m).out = s.out := (State.out_set _ _ _ _).trans (State.out_set _ _ _ _)
    rw [setMode_of_ne h, State.out_leaf]
    exact State.when_of (P := fun t => t.out = s.out) hshow ((hunseen _ _).trans hshow)

theorem out_goodHeader (s : State) (d : Side) (h : Header) : (s.goodHeader d h).out = s.out := by
  rw [goodHeader_eq]
  exact lineEntry_of (P := fun t => t.out = s.out) (out_headerSeen s d) fun _ => (out_setMode _ _).trans (out_headerSeen s d)

/-- The counters of the ports stay at a valid header. -/
theorem errcnt_goodHeader (s : State) (d : Side) (h : Header) (p : Side) {f : Fld} (hf : f.reg = .RING_ERRCNT) :
    (s.goodHeader d h).get f [sideIx p] = s.get f [sideIx p] := by
  have hseen : (s.headerSeen d).get f [sideIx p] = s.get f [sideIx p] := State.get_of_regs (regs_headerSeen s d) _ _
  rw [goodHeader_eq]
  exact lineEntry_of (P := fun t => t.get f [sideIx p] = s.get f [sideIx p]) hseen fun _ =>
    (State.wordsKept_get (wordsKept_setMode _ 2) f _ (by rw [hf]; cases p <;> rfl)).trans hseen

/-! Forwarding. -/

/-- A slot passes the hub: its port takes it, the hub neither pads nor is head of the line, and the position is no turn of its own. -/
structure State.PassesOn (s : State) (d : Side) (h : Header) : Prop where
  pads : s.isMaster = true → s.isPadding d = false
  up : s.portUp d = true
  head : s.isHead d = false
  owns : s.ownsArrived d h = false
  round : s.comeRound h = false

theorem State.PassesOn.of_sight (k : s.PassesOn d h) (hsight : s.SameSight t) (hn : h.slot < 512) : t.PassesOn d h where
  pads := by rw [hsight.isMaster, hsight.isPadding]; exact k.pads
  up := (hsight.portUp d).trans k.up
  head := (hsight.isHead d).trans k.head
  owns := (hsight.ownsArrived d hn).trans k.owns
  round := (hsight.comeRound h).trans k.round

/-- The slot as it leaves again: the own entry and block 97 renewed, the rest as it came (R69, R87 to R90). -/
def State.passedSlot (s : State) (d : Side) (bs : List Block) (cut missing : Bool) : List Block :=
  slotOf (blk bs 0) (setEntry (slotShots bs) s.hub (s.ownEntry d)) (slotPayload bs)
    (renewed97 (blk bs 97) (s.hopTime d) (if cut then 1 else trustOut bs) missing) (trailerSeq bs)
    (if cut then 0xFFFFFFFF else trailerCrc bs ^^^ slotCrc bs) cut

theorem passedSlot_of_sight (k : s.SameSight t) (d : Side) (bs : List Block) (cut missing : Bool) :
    t.passedSlot d bs cut missing = s.passedSlot d bs cut missing := by
  unfold State.passedSlot
  rw [k.hub, k.ownEntry, k.hopTime]

theorem forwardSlot_eq (k : s.PassesOn d (headerOf (blk bs 0))) (cut : Bool) (sent : Nat) (missing : Bool) :
    s.forwardSlot d bs cut sent missing = s.sendSlot d (s.passedSlot d bs cut missing) := by
  have hpads : (s.isMaster && s.isPadding d) = false := by
    cases hm : s.isMaster with
    | false => rfl
    | true => exact k.pads hm
  unfold State.forwardSlot
  simp only [hpads, k.up, k.head, k.owns, k.round]
  rfl

/-- A slot that passes leaves the register words as they are. -/
theorem forwardSlot_passes (k : s.PassesOn d (headerOf (blk bs 0))) (cut : Bool) (sent : Nat) (missing : Bool) :
    ∃ c, s.forwardSlot d bs cut sent missing = c ∧ c.regs = s.regs ∧ c.out = s.out ++ [.slot d (s.passedSlot d bs cut missing)] :=
  ⟨_, forwardSlot_eq k cut sent missing, (State.KeepsLine.sendSlot (.refl s)).regs, State.out_sendSlot _ _ _⟩

theorem slot_headerOf_lt (w : Nat) : (headerOf w).slot < 512 := natBits_lt w 63 55

/-! The hub's record of what came (R97). -/

/-- The position a direction received last. -/
def State.receives (s : State) (d : Side) (n : Nat) : State := s.setRdir d { s.rdir d with lastReceived := some n }

theorem received_receives (s : State) (d : Side) (n : Nat) : ((s.receives d n).rdir d).lastReceived = some n := by
  rw [State.receives, State.rdir_setRdir]

theorem regs_receives (s : State) (d : Side) (n : Nat) : (s.receives d n).regs = s.regs := State.regs_setRdir _ _ _

theorem out_receives (s : State) (d : Side) (n : Nat) : (s.receives d n).out = s.out := State.out_setRdir _ _ _

/-! A cut or poisoned slot (R89, R90). -/

theorem cutArrives_eq (s : State) (d : Side) (bs : List Block) (sent : Nat) (missing : Bool) : s.cutArrives d bs sent missing =
    ((((s.portError (rxPort d) F.RING_ERRCNT_cut 6).forwardSlot d bs true sent missing).keepForPad d (poisonedSlot bs missing) true).receives d
      (headerOf (blk bs 0)).slot).slotPasses d (headerOf (blk bs 0)).slot (headerOf (blk bs 0)).round := rfl

/-- The passing of a cut slot counts its error and its position, and it leaves poisoned. -/
theorem cutArrives_passes (k : s.PassesOn d (headerOf (blk bs 0))) (sent : Nat) (missing : Bool) :
    (s.cutArrives d bs sent missing).leafSet (portLeaf (rxPort d) 6) = true ∧
      (s.cutArrives d bs sent missing).get F.RING_ERRCNT_cut [sideIx (rxPort d)] = satInc (s.get F.RING_ERRCNT_cut [sideIx (rxPort d)]) 255 ∧
      ((s.cutArrives d bs sent missing).rdir d).lastReceived = some (headerOf (blk bs 0)).slot ∧
      (s.cutArrives d bs sent missing).integrated = s.integrated ∧
      (s.cutArrives d bs sent missing).out = s.out ++ [.slot d (s.passedSlot d bs true missing)] := by
  have hcounter : isErrorCounter F.RING_ERRCNT_cut := ⟨rfl, by decide, by decide, rfl⟩
  have h6 : portLeaf (rxPort d) 6 < 896 := by cases d <;> decide
  have hsight := sameSight_portError s (rxPort d) (f := F.RING_ERRCNT_cut) rfl 6
  have hleaf := leafSet_portError s (rxPort d) F.RING_ERRCNT_cut (i := 6) (by decide)
  obtain ⟨c, hc, hregs, hout⟩ := forwardSlot_passes (k.of_sight hsight (slot_headerOf_lt _)) true sent missing
  have hpad := State.KeepsFlow.keepForPad (d := d) (bs := poisonedSlot bs missing) (cut := true) (.refl c)
  have hreceives := regs_receives (c.keepForPad d (poisonedSlot bs missing) true) d (headerOf (blk bs 0)).slot
  have hflow := State.KeepsFlow.slotPasses (d := d) (n := (headerOf (blk bs 0)).slot) (round := (headerOf (blk bs 0)).round)
    (.refl ((c.keepForPad d (poisonedSlot bs missing) true).receives d (headerOf (blk bs 0)).slot))
  rw [cutArrives_eq, hc]
  refine ⟨hflow.leaf _ h6 ((State.leafSet_of_regs hreceives _).trans (hpad.leaf _ h6 ((State.leafSet_of_regs hregs _).trans hleaf))), ?_,
    (hflow.received d).trans (received_receives _ d _), ?_, ?_⟩
  · rw [hflow.errcnt F.RING_ERRCNT_cut, State.get_of_regs hreceives, hpad.errcnt F.RING_ERRCNT_cut, State.get_of_regs hregs,
      count_portError s (rxPort d) hcounter]
  · rw [hflow.integrated, State.integrated_of_mode (State.get_of_regs hreceives _ _), hpad.integrated,
      State.integrated_of_mode (State.get_of_regs hregs _ _), hsight.integrated]
  · rw [hflow.outs, out_receives, hpad.outs, hout, out_portError, passedSlot_of_sight hsight]

/-! A whole slot (R87, R88). -/

/-- Wrong checks are counted. -/
def State.countsChecks (s : State) (p : Side) (bs : List Block) : State :=
  (s.when (!crcOk bs) fun s => s.portError p F.RING_ERRCNT_crc_bad 4).when (!shotOk bs) fun s => s.portError p F.RING_ERRCNT_shot_bad 5

theorem wholeArrives_eq (s : State) (d : Side) (bs : List Block) : s.wholeArrives d bs =
    (((((((s.countsChecks (rxPort d) bs).forwardSlot d bs false).receives d (headerOf (blk bs 0)).slot).keepForPad d bs false).useShots d bs).when
      (crcOk bs && (headerOf (blk bs 0)).payloadValid) fun s => s.takePayload d bs).slotPasses d (headerOf (blk bs 0)).slot
        (headerOf (blk bs 0)).round).checkHeldAll := rfl

theorem sameSight_countsChecks (s : State) (p : Side) (bs : List Block) : s.SameSight (s.countsChecks p bs) := by
  have hcrc : s.SameSight (s.when (!crcOk bs) fun s => s.portError p F.RING_ERRCNT_crc_bad 4) :=
    State.when_of (P := fun t => s.SameSight t) (.of_regs rfl rfl) (sameSight_portError s p rfl 4)
  exact hcrc.trans (State.when_of (P := fun t => State.SameSight _ t) (.of_regs rfl rfl) (sameSight_portError _ p rfl 5))

theorem out_countsChecks (s : State) (p : Side) (bs : List Block) : (s.countsChecks p bs).out = s.out := by
  have hcrc : (s.when (!crcOk bs) fun s => s.portError p F.RING_ERRCNT_crc_bad 4).out = s.out :=
    State.when_of (P := fun t => t.out = s.out) rfl (out_portError s p _ 4)
  exact State.when_of (P := fun t => t.out = s.out) hcrc ((out_portError _ p _ 5).trans hcrc)

/-- A slot whose payload is not taken passes: the errors counted before stay counted, and it leaves renewed. -/
theorem wholeArrives_passes (k : s.PassesOn d (headerOf (blk bs 0))) (htake : (crcOk bs && (headerOf (blk bs 0)).payloadValid) = false)
    (hhops : shotOk bs = true → (headerOf (blk bs 0)).payloadValid = false) :
    ∃ w : State, w.regs = (s.countsChecks (rxPort d) bs).regs ∧ w.out = s.out ++ [.slot d (s.passedSlot d bs false false)] ∧
      (w.rdir d).lastReceived = some (headerOf (blk bs 0)).slot ∧ w.KeepsFlow (s.wholeArrives d bs) := by
  have hsight := sameSight_countsChecks s (rxPort d) bs
  obtain ⟨c, hc, hregs, hout⟩ := forwardSlot_passes (k.of_sight hsight (slot_headerOf_lt _)) false 17 false
  refine ⟨c.receives d (headerOf (blk bs 0)).slot, (regs_receives _ _ _).trans hregs, ?_, received_receives _ _ _, ?_⟩
  · rw [out_receives, hout, out_countsChecks, passedSlot_of_sight hsight]
  · rw [wholeArrives_eq, hc, htake]
    exact .checkHeldAll <| .slotPasses <| .useShots (.keepForPad (.refl _)) hhops

/-- Both checks are wrong, and are counted. -/
theorem countsChecks_wrong (s : State) (p : Side) {bs : List Block} (hcrc : crcOk bs = false) (hshot : shotOk bs = false) :
    (s.countsChecks p bs).leafSet (portLeaf p 4) = true ∧ (s.countsChecks p bs).leafSet (portLeaf p 5) = true ∧
      (s.countsChecks p bs).get F.RING_ERRCNT_crc_bad [sideIx p] = satInc (s.get F.RING_ERRCNT_crc_bad [sideIx p]) 255 ∧
      (s.countsChecks p bs).get F.RING_ERRCNT_shot_bad [sideIx p] = satInc (s.get F.RING_ERRCNT_shot_bad [sideIx p]) 255 := by
  have hcrcCounter : isErrorCounter F.RING_ERRCNT_crc_bad := ⟨rfl, by decide, by decide, rfl⟩
  have hshotCounter : isErrorCounter F.RING_ERRCNT_shot_bad := ⟨rfl, by decide, by decide, rfl⟩
  have h4 : portLeaf p 4 < 896 := by cases p <;> decide
  have heq : s.countsChecks p bs = (s.portError p F.RING_ERRCNT_crc_bad 4).portError p F.RING_ERRCNT_shot_bad 5 := by
    rw [State.countsChecks, hcrc, hshot]
    rfl
  rw [heq]
  refine ⟨leafSet_portError_of _ p rfl 5 h4 (leafSet_portError s p _ (by decide)), leafSet_portError _ p _ (by decide), ?_, ?_⟩
  · rw [count_portError_ne _ p hshotCounter (g := F.RING_ERRCNT_crc_bad) rfl (.inl (by decide)), count_portError s p hcrcCounter]
  · rw [count_portError _ p hshotCounter, count_portError_ne s p hcrcCounter (g := F.RING_ERRCNT_shot_bad) rfl (.inr (by decide))]

end Sys2Proof.Machine

end

section

/-! SLOT_ARRIVAL and SLOT_CUT (R62 to R92). -/

namespace Sys2Proof.Machine

variable {s : State} {d : Side} {blks : List Block}

/-! A header that is not valid (R66, R86). -/

/-- The position is generated here, where this hub does not generate the direction already (R86). -/
def State.standsIn (s : State) (d : Side) (n : Nat) : State :=
  if s.integrated && !s.isHead d && !(s.rdir d).generating && !(s.isMaster && s.isPadding d) then s.generateSlot d n true transitTime else s

theorem badHeader_eq (s : State) (d : Side) (bs : List Block) (cut : Bool) : s.badHeader d bs cut =
    ((((s.portError (rxPort d) F.RING_ERRCNT_hdr_bad 3).keepShots d bs cut).receives d (s.nextPosition d)).standsIn d (s.nextPosition d)).slotPasses d
      (s.nextPosition d) (((((s.portError (rxPort d) F.RING_ERRCNT_hdr_bad 3).keepShots d bs cut).receives d (s.nextPosition d)).standsIn d
        (s.nextPosition d)).round % 128) := rfl

theorem keepsLine_standsIn (s : State) (d : Side) (n : Nat) : s.KeepsLine (s.standsIn d n) := by
  unfold State.standsIn
  split
  · exact .generateSlot (.refl s)
  · exact .refl s

/-- A header that is not valid counts its error, and the position after the last stands for received. -/
theorem badHeader_counts (s : State) (d : Side) (bs : List Block) (cut : Bool) :
    (s.badHeader d bs cut).leafSet (portLeaf (rxPort d) 3) = true ∧
      (s.badHeader d bs cut).get F.RING_ERRCNT_hdr_bad [sideIx (rxPort d)] = satInc (s.get F.RING_ERRCNT_hdr_bad [sideIx (rxPort d)]) 255 ∧
      ((s.badHeader d bs cut).rdir d).lastReceived = some (s.nextPosition d) := by
  have hcounter : isErrorCounter F.RING_ERRCNT_hdr_bad := ⟨rfl, by decide, by decide, rfl⟩
  have h3 : portLeaf (rxPort d) 3 < 896 := by cases d <;> decide
  have hleaf := leafSet_portError s (rxPort d) F.RING_ERRCNT_hdr_bad (i := 3) (by decide)
  have hshots := State.KeepsFlow.keepShots (d := d) (bs := bs) (cut := cut) (.refl (s.portError (rxPort d) F.RING_ERRCNT_hdr_bad 3))
  have hline := keepsLine_standsIn (((s.portError (rxPort d) F.RING_ERRCNT_hdr_bad 3).keepShots d bs cut).receives d (s.nextPosition d)) d
    (s.nextPosition d)
  have hregs := hline.regs.trans (regs_receives _ _ _)
  have hflow {n r : Nat} (t : State) : t.KeepsFlow (t.slotPasses d n r) := .slotPasses (.refl t)
  rw [badHeader_eq]
  refine ⟨(hflow _).leaf _ h3 ((State.leafSet_of_regs hregs _).trans (hshots.leaf _ h3 hleaf)), ?_,
    ((hflow _).received d).trans ((hline.received d).trans (received_receives _ _ _))⟩
  rw [(hflow _).errcnt F.RING_ERRCNT_hdr_bad, State.get_of_regs hregs, hshots.errcnt F.RING_ERRCNT_hdr_bad, count_portError s (rxPort d) hcounter]

/-! The commands. -/

theorem exec_slotArrival_portDown (hup : s.down .ring = false) (hport : s.portUp (rxPort d) = false) :
    exec (.slotArrival d blks) s = .next s.clearOut := by
  have hclear : s.clearOut.portUp (rxPort d) = false := hport
  exact (if_neg (by simp [hup])).trans (if_pos (by simp [hclear]))

theorem exec_slotCut_portDown (hup : s.down .ring = false) (hport : s.portUp (rxPort d) = false) :
    exec (.slotCut d blks) s = .next s.clearOut := by
  have hclear : s.clearOut.portUp (rxPort d) = false := hport
  exact (if_neg (by simp [hup])).trans (if_pos (by simp [hclear]))

theorem exec_slotArrival_bad (hup : s.down .ring = false) (hport : s.portUp (rxPort d) = true)
    (hbad : headerValid (blk blks 0) (s.get F.RING_CTRL_round_len) = false) :
    exec (.slotArrival d blks) s = .next (s.clearOut.badHeader d blks false) := by
  have hclear : s.clearOut.portUp (rxPort d) = true := hport
  exact (if_neg (by simp [hup])).trans ((if_neg (by simp [hclear])).trans (if_pos (by simp [hbad])))

/-- The state in which a slot with a valid header is judged. -/
def State.comes (s : State) (d : Side) (blks : List Block) : State := s.clearOut.goodHeader d (headerOf (blk blks 0))

theorem sameSight_comes (s : State) (d : Side) (blks : List Block) : s.SameSight (s.comes d blks) :=
  (State.SameSight.of_regs (s := s) (t := s.clearOut) rfl rfl).trans (sameSight_goodHeader _ _ _)

theorem out_comes (s : State) (d : Side) (blks : List Block) : (s.comes d blks).out = [] := out_goodHeader _ _ _

theorem errcnt_comes (s : State) (d : Side) (blks : List Block) (p : Side) {f : Fld} (hf : f.reg = .RING_ERRCNT) :
    (s.comes d blks).get f [sideIx p] = s.get f [sideIx p] := errcnt_goodHeader _ _ _ _ hf

/-- A slot with a valid header passes: it is of no inserted run either. -/
structure State.Passing (s : State) (d : Side) (blks : List Block) : Prop where
  port : s.portUp (rxPort d) = true
  valid : headerValid (blk blks 0) (s.get F.RING_CTRL_round_len) = true
  run : s.isRunSlot d (headerOf (blk blks 0)) = false
  on : s.PassesOn d (headerOf (blk blks 0))

theorem State.Passing.comes (k : s.Passing d blks) : (s.comes d blks).PassesOn d (headerOf (blk blks 0)) :=
  k.on.of_sight (sameSight_comes s d blks) (slot_headerOf_lt _)

theorem exec_slotArrival_passing (hup : s.down .ring = false) (k : s.Passing d blks) : exec (.slotArrival d blks) s =
    .next (if poisoned blks then (s.comes d blks).cutArrives d blks 17 else (s.comes d blks).wholeArrives d blks) := by
  have hclear : s.clearOut.portUp (rxPort d) = true := k.port
  have hrun : (s.comes d blks).isRunSlot d (headerOf (blk blks 0)) = false := ((sameSight_comes s d blks).isRunSlot d _).trans k.run
  refine (if_neg (by simp [hup])).trans ((if_neg (by simp [hclear])).trans ((if_neg (by simp [k.valid])).trans ((if_neg ?_).trans ?_)))
  · rw [State.comes] at hrun
    simp [hrun]
  · exact (apply_ite Host.Outcome.next _ _ _).symm

/-- A cut slot counts as whole, its unreceived blocks 0 (R89). -/
def wholeSlot (blks : List Block) : List Block := (blks ++ List.replicate 100 (0 : Block)).take 100

theorem blk_wholeSlot (h : blks ≠ []) : blk (wholeSlot blks) 0 = blk blks 0 := by
  cases blks with
  | nil => exact absurd rfl h
  | cons b bs => rfl

/-- After a cut the hub generates the direction, where it is integrated (R89). -/
def State.generates (s : State) (d : Side) : State := s.setRdir d { s.rdir d with generating := s.integrated }

theorem exec_slotCut_passing (hup : s.down .ring = false) (k : s.Passing d blks) (hne : blks ≠ []) : exec (.slotCut d blks) s =
    .next (((s.comes d blks).cutArrives d (wholeSlot blks) (blocksSent blks.length) (blks.length < 98)).generates d) := by
  have hclear : s.clearOut.portUp (rxPort d) = true := k.port
  have hvalid : headerValid (blk blks 0) (s.clearOut.get F.RING_CTRL_round_len) = true := k.valid
  refine (if_neg (by simp [hup])).trans ((if_neg (by simp [hclear, hne])).trans ?_)
  rw [hvalid]
  rfl

end Sys2Proof.Machine

end

section

/-! What a passing slot shows, in the words of O25 (R66, R69, R82, R86 to R92). -/

namespace Sys2Proof.Machine

variable {s : State} {d : Side} {blks bs : List Block}

/-- Block 97 as it leaves again. -/
def State.block97Renewed (s : State) (d : Side) (bs : List Block) (trust : Nat) (missing : Bool) : Nat :=
  if missing then 0 else block97 (correctionOf (blk bs 97) + (s.hopTime d : Int)) (hopsOf (blk bs 97) + 1) trust

/-- The slot as it leaves again, with the trust and the error it leaves with. -/
def State.slotRenewed (s : State) (d : Side) (hdr : Nat) (bs : List Block) (trust : Nat) (missing : Bool) (syndrome : Nat := 0)
    (poison : Bool := false) : List Block :=
  slotOf hdr (setEntry (slotShots bs) s.hub (s.ownEntry d)) (slotPayload bs) (s.block97Renewed d bs trust missing) (trailerSeq bs) syndrome poison

theorem passedSlot_poisoned (s : State) (d : Side) (bs : List Block) (missing : Bool) :
    s.passedSlot d bs true missing = s.slotRenewed d (blk bs 0) bs 1 missing 0xFFFFFFFF true := rfl

theorem passedSlot_whole (s : State) (d : Side) (bs : List Block) :
    s.passedSlot d bs false false = s.slotRenewed d (blk bs 0) bs (trustOut bs) false (trailerCrc bs ^^^ slotCrc bs) := rfl

/-- A slot with a correct check is not poisoned: that check would be the complement of itself (R89). -/
theorem poisoned_of_crcOk (h : crcOk bs = true) : poisoned bs = false := by
  have hcrc : trailerCrc bs = slotCrc bs := eq_of_beq h
  have hne : slotCrc bs ≠ slotCrc bs ^^^ 0xFFFFFFFF := fun heq => by
    have hzero := congrArg (slotCrc bs ^^^ ·) heq
    simp only [Nat.xor_self, ← Nat.xor_assoc, Nat.zero_xor] at hzero
    exact absurd hzero (by decide)
  unfold poisoned
  rw [hcrc, beq_eq_false_iff_ne.mpr hne, Bool.false_and]

theorem slotArrival_bad (hup : s.down .ring = false) (hport : s.portUp (rxPort d) = true)
    (hbad : headerValid (blk blks 0) (s.get F.RING_CTRL_round_len) = false) :
    ∃ u, exec (.slotArrival d blks) s = .next u ∧ u.leafSet (portLeaf (rxPort d) 3) = true ∧
      u.get F.RING_ERRCNT_hdr_bad [sideIx (rxPort d)] = satInc (s.get F.RING_ERRCNT_hdr_bad [sideIx (rxPort d)]) 255 ∧
      (u.rdir d).lastReceived = some (s.nextPosition d) :=
  ⟨_, exec_slotArrival_bad hup hport hbad, badHeader_counts s.clearOut d blks false⟩

theorem slotArrival_poisoned (hup : s.down .ring = false) (k : s.Passing d blks) (hpoisoned : poisoned blks = true) :
    ∃ u, exec (.slotArrival d blks) s = .next u ∧ u.leafSet (portLeaf (rxPort d) 6) = true ∧
      u.get F.RING_ERRCNT_cut [sideIx (rxPort d)] = satInc (s.get F.RING_ERRCNT_cut [sideIx (rxPort d)]) 255 ∧
      (u.rdir d).lastReceived = some (headerOf (blk blks 0)).slot ∧
      u.out = [.slot d (s.slotRenewed d (blk blks 0) blks 1 false 0xFFFFFFFF true)] := by
  obtain ⟨hleaf, hcount, hreceived, -, hout⟩ := cutArrives_passes k.comes 17 false
  refine ⟨_, exec_slotArrival_passing hup k, ?_⟩
  rw [if_pos hpoisoned]
  refine ⟨hleaf, hcount.trans (by rw [errcnt_comes s d blks (rxPort d) rfl]), hreceived, ?_⟩
  rw [hout, out_comes, passedSlot_of_sight (sameSight_comes s d blks), passedSlot_poisoned]
  rfl

theorem slotArrival_wrongChecks (hup : s.down .ring = false) (k : s.Passing d blks) (hpoisoned : poisoned blks = false)
    (hcrc : crcOk blks = false) (hshot : shotOk blks = false) :
    ∃ u, exec (.slotArrival d blks) s = .next u ∧ u.leafSet (portLeaf (rxPort d) 4) = true ∧ u.leafSet (portLeaf (rxPort d) 5) = true ∧
      u.get F.RING_ERRCNT_crc_bad [sideIx (rxPort d)] = satInc (s.get F.RING_ERRCNT_crc_bad [sideIx (rxPort d)]) 255 ∧
      u.get F.RING_ERRCNT_shot_bad [sideIx (rxPort d)] = satInc (s.get F.RING_ERRCNT_shot_bad [sideIx (rxPort d)]) 255 ∧
      u.out = [.slot d (s.slotRenewed d (blk blks 0) blks 1 false (trailerCrc blks ^^^ slotCrc blks))] := by
  have h45 : portLeaf (rxPort d) 4 < 896 ∧ portLeaf (rxPort d) 5 < 896 := by cases d <;> decide
  obtain ⟨hfour, hfive, hcrcCount, hshotCount⟩ := countsChecks_wrong (s.comes d blks) (rxPort d) hcrc hshot
  obtain ⟨w, hregs, hout, -, hflow⟩ := wholeArrives_passes k.comes (by rw [hcrc]; rfl) (by simp [hshot])
  have htrust : trustOut blks = 1 := if_neg (by simp [hshot])
  refine ⟨_, exec_slotArrival_passing hup k, ?_⟩
  rw [if_neg (by simp [hpoisoned])]
  refine ⟨hflow.leaf _ h45.1 ((State.leafSet_of_regs hregs _).trans hfour), hflow.leaf _ h45.2 ((State.leafSet_of_regs hregs _).trans hfive),
    ?_, ?_, ?_⟩
  · rw [hflow.errcnt F.RING_ERRCNT_crc_bad, State.get_of_regs hregs, hcrcCount, errcnt_comes s d blks (rxPort d) rfl]
  · rw [hflow.errcnt F.RING_ERRCNT_shot_bad, State.get_of_regs hregs, hshotCount, errcnt_comes s d blks (rxPort d) rfl]
  · rw [hflow.outs, hout, out_comes, passedSlot_of_sight (sameSight_comes s d blks), passedSlot_whole, htrust]
    rfl

theorem slotArrival_sound (hup : s.down .ring = false) (k : s.Passing d blks) (hcrc : crcOk blks = true) (hshot : shotOk blks = true)
    (hpayload : (headerOf (blk blks 0)).payloadValid = false) :
    ∃ u rest, exec (.slotArrival d blks) s = .next u ∧ (u.rdir d).lastReceived = some (headerOf (blk blks 0)).slot ∧
      u.out = .slot d (s.slotRenewed d (blk blks 0) blks (min (trustOf (blk blks 97) + 1) 63) false) :: rest := by
  obtain ⟨w, -, hout, hreceived, hflow⟩ := wholeArrives_passes k.comes (by rw [hpayload, Bool.and_false]) fun _ => hpayload
  have htrust : trustOut blks = min (trustOf (blk blks 97) + 1) 63 := if_pos hshot
  have hsyndrome : trailerCrc blks ^^^ slotCrc blks = 0 := by rw [show trailerCrc blks = slotCrc blks from eq_of_beq hcrc, Nat.xor_self]
  refine ⟨_, [], exec_slotArrival_passing hup k, ?_⟩
  rw [if_neg (by simp [poisoned_of_crcOk hcrc])]
  refine ⟨(hflow.received d).trans hreceived, ?_⟩
  rw [hflow.outs, hout, out_comes, passedSlot_of_sight (sameSight_comes s d blks), passedSlot_whole, htrust, hsyndrome]
  rfl

theorem regs_generates (s : State) (d : Side) : (s.generates d).regs = s.regs := State.regs_setRdir _ _ _

theorem rdir_generates (s : State) (d : Side) : (s.generates d).rdir d = { s.rdir d with generating := s.integrated } := State.rdir_setRdir _ _ _

theorem slotCut_passing (hup : s.down .ring = false) (k : s.Passing d blks) (hne : blks ≠ []) :
    ∃ u, exec (.slotCut d blks) s = .next u ∧ u.leafSet (portLeaf (rxPort d) 6) = true ∧
      u.get F.RING_ERRCNT_cut [sideIx (rxPort d)] = satInc (s.get F.RING_ERRCNT_cut [sideIx (rxPort d)]) 255 ∧
      (u.rdir d).lastReceived = some (headerOf (blk blks 0)).slot ∧ (u.rdir d).generating = s.integrated ∧
      u.out = [.slot d (s.slotRenewed d (blk blks 0) (wholeSlot blks) 1 (blks.length < 98) 0xFFFFFFFF true)] := by
  have hblk := blk_wholeSlot hne
  obtain ⟨hleaf, hcount, hreceived, hint, hout⟩ := cutArrives_passes (bs := wholeSlot blks) (by rw [hblk]; exact k.comes)
    (blocksSent blks.length) (blks.length < 98)
  have hregs := regs_generates ((s.comes d blks).cutArrives d (wholeSlot blks) (blocksSent blks.length) (blks.length < 98)) d
  refine ⟨_, exec_slotCut_passing hup k hne, (State.leafSet_of_regs hregs _).trans hleaf, ?_, ?_, ?_, ?_⟩
  · rw [State.get_of_regs hregs, hcount, errcnt_comes s d blks (rxPort d) rfl]
  · rw [rdir_generates, ← hblk]
    exact hreceived
  · rw [rdir_generates]
    exact hint.trans (sameSight_comes s d blks).integrated
  · rw [State.generates, State.out_setRdir, hout, out_comes, passedSlot_of_sight (sameSight_comes s d blks), passedSlot_poisoned, hblk]
    rfl

end Sys2Proof.Machine

end

section

/-! What a slot this hub sends is made of (R65, R69, R82, R152): it does not turn on what the hub notes of passed positions and of the
payloads it has written. -/

namespace Sys2Proof.Machine

-- Many short rules with decided side conditions: checked one after another, they hold one thread.
set_option Elab.async false

variable {s t : State} {d : Side} {n : Nat}

/-- The words behind a slot that is sent: the hub number, the state of the edge, and the ring island's. -/
def sentAddr (a : Nat) : Bool := a == 0xC || a == 0x40000 || (0x100000 ≤ a && a < 0x300000)

/-- A direction without its notes of passed positions, written payloads and the pad buffer. -/
def RingDir.view (x : RingDir) : RingDir := { x with passed := [], fills := [], padBuffer := [], draining := false }

/-- The ring facts behind a slot that is sent. -/
def State.ringView (s : State) : RingState := { s.ring with eg := s.ring.eg.view, wg := s.ring.wg.view }

/-- From `s` to `t` all of it stays. -/
structure State.SameSlots (s t : State) : Prop where
  words : s.wordsKept t fun a => !sentAddr a
  ring : t.ringView = s.ringView
  shot : t.shot = s.shot

theorem State.ringView_setRdir {x : RingDir} (h : x.view = (s.rdir d).view) : (s.setRdir d x).ringView = s.ringView := by
  cases d with
  | east => exact congrArg (fun y => { s.ring with eg := y, wg := s.ring.wg.view }) h
  | west => exact congrArg (fun y => { s.ring with eg := s.ring.eg.view, wg := y }) h

theorem State.rdir_view (s : State) (d : Side) : (s.rdir d).view = match d with | .east => s.ringView.eg | .west => s.ringView.wg := by
  cases d <;> rfl

namespace State.SameSlots

theorem trans {u : State} (h : s.SameSlots t) (k : t.SameSlots u) : s.SameSlots u :=
  ⟨State.wordsKept_trans h.words k.words, k.ring.trans h.ring, k.shot.trans h.shot⟩

theorem setRdir {x : RingDir} (h : x.view = (s.rdir d).view) : s.SameSlots (s.setRdir d x) :=
  ⟨fun a _ => by rw [State.regs_setRdir], State.ringView_setRdir h, State.shot_setRdir _ _ _⟩

theorem view (h : s.SameSlots t) (d : Side) : (t.rdir d).view = (s.rdir d).view := by
  rw [State.rdir_view, State.rdir_view, h.ring]

theorem sight (h : s.SameSlots t) : s.SameSight t := by
  have hword : t.rd .RING_STATUS = s.rd .RING_STATUS := State.wordsKept_rd h.words _ _ rfl
  have hget (f : Fld) (hf : f.reg = .RING_STATUS) : t.get f = s.get f := by
    unfold State.get
    rw [hf, hword]
  refine ⟨fun a ha => h.words a ?_, ?_, ?_⟩
  · simp only [sightAddr, sentAddr] at ha ⊢
    revert ha
    simp only [Bool.not_eq_false', Bool.or_eq_true, Bool.and_eq_true, decide_eq_true_eq, beq_iff_eq]
    omega
  · unfold State.statusView State.is State.integrated
    rw [State.isHead_of_rd hword, State.isHead_of_rd hword, hget _ rfl, hget _ rfl, hget _ rfl]
  · have heast : t.ring.eg.lastReceived = s.ring.eg.lastReceived := (congrArg (·.eg.lastReceived) h.ring :)
    have hwest : t.ring.wg.lastReceived = s.ring.wg.lastReceived := (congrArg (·.wg.lastReceived) h.ring :)
    unfold State.sightFacts
    rw [h.shot, heast, hwest]

theorem line (h : s.SameSlots t) : t.get F.RING_STATUS_mode = s.get F.RING_STATUS_mode :=
  State.wordsKept_get h.words F.RING_STATUS_mode [] rfl

theorem quiet (h : s.SameSlots t) (d : Side) : t.quiet d = s.quiet d := by
  have hclosing : (t.rdir d).closing = (s.rdir d).closing := (congrArg RingDir.closing (h.view d) :)
  have hquiet : (t.rdir d).quietRound = (s.rdir d).quietRound := (congrArg RingDir.quietRound (h.view d) :)
  unfold State.quiet
  rw [hclosing, hquiet, h.sight.round]

theorem mayWrite (h : s.SameSlots t) (d : Side) : t.mayWrite d = s.mayWrite d := by
  have hphase : t.phase = s.phase := h.sight.get F.RING_START_STATUS_phase [] rfl
  have hversion : t.versionOk = s.versionOk := by
    unfold State.versionOk
    rw [h.sight.get F.RING_START_STATUS_ring_minor [] rfl]
  have hrelocking : t.ring.relocking = s.ring.relocking := (congrArg RingState.relocking h.ring :)
  unfold State.mayWrite
  rw [h.sight.integrated, hphase, h.sight.transit, h.quiet, hversion, hrelocking]

theorem slotBlank (h : s.SameSlots t) (d : Side) (hn : n < 512) : t.slotBlank d n = s.slotBlank d n := by
  have hmissing : t.ring.refMissing = s.ring.refMissing := (congrArg RingState.refMissing h.ring :)
  have hbitmap : t.ring.bitmap = s.ring.bitmap := (congrArg RingState.bitmap h.ring :)
  unfold State.slotBlank
  rw [h.sight.slotEntry d hn, h.sight.isMaster, hmissing, hbitmap, h.sight.hub]

theorem headerFor (h : s.SameSlots t) (d : Side) (hn : n < 512) (valid lastWords generated blank : Bool) :
    t.headerFor d n valid lastWords generated blank = s.headerFor d n valid lastWords generated blank := by
  have hgen : t.ring.schedGen = s.ring.schedGen := (congrArg RingState.schedGen h.ring :)
  unfold State.headerFor
  rw [h.slotBlank d hn, h.sight.slotEntry d hn, h.sight.round, h.sight.get F.RING_START_STATUS_ring_minor [] rfl, h.line,
    h.sight.get F.RING_CTRL_round_len [] rfl, h.quiet, hgen]

/-! The shot field. -/

theorem copyCurrent (h : s.SameSlots t) (d : Side) {k : Nat} (hk : k < 64) : t.copyCurrent d k = s.copyCurrent d k := by
  have haddr : ∀ k < 64, sightAddr (Reg.RING_REACH.addr [k]) = true := by decide
  have heast : t.is F.RING_REACH_eg_reach [k] = s.is F.RING_REACH_eg_reach [k] := h.sight.is _ _ (haddr k hk)
  have hwest : t.is F.RING_REACH_wg_reach [k] = s.is F.RING_REACH_wg_reach [k] := h.sight.is _ _ (haddr k hk)
  unfold State.copyCurrent State.copyOf State.reachedBy
  rw [h.shot, heast, hwest]

theorem heardOnly (h : s.SameSlots t) (d : Side) {k : Nat} (hk : k < 64) : t.heardOnly d k = s.heardOnly d k := by
  unfold State.heardOnly
  rw [h.sight.hub, h.copyCurrent d hk, h.copyCurrent _ hk]

theorem ann (h : s.SameSlots t) (k : Nat) : t.ann k = s.ann k := by
  have hann : t.ring.announcements = s.ring.announcements := (congrArg RingState.announcements h.ring :)
  unfold State.ann
  rw [hann]

theorem segmentOpen (h : s.SameSlots t) (d : Side) : t.segmentOpen d = s.segmentOpen d := by
  have haddr : ∀ k < 64, sightAddr (Reg.RING_HUBMAP_INFO.addr [k]) = true := by decide
  unfold State.segmentOpen
  refine Bool.eq_iff_iff.mpr ?_
  simp only [List.any_eq_true]
  refine exists_congr fun k => and_congr_right fun hk => ?_
  have hlt : k < 64 := List.mem_range.mp hk
  rw [h.heardOnly d hlt, h.sight.is F.RING_HUBMAP_INFO_present [k] (haddr k hlt), h.ann]

theorem relaysFor (h : s.SameSlots t) (d : Side) {k : Nat} (hk : k < 64) : t.relaysFor d k = s.relaysFor d k := by
  unfold State.relaysFor
  rw [h.sight.isHead, h.heardOnly d hk, h.segmentOpen]

theorem relayShots (h : s.SameSlots t) (d : Side) (shots : List Block) : t.relayShots d shots = s.relayShots d shots := by
  unfold State.relayShots
  rw [h.sight.isHead]
  refine if_congr Iff.rfl (List.foldl_ext _ _ _ fun bs k hk => ?_) rfl
  rw [h.relaysFor d (List.mem_range.mp hk), State.copyOf, h.shot, State.copyOf]

theorem ownShots (h : s.SameSlots t) (d : Side) : t.ownShots d = s.ownShots d := by
  unfold State.ownShots
  rw [h.relayShots, h.sight.hub, h.sight.ownEntry]

theorem padShots (h : s.SameSlots t) (d : Side) : t.padShots d = s.padShots d := by
  have hfield : (t.rdir d).shotField = (s.rdir d).shotField := (congrArg RingDir.shotField (h.view d) :)
  unfold State.padShots
  rw [hfield, h.sight.hub, h.sight.ownEntry, h.ownShots]

theorem relayFor (h : s.SameSlots t) (d : Side) (n : Nat) : t.relayFor d n = s.relayFor d n := by
  have hrelays : (t.rdir d).relays = (s.rdir d).relays := (congrArg RingDir.relays (h.view d) :)
  by_cases hn : (n == 1 || n == 2) = true
  · have hhub : commandHub n s.round < 64 := by
      simp only [Bool.or_eq_true, beq_iff_eq] at hn
      unfold commandHub
      omega
    unfold State.relayFor
    rw [h.quiet, h.sight.round, h.relaysFor d hhub, hrelays]
  · unfold State.relayFor
    simp only [Bool.eq_false_iff.mpr hn, Bool.false_and, Bool.false_eq_true, if_false]

end State.SameSlots

end Sys2Proof.Machine

end

section

/-! SLOT_START (R60, R65, R82, R96, R105): the positions a head of the line, the master and an inserted run send. -/

namespace Sys2Proof.Machine

variable {s t : State} {d : Side} {n : Nat}

/-! Sending a position. -/

theorem out_noteOriginated (s : State) (n : Nat) : (s.noteOriginated n).out = s.out := by
  unfold State.noteOriginated
  split <;> rfl

theorem out_dropFill (s : State) (d : Side) (n : Nat) : (s.dropFill d n).out = s.out := State.out_setRdir _ _ _

/-- The one output of a position this hub writes. -/
theorem out_sendOwn (s : State) (d : Side) (n : Nat) (c : Option SlotFill) (hdr : Header) (shots : List Block) (trust : Nat) :
    (s.sendOwn d n c hdr shots trust).out = s.out ++ [.slot d (slotOf
      { hdr with payloadValid := c.isSome, lastWords := match c with | some f => f.lastWords | none => false }.block shots
      (match c with | some f => f.payload | none => s.blankPayload d n) (block97 0 0 trust)
      (match c with | some f => f.round | none => 0))] := by
  unfold State.sendOwn
  rw [out_noteOriginated]
  refine (State.when_of (P := fun t => t.out = _) ?_ ?_)
  · exact State.out_sendSlot _ _ _
  · exact (out_dropFill _ _ _).trans (State.out_sendSlot _ _ _)

theorem generateSlot_of_owned (hup : s.portUp d = true) (howned : s.ownsPosition d n = true) :
    s.generateSlot d n false = s.sendOwn d n (s.content d n) (s.headerFor d n false false (!s.isMaster)) (s.ownShots d) 63 := by
  unfold State.generateSlot
  simp only [hup, howned, if_true, Bool.not_true, Bool.and_false]

theorem generateSlot_of_other (hup : s.portUp d = true) (howned : s.ownsPosition d n = false) (hrelay : s.relayFor d n = none) :
    s.generateSlot d n false = s.sendOwn d n none (s.headerFor d n false false (!s.isMaster)) (s.ownShots d) 63 := by
  unfold State.generateSlot
  simp only [hup, howned, hrelay, if_true, Bool.false_eq_true, if_false, Bool.false_and]

theorem ownsPosition_of_pos (hn : 1 ≤ n) : s.ownsPosition d n = s.ownsSlot d n := by
  unfold State.ownsPosition
  simp [hn, Nat.ne_of_gt hn]

theorem blankPayload_of_other (howns : s.ownsSlot d n = false) : s.blankPayload d n = zeros 640 := by
  unfold State.blankPayload
  rw [howns]
  exact if_neg (by simp)

/-! The command. -/

/-- A position begins here: no inserted run is under way, and what it follows has passed. -/
structure State.Begins (s : State) (d : Side) (n : Nat) : Prop where
  integrated : s.integrated = true
  lt : n < s.slotsPerDir
  left : (s.rdir d).runLeft = 0
  idle : (s.rdir d).runIdle = 0
  after : (s.rdir d).afterRun = false
  up : s.portUp d = true
  passed : (n ≠ 2 ∧ n ≠ 3) ∨ (s.rdir d).passed.contains (n - 1) = true

theorem slotsPerDir_lt (s : State) : s.slotsPerDir < 512 := by
  unfold State.slotsPerDir State.roundNs
  split <;> decide

/-- The position before has passed. -/
def State.begun (s : State) (d : Side) (n : Nat) : State := s.clearOut.positionPasses d n

/-- What the hub owns is chosen, and the position sent. -/
def State.starts (s : State) (d : Side) (n : Nat) : State :=
  if s.isHead d then s.generateSlot d n false
  else if s.padsNow d n then s.padSlot d n
  else if (s.rdir d).generating then s.generateSlot d n true
  else s

theorem starts_of_head (hhead : s.isHead d = true) : s.starts d n = s.generateSlot d n false := if_pos hhead

theorem State.Begins.exec_eq (hup : s.down .ring = false) (k : s.Begins d n) : exec (.slotStart d n) s =
    .next (((s.begun d n).when (n ≥ 1 && (s.begun d n).ownsSlot d n) fun s => s.ownFill d n).starts d n) := by
  have hint : s.clearOut.integrated ∧ n < s.clearOut.slotsPerDir := ⟨k.integrated, k.lt⟩
  have hleft : ¬ (s.clearOut.rdir d).runLeft > 0 := by
    have : (s.clearOut.rdir d).runLeft = 0 := k.left
    omega
  have hposition : s.clearOut.positionOf d n = n := if_neg (by
    have : (s.clearOut.rdir d).afterRun = false := k.after
    simp [this])
  have hidle : ((s.clearOut.rdir d).runIdle != 0) = false := by
    have : (s.clearOut.rdir d).runIdle = 0 := k.idle
    simp [this]
  refine (if_neg (by simp [hup])).trans ((if_pos hint).trans ((if_neg hleft).trans ?_))
  rw [hposition, hidle]
  unfold State.starts
  rw [apply_ite Host.Outcome.next, apply_ite Host.Outcome.next, apply_ite Host.Outcome.next]
  rfl

/-- What has passed before the position is noted, and nothing else (R128). -/
theorem State.Begins.begun_eq (k : s.Begins d n) :
    ∃ passed, s.begun d n = s.clearOut.setRdir d { s.rdir d with passed := passed } := by
  unfold State.begun State.positionPasses
  split
  · next hn =>
    obtain hne | hpassed := k.passed
    · omega
    · have hclear : (s.clearOut.rdir d).passed.contains (n - 1) = true := hpassed
      dsimp only
      rw [hclear]
      exact ⟨_, rfl⟩
  · exact ⟨(s.rdir d).passed, by cases d <;> rfl⟩

theorem begun_zero (s : State) (d : Side) : s.begun d 0 = s.clearOut := by
  unfold State.begun State.positionPasses
  exact if_neg (by decide)

theorem State.Begins.sameSlots (k : s.Begins d n) : s.SameSlots (s.begun d n) := by
  obtain ⟨passed, h⟩ := k.begun_eq
  have hclear : s.SameSlots s.clearOut := ⟨fun _ _ => rfl, rfl, rfl⟩
  rw [h]
  exact hclear.trans (.setRdir (by cases d <;> rfl))

theorem State.Begins.regs_begun (k : s.Begins d n) : (s.begun d n).regs = s.regs := by
  obtain ⟨passed, h⟩ := k.begun_eq
  rw [h, State.regs_setRdir]
  rfl

theorem State.Begins.out_begun (k : s.Begins d n) : (s.begun d n).out = [] := by
  obtain ⟨passed, h⟩ := k.begun_eq
  rw [h, State.out_setRdir]
  rfl

/-- A position of another hub brings no content of this one. -/
theorem State.Begins.exec_other (hup : s.down .ring = false) (k : s.Begins d n) (howns : s.ownsSlot d n = false) :
    exec (.slotStart d n) s = .next ((s.begun d n).starts d n) := by
  have hbegun : (s.begun d n).ownsSlot d n = false := (k.sameSlots.sight.ownsSlot d (k.lt.trans (slotsPerDir_lt s))).trans howns
  rw [k.exec_eq hup, hbegun, Bool.and_false]
  rfl

theorem slotStart_other (hup : s.down .ring = false) (k : s.Begins d n) (hhead : s.isHead d = true) (howns : s.ownsSlot d n = false)
    (hn : 1 ≤ n) (hrelay : s.relayFor d n = none) : ∃ u, exec (.slotStart d n) s = .next u ∧
      u.out = [.slot d (slotOf (s.headerFor d n false false (!s.isMaster)).block (s.ownShots d) (zeros 640) (block97 0 0 63) 0)] ∧
      u.regs = s.regs := by
  have hlt : n < 512 := k.lt.trans (slotsPerDir_lt s)
  have hsame := k.sameSlots
  have hother : (s.begun d n).ownsSlot d n = false := (hsame.sight.ownsSlot d hlt).trans howns
  have hstarts : (s.begun d n).starts d n = (s.begun d n).sendOwn d n none ((s.begun d n).headerFor d n false false (!(s.begun d n).isMaster))
      ((s.begun d n).ownShots d) 63 :=
    (starts_of_head ((hsame.sight.isHead d).trans hhead)).trans (generateSlot_of_other ((hsame.sight.portUp d).trans k.up)
      ((ownsPosition_of_pos hn).trans hother) ((hsame.relayFor d n).trans hrelay))
  refine ⟨_, k.exec_other hup howns, ?_, ?_⟩
  · rw [hstarts, out_sendOwn, k.out_begun]
    dsimp only
    rw [blankPayload_of_other hother, hsame.headerFor d hlt, hsame.sight.isMaster, hsame.ownShots]
    rfl
  · rw [hstarts]
    exact (State.KeepsLine.sendOwn (.refl _)).regs.trans k.regs_begun

/-- The pad buffer gives up the position. -/
def State.unpads (s : State) (d : Side) (n : Nat) : State :=
  s.setRdir d { s.rdir d with padBuffer := smSet (s.rdir d).padBuffer n [] []
                              draining := (s.rdir d).draining && !(smSet (s.rdir d).padBuffer n [] []).isEmpty }

theorem sameSlots_unpads (s : State) (d : Side) (n : Nat) : s.SameSlots (s.unpads d n) := .setRdir rfl

/-- Where nothing has come, the padding master sends a blank slot (R105, R157). -/
theorem padSlot_of_empty (hlt : n < 512) (hn : 1 ≤ n) (hup : s.portUp d = true) (howned : s.ownsPosition d n = false)
    (hempty : smGet (s.rdir d).padBuffer n [] = []) :
    s.padSlot d n = (s.unpads d n).sendSlot d (slotOf ((s.unpads d n).headerFor d n false false false true).block
      ((s.unpads d n).padShots d).1 (zeros 640) (block97 0 0 ((s.unpads d n).padShots d).2) 0) := by
  have hunowned : (s.unpads d n).ownsPosition d n = false := by
    rw [ownsPosition_of_pos hn] at howned ⊢
    exact ((sameSlots_unpads s d n).sight.ownsSlot d hlt).trans howned
  unfold State.padSlot
  change (if (s.unpads d n).portUp d = true then _ else _) = _
  rw [if_pos (((sameSlots_unpads s d n).sight.portUp d).trans hup)]
  change (if (s.unpads d n).ownsPosition d n = true then _ else if (smGet (s.rdir d).padBuffer n []).isEmpty = true then _ else _) = _
  rw [if_neg (by simp [hunowned]), if_pos (by simp [hempty])]
  rfl

theorem slotStart_padding (hup : s.down .ring = false) (k : s.Begins d n) (hhead : s.isHead d = false) (hmaster : s.isMaster = true)
    (hpads : s.isPadding d = true) (howns : s.ownsSlot d n = false) (hn : 1 ≤ n) (hempty : smGet (s.rdir d).padBuffer n [] = []) :
    ∃ u, exec (.slotStart d n) s = .next u ∧
      u.out = [.slot d (slotOf (s.headerFor d n false false false true).block (s.padShots d).1 (zeros 640)
        (block97 0 0 (s.padShots d).2) 0)] ∧ u.regs = s.regs := by
  have hlt : n < 512 := k.lt.trans (slotsPerDir_lt s)
  have hsame := k.sameSlots
  have hother : (s.begun d n).ownsSlot d n = false := (hsame.sight.ownsSlot d hlt).trans howns
  have hhead' : (s.begun d n).isHead d = false := (hsame.sight.isHead d).trans hhead
  have hpads' : (s.begun d n).padsNow d n = true := by
    rw [State.padsNow, hsame.sight.isMaster, hsame.sight.isPadding, hmaster, hpads]
    rfl
  have hempty' : smGet ((s.begun d n).rdir d).padBuffer n [] = [] := by
    obtain ⟨passed, h⟩ := k.begun_eq
    rw [h, State.rdir_setRdir]
    exact hempty
  have hstarts : (s.begun d n).starts d n = (s.begun d n).padSlot d n := (if_neg (by simp [hhead'])).trans (if_pos hpads')
  have hunpads := hsame.trans (sameSlots_unpads (s.begun d n) d n)
  refine ⟨_, k.exec_other hup howns, ?_, ?_⟩
  · rw [hstarts, padSlot_of_empty hlt hn ((hsame.sight.portUp d).trans k.up) ((ownsPosition_of_pos hn).trans hother) hempty', State.out_sendSlot,
      hunpads.headerFor d hlt, hunpads.padShots, State.unpads, State.out_setRdir, k.out_begun]
    rfl
  · rw [hstarts, padSlot_of_empty hlt hn ((hsame.sight.portUp d).trans k.up) ((ownsPosition_of_pos hn).trans hother) hempty']
    exact (State.KeepsLine.sendSlot (.refl _)).regs.trans ((State.regs_setRdir _ _ _).trans k.regs_begun)

/-! The master's own position (R65, R122). -/

theorem originated_sendOwn (hmaster : s.isMaster = true) (c : Option SlotFill) (hdr : Header) (shots : List Block) (trust : Nat) :
    (s.sendOwn d 0 c hdr shots trust).ring.originated = true := by
  have hnotes (t : State) (h : t.isMaster = true) : (t.noteOriginated 0).ring.originated = true := by
    rw [State.noteOriginated, if_pos ⟨rfl, h⟩]
  have hkeeps (t : State) (h : s.KeepsLine t) : t.isMaster = true := (State.is_of_regs h.regs _ _).trans hmaster
  exact hnotes _ (hkeeps _ (State.when_of (P := s.KeepsLine) (.sendSlot (.refl s)) (.dropFill <| .sendSlot (.refl s))))

theorem content_master (hmaster : s.isMaster = true) (hquiet : s.quiet d = false) : s.content d 0 =
    some { slot := 0, round := s.round, valid := true, lastWords := false, payload := s.refPayload (s.emitTime d) } := by
  unfold State.content
  rw [if_pos rfl, hmaster, hquiet]
  rfl

theorem slotStart_master (hup : s.down .ring = false) (k : s.Begins d 0) (hhead : s.isHead d = true) (hmaster : s.isMaster = true)
    (hquiet : s.quiet d = false) : ∃ u, exec (.slotStart d 0) s = .next u ∧
      u.out = [.slot d (slotOf (s.headerFor d 0 true false false).block (s.ownShots d) (s.refPayload (s.emitTime d)) (block97 0 0 63) s.round)] ∧
      u.regs = s.regs ∧ u.ring.originated = true := by
  have howned : s.clearOut.ownsPosition d 0 = true := by
    have : s.clearOut.isMaster = true := hmaster
    simp [State.ownsPosition, this]
  have hcontent := content_master (s := s.clearOut) (d := d) hmaster hquiet
  have hstarts : s.clearOut.starts d 0 = s.clearOut.sendOwn d 0 (s.clearOut.content d 0)
      (s.clearOut.headerFor d 0 false false (!s.clearOut.isMaster)) (s.clearOut.ownShots d) 63 :=
    (starts_of_head (show s.clearOut.isHead d = true from hhead)).trans (generateSlot_of_owned (show s.clearOut.portUp d = true from k.up) howned)
  have hexec : exec (.slotStart d 0) s = .next (s.clearOut.starts d 0) := by
    rw [k.exec_eq hup, begun_zero]
    rfl
  refine ⟨_, hexec, ?_, ?_, ?_⟩
  · rw [hstarts, out_sendOwn, hcontent, show s.clearOut.isMaster = true from hmaster]
    rfl
  · rw [hstarts]
    exact (State.KeepsLine.sendOwn (.refl _)).regs
  · rw [hstarts]
    exact originated_sendOwn (show s.clearOut.isMaster = true from hmaster) _ _ _ _

/-! An inserted run (R96). -/

/-- One slot less of the run. -/
def State.runsDown (s : State) (d : Side) : State := s.setRdir d { s.rdir d with runLeft := (s.rdir d).runLeft - 1 }

theorem keepsLine_runSlot (s : State) (d : Side) : (s.runsDown d).KeepsLine (s.runSlot d) :=
  show (s.runsDown d).KeepsLine (if (s.runsDown d).portUp d = true then _ else s.runsDown d) by
    split
    · exact .sendSlot (.refl _)
    · exact .refl _

theorem slotStart_run (hup : s.down .ring = false) (hint : s.integrated = true) (hn : n < s.slotsPerDir) (hrun : 0 < (s.rdir d).runLeft) :
    ∃ u, exec (.slotStart d n) s = .next u ∧ (u.rdir d).runLeft = (s.rdir d).runLeft - 1 ∧ u.regs = s.regs := by
  have hclear : s.clearOut.integrated ∧ n < s.clearOut.slotsPerDir := ⟨hint, hn⟩
  have hleft : (s.clearOut.rdir d).runLeft > 0 := hrun
  have hkeeps := keepsLine_runSlot s.clearOut d
  refine ⟨_, (if_neg (by simp [hup])).trans ((if_pos hclear).trans (if_pos hleft)), ?_, ?_⟩
  · rw [hkeeps.run, State.runsDown, State.rdir_setRdir]
    rfl
  · rw [hkeeps.regs, State.runsDown, State.regs_setRdir]
    rfl

end Sys2Proof.Machine

end

section

/-! What the filling of a scheduled slot leaves alone (R320 to R329): the ring, the shot state, the time, and every word beside those a
lost cell may change. -/

namespace Sys2Proof.Machine

-- Many short rules with decided side conditions: checked one after another, they hold one thread.
set_option Elab.async false

/-- The words a cell lost to an error may change: causes and faults, the pairs' status, and the hopper's count and status. -/
def lossAddr (a : Nat) : Bool := causeAddr a || (0x60104 ≤ a && a < 0x60304) || a == 0x2000000 || a == 0x2000004

/-- The ring, the shot state, the time and the outputs; the hopper where `h` counts it. -/
def State.fillFacts (s : State) (h : Bool) : RingState × ShotState × TimeState × List Out × Option HopState :=
  (s.ring, s.shot, s.time, s.out, if h then some s.hop else none)

/-- From `s` to `t` these stay, the hopper only where `h` counts it. -/
structure State.KeepsFill (h : Bool) (s t : State) : Prop where
  words : s.wordsKept t lossAddr
  facts : t.fillFacts h = s.fillFacts h

theorem lossAddr_pair {k : Nat} (h : k < 32) : lossAddr (Reg.TWIN_PAIR_STATUS.addr [k]) = true := by
  simp [lossAddr, Reg.addr, Reg.desc, dimOffset]
  omega

/-- A lost cell is counted (R329). -/
def State.countsLost (s : State) : State := (s.inc F.HOP_DROP_CNT_lost).leaf (hopLeaf 1)

/-- A cell is retired (R330). -/
def State.retires (s : State) (k : Nat) : State := { s with hop := { s.hop with retired := s.hop.retired ++ [k] } }

/-- The retired cells are shown, and the exhausted reserve is a fault (R330). -/
def State.showsReserve (s : State) : State :=
  let t := s.set F.HOP_STATUS_retired [] (min s.hop.retired.length 4095)
  if t.hop.retired.length > 2048 && !t.is F.HOP_STATUS_reserve_exhausted then
    ((t.setB F.HOP_STATUS_reserve_exhausted [] true).leaf (hopLeaf 2)).raiseFault 0
  else t

theorem loseCell_eq (s : State) (c : Cell) (ok : Bool) :
    s.loseCell c ok = if ok then s.countsLost else (s.countsLost.retires c.index).showsReserve := rfl

theorem hop_retires (s : State) (k : Nat) : (s.retires k).hop = { s.hop with retired := s.hop.retired ++ [k] } := rfl

namespace State.KeepsFill

variable {h : Bool} {s₀ s t u : State}

theorem refl (s : State) : s.KeepsFill h s := ⟨s.wordsKept_refl _, rfl⟩

theorem trans (a : s.KeepsFill h t) (b : t.KeepsFill h u) : s.KeepsFill h u := ⟨State.wordsKept_trans a.words b.words, b.facts.trans a.facts⟩

/-- A state reached by an equation. -/
theorem of_eq {α : Type} {p : α × State} {a : α} (heq : p = (a, s)) (hs : s₀.KeepsFill h p.2) : s₀.KeepsFill h s := by
  rw [heq] at hs
  exact hs

/-- Beside the words, the facts and the hopper nothing matters. -/
theorem frame {pending line free faultPair permits twin brg setts pins benches drs ports can canT ethT hopT ringT sw grd edge chip upd}
    (hs : s₀.KeepsFill h s) : s₀.KeepsFill h ⟨pending, s.out, line, s.regs, free, faultPair, s.time, s.shot, permits, s.ring, twin, s.hop,
      brg, setts, pins, benches, drs, ports, can, canT, ethT, hopT, ringT, sw, grd, edge, chip, upd⟩ := hs.trans ⟨fun _ _ => rfl, rfl⟩

/-- The hopper, where it does not count. -/
theorem setHop {x : HopState} (hs : s₀.KeepsFill false s) : s₀.KeepsFill false { s with hop := x } := hs.trans ⟨fun _ _ => rfl, rfl⟩

theorem wr {r : Reg} {ix : List Nat} {v : Nat} (ha : lossAddr (r.addr ix) = true) (hs : s₀.KeepsFill h s) : s₀.KeepsFill h (s.wr r ix v) :=
  hs.trans ⟨(State.regsOnly_wr s r ix v lossAddr ha).2, rfl⟩

theorem set {f : Fld} {ix : List Nat} {v : Nat} (ha : lossAddr (f.reg.addr ix) = true) (hs : s₀.KeepsFill h s) : s₀.KeepsFill h (s.set f ix v) :=
  .wr ha hs

theorem setB {f : Fld} {ix : List Nat} {b : Bool} (ha : lossAddr (f.reg.addr ix) = true) (hs : s₀.KeepsFill h s) :
    s₀.KeepsFill h (s.setB f ix b) := .wr ha hs

theorem of_causes (hkept : s.regsOnly t causeAddr) (hout : t.out = s.out) (hs : s₀.KeepsFill h s) : s₀.KeepsFill h t := by
  refine hs.trans ⟨fun a ha => hkept.2 a ?_, by rw [State.fillFacts, hout, hkept.1]; rfl⟩
  simp only [lossAddr, Bool.or_eq_false_iff] at ha
  exact ha.1.1.1

theorem setLeaf {n unit code : Nat} {rec : Bool} (hs : s₀.KeepsFill h s) : s₀.KeepsFill h (s.leaf n unit code rec) :=
  .of_causes (State.leaf_regsOnly _ _ _ _ _) (State.out_leaf _ _ _ _ _) hs

theorem journal {leaf face w : Nat} (hs : s₀.KeepsFill h s) : s₀.KeepsFill h (s.journal leaf face w) :=
  .of_causes (State.journal_regsOnly _ _ _ _) (State.out_journal _ _ _ _) hs

protected theorem ite {c : Prop} [Decidable c] {a b : State} (ha : s₀.KeepsFill h a) (hb : s₀.KeepsFill h b) :
    s₀.KeepsFill h (if c then a else b) := by
  split
  · exact ha
  · exact hb

theorem when {c : Bool} {f : State → State} (hs : s₀.KeepsFill h s) (hf : ∀ {u}, s₀.KeepsFill h u → s₀.KeepsFill h (f u)) :
    s₀.KeepsFill h (s.when c f) := .ite (hf hs) hs

theorem foldlMem {α : Type} {xs : List α} {f : State → α → State} (hs : s₀.KeepsFill h s)
    (hf : ∀ {u x}, x ∈ xs → s₀.KeepsFill h u → s₀.KeepsFill h (f u x)) : s₀.KeepsFill h (xs.foldl f s) := by
  induction xs generalizing s with
  | nil => exact hs
  | cons x xs ih => exact ih (hf List.mem_cons_self hs) fun hx => hf (List.mem_cons_of_mem _ hx)

/-! A chip fault, and the pairs judged anew with it (R442, R491). -/

theorem enterFault {bit : Nat} (hs : s₀.KeepsFill h s) : s₀.KeepsFill h (s.enterFault bit) :=
  .ite (.wr rfl hs) (.frame <| .journal <| .wr rfl hs)

theorem endHoldoff {k : Nat} (hk : k < 32) (hs : s₀.KeepsFill h s) : s₀.KeepsFill h (s.endHoldoff k) :=
  .ite (.frame <| .setB (lossAddr_pair hk) hs) hs

theorem twinRefresh {k : Nat} (hk : k < 32) (hs : s₀.KeepsFill h s) : s₀.KeepsFill h (s.twinRefresh k) := by
  unfold State.twinRefresh
  exact .when (.set (lossAddr_pair hk) <| .set (lossAddr_pair hk) <| .setB (lossAddr_pair hk) <| .when hs (.endHoldoff hk)) .setLeaf

theorem healthForcedNow (hs : s₀.KeepsFill h s) : s₀.KeepsFill h s.healthForcedNow :=
  .foldlMem (.setLeaf hs) fun hk => .twinRefresh (List.mem_range.mp hk)

theorem raiseFault {bit : Nat} (hs : s₀.KeepsFill h s) : s₀.KeepsFill h (s.raiseFault bit) :=
  .ite (.enterFault hs) (.healthForcedNow <| .enterFault hs)

/-! Cells lost to errors, and departures (R324, R329). -/

theorem setQueue {q : Nat} {x : Queue} (hs : s₀.KeepsFill false s) : s₀.KeepsFill false (s.setQueue q x) := .setHop hs

theorem countsLost (hs : s₀.KeepsFill h s) : s₀.KeepsFill h s.countsLost := .setLeaf <| .set rfl hs

theorem showsReserve (hs : s₀.KeepsFill h s) : s₀.KeepsFill h s.showsReserve :=
  .ite (.raiseFault <| .setLeaf <| .setB rfl <| .set rfl hs) (.set rfl hs)

theorem loseCell {c : Cell} {ok : Bool} (hs : s₀.KeepsFill false s) : s₀.KeepsFill false (s.loseCell c ok) := by
  rw [loseCell_eq]
  exact .ite (.countsLost hs) (.showsReserve <| .setHop <| .countsLost hs)

theorem dropBad {q : Nat} (hs : s₀.KeepsFill false s) : s₀.KeepsFill false (s.dropBad q) :=
  .ite (.setHop <| .foldlMem (.setQueue hs) fun _ => .loseCell) (.foldlMem (.setQueue hs) fun _ => .loseCell)

theorem popCell {q : Nat} (hs : s₀.KeepsFill false s) : s₀.KeepsFill false (s.popCell q).2 := by
  unfold State.popCell
  dsimp only
  split
  · exact .dropBad hs
  · exact .dropBad <| .setQueue <| .dropBad hs

theorem departFrom {q : Nat} (hs : s₀.KeepsFill false s) : s₀.KeepsFill false (s.departFrom q).2 := by
  unfold State.departFrom
  split
  · next hq => exact .setHop <| .of_eq hq (.popCell hs)
  · next hq => exact .of_eq hq (.popCell hs)

theorem fillPositions {face n : Nat} {dir : Option Side} (hs : s₀.KeepsFill false s) :
    s₀.KeepsFill false (s.fillPositions face dir n).2.2 := by
  induction n generalizing s with
  | zero => exact hs
  | succ n ih =>
    unfold State.fillPositions
    split
    · exact ih <| .departFrom hs
    · exact hs

/-! What is kept. -/

theorem ring (hs : s.KeepsFill h t) : t.ring = s.ring := congrArg (·.1) hs.facts

theorem shot (hs : s.KeepsFill h t) : t.shot = s.shot := congrArg (·.2.1) hs.facts

theorem time (hs : s.KeepsFill h t) : t.time = s.time := congrArg (·.2.2.1) hs.facts

theorem outs (hs : s.KeepsFill h t) : t.out = s.out := congrArg (·.2.2.2.1) hs.facts

theorem hop (hs : s.KeepsFill true t) : t.hop = s.hop := Option.some.inj (congrArg (·.2.2.2.2) hs.facts)

end State.KeepsFill

/-! The same content of the hopper gives the same departures. -/

variable {s t : State}

/-- Two states whose hoppers hold the same, at the same time, under the same words. -/
structure State.SameHopper (s t : State) : Prop where
  words : s.wordsKept t lossAddr
  hop : t.hop = s.hop
  time : t.time = s.time

/-- A cell lost leaves the hopper with one cell more retired, or as it is (R330). -/
theorem hop_loseCell (s : State) (c : Cell) (ok : Bool) :
    (s.loseCell c ok).hop = if ok then s.hop else { s.hop with retired := s.hop.retired ++ [c.index] } := by
  have hcounts : s.countsLost.hop = s.hop := (State.KeepsFill.countsLost (.refl s)).hop
  rw [loseCell_eq]
  cases ok with
  | true => rw [if_pos rfl, if_pos rfl, hcounts]
  | false =>
    have hshows : (s.countsLost.retires c.index).showsReserve.hop = (s.countsLost.retires c.index).hop :=
      (State.KeepsFill.showsReserve (.refl _)).hop
    rw [if_neg Bool.false_ne_true, if_neg Bool.false_ne_true, hshows, hop_retires, hcounts]

theorem hop_loseCells (cs : List Cell) (h : t.hop = s.hop) :
    (cs.foldl (fun s c => s.loseCell c (c.bad.getD true)) t).hop = (cs.foldl (fun s c => s.loseCell c (c.bad.getD true)) s).hop := by
  induction cs generalizing s t with
  | nil => exact h
  | cons c cs ih => exact ih (by rw [hop_loseCell, hop_loseCell, h])

theorem queue_of_hop (h : t.hop = s.hop) (q : Nat) : t.queue q = s.queue q := by
  unfold State.queue
  rw [h]

theorem hop_setQueue (h : t.hop = s.hop) (q : Nat) (x : Queue) : (t.setQueue q x).hop = (s.setQueue q x).hop :=
  congrArg (fun hop => { hop with queues := smSet hop.queues q x {} }) h

/-- The bad cells at the head of a queue are gone. -/
def State.skipsBad (s : State) (q : Nat) : State :=
  ((s.queue q).cells.take (badFront (s.queue q).cells)).foldl (fun s c => s.loseCell c (c.bad.getD true))
    (s.setQueue q { s.queue q with cells := (s.queue q).cells.drop (badFront (s.queue q).cells) })

theorem dropBad_eq (s : State) (q : Nat) : s.dropBad q = if ((s.skipsBad q).queue q).cells.isEmpty then
    { s.skipsBad q with hop := { (s.skipsBad q).hop with order := (s.skipsBad q).hop.order.erase q } } else s.skipsBad q := rfl

theorem hop_skipsBad (h : t.hop = s.hop) (q : Nat) : (t.skipsBad q).hop = (s.skipsBad q).hop := by
  unfold State.skipsBad
  rw [queue_of_hop h]
  exact hop_loseCells _ (hop_setQueue h q _)

theorem hop_dropBad (h : t.hop = s.hop) (q : Nat) : (t.dropBad q).hop = (s.dropBad q).hop := by
  have hskips := hop_skipsBad h q
  rw [dropBad_eq, dropBad_eq, queue_of_hop hskips]
  split
  · exact congrArg (fun hop => { hop with order := hop.order.erase q }) hskips
  · exact hskips

theorem popCell_of_hop (h : t.hop = s.hop) (q : Nat) : (t.popCell q).1 = (s.popCell q).1 ∧ (t.popCell q).2.hop = (s.popCell q).2.hop := by
  have hdrop := hop_dropBad h q
  unfold State.popCell
  dsimp only
  rw [queue_of_hop hdrop]
  cases ((s.dropBad q).queue q).cells with
  | nil => exact ⟨rfl, hdrop⟩
  | cons c cs => exact ⟨rfl, hop_dropBad (hop_setQueue hdrop q _) q⟩

theorem departFrom_of_hop (h : t.hop = s.hop) (q : Nat) :
    (t.departFrom q).1 = (s.departFrom q).1 ∧ (t.departFrom q).2.hop = (s.departFrom q).2.hop := by
  have hpop := popCell_of_hop h q
  revert hpop
  unfold State.departFrom
  obtain ⟨ct, t'⟩ := t.popCell q
  obtain ⟨cs, s'⟩ := s.popCell q
  intro hpop
  obtain ⟨rfl, hhop⟩ : ct = cs ∧ t'.hop = s'.hop := hpop
  cases ct with
  | none => exact ⟨rfl, hhop⟩
  | some c =>
    dsimp only
    rw [queue_of_hop hhop, hhop]
    exact ⟨rfl, rfl⟩

namespace State.SameHopper

theorem rd (h : s.SameHopper t) (r : Reg) (ix : List Nat) (hr : lossAddr (r.addr ix) = false) : t.rd r ix = s.rd r ix :=
  State.wordsKept_rd h.words r ix hr

theorem is (h : s.SameHopper t) (f : Fld) (ix : List Nat) (hr : lossAddr (f.reg.addr ix) = false) : t.is f ix = s.is f ix :=
  congrArg (· != 0) (State.wordsKept_get h.words f ix hr)

theorem get (h : s.SameHopper t) (f : Fld) (ix : List Nat) (hr : lossAddr (f.reg.addr ix) = false) : t.get f ix = s.get f ix :=
  State.wordsKept_get h.words f ix hr

theorem departFrom (h : s.SameHopper t) (q : Nat) : (s.departFrom q).2.SameHopper (t.departFrom q).2 := by
  have hs : s.KeepsFill false (s.departFrom q).2 := .departFrom (.refl s)
  have ht : t.KeepsFill false (t.departFrom q).2 := .departFrom (.refl t)
  exact ⟨fun a ha => (ht.words a ha).trans ((h.words a ha).trans (hs.words a ha).symm), (departFrom_of_hop h.hop q).2,
    ht.time.trans (h.time.trans hs.time.symm)⟩

theorem epFace (h : s.SameHopper t) {e : Nat} (he : e < 1024) : t.epFace e = s.epFace e := by
  unfold State.epFace
  rw [h.rd .FACE_EP _ (by simp [lossAddr, causeAddr, Reg.addr, Reg.desc, dimOffset]; omega)]

theorem epBench (h : s.SameHopper t) (e : Nat) : t.epBench e = s.epBench e := by
  have haddr : lossAddr (Reg.HOP_EP_CFG.addr [e]) = false := by simp [lossAddr, causeAddr, Reg.addr, Reg.desc, dimOffset]; omega
  have hkind : t.epKind e = s.epKind e := h.get F.HOP_EP_CFG_kind [e] haddr
  have hunit : t.epUnit e = s.epUnit e := h.get F.HOP_EP_CFG_unit [e] haddr
  unfold State.epBench
  rw [hkind, hunit]

theorem benchFrozen (h : s.SameHopper t) (b : Nat) : t.is F.BNCH_STATUS_queues_frozen [b] = s.is F.BNCH_STATUS_queues_frozen [b] := by
  have haddr : lossAddr (Reg.BNCH_STATUS.addr [b]) = false := by simp [lossAddr, causeAddr, Reg.addr, Reg.desc, dimOffset]; omega
  exact h.is _ _ haddr

theorem frozen (h : s.SameHopper t) (e : Nat) : t.frozen e = s.frozen e := by
  unfold State.frozen
  rw [h.hop, h.epBench]
  cases s.epBench e with
  | none => rfl
  | some b =>
    dsimp only
    rw [h.benchFrozen]

theorem chosenDirection (h : s.SameHopper t) {k : Nat} (hk : k < 64) : t.chosenDirection k = s.chosenDirection k := by
  have haddr : ∀ k < 64, lossAddr (Reg.RING_REACH.addr [k]) = false := by decide
  have heast : t.is F.RING_REACH_eg_reach [k] = s.is F.RING_REACH_eg_reach [k] := h.is _ _ (haddr k hk)
  have hwest : t.is F.RING_REACH_wg_reach [k] = s.is F.RING_REACH_wg_reach [k] := h.is _ _ (haddr k hk)
  have heastHops : t.get F.RING_REACH_eg_hops [k] = s.get F.RING_REACH_eg_hops [k] := h.get _ _ (haddr k hk)
  have hwestHops : t.get F.RING_REACH_wg_hops [k] = s.get F.RING_REACH_wg_hops [k] := h.get _ _ (haddr k hk)
  unfold State.chosenDirection
  rw [heast, hwest, heastHops, hwestHops]

theorem queueEligible (h : s.SameHopper t) (face : Nat) (dir : Option Side) (q : Nat) :
    t.queueEligible face dir q = s.queueEligible face dir q := by
  have hep : queueEp q < 1024 := Nat.mod_lt _ (by decide)
  have hdest : queueDest q < 64 := Nat.mod_lt _ (by decide)
  have hpath : t.get F.HOP_CLASS_CFG_path [queueClass q] = s.get F.HOP_CLASS_CFG_path [queueClass q] := by
    have haddr : lossAddr (Reg.HOP_CLASS_CFG.addr [queueClass q]) = false := by
      simp [lossAddr, causeAddr, Reg.addr, Reg.desc, dimOffset]
      omega
    exact h.get _ _ haddr
  unfold State.queueEligible
  dsimp only
  rw [hpath, h.epFace hep, h.frozen, queue_of_hop h.hop, h.time, h.hop, h.chosenDirection hdest]

theorem nextQueue (h : s.SameHopper t) (face : Nat) (dir : Option Side) : t.nextQueue face dir = s.nextQueue face dir := by
  have heligible : t.queueEligible face dir = s.queueEligible face dir := funext (h.queueEligible face dir)
  unfold State.nextQueue
  rw [h.hop, heligible]

theorem emptyPosition (h : s.SameHopper t) : t.emptyPosition = s.emptyPosition := by
  have hhub : t.hub = s.hub := h.get F.CHIP_HUBNUM_hub_number [] rfl
  unfold State.emptyPosition
  rw [hhub]

/-- The positions of a slot are filled alike. -/
theorem fillPositions (h : s.SameHopper t) (face : Nat) (dir : Option Side) (n : Nat) :
    (t.fillPositions face dir n).1 = (s.fillPositions face dir n).1 ∧ (t.fillPositions face dir n).2.1 = (s.fillPositions face dir n).2.1 ∧
      (t.fillPositions face dir n).2.2.hop = (s.fillPositions face dir n).2.2.hop := by
  induction n generalizing s t with
  | zero => exact ⟨rfl, rfl, h.hop⟩
  | succ n ih =>
    unfold State.fillPositions
    rw [h.nextQueue, h.emptyPosition]
    cases s.nextQueue face dir with
    | none => exact ⟨rfl, rfl, h.hop⟩
    | some q =>
      obtain ⟨hrest, -, hhop⟩ := ih (h.departFrom q)
      dsimp only
      rw [hrest, (departFrom_of_hop h.hop q).1]
      exact ⟨rfl, rfl, hhop⟩

end State.SameHopper

end Sys2Proof.Machine

end

section

/-! SLOT_START of a scheduled slot this hub owns in split mode (R106, R320 to R324): its positions are filled from the hopper, and it
leaves with them. -/

namespace Sys2Proof.Machine

variable {s t : State} {d : Side} {n : Nat}

/-! The freezes take effect first (R328). -/

/-- The same words, hopper and time. -/
def State.SameWords (s t : State) : Prop := t.regs = s.regs ∧ t.hop = s.hop ∧ t.time = s.time

theorem State.regs_setB_of_regs (h : t.regs = s.regs) (f : Fld) (ix : List Nat) (b : Bool) : (t.setB f ix b).regs = (s.setB f ix b).regs := by
  unfold State.setB State.set State.wr State.wrw
  rw [State.rd_of_regs h, h]

theorem State.SameWords.setB (h : s.SameWords t) (f : Fld) (ix : List Nat) (b : Bool) : (s.setB f ix b).SameWords (t.setB f ix b) := by
  obtain ⟨hregs, hhop, htime⟩ := h
  refine ⟨State.regs_setB_of_regs hregs _ _ _, ?_, ?_⟩
  · rw [State.hop_setB, State.hop_setB, hhop]
  · rw [State.time_setB, State.time_setB, htime]

theorem State.SameWords.freezesBench (h : s.SameWords t) (b : Nat) : (s.freezesBench b).SameWords (t.freezesBench b) := by
  unfold State.freezesBench State.when
  rw [State.is_of_regs h.1]
  split
  · exact h.setB _ _ _
  · exact h

theorem State.SameWords.frozenNow (h : s.SameWords t) : s.frozenNow.SameWords t.frozenNow := by
  obtain ⟨hregs, hhop, htime⟩ := h
  have hwords : t.freezeWords = s.freezeWords := by
    unfold State.freezeWords State.rd State.rdw
    rw [hhop, hregs]
  refine ⟨hregs, ?_, htime⟩
  unfold State.frozenNow
  rw [hwords, hhop]

theorem State.SameWords.applyFreeze (h : s.SameWords t) : s.applyFreeze.SameWords t.applyFreeze := by
  have hbenches (xs : List Nat) {s t : State} (h : s.SameWords t) :
      (xs.foldl State.freezesBench s).SameWords (xs.foldl State.freezesBench t) := by
    induction xs generalizing s t with
    | nil => exact h
    | cons b xs ih => exact ih (h.freezesBench b)
  rw [applyFreeze_eq, applyFreeze_eq]
  exact hbenches _ h.frozenNow

theorem State.SameWords.sameHopper (h : s.SameWords t) : s.SameHopper t := ⟨fun a _ => by rw [h.1], h.2.1, h.2.2⟩

theorem State.Begins.sameWords (k : s.Begins d n) : s.clearOut.SameWords (s.begun d n) := by
  obtain ⟨passed, h⟩ := k.begun_eq
  rw [h]
  exact ⟨State.regs_setRdir _ _ _, State.hop_setRdir _ _ _, State.time_setRdir _ _ _⟩

theorem sentAddr_ends {a : Nat} (h : sentAddr a = true) : endsAddr a = false := by
  refine Bool.eq_false_iff.mpr fun hends => ?_
  simp only [endsAddr, Bool.or_eq_true, beq_iff_eq, List.any_eq_true] at hends
  obtain rfl | ⟨b, -, rfl⟩ := hends
  · exact absurd h (by decide)
  · simp [sentAddr, Reg.addr, Reg.desc, dimOffset] at h
    omega

theorem sentAddr_loss {a : Nat} (h : sentAddr a = true) : lossAddr a = false := by
  refine Bool.eq_false_iff.mpr fun hloss => ?_
  simp only [lossAddr, sentAddr, causeAddr, Bool.or_eq_true, Bool.and_eq_true, decide_eq_true_eq, beq_iff_eq] at hloss h
  omega

theorem sameSlots_applyFreeze (s : State) : s.SameSlots s.applyFreeze := by
  have hkept := regsOnly_applyFreeze s
  have hring : s.applyFreeze.ring = s.ring := ring_applyFreeze s
  have hshot : s.applyFreeze.shot = s.frozenNow.shot := by rw [hkept.1]
  refine ⟨fun a ha => wordsKept_applyFreeze s a (sentAddr_ends (by simpa using ha)), ?_, hshot⟩
  unfold State.ringView
  rw [hring]

theorem out_freezesBench (s : State) (b : Nat) : (s.freezesBench b).out = s.out :=
  State.when_of (P := fun t => t.out = s.out) rfl (State.out_setB _ _ _ _)

theorem out_applyFreeze (s : State) : s.applyFreeze.out = s.out := by
  have hbenches (xs : List Nat) (t : State) : (xs.foldl State.freezesBench t).out = t.out := by
    induction xs generalizing t with
    | nil => rfl
    | cons b xs ih => exact (ih _).trans (out_freezesBench t b)
  rw [applyFreeze_eq, hbenches]
  rfl

theorem State.KeepsFill.sameSlots {h : Bool} (hs : s.KeepsFill h t) : s.SameSlots t := by
  refine ⟨fun a ha => hs.words a (sentAddr_loss (by simpa using ha)), ?_, hs.shot⟩
  unfold State.ringView
  rw [hs.ring]

/-! The content. -/

/-- Positions that hold no cell are empty (R310). -/
theorem fillPositions_none (s : State) (face : Nat) (dir : Option Side) (n : Nat) (h : (s.fillPositions face dir n).2.1 = false) :
    (s.fillPositions face dir n).1 = List.flatten (List.replicate n s.emptyPosition) := by
  cases n with
  | zero => rfl
  | succ n =>
    unfold State.fillPositions at h ⊢
    cases hq : s.nextQueue face dir with
    | none => rfl
    | some q =>
      rw [hq] at h
      exact absurd h (by simp)

/-- What the hopper puts into a split slot of this hub, once the freezes have taken effect. -/
def State.splitPositions (s : State) (d : Side) (n : Nat) : List Byte × Bool × State :=
  s.applyFreeze.fillPositions (s.applyFreeze.slotFace d n) (some d) 5

/-- The payload of a split slot of this hub. -/
def State.splitContent (s : State) (d : Side) (n : Nat) : SlotFill :=
  { slot := n, round := (s.splitPositions d n).2.2.round, valid := (s.splitPositions d n).2.1, lastWords := false,
    payload := (s.splitPositions d n).1 }

theorem keepsFill_splitPositions (s : State) (d : Side) (n : Nat) : s.applyFreeze.KeepsFill false (s.splitPositions d n).2.2 :=
  .fillPositions (.refl _)

theorem sameSlots_splitPositions (s : State) (d : Side) (n : Nat) : s.SameSlots (s.splitPositions d n).2.2 :=
  (sameSlots_applyFreeze s).trans (keepsFill_splitPositions s d n).sameSlots

/-- A scheduled slot in split mode carries no heartbeat (R443). -/
theorem scheduledFill_split (hn : n < 512) (hmode : (s.slotEntry d n).2.1 = 1) (hdying : s.dying = false) :
    s.scheduledFill d n = (s.splitContent d n, (s.splitPositions d n).2.2) := by
  have hsame := sameSlots_applyFreeze s
  have hmode' : (s.applyFreeze.slotEntry d n).2.1 = 1 := by rw [hsame.sight.slotEntry d hn, hmode]
  have hdying' : s.applyFreeze.dying = false := hsame.sight.dying.trans hdying
  have hbeat : s.applyFreeze.isHeartbeatSlot d n = false := by
    unfold State.isHeartbeatSlot
    rw [hmode']
    exact Bool.and_false _
  have hwhen (t : State) (f : State → State) : t.when false f = t := rfl
  unfold State.scheduledFill State.splitContent State.splitPositions
  simp only [hdying', hbeat, hmode', hwhen, if_true, if_false, Bool.false_eq_true, Bool.or_false, List.append_nil]

/-- A split slot for which nothing waits is filled anew (R106). -/
theorem ownFill_split (hn : n < 512) (h3 : 3 ≤ n) (hmode : (s.slotEntry d n).2.1 = 1) (hdying : s.dying = false) (hup : s.portUp d = true)
    (hwrite : s.mayWrite d = true) (hkept : s.keptFill d n = none) :
    s.ownFill d n = (s.splitPositions d n).2.2.keepFill d (s.splitContent d n) := by
  have hnew : s.newFill d n = (s.splitContent d n, (s.splitPositions d n).2.2) :=
    (if_neg (by omega)).trans (scheduledFill_split hn hmode hdying)
  have hwhen (t : State) (f : State → State) : t.when false f = t := rfl
  have hsplit : s.splitFill d n = (s.splitPositions d n).2.2.keepFill d (s.splitContent d n) := by
    unfold State.splitFill
    simp only [hup, hdying, hkept, hnew, hwhen, Bool.not_true, Bool.false_eq_true, if_false, Option.filter_none]
  unfold State.ownFill
  rw [hmode, if_neg (by decide), hwrite]
  exact hsplit

theorem keptFill_keepFill (s : State) (d : Side) (f : SlotFill) : (s.keepFill d f).keptFill d f.slot = some f := by
  have hothers : ((s.rdir d).fills.filter fun g => g.slot != f.slot).find? (fun g => g.slot == f.slot) = none := by
    simp [List.find?_eq_none]
  unfold State.keptFill State.keepFill
  rw [State.rdir_setRdir, List.find?_append, hothers]
  simp

theorem sameSlots_keepFill (s : State) (d : Side) (f : SlotFill) : s.SameSlots (s.keepFill d f) := .setRdir rfl

/-! The command. -/

/-- The state with the slot's content chosen. -/
def State.chosen (s : State) (d : Side) (n : Nat) : State := (s.splitPositions d n).2.2.keepFill d (s.splitContent d n)

theorem sameSlots_chosen (s : State) (d : Side) (n : Nat) : s.SameSlots (s.chosen d n) :=
  (sameSlots_splitPositions s d n).trans (sameSlots_keepFill _ _ _)

/-- The chosen content leaves if it holds a cell. -/
theorem content_chosen (h3 : 3 ≤ n) (hwrite : s.mayWrite d = true) :
    (s.chosen d n).content d n = if (s.splitPositions d n).2.1 then some (s.splitContent d n) else none := by
  have hkept : (s.chosen d n).keptFill d n = some (s.splitContent d n) := keptFill_keepFill _ d (s.splitContent d n)
  unfold State.content
  rw [if_neg (by omega), (sameSlots_chosen s d n).mayWrite, if_pos hwrite, hkept]
  rfl

end Sys2Proof.Machine

end

section

/-! O25: the slots a hub sends, receives, spoils and cuts. -/

namespace Sys2Proof.Machine

variable {s : State} {d : Side} {n : Nat}

theorem slotFace_of_slots {t : State} (h : s.SameSlots t) (d : Side) (n : Nat) : t.slotFace d n = s.slotFace d n := by
  have hfaces : t.ring.slotFaces = s.ring.slotFaces := (congrArg RingState.slotFaces h.ring :)
  unfold State.slotFace
  rw [hfaces]

/-- The header of a position with or without payload. -/
theorem headerFor_valid (s : State) (d : Side) (n : Nat) (valid generated : Bool) :
    { s.headerFor d n false false generated with payloadValid := valid, lastWords := false } = s.headerFor d n valid false generated := rfl

theorem emptyPayload_of_sight {t : State} (h : s.SameSight t) : t.emptyPayload = s.emptyPayload := by
  unfold State.emptyPayload State.emptyPosition
  rw [h.hub]

/-- The positions filled after what has passed is noted are those filled before. -/
theorem State.Begins.splitPositions_eq (k : s.Begins d n) :
    ((s.begun d n).splitPositions d n).1 = (s.clearOut.applyFreeze.fillPositions (s.slotFace d n) (some d) 5).1 ∧
      ((s.begun d n).splitPositions d n).2.1 = (s.clearOut.applyFreeze.fillPositions (s.slotFace d n) (some d) 5).2.1 ∧
      ((s.begun d n).splitPositions d n).2.2.hop = (s.clearOut.applyFreeze.fillPositions (s.slotFace d n) (some d) 5).2.2.hop := by
  have hface := slotFace_of_slots (k.sameSlots.trans (sameSlots_applyFreeze _)) d n
  rw [State.splitPositions, hface]
  exact k.sameWords.applyFreeze.sameHopper.fillPositions _ _ _

theorem State.Begins.keptFill_begun (k : s.Begins d n) : (s.begun d n).keptFill d n = s.keptFill d n := by
  obtain ⟨passed, h⟩ := k.begun_eq
  unfold State.keptFill
  rw [h, State.rdir_setRdir]

theorem out_chosen (s : State) (d : Side) (n : Nat) : (s.chosen d n).out = s.out := by
  rw [State.chosen, State.keepFill, State.out_setRdir, (keepsFill_splitPositions s d n).outs, out_applyFreeze]

theorem hop_chosen (s : State) (d : Side) (n : Nat) : (s.chosen d n).hop = (s.splitPositions d n).2.2.hop := State.hop_setRdir _ _ _

/-- A position of this hub without a cell carries empty ones (R310). -/
theorem blankPayload_chosen (h3 : 3 ≤ n) (howns : (s.chosen d n).ownsSlot d n = true) (hnone : (s.splitPositions d n).2.1 = false) :
    (s.chosen d n).blankPayload d n = (s.splitPositions d n).1 := by
  have hempty : (s.splitPositions d n).1 = s.applyFreeze.emptyPayload := fillPositions_none _ _ _ _ hnone
  unfold State.blankPayload
  rw [if_pos ⟨h3, howns⟩, hempty, emptyPayload_of_sight (sameSlots_chosen s d n).sight, emptyPayload_of_sight (sameSlots_applyFreeze s).sight]

/-- A split slot of this hub is filled as it begins. -/
theorem State.Begins.exec_split {spare : Bool} (hup : s.down .ring = false) (k : s.Begins d n) (h3 : 3 ≤ n)
    (hentry : s.slotEntry d n = (s.hub, 1, spare)) (howns : s.ownsSlot d n = true) (hwrite : s.mayWrite d = true) (hdying : s.dying = false)
    (hkept : s.keptFill d n = none) : exec (.slotStart d n) s = .next (((s.begun d n).chosen d n).starts d n) := by
  have hlt : n < 512 := k.lt.trans (slotsPerDir_lt s)
  have hbegun := k.sameSlots
  have hfill : (s.begun d n).ownFill d n = (s.begun d n).chosen d n :=
    ownFill_split hlt h3 (by rw [hbegun.sight.slotEntry d hlt, hentry]) (hbegun.sight.dying.trans hdying) ((hbegun.sight.portUp d).trans k.up)
      ((hbegun.mayWrite d).trans hwrite) (k.keptFill_begun.trans hkept)
  have hwhen (t : State) (f : State → State) : t.when true f = f t := rfl
  rw [k.exec_eq hup, hbegun.sight.ownsSlot d hlt, howns, decide_eq_true (by omega : n ≥ 1), Bool.and_true, hwhen, hfill]

/-- The position leaves with what was chosen for it. -/
theorem starts_chosen (hhead : s.isHead d = true) (h3 : 3 ≤ n) (hlt : n < 512) (hup : s.portUp d = true) (howns : s.ownsSlot d n = true)
    (hwrite : s.mayWrite d = true) : (s.chosen d n).starts d n = (s.chosen d n).sendOwn d n
      (if (s.splitPositions d n).2.1 then some (s.splitContent d n) else none) (s.headerFor d n false false (!s.isMaster)) (s.ownShots d) 63 := by
  have hsame := sameSlots_chosen s d n
  have howned : (s.chosen d n).ownsPosition d n = true := by
    rw [ownsPosition_of_pos (by omega), hsame.sight.ownsSlot d hlt, howns]
  rw [starts_of_head ((hsame.sight.isHead d).trans hhead), generateSlot_of_owned ((hsame.sight.portUp d).trans hup) howned,
    content_chosen h3 hwrite, hsame.headerFor d hlt, hsame.sight.isMaster, hsame.ownShots]

/-- A split slot leaves with the cells chosen for it, or without payload and with empty positions (R310). -/
theorem out_starts_chosen (hhead : s.isHead d = true) (h3 : 3 ≤ n) (hlt : n < 512) (hup : s.portUp d = true) (howns : s.ownsSlot d n = true)
    (hwrite : s.mayWrite d = true) : ((s.chosen d n).starts d n).out = s.out ++ [.slot d (slotOf
      (s.headerFor d n (s.splitPositions d n).2.1 false (!s.isMaster)).block (s.ownShots d) (s.splitPositions d n).1 (block97 0 0 63)
      (if (s.splitPositions d n).2.1 then s.round else 0))] := by
  have hround : (s.splitContent d n).round = s.round := (sameSlots_splitPositions s d n).sight.round
  rw [starts_chosen hhead h3 hlt hup howns hwrite, out_sendOwn, out_chosen]
  cases hany : (s.splitPositions d n).2.1 with
  | true =>
    rw [if_pos rfl, if_pos rfl]
    dsimp only
    rw [hround, Option.isSome_some, show (s.splitContent d n).lastWords = false from rfl, headerFor_valid]
    rfl
  | false =>
    rw [if_neg Bool.false_ne_true, if_neg Bool.false_ne_true]
    dsimp only
    rw [Option.isSome_none, headerFor_valid, blankPayload_chosen h3 (((sameSlots_chosen s d n).sight.ownsSlot d hlt).trans howns) hany]

theorem slotStart_split {spare : Bool} (hup : s.down .ring = false) (k : s.Begins d n) (hhead : s.isHead d = true) (h3 : 3 ≤ n)
    (hentry : s.slotEntry d n = (s.hub, 1, spare)) (hwrite : s.mayWrite d = true) (hdying : s.dying = false) (hkept : s.keptFill d n = none) :
    let r := s.clearOut.applyFreeze.fillPositions (s.slotFace d n) (some d) 5
    ∃ u, exec (.slotStart d n) s = .next u ∧ u.hop.queues = r.2.2.hop.queues ∧
      u.out = [.slot d (slotOf (s.headerFor d n r.2.1 false (!s.isMaster)).block (s.ownShots d) r.1 (block97 0 0 63)
        (if r.2.1 then s.round else 0))] := by
  intro r
  have hlt : n < 512 := k.lt.trans (slotsPerDir_lt s)
  have hbegun := k.sameSlots
  have howns : s.ownsSlot d n = true := by
    unfold State.ownsSlot
    rw [hentry]
    simp
  have hhead' := (hbegun.sight.isHead d).trans hhead
  have hup' := (hbegun.sight.portUp d).trans k.up
  have howns' := (hbegun.sight.ownsSlot d hlt).trans howns
  have hwrite' := (hbegun.mayWrite d).trans hwrite
  obtain ⟨hcells, hany, hhop⟩ := k.splitPositions_eq
  refine ⟨_, k.exec_split hup h3 hentry howns hwrite hdying hkept, ?_, ?_⟩
  · rw [starts_chosen hhead' h3 hlt hup' howns' hwrite', (State.KeepsLine.sendOwn (.refl _)).hop, hop_chosen, hhop]
  · rw [out_starts_chosen hhead' h3 hlt hup' howns' hwrite', k.out_begun, hcells, hany, hbegun.headerFor d hlt, hbegun.sight.isMaster,
      hbegun.ownShots, hbegun.sight.round]
    rfl

end Sys2Proof.Machine

end

section

/-! O25: the slots a hub sends, receives, spoils and cuts. -/

namespace Sys2Proof.Machine

/-- Settles O25: what a slot is made of stays through what happens before it leaves (`State.SameSight`, `State.SameSlots`), and what
follows its leaving keeps what it shows (`State.KeepsFlow`). -/
theorem ringSlots : Obligations.RingSlots := by
  intro s d blks hup rx h renewed whole begins passes
  have hbegins {n : Nat} (k : begins n) : s.Begins d n := by
    obtain ⟨hint, hlt, hleft, hidle, hafter, hport, hpassed⟩ := k
    exact ⟨hint, hlt, hleft, hidle, hafter, hport, hpassed⟩
  have hpasses (k : passes) : s.Passing d blks := by
    obtain ⟨hport, hside, hhead, hpads, hvalid, howns, hrun, hround⟩ := k
    exact ⟨hport, hvalid, hrun, ⟨hpads, hside, hhead, howns, hround⟩⟩
  refine ⟨?_, ?_, ?_, ?_, ?_, ?_, ?_, ?_, ?_, ?_, ?_⟩
  · intro n k hhead howns hn hrelay
    exact slotStart_other hup (hbegins k) hhead howns hn hrelay
  · intro n spare k hhead h3 hentry hwrite hdying hkept
    exact slotStart_split hup (hbegins k) hhead h3 hentry hwrite hdying hkept
  · intro n k hhead hmaster hpads howns hn hempty
    exact slotStart_padding hup (hbegins k) hhead hmaster hpads howns hn hempty
  · intro k hhead hmaster hquiet
    exact slotStart_master hup (hbegins k) hhead hmaster hquiet
  · intro n hint hn hrun
    exact slotStart_run hup hint hn hrun
  · intro hport
    exact ⟨exec_slotArrival_portDown hup hport, exec_slotCut_portDown hup hport⟩
  · intro hport hbad
    exact slotArrival_bad hup hport hbad
  · intro k hpoisoned
    exact slotArrival_poisoned hup (hpasses k) hpoisoned
  · intro k hpoisoned hcrc hshot
    exact slotArrival_wrongChecks hup (hpasses k) hpoisoned hcrc hshot
  · intro k hcrc hshot hpayload
    exact slotArrival_sound hup (hpasses k) hcrc hshot hpayload
  · intro k hne
    exact slotCut_passing hup (hpasses k) hne

end Sys2Proof.Machine

end

section

/-! A master that had lost both ports gives up its part of the ring (R135): it leaves integration, and nothing of that is said of a port. -/

namespace Sys2Proof.Machine

namespace State.KeepsPort

variable {s₀ s : State} {p : Side}

/-- A direction the hub no longer heads. -/
theorem leaveHead {d : Side} (hs : s₀.KeepsPort p s) : s₀.KeepsPort p (s.leaveHead d) := .setRdir <| .setHead hs

theorem loseFills {d : Side} (hs : s₀.KeepsPort p s) : s₀.KeepsPort p (s.loseFills d) :=
  .setRdir <| .foldl hs fun h => .set h (offPort_cut p d)

theorem forgetSlots (hs : s₀.KeepsPort p s) : s₀.KeepsPort p s.forgetSlots :=
  (loseFills (d := .west) (loseFills (d := .east) hs)).ringFrame rfl rfl rfl

theorem setStart {f : Fld} {v : Nat} (hs : s₀.KeepsPort p s) (hf : f.reg = .RING_START_STATUS) : s₀.KeepsPort p (s.set f [] v) :=
  .set hs (by rw [hf]; cases p <;> exact ⟨by decide, by decide, by decide⟩)

theorem setPadding {d : Side} {b : Bool} (hs : s₀.KeepsPort p s) : s₀.KeepsPort p (s.setB F.RING_PAD_padding [sideIx d] b) :=
  .set hs (offPort_padding p d)

theorem showRing (hs : s₀.KeepsPort p s) : s₀.KeepsPort p s.showRing :=
  .set hs (by cases p <;> exact ⟨by decide, by decide, by decide⟩)

/-! What is kept, in the words of the statements. -/

theorem get {t : State} (h : s.KeepsPort p t) {f : Fld} (hf : f.reg = .RING_PORT_STATUS) : t.get f [sideIx p] = s.get f [sideIx p] := by
  have hword : t.rd .RING_PORT_STATUS [sideIx p] = s.rd .RING_PORT_STATUS [sideIx p] := congrArg (·.1) h.view
  rw [State.get, State.get, hf, hword]

theorem hello {t : State} (h : s.KeepsPort p t) : t.hello p = s.hello p := congrArg (·.2.2.2.1) h.view

theorem outs {t : State} (h : s.KeepsPort p t) : t.out = s.out := congrArg (·.2.2.2.2) h.view

end State.KeepsPort

variable {s : State}

/-- The hub listens anew, integrated no more and head of neither direction. -/
def State.listensAnew (s : State) : State := (((s.setMode 0).setPhase 4).leaveHead .east).leaveHead .west

/-- It is master no more, and pads neither direction. -/
def State.mastersNoMore (s : State) : State :=
  ((s.setB F.RING_START_STATUS_is_master [] false).setB F.RING_PAD_padding [sideIx .east] false).setB F.RING_PAD_padding [sideIx .west] false

/-- What a master keeps beside the register words is given up. -/
def State.dropsDuties (s : State) : State :=
  { s with ring := { s.ring with closureWord := 0, loopAt := none, yielding := false, refRun := 0, refRound := none, lapsing := false } }

theorem regs_dropsDuties (s : State) : s.dropsDuties.regs = s.regs := rfl

theorem out_dropsDuties (s : State) : s.dropsDuties.out = s.out := rfl

theorem hello_dropsDuties (s : State) (p : Side) : s.dropsDuties.hello p = s.hello p := by cases p <;> rfl

/-- Its mastership is given up. -/
def State.givesUp (s : State) : State := s.mastersNoMore.dropsDuties

theorem regs_givesUp (s : State) : s.givesUp.regs = s.mastersNoMore.regs := regs_dropsDuties _

/-- Its slots are forgotten, and the change of master is reported. -/
def State.partsFromRing (s : State) : State := s.forgetSlots.showRing.leaf (ringLeaf 22)

theorem mastershipLapses_of_lapsing (h : s.ring.lapsing = true) : s.mastershipLapses = s.listensAnew.givesUp.partsFromRing := if_pos h

theorem mastershipLapses_of_lasting (h : s.ring.lapsing = false) : s.mastershipLapses = s := if_neg (by simp [h])

theorem keepsPort_mastershipLapses (s : State) (p : Side) : s.KeepsPort p s.mastershipLapses := by
  cases h : s.ring.lapsing with
  | false =>
    rw [mastershipLapses_of_lasting h]
    exact .refl s
  | true =>
    have hlisten : s.KeepsPort p s.listensAnew :=
      .leaveHead <| .leaveHead <| .setStart (f := F.RING_START_STATUS_phase) (.setMode (.refl s)) rfl
    have hmaster : s.KeepsPort p s.listensAnew.mastersNoMore :=
      .setPadding <| .setPadding <| .setStart (f := F.RING_START_STATUS_is_master) hlisten rfl
    have hgive : s.KeepsPort p s.listensAnew.givesUp := hmaster.ringFrame (regs_dropsDuties _) (out_dropsDuties _) (hello_dropsDuties _ _)
    rw [mastershipLapses_of_lapsing h]
    exact .setLeaf (.showRing <| .forgetSlots hgive) (by decide)

/-! The phase, the mode and the mastership of the hub that lapses. -/

theorem rd_start_leaveHead (s : State) (d : Side) : (s.leaveHead d).rd .RING_START_STATUS = s.rd .RING_START_STATUS := by
  have hhead : (s.setHead d false).rd .RING_START_STATUS = s.rd .RING_START_STATUS := by
    cases d <;> exact State.rd_wr_ne _ _ _ _ _ _ (by decide)
  exact (State.rd_setRdir _ _ _ _ _).trans hhead

theorem mode_leaveHead (s : State) (d : Side) : (s.leaveHead d).get F.RING_STATUS_mode = s.get F.RING_STATUS_mode :=
  (State.get_setRdir _ _ _ _ _).trans (mode_setHead s d false)

theorem phase_setPhase (s : State) {v : Nat} (h : v < 16) : (s.setPhase v).phase = v :=
  (s.get_set F.RING_START_STATUS_phase [] v (by decide) (by decide)).trans (Nat.mod_eq_of_lt h)

/-- The phase is a field of one register word. -/
theorem State.phase_of_rd {t : State} (h : t.rd .RING_START_STATUS = s.rd .RING_START_STATUS) : t.phase = s.phase :=
  congrArg (natBits · _ _) h

theorem State.isMaster_of_rd {t : State} (h : t.rd .RING_START_STATUS = s.rd .RING_START_STATUS) : t.isMaster = s.isMaster :=
  congrArg (natBits · _ _ != 0) h

theorem phase_listensAnew (s : State) : s.listensAnew.phase = 4 :=
  (State.phase_of_rd ((rd_start_leaveHead _ _).trans (rd_start_leaveHead _ _))).trans (phase_setPhase _ (by decide))

theorem mode_listensAnew (s : State) : s.listensAnew.get F.RING_STATUS_mode = 0 := by
  rw [State.listensAnew, mode_leaveHead, mode_leaveHead, State.setPhase,
    State.get_set_ne _ F.RING_START_STATUS_phase F.RING_STATUS_mode _ _ _ (by decide), mode_setMode _ (by decide)]

theorem rd_setPadding {r : Reg} (s : State) (d : Side) (b : Bool) (h : Reg.RING_PAD.addr [sideIx d] ≠ r.addr []) :
    (s.setB F.RING_PAD_padding [sideIx d] b).rd r = s.rd r := State.rd_wr_ne _ _ _ _ _ _ h.symm

theorem rd_start_mastersNoMore (s : State) :
    s.mastersNoMore.rd .RING_START_STATUS = (s.setB F.RING_START_STATUS_is_master [] false).rd .RING_START_STATUS := by
  rw [State.mastersNoMore, rd_setPadding _ _ _ (by decide), rd_setPadding _ _ _ (by decide)]

theorem isMaster_givesUp (s : State) : s.givesUp.isMaster = false :=
  (State.isMaster_of_rd ((State.rd_of_regs (regs_givesUp s) _ _).trans (rd_start_mastersNoMore s))).trans
    (State.is_setB _ F.RING_START_STATUS_is_master _ _ rfl (by decide))

theorem phase_givesUp (s : State) : s.givesUp.phase = s.phase :=
  (State.phase_of_rd ((State.rd_of_regs (regs_givesUp s) _ _).trans (rd_start_mastersNoMore s))).trans
    (State.get_set_field _ F.RING_START_STATUS_is_master F.RING_START_STATUS_phase _ _ rfl (by decide) (by decide))

theorem mode_givesUp (s : State) : s.givesUp.get F.RING_STATUS_mode = s.get F.RING_STATUS_mode := by
  have hword : s.mastersNoMore.rd .RING_STATUS = s.rd .RING_STATUS := by
    rw [State.mastersNoMore, rd_setPadding _ _ _ (by decide), rd_setPadding _ _ _ (by decide)]
    exact State.rd_wr_ne _ _ _ _ _ _ (by decide)
  exact congrArg (natBits · _ _) ((State.rd_of_regs (regs_givesUp s) _ _).trans hword)

/-- The words that lost cells, the source of domain A and the report change. -/
def partingAddr (a : Nat) : Bool := errorAddr a || a == Reg.TIME_DOM_STATUS.addr [0]

theorem wordsKept_loseFills (s : State) (d : Side) : s.wordsKept (s.loseFills d) errorAddr := by
  have hcount (xs : List SlotFill) (t : State) :
      t.wordsKept (xs.foldl (fun s _ => s.inc F.RING_ERRCNT_cut [sideIx (rxPort d)]) t) errorAddr := by
    induction xs generalizing t with
    | nil => exact t.wordsKept_refl _
    | cons x xs ih => exact State.wordsKept_trans (State.regsOnly_set _ _ _ _ _ (by cases d <;> rfl)).2 (ih _)
  intro a ha
  unfold State.loseFills
  rw [State.regs_setRdir]
  exact hcount _ s a ha

theorem wordsKept_partsFromRing (s : State) : s.wordsKept s.partsFromRing partingAddr := by
  have hfills : s.wordsKept s.forgetSlots errorAddr := State.wordsKept_trans (wordsKept_loseFills s .east) (wordsKept_loseFills _ .west)
  have hshow : s.wordsKept s.forgetSlots.showRing partingAddr :=
    State.wordsKept_trans (fun a ha => hfills a (by simp_all [partingAddr])) (State.regsOnly_set _ _ _ _ _ (by decide)).2
  exact State.wordsKept_trans hshow (State.wordsKept_leaf _ _ _ _ _ fun a ha => by simp [partingAddr, errorAddr, ha])

/-- A master that lapses waits for a reference, master and integrated no more (R135). -/
theorem lapsed_mastershipLapses (h : s.ring.lapsing = true) :
    s.mastershipLapses.phase = 4 ∧ s.mastershipLapses.isMaster = false ∧ s.mastershipLapses.integrated = false := by
  rw [mastershipLapses_of_lapsing h]
  have hkept := wordsKept_partsFromRing s.listensAnew.givesUp
  have hstart := State.wordsKept_rd hkept .RING_START_STATUS [] (by decide)
  have hmode : s.listensAnew.givesUp.partsFromRing.get F.RING_STATUS_mode = 0 :=
    (State.wordsKept_get hkept F.RING_STATUS_mode [] (by decide)).trans ((mode_givesUp _).trans (mode_listensAnew s))
  refine ⟨?_, ?_, ?_⟩
  · exact (State.phase_of_rd hstart).trans ((phase_givesUp _).trans (phase_listensAnew s))
  · exact (State.isMaster_of_rd hstart).trans (isMaster_givesUp _)
  · unfold State.integrated
    rw [hmode]
    rfl

end Sys2Proof.Machine

end

section

/-! A port that comes up (R111, R135): a master that had lost both ports gives up first, the port's records end, and a first port begins
the start-up. -/

namespace Sys2Proof.Machine

variable {s t : State} {p : Side}

/-! The end of a recovery (R490). -/

namespace State.Marks

/-- Clearing a leaf above the benches. -/
theorem leafClear {n : Nat} (hs : s.Marks t causeAddr) (h : 512 ≤ n) (hn : n < 872) : s.Marks (t.leafClear n) causeAddr := by
  have hbench : (decide (n < 512) && n % 32 == 3) = false := by simp; omega
  have hrec {u : State} (hu : s.Marks u causeAddr) : s.Marks (u.wr .CAUSE_REC [n] 0) causeAddr := hu.wr (causeAddr_rec n hn)
  have hword := hs.wr (v := natSetBit (t.rd .CAUSE_LEAF [n / 32]) (n % 32) false) (causeAddr_leaf (n / 32) (by omega))
  unfold State.leafClear
  rw [hbench]
  dsimp only
  split
  · exact hword
  · split
    · next hk => exact (hrec hword).wr (causeAddr_holeAddr (holeAddrIndex_lt hk))
    · exact hrec hword

theorem recovered {n : Nat} (hs : s.Marks t causeAddr) (h : 512 ≤ n) (hn : n < 872) : s.Marks (t.recovered n) causeAddr := by
  have hmark : s.Marks (t.setB F.CAUSE_REC_recovering [n] false) causeAddr := hs.wr (causeAddr_rec n hn)
  unfold State.recovered
  dsimp only
  split
  · split
    · exact hmark
    · exact hmark.leafClear h hn
  · exact hs

end State.Marks

theorem portLeaf_range (p : Side) {i : Nat} (h : i < 7) : 512 ≤ portLeaf p i ∧ portLeaf p i < 872 := by
  cases p <;> (simp [portLeaf, ringLeaf, sideIx]; omega)

/-- The records of a port that is down, or whose training failed, end. -/
def State.portRecovers (s : State) (p : Side) : State := (s.recovered (portLeaf p 0)).recovered (portLeaf p 1)

theorem marks_portRecovers (s : State) (p : Side) : s.Marks (s.portRecovers p) causeAddr := by
  obtain ⟨h0, hlt0⟩ := portLeaf_range p (i := 0) (by decide)
  obtain ⟨h1, hlt1⟩ := portLeaf_range p (i := 1) (by decide)
  exact ((State.Marks.refl s _).recovered h0 hlt0).recovered h1 hlt1

/-! The port itself. -/

/-- The bit of RING_STATUS that shows a port up. -/
def State.upBit (s : State) (p : Side) : Bool := if p = .east then s.is F.RING_STATUS_east_up else s.is F.RING_STATUS_west_up

/-- The bit is set. -/
def State.setUp (s : State) (p : Side) : State :=
  if p = .east then s.setB F.RING_STATUS_east_up [] true else s.setB F.RING_STATUS_west_up [] true

theorem upBit_setUp (s : State) (p : Side) : (s.setUp p).upBit p = true := by
  cases p <;> exact State.is_setB _ _ _ _ rfl (by decide)

theorem upBit_of_rd (h : t.rd .RING_STATUS = s.rd .RING_STATUS) (p : Side) : t.upBit p = s.upBit p := by
  cases p <;> exact congrArg (natBits · _ _ != 0) h

theorem mode_setUp (s : State) (p : Side) : (s.setUp p).get F.RING_STATUS_mode = s.get F.RING_STATUS_mode := by
  cases p <;> exact State.get_set_field _ _ F.RING_STATUS_mode _ _ rfl (by decide) (by decide)

theorem marks_setUp (s : State) (p : Side) : s.Marks (s.setUp p) fun a => a == Reg.RING_STATUS.addr [] := by
  cases p <;> exact (State.Marks.refl s _).wr (by decide)

/-- The port shows up. -/
def State.showsUp (s : State) (p : Side) : State := ((s.setPortState p 6).setUp p).portRecovers p

/-- No header has come since the hello (R116). -/
def State.headerUnseen (s : State) (p : Side) : State := s.setHello p { s.hello p with headerSeen := false }

theorem regs_headerUnseen (s : State) (p : Side) : (s.headerUnseen p).regs = s.regs := State.regs_setHello _ _ _

/-- A first port begins the start-up (R118). -/
def State.startsUp (s : State) : State := s.when (s.phase == 0) fun s => s.setPhase (if s.is F.RING_START_CTRL_cold_start then 1 else 4)

theorem portBecomesUp_eq (s : State) (p : Side) : s.portBecomesUp p = ((s.mastershipLapses.showsUp p).headerUnseen p).startsUp := rfl

/-- The words a port that comes up changes, beside the start-up. -/
def comesUpAddr (p : Side) (a : Nat) : Bool := a == Reg.RING_PORT_STATUS.addr [sideIx p] || a == Reg.RING_STATUS.addr [] || causeAddr a

theorem marks_showsUp (s : State) (p : Side) : s.Marks (s.showsUp p) (comesUpAddr p) := by
  have hport : s.Marks (s.setPortState p 6) (comesUpAddr p) := (State.Marks.refl s _).wr (by simp [comesUpAddr, F.RING_PORT_STATUS_state])
  have hup := (marks_setUp (s.setPortState p 6) p).mono (g := comesUpAddr p) (by simp_all [comesUpAddr])
  have hrecords := (marks_portRecovers ((s.setPortState p 6).setUp p) p).mono (g := comesUpAddr p) (by simp_all [comesUpAddr])
  exact (hport.trans hup).trans hrecords

/-- A word beside the interrupt tree is that of the port's state and bit. -/
theorem rd_showsUp (s : State) (p : Side) {r : Reg} {ix : List Nat} (h : causeAddr (r.addr ix) = false) :
    (s.showsUp p).rd r ix = ((s.setPortState p 6).setUp p).rd r ix := State.regsOnly_rd (marks_portRecovers _ p).1 _ _ h

theorem rd_portStatus_showsUp (s : State) (p : Side) :
    (s.showsUp p).rd .RING_PORT_STATUS [sideIx p] = (s.setPortState p 6).rd .RING_PORT_STATUS [sideIx p] :=
  (rd_showsUp s p (causeAddr_portStatus p)).trans (State.regsOnly_rd (marks_setUp _ p).1 _ _ (by cases p <;> decide))

theorem portState_showsUp (s : State) (p : Side) : (s.showsUp p).portState p = 6 :=
  (congrArg (natBits · _ _) (rd_portStatus_showsUp s p)).trans (portState_setPortState s p 6 (by decide))

/-- What the port shows of its peer stays. -/
theorem get_portStatus_showsUp (s : State) (p : Side) {f : Fld} (hf : f.reg = .RING_PORT_STATUS) (hhi : f.hi < 28) :
    (s.showsUp p).get f [sideIx p] = s.get f [sideIx p] := by
  have hword : (s.showsUp p).get f [sideIx p] = (s.setPortState p 6).get f [sideIx p] := by
    unfold State.get
    rw [hf, rd_portStatus_showsUp]
  exact hword.trans (State.get_set_field _ F.RING_PORT_STATUS_state f _ _ hf (.inr hhi) (by decide))

theorem upBit_showsUp (s : State) (p : Side) : (s.showsUp p).upBit p = true :=
  (upBit_of_rd (rd_showsUp s p (by decide)) p).trans (upBit_setUp _ p)

theorem integrated_showsUp (s : State) (p : Side) : (s.showsUp p).integrated = s.integrated := by
  refine State.integrated_of_mode ((congrArg (natBits · _ _) (rd_showsUp s p (by decide))).trans ((mode_setUp _ p).trans ?_))
  exact State.get_set_ne _ F.RING_PORT_STATUS_state F.RING_STATUS_mode _ _ _ (by cases p <;> decide)

theorem rd_start_showsUp (s : State) (p : Side) : (s.showsUp p).rd .RING_START_STATUS = s.rd .RING_START_STATUS :=
  State.regsOnly_rd (marks_showsUp s p).1 _ _ (by cases p <;> decide)

theorem coldStart_showsUp (s : State) (p : Side) : (s.showsUp p).is F.RING_START_CTRL_cold_start = s.is F.RING_START_CTRL_cold_start :=
  congrArg (· != 0) (State.regsOnly_get (marks_showsUp s p).1 F.RING_START_CTRL_cold_start [] (by cases p <;> decide))

/-! The start-up. -/

theorem marks_startsUp (s : State) : s.Marks s.startsUp fun a => a == Reg.RING_START_STATUS.addr [] :=
  (State.Marks.refl s _).when ((State.Marks.refl s _).wr (by decide))

theorem isMaster_startsUp (s : State) : s.startsUp.isMaster = s.isMaster :=
  State.when_of (P := fun t => t.isMaster = s.isMaster) rfl
    (congrArg (· != 0) (State.get_set_field _ F.RING_START_STATUS_phase F.RING_START_STATUS_is_master _ _ rfl (by decide) (by decide)))

theorem phase_startsUp_first (h : s.phase = 0) : s.startsUp.phase = if s.is F.RING_START_CTRL_cold_start then 1 else 4 := by
  unfold State.startsUp State.when
  rw [if_pos (beq_iff_eq.mpr h)]
  exact phase_setPhase _ (by split <;> decide)

theorem startsUp_of_begun (h : s.phase ≠ 0) : s.startsUp = s := if_neg (by simpa using h)

/-! The port that comes up, in the words of the statements. -/

/-- What a port shows that has come up at a hub that was `s`. -/
def State.comesUp (s : State) (p : Side) (u : State) : Prop :=
  u.portState p = 6 ∧ u.upBit p = true ∧ (s.ring.lapsing = true → u.phase = 4 ∧ u.isMaster = false ∧ u.integrated = false) ∧
    (s.ring.lapsing = false → s.phase = 0 → u.phase = if s.is F.RING_START_CTRL_cold_start then 1 else 4) ∧
    (s.ring.lapsing = false → s.phase ≠ 0 → u.phase = s.phase)

/-- A word beside the phase is that of the port that shows up. -/
theorem rd_portBecomesUp (s : State) (p : Side) (r : Reg) (ix : List Nat) (h : (r.addr ix == Reg.RING_START_STATUS.addr []) = false) :
    (s.portBecomesUp p).rd r ix = (s.mastershipLapses.showsUp p).rd r ix := by
  rw [portBecomesUp_eq, State.regsOnly_rd (marks_startsUp _).1 r ix h, State.rd_of_regs (regs_headerUnseen _ p)]

theorem portBecomesUp_comesUp (s : State) (p : Side) : s.comesUp p (s.portBecomesUp p) := by
  have hstart : ((s.mastershipLapses.showsUp p).headerUnseen p).rd .RING_START_STATUS = s.mastershipLapses.rd .RING_START_STATUS :=
    (State.rd_of_regs (regs_headerUnseen _ p) _ _).trans (rd_start_showsUp _ p)
  have hphase := State.phase_of_rd hstart
  refine ⟨?_, ?_, fun h => ?_, fun h h0 => ?_, fun h h0 => ?_⟩
  · exact (congrArg (natBits · _ _) (rd_portBecomesUp s p .RING_PORT_STATUS _ (by cases p <;> decide))).trans (portState_showsUp _ p)
  · exact (upBit_of_rd (rd_portBecomesUp s p .RING_STATUS [] (by decide)) p).trans (upBit_showsUp _ p)
  · obtain ⟨hfour, hmaster, hint⟩ := lapsed_mastershipLapses h
    have hmode := congrArg (natBits · 25 24) (rd_portBecomesUp s p .RING_STATUS [] (by decide))
    refine ⟨?_, ?_, (State.integrated_of_mode hmode).trans ((integrated_showsUp _ p).trans hint)⟩
    · rw [portBecomesUp_eq, startsUp_of_begun (by rw [hphase, hfour]; decide), hphase, hfour]
    · rw [portBecomesUp_eq, isMaster_startsUp, State.isMaster_of_rd hstart, hmaster]
  · rw [mastershipLapses_of_lasting h] at hphase
    rw [portBecomesUp_eq, mastershipLapses_of_lasting h, phase_startsUp_first (hphase.trans h0),
      State.is_of_regs (regs_headerUnseen _ p), coldStart_showsUp]
  · rw [mastershipLapses_of_lasting h] at hphase
    rw [portBecomesUp_eq, mastershipLapses_of_lasting h, startsUp_of_begun (by rwa [hphase]), hphase]

theorem out_portBecomesUp (s : State) (p : Side) : (s.portBecomesUp p).out = s.out :=
  calc (s.portBecomesUp p).out
    _ = ((s.mastershipLapses.showsUp p).headerUnseen p).out := (marks_startsUp _).2
    _ = (s.mastershipLapses.showsUp p).out := State.out_setHello _ _ _
    _ = s.mastershipLapses.out := (marks_showsUp _ p).2
    _ = s.out := (keepsPort_mastershipLapses s p).outs

/-- What the port shows of its peer stays. -/
theorem get_portStatus_portBecomesUp (s : State) (p : Side) {f : Fld} (hf : f.reg = .RING_PORT_STATUS) (hhi : f.hi < 28) :
    (s.portBecomesUp p).get f [sideIx p] = s.get f [sideIx p] := by
  calc (s.portBecomesUp p).get f [sideIx p]
    _ = (s.mastershipLapses.showsUp p).get f [sideIx p] := by
      rw [State.get, State.get, rd_portBecomesUp s p _ _ (by rw [hf]; cases p <;> decide)]
    _ = s.mastershipLapses.get f [sideIx p] := get_portStatus_showsUp _ p hf hhi
    _ = s.get f [sideIx p] := (keepsPort_mastershipLapses s p).get hf

end Sys2Proof.Machine

end

section

/-! HELLO_SEND and HELLO_RECEIVED (R55, R110 to R112). -/

namespace Sys2Proof.Machine

variable {s t u : State} {p : Side} {blk : Block}

/-! A port in its hello. -/

/-- From `s` to `t` the hello of port `p` is in progress, with no other word changed, and a mastership that lapses still does. -/
structure State.InHello (s : State) (p : Side) (t : State) : Prop where
  state : t.portState p = 5
  words : s.wordsKept t fun a => a == Reg.RING_PORT_STATUS.addr [sideIx p]
  lapsing : t.ring.lapsing = s.ring.lapsing

theorem marks_helloBegins (s : State) (p : Side) : s.Marks (s.helloBegins p) fun a => a == Reg.RING_PORT_STATUS.addr [sideIx p] :=
  (State.Marks.refl s _).when ((State.Marks.refl s _).wr (beq_self_eq_true _))

theorem portState_helloBegins (h : s.portState p = 4 ∨ s.portState p = 5) : (s.helloBegins p).portState p = 5 := by
  unfold State.helloBegins State.when
  split
  · exact portState_setPortState s p 5 (by decide)
  · next h4 => exact h.resolve_left (by simpa using h4)

theorem ring_helloBegins (s : State) (p : Side) : (s.helloBegins p).ring = s.ring := by rw [(marks_helloBegins s p).1.1]

theorem hello_helloBegins (s : State) (p : Side) : (s.clearOut.helloBegins p).hello p = s.hello p := by
  unfold State.hello
  rw [ring_helloBegins]
  rfl

namespace State.InHello

theorem helloBegins (h : s.portState p = 4 ∨ s.portState p = 5) : s.InHello p (s.clearOut.helloBegins p) :=
  ⟨portState_helloBegins h, (marks_helloBegins s.clearOut p).1.2, congrArg RingState.lapsing (ring_helloBegins s.clearOut p)⟩

/-- The words stay, and so does the mark of a mastership that lapses. -/
theorem framed (hs : s.InHello p t) (hregs : u.regs = t.regs) (hlapsing : u.ring.lapsing = t.ring.lapsing) : s.InHello p u :=
  ⟨(State.get_of_regs hregs _ _).trans hs.state, fun a ha => by rw [hregs]; exact hs.words a ha, hlapsing.trans hs.lapsing⟩

theorem setHello {x : HelloState} (hs : s.InHello p t) : s.InHello p (t.setHello p x) :=
  hs.framed (State.regs_setHello _ _ _) (by cases p <;> rfl)

/-- What the port shows of its peer. -/
theorem setPeer {f : Fld} {v : Nat} (hs : s.InHello p t) (hf : f.reg = .RING_PORT_STATUS) (hhi : f.hi < 28) :
    s.InHello p (t.set f [sideIx p] v) :=
  ⟨(State.get_set_field _ f F.RING_PORT_STATUS_state _ _ hf.symm (.inl hhi) (by omega)).trans hs.state,
    State.wordsKept_trans hs.words (State.regsOnly_set _ _ _ _ _ (by simp [hf])).2, hs.lapsing⟩

theorem get (hs : s.InHello p t) (f : Fld) (hf : (f.reg.addr [] == Reg.RING_PORT_STATUS.addr [sideIx p]) = false) : t.get f = s.get f :=
  State.wordsKept_get hs.words f [] hf

theorem hub (hs : s.InHello p t) : t.hub = s.hub := hs.get F.CHIP_HUBNUM_hub_number (by cases p <;> decide)

theorem roundLen (hs : s.InHello p t) : t.get F.RING_CTRL_round_len = s.get F.RING_CTRL_round_len :=
  hs.get F.RING_CTRL_round_len (by cases p <;> decide)

theorem helloRefusal (hs : s.InHello p t) (w : Nat) : t.helloRefusal w = s.helloRefusal w := by
  unfold State.helloRefusal
  rw [hs.hub, hs.roundLen]

/-- A port that comes up in its hello comes up at the hub that was before it. -/
theorem comesUp (hs : s.InHello p t) (h : t.comesUp p u) : s.comesUp p u := by
  have hphase : t.phase = s.phase := hs.get F.RING_START_STATUS_phase (by cases p <;> decide)
  have hcold : t.is F.RING_START_CTRL_cold_start = s.is F.RING_START_CTRL_cold_start :=
    congrArg (· != 0) (hs.get F.RING_START_CTRL_cold_start (by cases p <;> decide))
  unfold State.comesUp at h
  rwa [hs.lapsing, hphase, hcold] at h

end State.InHello

/-! Three acks in a row, received and sent (R111). -/

theorem helloCheck_complete (hs : s.InHello p t) (hrx : 3 ≤ (t.hello p).rxAcks) (htx : 3 ≤ (t.hello p).txAcks) :
    t.helloCheck p = t.portBecomesUp p := if_pos ⟨hs.state, hrx, htx⟩

theorem helloCheck_incomplete (h : (t.hello p).rxAcks < 3 ∨ (t.hello p).txAcks < 3) : t.helloCheck p = t := if_neg (by omega)

theorem satInc_three {n : Nat} (h : 2 ≤ n) : satInc n 3 = 3 := by
  unfold satInc
  split <;> omega

/-! HELLO_SEND: a hello block, and idle blocks up to the next one. -/

/-- Idle blocks that leave are an output and nothing else beside the lanes. -/
theorem State.sendIdles_eq (s : State) (p : Side) {n : Nat} (h : n ≠ 0) : ∃ scram line,
    s.sendIdles p n = { s with ring := { s.ring with scram := scram }, line := line, out := s.out ++ [.idles p n] } := by
  have hblocks (xs : List Nat) (t : State) : ∃ scram line,
      xs.foldl (fun s k => s.sendBlock p (k % 2) true (blockOf idleBlock)) t =
        { t with ring := { t.ring with scram := scram }, line := line } := by
    induction xs generalizing t with
    | nil => exact ⟨_, _, rfl⟩
    | cons x xs ih =>
      obtain ⟨_, _, hone⟩ := t.sendBlock_eq p (x % 2) true (blockOf idleBlock)
      obtain ⟨_, _, hrest⟩ := ih (t.sendBlock p (x % 2) true (blockOf idleBlock))
      rw [List.foldl_cons, hrest, hone]
      exact ⟨_, _, rfl⟩
  obtain ⟨_, _, hsent⟩ := hblocks (List.range n) (s.emit (.idles p n))
  rw [State.sendIdles, if_neg h, hsent]
  exact ⟨_, _, rfl⟩

theorem State.out_sendIdles (s : State) (p : Side) {n : Nat} (h : n ≠ 0) : (s.sendIdles p n).out = s.out ++ [.idles p n] := by
  obtain ⟨_, _, hsent⟩ := s.sendIdles_eq p h
  rw [hsent]

/-- A hello block that acknowledges a peer it takes, and the idle blocks of a microsecond. -/
def State.sendsHello (s : State) (p : Side) : State :=
  (s.sendControl p (blockOf (helloBlock s.hub (s.get F.RING_CTRL_round_len) (s.hello p).compatible))).sendIdles p 799

/-- The hello after a block of it was sent. -/
def HelloState.acks (x : HelloState) : HelloState := { x with txAcks := if x.compatible then satInc x.txAcks 3 else 0 }

theorem acks_of_misfit {x : HelloState} (h : x.compatible = false) : x.acks = { x with txAcks := 0 } := by
  rw [HelloState.acks, if_neg (by simp [h])]

theorem acks_of_fit {x : HelloState} (h : x.compatible = true) : x.acks = { x with txAcks := satInc x.txAcks 3 } := by
  rw [HelloState.acks, if_pos h]

theorem State.out_sendsHello (s : State) (p : Side) : (s.sendsHello p).out =
    s.out ++ [.control p (blockOf (helloBlock s.hub (s.get F.RING_CTRL_round_len) (s.hello p).compatible)), .idles p 799] := by
  rw [State.sendsHello, State.out_sendIdles _ _ (by decide), State.out_sendControl, List.append_assoc]
  rfl

namespace State.InHello

theorem sendControl {b : Block} (hs : s.InHello p t) : s.InHello p (t.sendControl p b) := by
  obtain ⟨_, _, h⟩ := t.sendControl_eq p b
  rw [h]
  exact hs.framed rfl rfl

theorem sendIdles {n : Nat} (hs : s.InHello p t) (hn : n ≠ 0) : s.InHello p (t.sendIdles p n) := by
  obtain ⟨_, _, h⟩ := t.sendIdles_eq p hn
  rw [h]
  exact hs.framed rfl rfl

theorem sendsHello (hs : s.InHello p t) : s.InHello p (t.sendsHello p) := hs.sendControl.sendIdles (by decide)

end State.InHello

/-- The state after a hello block was sent. -/
def State.helloSent (s : State) (p : Side) : State := ((s.clearOut.helloBegins p).sendsHello p).setHello p (s.hello p).acks

theorem exec_helloSend (hup : s.down .ring = false) (hport : s.portState p = 4 ∨ s.portState p = 5) :
    exec (.helloSend p) s = .next ((s.helloSent p).helloCheck p) := by
  refine (if_neg (by simp [hup])).trans ((if_pos hport).trans ?_)
  rw [State.helloSent, ← hello_helloBegins s p]
  rfl

/-- What was sent, and the hello after it. -/
theorem helloSent_result (hport : s.portState p = 4 ∨ s.portState p = 5) :
    s.InHello p (s.helloSent p) ∧ (s.helloSent p).hello p = (s.hello p).acks ∧
      (s.helloSent p).out =
        [.control p (blockOf (helloBlock s.hub (s.get F.RING_CTRL_round_len) (s.hello p).compatible)), .idles p 799] := by
  have hbegun := State.InHello.helloBegins hport
  refine ⟨.setHello (.sendsHello hbegun), State.hello_setHello _ _ _, ?_⟩
  rw [State.helloSent, State.out_setHello, State.out_sendsHello, hbegun.hub, hbegun.roundLen, hello_helloBegins]
  exact congrArg (· ++ _) (marks_helloBegins s.clearOut p).2

theorem exec_helloSend_incomplete (hup : s.down .ring = false) (hport : s.portState p = 4 ∨ s.portState p = 5)
    (h : (s.hello p).compatible = false ∨ (s.hello p).rxAcks < 3) : exec (.helloSend p) s = .next (s.helloSent p) := by
  obtain ⟨-, hhello, -⟩ := helloSent_result hport
  rw [exec_helloSend hup hport, helloCheck_incomplete]
  rw [hhello]
  obtain h | h := h
  · exact .inr (by rw [acks_of_misfit h]; exact Nat.succ_pos 2)
  · exact .inl h

theorem exec_helloSend_complete (hup : s.down .ring = false) (hport : s.portState p = 4 ∨ s.portState p = 5)
    (hfits : (s.hello p).compatible = true) (hrx : 3 ≤ (s.hello p).rxAcks) (htx : 2 ≤ (s.hello p).txAcks) :
    exec (.helloSend p) s = .next ((s.helloSent p).portBecomesUp p) := by
  obtain ⟨hin, hhello, -⟩ := helloSent_result hport
  rw [exec_helloSend hup hport, helloCheck_complete hin (by rw [hhello]; exact hrx)]
  rw [hhello, acks_of_fit hfits]
  exact (satInc_three htx).ge

/-! HELLO_RECEIVED: the peer is shown, and it is refused or answered. -/

/-- The port shows the hub a sound block names. -/
def State.peerShown (s : State) (p : Side) (w : Nat) : State :=
  ((s.clearOut.helloBegins p).set F.RING_PORT_STATUS_peer_hub [sideIx p] (natBits w 55 50)).setB
    F.RING_PORT_STATUS_peer_valid [sideIx p] true

theorem inHello_peerShown (hport : s.portState p = 4 ∨ s.portState p = 5) (w : Nat) : s.InHello p (s.peerShown p w) :=
  .setPeer (.setPeer (.helloBegins hport) rfl (by decide)) rfl (by decide)

theorem peer_peerShown (s : State) (p : Side) (w : Nat) :
    (s.peerShown p w).get F.RING_PORT_STATUS_peer_hub [sideIx p] = natBits w 55 50 ∧
      (s.peerShown p w).is F.RING_PORT_STATUS_peer_valid [sideIx p] = true := by
  refine ⟨?_, State.is_setB _ _ _ _ rfl (by decide)⟩
  refine (State.get_set_field _ F.RING_PORT_STATUS_peer_valid F.RING_PORT_STATUS_peer_hub _ _ rfl (by decide) (by decide)).trans ?_
  exact (State.get_set _ _ _ _ (by decide) (by decide)).trans (Nat.mod_eq_of_lt (natBits_lt w 55 50))

/-- The hello after a block that fits. -/
def HelloState.fits (x : HelloState) (ack : Bool) : HelloState :=
  { x with compatible := true, refused := false, rxAcks := if ack then satInc x.rxAcks 3 else 0 }

/-- The hello after a block that does not fit. -/
def HelloState.refuses (x : HelloState) : HelloState := { x with compatible := false, rxAcks := 0, txAcks := 0, refused := true }

/-- A block that fits was taken. -/
def State.helloFits (s : State) (p : Side) (w : Nat) : State := (s.peerShown p w).setHello p ((s.hello p).fits (natBit w 35))

theorem inHello_helloFits (hport : s.portState p = 4 ∨ s.portState p = 5) (w : Nat) : s.InHello p (s.helloFits p w) :=
  .setHello (inHello_peerShown hport w)

/-- A block that does not fit was taken. -/
def State.helloRefused (s : State) (p : Side) (w : Nat) : State := (s.peerShown p w).setHello p (s.hello p).refuses

section

variable (hup : s.down .ring = false) (hport : s.portState p = 4 ∨ s.portState p = 5)

include hup hport

theorem exec_helloReceived_unsound (hbad : controlSound blk.toNat 0xB6 = false) :
    exec (.helloReceived p blk) s = .next ((s.clearOut.helloBegins p).setHello p { s.hello p with rxAcks := 0 }) := by
  rw [← hello_helloBegins s p]
  exact (if_neg (by simp [hup])).trans ((if_pos hport).trans (if_neg (by simp [hbad])))

theorem exec_helloReceived_fits (hsound : controlSound blk.toNat 0xB6 = true) (hfits : s.helloRefusal blk.toNat = none) :
    exec (.helloReceived p blk) s = .next ((s.helloFits p blk.toNat).helloCheck p) := by
  have hnone := ((inHello_peerShown hport blk.toNat).helloRefusal blk.toNat).trans hfits
  refine (if_neg (by simp [hup])).trans ((if_pos hport).trans ((if_pos hsound).trans ?_))
  rw [State.helloFits, ← hello_helloBegins s p]
  dsimp only
  rw [State.peerShown] at hnone ⊢
  rw [hnone]
  rfl

theorem exec_helloReceived_complete (hsound : controlSound blk.toNat 0xB6 = true) (hfits : s.helloRefusal blk.toNat = none)
    (hack : natBit blk.toNat 35 = true) (hrx : 2 ≤ (s.hello p).rxAcks) (htx : 3 ≤ (s.hello p).txAcks) :
    exec (.helloReceived p blk) s = .next ((s.helloFits p blk.toNat).portBecomesUp p) := by
  have hhello : (s.helloFits p blk.toNat).hello p = (s.hello p).fits true := by rw [State.helloFits, State.hello_setHello, hack]
  rw [exec_helloReceived_fits hup hport hsound hfits, helloCheck_complete (inHello_helloFits hport _)]
  · rw [hhello]
    exact (satInc_three hrx).ge
  · rw [hhello]
    exact htx

theorem exec_helloReceived_refused {cnt : Fld} (hsound : controlSound blk.toNat 0xB6 = true)
    (hrefuses : s.helloRefusal blk.toNat = some cnt) (hfirst : (s.hello p).refused = false) :
    exec (.helloReceived p blk) s = .next (((s.helloRefused p blk.toNat).inc cnt).leaf (portLeaf p 2) (sideIx p)) := by
  have hsome := ((inHello_peerShown hport blk.toNat).helloRefusal blk.toNat).trans hrefuses
  refine (if_neg (by simp [hup])).trans ((if_pos hport).trans ((if_pos hsound).trans ?_))
  rw [← hello_helloBegins s p] at hfirst
  rw [State.helloRefused, ← hello_helloBegins s p]
  dsimp only
  rw [State.peerShown] at hsome ⊢
  rw [hsome]
  exact congrArg Host.Outcome.next (if_neg (by simp [hfirst]))

end

theorem out_helloFits (s : State) (p : Side) (w : Nat) : (s.helloFits p w).out = [] :=
  (State.out_setHello _ _ _).trans (marks_helloBegins s.clearOut p).2

theorem peer_helloFits (s : State) (p : Side) (w : Nat) :
    (s.helloFits p w).get F.RING_PORT_STATUS_peer_hub [sideIx p] = natBits w 55 50 ∧
      (s.helloFits p w).is F.RING_PORT_STATUS_peer_valid [sideIx p] = true := by
  have hregs : (s.helloFits p w).regs = (s.peerShown p w).regs := State.regs_setHello _ _ _
  rw [State.get_of_regs hregs, State.is_of_regs hregs]
  exact peer_peerShown s p w

/-- The counters of refused hellos (R112). -/
theorem counter_of_helloRefusal {cnt : Fld} {w : Nat} (h : s.helloRefusal w = some cnt) :
    cnt.reg = .RING_REFUSE_CNT ∧ cnt.lo ≤ cnt.hi ∧ cnt.hi < 32 ∧ cnt.top = 255 := by
  unfold State.helloRefusal at h
  repeat' split at h
  all_goals cases h
  all_goals exact ⟨rfl, by decide, by decide, rfl⟩

theorem offPort_refuseCounter (p : Side) {cnt : Fld} (h : cnt.reg = .RING_REFUSE_CNT) : offPort p cnt.reg [] := by
  rw [h]
  cases p <;> exact ⟨by decide, by decide, by decide⟩

/-- A refusal is counted and reported, and says nothing else of the port. -/
theorem refused_result {cnt : Fld} {w : Nat} (hport : s.portState p = 4 ∨ s.portState p = 5) (hrefuses : s.helloRefusal w = some cnt) :
    let u := ((s.helloRefused p w).inc cnt).leaf (portLeaf p 2) (sideIx p)
    u.portState p = 5 ∧ u.get cnt = satInc (s.get cnt) 255 ∧ u.leafSet (portLeaf p 2) = true ∧ u.hello p = (s.hello p).refuses := by
  intro u
  obtain ⟨hreg, hle, h32, htop⟩ := counter_of_helloRefusal hrefuses
  have hin : s.InHello p (s.helloRefused p w) := .setHello (inHello_peerShown hport w)
  have hassigned := leafAssigned_portError p (i := 2) (by decide)
  have hkeeps : (s.helloRefused p w).KeepsPort p u := .setLeaf (.set (.refl _) (offPort_refuseCounter p hreg)) hassigned
  refine ⟨?_, ?_, State.leafSet_leaf _ _ _ _ _ hassigned, ?_⟩
  · exact (hkeeps.get (f := F.RING_PORT_STATUS_state) rfl).trans hin.state
  · rw [State.get_leaf _ _ _ _ _ _ _ (by rw [hreg]; rfl), State.get_inc _ _ _ hle h32, htop,
      hin.get cnt (by rw [hreg]; cases p <;> decide)]
  · exact hkeeps.hello.trans (State.hello_setHello _ _ _)

end Sys2Proof.Machine

end

section

/-! The phases of a cold start, and its contend blocks (R118 to R122). -/

namespace Sys2Proof.Machine

variable {s t : State} {p : Side} {blk : Block}

/-- The word that shows the phase. -/
def phaseAddr (a : Nat) : Bool := a == Reg.RING_START_STATUS.addr []

theorem marks_setPhase (s : State) (v : Nat) : s.Marks (s.setPhase v) phaseAddr := (State.Marks.refl s _).wr (by decide)

theorem marks_setCandidate (s : State) (h : Nat) : s.Marks (s.set F.RING_START_STATUS_best_candidate [] h) phaseAddr :=
  (State.Marks.refl s _).wr (by decide)

theorem phase_setCandidate (s : State) (h : Nat) : (s.set F.RING_START_STATUS_best_candidate [] h).phase = s.phase :=
  State.get_set_field _ F.RING_START_STATUS_best_candidate F.RING_START_STATUS_phase _ _ rfl (by decide) (by decide)

theorem candidate_setCandidate (s : State) (h : Nat) :
    (s.set F.RING_START_STATUS_best_candidate [] h).get F.RING_START_STATUS_best_candidate = h % 64 :=
  State.get_set _ _ _ _ (by decide) (by decide)

theorem candidate_setPhase (s : State) (v : Nat) :
    (s.setPhase v).get F.RING_START_STATUS_best_candidate = s.get F.RING_START_STATUS_best_candidate :=
  State.get_set_field _ F.RING_START_STATUS_phase F.RING_START_STATUS_best_candidate _ _ rfl (by decide) (by decide)

/-- The pair seen lowest, with the time it was seen. -/
def State.noted (s : State) (seen : Option (Nat × Nat)) : State := { s with ring := { s.ring with bestSeen := seen } }

theorem regs_noted (s : State) (seen : Option (Nat × Nat)) : (s.noted seen).regs = s.regs := rfl

theorem ring_noted (s : State) (seen : Option (Nat × Nat)) : (s.noted seen).ring = { s.ring with bestSeen := seen } := rfl

/-! LISTEN_WINDOW_END and BACKOFF_END. -/

theorem exec_listenWindowEnd (hup : s.down .ring = false) (h : s.phase = 1) : exec .listenWindowEnd s = .next (s.clearOut.setPhase 2) :=
  (if_neg (by simp [hup])).trans (congrArg Host.Outcome.next (if_pos (beq_iff_eq.mpr h)))

/-- A hub that begins to contend stands as the best candidate it has seen. -/
def State.contends (s : State) : State :=
  let t := (s.setPhase 3).set F.RING_START_STATUS_best_candidate [] s.hub
  t.noted (some (s.ownPair, s.now .a))

theorem marks_contendWords (s : State) : s.Marks ((s.setPhase 3).set F.RING_START_STATUS_best_candidate [] s.hub) phaseAddr :=
  (marks_setPhase s 3).trans (marks_setCandidate _ _)

theorem ownPair_of_kept (h : s.wordsKept t phaseAddr) : t.ownPair = s.ownPair := by
  unfold State.ownPair State.hub
  rw [State.wordsKept_get h F.RING_START_CTRL_rank _ (by decide), State.wordsKept_get h F.CHIP_HUBNUM_hub_number _ (by decide)]

theorem now_of_time (h : t.time = s.time) (d : Dom) : t.now d = s.now d := congrArg DomainState.t (State.dom_of_time (d := d) h)

theorem exec_backoffEnd (hup : s.down .ring = false) (h : s.phase = 2) : exec .backoffEnd s = .next s.clearOut.contends := by
  have hmarks := marks_contendWords s.clearOut
  refine (if_neg (by simp [hup])).trans (congrArg Host.Outcome.next ((if_pos (beq_iff_eq.mpr h)).trans ?_))
  rw [State.contends, ← ownPair_of_kept hmarks.1.2, ← now_of_time (State.time_of_regsOnly hmarks.1) .a]
  rfl

theorem backoffEnd_result (hup : s.down .ring = false) (h : s.phase = 2) :
    ∃ u, exec .backoffEnd s = .next u ∧ u.phase = 3 ∧ u.get F.RING_START_STATUS_best_candidate = s.hub % 64 ∧
      s.wordsKept u phaseAddr ∧ u.ring = { s.ring with bestSeen := some (s.ownPair, s.now .a) } := by
  have hmarks := marks_contendWords s.clearOut
  refine ⟨_, exec_backoffEnd hup h, ?_, ?_, hmarks.1.2, ?_⟩
  · exact (State.get_of_regs (regs_noted _ _) _ _).trans ((phase_setCandidate _ _).trans (phase_setPhase _ (by decide)))
  · exact (State.get_of_regs (regs_noted _ _) _ _).trans (candidate_setCandidate _ _)
  · rw [State.contends, ring_noted, hmarks.1.1]
    rfl

/-! CONTEND_SEND. -/

/-- Of a contend block that goes out, the words, the time and the best candidate know nothing. -/
structure State.OnlySends (s t : State) : Prop where
  regs : t.regs = s.regs
  time : t.time = s.time
  best : t.ring.bestSeen = s.ring.bestSeen

namespace State.OnlySends

variable {s₀ : State}

theorem refl (s : State) : s.OnlySends s := ⟨rfl, rfl, rfl⟩

theorem sendControl {d : Side} {b : Block} (hs : s₀.OnlySends s) : s₀.OnlySends (s.sendControl d b) := by
  obtain ⟨_, _, h⟩ := s.sendControl_eq d b
  rw [h]
  exact ⟨hs.regs, hs.time, hs.best⟩

theorem contended {pair : Nat} (hs : s₀.OnlySends s) : s₀.OnlySends (s.contended pair) := ⟨hs.regs, hs.time, hs.best⟩

end State.OnlySends

theorem out_contended (s : State) (pair : Nat) : (s.contended pair).out = s.out := rfl

theorem portUp_of_regs (h : t.regs = s.regs) (p : Side) : t.portUp p = s.portUp p := by
  unfold State.portUp State.portState
  rw [State.get_of_regs h]

/-- Both ports send one contend block. -/
def State.sendsContend (s : State) (b : Block) (pair : Nat) : State := ((s.sendControl .east b).sendControl .west b).contended pair

/-- A port that is up sends the block. -/
def State.sendsUp (s : State) (d : Side) (b : Block) : State := s.when (s.portUp d) fun s => s.sendControl d b

theorem sendsUp_of_up {d : Side} (h : s.portUp d = true) (b : Block) : s.sendsUp d b = s.sendControl d b := if_pos h

theorem exec_contendSend (hup : s.down .ring = false) (h : s.phase = 3) (heast : s.portUp .east = true) (hwest : s.portUp .west = true) :
    exec .contendSend s =
      .next (s.clearOut.sendsContend (blockOf (contendBlock s.hub (s.get F.RING_START_CTRL_rank))) s.ownPair) := by
  have hshape (b : Block) (hb : b = blockOf (contendBlock s.hub (s.get F.RING_START_CTRL_rank))) : exec .contendSend s =
      .next (((s.clearOut.sendsUp .east b).sendsUp .west b).when (((s.clearOut.sendsUp .east b).sendsUp .west b).portUp .east ||
        ((s.clearOut.sendsUp .east b).sendsUp .west b).portUp .west) fun s => s.contended s.ownPair) := by
    subst hb
    exact (if_neg (by simp [hup])).trans (if_pos h)
  have hfirst (b : Block) : s.clearOut.OnlySends (s.clearOut.sendControl .east b) := (State.OnlySends.refl _).sendControl
  have hboth (b : Block) := (hfirst b).sendControl (d := .west) (b := b)
  rw [hshape _ rfl, sendsUp_of_up (s := s.clearOut) heast, sendsUp_of_up ((portUp_of_regs (hfirst _).regs _).trans hwest)]
  refine congrArg Host.Outcome.next ((if_pos ?_).trans ?_)
  · rw [portUp_of_regs (hboth _).regs]
    exact Bool.or_eq_true_iff.mpr (.inl heast)
  · exact congrArg (State.contended _) (ownPair_of_kept (s := s) fun a _ => congrArg (smGet · a 0) (hboth _).regs)

theorem contendSend_result (hup : s.down .ring = false) (h : s.phase = 3) (heast : s.portUp .east = true) (hwest : s.portUp .west = true) :
    ∃ u, exec .contendSend s = .next u ∧
      u.out = [.control .east (blockOf (contendBlock s.hub (s.get F.RING_START_CTRL_rank))),
        .control .west (blockOf (contendBlock s.hub (s.get F.RING_START_CTRL_rank)))] ∧ u.regs = s.regs := by
  refine ⟨_, exec_contendSend hup h heast hwest, ?_, ?_⟩
  · rw [State.sendsContend, out_contended, State.out_sendControl, State.out_sendControl]
    rfl
  · exact (State.OnlySends.refl s.clearOut).sendControl.sendControl.contended.regs

/-! CONTEND_RECEIVED: relayed, noted, and yielded to. -/

theorem lowerPair_of_time (h : t.time = s.time) (seen : Option (Nat × Nat)) (pair : Nat) :
    t.lowerPair seen pair = s.lowerPair seen pair := by
  unfold State.lowerPair
  rw [now_of_time h]

/-- A candidate stops contending for a lower pair. -/
def State.yieldsTo (s : State) (pair : Nat) : State :=
  s.when ((s.phase == 2 || s.phase == 3) && pair < s.ownPair) fun s => s.setPhase 4

theorem candidateSeen_lower (h : s.lowerPair s.ring.bestSeen pair = true) : s.candidateSeen pair = s := if_pos h

theorem candidateSeen_lowest (h : s.lowerPair s.ring.bestSeen pair = false) : s.candidateSeen pair =
    (s.set F.RING_START_STATUS_best_candidate [] (pair % 64)).noted (some (pair, s.now .a)) := by
  rw [← now_of_time (State.time_set s F.RING_START_STATUS_best_candidate [] (pair % 64))]
  exact if_neg (by simp [h])

/-- The words a seen candidate leaves, and the outputs. -/
theorem candidateSeen_result (s : State) (pair : Nat) :
    s.wordsKept (s.candidateSeen pair) phaseAddr ∧ (s.candidateSeen pair).out = s.out ∧ (s.candidateSeen pair).phase = s.phase ∧
      (s.lowerPair s.ring.bestSeen pair = false → (s.candidateSeen pair).get F.RING_START_STATUS_best_candidate = pair % 64) := by
  cases h : s.lowerPair s.ring.bestSeen pair with
  | true =>
    rw [candidateSeen_lower h]
    exact ⟨s.wordsKept_refl _, rfl, rfl, fun h' => by cases h'⟩
  | false =>
    rw [candidateSeen_lowest h]
    have hmarks := marks_setCandidate s (pair % 64)
    refine ⟨hmarks.1.2, hmarks.2, ?_, fun _ => ?_⟩
    · exact (State.get_of_regs (regs_noted _ _) _ _).trans (phase_setCandidate _ _)
    · refine (State.get_of_regs (regs_noted _ _) _ _).trans ((candidate_setCandidate _ _).trans (Nat.mod_mod _ _))

theorem yieldsTo_result (s : State) (pair : Nat) :
    s.Marks (s.yieldsTo pair) phaseAddr ∧
      (s.yieldsTo pair).get F.RING_START_STATUS_best_candidate = s.get F.RING_START_STATUS_best_candidate ∧
      (s.phase = 2 ∨ s.phase = 3 → (s.yieldsTo pair).phase = if pair < s.ownPair then 4 else s.phase) := by
  refine ⟨(State.Marks.refl s _).when (marks_setPhase s 4), ?_, fun h => ?_⟩
  · exact State.when_of (P := fun t => t.get F.RING_START_STATUS_best_candidate = s.get F.RING_START_STATUS_best_candidate) rfl
      (candidate_setPhase s 4)
  · have hcontends : (s.phase == 2 || s.phase == 3) = true := by simpa using h
    unfold State.yieldsTo State.when
    rw [hcontends, Bool.true_and]
    by_cases hlower : pair < s.ownPair
    · rw [if_pos (decide_eq_true hlower), if_pos hlower]
      exact phase_setPhase s (by decide)
    · rw [if_neg (by simpa using hlower), if_neg hlower]

/-- What follows the relaying of a contend block. -/
theorem contendTaken_result (hs : s.OnlySends t) (pair : Nat) :
    let u := (t.candidateSeen pair).yieldsTo pair
    u.out = t.out ∧ (s.lowerPair s.ring.bestSeen pair = false → u.get F.RING_START_STATUS_best_candidate = pair % 64) ∧
      s.wordsKept u phaseAddr ∧ (s.phase = 2 ∨ s.phase = 3 → u.phase = if pair < s.ownPair then 4 else s.phase) := by
  intro u
  obtain ⟨hkept, hout, hphase, hbest⟩ := candidateSeen_result t pair
  obtain ⟨hmarks, hcandidate, hyields⟩ := yieldsTo_result (t.candidateSeen pair) pair
  have hwords : s.wordsKept (t.candidateSeen pair) phaseAddr := fun a ha => (hkept a ha).trans (by rw [hs.regs])
  have hphase' : (t.candidateSeen pair).phase = s.phase := hphase.trans (State.get_of_regs hs.regs _ _)
  rw [hphase', ownPair_of_kept hwords] at hyields
  refine ⟨hmarks.2.trans hout, fun h => ?_, State.wordsKept_trans hwords hmarks.1.2, hyields⟩
  rw [← lowerPair_of_time hs.time, ← hs.best] at h
  exact hcandidate.trans (hbest h)

/-- The pair a contend block names (R120). -/
def contendPair (w : Nat) : Nat := natBits w 49 46 * 64 + natBits w 55 50

theorem contendPair_hub (w : Nat) : contendPair w % 64 = natBits w 55 50 := by
  have hlt : natBits w 55 50 < 64 := natBits_lt w 55 50
  unfold contendPair
  omega

/-- A contend block goes out of a port again. -/
def State.relays (s : State) (d : Side) (b : Block) (pair : Nat) : State := (s.sendControl d b).contended pair

theorem exec_contendReceived (hup : s.down .ring = false) (hport : s.portUp p = true) (hsound : controlSound blk.toNat 0xB7 = true) :
    exec (.contendReceived p blk) s =
      .next (((s.clearOut.when (!s.lowerContend (contendPair blk.toNat) && s.portUp (otherSide p)) fun s =>
        s.relays (otherSide p) blk (contendPair blk.toNat)).candidateSeen (contendPair blk.toNat)).yieldsTo (contendPair blk.toNat)) :=
  (if_neg (by simp [hup])).trans (if_pos ⟨hport, hsound⟩)

theorem exec_contendReceived_relayed (hup : s.down .ring = false) (hport : s.portUp p = true) (hsound : controlSound blk.toNat 0xB7 = true)
    (hlowest : s.lowerContend (contendPair blk.toNat) = false) (hother : s.portUp (otherSide p) = true) :
    ∃ t, s.OnlySends t ∧ t.out = [.control (otherSide p) blk] ∧
      exec (.contendReceived p blk) s = .next ((t.candidateSeen (contendPair blk.toNat)).yieldsTo (contendPair blk.toNat)) := by
  refine ⟨s.clearOut.relays (otherSide p) blk (contendPair blk.toNat), ?_, ?_, ?_⟩
  · exact .contended (.sendControl ⟨rfl, rfl, rfl⟩)
  · rw [State.relays, out_contended, State.out_sendControl]
    rfl
  · rw [exec_contendReceived hup hport hsound, hlowest, hother]
    rfl

theorem exec_contendReceived_kept (hup : s.down .ring = false) (hport : s.portUp p = true) (hsound : controlSound blk.toNat 0xB7 = true)
    (hkept : s.lowerContend (contendPair blk.toNat) = true ∨ s.portUp (otherSide p) = false) :
    exec (.contendReceived p blk) s = .next ((s.clearOut.candidateSeen (contendPair blk.toNat)).yieldsTo (contendPair blk.toNat)) := by
  have hrelay : (!s.lowerContend (contendPair blk.toNat) && s.portUp (otherSide p)) = false := by
    obtain h | h := hkept <;> simp [h]
  rw [exec_contendReceived hup hport hsound, hrelay]
  rfl

/-! CONTENTION_WINDOW_END: the winner (R122). -/

/-- The hub shows itself master. -/
def State.showsMaster (s : State) : State :=
  (((s.setB F.RING_START_STATUS_is_master [] true).set F.RING_STATUS_master_hub [] s.hub).set F.RING_START_STATUS_backup_pos [] 0).setB
    F.RING_START_STATUS_no_master [] false

/-- A master is no backup and misses no reference. -/
def State.needsNoBackup (s : State) : State :=
  { s with ring := { s.ring with backups := s.ring.backups.filter (fun h => h != s.hub), refMissing := 0, lossRounds := none } }

theorem takeMastership_eq (s : State) : s.takeMastership = s.showsMaster.needsNoBackup.showRing.leaf (ringLeaf 22) := rfl

theorem regs_needsNoBackup (s : State) : s.needsNoBackup.regs = s.regs := rfl

/-- A word beside the interrupt tree and the source of domain A is that of the hub that shows itself master. -/
theorem rd_takeMastership (s : State) (r : Reg) (ix : List Nat) (hcause : causeAddr (r.addr ix) = false)
    (htime : r.addr ix ≠ Reg.TIME_DOM_STATUS.addr [0]) : s.takeMastership.rd r ix = s.showsMaster.rd r ix := by
  rw [takeMastership_eq, State.rd_leaf _ _ _ _ _ _ _ hcause]
  exact (State.rd_wr_ne _ _ _ _ _ _ htime).trans (State.rd_of_regs (regs_needsNoBackup _) _ _)

/-- A field of RING_START_STATUS apart from the places of the backups. -/
theorem get_start_showsMaster (s : State) {f : Fld} (hf : f.reg = .RING_START_STATUS) (hlo : 23 < f.lo ∨ f.hi = 18 ∧ f.lo = 18) :
    s.showsMaster.get f = (s.setB F.RING_START_STATUS_is_master [] true).get f := by
  have hbits : (17 < f.lo ∨ f.hi < 17) ∧ (23 < f.lo ∨ f.hi < 19) := by omega
  unfold State.showsMaster
  rw [State.setB, State.get_set_field _ F.RING_START_STATUS_no_master f _ _ hf hbits.1 (by decide),
    State.get_set_field _ F.RING_START_STATUS_backup_pos f _ _ hf hbits.2 (by decide),
    State.get_set_ne _ F.RING_STATUS_master_hub f _ _ _ (by rw [hf]; decide)]

theorem masterHub_showsMaster (s : State) : s.showsMaster.get F.RING_STATUS_master_hub = s.hub % 64 := by
  unfold State.showsMaster
  rw [State.setB, State.get_set_ne _ F.RING_START_STATUS_no_master F.RING_STATUS_master_hub _ _ _ (by decide),
    State.get_set_ne _ F.RING_START_STATUS_backup_pos F.RING_STATUS_master_hub _ _ _ (by decide)]
  exact State.get_set _ _ _ _ (by decide) (by decide)

/-- A hub that takes mastership shows it, and keeps its phase (R122, R134). -/
theorem takeMastership_result (s : State) :
    s.takeMastership.phase = s.phase ∧ s.takeMastership.isMaster = true ∧ s.takeMastership.get F.RING_STATUS_master_hub = s.hub % 64 ∧
      s.takeMastership.leafSet (ringLeaf 22) = true := by
  have hstart := rd_takeMastership s .RING_START_STATUS [] rfl (by decide)
  refine ⟨?_, ?_, ?_, State.leafSet_leaf _ _ _ _ _ (by decide)⟩
  · refine (State.phase_of_rd hstart).trans ((get_start_showsMaster s (f := F.RING_START_STATUS_phase) rfl (.inl (by decide))).trans ?_)
    exact State.get_set_field _ F.RING_START_STATUS_is_master F.RING_START_STATUS_phase _ _ rfl (by decide) (by decide)
  · refine (State.isMaster_of_rd hstart).trans ?_
    unfold State.isMaster State.is
    rw [get_start_showsMaster s (f := F.RING_START_STATUS_is_master) rfl (.inr ⟨rfl, rfl⟩)]
    exact State.is_setB s F.RING_START_STATUS_is_master [] true rfl (by decide)
  · exact (congrArg (natBits · _ _) (rd_takeMastership s .RING_STATUS [] rfl (by decide))).trans (masterHub_showsMaster s)

/-- The winner has its round by the time core, and its start-up is over. -/
def State.counts (s : State) (r : Nat) : State := (s.setRound r).setPhase 6

theorem hub_counts (s : State) (r : Nat) : (s.counts r).hub = s.hub := by
  unfold State.counts State.setPhase State.setRound State.hub
  rw [State.get_set_ne _ F.RING_START_STATUS_phase F.CHIP_HUBNUM_hub_number _ _ _ (by decide),
    State.get_wr_ne _ F.CHIP_HUBNUM_hub_number _ _ _ _ (by decide), State.get_wr_ne _ F.CHIP_HUBNUM_hub_number _ _ _ _ (by decide)]

theorem round_counts (s : State) (r : Nat) : (s.counts r).round = r % 2 ^ 64 :=
  (State.KeepsRound.setStart (v := true) (f := F.RING_START_STATUS_phase) (.refl (s.setRound r))).round.trans (round_setRound s r)

/-- The start is due at the next boundary, and the winner has sent no reference yet. -/
def State.startsSoon (s : State) : State := { s with ring := { s.ring with starting := true, originated := false } }

theorem regs_startsSoon (s : State) : s.startsSoon.regs = s.regs := rfl

theorem exec_contentionWindowEnd (hup : s.down .ring = false) (h : s.phase = 3) :
    exec .contentionWindowEnd s = .next (s.clearOut.counts (s.now16 .a / s.round16)).takeMastership.startsSoon :=
  (if_neg (by simp [hup])).trans (if_pos h)

theorem contentionWindowEnd_result (hup : s.down .ring = false) (h : s.phase = 3) :
    ∃ u, exec .contentionWindowEnd s = .next u ∧ u.phase = 6 ∧ u.isMaster = true ∧ u.get F.RING_STATUS_master_hub = s.hub % 64 ∧
      u.ring.starting = true ∧ u.leafSet (ringLeaf 22) = true ∧ u.round = s.now16 .a / s.round16 % 2 ^ 64 := by
  obtain ⟨hphase, hmaster, hhub, hleaf⟩ := takeMastership_result (s.clearOut.counts (s.now16 .a / s.round16))
  have hregs := regs_startsSoon (s.clearOut.counts (s.now16 .a / s.round16)).takeMastership
  refine ⟨_, exec_contentionWindowEnd hup h, ?_, ?_, ?_, rfl, ?_, ?_⟩
  · exact (State.get_of_regs hregs _ _).trans (hphase.trans (phase_setPhase _ (by decide)))
  · exact (State.is_of_regs hregs _ _).trans hmaster
  · exact (State.get_of_regs hregs _ _).trans (hhub.trans (congrArg (· % 64) (hub_counts _ _)))
  · exact (State.leafSet_of_regs hregs _).trans hleaf
  · have hkept := State.KeepsRound.takeMastership (v := true) (.refl (s.clearOut.counts (s.now16 .a / s.round16)))
    rw [State.round, State.rd_of_regs hregs, State.rd_of_regs hregs]
    exact hkept.round.trans (round_counts _ _)

end Sys2Proof.Machine

end

section

/-! Hellos, and the phases of a cold start. -/

namespace Sys2Proof.Machine

/-- Settles O23: the hello of a port goes on, is refused or brings the port up, where a master that lapses gives up first
(`lapsed_mastershipLapses`), and each phase of a cold start ends as its rule says. -/
theorem ringHelloAndColdStart : Obligations.RingHelloAndColdStart := by
  unfold Obligations.RingHelloAndColdStart
  refine ⟨fun s p blk hup hport => ?_, fun s p blk hup => ?_⟩
  · obtain ⟨hin, hhello, hout⟩ := helloSent_result hport
    refine ⟨fun hmisfit => ?_, fun hfits hrx => ?_, fun hfits hrx htx => ?_, fun hsound hnone hack hrx htx => ?_,
      fun cnt hsound hsome hfirst => ?_, fun hbad => ?_⟩
    · rw [hmisfit] at hout
      exact ⟨_, exec_helloSend_incomplete hup hport (.inl hmisfit), hout, ⟨hin.state, hin.words⟩,
        hhello.trans (acks_of_misfit hmisfit)⟩
    · rw [hfits] at hout
      exact ⟨_, exec_helloSend_incomplete hup hport (.inr hrx), hout, ⟨hin.state, hin.words⟩, hhello.trans (acks_of_fit hfits)⟩
    · rw [hfits] at hout
      exact ⟨_, exec_helloSend_complete hup hport hfits hrx htx, (out_portBecomesUp _ p).trans hout,
        hin.comesUp (portBecomesUp_comesUp _ p)⟩
    · obtain ⟨hpeer, hvalid⟩ := peer_helloFits s p blk.toNat
      have htaken := inHello_helloFits hport blk.toNat
      refine ⟨_, exec_helloReceived_complete hup hport hsound hnone hack hrx htx, htaken.comesUp (portBecomesUp_comesUp _ p),
        (out_portBecomesUp _ p).trans (out_helloFits s p _), ?_, ?_⟩
      · exact (get_portStatus_portBecomesUp _ p rfl (by decide)).trans hpeer
      · exact (congrArg (· != 0) (get_portStatus_portBecomesUp _ p (f := F.RING_PORT_STATUS_peer_valid) rfl (by decide))).trans hvalid
    · exact ⟨_, exec_helloReceived_refused hup hport hsound hsome hfirst, refused_result hport hsome⟩
    · have hbegun : s.InHello p ((s.clearOut.helloBegins p).setHello p { s.hello p with rxAcks := 0 }) := .setHello (.helloBegins hport)
      exact ⟨_, exec_helloReceived_unsound hup hport hbad, ⟨hbegun.state, hbegun.words⟩, State.hello_setHello _ _ _⟩
  · refine ⟨fun h => ?_, backoffEnd_result hup, contendSend_result hup, fun hport hsound hlowest hother => ?_,
      fun hport hsound hkept => ?_, contentionWindowEnd_result hup⟩
    · exact ⟨_, exec_listenWindowEnd hup h, phase_setPhase _ (by decide),
        State.regsOnly_trans (s.regsOnly_clearOut _) (marks_setPhase _ 2).1⟩
    · obtain ⟨t, hsends, hout, hexec⟩ := exec_contendReceived_relayed hup hport hsound hlowest hother
      obtain ⟨houts, hbest, hwords, hphase⟩ := contendTaken_result hsends (contendPair blk.toNat)
      exact ⟨_, hexec, houts.trans hout, fun h => (hbest h).trans (contendPair_hub _), hwords, hphase⟩
    · obtain ⟨hout, -, hwords, hphase⟩ := contendTaken_result (s := s) (t := s.clearOut) ⟨rfl, rfl, rfl⟩ (contendPair blk.toNat)
      exact ⟨_, exec_contendReceived_kept hup hport hsound hkept, hout, hwords, hphase⟩

end Sys2Proof.Machine

end

section

/-! Lines that firmware drives, and the end of a stretch (R158 to R161). -/

namespace Sys2Proof.Machine

theorem natBit_natSetBit (w i j : Nat) (b : Bool) : natBit (natSetBit w i b) j = if j = i then b else natBit w j := by
  unfold natBit natSetBit
  rw [testBit_natSetBits]
  by_cases h : j = i
  · cases b <;> simp [h]
  · rw [if_neg (by omega), if_neg h]

/-- A sum of weighted bits has these bits. -/
theorem testBit_foldl_bits {f : Nat → Nat} (hf : ∀ i, f i < 2) (n : Nat) :
    (List.range n).foldl (fun a i => a + f i * 2 ^ i) 0 < 2 ^ n ∧
      ∀ i < n, ((List.range n).foldl (fun a i => a + f i * 2 ^ i) 0).testBit i = (f i).testBit 0 := by
  induction n with
  | zero => exact ⟨Nat.one_pos, fun _ h => absurd h (Nat.not_lt_zero _)⟩
  | succ n ih =>
    obtain ⟨hlt, hbits⟩ := ih
    rw [List.range_succ, List.foldl_append, List.foldl_cons, List.foldl_nil]
    have hlast : f n * 2 ^ n ≤ 2 ^ n := by have := hf n; exact Nat.le_trans (Nat.mul_le_mul_right _ (by omega : f n ≤ 1)) (by omega)
    refine ⟨by rw [Nat.pow_succ]; omega, fun i hi => ?_⟩
    rw [Nat.add_comm, Nat.mul_comm, Nat.testBit_two_pow_mul_add _ hlt]
    split
    · next hin => exact hbits i hin
    · next hout =>
      obtain rfl : i = n := by omega
      rw [Nat.sub_self]

/-- Register words are no part of the shot state. -/
theorem State.shot_of_regsOnly {s t : State} {f : Nat → Bool} (h : s.regsOnly t f) : t.shot = s.shot := by rw [h.1]

variable {s : State} {i : Nat}

/-- A line that firmware asserts is among the sources of the own lines (R158). -/
theorem natBit_ownDrive_of_assert (hi : i < 8) (h : s.get F.SHOT_FW_DRIVE_assert [i] = 1) : natBit s.ownDrive i = true := by
  have hbit : s.fwLines.testBit i = (s.get F.SHOT_FW_DRIVE_assert [i]).testBit 0 :=
    (testBit_foldl_bits (fun i => s.get_lt F.SHOT_FW_DRIVE_assert [i]) 8).2 i hi
  unfold natBit State.ownDrive
  rw [Nat.testBit_or, hbit, h, Bool.or_eq_true]
  exact .inr rfl

theorem State.writeReg_shotFwDrive (s : State) (p : Path) (i v : Nat) : s.writeReg p .SHOT_FW_DRIVE [i] v = some (s.fwDriveWrite i v) := rfl

theorem exec_shotFwDriveWrite {p : Path} {val : Nat} (hi : i < 8) (h : s.admits p .SHOT_FW_DRIVE [i] val) (hv : val < 2 ^ 32) :
    exec (.shotFwDriveWrite p i val) s =
      .next ((s.clearOut.fwDriveWrite i val).emits (acknowledged p (Reg.SHOT_FW_DRIVE.addr [i]))) := by
  show Host.Outcome.next (s.clearOut.putReg p .SHOT_FW_DRIVE [i % 8] val) = _
  rw [Nat.mod_eq_of_lt hi, State.putReg_of_admits (State.admits_clearOut.mpr h) hv (State.writeReg_shotFwDrive ..)]

/-- A permitted write changes its register, and the latches of both directions catch a line it asserts (R158, R161). -/
theorem fwDriveWrite_permitted {val : Nat} (hi : i < 8) (h : val % 2 = 1 → s.is F.SHOT_LINE_CFG_fw_enable [i] = true) :
    (s.fwDriveWrite i val).get F.SHOT_FW_DRIVE_assert [i] = val % 2 ∧
      s.wordsKept (s.fwDriveWrite i val) (fun a => a == Reg.SHOT_FW_DRIVE.addr [i]) ∧
      (val % 2 = 1 → natBit (s.fwDriveWrite i val).shot.latchEg i = true ∧ natBit (s.fwDriveWrite i val).shot.latchWg i = true) := by
  have hwrite : s.fwDriveWrite i val = (s.set F.SHOT_FW_DRIVE_assert [i] (val % 2)).ownChanged s.ownDrive :=
    if_neg fun hrefused => hrefused.2 (h hrefused.1)
  have hget : (s.set F.SHOT_FW_DRIVE_assert [i] (val % 2)).get F.SHOT_FW_DRIVE_assert [i] = val % 2 :=
    (State.get_set _ _ _ _ (by decide) (by decide)).trans (Nat.mod_mod _ _)
  rw [hwrite]
  refine ⟨hget, (State.regsOnly_set s F.SHOT_FW_DRIVE_assert [i] _ (fun a => a == Reg.SHOT_FW_DRIVE.addr [i]) (beq_self_eq_true _)).2, fun hone => ?_⟩
  have hdrive := natBit_ownDrive_of_assert hi (hget.trans hone)
  have hcaught (latch : Nat) : natBit (latch ||| (s.set F.SHOT_FW_DRIVE_assert [i] (val % 2)).ownDrive) i = true := by
    rw [natBit, Nat.testBit_or, Bool.or_eq_true]
    exact .inr hdrive
  exact ⟨hcaught _, hcaught _⟩

/-- A 1 that the line does not permit sets the ring's leaf 18 and nothing else (R159). -/
theorem fwDriveWrite_refused {val : Nat} (hval : val % 2 = 1) (h : s.is F.SHOT_LINE_CFG_fw_enable [i] = false) :
    s.fwDriveWrite i val = s.leaf (ringLeaf 18) := if_pos ⟨hval, ne_true_of_eq_false h⟩

/-- The state in which line i is in no stretch. -/
def State.unstretched (s : State) (i : Nat) : State :=
  { s with shot := { s.shot with stretching := natSetBit s.shot.stretching i false } }

theorem exec_shotStretchEnd (hup : s.down .ring = false) (i : Nat) :
    exec (.shotStretchEnd i) s = .next (s.clearOut.unstretched i) := if_neg (ne_true_of_eq_false hup)

theorem natBit_ownLines_unstretched (s : State) (i j : Nat) :
    natBit (s.unstretched i).ownLines j = if j = i then natBit s.ownDrive i else natBit s.ownLines j := by
  have hbit : natBit (s.unstretched i).ownLines j = (natBit s.ownDrive j || natBit (natSetBit s.shot.stretching i false) j) :=
    Nat.testBit_or ..
  rw [hbit, natBit_natSetBit]
  split
  · next hj => rw [hj, Bool.or_false]
  · exact (Nat.testBit_or ..).symm

end Sys2Proof.Machine

end

section

/-! Tracked copies that go stale, and the image's entries (R163, R164, R167). -/

namespace Sys2Proof.Machine

variable {s : State} {d : Side} {h : Nat}

/-- The state in which the tracked copy of hub h in a direction is no longer fresh. -/
def State.copyAged (s : State) (d : Side) (h : Nat) : State :=
  { s with shot := { s.shot with copies := smSet s.shot.copies (copyKey d h) { s.copyOf d h with fresh := false } {} } }

theorem exec_shotStaleTimeout (hup : s.down .ring = false) (d : Side) (h : Nat) :
    exec (.shotStaleTimeout d h) s = .next ((s.clearOut.copyAged d h).imageRefresh h) := if_neg (ne_true_of_eq_false hup)

/-- The other direction as the statements write it. -/
theorem ite_eq_otherSide (d : Side) : (if d = .east then .west else .east) = otherSide d := by cases d <;> rfl

theorem copyKey_otherSide_ne (d : Side) (h : Nat) : copyKey (otherSide d) h ≠ copyKey d h := by
  cases d <;> simp [copyKey, otherSide]

theorem copyCurrent_copyAged (s : State) (d : Side) (h : Nat) : (s.copyAged d h).copyCurrent d h = false := by
  simp [State.copyCurrent, State.copyOf, State.copyAged]

theorem copyOf_copyAged_otherSide (s : State) (d : Side) (h : Nat) :
    (s.copyAged d h).copyOf (otherSide d) h = s.copyOf (otherSide d) h :=
  smGet_smSet_ne _ _ _ _ _ (copyKey_otherSide_ne d h)

theorem copyCurrent_copyAged_otherSide (s : State) (d : Side) (h : Nat) :
    (s.copyAged d h).copyCurrent (otherSide d) h = s.copyCurrent (otherSide d) h := by
  unfold State.copyCurrent
  rw [copyOf_copyAged_otherSide s d h]
  rfl

/-- With the copy of one direction stale the image takes the other one, where it is current (R164). -/
theorem imageSource_of_stale (hd : s.copyCurrent d h = false) :
    s.imageSource h = if s.copyCurrent (otherSide d) h then some (otherSide d) else none := by
  cases d with
  | east => cases hother : s.copyCurrent .west h <;> simp [State.imageSource, hd, hother, otherSide]
  | west => cases hother : s.copyCurrent .east h <;> simp [State.imageSource, hd, hother, otherSide]

/-- An entry that a current copy gives is not stale, and holds that copy's (R164). -/
theorem imageRefresh_of_source (hne : h ≠ s.hub) (hsource : s.imageSource h = some d) :
    (s.imageRefresh h).is F.SHOT_IMAGE_stale [h] = false ∧
      (s.imageRefresh h).get F.SHOT_IMAGE_entry [h] = (s.copyOf d h).entry % 2 ^ 16 := by
  unfold State.imageRefresh
  rw [if_neg hne, hsource]
  refine ⟨State.is_setB _ _ _ _ rfl (by decide), ?_⟩
  dsimp only [State.setB]
  rw [State.get_set_field _ F.SHOT_IMAGE_stale F.SHOT_IMAGE_entry _ _ rfl (by decide) (by decide),
    State.get_set_field _ F.SHOT_IMAGE_src_wg F.SHOT_IMAGE_entry _ _ rfl (by decide) (by decide),
    State.get_set _ _ _ _ (by decide) (by decide)]
  rfl

theorem causeAddr_shot (h : Nat) : causeAddr (Reg.SHOT_IMAGE.addr [h]) = false ∧ causeAddr (Reg.SHOT_EVENTS.addr [h]) = false := by
  constructor <;> simp [causeAddr, Reg.addr, Reg.desc, dimOffset] <;> omega

theorem shotEvents_ne_shotImage (h : Nat) : Reg.SHOT_EVENTS.addr [h] ≠ Reg.SHOT_IMAGE.addr [h] := by
  simp [Reg.addr, Reg.desc, dimOffset]

/-- An entry without a current copy keeps what it held and is stale, and one that becomes stale is counted (R167). -/
theorem imageRefresh_of_noSource (hne : h ≠ s.hub) (hsource : s.imageSource h = none) :
    (s.imageRefresh h).is F.SHOT_IMAGE_stale [h] = true ∧
      (s.imageRefresh h).get F.SHOT_IMAGE_entry [h] = s.get F.SHOT_IMAGE_entry [h] ∧ (s.imageRefresh h).shot = s.shot ∧
      (s.is F.SHOT_IMAGE_stale [h] = false → (s.imageRefresh h).get F.SHOT_EVENTS_stale_events [h] =
        satInc (s.get F.SHOT_EVENTS_stale_events [h]) F.SHOT_EVENTS_stale_events.top) := by
  unfold State.imageRefresh
  rw [if_neg hne, hsource]
  dsimp only
  split
  · next hstale => exact ⟨hstale, rfl, rfl, fun hfresh => absurd (hstale.symm.trans hfresh) (by decide)⟩
  · obtain ⟨himage, hevents⟩ := causeAddr_shot h
    have hmarked := State.is_setB s F.SHOT_IMAGE_stale [h] true rfl (by decide)
    have hentry : (s.setB F.SHOT_IMAGE_stale [h] true).get F.SHOT_IMAGE_entry [h] = s.get F.SHOT_IMAGE_entry [h] :=
      State.get_set_field _ F.SHOT_IMAGE_stale F.SHOT_IMAGE_entry _ _ rfl (by decide) (by decide)
    have hcount : (s.setB F.SHOT_IMAGE_stale [h] true).get F.SHOT_EVENTS_stale_events [h] = s.get F.SHOT_EVENTS_stale_events [h] :=
      State.get_set_ne _ _ _ _ _ _ (shotEvents_ne_shotImage h)
    generalize hu : (((s.setB F.SHOT_IMAGE_stale [h] true).inc F.SHOT_EVENTS_stale_events [h]).when _ _) = u
    have hleaf : ((s.setB F.SHOT_IMAGE_stale [h] true).inc F.SHOT_EVENTS_stale_events [h]).regsOnly u causeAddr :=
      hu ▸ State.regsOnly_when _ _ _ _ fun _ => State.leaf_regsOnly ..
    have himageKept (f : Fld) (hf : f.reg = .SHOT_IMAGE) : u.get f [h] = (s.setB F.SHOT_IMAGE_stale [h] true).get f [h] :=
      (State.regsOnly_get hleaf f [h] (hf ▸ himage)).trans
        (State.get_set_ne _ _ _ _ _ _ (hf ▸ (shotEvents_ne_shotImage h).symm))
    refine ⟨(congrArg (· != 0) (himageKept _ rfl)).trans hmarked, (himageKept _ rfl).trans hentry,
      (State.shot_of_regsOnly hleaf).trans rfl, fun _ => ?_⟩
    rw [State.regsOnly_get hleaf _ _ hevents, State.get_inc _ _ _ (by decide) (by decide), hcount]

end Sys2Proof.Machine

end

section

/-! Shot lines. -/

namespace Sys2Proof.Machine

/-- Settles O16: the latches catch the line that firmware asserts, the end of a stretch leaves the line to its sources, and the
image takes its entry from the other direction where that copy is current, else keeps it as stale. -/
theorem shotLines : Obligations.ShotLines := by
  unfold Obligations.ShotLines
  intro s p i val hup hi
  refine ⟨fun hadmits hval hpermitted => ?_, fun hadmits hval hone hbarred => ?_, ?_, fun d h _ hne hother => ?_, fun d h _ hne hother => ?_⟩
  · exact ⟨_, exec_shotFwDriveWrite hi hadmits hval, fwDriveWrite_permitted (s := s.clearOut) hi hpermitted⟩
  · have hleaf := s.clearOut.leaf_regsOnly (ringLeaf 18) 0 0 false
    refine ⟨_, exec_shotFwDriveWrite hi hadmits hval, ?_⟩
    rw [fwDriveWrite_refused (s := s.clearOut) hone hbarred]
    exact ⟨(State.shot_of_regsOnly hleaf).trans rfl, s.clearOut.leafSet_leaf _ _ _ _ (by decide), hleaf.2⟩
  · refine ⟨_, exec_shotStretchEnd hup i, rfl, ?_, fun j hj => ?_⟩
    · exact (natBit_ownLines_unstretched s.clearOut i i).trans (if_pos rfl)
    · exact (natBit_ownLines_unstretched s.clearOut i j).trans (if_neg hj)
  · rw [ite_eq_otherSide] at hother
    have hsource : (s.clearOut.copyAged d h).imageSource h = none := by
      rw [imageSource_of_stale (copyCurrent_copyAged ..), copyCurrent_copyAged_otherSide]
      exact if_neg (ne_true_of_eq_false hother)
    obtain ⟨hstale, hentry, hshot, hcount⟩ := imageRefresh_of_noSource (s := s.clearOut.copyAged d h) hne hsource
    refine ⟨_, exec_shotStaleTimeout hup d h, hstale, hentry, ?_, hcount⟩
    rw [State.copyCurrent, State.copyOf, hshot]
    simp [State.copyAged]
  · rw [ite_eq_otherSide] at hother ⊢
    have hsource : (s.clearOut.copyAged d h).imageSource h = some (otherSide d) := by
      rw [imageSource_of_stale (copyCurrent_copyAged ..), copyCurrent_copyAged_otherSide]
      exact if_pos hother
    have himage := imageRefresh_of_source (s := s.clearOut.copyAged d h) hne hsource
    rw [copyOf_copyAged_otherSide] at himage
    exact ⟨_, exec_shotStaleTimeout hup d h, himage⟩

end Sys2Proof.Machine

end

section

/-! Drives of quad pins (R182, R185, R187, R208): the edges they make at the balls are seen by stamp units, edge counters and waits, and
leave the rest of every sett, the registers an instruction reads, and what is driven onto every other pin. -/

namespace Sys2Proof.Machine

/-- A sett without what an edge at a ball can change: its capture, its edge count, and the mark on a wait that the edge meets. -/
def Sett.steady (t : Sett) : Sett :=
  { t with capture := none, unread := false, missed := false, edgeCount := 0, wait := t.wait.map fun x => { x with met := false } }

/-- What a drive can change of a pin. -/
def Pin.driven (x : Pin) : Pin := { out := x.out, enable := x.enable, edgeAt := x.edgeAt }

/-- The error counters of the setts of a quad, where a missed capture is counted (R189). -/
def quadErrors (b k a : Nat) : Bool := (List.range 4).any fun j => a == Reg.SETT_ERR.addr [b, quadPin k j]

/-- From `s` to `u` the time stays, and every word but the quad's error counters; what is driven onto pin q has gone through `g q`. -/
structure State.Drives (s u : State) (b k : Nat) (g : Nat → Pin → Pin) : Prop where
  time : u.time = s.time
  words : s.wordsKept u (quadErrors b k)
  pins : ∀ q, (u.pinOf b q).driven = g q (s.pinOf b q).driven

/-- And every sett stays, but for what it sees of the edges. -/
structure State.DrivesOnly (s u : State) (b k : Nat) (g : Nat → Pin → Pin) : Prop extends State.Drives s u b k g where
  setts : ∀ c m, (u.sett c m).steady = (s.sett c m).steady

/-- Nothing goes onto a pin: edges alone are seen. -/
abbrev State.Sees (s u : State) (b k : Nat) : Prop := s.DrivesOnly u b k fun _ x => x

/-- The drive of one pin. -/
def onPin (p : Nat) (f : Pin → Pin) (q : Nat) (x : Pin) : Pin := if q = p then f x else x

theorem quadErrors_quadPin (b k j : Nat) : quadErrors b k (Reg.SETT_ERR.addr [b, quadPin k j]) = true :=
  List.any_eq_true.mpr ⟨j % 4, List.mem_range.mpr (Nat.mod_lt _ (by decide)), by rw [quadPin_mod, beq_self_eq_true]⟩

variable {s t u : State} {b k : Nat} {g h : Nat → Pin → Pin}

theorem State.Drives.trans (hs : s.Drives t b k g) (ht : t.Drives u b k h) : s.Drives u b k fun q x => h q (g q x) :=
  ⟨ht.time.trans hs.time, State.wordsKept_trans hs.words ht.words, fun q => by rw [ht.pins, hs.pins]⟩

/-- One sett's own state is no part of what is driven. -/
theorem State.Drives.of_settOnly (hs : s.settOnly u b k) : s.Drives u b k fun _ x => x := by
  rw [hs.1]
  exact ⟨rfl, fun _ _ => rfl, fun _ => rfl⟩

namespace State.DrivesOnly

theorem refl (s : State) (b k : Nat) : s.Sees s b k := ⟨⟨rfl, fun _ _ => rfl, fun _ => rfl⟩, fun _ _ => rfl⟩

theorem trans (hs : s.DrivesOnly t b k g) (ht : t.DrivesOnly u b k h) : s.DrivesOnly u b k fun q x => h q (g q x) :=
  ⟨hs.toDrives.trans ht.toDrives, fun c m => (ht.setts c m).trans (hs.setts c m)⟩

/-- What only sees edges adds no drive. -/
theorem sees (hs : s.DrivesOnly t b k g) (ht : t.Sees u b k) : s.DrivesOnly u b k g := hs.trans ht

theorem when {c : Bool} {f : State → State} (hf : s.Sees (f s) b k) : s.Sees (s.when c f) b k :=
  State.when_of (P := fun u => s.Sees u b k) (refl s b k) hf

theorem foldl {α : Type} {xs : List α} {f : State → α → State} (hf : ∀ (u : State) x, u.Sees (f u x) b k) :
    s.Sees (xs.foldl f s) b k := by
  induction xs generalizing s with
  | nil => exact refl s b k
  | cons x xs ih => exact (hf s x).sees ih

theorem setSett {c m : Nat} {x : Sett} (hx : x.steady = (s.sett c m).steady) : s.Sees (s.setSett c m x) b k :=
  ⟨⟨rfl, fun _ _ => rfl, fun _ => rfl⟩, fun c' m' => by
    by_cases hkey : c' * 64 + m' = c * 64 + m
    · have hnew : (s.setSett c m x).sett c' m' = x := by simp [State.sett, State.setSett, hkey]
      have hold : s.sett c' m' = s.sett c m := by simp [State.sett, hkey]
      rw [hnew, hold, hx]
    · rw [State.sett_setSett_ne _ _ _ _ _ _ hkey]⟩

theorem meet {c m : Nat} : s.Sees (s.meet c m) b k := by
  refine setSett ?_
  dsimp only
  split
  · next x hwait => simp [Sett.steady, hwait]
  · rfl

theorem meetPin {c p : Nat} {level : Bool} : s.Sees (s.meetPin c p level) b k := by
  refine foldl fun u m => ?_
  dsimp only
  split
  · exact when meet
  · exact refl u b k

theorem missed {j : Nat} : s.Sees (s.inc F.SETT_ERR_stamp_missed [b, quadPin k j]) b k :=
  ⟨⟨rfl, (State.regsOnly_set s F.SETT_ERR_stamp_missed _ _ _ (quadErrors_quadPin b k j)).2, fun _ => rfl⟩, fun _ _ => rfl⟩

theorem stampEdge {j : Nat} {rising : Bool} : s.Sees (s.stampEdge b (quadPin k j) rising) b k := by
  unfold State.stampEdge
  refine sees ?_ (when missed)
  exact setSett rfl

theorem edgeCounted {p : Nat} : s.Sees (s.onSett b p fun t => { t with edgeCount := word32 (t.edgeCount + 1) }) b k := setSett rfl

theorem emit {o : Out} : s.Sees (s.emit o) b k := ⟨⟨rfl, fun _ _ => rfl, fun _ => rfl⟩, fun _ _ => rfl⟩

/-- A pin replaced drives what it was replaced by. -/
theorem setPin {p : Nat} {x : Pin} : s.DrivesOnly (s.setPin b p x) b k (onPin p fun _ => x.driven) :=
  ⟨⟨rfl, fun _ _ => rfl, fun q => by
    unfold onPin
    split
    · next hq => rw [hq, State.pinOf_setPin]
    · next hq => exact congrArg Pin.driven (smGet_smSet_ne _ _ _ _ _ (by omega))⟩, fun _ _ => rfl⟩

/-- A pin replaced by one that drives the same. -/
theorem setPin_sees {p : Nat} {x : Pin} (hx : x.driven = (s.pinOf b p).driven) : s.Sees (s.setPin b p x) b k :=
  ⟨⟨rfl, fun _ _ => rfl, fun q => by
    refine (setPin (k := k).pins q).trans ?_
    unfold onPin
    split
    · next hq => rw [hx, hq]
    · rfl⟩, fun _ _ => rfl⟩

theorem ballLevel {j : Nat} {level : Bool} : s.Sees (s.ballLevel b (quadPin k j) level) b k := by
  unfold State.ballLevel
  dsimp only
  split
  · exact refl s b k
  · refine sees (sees (sees ?_ (when stampEdge)) (when edgeCounted)) meetPin
    exact setPin_sees rfl

theorem settleBall {j : Nat} : s.Sees (s.settleBall b (quadPin k j)) b k := by
  unfold State.settleBall
  split
  · exact ballLevel
  · exact refl s b k

/-- An output replaced: the edge at its ball comes after it. -/
theorem output {j : Nat} {x : Pin} : s.DrivesOnly (s.output b (quadPin k j) x) b k (onPin (quadPin k j) fun _ => x.driven) := by
  unfold State.output
  dsimp only
  split
  · exact setPin
  · exact (setPin.sees emit).sees settleBall

end State.DrivesOnly

/-- Sett k may drive pin p: the bench is in service, and the pin is the sett's own and enabled (R182, R571). -/
def State.mayDrive (s : State) (b k p : Nat) : Prop :=
  s.is F.BNCH_STATUS_out_of_service [b] = false ∧ s.owner b p = k % 4 ∧ s.driveEnabled b p = true

theorem quadErrors_eq_false {a : Nat} (ha : ∀ j < 4, a ≠ Reg.SETT_ERR.addr [b, quadPin k j]) : quadErrors b k a = false :=
  List.any_eq_false.mpr fun j hj => by simpa using ha j (List.mem_range.mp hj)

theorem quadErrors_status : quadErrors b k (Reg.BNCH_STATUS.addr [b]) = false :=
  quadErrors_eq_false fun j _ => by simp [Reg.addr, Reg.desc, dimOffset, quadPin]; omega

theorem quadErrors_quadCfg (j : Nat) : quadErrors b k (Reg.BNCH_QUAD_CFG.addr [b, quadPin k j / 4]) = false :=
  quadErrors_eq_false fun i _ => by simp [Reg.addr, Reg.desc, dimOffset, quadPin]; omega

theorem quadErrors_side : quadErrors b k (Reg.SETT_SIDE.addr [b, k]) = false :=
  quadErrors_eq_false fun j _ => by simp [Reg.addr, Reg.desc, dimOffset, quadPin]; omega

theorem State.Drives.side (hs : s.Drives u b k g) : u.rd .SETT_SIDE [b, k] = s.rd .SETT_SIDE [b, k] :=
  State.wordsKept_rd hs.words _ _ quadErrors_side

theorem State.Drives.mayDrive {j : Nat} (hs : s.Drives u b k g) (h : s.mayDrive b k (quadPin k j)) : u.mayDrive b k (quadPin k j) := by
  have hcfg := State.wordsKept_rd hs.words .BNCH_QUAD_CFG [b, quadPin k j / 4] (quadErrors_quadCfg j)
  have hstatus := State.wordsKept_get hs.words F.BNCH_STATUS_out_of_service [b] quadErrors_status
  unfold State.mayDrive State.is State.owner State.driveEnabled at h ⊢
  rwa [hcfg, hstatus]

/-- A drive that applies (R182). -/
theorem State.DrivesOnly.drive {j : Nat} {f : Pin → Pin} (h : s.mayDrive b k (quadPin k j)) (hf : ∀ x, (f x).driven = f x.driven) :
    s.DrivesOnly (s.drive b k (quadPin k j) f) b k (onPin (quadPin k j) f) := by
  obtain ⟨hservice, howner, henabled⟩ := h
  have hdrive : s.drive b k (quadPin k j) f = s.output b (quadPin k j) (f (s.pinOf b (quadPin k j))) :=
    (if_neg (ne_true_of_eq_false hservice)).trans (if_pos ⟨howner, henabled⟩)
  have houtput := State.DrivesOnly.output (s := s) (b := b) (k := k) (j := j) (x := f (s.pinOf b (quadPin k j)))
  rw [hdrive]
  refine ⟨⟨houtput.time, houtput.words, fun q => (houtput.pins q).trans ?_⟩, houtput.setts⟩
  unfold onPin
  split
  · next hq => rw [hf, hq]
  · rfl

/-- The drives of one instruction, one pin after another. -/
theorem State.DrivesOnly.each {xs : List Nat} {F : State → Nat → State} {g : Nat → Nat → Pin → Pin} (hst : s.Drives t b k h)
    (hstep : ∀ u f i, i ∈ xs → s.Drives u b k f → u.DrivesOnly (F u i) b k (g i)) :
    t.DrivesOnly (t.each xs F) b k fun q x => xs.foldl (fun x i => g i q x) x := by
  induction xs generalizing t h with
  | nil => exact State.DrivesOnly.refl t b k
  | cons i xs ih =>
    have hone := hstep t h i List.mem_cons_self hst
    exact hone.trans (ih (hst.trans hone.toDrives) fun u f i hi => hstep u f i (List.mem_cons_of_mem _ hi))

theorem foldl_onPin_of_ne {xs : List Nat} {pin : Nat → Nat} {f : Nat → Pin → Pin} {q : Nat} (hq : ∀ j ∈ xs, q ≠ pin j)
    (x : Pin) : xs.foldl (fun x j => onPin (pin j) (f j) q x) x = x := by
  induction xs with
  | nil => rfl
  | cons j xs ih =>
    rw [List.foldl_cons, onPin, if_neg (hq j List.mem_cons_self)]
    exact ih fun i hi => hq i (List.mem_cons_of_mem _ hi)

/-- Of the drives of different pins one reaches a pin. -/
theorem foldl_onPin {xs : List Nat} {pin : Nat → Nat} {f : Nat → Pin → Pin} (hpin : xs.Pairwise fun i j => pin i ≠ pin j) {i : Nat}
    (hi : i ∈ xs) (x : Pin) : xs.foldl (fun x j => onPin (pin j) (f j) (pin i) x) x = f i x := by
  induction xs generalizing x with
  | nil => cases hi
  | cons j xs ih =>
    obtain ⟨hfirst, hrest⟩ := List.pairwise_cons.mp hpin
    rw [List.foldl_cons]
    rcases List.mem_cons.mp hi with rfl | hi
    · rw [onPin, if_pos rfl]
      exact foldl_onPin_of_ne hfirst _
    · rw [onPin, if_neg (hfirst i hi).symm]
      exact ih hrest hi x

end Sys2Proof.Machine

end

section

/-! How a running sett executes the instruction it stands at (R205 to R207): it begins, its effect runs once its program counter has gone
on, and its side actions come with it. -/

namespace Sys2Proof.Machine

/-- Sett k of bench b runs and stands at the word `w`, which it executes: as `State.atWord` has it, but with any side actions. -/
structure State.StandsAt (s : State) (b k w : Nat) : Prop where
  running : (s.sett b k).phase = .running
  alone : (s.sett b k).inject = none
  calm : (s.sett b k).contended = false
  word : s.rd .SETT_PROG [b, k, (s.sett b k).pc] = w
  sound : s.wordTrap b k w = none

/-- What the sett waits with in the first cycle of that instruction, where it is no WAIT on time (R205, R211). -/
def State.firstWait (s : State) (b w : Nat) : SettWait :=
  { word := w, now := s.now (s.domOfConsumer (.bench b)), dom := s.domOfConsumer (.bench b) }

/-- The state in which it has begun that instruction. -/
def State.firstCycle (s : State) (b k w : Nat) : State :=
  ((s.onSett b k fun t => { t with inject := none }).onSett b k fun t => { t with phase := .running, wait := none }).onSett b k fun t =>
    { t with phase := .waiting, wait := some (s.firstWait b w) }

/-- From `s` to `u` no more than the sett's own entry is written again, as it was. -/
def State.settSame (s u : State) (b k : Nat) : Prop := s.settOnly u b k ∧ u.sett b k = s.sett b k

/-- Opcodes that wait for nothing. -/
def unwaiting : List Nat := [0x03, 0x07, 0x0C, 0x0D, 0x11]

variable {s u v : State} {b k op w : Nat} {x : SettWait}

theorem State.standsAt_of_atWord (h : s.atWord b k op w) : s.StandsAt b k w := by
  obtain ⟨hphase, hinject, hcalm, hword, -, -, htrap⟩ := h
  exact ⟨hphase, hinject, hcalm, hword, htrap⟩

theorem ne_of_unwaiting (hop : insOp w ∈ unwaiting) : insOp w ≠ 1 ∧ insOp w ≠ 0x12 :=
  ⟨fun hop' => absurd (hop' ▸ hop) (by decide), fun hop' => absurd (hop' ▸ hop) (by decide)⟩

theorem ready_of_unwaiting (hop : insOp w ∈ unwaiting) (u : State) (time : Option (Int × Dom)) : u.ready b k w time = (true, u) := by
  simp only [unwaiting, List.mem_cons, List.not_mem_nil, or_false] at hop
  rcases hop with hop | hop | hop | hop | hop <;> simp [State.ready, hop]

theorem stopContended_of_calm (h : (s.sett b k).contended = false) : s.stopContended b k = s := if_neg (ne_true_of_eq_false h)

theorem firstCycle_settOnly (s : State) (b k w : Nat) : s.settOnly (s.firstCycle b k w) b k :=
  State.settOnly_trans (s.settOnly_onSett b k _) <| State.settOnly_trans (State.settOnly_onSett _ b k _) (State.settOnly_onSett _ b k _)

theorem sett_firstCycle (s : State) (b k w : Nat) :
    (s.firstCycle b k w).sett b k = { s.sett b k with phase := .waiting, inject := none, wait := some (s.firstWait b w) } := by
  simp only [State.firstCycle, State.sett_onSett]

/-- An instruction begins (R205), but for a WAIT on time, whose first cycle does more (R211). -/
theorem instruction_begins (h : s.StandsAt b k w) (hop : insOp w ≠ 1) :
    s.instruction (some (insOp w)) b k .good =
      (if enablesWord w then ((s.firstCycle b k w).sideWithEnables b k w).checkWait b k
        else ((s.firstCycle b k w).checkWait b k).sideSet b k w (outDrives w)).stopContended b k := by
  obtain ⟨hphase, hinject, -, hword, htrap⟩ := h
  have hfetches : (s.sett b k).fetches = true := by simp [Sett.fetches, hphase]
  have hnext : s.nextWord b k = (w, false) := by simp [State.nextWord, hinject, hword]
  have hwait (u : State) : u.beginWait b k w = (none, u) := if_neg fun hnow => hop hnow.1
  simp only [State.instruction, hfetches, hnext, htrap, State.when, State.beginWord, hwait]
  rfl

/-- An instruction that is ready completes, whether or not its wait was met meanwhile; a SYNC completes with its barrier. -/
theorem checkWait_completes (hwait : (u.sett b k).wait = some x) (hready : u.ready b k x.word x.time = (true, u))
    (hop : insOp x.word ≠ 0x12) : u.checkWait b k = u.complete b k x := by
  unfold State.checkWait
  rw [hwait]
  dsimp only
  rw [hready, ite_self]
  exact (if_pos rfl).trans (if_neg hop)

/-- An instruction from the program completes (R205): nothing comes after an effect that leaves no stop pending. -/
theorem complete_same (hx : x.injected = false) (hback : x.back = .running)
    (hcalm : (((u.onSett b k Sett.past).effect b k x).sett b k).contended = false) :
    ((u.onSett b k Sett.past).effect b k x).settSame (u.complete b k x) b k := by
  have hpast : (u.onSett b k fun t => { t with phase := .running, wait := none, pc := if x.injected then t.pc else (t.pc + 1) % 64 }) =
      u.onSett b k Sett.past := by rw [hx]; rfl
  have hreturn (t : Sett) : (if t.phase = .running then { t with phase := x.back } else t) = t := by
    split
    · next hrunning => rw [hback, ← hrunning]
    · rfl
  have hcomplete : u.complete b k x = (((u.onSett b k Sett.past).effect b k x).onSett b k fun t => t).stopContended b k := by
    simp only [State.complete, hpast, hreturn]
  have hsett := State.sett_onSett ((u.onSett b k Sett.past).effect b k x) b k fun t => t
  rw [hcomplete, stopContended_of_calm (hsett ▸ hcalm)]
  exact ⟨State.settOnly_onSett .., hsett⟩

/-- An instruction that waits for nothing and drives no output enable: its effect runs, and its side actions come after it. -/
theorem instruction_effect (h : s.StandsAt b k w) (hop : insOp w ∈ unwaiting) (hen : enablesWord w = false) :
    ∃ v x, s.settOnly v b k ∧ v.sett b k = (s.sett b k).past ∧ x.word = w ∧
      (((v.effect b k x).sett b k).contended = false → ∃ e, (v.effect b k x).settSame e b k ∧
        s.instruction (some (insOp w)) b k .good = (e.sideSet b k w (outDrives w)).stopContended b k) := by
  have hops := ne_of_unwaiting hop
  refine ⟨(s.firstCycle b k w).onSett b k Sett.past, s.firstWait b w,
    State.settOnly_trans (firstCycle_settOnly ..) (State.settOnly_onSett ..), ?_, rfl,
    fun hcalm => ⟨_, complete_same rfl rfl hcalm, ?_⟩⟩
  · simp [sett_firstCycle, Sett.past, h.alone]
  · rw [instruction_begins h hops.1, hen, if_neg Bool.false_ne_true,
      checkWait_completes (x := s.firstWait b w) (by rw [sett_firstCycle]) (ready_of_unwaiting hop _ _) hops.2]

/-- Without side actions that is all. -/
theorem instruction_effect_alone (h : s.atWord b k op w) (hop : op ∈ unwaiting) (hen : enablesWord w = false) :
    ∃ v x, s.settOnly v b k ∧ v.sett b k = (s.sett b k).past ∧ x.word = w ∧
      (((v.effect b k x).sett b k).contended = false → (v.effect b k x).rd .SETT_SIDE [b, k] = 0 →
        (v.effect b k x).settSame (s.instruction (some op) b k .good) b k) := by
  have hword : insOp w = op := h.2.2.2.2.2.1
  obtain ⟨v, x, honly, hsett, hx, heffect⟩ := instruction_effect (State.standsAt_of_atWord h) (hword.symm ▸ hop) hen
  refine ⟨v, x, honly, hsett, hx, fun hcalm hside => ?_⟩
  obtain ⟨e, hsame, hinstruction⟩ := heffect hcalm
  rw [← hword, hinstruction, State.sideSet_none _ _ _ _ _ ((State.settOnly_rd hsame.1 ..).trans hside),
    stopContended_of_calm (hsame.2.symm ▸ hcalm)]
  exact hsame

end Sys2Proof.Machine

end

section

/-! Drives of levels and of output enables (R185, R207, R208, R222, R227). -/

namespace Sys2Proof.Machine

/-- What a drive of the level does to a pin in cycle `c`: a scheduled edge of the same instant takes precedence (R185). -/
def Pin.levelled (c : Nat) (level : Bool → Bool) (x : Pin) : Pin := if x.edgeAt = some c then x else { x with out := level x.out }

/-- What a drive of the output enable does to it. -/
def Pin.enabled (on : Bool) (x : Pin) : Pin := { x with enable := on }

/-- The end of a pulse. -/
def Pin.lowered (x : Pin) : Pin := { x with out := false }

/-- What the side action of a pin does to it: none, level, toggle or pulse (R207). -/
def sideAction (cfg c : Nat) (bit : Bool) : Pin → Pin :=
  match cfg with
  | 1 => Pin.levelled c fun _ => bit
  | 2 => if bit then Pin.levelled c fun v => !v else id
  | 3 => if bit then Pin.lowered ∘ Pin.levelled c fun _ => true else id
  | _ => id

variable {s u v : State} {b k op w j : Nat} {x : SettWait} {g : Nat → Pin → Pin}

theorem driven_levelled (c : Nat) (level : Bool → Bool) (x : Pin) : (x.levelled c level).driven = x.driven.levelled c level := by
  unfold Pin.levelled
  split
  · next hedge => rw [if_pos (show x.driven.edgeAt = some c from hedge)]
  · next hedge => rw [if_neg (show x.driven.edgeAt ≠ some c from hedge)]; rfl

theorem out_levelled {c : Nat} {x : Pin} (h : x.edgeAt ≠ some c) (level : Bool → Bool) : (x.levelled c level).out = level x.out := by
  rw [Pin.levelled, if_neg h]

theorem onPin_id (p : Nat) : onPin p id = fun _ x => x := by
  funext q x
  exact ite_self _

theorem onPin_comp (p : Nat) (f g : Pin → Pin) : onPin p (g ∘ f) = fun q x => onPin p g q (onPin p f q x) := by
  funext q x
  unfold onPin
  split
  · rfl
  · rfl

theorem State.DrivesOnly.driveOut (h : s.mayDrive b k (quadPin k j)) (level : Bool → Bool) :
    s.DrivesOnly (s.driveOut b k (quadPin k j) level) b k (onPin (quadPin k j) (Pin.levelled s.time.cycles level)) :=
  .drive h (driven_levelled _ _)

theorem State.DrivesOnly.driveEnable (h : s.mayDrive b k (quadPin k j)) (on : Bool) :
    s.DrivesOnly (s.driveEnable b k (quadPin k j) on) b k (onPin (quadPin k j) (Pin.enabled on)) := .drive h fun _ => rfl

/-- The side action of one pin. -/
theorem State.DrivesOnly.sideDrive (h : s.mayDrive b k (quadPin k j)) {cfg : Nat} {bit : Bool} :
    s.DrivesOnly (match cfg with
      | 1 => s.driveLevel b k (quadPin k j) bit
      | 2 => s.when bit fun s => s.driveOut b k (quadPin k j) fun v => !v
      | 3 => s.when bit fun s => (s.driveLevel b k (quadPin k j) true).drive b k (quadPin k j) fun x => { x with out := false }
      | _ => s) b k (onPin (quadPin k j) (sideAction cfg s.time.cycles bit)) := by
  have hnone : s.DrivesOnly s b k (onPin (quadPin k j) id) := onPin_id _ ▸ .refl s b k
  match cfg with
  | 0 => exact hnone
  | 1 => exact .driveOut h _
  | 2 =>
    cases bit with
    | false => exact hnone
    | true => exact .driveOut h _
  | 3 =>
    cases bit with
    | false => exact hnone
    | true =>
      have hraised : s.DrivesOnly (s.driveLevel b k (quadPin k j) true) b k
          (onPin (quadPin k j) (Pin.levelled s.time.cycles fun _ => true)) := .driveOut h _
      have hpulse := hraised.trans (.drive (hraised.mayDrive h) (f := Pin.lowered) fun _ => rfl)
      rw [← onPin_comp] at hpulse
      exact hpulse
  | _ + 4 => exact hnone

/-- The side actions of an instruction, on pins the sett may all drive (R207). -/
theorem State.DrivesOnly.sideSet (h : ∀ j, s.mayDrive b k (quadPin k j)) (d : Nat → Bool) :
    s.DrivesOnly (s.sideSet b k w d) b k fun q x => ((List.range 4).filter fun j => !d j).foldl (fun x j => onPin (quadPin k j)
      (sideAction (natBits (s.rd .SETT_SIDE [b, k]) (2 * j + 1) (2 * j)) s.time.cycles (natBit (insSide w) j)) q x) x := by
  refine .each (State.DrivesOnly.refl s b k).toDrives fun t f j _ ht => ?_
  rw [← ht.side, ← ht.time]
  exact .sideDrive (ht.mayDrive (h j))

/-- The level after a side action. -/
def sideLevel (cfg : Nat) (bit out : Bool) : Bool :=
  match cfg with
  | 0 => out
  | 1 => bit
  | 2 => if bit then !out else out
  | _ => if bit then false else out

/-- A side action takes effect on a pin that no scheduled edge has taken in this cycle. -/
theorem out_sideAction {cfg c : Nat} {x : Pin} (hcfg : cfg < 4) (h : x.edgeAt ≠ some c) (bit : Bool) :
    (sideAction cfg c bit x).out = sideLevel cfg bit x.out := by
  match cfg with
  | 0 => rfl
  | 1 => exact out_levelled h _
  | 2 =>
    cases bit with
    | false => rfl
    | true => exact out_levelled h _
  | 3 => cases bit <;> rfl

theorem sideWithEnables_drives (s : State) (b k w : Nat) (hside : s.rd .SETT_SIDE [b, k] = 0)
    (h : s.is F.BNCH_STATUS_out_of_service [b] = false) :
    ∃ g, s.DrivesOnly (s.sideWithEnables b k w) b k g := by
  have hoff := State.DrivesOnly.each (F := fun s j => s.driveEnable b k (quadPin k j) false)
    (xs := (List.range 4).filter fun j => s.disables b k w j && s.owner b (quadPin k j) == k % 4 && s.driveEnabled b (quadPin k j))
    (g := fun j => onPin (quadPin k j) (Pin.enabled false)) (State.DrivesOnly.refl s b k).toDrives fun u f j hj hu => by
      obtain ⟨-, hj⟩ := List.mem_filter.mp hj
      simp only [Bool.and_eq_true, beq_iff_eq] at hj
      exact .driveEnable (hu.mayDrive ⟨h, hj.1.2, hj.2⟩) _
  have hnone : s.sideWithEnables b k w = _ := State.sideSet_none _ _ _ _ _ (hoff.side.trans hside)
  rw [hnone]
  exact ⟨_, hoff⟩

theorem past_steady (t : Sett) : t.past.steady = t.steady.past := rfl

/-- A wait lasts through the edges that it sees. -/
theorem wait_of_steady {t t' : Sett} {x : SettWait} (h : t'.steady = t.steady) (hx : t.wait = some x) :
    ∃ y, t'.wait = some y ∧ y.word = x.word ∧ y.injected = x.injected ∧ y.back = x.back := by
  have hwait : (t'.wait.map fun x => { x with met := false }) = some { x with met := false } :=
    (congrArg Sett.wait h).trans (congrArg (Option.map _) hx)
  obtain ⟨y, hy, hyx⟩ := Option.map_eq_some_iff.mp hwait
  simp only [SettWait.mk.injEq] at hyx
  obtain ⟨hword, hinjected, hback, -⟩ := hyx
  exact ⟨y, hy, hword, hinjected, hback⟩

/-- An instruction that drives output enables: what it disables is off before its effect (R207, R208). -/
theorem instruction_effect_enables (h : s.atWord b k op w) (hop : op ∈ unwaiting) (hen : enablesWord w = true)
    (hservice : s.is F.BNCH_STATUS_out_of_service [b] = false) :
    ∃ v x g, s.Drives v b k g ∧ (v.sett b k).steady = (s.sett b k).past.steady ∧ x.word = w ∧
      (((v.effect b k x).sett b k).contended = false → (v.effect b k x).settSame (s.instruction (some op) b k .good) b k) := by
  have hstands := State.standsAt_of_atWord h
  obtain ⟨-, halone, -, -, hside, hword, -⟩ := h
  subst hword
  have hops := ne_of_unwaiting hop
  have hcycle := State.Drives.of_settOnly (firstCycle_settOnly s b k w)
  obtain ⟨g, hoff⟩ := sideWithEnables_drives (s.firstCycle b k w) b k w (hcycle.side.trans hside)
    ((State.is_of_regs (congrArg State.regs (firstCycle_settOnly s b k w).1) _ _).trans hservice)
  obtain ⟨x, hwait, hxword, hxinjected, hxback⟩ := wait_of_steady (hoff.setts b k) (congrArg Sett.wait (sett_firstCycle s b k w))
  refine ⟨((s.firstCycle b k w).sideWithEnables b k w).onSett b k Sett.past, x, _,
    (hcycle.trans hoff.toDrives).trans (.of_settOnly (State.settOnly_onSett ..)), ?_, hxword, fun hcalm => ?_⟩
  · rw [State.sett_onSett, past_steady, hoff.setts, sett_firstCycle, ← halone]
    rfl
  · have hsame := complete_same hxinjected hxback hcalm
    rw [instruction_begins hstands hops.1, if_pos hen, checkWait_completes hwait (by rw [hxword]; exact ready_of_unwaiting hop _ _)
      (by rw [hxword]; exact hops.2), stopContended_of_calm (hsame.2.symm ▸ hcalm)]
    exact hsame

end Sys2Proof.Machine

end

section

/-! SETI with its side actions, OUT to pins and to enables, and DIR (R207, R219, R222, R227). -/

namespace Sys2Proof.Machine

variable {s u v : State} {b k op w j n : Nat} {x : SettWait} {g : Nat → Pin → Pin}

/-- Edges leave where a sett stands, what it shifts out, and whether a stop is pending. -/
theorem counts_of_steady {t t' : Sett} (h : t'.steady = t.steady) :
    t'.pc = t.pc ∧ t'.osr = t.osr ∧ t'.osrCount = t.osrCount ∧ t'.contended = t.contended := by
  show t'.steady.pc = t.steady.pc ∧ t'.steady.osr = t.steady.osr ∧ t'.steady.osrCount = t.steady.osrCount ∧
    t'.steady.contended = t.steady.contended
  rw [h]
  exact ⟨rfl, rfl, rfl, rfl⟩

/-- The drives of up to four successive pins of the quad, seen at one of them. -/
theorem State.Drives.at_pin {xs : List Nat} {pin : Nat → Nat} {f : Nat → Pin → Pin}
    (h : s.Drives u b k fun q x => xs.foldl (fun x i => onPin (pin i) (f i) q x) x) (a : Nat) (hpin : ∀ i, pin i = quadPin k (a + i))
    (hxs : xs.Pairwise (· < ·)) (hlt : ∀ i ∈ xs, i < 4) (hj : j ∈ xs) :
    (u.pinOf b (pin j)).driven = f j (s.pinOf b (pin j)).driven := by
  refine (h.pins _).trans (foldl_onPin (hxs.imp_of_mem fun {i i'} hi hi' hless => ?_) hj _)
  have := hlt i hi
  have := hlt i' hi'
  simp only [hpin, quadPin]
  omega

theorem natBits_lt_four (w j : Nat) : natBits w (2 * j + 1) (2 * j) < 4 :=
  Nat.lt_of_lt_of_eq (natBits_lt ..) (by rw [show 2 * j + 1 + 1 - 2 * j = 2 by omega]; rfl)

/-- SETI changes one register, and neither where the sett stands nor whether a stop is pending (R219). -/
theorem counts_doSeti (v : State) (b k w : Nat) :
    ((v.doSeti b k w).sett b k).pc = (v.sett b k).pc ∧ ((v.doSeti b k w).sett b k).contended = (v.sett b k).contended := by
  have hset (t : Sett) (r x : Nat) : (setRegOf t r x).pc = t.pc ∧ (setRegOf t r x).contended = t.contended := by
    unfold setRegOf
    split <;> exact ⟨rfl, rfl⟩
  have hsett : (v.doSeti b k w).sett b k = _ := State.sett_onSett v b k _
  rw [hsett]
  exact hset ..

theorem effect_of_seti (h : insOp x.word = 0x07) (v : State) : v.effect b k x = v.doSeti b k x.word := by
  simp only [State.effect, h]

theorem seti_result (h : s.StandsAt b k w) (hop : insOp w = 0x07)
    (hmay : ∀ j, s.mayDrive b k (quadPin k j)) (hedge : ∀ j, (s.pinOf b (quadPin k j)).edgeAt ≠ some s.time.cycles) :
    ((s.instruction (some 0x07) b k .good).sett b k).pc = ((s.sett b k).pc + 1) % 64 ∧
      ∀ j, j < 4 → ((s.instruction (some 0x07) b k .good).pinOf b (quadPin k j)).out =
        sideLevel (natBits (s.rd .SETT_SIDE [b, k]) (2 * j + 1) (2 * j)) (natBit (insSide w) j) (s.pinOf b (quadPin k j)).out := by
  have hen : enablesWord w = false := by simp [enablesWord, hop]
  have hdriven : (List.range 4).filter (fun j => !outDrives w j) = List.range 4 := by simp [outDrives, hop]
  obtain ⟨v, x, honly, hpast, hx, heffect⟩ := instruction_effect h (by rw [hop]; decide) hen
  have hseti : v.effect b k x = v.doSeti b k w := hx ▸ effect_of_seti (hx ▸ hop) v
  obtain ⟨hpc, hcalm⟩ := counts_doSeti v b k w
  rw [hpast] at hpc hcalm
  rw [hseti] at heffect
  obtain ⟨e, hsame, hinstruction⟩ := heffect (hcalm.trans h.calm)
  have hbefore : s.Drives e b k fun _ x => x := .of_settOnly <|
    State.settOnly_trans honly <| State.settOnly_trans (State.settOnly_onSett ..) hsame.1
  have hside := State.DrivesOnly.sideSet (w := w) (fun j => hbefore.mayDrive (hmay j)) (outDrives w)
  rw [hdriven, hbefore.side, hbefore.time] at hside
  obtain ⟨hpc', -, -, hcalm'⟩ := counts_of_steady (hside.setts b k)
  rw [hop] at hinstruction
  rw [hinstruction, stopContended_of_calm (by rw [hcalm', hsame.2, hcalm]; exact h.calm)]
  refine ⟨by rw [hpc', hsame.2, hpc]; rfl, fun j hj => ?_⟩
  have hpin := (hbefore.trans hside.toDrives).at_pin 0 (fun i => by rw [Nat.zero_add]) List.pairwise_lt_range
    (fun i => List.mem_range.mp) (List.mem_range.mpr hj)
  exact (congrArg Pin.out hpin).trans (out_sideAction (x := (s.pinOf b (quadPin k j)).driven) (natBits_lt_four ..) (hedge j) _)

/-- What OUT shifts out (R222). -/
theorem shiftOut_fst (top : Bool) (n osr : Nat) : (shiftOut top n osr).1 = if top then osr / 2 ^ (32 - n) else osr % 2 ^ n := by
  cases top <;> rfl

/-- OUT to pins carries at most four bits (R214, R222). -/
theorem bitCount_le_of_out (hop : insOp w = 0x03) (hsel : natBits w 19 17 ≤ 1) (h : s.wordTrap b k w = none) : bitCount w ≤ 4 := by
  by_contra hn
  have hbad : badWord w = some 2 := by
    simp only [badWord, hop]
    simp [hsel, show 4 < bitCount w by omega]
  simp [State.wordTrap, hbad] at h

/-- The effect of OUT on a sett that shifts out `d`. -/
def State.shiftedOut (v : State) (b k w : Nat) : State :=
  v.onSett b k fun t => { t with osr := (shiftOut (natBit w 14) (bitCount w) (v.sett b k).osr).2, osrCount := t.osrCount - bitCount w }

theorem doOut_levels (hsel : natBits w 19 17 = 0) (hmay : ∀ i, i < bitCount w → v.mayDrive b k (quadPin k (natBits w 16 15 + i))) :
    (v.shiftedOut b k w).DrivesOnly (v.doOut b k w) b k fun q x => (List.range (bitCount w)).foldl (fun x i =>
      onPin (quadPin k (natBits w 16 15 + i)) (Pin.levelled v.time.cycles fun _ =>
        natBit (shiftOut (natBit w 14) (bitCount w) (v.sett b k).osr).1 i) q x) x := by
  have hshift : v.Drives (v.shiftedOut b k w) b k fun _ x => x := .of_settOnly (State.settOnly_onSett ..)
  have hdrives : v.doOut b k w = (v.shiftedOut b k w).each (List.range (bitCount w)) fun s i =>
      s.driveLevel b k (quadPin k (natBits w 16 15 + i)) (natBit (shiftOut (natBit w 14) (bitCount w) (v.sett b k).osr).1 i) := by
    simp only [State.doOut, hsel]
    rfl
  rw [hdrives]
  refine .each hshift fun u f i hi hu => ?_
  rw [← hu.time]
  exact .driveOut (hu.mayDrive (hmay i (List.mem_range.mp hi))) _

theorem doOut_enables (hsel : natBits w 19 17 = 1) (hmay : ∀ i, i < bitCount w → v.mayDrive b k (quadPin k (natBits w 16 15 + i))) :
    (v.shiftedOut b k w).DrivesOnly (v.doOut b k w) b k fun q x => (List.range (bitCount w)).foldl (fun x i =>
      onPin (quadPin k (natBits w 16 15 + i)) (Pin.enabled (natBit (shiftOut (natBit w 14) (bitCount w) (v.sett b k).osr).1 i)) q x) x := by
  have hshift : v.Drives (v.shiftedOut b k w) b k fun _ x => x := .of_settOnly (State.settOnly_onSett ..)
  have hdrives : v.doOut b k w = (v.shiftedOut b k w).each (List.range (bitCount w)) fun s i =>
      s.driveEnable b k (quadPin k (natBits w 16 15 + i)) (natBit (shiftOut (natBit w 14) (bitCount w) (v.sett b k).osr).1 i) := by
    simp only [State.doOut, hsel]
    rfl
  rw [hdrives]
  exact .each hshift fun u f i hi hu => .driveEnable (hu.mayDrive (hmay i (List.mem_range.mp hi))) _

theorem effect_of_out (h : insOp x.word = 0x03) (v : State) : v.effect b k x = v.doOut b k x.word := by
  simp only [State.effect, h]

theorem effect_of_dir (h : insOp x.word = 0x11) (v : State) : v.effect b k x = v.doDir b k x.word := by
  simp only [State.effect, h]

/-- Where a sett stands after OUT, and what it still has to shift out. -/
theorem counts_doOut {t : Sett} (hv : (v.sett b k).steady = t.past.steady) (h : (v.shiftedOut b k w).DrivesOnly (v.doOut b k w) b k g) :
    ((v.doOut b k w).sett b k).pc = (t.pc + 1) % 64 ∧ ((v.doOut b k w).sett b k).osrCount = t.osrCount - bitCount w ∧
      ((v.doOut b k w).sett b k).contended = t.contended := by
  obtain ⟨hpc, -, hcount, hcalm⟩ := counts_of_steady (h.setts b k)
  obtain ⟨hpc', -, hcount', hcalm'⟩ := counts_of_steady hv
  have hsett : (v.shiftedOut b k w).sett b k = _ := State.sett_onSett v b k _
  rw [hsett] at hpc hcount hcalm
  exact ⟨hpc.trans hpc', hcount.trans (congrArg (· - bitCount w) hcount'), hcalm.trans hcalm'⟩

/-- OUT to the levels of pins (R185, R222). -/
theorem out_levels_result (h : s.atWord b k 0x03 w) (hsel : natBits w 19 17 = 0)
    (hmay : ∀ i, i < bitCount w → s.mayDrive b k (quadPin k (natBits w 16 15 + i)))
    (hedge : ∀ i, i < bitCount w → (s.pinOf b (quadPin k (natBits w 16 15 + i))).edgeAt ≠ some s.time.cycles) :
    ((s.instruction (some 0x03) b k .good).sett b k).pc = ((s.sett b k).pc + 1) % 64 ∧
      ((s.instruction (some 0x03) b k .good).sett b k).osrCount = (s.sett b k).osrCount - bitCount w ∧
      ∀ i, i < bitCount w → ((s.instruction (some 0x03) b k .good).pinOf b (quadPin k (natBits w 16 15 + i))).out =
        natBit (shiftOut (natBit w 14) (bitCount w) (s.sett b k).osr).1 i := by
  obtain ⟨-, -, hcalm, -, hside, hop, htrap⟩ := id h
  have hfew := bitCount_le_of_out hop (by omega) htrap
  have hen : enablesWord w = false := by simp [enablesWord, hop, hsel]
  obtain ⟨v, x, honly, hpast, rfl, heffect⟩ := instruction_effect_alone h (by decide) hen
  have hv := State.Drives.of_settOnly honly
  have hout := doOut_levels hsel fun i hi => hv.mayDrive (hmay i hi)
  obtain ⟨hpc, hcount, hcalm'⟩ := counts_doOut (congrArg Sett.steady hpast) hout
  have hbefore := hv.trans ((State.Drives.of_settOnly (State.settOnly_onSett ..)).trans hout.toDrives)
  rw [effect_of_out hop] at heffect
  have hsame := heffect (hcalm'.trans hcalm) (hbefore.side.trans hside)
  refine ⟨by rw [hsame.2, hpc], by rw [hsame.2, hcount], fun i hi => ?_⟩
  have hpin := (hbefore.trans (.of_settOnly hsame.1)).at_pin _ (fun _ => rfl) List.pairwise_lt_range
    (fun j hj => Nat.lt_of_lt_of_le (List.mem_range.mp hj) hfew) (List.mem_range.mpr hi)
  rw [hv.time, hpast] at hpin
  exact (congrArg Pin.out hpin).trans (out_levelled (x := (s.pinOf b _).driven) (hedge i hi) _)

/-- OUT to the output enables of pins (R208, R222). -/
theorem out_enables_result (h : s.atWord b k 0x03 w) (hsel : natBits w 19 17 = 1) (hservice : s.is F.BNCH_STATUS_out_of_service [b] = false)
    (hmay : ∀ i, i < bitCount w → s.mayDrive b k (quadPin k (natBits w 16 15 + i))) :
    ((s.instruction (some 0x03) b k .good).sett b k).pc = ((s.sett b k).pc + 1) % 64 ∧
      ((s.instruction (some 0x03) b k .good).sett b k).osrCount = (s.sett b k).osrCount - bitCount w ∧
      ∀ i, i < bitCount w → ((s.instruction (some 0x03) b k .good).pinOf b (quadPin k (natBits w 16 15 + i))).enable =
        natBit (shiftOut (natBit w 14) (bitCount w) (s.sett b k).osr).1 i := by
  obtain ⟨-, -, hcalm, -, -, hop, htrap⟩ := id h
  have hfew := bitCount_le_of_out hop (by omega) htrap
  have hen : enablesWord w = true := by simp [enablesWord, hop, hsel]
  obtain ⟨v, x, g, hv, hpast, rfl, heffect⟩ := instruction_effect_enables h (by decide) hen hservice
  have hout := doOut_enables hsel fun i hi => hv.mayDrive (hmay i hi)
  obtain ⟨hpc, hcount, hcalm'⟩ := counts_doOut hpast hout
  have hafter := (State.Drives.of_settOnly (State.settOnly_onSett ..)).trans hout.toDrives
  rw [effect_of_out hop] at heffect
  have hsame := heffect (hcalm'.trans hcalm)
  refine ⟨by rw [hsame.2, hpc], by rw [hsame.2, hcount], fun i hi => ?_⟩
  have hpin := (hafter.trans (.of_settOnly hsame.1)).at_pin _ (fun _ => rfl) List.pairwise_lt_range
    (fun j hj => Nat.lt_of_lt_of_le (List.mem_range.mp hj) hfew) (List.mem_range.mpr hi)
  obtain ⟨-, hosr, -, -⟩ := counts_of_steady hpast
  rw [hosr] at hpin
  exact congrArg Pin.enable hpin

/-- DIR (R208, R227). -/
theorem dir_result (h : s.atWord b k 0x11 w) (hservice : s.is F.BNCH_STATUS_out_of_service [b] = false)
    (hmay : ∀ j, j < 4 → natBit w (16 + j) = true → s.mayDrive b k (quadPin k j)) :
    ((s.instruction (some 0x11) b k .good).sett b k).pc = ((s.sett b k).pc + 1) % 64 ∧
      ∀ j, j < 4 → natBit w (16 + j) = true →
        ((s.instruction (some 0x11) b k .good).pinOf b (quadPin k j)).enable = natBit w (12 + j) := by
  obtain ⟨-, -, hcalm, -, -, hop, -⟩ := id h
  have hbit (lo j : Nat) (hj : j < 4) : natBit (natBits w (lo + 3) lo) j = natBit w (lo + j) := by
    simp only [natBit, natBits, Nat.testBit_mod_two_pow, Nat.testBit_shiftRight]
    simp [show j < lo + 3 + 1 - lo by omega]
  have hen : enablesWord w = true := by simp [enablesWord, hop]
  obtain ⟨v, x, g, hv, hpast, rfl, heffect⟩ := instruction_effect_enables h (by decide) hen hservice
  have hmem {j : Nat} : j ∈ (List.range 4).filter (fun j => natBit (natBits x.word 19 16) j) ↔
      j < 4 ∧ natBit x.word (16 + j) = true := by
    rw [List.mem_filter, List.mem_range]
    exact and_congr_right fun hj => by rw [hbit 16 j hj]
  have hdir : v.DrivesOnly (v.doDir b k x.word) b k _ := .each (State.DrivesOnly.refl v b k).toDrives fun u f j hj hu =>
    .driveEnable (hu.mayDrive (hv.mayDrive (hmay j (hmem.mp hj).1 (hmem.mp hj).2))) _
  obtain ⟨hpc, -, -, hcalm'⟩ := counts_of_steady ((hdir.setts b k).trans hpast)
  rw [effect_of_dir hop] at heffect
  have hsame := heffect (hcalm'.trans hcalm)
  refine ⟨by rw [hsame.2, hpc]; rfl, fun j hj hon => ?_⟩
  have hpin := (hdir.toDrives.trans (.of_settOnly hsame.1)).at_pin 0 (fun i => by rw [Nat.zero_add]) (List.pairwise_lt_range.filter _)
    (fun i hi => (hmem.mp hi).1) (hmem.mpr ⟨hj, hon⟩)
  exact (congrArg Pin.enable hpin).trans (hbit 12 j hj)

end Sys2Proof.Machine

end

section

/-! SHOT, RAISE, IRQW and HALT (R159, R218, R239, R240, R242). -/

namespace Sys2Proof.Machine

variable {s u v : State} {b k op w : Nat} {x : SettWait}

theorem State.regs_of_settOnly (h : s.settOnly u b k) : u.regs = s.regs := by rw [h.1]

theorem State.shot_of_settOnly (h : s.settOnly u b k) : u.shot = s.shot := by rw [h.1]

theorem State.benches_of_settOnly (h : s.settOnly u b k) : u.benches = s.benches := by rw [h.1]

theorem State.sett_of_regsOnly {f : Nat → Bool} (h : s.regsOnly u f) (b k : Nat) : u.sett b k = s.sett b k := by
  rw [h.1]
  rfl

theorem effect_of_shot (h : insOp x.word = 0x0C) (v : State) :
    v.effect b k x = v.settShot b k (natBits x.word 2 0) (natBit x.word 19) := by
  simp only [State.effect, h]
  rfl

/-- A line that the sett may drive takes its level (R159, R242). -/
theorem shot_result (h : s.atWord b k 0x0C w) (hmay : s.settMayDrive b (natBits w 2 0) = true) :
    (s.instruction (some 0x0C) b k .good).sett b k = (s.sett b k).past ∧ (s.instruction (some 0x0C) b k .good).regs = s.regs ∧
      (s.instruction (some 0x0C) b k .good).settLinesOf b k = natSetBit (s.settLinesOf b k) (natBits w 2 0) (natBit w 19) := by
  obtain ⟨-, -, hcalm, -, hside, hop, -⟩ := id h
  obtain ⟨v, x, honly, hpast, rfl, heffect⟩ := instruction_effect_alone h (by decide) (by simp [enablesWord, hop])
  have hregs := State.regs_of_settOnly honly
  have hmay' : v.settMayDrive b (natBits x.word 2 0) = true := by
    rw [State.settMayDrive, State.get_of_regs hregs]
    exact hmay
  have hlines : v.effect b k x = v.settLines b k (natSetBit (v.settLinesOf b k) (natBits x.word 2 0) (natBit x.word 19)) :=
    (effect_of_shot hop v).trans (if_pos hmay')
  rw [hlines] at heffect
  have hsett : (v.settLines b k (natSetBit (v.settLinesOf b k) (natBits x.word 2 0) (natBit x.word 19))).sett b k =
      (s.sett b k).past := hpast
  have hsame := heffect (hsett ▸ hcalm) ((State.rd_of_regs hregs ..).trans hside)
  refine ⟨hsame.2.trans hsett, (State.regs_of_settOnly hsame.1).trans hregs, ?_⟩
  unfold State.settLinesOf
  rw [State.shot_of_settOnly hsame.1, ← State.shot_of_settOnly honly]
  exact smGet_smSet_same ..

/-- A line that it may not drive stays, and the bench's leaf 6 is set (R159). -/
theorem shot_refused_result (hb : b < 16) (h : s.atWord b k 0x0C w) (hmay : s.settMayDrive b (natBits w 2 0) = false) :
    (s.instruction (some 0x0C) b k .good).sett b k = (s.sett b k).past ∧ (s.instruction (some 0x0C) b k .good).shot = s.shot ∧
      (s.instruction (some 0x0C) b k .good).leafSet (32 * b + 6) = true := by
  obtain ⟨-, -, hcalm, -, hside, hop, -⟩ := id h
  obtain ⟨v, x, honly, hpast, rfl, heffect⟩ := instruction_effect_alone h (by decide) (by simp [enablesWord, hop])
  have hregs := State.regs_of_settOnly honly
  have hmay' : v.settMayDrive b (natBits x.word 2 0) = false := by
    rw [State.settMayDrive, State.get_of_regs hregs]
    exact hmay
  have hrefused : v.effect b k x = v.leaf (benchLeaf b 6) k :=
    (effect_of_shot hop v).trans (if_neg (ne_true_of_eq_false hmay'))
  rw [hrefused] at heffect
  have hleaf := v.leaf_regsOnly (benchLeaf b 6) k 0 false
  have hoff : causeAddr (Reg.SETT_SIDE.addr [b, k]) = false := by simp [causeAddr, Reg.addr, Reg.desc, dimOffset]; omega
  have hassigned : leafAssigned (benchLeaf b 6) = true := by
    unfold leafAssigned benchLeaf
    rw [if_pos (by omega)]
    exact decide_eq_true (by omega)
  have hsett := (State.sett_of_regsOnly hleaf b k).trans hpast
  have hsame := heffect (hsett ▸ hcalm) ((State.regsOnly_rd hleaf _ _ hoff).trans ((State.rd_of_regs hregs ..).trans hside))
  refine ⟨hsame.2.trans hsett, ?_, ?_⟩
  · rw [State.shot_of_settOnly hsame.1, State.shot_of_regsOnly hleaf, State.shot_of_settOnly honly]
  · exact (State.leafSet_of_regs (State.regs_of_settOnly hsame.1) _).trans (v.leafSet_leaf _ _ _ _ hassigned)

theorem State.benchOf_of_benches (h : u.benches = s.benches) (b : Nat) : u.benchOf b = s.benchOf b := by
  unfold State.benchOf
  rw [h]

/-- From `s` to `u` the register words and the benches stay. -/
def State.benchesKept (s u : State) : Prop := u.regs = s.regs ∧ u.benches = s.benches

theorem benchesKept_foldl {f : State → Nat → State} (hf : ∀ (u : State) m, u.benchesKept (f u m)) (xs : List Nat) (s : State) :
    s.benchesKept (xs.foldl f s) := by
  induction xs generalizing s with
  | nil => exact ⟨rfl, rfl⟩
  | cons m xs ih =>
    obtain ⟨hregs, hbenches⟩ := ih (f s m)
    exact ⟨hregs.trans (hf s m).1, hbenches.trans (hf s m).2⟩

theorem benchesKept_meetLines (s : State) (c : Nat) : s.benchesKept (s.meetLines c) := by
  refine benchesKept_foldl (fun u m => ?_) _ s
  dsimp only
  split
  · split
    · exact State.when_of (P := fun t => u.benchesKept t) ⟨rfl, rfl⟩ ⟨rfl, rfl⟩
    · exact ⟨rfl, rfl⟩
  · exact ⟨rfl, rfl⟩

theorem sees_meetLines (s : State) (c b k : Nat) : s.Sees (s.meetLines c) b k := by
  refine .foldl fun u m => ?_
  dsimp only
  split
  · split
    · exact .when .meet
    · exact .refl u b k
  · exact .refl u b k

/-- The event lines of a bench take a value, and the waits on them see it (R235, R239). -/
theorem setEvents_result (v : State) (c e b k : Nat) : (v.setEvents c e).regs = v.regs ∧ ((v.setEvents c e).benchOf c).events = e ∧
    ((v.setEvents c e).sett b k).steady = (v.sett b k).steady := by
  obtain ⟨hregs, hbenches⟩ := benchesKept_meetLines (v.setBench c { v.benchOf c with events := e }) c
  have hbench : (v.setEvents c e).benchOf c = { v.benchOf c with events := e } :=
    (State.benchOf_of_benches hbenches c).trans (State.benchOf_setBench ..)
  exact ⟨hregs, congrArg Bench.events hbench, (sees_meetLines _ c b k).setts b k⟩

theorem effect_of_raise (h : insOp x.word = 0x0D) (v : State) : v.effect b k x = v.doRaise b k x.word := by
  simp only [State.effect, h]

/-- The event lines of a bench after RAISE (R239): set, cleared, or as they were after a pulse. -/
def raised (mode e events : Nat) : Nat :=
  match mode with
  | 1 => natSetBit events e true
  | 2 => natSetBit events e false
  | _ => events

theorem raised_pulse {mode : Nat} (hset : mode ≠ 1) (hclear : mode ≠ 2) (e events : Nat) : raised mode e events = events := by
  unfold raised
  split
  · exact absurd rfl hset
  · exact absurd rfl hclear
  · rfl

theorem doRaise_result (v : State) (b k w : Nat) : (v.doRaise b k w).regs = v.regs ∧
    ((v.doRaise b k w).benchOf b).events = raised (natBits w 19 18) (natBits w 3 0) (v.benchOf b).events ∧
    ((v.doRaise b k w).sett b k).steady = (v.sett b k).steady := by
  unfold State.doRaise
  dsimp only
  split
  · next hset =>
    rw [hset]
    exact setEvents_result ..
  · next hclear =>
    rw [hclear]
    exact setEvents_result ..
  · next hset hclear =>
    obtain ⟨hregs, -, hsett⟩ := setEvents_result v b (natSetBit (v.benchOf b).events (natBits w 3 0) true) b k
    obtain ⟨hregs', hevents, hsett'⟩ := setEvents_result (v.setEvents b (natSetBit (v.benchOf b).events (natBits w 3 0) true)) b
      (v.benchOf b).events b k
    exact ⟨hregs'.trans hregs, hevents.trans (raised_pulse hset hclear _ _).symm, hsett'.trans hsett⟩

theorem raise_result (h : s.atWord b k 0x0D w) :
    ((s.instruction (some 0x0D) b k .good).sett b k).pc = ((s.sett b k).pc + 1) % 64 ∧
      (s.instruction (some 0x0D) b k .good).regs = s.regs ∧
      ((s.instruction (some 0x0D) b k .good).benchOf b).events = raised (natBits w 19 18) (natBits w 3 0) (s.benchOf b).events := by
  obtain ⟨-, -, hcalm, -, hside, hop, -⟩ := id h
  obtain ⟨v, x, honly, hpast, rfl, heffect⟩ := instruction_effect_alone h (by decide) (by simp [enablesWord, hop])
  obtain ⟨hregs, hevents, hsteady⟩ := doRaise_result v b k x.word
  obtain ⟨hpc, -, -, hcalm'⟩ := counts_of_steady (hsteady.trans (congrArg Sett.steady hpast))
  have hwords := hregs.trans (State.regs_of_settOnly honly)
  rw [effect_of_raise hop] at heffect
  have hsame := heffect (hcalm'.trans hcalm) ((State.rd_of_regs hwords ..).trans hside)
  refine ⟨by rw [hsame.2, hpc]; rfl, (State.regs_of_settOnly hsame.1).trans hwords, ?_⟩
  rw [State.benchOf_of_benches (State.benches_of_settOnly hsame.1), hevents,
    State.benchOf_of_benches (State.benches_of_settOnly honly)]

/-- IRQW takes the latch it waited for (R240). -/
theorem irqw_result (h : s.atWord b k 0x17 w) (hlatch : natBit (s.sett b k).latches (natBits w 3 0) = true) :
    s.settOnly (s.instruction (some 0x17) b k .good) b k ∧ (s.instruction (some 0x17) b k .good).sett b k =
      { (s.sett b k).past with latches := natSetBit (s.sett b k).latches (natBits w 3 0) false } := by
  obtain ⟨-, -, hcalm, -, -, hop, -⟩ := id h
  refine s.instruction_done b k 0x17 w _ h (by decide) (by simp [enablesWord, hop]) (fun u _ hu time => ?_) (by simp) hcalm
    fun u x _ _ hu hx _ _ => ?_
  · have hkept : (u.sett b k).latches = (s.sett b k).latches :=
      show (u.sett b k).past.latches = (s.sett b k).past.latches from congrArg Sett.latches hu
    simp [State.ready, hop, hkept, hlatch]
  · have heffect : u.effect b k x = u.doIrqw b k w := by simp only [State.effect, hx, hop]
    rw [heffect]
    refine ⟨State.settOnly_onSett .., (State.sett_onSett ..).trans ?_⟩
    rw [hu]
    rfl

/-- HALT (R218). -/
theorem halt_result (h : s.atWord b k 0x13 w) :
    s.settOnly (s.instruction (some 0x13) b k .good) b k ∧
      (s.instruction (some 0x13) b k .good).sett b k = { (s.sett b k).past with phase := .halted } := by
  obtain ⟨-, -, hcalm, -, -, hop, -⟩ := id h
  refine s.instruction_done b k 0x13 w _ h (by decide) (by simp [enablesWord, hop]) (fun u _ _ time => ?_) (by simp) hcalm
    fun u x _ _ hu hx _ _ => ?_
  · simp [State.ready, hop]
  · have heffect : u.effect b k x = u.doHalt b k := by simp only [State.effect, hx, hop]
    rw [heffect]
    refine ⟨State.settOnly_onSett .., (State.sett_onSett ..).trans ?_⟩
    rw [hu]

end Sys2Proof.Machine

end

section

/-! SYNC (R238). -/

namespace Sys2Proof.Machine

variable {s u v : State} {b k w m : Nat} {x : SettWait}

/-- The other setts of the bench stay while one begins. -/
theorem sett_of_settOnly_ne (h : s.settOnly u b k) (hm : m ≠ k) : u.sett b m = s.sett b m := h.2 _ (by omega)

theorem syncMember_of_settOnly (h : s.settOnly u b k) (g m : Nat) : u.syncMember b g m = s.syncMember b g m := by
  unfold State.syncMember
  rw [State.settOnly_rd h, State.settOnly_rd h]

/-- What SYNC does in its first cycle: it looks at its barrier, and nothing comes after that. -/
theorem sync_begins (h : s.atWord b k 0x12 w)
    (hcalm : (((s.firstCycle b k w).checkWait b k).sett b k).contended = false)
    (hside : ((s.firstCycle b k w).checkWait b k).rd .SETT_SIDE [b, k] = 0) :
    s.instruction (some 0x12) b k .good = (s.firstCycle b k w).checkWait b k := by
  have hop : insOp w = 0x12 := h.2.2.2.2.2.1
  have hbegins := instruction_begins (State.standsAt_of_atWord h) (by rw [hop]; decide)
  rw [hop, if_neg (by simp [enablesWord, hop]), State.sideSet_none _ _ _ _ _ hside, stopContended_of_calm hcalm] at hbegins
  exact hbegins

theorem checkWait_sync (hop : insOp w = 0x12) : (s.firstCycle b k w).checkWait b k =
    if (s.firstCycle b k w).barrierOpen b (natBits w 1 0) k then (s.firstCycle b k w).openBarrier b (natBits w 1 0)
      else s.firstCycle b k w := by
  have hready (u : State) (time : Option (Int × Dom)) : u.ready b k w time = (u.barrierOpen b (natBits w 1 0) k, u) := by
    simp only [State.ready, hop]
  have hwait := congrArg Sett.wait (sett_firstCycle s b k w)
  unfold State.checkWait
  rw [hwait]
  dsimp only [State.firstWait]
  rw [if_neg Bool.false_ne_true, hready, if_pos hop]

/-- Sett k waits at its own barrier from the first cycle on. -/
theorem atBarrier_firstCycle (hop : insOp w = 0x12) : atBarrier ((s.firstCycle b k w).sett b k) (natBits w 1 0) = true := by
  rw [sett_firstCycle]
  simp [atBarrier, State.firstWait, hop]

theorem phase_of_atBarrier {t : Sett} {g : Nat} (h : atBarrier t g = true) : t.phase = .waiting := by
  unfold atBarrier at h
  split at h
  · simp only [Bool.and_eq_true, beq_iff_eq] at h
    exact h.1.1
  · cases h

theorem syncMember_of_sound (hop : insOp w = 0x12) (h : s.wordTrap b k w = none) : s.syncMember b (natBits w 1 0) k = true := by
  unfold State.wordTrap at h
  split at h
  · cases h
  · simpa [hop] using h

theorem filter_eq_singleton : ∀ k < 64, (List.range 64).filter (fun m => m == k) = [k] := by decide

variable (hop : insOp w = 0x12) (hk : k < 64) (hmember : s.syncMember b (natBits w 1 0) k = true)
  (hothers : ∀ m, m < 64 → m ≠ k → s.syncMember b (natBits w 1 0) m = true →
    (s.sett b m).phase ≠ .running ∧ (s.sett b m).phase ≠ .waiting)

include hothers in
/-- A barrier that no other member runs toward or waits at is open (R238). -/
theorem barrierOpen_alone : (s.firstCycle b k w).barrierOpen b (natBits w 1 0) k = true := by
  have honly := firstCycle_settOnly s b k w
  refine List.all_eq_true.mpr fun m hm => ?_
  by_cases hmk : m = k
  · simp [hmk]
  · rw [syncMember_of_settOnly honly, sett_of_settOnly_ne honly hmk]
    cases hin : s.syncMember b (natBits w 1 0) m with
    | false => simp
    | true => simp [hothers m (List.mem_range.mp hm) hmk hin]

include hop hk hmember hothers in
/-- It lets sett k alone go on. -/
theorem openBarrier_alone :
    (s.firstCycle b k w).openBarrier b (natBits w 1 0) = (s.firstCycle b k w).complete b k (s.firstWait b w) := by
  have honly := firstCycle_settOnly s b k w
  have hawait : ∀ m ∈ List.range 64, ((s.firstCycle b k w).syncMember b (natBits w 1 0) m &&
      atBarrier ((s.firstCycle b k w).sett b m) (natBits w 1 0)) = (m == k) := by
    intro m hm
    rw [syncMember_of_settOnly honly]
    by_cases hmk : m = k
    · rw [hmk, hmember, atBarrier_firstCycle hop, beq_self_eq_true, Bool.and_self]
    · rw [sett_of_settOnly_ne honly hmk, beq_eq_false_iff_ne.mpr hmk, Bool.and_eq_false_imp]
      intro hin
      exact Bool.eq_false_iff.mpr fun hwaits => (hothers m (List.mem_range.mp hm) hmk hin).2 (phase_of_atBarrier hwaits)
  have hwait := congrArg Sett.wait (sett_firstCycle s b k w)
  unfold State.openBarrier
  dsimp only
  rw [List.filter_congr hawait, filter_eq_singleton k hk]
  show (s.firstCycle b k w).completeWaiting b k = _
  unfold State.completeWaiting
  rw [hwait]

end Sys2Proof.Machine

end

section

/-! SYNC at an open and at a closed barrier (R238). -/

namespace Sys2Proof.Machine

variable {s : State} {b k w : Nat}

theorem effect_of_sync {x : SettWait} (h : insOp x.word = 0x12) (v : State) : v.effect b k x = v := by
  simp only [State.effect, h]

/-- With no other member to wait for, SYNC completes at once. -/
theorem sync_open_result (h : s.atWord b k 0x12 w) (hk : k < 64)
    (hothers : ∀ m, m < 64 → m ≠ k → s.syncMember b (natBits w 1 0) m = true →
      (s.sett b m).phase ≠ .running ∧ (s.sett b m).phase ≠ .waiting) :
    s.settOnly (s.instruction (some 0x12) b k .good) b k ∧ (s.instruction (some 0x12) b k .good).sett b k = (s.sett b k).past := by
  obtain ⟨-, halone, hcalm, -, hside, hop, htrap⟩ := id h
  have hcheck : (s.firstCycle b k w).checkWait b k = (s.firstCycle b k w).complete b k (s.firstWait b w) := by
    rw [checkWait_sync hop, if_pos (barrierOpen_alone hothers), openBarrier_alone hop hk (syncMember_of_sound hop htrap) hothers]
  have hpast : ((s.firstCycle b k w).onSett b k Sett.past).sett b k = (s.sett b k).past := by
    rw [State.sett_onSett, sett_firstCycle, ← halone]
    rfl
  have hsame := complete_same (u := s.firstCycle b k w) (b := b) (k := k) (x := s.firstWait b w) rfl rfl
  rw [effect_of_sync (x := s.firstWait b w) hop, hpast, ← hcheck] at hsame
  obtain ⟨honly, hsett⟩ := hsame hcalm
  have hall : s.settOnly ((s.firstCycle b k w).checkWait b k) b k :=
    State.settOnly_trans (firstCycle_settOnly ..) (State.settOnly_trans (State.settOnly_onSett ..) honly)
  have hdone := hsett.trans hpast
  rw [sync_begins h (by rw [hdone]; exact hcalm) ((State.settOnly_rd hall ..).trans hside)]
  exact ⟨hall, hdone⟩

/-- While another member runs, it waits. -/
theorem sync_closed_result {m : Nat} (h : s.atWord b k 0x12 w) (hm : m < 64) (hne : m ≠ k)
    (hmember : s.syncMember b (natBits w 1 0) m = true) (hruns : (s.sett b m).phase = .running) :
    s.settOnly (s.instruction (some 0x12) b k .good) b k ∧ ((s.instruction (some 0x12) b k .good).sett b k).phase = .waiting ∧
      ((s.instruction (some 0x12) b k .good).sett b k).pc = (s.sett b k).pc := by
  obtain ⟨-, -, hcalm, -, hside, hop, -⟩ := id h
  have honly := firstCycle_settOnly s b k w
  have hsett := sett_firstCycle s b k w
  have hclosed : (s.firstCycle b k w).barrierOpen b (natBits w 1 0) k ≠ true := by
    intro hopen
    have hthere := List.all_eq_true.mp hopen m (List.mem_range.mpr hm)
    rw [syncMember_of_settOnly honly, sett_of_settOnly_ne honly hne, hmember] at hthere
    have hbarrier : atBarrier (s.sett b m) (natBits w 1 0) = true := by simpa [hne, hruns] using hthere
    exact absurd (hruns.symm.trans (phase_of_atBarrier hbarrier)) (by decide)
  have hcheck : (s.firstCycle b k w).checkWait b k = s.firstCycle b k w := (checkWait_sync hop).trans (if_neg hclosed)
  rw [sync_begins h (by rw [hcheck, hsett]; exact hcalm) (by rw [hcheck, State.settOnly_rd honly]; exact hside), hcheck, hsett]
  exact ⟨honly, rfl, rfl⟩

end Sys2Proof.Machine

end

section

/-! Instructions that drive pins, and those of lines and barriers. -/

namespace Sys2Proof.Machine

/-- OUT to pins, to their levels or to their output enables (R222). -/
theorem out_result {s : State} {b k w : Nat} (h : s.atWord b k 0x03 w) (hsel : natBits w 19 17 ≤ 1)
    (hservice : s.is F.BNCH_STATUS_out_of_service [b] = false)
    (hmay : ∀ i, i < bitCount w → s.mayDrive b k (quadPin k (natBits w 16 15 + i)))
    (hedge : natBits w 19 17 = 0 → ∀ i, i < bitCount w →
      (s.pinOf b (quadPin k (natBits w 16 15 + i))).edgeAt ≠ some s.time.cycles) :
    ((s.instruction (some 0x03) b k .good).sett b k).pc = ((s.sett b k).pc + 1) % 64 ∧
      ((s.instruction (some 0x03) b k .good).sett b k).osrCount = (s.sett b k).osrCount - bitCount w ∧
      ∀ i, i < bitCount w →
        if natBits w 19 17 = 0 then
          ((s.instruction (some 0x03) b k .good).pinOf b (quadPin k (natBits w 16 15 + i))).out =
            natBit (shiftOut (natBit w 14) (bitCount w) (s.sett b k).osr).1 i
        else
          ((s.instruction (some 0x03) b k .good).pinOf b (quadPin k (natBits w 16 15 + i))).enable =
            natBit (shiftOut (natBit w 14) (bitCount w) (s.sett b k).osr).1 i := by
  by_cases hlevel : natBits w 19 17 = 0
  · simp only [if_pos hlevel]
    exact out_levels_result h hlevel hmay (hedge hlevel)
  · simp only [if_neg hlevel]
    exact out_enables_result h (by omega) hservice hmay

/-- Settles O4: the drives of an instruction reach the pins that the sett may drive (`State.DrivesOnly`) and leave the rest of the sett as
the instruction made it; an instruction that drives none leaves what its effect made (`instruction_effect_alone`), and a SYNC goes on or
waits by its barrier. -/
theorem settPinAndEventInstructions : Obligations.SettPinAndEventInstructions := by
  unfold Obligations.SettPinAndEventInstructions
  refine ⟨fun s b k w hup => ?_, fun s b k w hup => ?_⟩
  · have hdown := ne_true_of_eq_false hup
    intro t n d drives noEdge hservice
    have hd : d = (shiftOut (natBit w 14) n t.osr).1 := (shiftOut_fst ..).symm
    refine ⟨fun h hsel hmay hedge => ?_, fun h hmay => ?_, fun hrun halone hcalm hword hop hsound hmay => ?_⟩
    · rw [hd]
      exact ⟨_, if_neg hdown, out_result (s := s.clearOut) h hsel hservice (fun i hi => ⟨hservice, hmay i hi⟩) hedge⟩
    · exact ⟨_, if_neg hdown,
        dir_result (s := s.clearOut) h hservice fun j hj hon => ⟨hservice, hmay j hj hon⟩⟩
    · have hquad (j : Nat) : drives (quadPin k j) ∧ noEdge (quadPin k j) :=
        quadPin_mod k j ▸ hmay (j % 4) (Nat.mod_lt _ (by decide))
      exact ⟨_, if_neg hdown, seti_result (s := s.clearOut) ⟨hrun, halone, hcalm, hword, hsound⟩ hop
        (fun j => ⟨hservice, (hquad j).1⟩) fun j => (hquad j).2⟩
  · have hdown := ne_true_of_eq_false hup
    refine ⟨fun h hmay => ?_, fun h hmay hb => ?_, fun h => ?_, fun h hlatch => ?_, fun h hk hothers => ?_,
      fun m h hm hne hmember hruns => ?_, fun h => ?_⟩
    · exact ⟨_, if_neg hdown, shot_result (s := s.clearOut) h hmay⟩
    · exact ⟨_, if_neg hdown, shot_refused_result (s := s.clearOut) hb h hmay⟩
    · exact ⟨_, if_neg hdown, raise_result (s := s.clearOut) h⟩
    · exact ⟨_, if_neg hdown, irqw_result (s := s.clearOut) h hlatch⟩
    · exact ⟨_, if_neg hdown, sync_open_result (s := s.clearOut) h hk hothers⟩
    · exact ⟨_, if_neg hdown, sync_closed_result (s := s.clearOut) h hm hne hmember hruns⟩
    · exact ⟨_, if_neg hdown, halt_result (s := s.clearOut) h⟩

end Sys2Proof.Machine

end

section

/-! Injection into a waiting sett (R180): the wait is abandoned. -/

namespace Sys2Proof.Machine

/-- Sett 0 of bench 0 stands in a WAIT. -/
def settAtWait : Sett := { phase := .waiting, wait := some { word := 2 ^ 27 } }

/-- The hub after reset, with that sett. -/
def hubWithWaitingSett : State := State.reset.setSett 0 0 settAtWait

theorem admits_inject_of_waitingSett : hubWithWaitingSett.admits .hubController .SETT_INJECT [0, 0] 1 := by decide

/-- Refutes O6: its clause on SETT_INJECT says that nothing of the sett changes but its pending word, and puts no condition on a
wait; of a waiting sett the injection abandons the wait. -/
theorem not_settTrapsAndControl : ¬ Obligations.SettTrapsAndControl := by
  unfold Obligations.SettTrapsAndControl
  intro h
  obtain ⟨-, -, -, -, -, hinject⟩ := h.2 hubWithWaitingSett .hubController 0 0 0 1 (by decide) (by decide) (by decide)
  obtain ⟨u, hu, -, hsett⟩ := hinject admits_inject_of_waitingSett (by decide) (by decide) (by decide) (by decide)
  have hexec : exec (.settInject .hubController 0 0 1) hubWithWaitingSett = .next
      ((hubWithWaitingSett.clearOut.injectWrite 0 0 1).emits (acknowledged .hubController (Reg.SETT_INJECT.addr [0, 0]))) :=
    congrArg Host.Outcome.next (State.putReg_of_admits (State.admits_clearOut.mpr admits_inject_of_waitingSett) (by decide) rfl)
  obtain rfl := Host.Outcome.next.inj (hexec.symm.trans hu)
  have hwaits := congrArg (fun t : Sett => t.wait.isSome) hsett
  exact absurd hwaits (by decide)

end Sys2Proof.Machine

end

section

/-! STAMP, AT, TOUT and WAIT (R192, R193, R209, R211, R212, R228, R229, R231, R232, R235, R236). -/

namespace Sys2Proof.Machine

variable {s u v : State} {b k w : Nat} {x : SettWait}

/-- The sett keeps its own words from one instruction to the next. -/
theorem kept_of_past {t t' : Sett} (h : t'.past = t.past) :
    t'.unread = t.unread ∧ t'.outbox = t.outbox ∧ t'.edges = t.edges ∧ t'.timeout = t.timeout ∧ t'.flags = t.flags := by
  show t'.past.unread = t.past.unread ∧ t'.past.outbox = t.past.outbox ∧ t'.past.edges = t.past.edges ∧
    t'.past.timeout = t.past.timeout ∧ t'.past.flags = t.past.flags
  rw [h]
  exact ⟨rfl, rfl, rfl, rfl, rfl⟩

theorem entriesUsed_of_past {t t' : Sett} (h : t'.past = t.past) : entriesUsed t' = entriesUsed t := by
  obtain ⟨-, -, hedges, htimeout, -⟩ := kept_of_past h
  rw [entriesUsed, entriesUsed, hedges, htimeout]

theorem now_of_settOnly (h : s.settOnly u b k) (d : Dom) : u.now d = s.now d := by
  rw [h.1]
  rfl

/-- STAMP to x and y (R228, R229). -/
theorem stamp_result (h : s.atWord b k 0x0A w) (hsel : natBits w 19 18 = 0 ∨ (natBits w 19 18 = 2 ∧ (s.sett b k).unread = true)) :
    s.settOnly (s.instruction (some 0x0A) b k .good) b k ∧ (s.instruction (some 0x0A) b k .good).sett b k =
      { (s.sett b k).past with x := (stampWords (s.sett b k)).1, y := (stampWords (s.sett b k)).2, unread := false, missed := false } := by
  obtain ⟨-, -, hcalm, -, -, hop, -⟩ := id h
  have hmode : natBits w 19 18 ≠ 1 := by omega
  refine s.instruction_done b k 0x0A w _ h (by decide) (by simp [enablesWord, hop]) (fun u _ hu time => ?_) (by simp) hcalm
    fun u x _ _ hu hx _ _ => ?_
  · obtain ⟨hunread, -⟩ := kept_of_past hu
    rcases hsel with hsel | ⟨hsel, hcaught⟩
    · simp [State.ready, hop, hsel]
    · simp [State.ready, hop, hsel, hunread, hcaught]
  · have heffect : u.effect b k x = u.doStamp b k w := by simp only [State.effect, hx, hop]
    have hstamp : u.doStamp b k w = (u.stampRead b k).onSett b k fun t =>
        { t with x := (stampWords (u.sett b k)).1, y := (stampWords (u.sett b k)).2 } := if_neg hmode
    rw [heffect, hstamp]
    refine ⟨State.settOnly_trans (State.settOnly_onSett ..) (State.settOnly_onSett ..), ?_⟩
    rw [State.sett_onSett, State.stampRead, State.sett_onSett, hu]
    rfl

/-- STAMP to the OUT mailbox. -/
theorem stampOut_result (h : s.atWord b k 0x0A w) (hsel : natBits w 19 18 = 1) (hroom : (s.sett b k).outbox.length ≤ 2) :
    s.settOnly (s.instruction (some 0x0A) b k .good) b k ∧ (s.instruction (some 0x0A) b k .good).sett b k =
      { (s.sett b k).past with
        outbox := (s.sett b k).outbox ++ [(stampWords (s.sett b k)).1, (stampWords (s.sett b k)).2], unread := false, missed := false } := by
  obtain ⟨-, -, hcalm, -, -, hop, -⟩ := id h
  refine s.instruction_done b k 0x0A w _ h (by decide) (by simp [enablesWord, hop]) (fun u _ hu time => ?_) (by simp) hcalm
    fun u x _ _ hu hx _ _ => ?_
  · obtain ⟨-, hbox, -⟩ := kept_of_past hu
    simp [State.ready, hop, hsel, hbox, hroom]
  · have heffect : u.effect b k x = u.doStamp b k w := by simp only [State.effect, hx, hop]
    have hbox : (u.sett b k).outbox.length ≤ 2 := by rw [hu]; exact hroom
    have hstamp : u.doStamp b k w = (u.stampRead b k).onSett b k fun t =>
        { t with outbox := (u.sett b k).outbox ++ [(stampWords (u.sett b k)).1, (stampWords (u.sett b k)).2] } := by
      simp only [State.doStamp, hsel, State.stampRead, State.onSett, if_true, State.sett_setSett, if_pos hbox]
    rw [heffect, hstamp]
    refine ⟨State.settOnly_trans (State.settOnly_onSett ..) (State.settOnly_onSett ..), ?_⟩
    rw [State.sett_onSett, State.stampRead, State.sett_onSett, hu]
    rfl

/-- MOV from the stamp to x (R229): its high word is held. -/
theorem movStamp_result (h : s.atWord b k 0x06 w) (hsrc : natBits w 15 12 = 7) (hdst : natBits w 19 16 = 0) :
    s.settOnly (s.instruction (some 0x06) b k .good) b k ∧ (s.instruction (some 0x06) b k .good).sett b k =
      { (s.sett b k).past with
        x := movTransform (natBits w 11 9) (stampWords (s.sett b k)).1, highRead := some (stampWords (s.sett b k)).2,
        unread := false, missed := false } := by
  obtain ⟨-, -, hcalm, -, -, hop, -⟩ := id h
  refine s.instruction_done b k 0x06 w _ h (by decide) (by simp [enablesWord, hop]) (fun u _ _ time => ?_) (by simp) hcalm
    fun u x _ _ hu hx _ _ => ?_
  · simp [State.ready, hop]
  · have heffect : u.effect b k x = u.doMov b k w := by simp only [State.effect, hx, hop]
    have hmov : u.doMov b k w = ((u.setSett b k { u.sett b k with highRead := some (stampWords (u.sett b k)).2 }).stampRead b k).onSett
        b k fun t => { t with x := movTransform (natBits w 11 9) (stampWords (u.sett b k)).1 } := by
      simp only [State.doMov, hsrc, hdst]
    rw [heffect, hmov]
    refine ⟨State.settOnly_trans (State.settOnly_setSett ..) <|
      State.settOnly_trans (State.settOnly_onSett ..) (State.settOnly_onSett ..), ?_⟩
    rw [State.sett_onSett, State.stampRead, State.sett_onSett, State.sett_setSett, hu]
    rfl

/-- TOUT (R232, R233): a duration of 0 cancels. -/
theorem tout_result (h : s.atWord b k 0x16 w) (hfree : (s.sett b k).timeout.isSome = true ∨ entriesUsed (s.sett b k) < 2) :
    s.settOnly (s.instruction (some 0x16) b k .good) b k ∧ (s.instruction (some 0x16) b k .good).sett b k =
      { (s.sett b k).past with
        timeout := if (if natBit w 13 then (s.sett b k).x else natBits w 12 0 * 16) = 0 then none
          else some (natBits w 19 14, if natBit w 13 then (s.sett b k).x else natBits w 12 0 * 16, s.domOfConsumer (.bench b)) } := by
  obtain ⟨-, -, hcalm, -, -, hop, -⟩ := id h
  refine s.instruction_done b k 0x16 w _ h (by decide) (by simp [enablesWord, hop]) (fun u _ hu time => ?_) (by simp) hcalm
    fun u x _ _ hu hx hdom _ => ?_
  · obtain ⟨-, -, -, htimeout, -⟩ := kept_of_past hu
    simpa [State.ready, hop, htimeout, entriesUsed_of_past hu, Nat.lt_succ_iff] using hfree
  · have heffect : u.effect b k x = u.doTout b k x := by simp only [State.effect, hx, hop]
    rw [heffect]
    refine ⟨State.settOnly_onSett .., (State.sett_onSett ..).trans ?_⟩
    rw [hu, hx, hdom]
    rfl

theorem quarterUnits_eq : quarterUnits = 2 ^ 37 := by decide

/-- A time relative to now (R211). -/
theorem timeOperand_now (t : Sett) (now : Nat) (d : Dom) (v : Nat) :
    timeOperand t now d 1 v = some (((now + v % 2 ^ 32 * 2 ^ 37 : Nat) : Int), d) := by
  simp only [timeOperand, word32, quarterUnits_eq, Nat.cast_add]

/-- An edge that is not late, armed alone, waits for its time (R192, R193). -/
theorem armEdge_alone (h : (u.sett b k).edges = []) {p : Nat} {level : Bool} {T : Int} {d : Dom} (hT : (u.now d : Int) ≤ T) :
    u.armEdge b k p level T d = u.setSett b k { u.sett b k with edges := [{ pin := p, level := level, t := T, dom := d }] } := by
  have hlate : decide (T < (u.now d : Int)) = false := decide_eq_false (not_lt.mpr hT)
  simp only [State.armEdge, h, hlate, List.any_nil, Bool.or_false, Bool.false_and, State.when, List.nil_append]
  rfl

/-- The reference that a time T of a domain gives, in both domains (R212). -/
def State.referenceTimes (s : State) (T : Int) (d : Dom) : Int × Int :=
  if d = .a then (T, T + ((s.now .b : Int) - (s.now .a : Int))) else (T - ((s.now .b : Int) - (s.now .a : Int)), T)

theorem setReference_eq (u : State) (b k : Nat) (T : Int) (d : Dom) :
    u.setReference b k T d = u.onSett b k fun t => { t with reference := some (u.referenceTimes T d) } := rfl

theorem settOnly_setReference (u : State) (b k : Nat) (T : Int) (d : Dom) : u.settOnly (u.setReference b k T d) b k := by
  rw [setReference_eq]
  exact State.settOnly_onSett ..

theorem referenceTimes_of_settOnly (h : s.settOnly u b k) (T : Int) (d : Dom) : u.referenceTimes T d = s.referenceTimes T d := by
  simp only [State.referenceTimes, now_of_settOnly h]

/-- The value of the operand of AT and of WAIT on time, as a time relative to now. -/
def State.timeFromNow (s : State) (b v : Nat) : Int := ((s.now (s.domOfConsumer (.bench b)) + v % 2 ^ 32 * 2 ^ 37 : Nat) : Int)

/-- AT with a time relative to now (R231). -/
theorem at_result (h : s.atWord b k 0x0B w) (hmode : natBits w 16 15 = 1) (hnone : (s.sett b k).edges = []) :
    s.settOnly (s.instruction (some 0x0B) b k .good) b k ∧
      ((s.instruction (some 0x0B) b k .good).sett b k).edges =
        [{ pin := natBits w 19 18, level := natBit w 17, t := s.timeFromNow b (if natBit w 14 then (s.sett b k).y else (s.sett b k).x),
           dom := s.domOfConsumer (.bench b) }] ∧
      ((s.instruction (some 0x0B) b k .good).sett b k).pc = ((s.sett b k).pc + 1) % 64 := by
  obtain ⟨-, -, hcalm, -, -, hop, -⟩ := id h
  let dom := s.domOfConsumer (.bench b)
  let T := s.timeFromNow b (if natBit w 14 then (s.sett b k).y else (s.sett b k).x)
  let e : SettEdge := { pin := natBits w 19 18, level := natBit w 17, t := T, dom := dom }
  suffices hdone : s.settOnly (s.instruction (some 0x0B) b k .good) b k ∧ (s.instruction (some 0x0B) b k .good).sett b k =
      { (s.sett b k).past with edges := [e], reference := some (s.referenceTimes T dom) } by
    rw [hdone.2]
    exact ⟨hdone.1, rfl, rfl⟩
  refine s.instruction_done b k 0x0B w _ h (by decide) (by simp [enablesWord, hop]) (fun u _ hu time => ?_) (by simp) hcalm
    fun u x hsu _ hu hx hdom hnow => ?_
  · have hused : entriesUsed (u.sett b k) < 2 := by
      rw [entriesUsed_of_past hu, entriesUsed, hnone, List.length_nil, Nat.zero_add]
      exact b2n_lt _
    simp [State.ready, hop, hused]
  · have heffect : u.effect b k x = u.doAt b k x := by simp only [State.effect, hx, hop]
    have htime : (u.now dom : Int) ≤ T := by
      rw [now_of_settOnly hsu]
      exact Int.ofNat_le.mpr (Nat.le_add_right ..)
    have hAt : u.doAt b k x = (u.armEdge b k (natBits w 19 18) (natBit w 17) T dom).setReference b k T dom := by
      simp only [State.doAt, hx, hmode, hdom, hnow, timeOperand_now]
      rw [hu]
      rfl
    have hone : s.settOnly (u.setSett b k { u.sett b k with edges := [e] }) b k := State.settOnly_trans hsu (State.settOnly_setSett ..)
    rw [heffect, hAt, armEdge_alone (by rw [hu]; exact hnone) htime, setReference_eq]
    refine ⟨State.settOnly_trans (State.settOnly_setSett ..) (State.settOnly_onSett ..), ?_⟩
    rw [State.sett_onSett, referenceTimes_of_settOnly hone, State.sett_setSett, hu]

/-- A sett's word begins (R205). -/
theorem instruction_beginWord (h : s.StandsAt b k w) :
    s.instruction (some (insOp w)) b k .good = (s.onSett b k fun t => { t with inject := none }).beginWord b k w false .running := by
  obtain ⟨hphase, hinject, -, hword, htrap⟩ := h
  have hfetches : (s.sett b k).fetches = true := by simp [Sett.fetches, hphase]
  have hnext : s.nextWord b k = (w, false) := by simp [State.nextWord, hinject, hword]
  simp only [State.instruction, hfetches, hnext, htrap]
  rfl

/-- The state in which a WAIT has begun with a time it waits for. -/
abbrev State.waitCycle (s v : State) (b k w : Nat) (time : Option (Int × Dom)) : State :=
  v.onSett b k fun t => { t with phase := .waiting, wait := some { s.firstWait b w with time := time } }

/-- A WAIT begins (R205, R211): its first cycle has found its time. -/
theorem wait_begins (h : s.StandsAt b k w) (hop : insOp w = 1) {time : Option (Int × Dom)}
    (hbegin : ((s.onSett b k fun t => { t with inject := none }).onSett b k fun t => { t with phase := .running, wait := none }).beginWait
      b k w = (time, v)) :
    s.instruction (some 1) b k .good =
      (((s.waitCycle v b k w time).checkWait b k).sideSet b k w (outDrives w)).stopContended b k := by
  have hen : enablesWord w = false := by simp [enablesWord, hop]
  have hword := instruction_beginWord h
  rw [hop] at hword
  rw [hword]
  unfold State.beginWord
  simp only [hbegin, hen, Bool.false_eq_true, if_false]
  rfl

theorem settOnly_waitCycle (h : s.settOnly v b k) (w : Nat) (time : Option (Int × Dom)) : s.settOnly (s.waitCycle v b k w time) b k :=
  State.settOnly_trans h (State.settOnly_onSett ..)

/-- What a WAIT that drives nothing ends in, once it has looked at its condition. -/
theorem wait_ends (h : s.atWord b k 1 w) {time : Option (Int × Dom)}
    (hbegin : ((s.onSett b k fun t => { t with inject := none }).onSett b k fun t => { t with phase := .running, wait := none }).beginWait
      b k w = (time, v)) (hu : (s.waitCycle v b k w time).checkWait b k = u) (honly : s.settOnly u b k) (hcalm : (u.sett b k).contended = false) :
    s.instruction (some 1) b k .good = u := by
  obtain ⟨-, -, -, -, hside, hop, -⟩ := id h
  rw [wait_begins (State.standsAt_of_atWord h) hop hbegin, hu, State.sideSet_none _ _ _ _ _ ((State.settOnly_rd honly ..).trans hside),
    stopContended_of_calm hcalm]

/-- A wait whose condition does not hold goes on. -/
theorem checkWait_waits (hwait : (u.sett b k).wait = some x) (hmet : x.met = false) (hready : u.ready b k x.word x.time = (false, u)) :
    u.checkWait b k = u := by
  unfold State.checkWait
  rw [hwait]
  dsimp only
  rw [hmet, hready]
  rfl

theorem effect_of_wait (h : insOp x.word = 1) (u : State) : u.effect b k x = u := by simp only [State.effect, h]

/-- A WAIT that completes does no more than go on (R205). -/
theorem complete_wait (hop : insOp x.word = 1) (hx : x.injected = false) (hback : x.back = .running)
    (hcalm : (u.sett b k).contended = false) :
    u.settOnly (u.complete b k x) b k ∧ (u.complete b k x).sett b k = (u.sett b k).past := by
  have hsame := complete_same (u := u) (b := b) (k := k) hx hback
  rw [effect_of_wait hop, State.sett_onSett] at hsame
  obtain ⟨honly, hsett⟩ := hsame hcalm
  exact ⟨State.settOnly_trans (State.settOnly_onSett ..) honly, hsett.trans (State.sett_onSett ..)⟩

/-- WAIT_SATISFIED (R209). -/
theorem checkWait_met (hwait : (u.sett b k).wait = some x) (hmet : x.met = true) (hop : insOp x.word = 1) :
    u.checkWait b k = u.complete b k x := by
  unfold State.checkWait
  rw [hwait]
  dsimp only
  rw [if_pos hmet]
  exact (if_pos rfl).trans (if_neg (by rw [hop]; decide))

/-- The level that a WAIT on a flag, a shot line, a stale hub, an event line or a controller line looks at (R235). -/
def State.waitLevel (s : State) (b k w : Nat) : Bool :=
  match natBits w 19 16 with
  | 2 => natBit (s.sett b k).flags (natBits w 11 0)
  | 3 => s.lineState (natBits w 11 0)
  | 4 => s.hubStale (natBits w 11 0)
  | 5 => natBit (s.benchOf b).events (natBits w 11 0)
  | _ => natBit (s.benchOf b).lines (natBits w 11 0)

theorem ready_waitLevel (hop : insOp w = 1) (hlow : 2 ≤ natBits w 19 16) (hhigh : natBits w 19 16 ≤ 6) (u : State)
    (time : Option (Int × Dom)) : u.ready b k w time = (u.waitLevel b k w == natBit w 15, u) := by
  have hsrc : natBits w 19 16 = 2 ∨ natBits w 19 16 = 3 ∨ natBits w 19 16 = 4 ∨ natBits w 19 16 = 5 ∨ natBits w 19 16 = 6 := by omega
  rcases hsrc with hsrc | hsrc | hsrc | hsrc | hsrc <;> simp only [State.ready, hop, State.waitHolds, State.waitLevel, hsrc]

theorem waitLevel_of_settOnly (h : s.settOnly u b k) (hflags : (u.sett b k).flags = (s.sett b k).flags) :
    u.waitLevel b k w = s.waitLevel b k w := by
  unfold State.waitLevel
  rw [hflags, h.1]
  rfl

/-- WAIT on a level (R235, R236). -/
theorem waitLevel_result (h : s.atWord b k 1 w) (hlow : 2 ≤ natBits w 19 16) (hhigh : natBits w 19 16 ≤ 6) :
    s.settOnly (s.instruction (some 1) b k .good) b k ∧ (s.instruction (some 1) b k .good).sett b k =
      if s.waitLevel b k w = natBit w 15 then (s.sett b k).past
      else { s.sett b k with phase := .waiting, wait := some (s.firstWait b w) } := by
  obtain ⟨-, halone, hcalm, -, -, hop, -⟩ := id h
  let v := (s.onSett b k fun t => { t with inject := none }).onSett b k fun t => { t with phase := .running, wait := none }
  have hbegin : v.beginWait b k w = (none, v) := if_neg fun hnow => by omega
  have hv : s.settOnly v b k := State.settOnly_trans (State.settOnly_onSett ..) (State.settOnly_onSett ..)
  have honly := settOnly_waitCycle hv w none
  have hsett : (s.waitCycle v b k w none).sett b k = { s.sett b k with phase := .waiting, wait := some (s.firstWait b w) } := by
    simp only [v, State.waitCycle, State.sett_onSett, ← halone]
    rfl
  have hready := ready_waitLevel (b := b) (k := k) hop hlow hhigh (s.waitCycle v b k w none) (s.firstWait b w).time
  rw [waitLevel_of_settOnly honly (by rw [hsett])] at hready
  split
  · next hholds =>
    rw [beq_iff_eq.mpr hholds] at hready
    have hcheck := checkWait_completes (x := s.firstWait b w) (congrArg Sett.wait hsett) hready
      (by rw [State.firstWait, hop]; decide)
    obtain ⟨hkept, hdone⟩ := complete_wait (u := s.waitCycle v b k w none) (b := b) (k := k) (x := s.firstWait b w) hop rfl rfl
      (by rw [hsett]; exact hcalm)
    rw [hsett] at hdone
    rw [wait_ends h hbegin hcheck (State.settOnly_trans honly hkept) (by rw [hdone]; exact hcalm)]
    exact ⟨State.settOnly_trans honly hkept, hdone⟩
  · next hfails =>
    rw [beq_eq_false_iff_ne.mpr hfails] at hready
    rw [wait_ends h hbegin (checkWait_waits (congrArg Sett.wait hsett) rfl hready) honly (by rw [hsett]; exact hcalm)]
    exact ⟨honly, hsett⟩

/-- WAIT until a time after now (R211, R212, R235). -/
theorem waitTime_result (h : s.atWord b k 1 w) (hsrc : natBits w 19 16 = 7) (hmode : natBits w 1 0 = 1)
    (hlater : 0 < (if natBit w 2 then (s.sett b k).y else (s.sett b k).x) % 2 ^ 32) :
    s.settOnly (s.instruction (some 1) b k .good) b k ∧ ((s.instruction (some 1) b k .good).sett b k).phase = .waiting ∧
      ((s.instruction (some 1) b k .good).sett b k).wait = some { s.firstWait b w with
        time := some (s.timeFromNow b (if natBit w 2 then (s.sett b k).y else (s.sett b k).x), s.domOfConsumer (.bench b)) } ∧
      ((s.instruction (some 1) b k .good).sett b k).reference.isSome = true := by
  obtain ⟨-, halone, hcalm, -, -, hop, -⟩ := id h
  let dom := s.domOfConsumer (.bench b)
  let T := s.timeFromNow b (if natBit w 2 then (s.sett b k).y else (s.sett b k).x)
  let v := (s.onSett b k fun t => { t with inject := none }).onSett b k fun t => { t with phase := .running, wait := none }
  have hv : s.settOnly v b k := State.settOnly_trans (State.settOnly_onSett ..) (State.settOnly_onSett ..)
  have hvsett : v.sett b k = { s.sett b k with phase := .running, wait := none } := by
    simp only [v, State.sett_onSett, ← halone]
  have hbegin : v.beginWait b k w = (some (T, dom), v.setReference b k T dom) := by
    unfold State.beginWait
    rw [if_pos ⟨hop, hsrc⟩]
    dsimp only
    rw [hvsett, hmode, timeOperand_now]
    rfl
  have hset : s.settOnly (v.setReference b k T dom) b k := State.settOnly_trans hv (settOnly_setReference ..)
  have honly := settOnly_waitCycle hset w (some (T, dom))
  have hsett : (s.waitCycle (v.setReference b k T dom) b k w (some (T, dom))).sett b k =
      { s.sett b k with phase := .waiting, wait := some { s.firstWait b w with time := some (T, dom) },
                        reference := some (v.referenceTimes T dom) } := by
    rw [State.sett_onSett, setReference_eq, State.sett_onSett, hvsett]
  have hready : (s.waitCycle (v.setReference b k T dom) b k w (some (T, dom))).ready b k w (some (T, dom)) =
      (false, s.waitCycle (v.setReference b k T dom) b k w (some (T, dom))) := by
    have hnow : ¬ T ≤ (s.now dom : Int) := by
      have hlt : s.now dom < s.now dom + (if natBit w 2 then (s.sett b k).y else (s.sett b k).x) % 2 ^ 32 * 2 ^ 37 :=
        Nat.lt_add_of_pos_right (Nat.mul_pos hlater (by decide))
      exact not_le.mpr (Int.ofNat_lt.mpr hlt)
    simp only [State.ready, hop, State.waitHolds, hsrc, now_of_settOnly honly, hnow, decide_false]
  rw [wait_ends h hbegin (checkWait_waits (congrArg Sett.wait hsett) rfl hready) honly (by rw [hsett]; exact hcalm), hsett]
  exact ⟨honly, rfl, rfl, rfl⟩

end Sys2Proof.Machine

end

section

/-! The instances of a bench as its table and its registers show them, and the signals that a sett applies for them (R245 to R247, R262). -/

namespace Sys2Proof.Machine

/-- The words of a bench that say which of its instances run, on which pins, and which setts own these. -/
structure State.SameTable (s u : State) (b : Nat) : Prop where
  table : ∀ n, n < 4160 → u.rd .BNCH_PDT [b, n] = s.rd .BNCH_PDT [b, n]
  shown : ∀ i, i < 64 → u.rd .BNCH_PORT_STAT [b, i] = s.rd .BNCH_PORT_STAT [b, i]
  quads : ∀ q, q < 16 → u.rd .BNCH_QUAD_CFG [b, q] = s.rd .BNCH_QUAD_CFG [b, q]

variable {s t u : State} {b i off n : Nat}

namespace State.SameTable

theorem trans (h : s.SameTable t b) (h' : t.SameTable u b) : s.SameTable u b :=
  ⟨fun n hn => (h'.table n hn).trans (h.table n hn), fun i hi => (h'.shown i hi).trans (h.shown i hi),
    fun q hq => (h'.quads q hq).trans (h.quads q hq)⟩

variable (h : s.SameTable u b) (hi : i < 64)
include h hi

theorem descByte (hoff : off < 256) : u.descByte b i off = s.descByte b i off := by
  unfold State.descByte State.pdtByte
  rw [h.table _ (by omega)]

theorem descNum (hoff : off + n ≤ 256) : u.descNum b i off n = s.descNum b i off n := by
  have hbyte (j : Nat) (hj : j < n) : u.descByte b i (off + j) = s.descByte b i (off + j) := h.descByte hi (by omega)
  unfold State.descNum
  refine List.foldr_ext _ _ _ fun j hj a => ?_
  rw [hbyte j (List.mem_range.mp hj)]

theorem descCode : u.descCode b i = s.descCode b i := h.descByte hi (by decide)

theorem portRuns : u.portRuns b i = s.portRuns b i := by
  have hstate : u.get F.BNCH_PORT_STAT_state [b, i] = s.get F.BNCH_PORT_STAT_state [b, i] :=
    congrArg (fun w => natBits w F.BNCH_PORT_STAT_state.hi F.BNCH_PORT_STAT_state.lo) (h.shown i hi)
  unfold State.portRuns State.descInUse
  rw [hstate, h.descByte hi (by decide)]

theorem waves : u.waves b i = s.waves b i := by
  unfold State.waves
  rw [h.descCode hi, h.descNum hi (by decide)]

theorem rolePin (r : Nat) : u.rolePin b i r = s.rolePin b i r := by
  unfold State.rolePin State.descPin State.descQuad State.descSetts
  rw [h.descCode hi, h.descByte hi (by decide), h.descByte hi (by decide)]

theorem waveRole : u.waveRole b i = s.waveRole b i := by
  unfold State.waveRole
  rw [h.descCode hi]

end State.SameTable

theorem descPin_lt (s : State) (b i : Nat) : s.descPin b i < 4 := by
  unfold State.descPin
  cases hpin : (List.range 4).find? fun j => natBit (s.descSetts b i) j with
  | none => decide
  | some j => exact List.mem_range.mp (List.mem_of_find?_eq_some hpin)

/-- The pins of instances lie in their quads (R247). -/
theorem rolePin_div_four (s : State) (b i : Nat) {r : Nat} (hr : r < 4) : s.rolePin b i r / 4 < 16 := by
  have hpin := descPin_lt s b i
  have hquad : s.descQuad b i < 16 := Nat.mod_lt _ (by decide)
  unfold State.rolePin
  dsimp only
  split
  · omega
  · omega

theorem waveRole_lt (s : State) (b i : Nat) : s.waveRole b i < 4 := by
  unfold State.waveRole
  split
  · decide
  · decide

theorem owner_lt (s : State) (b p : Nat) : s.owner b p < 4 :=
  Nat.lt_of_lt_of_eq (natBits_lt ..) (by rw [show 8 * (p % 4) + 1 + 1 - 8 * (p % 4) = 2 by omega]; rfl)

/-- A sett past those of a bench owns the pin of none of the instances. -/
theorem wavesOf_of_ge {k : Nat} (hk : 64 ≤ k) (s : State) (b : Nat) : s.wavesOf b k = [] := by
  unfold State.wavesOf
  split
  · rfl
  · refine List.filter_eq_nil_iff.mpr fun i _ => ?_
    have hpin := rolePin_div_four s b i (waveRole_lt s b i)
    have howner := owner_lt s b (s.rolePin b i (s.waveRole b i))
    rw [Bool.and_eq_true, beq_iff_eq, State.ownerSett]
    omega

/-- The signals a sett applies are found in the table (R192, R262). -/
theorem State.SameTable.wavesOf {k : Nat} (h : s.SameTable u b) (hphase : (u.sett b k).phase = (s.sett b k).phase) :
    u.wavesOf b k = s.wavesOf b k := by
  have hrunning : u.runningPorts b = s.runningPorts b :=
    List.filter_congr fun i hi => h.portRuns (List.mem_range.mp hi)
  have howner (i : Nat) (hi : i < 64) : u.ownerSett b (u.rolePin b i (u.waveRole b i)) = s.ownerSett b (s.rolePin b i (s.waveRole b i)) := by
    rw [h.waveRole hi, h.rolePin hi]
    unfold State.ownerSett State.owner
    rw [h.quads _ (rolePin_div_four s b i (waveRole_lt s b i))]
  unfold State.wavesOf
  rw [hphase, hrunning]
  refine ite_congr rfl (fun _ => rfl) fun _ => List.filter_congr fun i hi => ?_
  have hlt : i < 64 := List.mem_range.mp (List.mem_filter.mp hi).1
  rw [h.waves hlt, howner i hlt]

end Sys2Proof.Machine

end

section

/-! Records of instances (R249, R253, R254): they change the hopper, the instances, and the words that count them and the cells a claim
guard refuses. -/

namespace Sys2Proof.Machine

/-- Where the records of instances are counted, and the cells a claim guard refuses (R249, R454). -/
def recordAddr (a : Nat) : Bool := (0x60900 ≤ a && a < 0x60A00) || (0x10500 ≤ a % 0x100000 && a % 0x100000 < 0x10600)

/-- From `s` to `u` no more changes than records of instances can: the instances, the hopper with its claim guard, the free values,
and the words that count records and refused cells. -/
structure State.Records (s u : State) : Prop where
  frame : u = { s with regs := u.regs, free := u.free, hop := u.hop, twin := u.twin, ports := u.ports }
  words : s.wordsKept u recordAddr

theorem recordAddr_guardCnt {n : Nat} (h : n < 64) : recordAddr (Reg.TWIN_GUARD_CNT.addr [n]) = true := by
  simp [recordAddr, Reg.addr, Reg.desc, dimOffset]
  omega

theorem recordAddr_portCnt {b k : Nat} (h : k < 64) : recordAddr (Reg.BNCH_PORT_CNT.addr [b, k]) = true := by
  simp [recordAddr, Reg.addr, Reg.desc, dimOffset]
  omega

namespace State.Records

variable {s t u : State} {b k : Nat}

theorem refl (s : State) : s.Records s := ⟨rfl, fun _ _ => rfl⟩

theorem trans (h : s.Records t) (h' : t.Records u) : s.Records u :=
  ⟨by rw [h'.frame, h.frame], State.wordsKept_trans h.words h'.words⟩

theorem set {f : Fld} {ix : List Nat} {x : Nat} (h : recordAddr (f.reg.addr ix) = true) : s.Records (s.set f ix x) :=
  ⟨rfl, (State.regsOnly_set s f ix x _ h).2⟩

theorem onPort {f : Port → Port} : s.Records (s.onPort b k f) := ⟨rfl, fun _ _ => rfl⟩

theorem setQueue {q : Nat} {x : Queue} : s.Records (s.setQueue q x) := ⟨rfl, fun _ _ => rfl⟩

theorem queueRefused {q : Nat} : s.Records (s.queueRefused q) := setQueue

theorem appendCell {q srcHub srcEp : Nat} {bytes : List Byte} : s.Records (s.appendCell q srcHub srcEp bytes) := by
  unfold State.appendCell State.takeIndex
  dsimp only
  split
  · exact ⟨rfl, fun _ _ => rfl⟩
  · exact ⟨rfl, fun _ _ => rfl⟩

theorem guardCount {n src : Nat} {ordinary : Bool} (hn : n < 64) : s.Records (s.guardCount n src ordinary) := by
  unfold State.guardCount
  dsimp only
  split
  · exact set (recordAddr_guardCnt hn)
  · exact set (recordAddr_guardCnt hn)

/-- The claim guard's answer is refused at most once per endpoint (R454). -/
theorem refusedIn {ns : List Nat} : s.Records { s with twin := { s.twin with refusedIn := ns } } := ⟨rfl, fun _ _ => rfl⟩

theorem deliverChecked {more E c srcHub srcEp : Nat} {cell : List Byte} : s.Records (s.deliverChecked more E c srcHub srcEp cell) := by
  induction more generalizing s E c srcHub srcEp cell with
  | zero => exact refl s
  | succ more ih =>
    unfold State.deliverChecked
    split
    · exact appendCell
    · next n hn =>
      have hcount := guardCount (s := s) (src := srcHub) (ordinary := true) (guardOf_lt hn)
      split
      · exact appendCell
      · dsimp only
        split
        · exact hcount
        · have hmarked := hcount.trans (refusedIn (ns := (s.guardCount n srcHub true).twin.refusedIn ++ [n]))
          split
          · split
            · split
              · exact hmarked.trans ih
              · exact hmarked
            · exact hmarked.trans appendCell
          · exact hmarked.trans queueRefused

/-- A cell that is enqueued or refused (R317, R318, R452). -/
theorem enqueue {p : Producer} {q : Nat} {cell : List Byte} : s.Records (s.enqueue p q cell).2 := by
  unfold State.enqueue
  split
  · exact refl s
  · split
    · split
      · split
        · exact deliverChecked
        · exact queueRefused
      · exact appendCell
    · exact queueRefused

theorem enqueued {p : Producer} {q : Nat} {cell : List Byte} {r : EnqResult} (h : s.enqueue p q cell = (r, u)) : s.Records u := by
  have hcell := enqueue (s := s) (p := p) (q := q) (cell := cell)
  rwa [h] at hcell

/-- Records of instances (R249, R253). -/
theorem portRecord {flags residue : Nat} {x : Stamp} {payload : List Byte} (hk : k < 64) :
    s.Records (s.portRecord b k flags residue x payload) := by
  have hcount : s.Records ((s.onPort b k fun p => { p with overrun := false }).set F.BNCH_PORT_CNT_records [b, k]
      ((s.get F.BNCH_PORT_CNT_records [b, k] + 1) % 2 ^ 16)) := onPort.trans (set (recordAddr_portCnt hk))
  unfold State.portRecord
  dsimp only
  split
  · next hresult => exact hcount.trans (enqueued hresult)
  · next hresult => exact (hcount.trans (enqueued hresult)).trans ((set (recordAddr_portCnt hk)).trans onPort)

theorem when {c : Bool} {f : State → State} (h : s.Records (f s)) : s.Records (s.when c f) := State.when_of (P := s.Records) (refl s) h

/-- An edge on the readback pin of a supervised output (R272). -/
theorem readbackEdge {x : Stamp} (hk : k < 64) : s.Records (s.readbackEdge b k x) := by
  have hdrawn (t : State) : t.Records (t.drawWord 8).2 := ⟨rfl, fun _ _ => rfl⟩
  unfold State.readbackEdge
  dsimp only
  exact (when onPort).trans (when ((hdrawn _).trans (portRecord hk)))

/-- A drive of a supervised output adds no more than its readback (R272, R273). -/
theorem supervisedDrive {f : State → State} (hk : k < 64) : (f s).Records (s.supervisedDrive b k f) := by
  unfold State.supervisedDrive
  dsimp only
  exact onPort.trans (when (readbackEdge hk))

/-- Records change neither the table nor what it shows. -/
theorem sameTable (h : s.Records u) (b : Nat) : s.SameTable u b where
  table n hn := State.wordsKept_rd h.words _ _ (by simp [recordAddr, Reg.addr, Reg.desc, dimOffset]; omega)
  shown i hi := State.wordsKept_rd h.words _ _ (by simp [recordAddr, Reg.addr, Reg.desc, dimOffset]; omega)
  quads q hq := State.wordsKept_rd h.words _ _ (by simp [recordAddr, Reg.addr, Reg.desc, dimOffset]; omega)

theorem sett (h : s.Records u) (b k : Nat) : u.sett b k = s.sett b k := by
  rw [h.frame]
  rfl

theorem pinOf (h : s.Records u) (b p : Nat) : u.pinOf b p = s.pinOf b p := by
  rw [h.frame]
  rfl

end State.Records

end Sys2Proof.Machine

end

section

/-! A scheduled edge that is due (R192, R193, R273). -/

namespace Sys2Proof.Machine

variable {s u : State} {b k i : Nat} {e : SettEdge}

/-- The drive of a scheduled edge leaves the table. -/
theorem State.Drives.sameTable {g : Nat → Pin → Pin} (h : s.Drives u b k g) (hk : k < 64) : s.SameTable u b where
  table n hn := State.wordsKept_rd h.words _ _ (quadErrors_eq_false fun j _ => by
    simp [Reg.addr, Reg.desc, dimOffset, quadPin]
    omega)
  shown i hi := State.wordsKept_rd h.words _ _ (quadErrors_eq_false fun j _ => by
    simp [Reg.addr, Reg.desc, dimOffset, quadPin]
    omega)
  quads q hq := State.wordsKept_rd h.words _ _ (quadErrors_eq_false fun j _ => by
    simp [Reg.addr, Reg.desc, dimOffset, quadPin]
    omega)

/-- A scheduled edge reaches the pin that its sett may drive (R192). -/
theorem driveEdge_drives (hmay : s.mayDrive b k (quadPin k i)) (level : Bool) :
    s.DrivesOnly (s.driveEdge b k (quadPin k i) level) b k
      (onPin (quadPin k i) fun x => { x with out := level, edgeAt := some s.time.cycles }) :=
  State.DrivesOnly.drive hmay fun _ => rfl

/-- The one edge of a sett is applied, and no edge is left. -/
theorem applyEdges_one (s : State) (b k : Nat) (e : SettEdge) :
    s.applyEdges b k [e] = (s.driveEdge b k (quadPin k e.pin) e.level).onSett b k fun t => { t with edges := [] } := rfl

/-- What SCHEDULED_EDGE_DUE leaves of a sett with one edge, whose time has come, before it looks for a stop. -/
theorem applyPending_one (hedges : (s.sett b k).edges = [e]) (hdue : e.t ≤ (s.now e.dom : Int)) :
    ∃ u, (s.applyEdges b k [e]).Records u ∧ s.applyPending b k = u.stopContended b k := by
  unfold State.applyPending
  rw [hedges]
  dsimp only
  rw [if_neg (not_lt.mpr hdue)]
  split
  · next i is houts =>
    have hi : i ∈ (s.runningPorts b).filter fun i => s.descCode b i == 0x0B && s.rolePin b i 0 == quadPin k e.pin :=
      houts ▸ List.mem_cons_self
    have hlt : i < 64 := List.mem_range.mp (List.mem_filter.mp (List.mem_filter.mp hi).1).1
    exact ⟨_, State.Records.supervisedDrive (f := fun s => s.applyEdges b k [e]) hlt, rfl⟩
  · exact ⟨_, State.Records.refl _, rfl⟩

/-- SCHEDULED_EDGE_DUE (R192, R193): the edge takes its pin, and with no signal of the instances on the sett nothing follows. -/
theorem edgeDue_result (hedges : (s.sett b k).edges = [e]) (hdue : e.t ≤ (s.now e.dom : Int)) (hcalm : (s.sett b k).contended = false)
    (hwaves : s.wavesOf b k = []) (hmay : s.mayDrive b k (quadPin k e.pin)) :
    (((s.applyPending b k).applyWaves b k).sett b k).edges = [] ∧
      (((s.applyPending b k).applyWaves b k).pinOf b (quadPin k e.pin)).out = e.level := by
  obtain ⟨u, hrecords, hpending⟩ := applyPending_one hedges hdue
  have hdrive := driveEdge_drives hmay e.level
  rw [applyEdges_one] at hrecords
  have hsett : u.sett b k = { (s.driveEdge b k (quadPin k e.pin) e.level).sett b k with edges := [] } :=
    (hrecords.sett b k).trans (State.sett_onSett ..)
  obtain ⟨-, -, -, hcontended⟩ := counts_of_steady (hdrive.setts b k)
  have hphase : (u.sett b k).phase = (s.sett b k).phase := by
    rw [hsett]
    exact show ((s.driveEdge b k (quadPin k e.pin) e.level).sett b k).steady.phase = (s.sett b k).steady.phase from
      congrArg Sett.phase (hdrive.setts b k)
  have hnone : u.wavesOf b k = [] := by
    rcases Nat.lt_or_ge k 64 with hk | hk
    · have htable : s.SameTable u b := ((hdrive.toDrives.trans (.of_settOnly (State.settOnly_onSett ..))).sameTable hk).trans (hrecords.sameTable b)
      exact (htable.wavesOf hphase).trans hwaves
    · exact wavesOf_of_ge hk u b
  have hpin := congrArg Pin.out (hdrive.pins (quadPin k e.pin))
  rw [onPin, if_pos rfl] at hpin
  rw [hpending, stopContended_of_calm (by rw [hsett]; exact hcontended.trans hcalm), State.applyWaves, hnone]
  exact ⟨by rw [State.each, List.foldl_nil, hsett], (congrArg Pin.out (hrecords.pinOf b _)).trans hpin⟩

end Sys2Proof.Machine

end

section

/-! Instructions that take or wait for a time. -/

namespace Sys2Proof.Machine

/-- Settles O5: an instruction that is ready completes with its effect on its sett alone, a WAIT completes or waits by its condition
(`wait_ends`), and a scheduled edge reaches its pin, after which a record of a supervised output leaves the setts and the table that
names the signals of the instances (`State.Records`). -/
theorem settTimeInstructions : Obligations.SettTimeInstructions := by
  unfold Obligations.SettTimeInstructions
  intro s b k w hup t dom rel
  have hdown := ne_true_of_eq_false hup
  refine ⟨fun h hsel => ?_, fun h hsel hroom => ?_, fun h hsrc hdst => ?_, fun h hmode hnone => ?_, fun h hfree => ?_,
    fun h hlow hhigh => ?_, fun h hsrc hmode hlater => ?_, fun x hphase hwait hmet hinjected hback halone hcalm hop => ?_,
    fun e hedges hdue hcalm hwaves hservice howner hen => ?_⟩
  · exact ⟨_, if_neg hdown, stamp_result (s := s.clearOut) h hsel⟩
  · exact ⟨_, if_neg hdown, stampOut_result (s := s.clearOut) h hsel hroom⟩
  · exact ⟨_, if_neg hdown, movStamp_result (s := s.clearOut) h hsrc hdst⟩
  · exact ⟨_, if_neg hdown, at_result (s := s.clearOut) h hmode hnone⟩
  · exact ⟨_, if_neg hdown, tout_result (s := s.clearOut) h hfree⟩
  · exact ⟨_, if_neg hdown, waitLevel_result (s := s.clearOut) h hlow hhigh⟩
  · exact ⟨_, if_neg hdown, waitTime_result (s := s.clearOut) h hsrc hmode hlater⟩
  · have hcheck : s.clearOut.checkWait b k = s.clearOut.complete b k x := checkWait_met hwait hmet hop
    obtain ⟨honly, hsett⟩ := complete_wait (u := s.clearOut) (b := b) (k := k) hop hinjected hback hcalm
    refine ⟨s.clearOut.complete b k x, (if_neg hdown).trans (congrArg Host.Outcome.next ((if_pos ⟨hphase, halone⟩).trans hcheck)),
      honly, hsett⟩
  · exact ⟨_, if_neg hdown, edgeDue_result (s := s.clearOut) hedges hdue hcalm hwaves ⟨hservice, howner, hen⟩⟩

end Sys2Proof.Machine

end

section

/-! An edge at a ball (R187 to R191): the own sett of its pin and the waits of its quad see it. -/

namespace Sys2Proof.Machine

variable {s t u : State} {b k p : Nat} {v : Bool}

/-- From `s` to `u` no more than the waits of setts are met: beside its wait every sett stays. -/
structure State.Meets (s u : State) : Prop where
  frame : u = { s with setts := u.setts }
  setts : ∀ c m, { u.sett c m with wait := none } = { s.sett c m with wait := none }

namespace State.Meets

theorem refl (s : State) : s.Meets s := ⟨rfl, fun _ _ => rfl⟩

theorem trans (h : s.Meets t) (h' : t.Meets u) : s.Meets u :=
  ⟨by rw [h'.frame, h.frame], fun c m => (h'.setts c m).trans (h.setts c m)⟩

theorem when {c : Bool} {f : State → State} (h : s.Meets (f s)) : s.Meets (s.when c f) := State.when_of (P := s.Meets) (refl s) h

theorem foldl {α : Type} {xs : List α} {f : State → α → State} (hf : ∀ (u : State) x, u.Meets (f u x)) : s.Meets (xs.foldl f s) := by
  induction xs generalizing s with
  | nil => exact refl s
  | cons x xs ih => exact (hf s x).trans ih

theorem meet : s.Meets (s.meet b k) := by
  refine ⟨rfl, fun c m => ?_⟩
  by_cases hkey : c * 64 + m = b * 64 + k
  · have hold : s.sett c m = s.sett b k := by simp [State.sett, hkey]
    have hnew : (s.meet b k).sett c m = (s.meet b k).sett b k := by simp [State.sett, hkey]
    rw [hnew, hold, State.meet, State.sett_onSett]
    dsimp only
    split
    · rfl
    · rfl
  · rw [State.meet, State.onSett, State.sett_setSett_ne _ _ _ _ _ _ hkey]

/-- The waits of a quad on an edge of a pin (R235, R236). -/
theorem meetPin {level : Bool} : s.Meets (s.meetPin b p level) := by
  refine foldl fun u m => ?_
  dsimp only
  split
  · exact when meet
  · exact refl u

/-- The waits of a bench on its lines (R235). -/
theorem meetLines : s.Meets (s.meetLines b) := by
  refine foldl fun u m => ?_
  dsimp only
  split
  · split
    · exact when meet
    · exact refl u
  · exact refl u

theorem rd (h : s.Meets u) (r : Reg) (ix : List Nat) : u.rd r ix = s.rd r ix := by
  rw [h.frame]
  rfl

end State.Meets

/-- From `s` to `u` the ball of pin p takes level `v`: what its own sett and the waits of the quad see of the edge, and the count of its
lost captures, may change with it, and nothing else (R187, R189, R191). -/
structure State.BallTakes (s u : State) (b p : Nat) (v : Bool) : Prop where
  frame : u = { s with regs := u.regs, setts := u.setts, pins := u.pins }
  words : s.wordsKept u fun a => a == Reg.SETT_ERR.addr [b, p]
  pin : u.pinOf b p = { s.pinOf b p with ball := v }

/-- What the own sett of a pin sees of an edge of its ball: its stamp unit, and its edge counter (R188 to R191). -/
def State.edgeSeen (s : State) (b p : Nat) (rising : Bool) : State :=
  let alive := (s.sett b p).phase != .reset
  let s := s.when (alive && qualifies (s.get F.SETT_CTRL_stamp_edge [b, p]) rising) fun s => s.stampEdge b p rising
  s.when (alive && qualifies (s.get F.SETT_CTRL_cnt_edge [b, p]) rising) fun s =>
    s.onSett b p fun t => { t with edgeCount := word32 (t.edgeCount + 1) }

/-- From `s` to `u` the setts change, and the count of the lost captures of sett p. -/
structure State.Captures (s u : State) (b p : Nat) : Prop where
  frame : u = { s with regs := u.regs, setts := u.setts }
  words : s.wordsKept u fun a => a == Reg.SETT_ERR.addr [b, p]

namespace State.Captures

theorem refl (s : State) (b p : Nat) : s.Captures s b p := ⟨rfl, fun _ _ => rfl⟩

theorem trans (h : s.Captures t b p) (h' : t.Captures u b p) : s.Captures u b p :=
  ⟨by rw [h'.frame, h.frame], State.wordsKept_trans h.words h'.words⟩

theorem setSett {c m : Nat} {x : Sett} : s.Captures (s.setSett c m x) b p := ⟨rfl, fun _ _ => rfl⟩

theorem when {c : Bool} {f : State → State} (h : s.Captures (f s) b p) : s.Captures (s.when c f) b p :=
  State.when_of (P := fun u => s.Captures u b p) (refl s b p) h

theorem missed : s.Captures (s.inc F.SETT_ERR_stamp_missed [b, p]) b p :=
  ⟨rfl, (State.regsOnly_set s F.SETT_ERR_stamp_missed [b, p] _ (fun a => a == Reg.SETT_ERR.addr [b, p]) (beq_self_eq_true _)).2⟩

theorem stampEdge {rising : Bool} : s.Captures (s.stampEdge b p rising) b p := by
  unfold State.stampEdge
  dsimp only
  exact setSett.trans (when missed)

theorem edgeSeen {rising : Bool} : s.Captures (s.edgeSeen b p rising) b p := by
  unfold State.edgeSeen
  dsimp only
  exact (when stampEdge).trans (when setSett)

theorem of_meets (h : s.Meets u) : s.Captures u b p := by
  rw [h.frame]
  exact ⟨rfl, fun _ _ => rfl⟩

end State.Captures

theorem ballLevel_of_edge (h : (s.pinOf b p).ball ≠ v) : s.ballLevel b p v =
    ((s.setPin b p { s.pinOf b p with ball := v }).edgeSeen b p (v != s.is F.BNCH_PAD_invert [b, p])).meetPin b p
      (v != s.is F.BNCH_PAD_invert [b, p]) := if_neg h

theorem ballLevel_same (h : (s.pinOf b p).ball = v) : s.ballLevel b p v = s := if_pos h

/-- The ball of a pin takes a level (R187). -/
theorem ballTakes_ballLevel (s : State) (b p : Nat) (v : Bool) : s.BallTakes (s.ballLevel b p v) b p v := by
  by_cases h : (s.pinOf b p).ball = v
  · rw [ballLevel_same h]
    exact ⟨rfl, fun _ _ => rfl, by rw [← h]⟩
  · have hseen := (State.Captures.edgeSeen (s := s.setPin b p { s.pinOf b p with ball := v }) (b := b) (p := p)
      (rising := v != s.is F.BNCH_PAD_invert [b, p])).trans
        (.of_meets (State.Meets.meetPin (b := b) (p := p) (level := v != s.is F.BNCH_PAD_invert [b, p])))
    rw [ballLevel_of_edge h]
    refine ⟨?_, hseen.words, ?_⟩
    · rw [hseen.frame]
      rfl
    · rw [hseen.frame]
      exact State.pinOf_setPin ..

namespace State.BallTakes

theorem rd_of_ne (h : s.BallTakes u b p v) {r : Reg} {ix : List Nat} (hr : r.addr ix ≠ Reg.SETT_ERR.addr [b, p]) :
    u.rd r ix = s.rd r ix := State.wordsKept_rd h.words r ix (beq_eq_false_iff_ne.mpr hr)

theorem get_of_ne (h : s.BallTakes u b p v) {f : Fld} {ix : List Nat} (hf : f.reg.addr ix ≠ Reg.SETT_ERR.addr [b, p]) :
    u.get f ix = s.get f ix := State.wordsKept_get h.words f ix (beq_eq_false_iff_ne.mpr hf)

theorem sameTable (h : s.BallTakes u b p v) (hp : p < 64) : s.SameTable u b where
  table n hn := h.rd_of_ne (by simp [Reg.addr, Reg.desc, dimOffset]; omega)
  shown i hi := h.rd_of_ne (by simp [Reg.addr, Reg.desc, dimOffset]; omega)
  quads q hq := h.rd_of_ne (by simp [Reg.addr, Reg.desc, dimOffset]; omega)

/-- What holds a ball at its level stays. -/
theorem ballAt (h : s.BallTakes u b p v) : u.ballAt b p = s.ballAt b p := by
  have hpad {f : Fld} (hf : f.reg = .BNCH_PAD) : u.get f [b, p] = s.get f [b, p] :=
    h.get_of_ne (by rw [hf]; simp [Reg.addr, Reg.desc, dimOffset]; omega)
  have hrail : u.get F.EDGE_RAIL_STATUS_pwr_en = s.get F.EDGE_RAIL_STATUS_pwr_en :=
    h.get_of_ne (by simp [F.EDGE_RAIL_STATUS_pwr_en, Reg.addr, Reg.desc, dimOffset]; omega)
  have hheld : u.edge.held = s.edge.held := by rw [h.frame]
  unfold State.ballAt State.pinDrive State.padPull State.bankPowered State.bitOf State.is
  rw [h.pin, hheld, hrail, hpad (f := F.BNCH_PAD_invert) rfl, hpad (f := F.BNCH_PAD_open_drain) rfl, hpad (f := F.BNCH_PAD_pull) rfl]

theorem floats (h : s.BallTakes u b p v) : u.floats b p = s.floats b p := congrArg Option.isNone h.ballAt

end State.BallTakes

end Sys2Proof.Machine

end

section

/-! PIN_EDGE where none of the instances uses the pin (R187, R247). -/

namespace Sys2Proof.Machine

variable {s u : State} {b p i : Nat} {l : Bool}

/-- The role of a pin is found in the table (R247). -/
theorem State.SameTable.roleOf (h : s.SameTable u b) (hi : i < 64) (p : Nat) : u.roleOf b i p = s.roleOf b i p := by
  have hbyte {off : Nat} (hoff : off < 256) : u.descByte b i off = s.descByte b i off := h.descByte hi hoff
  have hpin : u.descPin b i = s.descPin b i := by
    unfold State.descPin State.descSetts
    rw [hbyte (by decide)]
  have hquad : u.descQuad b i = s.descQuad b i := congrArg (· % 16) (hbyte (by decide))
  have hchannel : u.dataChannel b i (p % 4) = s.dataChannel b i (p % 4) := by
    unfold State.dataChannel
    rw [hbyte (by omega)]
  unfold State.roleOf State.roleUsed
  rw [h.descCode hi, hpin, hquad, hbyte (off := 16) (by decide), hbyte (off := 24) (by decide), hchannel]

/-- With none of the instances on a pin, its edge reaches none. -/
theorem portEdges_of_unused (h : ∀ i, i ∈ s.runningPorts b → s.roleOf b i p = none) (f : State → Nat → Nat → State) :
    (s.each (s.runningPorts b) fun s i => match s.roleOf b i p with | some r => f s i r | none => s) = s := by
  have hfold : ∀ is : List Nat, (∀ i ∈ is, s.roleOf b i p = none) →
      (is.foldl (fun s i => match s.roleOf b i p with | some r => f s i r | none => s) s) = s := by
    intro is
    induction is with
    | nil => exact fun _ => rfl
    | cons i is ih =>
      intro his
      rw [List.foldl_cons, his i List.mem_cons_self]
      exact ih fun j hj => his j (List.mem_cons_of_mem _ hj)
  exact hfold _ h

/-- A ball with a defined level takes it when it settles, and another is read afresh (R187). -/
theorem settled_of_level (h : s.ballAt b p = some l) : (s.sample b p).2.settleBall b p = s.ballLevel b p l := by
  have hsample : (s.sample b p).2 = s := by
    unfold State.sample State.floats
    rw [h]
    rfl
  rw [hsample, State.settleBall, h]

theorem settled_of_floating (h : s.ballAt b p = none) :
    (s.sample b p).2.settleBall b p = s.drawLevel.2.ballLevel b p s.drawLevel.1 := by
  have hsample : (s.sample b p).2 = s.drawLevel.2.ballLevel b p s.drawLevel.1 := by
    unfold State.sample State.floats
    rw [h]
    rfl
  have htakes := ballTakes_ballLevel s.drawLevel.2 b p s.drawLevel.1
  rw [hsample, State.settleBall, htakes.ballAt, show s.drawLevel.2.ballAt b p = none from h]

/-- The pin with its outside driver. -/
def State.withDriver (s : State) (b p : Nat) (level : Option Bool) : State := s.setPin b p { s.pinOf b p with outside := level }

theorem pinOf_withDriver (s : State) (b p : Nat) (level : Option Bool) :
    (s.withDriver b p level).pinOf b p = { s.pinOf b p with outside := level } := State.pinOf_setPin ..

variable (hfree : s.pinDrive b p (s.pinOf b p) = none)
include hfree

theorem ballAt_withDriver (level : Option Bool) :
    (s.withDriver b p level).ballAt b p = match level with | some l => some l | none => s.padPull b p := by
  have hnone : (s.withDriver b p level).pinDrive b p { s.pinOf b p with outside := level } = none := hfree
  unfold State.ballAt
  rw [pinOf_withDriver]
  dsimp only
  rw [hnone]
  cases level with
  | none => rfl
  | some l => rfl

/-- An outside driver puts its level on a ball that the hub leaves alone. -/
theorem ballChange_driven (hunused : ∀ i, i ∈ s.runningPorts b → s.roleOf b i p = none) (l : Bool) :
    s.ballChange b p (some l) = (s.withDriver b p (some l)).ballLevel b p l := by
  have hno : s.instanceDrives b p = false := List.any_eq_false.mpr fun i hi => by
    rw [hunused i hi]
    exact Bool.false_ne_true
  have hseen : s.driverSeen b p (some l) = some l := if_neg (by rw [hfree]; nofun)
  unfold State.ballChange
  dsimp only
  rw [hno, hseen]
  exact settled_of_level (ballAt_withDriver hfree (some l))

/-- The pull takes a ball that its outside driver lets go. -/
theorem ballChange_pulled {l : Bool} (hpull : s.padPull b p = some l) :
    s.ballChange b p none = (s.withDriver b p none).ballLevel b p l :=
  settled_of_level ((ballAt_withDriver hfree none).trans hpull)

theorem ballChange_floating (hpull : s.padPull b p = none) :
    s.ballChange b p none =
      (s.withDriver b p none).drawLevel.2.ballLevel b p (s.withDriver b p none).drawLevel.1 :=
  settled_of_floating ((ballAt_withDriver hfree none).trans hpull)

end Sys2Proof.Machine

end

section

/-! What a sett's own units hold after PIN_EDGE (R188, R189, R191). -/

namespace Sys2Proof.Machine

variable {s u : State} {b p : Nat} {l : Bool}

/-- PIN_EDGE at a pin of none of the instances changes no more than its ball (R187). -/
theorem exec_pinEdge (hup : s.down .bench = false) (hb : b < 16) (hp : p < 64)
    (hunused : ∀ i, i ∈ s.runningPorts b → s.roleOf b i p = none) (level : Option Bool)
    (htable : s.clearOut.SameTable (s.clearOut.ballChange b p level) b) :
    exec (.pinEdge b p level) s = .next (s.clearOut.ballChange b p level) := by
  have hrunning : (s.clearOut.ballChange b p level).runningPorts b = s.runningPorts b :=
    List.filter_congr fun i hi => htable.portRuns (List.mem_range.mp hi)
  have hnone : ∀ i, i ∈ (s.clearOut.ballChange b p level).runningPorts b → (s.clearOut.ballChange b p level).roleOf b i p = none :=
    fun i hi => (htable.roleOf (List.mem_range.mp (List.mem_filter.mp hi).1) p).trans (hunused i (hrunning ▸ hi))
  refine (if_neg (ne_true_of_eq_false hup)).trans ((if_pos ⟨hb, hp⟩).trans ?_)
  dsimp only
  split
  · rfl
  · exact congrArg Host.Outcome.next (portEdges_of_unused hnone _)

/-- The stamp unit holds the edge (R188, R189). -/
theorem sett_stampEdge (s : State) (b p : Nat) (rising : Bool) : (s.stampEdge b p rising).sett b p = { s.sett b p with
    capture := some (s.captureNow b rising), unread := true, missed := (s.sett b p).missed || (s.sett b p).unread } := by
  have hsett (c : Bool) (t : State) : (t.when c fun s => s.inc F.SETT_ERR_stamp_missed [b, p]).sett b p = t.sett b p := by
    cases c with
    | false => rfl
    | true => rfl
  unfold State.stampEdge
  dsimp only
  rw [hsett, State.sett_setSett]

/-- What a running sett sees of an edge that both its units take (R188, R189, R191). -/
theorem edgeSeen_both {rising : Bool} (hruns : (s.sett b p).phase = .running)
    (hstamp : qualifies (s.get F.SETT_CTRL_stamp_edge [b, p]) rising = true)
    (hcount : qualifies (s.get F.SETT_CTRL_cnt_edge [b, p]) rising = true) :
    (s.edgeSeen b p rising).sett b p = { s.sett b p with
      capture := some (s.captureNow b rising), unread := true, missed := (s.sett b p).missed || (s.sett b p).unread,
      edgeCount := ((s.sett b p).edgeCount + 1) % 2 ^ 32 } := by
  have hkept : (s.stampEdge b p rising).get F.SETT_CTRL_cnt_edge [b, p] = s.get F.SETT_CTRL_cnt_edge [b, p] :=
    State.wordsKept_get State.Captures.stampEdge.words _ _
      (beq_eq_false_iff_ne.mpr (by simp [F.SETT_CTRL_cnt_edge, Reg.addr, Reg.desc, dimOffset]))
  have halive : ((s.sett b p).phase != .reset) = true := by rw [hruns]; rfl
  unfold State.edgeSeen
  dsimp only
  rw [halive, hstamp, show (s.when (true && true) fun s => s.stampEdge b p rising) = s.stampEdge b p rising from if_pos rfl, hkept, hcount,
    show ((s.stampEdge b p rising).when (true && true) fun s => s.onSett b p fun t => { t with edgeCount := word32 (t.edgeCount + 1) }) =
      (s.stampEdge b p rising).onSett b p _ from if_pos rfl, State.sett_onSett, sett_stampEdge]
  rfl

theorem sameTable_withDriver (s : State) (b p : Nat) (level : Option Bool) : s.SameTable (s.withDriver b p level) b :=
  ⟨fun _ _ => rfl, fun _ _ => rfl, fun _ _ => rfl⟩

/-- PIN_EDGE of a running sett's own pin whose edge both its units take. -/
theorem pinEdge_result (hp : p < 64) (hfree : s.pinDrive b p (s.pinOf b p) = none)
    (hunused : ∀ i, i ∈ s.runningPorts b → s.roleOf b i p = none) (hedge : (s.pinOf b p).ball ≠ l) (hruns : (s.sett b p).phase = .running)
    (hstamp : qualifies (s.get F.SETT_CTRL_stamp_edge [b, p]) (l != s.is F.BNCH_PAD_invert [b, p]) = true)
    (hcount : qualifies (s.get F.SETT_CTRL_cnt_edge [b, p]) (l != s.is F.BNCH_PAD_invert [b, p]) = true) :
    s.SameTable (s.ballChange b p (some l)) b ∧ ((s.ballChange b p (some l)).pinOf b p).ball = l ∧
      (s.ballChange b p (some l)).floats b p = false ∧
      ((s.ballChange b p (some l)).sett b p).capture = some (s.captureNow b (l != s.is F.BNCH_PAD_invert [b, p])) ∧
      ((s.ballChange b p (some l)).sett b p).unread = true ∧
      ((s.ballChange b p (some l)).sett b p).missed = ((s.sett b p).missed || (s.sett b p).unread) ∧
      ((s.ballChange b p (some l)).sett b p).edgeCount = ((s.sett b p).edgeCount + 1) % 2 ^ 32 := by
  have htakes := ballTakes_ballLevel (s.withDriver b p (some l)) b p l
  have hball : ((s.withDriver b p (some l)).pinOf b p).ball ≠ l := by rw [pinOf_withDriver]; exact hedge
  have hfloats : (s.withDriver b p (some l)).floats b p = false := congrArg Option.isNone (ballAt_withDriver hfree (some l))
  let rising := l != s.is F.BNCH_PAD_invert [b, p]
  let before := (s.withDriver b p (some l)).setPin b p { (s.withDriver b p (some l)).pinOf b p with ball := l }
  have hseen : (before.edgeSeen b p rising).sett b p = _ := edgeSeen_both (s := before) hruns hstamp hcount
  have hmet : { ((before.edgeSeen b p rising).meetPin b p rising).sett b p with wait := none } = _ :=
    (State.Meets.meetPin (s := before.edgeSeen b p rising) (b := b) (p := p) (level := rising)).setts b p
  rw [hseen] at hmet
  rw [ballChange_driven hfree hunused]
  refine ⟨(sameTable_withDriver s b p _).trans (htakes.sameTable hp), ?_, htakes.floats.trans hfloats, ?_⟩
  · rw [htakes.pin]
  · rw [ballLevel_of_edge hball]
    exact ⟨congrArg Sett.capture hmet, congrArg Sett.unread hmet, congrArg Sett.missed hmet, congrArg Sett.edgeCount hmet⟩

/-- PIN_EDGE of a pin that its outside driver lets go (R187). -/
theorem pinLetGo_result (hp : p < 64) (hfree : s.pinDrive b p (s.pinOf b p) = none) :
    s.SameTable (s.ballChange b p none) b ∧ ((s.ballChange b p none).pinOf b p).outside = none ∧
      (∀ l, s.padPull b p = some l →
        (s.ballChange b p none).floats b p = false ∧ ((s.ballChange b p none).pinOf b p).ball = l) ∧
      (s.padPull b p = none → (s.ballChange b p none).floats b p = true) := by
  have hfloats : (s.withDriver b p none).floats b p = (s.padPull b p).isNone := congrArg Option.isNone (ballAt_withDriver hfree none)
  cases hpull : s.padPull b p with
  | some l =>
    have htakes := ballTakes_ballLevel (s.withDriver b p none) b p l
    rw [ballChange_pulled hfree hpull]
    refine ⟨(sameTable_withDriver s b p none).trans (htakes.sameTable hp), ?_, ?_, nofun⟩
    · rw [htakes.pin, pinOf_withDriver]
    · rintro _ ⟨⟩
      exact ⟨htakes.floats.trans (hfloats.trans (by rw [hpull]; rfl)), by rw [htakes.pin]⟩
  | none =>
    have htakes := ballTakes_ballLevel (s.withDriver b p none).drawLevel.2 b p (s.withDriver b p none).drawLevel.1
    rw [ballChange_floating hfree hpull]
    have hdrawn : s.SameTable (s.withDriver b p none).drawLevel.2 b := ⟨fun _ _ => rfl, fun _ _ => rfl, fun _ _ => rfl⟩
    refine ⟨hdrawn.trans (htakes.sameTable hp), ?_, nofun, fun _ => ?_⟩
    · rw [htakes.pin]
      exact congrArg Pin.outside (pinOf_withDriver s b p none)
    · exact htakes.floats.trans (hfloats.trans (by rw [hpull]; rfl))

end Sys2Proof.Machine

end

section

/-! IDLE_TIMEOUT_EXPIRY where none of the instances uses the pin (R233, R237). -/

namespace Sys2Proof.Machine

variable {s : State} {b k target : Nat} {dur : Nat × Dom} {x : SettWait}

/-- With none of the instances on a sett's pin, its expiry is the sett's own. -/
theorem exec_idleTimeoutExpiry (hup : s.down .bench = false) (hunused : ∀ i, i ∈ s.runningPorts b → s.rolePin b i 0 ≠ k)
    (htimeout : (s.sett b k).timeout = some (target, dur)) {u : State} (hidle : s.clearOut.settIdle b k = u) (honly : s.settOnly u b k) :
    exec (.idleTimeoutExpiry b k) s = .next u := by
  have hunused' : ∀ i, i ∈ u.runningPorts b → u.rolePin b i 0 ≠ k := by
    rw [honly.1]
    exact hunused
  have hfold : ∀ is : List Nat, (∀ i ∈ is, u.rolePin b i 0 ≠ k) →
      (is.foldl (fun s i => if s.rolePin b i 0 = k then s.portIdle b i else s) u) = u := by
    intro is
    induction is with
    | nil => exact fun _ => rfl
    | cons i is ih =>
      intro his
      rw [List.foldl_cons, if_neg (his i List.mem_cons_self)]
      exact ih fun j hj => his j (List.mem_cons_of_mem _ hj)
  refine (if_neg (ne_true_of_eq_false hup)).trans ((if_pos (show (s.sett b k).timeout.isSome = true by rw [htimeout]; rfl)).trans ?_)
  rw [hidle]
  exact congrArg Host.Outcome.next (hfold _ hunused')

/-- The expiry frees the entry and sets flag 7 (R233). -/
def Sett.expired (t : Sett) : Sett := { t with timeout := none, flags := natSetBit t.flags 7 true }

theorem settIdle_awake (htimeout : (s.sett b k).timeout = some (target, dur)) (hwait : (s.sett b k).wait = none) :
    s.settIdle b k = s.onSett b k Sett.expired := by
  have hstill : ((s.onSett b k Sett.expired).sett b k).wait = none := by rw [State.sett_onSett]; exact hwait
  unfold State.settIdle
  rw [htimeout]
  dsimp only
  change (match ((s.onSett b k Sett.expired).sett b k).wait with | some x => _ | none => s.onSett b k Sett.expired) = _
  rw [hstill]

/-- A WAIT that heeds the timeout ends there, and the program goes on at its target (R233, R237). -/
theorem settIdle_waiting (htimeout : (s.sett b k).timeout = some (target, dur)) (hwait : (s.sett b k).wait = some x)
    (hop : insOp x.word = 1) (hheeds : natBit x.word 14 = true) :
    s.settIdle b k = (s.onSett b k Sett.expired).onSett b k fun t => { t with phase := x.back, wait := none, pc := target % 64 } := by
  have hstill : ((s.onSett b k Sett.expired).sett b k).wait = some x := by rw [State.sett_onSett]; exact hwait
  unfold State.settIdle
  rw [htimeout]
  dsimp only
  change (match ((s.onSett b k Sett.expired).sett b k).wait with | some x => _ | none => s.onSett b k Sett.expired) = _
  rw [hstill]
  exact if_pos ⟨hop, hheeds⟩

end Sys2Proof.Machine

end

section

/-! Writes of the descriptor table before and after the lock (R250), and what a refused access leaves. -/

namespace Sys2Proof.Machine

variable {s t : State} {p : Path} {b off val : Nat} {ix : List Nat}

/-- The words a refused access may change: those of a refusal by shape or chapter, and the record of a refusal by face. -/
def denialAddr (a : Nat) : Bool := refusalAddr a || (0x70020 ≤ a && a < 0x70028)

theorem denialAddr_of_refusalAddr (a : Nat) (h : refusalAddr a = true) : denialAddr a = true := by simp [denialAddr, h]

theorem denialAddr_of_causeAddr (a : Nat) (h : causeAddr a = true) : denialAddr a = true :=
  denialAddr_of_refusalAddr a (refusalAddr_of_causeAddr a h)

/-- A refusal by face leaves its record and its leaf (R476). -/
theorem State.Marks.faceViolation (s : State) (p : Path) (owner addr : Nat) (write : Bool) :
    s.Marks (s.faceViolation p owner addr write) denialAddr := by
  unfold State.faceViolation
  dsimp only
  split
  · exact ((State.Marks.refl s _).wr rfl).leaf denialAddr_of_causeAddr
  · exact (((State.Marks.refl s _).wr rfl).wr rfl).leaf denialAddr_of_causeAddr

/-- A refused access leaves its leaves and records, whatever refuses it (R34, R456, R476). -/
theorem State.Marks.deny (s : State) (p : Path) (addr : Nat) (write : Bool) (d : Denial) : s.Marks (s.deny p addr write d) denialAddr := by
  have hposted {u : State} (reason : Nat) (hu : s.Marks u refusalAddr) :
      s.Marks (if write then u.postedRefusal p reason addr else u) denialAddr := by
    split
    · exact hu.postedRefusal.mono denialAddr_of_refusalAddr
    · exact hu.mono denialAddr_of_refusalAddr
  cases d with
  | shape => exact hposted 1 ((State.Marks.refl s _).addressLeaf refusalAddr_of_causeAddr)
  | chapter => exact hposted 1 (State.Marks.refl s _)
  | guarded => exact hposted 2 (State.Marks.refl s _)
  | face owner => exact .faceViolation s p owner addr write

theorem State.regAt_clearOut (s : State) (a : Nat) : s.clearOut.regAt a = s.regAt a := rfl

theorem State.judge_clearOut (s : State) (p : Path) (r : Reg) (ix : List Nat) (a : Nat) (write : Bool) (v : Nat) :
    s.clearOut.judge p r ix a write v = s.judge p r ix a write v := State.judge_relatched

theorem State.write32_of_stored {r : Reg} {a : Nat} (hreg : s.regAt a = some (r, ix)) (hjudge : s.judge p r ix a true val = none)
    (hstored : s.clearOut.writeReg p r ix val = some t) : s.clearOut.write32 p a val = (true, t) := by
  simp only [State.write32, State.regAt_clearOut, State.judge_clearOut, hreg, hjudge, hstored]

theorem State.write32_of_denied {r : Reg} {a : Nat} {d : Denial} (hreg : s.regAt a = some (r, ix))
    (hjudge : s.judge p r ix a true val = some d) : s.clearOut.write32 p a val = (false, s.clearOut.deny p a true d) := by
  simp only [State.write32, State.regAt_clearOut, State.judge_clearOut, hreg, hjudge]

/-- What its own chapter bars is refused, if not for another reason first (R34). -/
theorem State.judge_of_barred {r : Reg} {a : Nat} (h : s.chapterBars p r ix true val = true) : ∃ d, s.judge p r ix a true val = some d := by
  unfold State.judge
  rw [h]
  split
  · exact ⟨_, rfl⟩
  · split
    · exact ⟨_, rfl⟩
    · split
      · exact ⟨_, rfl⟩
      · exact ⟨_, rfl⟩

/-- Past the registers of the hub itself no word changes with a refusal. -/
theorem denialAddr_of_base {r : Reg} (h : 0x400018 ≤ r.desc.base) (ix : List Nat) : denialAddr (r.addr ix) = false := by
  have hle : 0x400018 ≤ r.addr ix := Nat.le_trans h (Nat.le_add_right ..)
  simp [denialAddr, refusalAddr, causeAddr]
  omega

variable (hb : b < 16) (hoff : off < 0x40000)
  (hcarries : carries p .w32 (Reg.BNCH_PDT.addr [b, 0] + off) = true) (hopen : s.pathClosed p = false) (haligned : off % 4 = 0)
include hb hoff hcarries hopen haligned

/-- A word of the table is written as any word of the bus is. -/
theorem exec_descriptorTableWrite : exec (.descriptorTableWrite p b off val) s = .next
    (State.answerWrite p (Reg.BNCH_PDT.addr [b, 0] + off) (s.clearOut.write32 p (Reg.BNCH_PDT.addr [b, 0] + off) (val % 2 ^ 32))) := by
  have haddr : (Reg.BNCH_PDT.addr [b, 0] + off) % 4 = 0 := by
    have := Reg.BNCH_PDT.addr_mod_four [b, 0]
    omega
  show Host.Outcome.next (s.clearOut.pathWrite p .w32 (Reg.BNCH_PDT.addr [b % 16, 0] + off % 0x40000) val) = _
  rw [Nat.mod_eq_of_lt hb, Nat.mod_eq_of_lt hoff, State.pathWrite_of_carries (s := s.clearOut) hcarries hopen,
    State.busWrite_aligned haddr]

/-- Once the lock is set, a write of the table changes nothing and sets leaf 800 (R250). -/
theorem lockedTableWrite_result (hlocked : s.is F.CHIP_STATUS_cfg_locked = true) (hval : val < 2 ^ 32)
    (hreg : s.regAt (Reg.BNCH_PDT.addr [b, 0] + off) = some (.BNCH_PDT, ix))
    (hjudge : s.judge p .BNCH_PDT ix (Reg.BNCH_PDT.addr [b, 0] + off) true val = none) (hp : p ≠ .loader) :
    ∃ u, exec (.descriptorTableWrite p b off val) s = .next u ∧ u.leafSet 800 = true ∧ s.regsOnly u causeAddr := by
  have hfor : s.clearOut.lockedFor p = true := by
    show (s.is F.CHIP_STATUS_cfg_locked && p != .loader) = true
    rw [hlocked, bne_iff_ne.mpr hp]
    rfl
  have hstored : s.clearOut.writeReg p .BNCH_PDT ix val = some (s.clearOut.leaf (loadLeaf 0)) :=
    congrArg some (if_pos hfor)
  refine ⟨_, exec_descriptorTableWrite hb hoff hcarries hopen haligned, ?_⟩
  rw [Nat.mod_eq_of_lt hval, State.write32_of_stored hreg hjudge hstored, State.answerWrite_true]
  exact ⟨State.leafSet_leaf _ _ _ _ _ (by decide),
    (((State.Marks.refl s.clearOut causeAddr).leaf fun _ h => h).emits (acknowledged p _)).1⟩

/-- Before the lock no path from outside writes the table (R250). -/
theorem unlockedTableWrite_result (hlocked : s.is F.CHIP_STATUS_cfg_locked = false)
    (hreg : s.regAt (Reg.BNCH_PDT.addr [b, 0] + off) = some (.BNCH_PDT, ix)) :
    ∃ u, exec (.descriptorTableWrite p b off val) s = .next u ∧ u.rd .BNCH_PDT ix = s.rd .BNCH_PDT ix ∧ u.ports = s.ports ∧
      u.out = (if postedPath p then [] else [.accessError p (Reg.BNCH_PDT.addr [b, 0] + off)]) := by
  have hp : p ≠ .loader := by
    rintro rfl
    cases hcarries
  have hbars : s.chapterBars p .BNCH_PDT ix true (val % 2 ^ 32) = true := by simp [State.chapterBars, hlocked, hp]
  obtain ⟨d, hdenied⟩ := State.judge_of_barred (a := Reg.BNCH_PDT.addr [b, 0] + off) hbars
  have hmarks := (State.Marks.deny s.clearOut p (Reg.BNCH_PDT.addr [b, 0] + off) true d).emits
    (if postedPath p then [] else [.accessError p (Reg.BNCH_PDT.addr [b, 0] + off)])
  refine ⟨_, exec_descriptorTableWrite hb hoff hcarries hopen haligned, ?_⟩
  rw [State.write32_of_denied hreg hdenied, State.answerWrite_false]
  obtain ⟨hregs, hout⟩ := hmarks
  exact ⟨State.regsOnly_rd hregs _ _ (denialAddr_of_base (by decide) ix), by rw [hregs.1], hout⟩

end Sys2Proof.Machine

end

section

/-! Pins without instances, and the descriptor table. -/

namespace Sys2Proof.Machine

/-- Settles O8: an edge at a pin of none of the instances reaches the ball, its own sett and the waits of its quad (`State.BallTakes`), an expiry its
own sett alone, and a write of the table is refused before the lock and drops its data after it. -/
theorem pinEdges : Obligations.PinEdges := by
  unfold Obligations.PinEdges
  intro s b pin hup hb hpin t rising
  refine ⟨fun l hunused hfree hedge hruns hstamp hcount => ?_, fun hunused hfree => ?_, fun target dur hunused htimeout hwait => ?_,
    fun target dur x hunused htimeout hwait hop hheeds => ?_, fun p off val ix hoff hc ho ha hl hv hr hj hp => ?_,
    fun p off val ix hoff hc ho ha hl hr => ?_⟩
  · obtain ⟨htable, hresult⟩ := pinEdge_result (s := s.clearOut) hpin hfree hunused hedge hruns hstamp hcount
    exact ⟨_, exec_pinEdge hup hb hpin hunused (some l) htable, hresult⟩
  · obtain ⟨htable, hresult⟩ := pinLetGo_result (s := s.clearOut) hpin hfree
    exact ⟨_, exec_pinEdge hup hb hpin hunused none htable, hresult⟩
  · have honly : s.settOnly (s.clearOut.onSett b pin Sett.expired) b pin :=
      State.settOnly_trans (s.settOnly_clearOut b pin) (State.settOnly_onSett ..)
    exact ⟨_, exec_idleTimeoutExpiry hup hunused htimeout (settIdle_awake (s := s.clearOut) htimeout hwait) honly, honly,
      State.sett_onSett ..⟩
  · have honly : s.settOnly ((s.clearOut.onSett b pin Sett.expired).onSett b pin fun t =>
        { t with phase := x.back, wait := none, pc := target % 64 }) b pin :=
      State.settOnly_trans (s.settOnly_clearOut b pin) (State.settOnly_trans (State.settOnly_onSett ..) (State.settOnly_onSett ..))
    refine ⟨_, exec_idleTimeoutExpiry hup hunused htimeout (settIdle_waiting (s := s.clearOut) htimeout hwait hop hheeds) honly, honly, ?_⟩
    rw [State.sett_onSett, State.sett_onSett]
    rfl
  · exact lockedTableWrite_result hb hoff hc ho ha hl hv hr hj hp
  · exact unlockedTableWrite_result hb hoff hc ho ha hl hr

end Sys2Proof.Machine

end

section

/-! Drives of pins, whoever makes them (R182, R186, R187): what of the setts and of the words of the hub they leave. -/

namespace Sys2Proof.Machine

/-- The error counters of setts, where a lost capture is counted (R189). -/
def settErrAddr (a : Nat) : Bool := 0x1000000 ≤ a && a % 0x100000 < 0x10000 && a % 0x400 == 0x24

/-- From `s` to `u` no more changes than drives of pins can: the pins and what is put out, what setts see of the edges, and the count of
the captures lost to them (R182, R186, R187). -/
structure State.Pads (s u : State) : Prop where
  frame : u = { s with regs := u.regs, setts := u.setts, pins := u.pins, out := u.out, line := u.line }
  words : s.wordsKept u settErrAddr
  setts : ∀ c m, (u.sett c m).steady = (s.sett c m).steady

theorem settErrAddr_settErr {b p : Nat} (h : p < 64) : settErrAddr (Reg.SETT_ERR.addr [b, p]) = true := by
  simp [settErrAddr, Reg.addr, Reg.desc, dimOffset]
  omega

theorem quadPin_lt {k : Nat} (h : k < 64) (j : Nat) : quadPin k j < 64 := by
  unfold quadPin
  omega

theorem quadPin_self (p : Nat) : quadPin p p = p := by
  unfold quadPin
  omega

namespace State.Pads

variable {s t u : State} {b p k : Nat}

theorem refl (s : State) : s.Pads s := ⟨rfl, fun _ _ => rfl, fun _ _ => rfl⟩

theorem trans (h : s.Pads t) (h' : t.Pads u) : s.Pads u :=
  ⟨by rw [h'.frame, h.frame], State.wordsKept_trans h.words h'.words, fun c m => (h'.setts c m).trans (h.setts c m)⟩

theorem foldl {xs : List Nat} {f : State → Nat → State} (hf : ∀ (u : State), ∀ x ∈ xs, u.Pads (f u x)) : s.Pads (xs.foldl f s) := by
  induction xs generalizing s with
  | nil => exact refl s
  | cons x xs ih => exact (hf s x List.mem_cons_self).trans (ih fun u y hy => hf u y (List.mem_cons_of_mem _ hy))

theorem setPin {x : Pin} : s.Pads (s.setPin b p x) := ⟨rfl, fun _ _ => rfl, fun _ _ => rfl⟩

theorem emit {o : Out} : s.Pads (s.emit o) := ⟨rfl, fun _ _ => rfl, fun _ _ => rfl⟩

theorem ballLevel {level : Bool} (hp : p < 64) : s.Pads (s.ballLevel b p level) := by
  have htakes := ballTakes_ballLevel s b p level
  have hsees : s.Sees (s.ballLevel b (quadPin p p) level) b p := State.DrivesOnly.ballLevel
  rw [quadPin_self] at hsees
  refine ⟨?_, fun a ha => htakes.words a (beq_eq_false_iff_ne.mpr ?_), hsees.setts⟩
  · rw [htakes.frame]
  · rintro rfl
    rw [settErrAddr_settErr hp] at ha
    cases ha

theorem settleBall (hp : p < 64) : s.Pads (s.settleBall b p) := by
  unfold State.settleBall
  split
  · exact ballLevel hp
  · exact refl s

theorem output {x : Pin} (hp : p < 64) : s.Pads (s.output b p x) := by
  unfold State.output
  dsimp only
  split
  · exact setPin
  · exact (setPin.trans emit).trans (settleBall hp)

/-- A pin in its safe state (R186). -/
theorem safePin (hp : p < 64) : s.Pads (s.safePin b p) := by
  unfold State.safePin
  dsimp only
  split
  · exact output hp
  · exact output hp
  · exact output hp
  · exact refl s

theorem safeOwned (hk : k < 64) : s.Pads (s.safeOwned b k) := by
  refine foldl fun u p hp => ?_
  obtain ⟨j, -, rfl⟩ := List.mem_map.mp (List.mem_filter.mp hp).1
  exact safePin (quadPin_lt hk j)

theorem safeBench : s.Pads (s.safeBench b) := foldl fun _ _ hp => safePin (List.mem_range.mp hp)

theorem shot (h : s.Pads u) : u.shot = s.shot := by rw [h.frame]

theorem benches (h : s.Pads u) : u.benches = s.benches := by rw [h.frame]

/-- Edges leave the state of a sett and its registers. -/
theorem phase (h : s.Pads u) (c m : Nat) : (u.sett c m).phase = (s.sett c m).phase := by
  have hphase := congrArg Sett.phase (h.setts c m)
  exact hphase

theorem x (h : s.Pads u) (c m : Nat) : (u.sett c m).x = (s.sett c m).x := by
  have hx := congrArg Sett.x (h.setts c m)
  exact hx

end State.Pads

end Sys2Proof.Machine

end

section

/-! Group commands (R176 to R178): a command to one sett of the group leaves what the others hold. -/

namespace Sys2Proof.Machine

variable {s u : State} {b k op : Nat}

/-- What one step of a run over a list without repeats brings about at an element lasts to the end, when every step at another element
keeps what held before it and what it brought about. -/
theorem foldl_reaches {α σ : Type} {f : σ → α → σ} {P Q : σ → Prop} {x : α} {xs : List α} (hnodup : xs.Nodup) (hx : x ∈ xs)
    (hbefore : ∀ s y, y ∈ xs → y ≠ x → P s → P (f s y)) (hat : ∀ s, P s → Q (f s x))
    (hafter : ∀ s y, y ∈ xs → y ≠ x → Q s → Q (f s y)) {s : σ} (hs : P s) : Q (xs.foldl f s) := by
  induction xs generalizing s with
  | nil => cases hx
  | cons y ys ih =>
    obtain ⟨hy, hys⟩ := List.nodup_cons.mp hnodup
    have htail {R : σ → Prop} (h : ∀ s z, z ∈ y :: ys → z ≠ x → R s → R (f s z)) (s z) (hz : z ∈ ys) : z ≠ x → R s → R (f s z) :=
      h s z (List.mem_cons_of_mem _ hz)
    rw [List.foldl_cons]
    by_cases hyx : y = x
    · subst hyx
      have hrest : ∀ zs : List α, zs ⊆ ys → ∀ s, Q s → Q (zs.foldl f s) := by
        intro zs
        induction zs with
        | nil => exact fun _ _ hs => hs
        | cons z zs ih =>
          intro hzs s hs
          obtain ⟨hz, hzs⟩ := List.cons_subset.mp hzs
          exact ih hzs _ (htail hafter s z hz (fun heq => hy (heq ▸ hz)) hs)
      exact hrest ys (List.Subset.refl ys) _ (hat s hs)
    · have hx' : x ∈ ys := (List.mem_cons.mp hx).resolve_left fun heq => hyx heq.symm
      exact ih hys hx' (htail hbefore) (htail hafter) (hbefore s y List.mem_cons_self hyx hs)

/-- The setts of a group are some of the bench's, each once (R178). -/
theorem groupSetts_nodup (s : State) (b : Nat) : (s.groupSetts b).Nodup := List.Nodup.filter _ List.nodup_range

theorem groupSetts_lt (h : k ∈ s.groupSetts b) : k < 64 := List.mem_range.mp (List.mem_filter.mp h).1

/-- A start or a stop changes its own sett alone (R176). -/
theorem settOnly_startSett (s : State) (b k : Nat) : s.settOnly (s.startSett b k) b k := by
  unfold State.startSett
  dsimp only
  split
  · exact State.settOnly_setSett ..
  · exact State.settOnly_setSett ..
  · exact s.settOnly_refl b k

theorem settOnly_stopCommand (s : State) (b k : Nat) : s.settOnly (s.stopCommand b k) b k := by
  unfold State.stopCommand
  split
  · exact State.settOnly_onSett ..
  · exact State.settOnly_onSett ..
  · exact s.settOnly_refl b k

theorem startSett_stopped (h : (s.sett b k).phase = .stopped) :
    (s.startSett b k).sett b k = { s.sett b k with phase := .running, pc := s.get F.SETT_CTRL_start_pc [b, k] } := by
  unfold State.startSett
  dsimp only
  rw [h]
  exact State.sett_setSett ..

theorem stopCommand_running (h : (s.sett b k).phase = .running) :
    (s.stopCommand b k).sett b k = { s.sett b k with phase := .stopped, cause := 5, wait := none, contended := false } := by
  unfold State.stopCommand
  rw [h]
  exact State.sett_onSett ..

/-- What a reset leaves of its sett: its registers are zero, its lines released, and it is stopped, but in the reset of its bench (R160,
R177). -/
def State.isReset (s : State) (b k : Nat) (phase : SettPhase) : Prop :=
  ((s.sett b k).phase = if phase = .reset then .reset else .stopped) ∧ (s.sett b k).x = 0 ∧ s.settLinesOf b k = 0

theorem settLinesOf_settLines_same (s : State) (b k v : Nat) : (s.settLines b k v).settLinesOf b k = v := smGet_smSet_same ..

theorem settLinesOf_settLines_ne {m : Nat} (hm : m ≠ k) (s : State) (v : Nat) : (s.settLines b k v).settLinesOf b m = s.settLinesOf b m :=
  smGet_smSet_ne _ _ _ _ _ (by omega)

theorem sett_settLines (s : State) (b k v c m : Nat) : (s.settLines b k v).sett c m = s.sett c m := rfl

theorem resetSett_self (hk : k < 64) : (s.resetSett b k).isReset b k (s.sett b k).phase := by
  have hpads : State.Pads _ (s.resetSett b k) := State.Pads.safeOwned hk
  refine ⟨(hpads.phase b k).trans ?_, (hpads.x b k).trans ?_, (congrArg (fun shot : ShotState => smGet shot.setts (b * 64 + k) 0) hpads.shot).trans
    (settLinesOf_settLines_same ..)⟩
  · rw [sett_settLines, State.sett_setSett]
  · rw [sett_settLines, State.sett_setSett]

/-- And of every other. -/
theorem resetSett_other {m : Nat} (hk : k < 64) (hm : m ≠ k) (s : State) :
    ((s.resetSett b k).sett b m).phase = (s.sett b m).phase ∧ ((s.resetSett b k).sett b m).x = (s.sett b m).x ∧
      (s.resetSett b k).settLinesOf b m = s.settLinesOf b m := by
  have hpads : State.Pads _ (s.resetSett b k) := State.Pads.safeOwned hk
  refine ⟨(hpads.phase b m).trans ?_, (hpads.x b m).trans ?_, (congrArg (fun shot : ShotState => smGet shot.setts (b * 64 + m) 0) hpads.shot).trans
    (settLinesOf_settLines_ne hm ..)⟩
  · rw [sett_settLines, State.sett_setSett_ne _ _ _ _ _ _ (by omega)]
  · rw [sett_settLines, State.sett_setSett_ne _ _ _ _ _ _ (by omega)]

theorem benchOf_resetSett (hk : k < 64) (s : State) : (s.resetSett b k).benchOf b = s.benchOf b := by
  have hpads : State.Pads _ (s.resetSett b k) := State.Pads.safeOwned hk
  exact congrArg (fun m => smGet m b {}) hpads.benches

/-- Every stopped sett of a group that is started runs (R176, R178). -/
theorem groupApply_start (hk : k ∈ s.groupSetts b) (hphase : (s.sett b k).phase = .stopped) :
    (s.groupApply b 1).sett b k = { s.sett b k with phase := .running, pc := s.get F.SETT_CTRL_start_pc [b, k] } := by
  have hother (u : State) (m : Nat) (hm : m ≠ k) : (u.startSett b m).sett b k = u.sett b k ∧
      (u.startSett b m).get F.SETT_CTRL_start_pc [b, k] = u.get F.SETT_CTRL_start_pc [b, k] :=
    ⟨sett_of_settOnly_ne (settOnly_startSett ..) hm.symm, State.get_of_regs (State.regs_of_settOnly (settOnly_startSett ..)) _ _⟩
  refine foldl_reaches (f := fun s m => s.startSett b m)
    (P := fun u => u.sett b k = s.sett b k ∧ u.get F.SETT_CTRL_start_pc [b, k] = s.get F.SETT_CTRL_start_pc [b, k])
    (Q := fun u => u.sett b k = _) (groupSetts_nodup s b) hk (fun u m _ hm hu => ?_) (fun u hu => ?_)
    (fun u m _ hm hu => (hother u m hm).1.trans hu) ⟨rfl, rfl⟩
  · exact ⟨(hother u m hm).1.trans hu.1, (hother u m hm).2.trans hu.2⟩
  · rw [startSett_stopped (by rw [hu.1]; exact hphase), hu.1, hu.2]

/-- Every running sett of a group that is stopped ends in stopped, with cause 5. -/
theorem groupApply_stop (hk : k ∈ s.groupSetts b) (hphase : (s.sett b k).phase = .running) :
    (s.groupApply b 2).sett b k = { s.sett b k with phase := .stopped, cause := 5, wait := none, contended := false } := by
  have hother (u : State) (m : Nat) (hm : m ≠ k) : (u.stopCommand b m).sett b k = u.sett b k :=
    sett_of_settOnly_ne (settOnly_stopCommand ..) hm.symm
  refine foldl_reaches (f := fun s m => s.stopCommand b m) (P := fun u => u.sett b k = s.sett b k) (Q := fun u => u.sett b k = _)
    (groupSetts_nodup s b) hk (fun u m _ hm hu => (hother u m hm).trans hu) (fun u hu => ?_)
    (fun u m _ hm hu => (hother u m hm).trans hu) rfl
  rw [stopCommand_running (by rw [hu]; exact hphase), hu]

theorem settCommand_reset (h : (s.benchOf b).reloading = false) : s.settCommand b k 4 = s.resetSett b k :=
  (if_pos rfl).trans (if_neg (ne_true_of_eq_false h))

/-- Every sett of a group that is reset is (R177, R178). -/
theorem groupApply_reset (hk : k ∈ s.groupSetts b) (hsteady : (s.benchOf b).reloading = false) :
    (s.groupApply b 3).isReset b k (s.sett b k).phase := by
  have hbench (u : State) (m : Nat) (hm : m ∈ s.groupSetts b) (hu : (u.benchOf b).reloading = false) :
      ((u.settCommand b m 4).benchOf b).reloading = false := by
    rw [settCommand_reset hu, benchOf_resetSett (groupSetts_lt hm), hu]
  have hmain := foldl_reaches (σ := State) (f := fun s m => s.settCommand b m 4)
    (P := fun u => (u.benchOf b).reloading = false ∧ (u.sett b k).phase = (s.sett b k).phase)
    (Q := fun u => (u.benchOf b).reloading = false ∧ u.isReset b k (s.sett b k).phase)
    (groupSetts_nodup s b) hk (fun u m hmem hm hu => ?_) (fun u hu => ?_) (fun u m hmem hm hu => ?_) ⟨hsteady, rfl⟩
  · exact hmain.2
  · refine ⟨hbench u m hmem hu.1, ?_⟩
    rw [settCommand_reset hu.1]
    exact (resetSett_other (groupSetts_lt hmem) hm.symm u).1.trans hu.2
  · refine ⟨hbench u k hk hu.1, ?_⟩
    rw [settCommand_reset hu.1, ← hu.2]
    exact resetSett_self (groupSetts_lt hk)
  · obtain ⟨hu, hphase, hx, hlines⟩ := hu
    obtain ⟨hphase', hx', hlines'⟩ := resetSett_other (b := b) (groupSetts_lt hmem) hm.symm u
    refine ⟨hbench u m hmem hu, ?_⟩
    rw [settCommand_reset hu]
    exact ⟨hphase'.trans hphase, hx'.trans hx, hlines'.trans hlines⟩

end Sys2Proof.Machine

end

section

/-! Group commands as a path writes them, and at their round (R178). -/

namespace Sys2Proof.Machine

variable {s t : State} {p : Path} {b k v : Nat}

/-- The state in which a group command has been written, before it is applied (R6, R178). -/
def State.groupAsked (s : State) (p : Path) (b v : Nat) : State :=
  s.clearOut.storeWord p (s.clearOut.lockedFor p) .BNCH_GROUP_CMD [b] v

theorem groupAsked_marks (s : State) (p : Path) (b v : Nat) :
    s.clearOut.Marks (s.groupAsked p b v) fun a => causeAddr a || a == Reg.BNCH_GROUP_CMD.addr [b] := State.Marks.storeWord ..

theorem groupAsked_frame (s : State) (p : Path) (b v : Nat) :
    s.groupAsked p b v = { s with regs := (s.groupAsked p b v).regs, out := (s.groupAsked p b v).out, line := (s.groupAsked p b v).line } :=
  (groupAsked_marks s p b v).1.1

theorem sett_groupAsked (s : State) (p : Path) (b v c m : Nat) : (s.groupAsked p b v).sett c m = s.sett c m := by
  rw [groupAsked_frame]
  rfl

theorem benchOf_groupAsked (s : State) (p : Path) (b v c : Nat) : (s.groupAsked p b v).benchOf c = s.benchOf c := by
  rw [groupAsked_frame]
  rfl

theorem rd_groupAsked {r : Reg} {ix : List Nat} (h : (causeAddr (r.addr ix) || r.addr ix == Reg.BNCH_GROUP_CMD.addr [b]) = false) :
    (s.groupAsked p b v).rd r ix = s.rd r ix := State.regsOnly_rd (groupAsked_marks s p b v).1 r ix h

theorem groupSetts_groupAsked (s : State) (p : Path) (b v : Nat) : (s.groupAsked p b v).groupSetts b = s.groupSetts b := by
  unfold State.groupSetts
  rw [rd_groupAsked (by simp [causeAddr, Reg.addr, Reg.desc, dimOffset]; omega),
    rd_groupAsked (by simp [causeAddr, Reg.addr, Reg.desc, dimOffset]; omega)]

theorem startPc_groupAsked (hk : k < 64) :
    (s.groupAsked p b v).get F.SETT_CTRL_start_pc [b, k] = s.get F.SETT_CTRL_start_pc [b, k] :=
  State.regsOnly_get (groupAsked_marks s p b v).1 _ _ (by
    simp [F.SETT_CTRL_start_pc, causeAddr, Reg.addr, Reg.desc, dimOffset]
    omega)

/-- A group command that a path writes. -/
theorem putReg_groupCmd (h : s.admits p .BNCH_GROUP_CMD [b] v) (hv : v < 2 ^ 32) :
    s.clearOut.putReg p .BNCH_GROUP_CMD [b] v =
      ((s.groupAsked p b v).groupWrite b v).emits (acknowledged p (Reg.BNCH_GROUP_CMD.addr [b])) :=
  State.putReg_of_admits (State.admits_clearOut.mpr h) hv rfl

theorem groupWrite_now {op : Nat} (hop : natBits v 1 0 = op) (hne : op ≠ 0) (hnow : natBit v 2 = false) :
    s.groupWrite b v = s.groupApply b op := by
  subst hop
  exact (if_neg hne).trans (if_neg (ne_true_of_eq_false hnow))

theorem groupWrite_atRound {op : Nat} (hop : natBits v 1 0 = op) (hne : op ≠ 0) (hlater : natBit v 2 = true) :
    s.groupWrite b v = s.setBench b { s.benchOf b with atRound := some op } := by
  subst hop
  exact (if_neg hne).trans (if_pos hlater)

theorem benchOf_setBench (s : State) (b : Nat) (x : Bench) : (s.setBench b x).benchOf b = x := smGet_smSet_same ..

/-- The group's setts are those of the masks before the write, and start where SETT_CTRL says. -/
theorem groupStart_result (h : s.admits p .BNCH_GROUP_CMD [b] 1) (hk : k ∈ s.groupSetts b) (hphase : (s.sett b k).phase = .stopped) :
    (s.clearOut.putReg p .BNCH_GROUP_CMD [b] 1).sett b k =
      { s.sett b k with phase := .running, pc := s.get F.SETT_CTRL_start_pc [b, k] } := by
  rw [putReg_groupCmd h (by decide), groupWrite_now (op := 1) rfl (by decide) rfl]
  have hstart := groupApply_start (s := s.groupAsked p b 1) (k := k) ((groupSetts_groupAsked ..).symm ▸ hk)
    (by rw [sett_groupAsked]; exact hphase)
  rw [sett_groupAsked, startPc_groupAsked (groupSetts_lt hk)] at hstart
  exact hstart

theorem groupStop_result (h : s.admits p .BNCH_GROUP_CMD [b] 2) (hk : k ∈ s.groupSetts b) (hphase : (s.sett b k).phase = .running) :
    (s.clearOut.putReg p .BNCH_GROUP_CMD [b] 2).sett b k =
      { s.sett b k with phase := .stopped, cause := 5, wait := none, contended := false } := by
  rw [putReg_groupCmd h (by decide), groupWrite_now (op := 2) rfl (by decide) rfl]
  have hstop := groupApply_stop (s := s.groupAsked p b 2) (k := k) ((groupSetts_groupAsked ..).symm ▸ hk)
    (by rw [sett_groupAsked]; exact hphase)
  rw [sett_groupAsked] at hstop
  exact hstop

theorem groupReset_result (h : s.admits p .BNCH_GROUP_CMD [b] 3) (hk : k ∈ s.groupSetts b) (hsteady : (s.benchOf b).reloading = false) :
    (s.clearOut.putReg p .BNCH_GROUP_CMD [b] 3).isReset b k (s.sett b k).phase := by
  rw [putReg_groupCmd h (by decide), groupWrite_now (op := 3) rfl (by decide) rfl]
  have hreset := groupApply_reset (s := s.groupAsked p b 3) (k := k) ((groupSetts_groupAsked ..).symm ▸ hk)
    (by rw [benchOf_groupAsked]; exact hsteady)
  rw [sett_groupAsked] at hreset
  exact hreset

/-- With at_round the command waits for the round (R178). -/
theorem groupLater_result {op : Nat} (h : s.admits p .BNCH_GROUP_CMD [b] v) (hv : v < 2 ^ 32) (hop : natBits v 1 0 = op) (hne : op ≠ 0)
    (hlater : natBit v 2 = true) :
    (s.clearOut.putReg p .BNCH_GROUP_CMD [b] v).setts = s.setts ∧
      ((s.clearOut.putReg p .BNCH_GROUP_CMD [b] v).benchOf b).atRound = some op := by
  rw [putReg_groupCmd h hv, groupWrite_atRound hop hne hlater]
  refine ⟨?_, congrArg Bench.atRound (benchOf_setBench ..)⟩
  show (s.groupAsked p b v).setts = s.setts
  rw [groupAsked_frame]

/-- The state in which the round of a group command has come. -/
def State.roundTaken (s : State) (b : Nat) : State := s.setBench b { s.benchOf b with atRound := none }

theorem exec_groupCmdAtRound {op : Nat} (hup : s.down .bench = false) (h : (s.benchOf b).atRound = some op) :
    exec (.groupCmdAtRound b) s = .next ((s.clearOut.roundTaken b).groupApply b op) := by
  refine (if_neg (ne_true_of_eq_false hup)).trans ?_
  dsimp only
  rw [show (s.clearOut.benchOf b).atRound = some op from h]
  rfl

/-- A group command leaves no more pending. -/
theorem atRound_groupApply {op : Nat} (h : (s.benchOf b).atRound = none) : ((s.groupApply b op).benchOf b).atRound = none := by
  have hcommand (u : State) (m bits : Nat) (hm : m < 64) : (u.settCommand b m bits).benchOf b = u.benchOf b := by
    unfold State.settCommand
    split
    · split
      · rfl
      · exact benchOf_resetSett hm u
    · split
      · exact State.benchOf_of_benches (State.benches_of_settOnly (settOnly_stopCommand ..)) b
      · split
        · exact State.benchOf_of_benches (State.benches_of_settOnly (settOnly_startSett ..)) b
        · rfl
  have hfold : ∀ ms : List Nat, (∀ m ∈ ms, m < 64) → ∀ u : State, (u.benchOf b).atRound = none → ∀ bits,
      ((ms.foldl (fun s m => s.settCommand b m bits) u).benchOf b).atRound = none := by
    intro ms
    induction ms with
    | nil => exact fun _ _ hu _ => hu
    | cons m ms ih =>
      intro hms u hu bits
      exact ih (fun n hn => hms n (List.mem_cons_of_mem _ hn)) _ (by rw [hcommand u m bits (hms m List.mem_cons_self)]; exact hu) bits
  exact hfold _ (fun m hm => groupSetts_lt hm) s h _

theorem atRound_roundTaken (s : State) (b : Nat) : ((s.roundTaken b).benchOf b).atRound = none :=
  congrArg Bench.atRound (benchOf_setBench ..)

end Sys2Proof.Machine

end

section

/-! Mailboxes from outside, the low word of a stamp, and controller interrupt lines (R189, R196, R240). -/

namespace Sys2Proof.Machine

variable {s t : State} {p : Path} {b k v : Nat}

theorem settOnly_emits (s : State) (b k : Nat) (os : List Out) : s.settOnly (s.emits os) b k := ⟨rfl, fun _ _ => rfl⟩

theorem settOnly_emit (s : State) (b k : Nat) (o : Out) : s.settOnly (s.emit o) b k := ⟨rfl, fun _ _ => rfl⟩

/-- A word for the IN mailbox of a sett (R196). -/
theorem mboxIn_result (h : s.admits p .SETT_MBOX_IN [b, k] v) (hv : v < 2 ^ 32) (hroom : (s.sett b k).inbox.length < 4) :
    s.clearOut.putReg p .SETT_MBOX_IN [b, k] v =
      (s.clearOut.setSett b k { s.sett b k with inbox := (s.sett b k).inbox ++ [v] }).emits (acknowledged p (Reg.SETT_MBOX_IN.addr [b, k])) := by
  refine State.putReg_of_admits (State.admits_clearOut.mpr h) hv ?_
  have happend : s.clearOut.mboxAppend b k v = some (s.clearOut.setSett b k { s.sett b k with inbox := (s.sett b k).inbox ++ [word32 v] }) :=
    if_pos hroom
  rw [word32, Nat.mod_eq_of_lt hv] at happend
  exact happend

/-- The oldest word of the OUT mailbox. -/
theorem mboxOut_result {rest : List Nat} (h : s.admitsRead p .SETT_MBOX_OUT [b, k]) (hout : (s.sett b k).outbox = v :: rest) :
    s.clearOut.pathRead p .w32 (Reg.SETT_MBOX_OUT.addr [b, k]) =
      (s.clearOut.setSett b k { s.sett b k with outbox := rest }).emit (.readData p (Reg.SETT_MBOX_OUT.addr [b, k]) v) := by
  refine State.pathRead_of_admitsRead (State.admitsRead_clearOut.mpr h) ?_
  show s.clearOut.mboxTake b k = _
  unfold State.mboxTake
  rw [show s.clearOut.sett b k = s.sett b k from rfl]
  dsimp only
  rw [hout]

/-- An empty OUT mailbox refuses its read, as a register's own chapter does (R196). -/
theorem State.pathRead_of_refused {r : Reg} {ix : List Nat} (h : s.admitsRead p r ix) (hr : s.readReg p r ix = none) :
    s.pathRead p .w32 (r.addr ix) = (s.deny p (r.addr ix) false .chapter).emit (.accessError p (r.addr ix)) := by
  obtain ⟨hcarries, hopen, hreg, hjudge⟩ := h
  have hread : s.read32 p (r.addr ix) = (none, s.deny p (r.addr ix) false .chapter) := by
    simp only [State.read32, State.readShown, hreg, hjudge, hr]
  calc s.pathRead p .w32 (r.addr ix) = s.busRead p .w32 (r.addr ix) := State.pathRead_of_carries hcarries hopen
    _ = State.answerRead p (r.addr ix) (none, s.deny p (r.addr ix) false .chapter) := by
      rw [State.busRead_aligned (r.addr_mod_four ix), hread]
    _ = _ := rfl

theorem mboxEmpty_result (h : s.admitsRead p .SETT_MBOX_OUT [b, k]) (hout : (s.sett b k).outbox = []) :
    s.clearOut.pathRead p .w32 (Reg.SETT_MBOX_OUT.addr [b, k]) = s.clearOut.emit (.accessError p (Reg.SETT_MBOX_OUT.addr [b, k])) := by
  refine State.pathRead_of_refused (State.admitsRead_clearOut.mpr h) ?_
  show s.clearOut.mboxTake b k = none
  unfold State.mboxTake
  rw [show s.clearOut.sett b k = s.sett b k from rfl]
  dsimp only
  rw [hout]

theorem sett_stampRead (s : State) (b k : Nat) :
    (s.stampRead b k).sett b k = { s.sett b k with unread := false, missed := false } := State.sett_onSett ..

/-- Reading the low word of a stamp latches its high word and counts the capture as read (R35, R189). -/
theorem stampLow_result (h : s.admitsRead p .SETT_STAMP_LO [b, k]) :
    s.clearOut.pathRead p .w32 (Reg.SETT_STAMP_LO.addr [b, k]) =
      ((s.clearOut.setLatched p (Reg.SETT_STAMP_LO.addr [b, k]) (some (s.clearOut.readWord p .SETT_STAMP_HI [b, k]))).stampRead b k).emit
        (.readData p (Reg.SETT_STAMP_LO.addr [b, k]) ((stampWords (s.sett b k)).1 &&& (2 ^ 32 - 1))) :=
  State.pathRead_of_admitsRead (State.admitsRead_clearOut.mpr h) rfl

/-- The bench with a controller line at a level (R240). -/
def State.lineSet (s : State) (b line : Nat) (level : Bool) : State :=
  s.setBench b { s.benchOf b with lines := natSetBit (s.benchOf b).lines line level }

/-- Every sett's latch of a line is set. -/
def State.latchAll (s : State) (b line : Nat) : State :=
  s.each (List.range 64) fun s k => s.onSett b k fun t => { t with latches := natSetBit t.latches line true }

theorem raiseLine_eq (s : State) (b line : Nat) (level : Bool) : s.raiseLine b line level =
    ((s.lineSet b line level).when level fun s => s.latchAll b line).meetLines b := by
  cases level <;> rfl

/-- The latch of sett k is set, and no other word of it changes. -/
theorem latchAll_result (line : Nat) (hk : k < 64) : (s.latchAll b line).regs = s.regs ∧ (s.latchAll b line).benches = s.benches ∧
    natBit ((s.latchAll b line).sett b k).latches line = true ∧ ((s.latchAll b line).sett b k).pc = (s.sett b k).pc := by
  have hother (u : State) (m : Nat) (hm : m ≠ k) (f : Sett → Sett) : (u.onSett b m f).sett b k = u.sett b k :=
    sett_of_settOnly_ne (State.settOnly_onSett ..) hm.symm
  unfold State.latchAll State.each
  refine foldl_reaches (σ := State) (f := fun s m => s.onSett b m fun t => { t with latches := natSetBit t.latches line true })
    (P := fun u => u.regs = s.regs ∧ u.benches = s.benches ∧ u.sett b k = s.sett b k)
    (Q := fun u => u.regs = s.regs ∧ u.benches = s.benches ∧ natBit (u.sett b k).latches line = true ∧ (u.sett b k).pc = (s.sett b k).pc)
    List.nodup_range (List.mem_range.mpr hk) (fun u m _ hm hu => ?_) (fun u hu => ?_) (fun u m _ hm hu => ?_) ⟨rfl, rfl, rfl⟩
  · obtain ⟨hregs, hbenches, hsett⟩ := hu
    exact ⟨hregs, hbenches, (hother u m hm _).trans hsett⟩
  · obtain ⟨hregs, hbenches, hsett⟩ := hu
    refine ⟨hregs, hbenches, ?_⟩
    rw [State.sett_onSett, hsett]
    exact ⟨(natBit_natSetBit ..).trans (if_pos rfl), rfl⟩
  · obtain ⟨hregs, hbenches, hlatch, hpc⟩ := hu
    refine ⟨hregs, hbenches, ?_⟩
    rw [hother u m hm]
    exact ⟨hlatch, hpc⟩

theorem meets_regs {u : State} (h : s.Meets u) : u.regs = s.regs := by rw [h.frame]

theorem meets_benchOf {u : State} (h : s.Meets u) (b : Nat) : u.benchOf b = s.benchOf b := by
  rw [h.frame]
  rfl

theorem meets_latches {u : State} (h : s.Meets u) (b k : Nat) : (u.sett b k).latches = (s.sett b k).latches := by
  have hlatches := congrArg Sett.latches (h.setts b k)
  exact hlatches

theorem meets_pc {u : State} (h : s.Meets u) (b k : Nat) : (u.sett b k).pc = (s.sett b k).pc := by
  have hpc := congrArg Sett.pc (h.setts b k)
  exact hpc

theorem lines_lineSet (s : State) (b line : Nat) (level : Bool) : natBit ((s.lineSet b line level).benchOf b).lines line = level := by
  rw [State.lineSet, benchOf_setBench]
  exact (natBit_natSetBit ..).trans (if_pos rfl)

/-- A raise (R240). -/
theorem raise_line_result (line : Nat) (hk : k < 64) : (s.raiseLine b line true).regs = s.regs ∧
    natBit ((s.raiseLine b line true).benchOf b).lines line = true ∧ natBit ((s.raiseLine b line true).sett b k).latches line = true ∧
      ((s.raiseLine b line true).sett b k).pc = (s.sett b k).pc := by
  have hmeets : State.Meets ((s.lineSet b line true).latchAll b line) (s.raiseLine b line true) := raiseLine_eq s b line true ▸ State.Meets.meetLines
  obtain ⟨hregs, hbenches, hlatch, hpc⟩ := latchAll_result (s := s.lineSet b line true) (b := b) line hk
  refine ⟨(meets_regs hmeets).trans hregs, ?_, by rw [meets_latches hmeets]; exact hlatch, (meets_pc hmeets b k).trans hpc⟩
  rw [meets_benchOf hmeets, State.benchOf_of_benches hbenches]
  exact lines_lineSet ..

/-- And the end of one. -/
theorem lower_line_result (line : Nat) : (s.raiseLine b line false).regs = s.regs ∧
    natBit ((s.raiseLine b line false).benchOf b).lines line = false ∧
      ((s.raiseLine b line false).sett b k).latches = (s.sett b k).latches := by
  have hmeets : (s.lineSet b line false).Meets (s.raiseLine b line false) := raiseLine_eq s b line false ▸ State.Meets.meetLines
  refine ⟨(meets_regs hmeets).trans rfl, ?_, (meets_latches hmeets b k).trans rfl⟩
  rw [meets_benchOf hmeets]
  exact lines_lineSet ..

end Sys2Proof.Machine

end

section

/-! Groups, mailboxes, stamps and lines. -/

namespace Sys2Proof.Machine

/-- Settles O7: a group command runs over the setts of the masks, each once, and a command to one leaves what the others hold
(`foldl_reaches`); mailboxes and stamps are the registers' own rules, and a controller line meets waits and sets latches alone. -/
theorem settGroupsAndMailboxes : Obligations.SettGroupsAndMailboxes := by
  unfold Obligations.SettGroupsAndMailboxes
  refine ⟨fun s p b hup hb => ?_, fun s p b k hup hb hk => ?_⟩
  · have hput (v : Nat) : Host.Outcome.next (s.clearOut.putReg p .BNCH_GROUP_CMD [b % 16] v) =
        (.next (s.clearOut.putReg p .BNCH_GROUP_CMD [b] v) : Host.Outcome State Fault Refusal) := by rw [Nat.mod_eq_of_lt hb]
    have hlater {op : Nat} (hop : natBits (op + 4) 1 0 = op) (hne : op ≠ 0) (hwait : natBit (op + 4) 2 = true) (hv : op + 4 < 2 ^ 32)
        (h : s.admits p .BNCH_GROUP_CMD [b] (op + 4)) := groupLater_result h hv hop hne hwait
    refine ⟨fun h => ⟨_, hput 1, fun k hk hphase => groupStart_result h hk hphase⟩,
      fun h => ⟨_, hput 2, fun k hk hphase => groupStop_result h hk hphase⟩,
      fun h hsteady => ⟨_, hput 3, fun k hk => groupReset_result h hk hsteady⟩,
      fun h => ⟨_, hput 5, hlater (op := 1) rfl (by decide) rfl (by decide) h⟩,
      fun h => ⟨_, hput 6, hlater (op := 2) rfl (by decide) rfl (by decide) h⟩,
      fun h => ⟨_, hput 7, hlater (op := 3) rfl (by decide) rfl (by decide) h⟩,
      fun hround => ⟨_, exec_groupCmdAtRound hup hround, atRound_groupApply (atRound_roundTaken ..),
        fun k hk hphase => groupApply_start (s := s.clearOut.roundTaken b) hk hphase⟩,
      fun hround => ⟨_, exec_groupCmdAtRound hup hround, atRound_groupApply (atRound_roundTaken ..),
        fun k hk hphase => groupApply_stop (s := s.clearOut.roundTaken b) hk hphase⟩,
      fun hround hsteady => ⟨_, exec_groupCmdAtRound hup hround, atRound_groupApply (atRound_roundTaken ..),
        fun k hk => groupApply_reset (s := s.clearOut.roundTaken b) hk ?_⟩⟩
    rw [State.roundTaken, benchOf_setBench]
    exact hsteady
  · have hdown := ne_true_of_eq_false hup
    intro t
    have hix : [b % 16, k % 64] = [b, k] := by rw [Nat.mod_eq_of_lt hb, Nat.mod_eq_of_lt hk]
    have hread (r : Reg) : Host.Outcome.next (s.clearOut.pathRead p .w32 (r.addr [b % 16, k % 64])) =
        (.next (s.clearOut.pathRead p .w32 (r.addr [b, k])) : Host.Outcome State Fault Refusal) := by rw [hix]
    have hput (v : Nat) : Host.Outcome.next (s.clearOut.putReg p .SETT_MBOX_IN [b % 16, k % 64] v) =
        (.next (s.clearOut.putReg p .SETT_MBOX_IN [b, k] v) : Host.Outcome State Fault Refusal) := by rw [hix]
    refine ⟨fun val h hv hroom => ⟨_, hput val, ?_⟩, fun v rest h hout => ⟨_, hread .SETT_MBOX_OUT, ?_⟩,
      fun h hout => ⟨_, hread .SETT_MBOX_OUT, ?_⟩, fun h => ⟨_, hread .SETT_STAMP_LO, ?_⟩, fun line hline => ?_, fun line hline => ?_⟩
    · rw [mboxIn_result h hv hroom]
      exact ⟨State.settOnly_trans (s.settOnly_clearOut b k) (State.settOnly_trans (State.settOnly_setSett ..) (settOnly_emits ..)),
        State.sett_setSett s.clearOut b k _, rfl⟩
    · rw [mboxOut_result h hout]
      exact ⟨State.settOnly_trans (s.settOnly_clearOut b k) (State.settOnly_trans (State.settOnly_setSett ..) (settOnly_emit ..)),
        State.sett_setSett s.clearOut b k _, rfl⟩
    · rw [mboxEmpty_result h hout]
      exact ⟨rfl, rfl⟩
    · rw [stampLow_result h]
      exact ⟨sett_stampRead (s.clearOut.setLatched p _ _) b k, rfl⟩
    · obtain ⟨hregs, hlines, hlatch, hpc⟩ := raise_line_result (s := s.clearOut) (b := b) line hk
      exact ⟨_, (if_neg hdown).trans (congrArg Host.Outcome.next (if_pos ⟨hb, hline⟩)), hregs, hlines, hlatch, hpc⟩
    · obtain ⟨hregs, hlines, hlatches⟩ := lower_line_result (s := s.clearOut) (b := b) (k := k) line
      exact ⟨_, (if_neg hdown).trans (congrArg Host.Outcome.next (if_pos ⟨hb, hline⟩)), hregs, hlines, hlatches⟩

end Sys2Proof.Machine

end

section

/-! What the service of a bench rests on (R571, R572): the words, the leaves, the answers, and the states of the setts. -/

namespace Sys2Proof.Machine

/-- The words that the bench's own units, the governor, the update engine and the guarded engine write beside the interrupt tree and
BNCH_STATUS. -/
def passedAddr (a : Nat) : Bool :=
  (benchAddr a && a % 0x100000 != 0x10004) || (0x50000 ≤ a && a < 0x51000) || recordAddr a || settErrAddr a || a == 0x30008 || a == 0x30010
    || a == 0x80004 || a == 0x2000008

/-- And with the interrupt tree and BNCH_STATUS. -/
def serviceAddr (a : Nat) : Bool := passedAddr a || causeAddr a || benchAddr a

/-- From `s` to `u` what the answer to a guarded command rests on stays, but for some words: the time and the responses that wait; and
every leaf that was set is set. -/
structure State.Serves (s u : State) (f : Nat → Bool) : Prop where
  words : s.wordsKept u f
  leaves : ∀ n, n < 896 → s.leafSet n = true → u.leafSet n = true
  time : u.time = s.time
  answers : u.grd.answers = s.grd.answers
  responses : u.grd.responses = s.grd.responses

/-- And the benches keep their service: BNCH_STATUS but for its contention bits, the controllers, and the states of the setts. -/
structure State.Passes (s u : State) : Prop extends State.Serves s u serviceAddr where
  status : ∀ b, b < 16 → u.rd .BNCH_STATUS [b] / 2 ^ 16 = s.rd .BNCH_STATUS [b] / 2 ^ 16
  benches : u.benches = s.benches
  phases : ∀ b k, (u.sett b k).phase = (s.sett b k).phase

theorem passedAddr_leaf {i : Nat} (h : i < 28) : passedAddr (Reg.CAUSE_LEAF.addr [i]) = false := by
  simp [passedAddr, recordAddr, settErrAddr, benchAddr, Reg.addr, Reg.desc, dimOffset]
  omega

theorem passedAddr_status {b : Nat} (h : b < 16) : passedAddr (Reg.BNCH_STATUS.addr [b]) = false := by
  simp [passedAddr, recordAddr, settErrAddr, benchAddr, Reg.addr, Reg.desc, dimOffset]
  omega

theorem serviceAddr_of_passedAddr {a : Nat} (h : passedAddr a = true) : serviceAddr a = true := by simp [serviceAddr, h]

theorem serviceAddr_of_causeAddr {a : Nat} (h : causeAddr a = true) : serviceAddr a = true := by simp [serviceAddr, h]

theorem causeAddr_bnchStatus (b : Nat) : causeAddr (Reg.BNCH_STATUS.addr [b]) = false := by
  simp [causeAddr, Reg.addr, Reg.desc, dimOffset]
  omega

namespace State.Serves

variable {s t u : State} {f g : Nat → Bool}

theorem refl (s : State) (f : Nat → Bool) : s.Serves s f := ⟨s.wordsKept_refl f, fun _ _ h => h, rfl, rfl, rfl⟩

theorem trans (h : s.Serves t f) (h' : t.Serves u f) : s.Serves u f :=
  ⟨State.wordsKept_trans h.words h'.words, fun n hn hset => h'.leaves n hn (h.leaves n hn hset), h'.time.trans h.time,
    h'.answers.trans h.answers, h'.responses.trans h.responses⟩

theorem mono (h : s.Serves u f) (hfg : ∀ a, f a = true → g a = true) : s.Serves u g :=
  { h with words := fun a ha => h.words a (by cases hf : f a with | false => rfl | true => simp [hfg a hf] at ha) }

/-- A word outside the interrupt tree is written. -/
theorem wr {r : Reg} {ix : List Nat} {v : Nat} (hs : s.Serves t f) (hf : f (r.addr ix) = true) (hc : causeAddr (r.addr ix) = false) :
    s.Serves (t.wr r ix v) f :=
  have hleaf (n : Nat) (hn : n < 896) : Reg.CAUSE_LEAF.addr [n / 32] ≠ r.addr ix := fun heq => by
    rw [← heq, causeAddr_leaf _ (by omega)] at hc
    cases hc
  hs.trans ⟨(State.regsOnly_wr t r ix v f hf).2, fun n hn h => by rwa [State.leafSet_wr_ne (hleaf n hn)], rfl, rfl, rfl⟩

end State.Serves

namespace State.Passes

variable {s₀ s t u : State} {b k : Nat}

theorem refl (s : State) : s.Passes s := ⟨.refl s _, fun _ _ => rfl, rfl, fun _ _ => rfl⟩

theorem trans (h : s.Passes t) (h' : t.Passes u) : s.Passes u :=
  ⟨h.toServes.trans h'.toServes, fun b hb => (h'.status b hb).trans (h.status b hb), h'.benches.trans h.benches,
    fun b k => (h'.phases b k).trans (h.phases b k)⟩

/-- Words outside the interrupt tree and BNCH_STATUS are written, and nothing else of the kept changes. -/
theorem of_words (hs : s₀.Passes s) (hwords : s.wordsKept u passedAddr) (htime : u.time = s.time)
    (hanswers : u.grd.answers = s.grd.answers) (hresponses : u.grd.responses = s.grd.responses) (hbenches : u.benches = s.benches)
    (hphases : ∀ b k, (u.sett b k).phase = (s.sett b k).phase) : s₀.Passes u := by
  have hleaf (n : Nat) (hn : n < 896) : u.leafSet n = s.leafSet n :=
    leafSet_of_wordsKept hwords (passedAddr_leaf (by omega))
  have hserves : s.Serves u passedAddr := ⟨hwords, fun n hn h => by rwa [hleaf n hn], htime, hanswers, hresponses⟩
  exact hs.trans ⟨hserves.mono fun _ => serviceAddr_of_passedAddr,
    fun b hb => by rw [State.wordsKept_rd hwords _ _ (passedAddr_status hb)], hbenches, hphases⟩

/-- Nothing but register words, the time, the benches and their setts, and the guarded engine matters. -/
theorem frame {pending out line free faultPair shot permits ring twin hop brg pins drs ports can canT ethT hopT ringT sw edge chip upd}
    (hs : s₀.Passes s) :
    s₀.Passes ⟨pending, out, line, s.regs, free, faultPair, s.time, shot, permits, ring, twin, hop, brg, s.setts, pins, s.benches, drs,
      ports, can, canT, ethT, hopT, ringT, sw, s.grd, edge, chip, upd⟩  :=
  hs.of_words (fun _ _ => rfl) rfl rfl rfl rfl fun _ _ => rfl

theorem wr {r : Reg} {ix : List Nat} {v : Nat} (hs : s₀.Passes s) (h : passedAddr (r.addr ix) = true) : s₀.Passes (s.wr r ix v) :=
  hs.of_words (State.regsOnly_wr s r ix v _ h).2 rfl rfl rfl rfl fun _ _ => rfl

theorem set {f : Fld} {ix : List Nat} {v : Nat} (hs : s₀.Passes s) (h : passedAddr (f.reg.addr ix) = true) : s₀.Passes (s.set f ix v) :=
  .wr hs h

theorem setB {f : Fld} {ix : List Nat} {v : Bool} (hs : s₀.Passes s) (h : passedAddr (f.reg.addr ix) = true) :
    s₀.Passes (s.setB f ix v) := .wr hs h

/-- A cause event (R486). -/
theorem leaf {n unit code : Nat} {rec : Bool} (hs : s₀.Passes s) : s₀.Passes (s.leaf n unit code rec) := by
  have honly := s.leaf_regsOnly n unit code rec
  have hframe := honly.1
  have hserves : s.Serves (s.leaf n unit code rec) causeAddr :=
    ⟨honly.2, fun m hm h => State.leafSet_leaf_of hm h, by rw [hframe], by rw [hframe], by rw [hframe]⟩
  refine hs.trans ⟨hserves.mono fun _ => serviceAddr_of_causeAddr, fun b hb => ?_, by rw [hframe], fun b k => ?_⟩
  · rw [State.rd_leaf _ _ _ _ _ _ _ (causeAddr_bnchStatus b)]
  · rw [hframe]
    rfl

theorem ite {c : Prop} [Decidable c] {a b : State} (ha : s₀.Passes a) (hb : s₀.Passes b) : s₀.Passes (if c then a else b) := by
  split
  · exact ha
  · exact hb

theorem when {c : Bool} {f : State → State} (hs : s₀.Passes s) (hf : ∀ {u}, s₀.Passes u → s₀.Passes (f u)) : s₀.Passes (s.when c f) :=
  .ite (hf hs) hs

theorem foldl {α : Type} {xs : List α} {f : State → α → State} (hs : s₀.Passes s)
    (hf : ∀ {u x}, x ∈ xs → s₀.Passes u → s₀.Passes (f u x)) : s₀.Passes (xs.foldl f s) := by
  induction xs generalizing s with
  | nil => exact hs
  | cons x xs ih => exact ih (hf List.mem_cons_self hs) fun hx => hf (List.mem_cons_of_mem _ hx)

/-- Drives of pins (R182, R186). -/
theorem pads (hs : s₀.Passes s) (h : s.Pads u) : s₀.Passes u := by
  have hwords : s.wordsKept u passedAddr := fun a ha => h.words a (by
    cases hr : settErrAddr a with
    | false => rfl
    | true => simp [passedAddr, hr] at ha)
  exact hs.of_words hwords (by rw [h.frame]) (by rw [h.frame]) (by rw [h.frame]) h.benches h.phase

/-- Records of instances (R249). -/
theorem records (hs : s₀.Passes s) (h : s.Records u) : s₀.Passes u := by
  have hwords : s.wordsKept u passedAddr := fun a ha => h.words a (by
    cases hr : recordAddr a with
    | false => rfl
    | true => simp [passedAddr, hr] at ha)
  exact hs.of_words hwords (by rw [h.frame]) (by rw [h.frame]) (by rw [h.frame]) (by rw [h.frame]) fun b k => by rw [h.sett]

/-- A field of BNCH_STATUS above the contention bits. -/
theorem status_get (h : s.Passes u) (hb : b < 16) {f : Fld} (hreg : f.reg = .BNCH_STATUS) (hlo : 16 ≤ f.lo) :
    u.get f [b] = s.get f [b] := by
  have hpart (w : Nat) : natBits w f.hi f.lo = w / 2 ^ 16 / 2 ^ (f.lo - 16) % 2 ^ (f.hi + 1 - f.lo) := by
    rw [natBits, Nat.shiftRight_eq_div_pow, Nat.div_div_eq_div_mul, ← Nat.pow_add, Nat.add_sub_cancel' hlo]
  simp only [State.get, hreg]
  rw [hpart, h.status b hb, ← hpart]

end State.Passes

end Sys2Proof.Machine

end

section

/-! The grants of the governor (R332, R527, R564 to R573) leave the service of a bench. -/

namespace Sys2Proof.Machine

/-- From `s` to `u` no more happens than the governor's grants bring about (R332, R527, R564 to R573): an idle BIST stays idle, and no
handover begins to take a bench. -/
structure State.Governs (s u : State) : Prop extends State.Passes s u where
  idle : s.get F.TST_BIST_STATUS_state = 0 → u.get F.TST_BIST_STATUS_state = 0
  taken : ∀ b, s.benchTaken b = false → u.benchTaken b = false
  setts : u.setts = s.setts

namespace State.Governs

variable {s₀ s t u : State}

theorem refl (s : State) : s.Governs s := ⟨.refl s, id, fun _ => id, rfl⟩

theorem trans (h : s.Governs t) (h' : t.Governs u) : s.Governs u :=
  ⟨h.toPasses.trans h'.toPasses, fun hidle => h'.idle (h.idle hidle), fun b hb => h'.taken b (h.taken b hb),
    h'.setts.trans h.setts⟩

/-- The engine of an update keeps the step and the round of its handover, and enters no state of it. -/
theorem of_update (hs : s₀.Governs s) (h : s.Passes u) (hidle : s.get F.TST_BIST_STATUS_state = 0 → u.get F.TST_BIST_STATUS_state = 0)
    (hstep : u.upd.step = s.upd.step) (hround : u.upd.atRound = s.upd.atRound)
    (hstate : u.updState = s.updState ∨ u.updState = 7 ∨ u.updState = 2) (hsetts : u.setts = s.setts) : s₀.Governs u := by
  refine hs.trans ⟨h, hidle, fun b hb => ?_, hsetts⟩
  have hnow : u.round = s.round := by
    unfold State.round
    rw [State.wordsKept_rd h.words .RING_ROUND_HI [] (by decide), State.wordsKept_rd h.words .RING_ROUND_LO [] (by decide)]
  unfold State.benchTaken State.handingOver at hb ⊢
  unfold State.updState at hstate
  rw [hstep, hround, hnow]
  rcases hstate with hsame | hrefused | hverified
  · rwa [hsame]
  · rw [hrefused]
    rfl
  · rw [hverified]
    rfl

/-- The engine of an update moves on within the step of its handover. -/
theorem withUpd (hs : s₀.Governs s) {x : UpdateState} (hstep : x.step = s.upd.step) (hround : x.atRound = s.upd.atRound) :
    s₀.Governs { s with upd := x } := hs.of_update (.frame (.refl s)) id hstep hround (.inl rfl) rfl

/-- Only permits change. -/
theorem permits (hs : s₀.Governs s) (x : PermitState) : s₀.Governs { s with permits := x } :=
  hs.of_update (.frame (.refl s)) id rfl rfl (.inl rfl) rfl

theorem wr {r : Reg} {ix : List Nat} {v : Nat} (hs : s₀.Governs s) (h : passedAddr (r.addr ix) = true)
    (hbist : Reg.TST_BIST_STATUS.addr [] ≠ r.addr ix) (hupd : Reg.UPD_STATUS.addr [] ≠ r.addr ix) : s₀.Governs (s.wr r ix v) :=
  hs.of_update (.wr (.refl s) h) (State.get_wr_ne s F.TST_BIST_STATUS_state _ _ _ _ hbist).trans rfl rfl
    (.inl (State.get_wr_ne s F.UPD_STATUS_state _ _ _ _ hupd)) rfl

/-- A field beside the interrupt tree and BNCH_STATUS is written. -/
theorem of_set {f : Fld} {ix : List Nat} {v : Nat} (hs : s₀.Governs s) (h : passedAddr (f.reg.addr ix) = true)
    (hidle : s.get F.TST_BIST_STATUS_state = 0 → (s.set f ix v).get F.TST_BIST_STATUS_state = 0)
    (hstate : (s.set f ix v).updState = s.updState ∨ (s.set f ix v).updState = 7 ∨ (s.set f ix v).updState = 2) :
    s₀.Governs (s.set f ix v) := hs.of_update (.set (.refl s) h) hidle rfl rfl hstate rfl

theorem setOther {f : Fld} {ix : List Nat} {v : Nat} (hs : s₀.Governs s) (h : passedAddr (f.reg.addr ix) = true)
    (hbist : Reg.TST_BIST_STATUS.addr [] ≠ f.reg.addr ix) (hupd : Reg.UPD_STATUS.addr [] ≠ f.reg.addr ix) : s₀.Governs (s.set f ix v) :=
  .wr hs h hbist hupd

/-- A part of UPD_STATUS beside the state. -/
theorem setUpd {f : Fld} {v : Nat} (hs : s₀.Governs s) (hreg : f.reg = .UPD_STATUS) (hhi : f.hi < 28) : s₀.Governs (s.set f [] v) := by
  have hpassed : passedAddr (f.reg.addr []) = true := by rw [hreg]; rfl
  have hbist : Reg.TST_BIST_STATUS.addr [] ≠ f.reg.addr [] := by rw [hreg]; decide
  have hstate := State.get_set_field s f F.UPD_STATUS_state [] v hreg.symm (.inl hhi) (by omega)
  exact hs.of_set hpassed (State.get_set_ne s f F.TST_BIST_STATUS_state _ _ _ hbist).trans (.inl hstate)

theorem toUpd {st : Nat} (hs : s₀.Governs s) (h : st = 7 ∨ st = 2) : s₀.Governs (s.toUpd st) := by
  have hstate : (s.set F.UPD_STATUS_state [] st).updState = st :=
    (State.get_set s F.UPD_STATUS_state [] st (by decide) (by decide)).trans (Nat.mod_eq_of_lt (show st < 16 by omega))
  exact hs.of_set (by decide) (State.get_set_ne s F.UPD_STATUS_state F.TST_BIST_STATUS_state [] [] st (by decide)).trans
    (.inr (by rwa [hstate]))

theorem leaf {n unit code : Nat} {rec : Bool} (hs : s₀.Governs s) : s₀.Governs (s.leaf n unit code rec) := by
  have hframe := (s.leaf_regsOnly n unit code rec).1
  exact hs.of_update (.leaf (.refl s)) (State.get_leaf s n unit code rec _ _ (by decide)).trans (by rw [hframe]) (by rw [hframe])
    (.inl (State.get_leaf s n unit code rec _ _ (by decide))) (by rw [hframe])

theorem ite {c : Prop} [Decidable c] {a b : State} (ha : s₀.Governs a) (hb : s₀.Governs b) : s₀.Governs (if c then a else b) := by
  split
  · exact ha
  · exact hb

theorem when {c : Bool} {f : State → State} (hs : s₀.Governs s) (hf : ∀ {u}, s₀.Governs u → s₀.Governs (f u)) :
    s₀.Governs (s.when c f) := .ite (hf hs) hs

theorem foldl {α : Type} {xs : List α} {f : State → α → State} (hs : s₀.Governs s)
    (hf : ∀ {u x}, s₀.Governs u → s₀.Governs (f u x)) : s₀.Governs (xs.foldl f s) := by
  induction xs generalizing s with
  | nil => exact hs
  | cons x xs ih => exact ih (hf hs)

theorem chunkFreed (hs : s₀.Governs s) : s₀.Governs (s.setB F.UPD_CHUNK_CTRL_busy [] false) :=
  hs.setOther (by decide) (by decide) (by decide)

theorem scrubBegins (hs : s₀.Governs s) : s₀.Governs (s.setB F.HOP_SCRUB_CTRL_burst_active [] true) :=
  hs.setOther (by decide) (by decide) (by decide)

theorem showReason {v : Nat} (hs : s₀.Governs s) : s₀.Governs (s.set F.UPD_STATUS_reason [] v) := hs.setUpd rfl (by decide)

theorem showTarget {v : Nat} (hs : s₀.Governs s) : s₀.Governs (s.set F.UPD_STATUS_target_seq [] v) := hs.setUpd rfl (by decide)

/-! The engine of an update refuses, or consumes a chunk (R523 to R527). -/

/-- No chunk waits, and no target is verified. -/
theorem updStops (hs : s₀.Governs s) : s₀.Governs { s with upd := { s.upd with waiting := false, verifying := false } } :=
  hs.withUpd rfl rfl

/-- The bytes of a chunk join the delta. -/
theorem updTakes {d : List Byte} (hs : s₀.Governs s) :
    s₀.Governs { s with upd := { s.upd with delta := d, next := s.upd.next + 1, waiting := false } } := hs.withUpd rfl rfl

/-- The delta is complete. -/
theorem updVerifies {d : List Byte} (hs : s₀.Governs s) (h : s.upd = t.upd) :
    s₀.Governs { s with upd := { t.upd with delta := d, verifying := true } } := by
  rw [← h]
  exact hs.withUpd rfl rfl

theorem updRefuse {reason : Nat} (hs : s₀.Governs s) : s₀.Governs (s.updRefuse reason) := by
  have hstopped := updStops (showReason (v := reason) (toUpd hs (.inl rfl)))
  have hrefused := leaf (n := loadLeaf 7) (unit := 0) (code := 0) (rec := false) hstopped.chunkFreed
  exact hrefused.permits _

theorem writeTarget {target : List Byte} (hs : s₀.Governs s) : s₀.Governs (s.writeTarget target) :=
  hs.of_update (.frame (.refl s)) id rfl rfl (.inl rfl) rfl

theorem chunkConsume (hs : s₀.Governs s) : s₀.Governs s.chunkConsume := by
  unfold State.chunkConsume
  split
  · exact hs
  · have htaken {d : List Byte} := chunkFreed (updTakes (d := d) hs)
    dsimp only
    split
    · exact htaken
    · split
      · exact .updRefuse htaken
      · exact .ite (.updRefuse <| .writeTarget <| .showTarget htaken)
          (.ite (.updVerifies (.toUpd (.writeTarget <| .showTarget htaken) (.inr rfl)) (State.upd_set ..)) (.writeTarget <| .showTarget htaken))

/-- A BIST that waited for its permit runs (R573). -/
theorem bistRuns {c : Bool} (hs : s₀.Governs s) :
    s₀.Governs (s.when (c && s.get F.TST_BIST_STATUS_state == 1) fun s => s.set F.TST_BIST_STATUS_state [] 2) := by
  unfold State.when
  split
  · next h =>
    have hwaits : s.get F.TST_BIST_STATUS_state = 1 := by simpa using (Bool.and_eq_true_iff.mp h).2
    have hstate := State.get_set_ne s F.TST_BIST_STATUS_state F.UPD_STATUS_state [] [] 2 (by decide)
    exact hs.of_set (by decide) (fun hidle => by omega) (.inl hstate)
  · exact hs

/-! The governor (R564 to R570). -/

theorem permitGrant {w : PermitWait} (hs : s₀.Governs s) : s₀.Governs (s.permitGrant w) := by
  unfold State.permitGrant
  exact .bistRuns <| .when (.when (.permits hs _) .scrubBegins) .chunkConsume

theorem permitScan {ws : List PermitWait} (hs : s₀.Governs s) : s₀.Governs (s.permitScan ws) := by
  induction ws generalizing s with
  | nil => exact hs
  | cons w ws ih => exact .ite (.ite (ih hs) (ih <| .permitGrant hs)) hs

theorem permitExamine (hs : s₀.Governs s) : s₀.Governs s.permitExamine := .ite hs (.permitScan hs)

theorem permitAsk {k : PermitKind} {unit : Nat} (hs : s₀.Governs s) : s₀.Governs (s.permitAsk k unit) := by
  unfold State.permitAsk
  exact .ite hs (.permitExamine <| .permits hs _)

theorem permitGive {k : PermitKind} {unit : Nat} (hs : s₀.Governs s) : s₀.Governs (s.permitGive k unit) :=
  .ite (.permitExamine <| .permits hs _) hs

theorem burstAsk {b : Nat} (hs : s₀.Governs s) : s₀.Governs (s.burstAsk b) := .foldl hs fun h => .ite (.permitAsk h) (.permitGive h)

theorem burstGive {b : Nat} (hs : s₀.Governs s) : s₀.Governs (s.burstGive b) := .foldl hs .permitGive

end State.Governs

end Sys2Proof.Machine

end

section

/-! Permits asked for are known (R566). -/

namespace Sys2Proof.Machine

/-- From `s` to `u` no permit is lost that is held or asked for, but those of a delta application, which ends with a refusal (R527). -/
def State.Knows (s u : State) : Prop := ∀ k unit, k ≠ .deltaApply → s.permitKnown k unit = true → u.permitKnown k unit = true

variable {s₀ s t : State} {k : PermitKind} {unit : Nat}

theorem permitKnown_iff : s.permitKnown k unit = true ↔
    (k, unit) ∈ s.permits.held ∨ ∃ w ∈ s.permits.waiting, w.kind = k ∧ w.unit = unit := by
  simp [State.permitKnown, State.permitHeld]

namespace State.Knows

theorem refl (s : State) : s.Knows s := fun _ _ _ => id

/-- Nothing but the permits matters. -/
theorem frame {pending out line regs free faultPair time shot ring twin hop brg setts pins benches drs ports can canT ethT hopT ringT sw
    grd edge chip upd} (hs : s₀.Knows s) :
    s₀.Knows ⟨pending, out, line, regs, free, faultPair, time, shot, s.permits, ring, twin, hop, brg, setts, pins, benches, drs, ports,
      can, canT, ethT, hopT, ringT, sw, grd, edge, chip, upd⟩ := hs

theorem set {f : Fld} {ix : List Nat} {v : Nat} (hs : s₀.Knows s) : s₀.Knows (s.set f ix v) := hs

theorem setB {f : Fld} {ix : List Nat} {v : Bool} (hs : s₀.Knows s) : s₀.Knows (s.setB f ix v) := hs

theorem writeTarget {target : List Byte} (hs : s₀.Knows s) : s₀.Knows (s.writeTarget target) := hs

theorem leaf {n unit code : Nat} {rec : Bool} (hs : s₀.Knows s) : s₀.Knows (s.leaf n unit code rec) := by
  rw [(s.leaf_regsOnly n unit code rec).1]
  exact hs

theorem ite {c : Prop} [Decidable c] {a b : State} (ha : s₀.Knows a) (hb : s₀.Knows b) : s₀.Knows (if c then a else b) := by
  split
  · exact ha
  · exact hb

theorem when {c : Bool} {f : State → State} (hs : s₀.Knows s) (hf : ∀ {u}, s₀.Knows u → s₀.Knows (f u)) : s₀.Knows (s.when c f) :=
  .ite (hf hs) hs

/-- The permits of a delta application go. -/
theorem deltaEnds (hs : s₀.Knows s) : s₀.Knows { s with permits := {
    held := s.permits.held.filter fun x => x.1 != .deltaApply
    waiting := s.permits.waiting.filter fun w => w.kind != .deltaApply } } := by
  intro k unit hk h
  rw [permitKnown_iff]
  rcases permitKnown_iff.mp (hs k unit hk h) with hheld | ⟨x, hx, rfl, hunit⟩
  · exact .inl (List.mem_filter.mpr ⟨hheld, by simpa using hk⟩)
  · exact .inr ⟨x, List.mem_filter.mpr ⟨hx, by simpa using hk⟩, rfl, hunit⟩

theorem updRefuse {reason : Nat} (hs : s₀.Knows s) : s₀.Knows (s.updRefuse reason) := by
  unfold State.updRefuse
  exact .deltaEnds <| .leaf <| .setB <| .frame <| .set <| .set hs

theorem chunkConsume (hs : s₀.Knows s) : s₀.Knows s.chunkConsume := by
  unfold State.chunkConsume
  split
  · exact hs
  · dsimp only
    split
    · exact .setB <| .frame hs
    · split
      · exact .updRefuse <| .setB <| .frame hs
      · exact .ite (.updRefuse <| .writeTarget <| .set <| .setB <| .frame hs)
          (.ite (.frame <| .set <| .writeTarget <| .set <| .setB <| .frame hs) (.writeTarget <| .set <| .setB <| .frame hs))

theorem permitGrant {w : PermitWait} (hs : s₀.Knows s) : s₀.Knows (s.permitGrant w) := by
  have hgranted : s₀.Knows { s with permits := { held := s.permits.held ++ [(w.kind, w.unit)], waiting := s.permits.waiting.erase w } } := by
    intro k unit hk h
    have hknown := permitKnown_iff.mp (hs k unit hk h)
    rw [permitKnown_iff]
    rcases hknown with hheld | ⟨x, hx, hkind, hunit⟩
    · exact .inl (List.mem_append_left _ hheld)
    · by_cases hxw : x = w
      · subst hxw
        exact .inl (List.mem_append_right _ (by simp [hkind, hunit]))
      · exact .inr ⟨x, (List.mem_erase_of_ne hxw).mpr hx, hkind, hunit⟩
  unfold State.permitGrant
  exact .when (.when (.when hgranted .setB) .chunkConsume) .set

theorem permitScan {ws : List PermitWait} (hs : s₀.Knows s) : s₀.Knows (s.permitScan ws) := by
  induction ws generalizing s with
  | nil => exact hs
  | cons w ws ih => exact .ite (.ite (ih hs) (ih <| .permitGrant hs)) hs

theorem permitExamine (hs : s₀.Knows s) : s₀.Knows s.permitExamine := .ite hs (.permitScan hs)

end State.Knows

theorem mem_insertWait (w : PermitWait) (xs : List PermitWait) : w ∈ insertWait w xs := by
  induction xs with
  | nil => exact List.mem_cons_self
  | cons x xs ih =>
    unfold insertWait
    split
    · exact List.mem_cons_self
    · exact List.mem_cons_of_mem _ ih

/-- A permit asked for is held, or its request waits (R566). -/
theorem permitKnown_permitAsk (s : State) (hk : k ≠ .deltaApply) (unit : Nat) : (s.permitAsk k unit).permitKnown k unit = true := by
  unfold State.permitAsk
  split
  · next h => exact h
  · refine State.Knows.permitExamine (.refl _) k unit hk (permitKnown_iff.mpr (.inr ?_))
    exact ⟨_, mem_insertWait _ _, rfl, rfl⟩

end Sys2Proof.Machine

end

section

/-! Guarded commands that pass their check (R462, R465): what the engine keeps as it takes one, and its answer. -/

namespace Sys2Proof.Machine

variable {s t u : State} {r : List Byte} {rest : List (List Byte)} {k c code : Nat}

theorem down_hopper_of_bench (h : s.down .bench = false) : s.down .hopper = false := by
  have hheld : s.edge.held = false := by
    simp [State.down] at h
    exact h.1
  simp [State.down, hheld]

/-! The counter of a command (R465). -/

theorem keyCtrLo_passed (h : k < 32) : passedAddr (Reg.GRD_KEY_CTR_LO.addr [k]) = true := by
  simp [passedAddr, recordAddr, settErrAddr, benchAddr, Reg.addr, Reg.desc, dimOffset]
  omega

theorem keyCtrHi_passed (h : k < 32) : passedAddr (Reg.GRD_KEY_CTR_HI.addr [k]) = true := by
  simp [passedAddr, recordAddr, settErrAddr, benchAddr, Reg.addr, Reg.desc, dimOffset]
  omega

theorem governs_setKeySlot (s : State) (k : Nat) (x : KeySlot) : s.Governs (s.setKeySlot k x) :=
  .of_update (.refl s) (.of_words (.refl s) (fun _ _ => rfl) rfl rfl rfl rfl fun _ _ => rfl) id rfl rfl (.inl rfl) rfl

theorem governs_setKeyCounter (hk : k < 32) (s : State) (c : Nat) : s.Governs (s.setKeyCounter k c) := by
  have hlow : s.Governs (s.wr .GRD_KEY_CTR_LO [k] (c % 2 ^ 32)) :=
    .wr (.refl s) (keyCtrLo_passed hk) (by simp [Reg.addr, Reg.desc, dimOffset]; omega) (by simp [Reg.addr, Reg.desc, dimOffset]; omega)
  exact .wr hlow (keyCtrHi_passed hk) (by simp [Reg.addr, Reg.desc, dimOffset]; omega) (by simp [Reg.addr, Reg.desc, dimOffset]; omega)

theorem governs_acceptCounter (hk : k < 32) (s : State) (c : Nat) : s.Governs (s.acceptCounter k c) := by
  unfold State.acceptCounter
  dsimp only
  split
  · refine .when ((governs_setKeyCounter hk s c).trans (governs_setKeySlot ..)) fun h => ?_
    exact .permitAsk (h.trans (governs_setKeySlot ..))
  · exact governs_setKeySlot ..

/-! What a record is checked by: the outputs and the records that arrive are no part of it (R464). -/

/-- The state with other outputs and other records at the guarded engine. -/
def State.refiled (s : State) (out : List Out) (line : List LaneBlock) (inbox : List (List Byte)) : State :=
  { s with out := out, line := line, grd := { s.grd with inbox := inbox } }

section

variable {out : List Out} {line : List LaneBlock} {inbox : List (List Byte)}

theorem ringFace_refiled (i : Nat) : (s.refiled out line inbox).ringFace i = s.ringFace i := by
  have hassigned : (s.refiled out line inbox).assignedTo (.hostRing i) = s.assignedTo (.hostRing i) := rfl
  unfold State.ringFace
  rw [hassigned]
  split
  · rfl
  · rfl

theorem regFace_refiled (x : Reg) (ix : List Nat) : (s.refiled out line inbox).regFace x ix = s.regFace x ix := by
  have hget (f : Fld) (jx : List Nat) : (s.refiled out line inbox).get f jx = s.get f jx := rfl
  have hep : (s.refiled out line inbox).epFace = s.epFace := rfl
  have hport : (s.refiled out line inbox).portFace = s.portFace := rfl
  have hsett : (s.refiled out line inbox).settFace = s.settFace := rfl
  have hgroup : (s.refiled out line inbox).groupFace = s.groupFace := rfl
  have hchannel : (s.refiled out line inbox).channelFace = s.channelFace := rfl
  have hcomparator : (s.refiled out line inbox).comparatorFace = s.comparatorFace := rfl
  have hleaf : (s.refiled out line inbox).leafFace = s.leafFace := rfl
  have hcell : (s.refiled out line inbox).queueOfCell = s.queueOfCell := rfl
  have hring : (s.refiled out line inbox).ring = s.ring := rfl
  unfold State.regFace
  simp only [hget, hep, hport, hsett, hgroup, hchannel, hcomparator, hleaf, hcell, hring, ringFace_refiled]

theorem namedFaces_refiled (r : List Byte) : (s.refiled out line inbox).namedFaces r = s.namedFaces r := by
  have hrange : (s.refiled out line inbox).guardedRange = s.guardedRange := rfl
  have hreg : (s.refiled out line inbox).regAt = s.regAt := rfl
  unfold State.namedFaces
  simp only [hrange, hreg, regFace_refiled]
  rfl

theorem verdict_refiled (r : List Byte) : (s.refiled out line inbox).verdict r = s.verdict r := by
  have hpermitted : (s.refiled out line inbox).recordPermitted r = s.recordPermitted r := by
    unfold State.recordPermitted
    rw [namedFaces_refiled]
    rfl
  unfold State.verdict
  rw [hpermitted]
  rfl

end

/-! A command that passes its check (R464). -/

/-- The record at the front is taken and its counter accepted. -/
def State.guardTaken (s : State) (r : List Byte) (rest : List (List Byte)) : State :=
  (s.refiled [] [] rest).acceptCounter (recSlot r) (recCounter r)

theorem recordOk_of_pass (h : s.verdict r = .pass) : recordOk r = true := by
  by_contra hbad
  unfold State.verdict at h
  dsimp only at h
  split at h
  · cases h
  · rw [if_pos (by simpa using hbad)] at h
    cases h

theorem bounds_of_pass (h : s.verdict r = .pass) : recIssuer r < 64 ∧ recSlot r < 32 ∧ bodyOk r = true := by
  have hok := recordOk_of_pass h
  simp only [recordOk, Bool.and_eq_true, decide_eq_true_eq] at hok
  exact ⟨hok.1.1.2, hok.1.2, hok.2⟩

theorem governs_guardTaken (h : s.verdict r = .pass) : s.Governs (s.guardTaken r rest) := by
  have hinbox : s.Governs (s.refiled [] [] rest) :=
    .of_update (.refl s) (.of_words (.refl s) (fun _ _ => rfl) rfl rfl rfl rfl fun _ _ => rfl) id rfl rfl (.inl rfl) rfl
  exact hinbox.trans (governs_acceptCounter (bounds_of_pass h).2.1 _ _)

theorem guardRun_of_pass {own : List Byte → Bool} (hinbox : s.grd.inbox = r :: rest) (hpass : s.verdict r = .pass) (hown : own r = true)
    (run : List Byte → State → GuardEnd × State) :
    s.clearOut.guardRun own run = (run r (s.guardTaken r rest)).2.guardEnd s.clearOut r (run r (s.guardTaken r rest)).1 := by
  have hverdict : (s.refiled [] [] rest).verdict r = .pass := (verdict_refiled r).trans hpass
  have hfront : s.clearOut.grd.inbox = r :: rest := hinbox
  have hfiled : { s.clearOut with grd := { s.clearOut.grd with inbox := rest } } = s.refiled [] [] rest := rfl
  unfold State.guardRun State.guardTaken
  rw [hfront]
  dsimp only
  rw [if_pos (by rw [hown]; rfl), hfiled, hverdict]

/-! The answer (R457, R462). -/

theorem byteAt_responseTo (s : State) (r : List Byte) (detail : List Byte) (h : code < 256) :
    byteAt (s.responseTo r code detail) 0 = 0x52 ∧ byteAt (s.responseTo r code detail) 1 = code := by
  refine ⟨rfl, ?_⟩
  change (byte code).toNat = code
  simp [byte, Nat.mod_eq_of_lt h]

/-- The command is answered: here, or by a response toward its issuer (R462). -/
def State.Answers (s : State) (r : List Byte) (u : State) (code : Nat) : Prop := ∃ y, byteAt y 0 = 0x52 ∧ byteAt y 1 = code ∧
  (if recIssuer r = s.hub then u.grd.answers = s.grd.answers ++ [y] else u.grd.responses = s.grd.responses ++ [(y, s.time.cycles)])

theorem respond_frame (h : t.grd.responses.length < 32) (snap : State) (r : List Byte) (code : Nat) (detail : List Byte) :
    t.respond snap r code detail = { t with grd := (t.respond snap r code detail).grd } := by
  unfold State.respond
  simp only [h, if_true]
  split
  · rfl
  · rfl

theorem answers_respond {f : Nat → Bool} (h : s.Serves t f) (hhub : f (Reg.CHIP_HUBNUM.addr []) = false) (hissuer : recIssuer r < 64)
    (hroom : s.grd.responses.length < 32) (hcode : code < 256) (snap : State) (detail : List Byte) :
    s.Answers r (t.respond snap r code detail) code := by
  obtain ⟨htype, hresult⟩ := byteAt_responseTo snap r detail hcode
  have hsame : t.hub = s.hub := State.wordsKept_get h.words F.CHIP_HUBNUM_hub_number [] hhub
  have hroom' : t.grd.responses.length < 32 := by rwa [h.responses]
  refine ⟨snap.responseTo r code detail, htype, hresult, ?_⟩
  unfold State.respond
  simp only [Nat.mod_eq_of_lt hissuer, hsame, hroom', if_true]
  split
  · exact congrArg (· ++ [snap.responseTo r code detail]) h.answers
  · exact congrArg₂ (fun xs c => xs ++ [(snap.responseTo r code detail, c)]) h.responses (congrArg TimeState.cycles h.time)

theorem passes_countRefused (s : State) : s.Passes s.countRefused := .leaf <| .set (f := F.GRD_CNT_refused) (ix := []) (.refl s) (by decide)

section

variable {own : List Byte → Bool} {run : List Byte → State → GuardEnd × State} {f : Nat → Bool}

/-- A command that passes its check and is executed is answered with result 0 (R464). -/
theorem guardExecuted_result (hinbox : s.grd.inbox = r :: rest) (hroom : s.grd.responses.length < 32) (hpass : s.verdict r = .pass)
    (hown : own r = true) (hrun : run r (s.guardTaken r rest) = (.executed, t)) (hserves : (s.guardTaken r rest).Serves t f)
    (hf : ∀ a, serviceAddr a = true → f a = true) (hhub : f (Reg.CHIP_HUBNUM.addr []) = false) :
    ∃ g, s.clearOut.guardRun own run = { t with grd := g } ∧ s.Answers r { t with grd := g } 0 := by
  have hkept : s.Serves t f := ((governs_guardTaken hpass).toPasses.toServes.mono hf).trans hserves
  have hresponse : s.clearOut.guardRun own run = t.respond s.clearOut r 0 [] := by
    rw [guardRun_of_pass hinbox hpass hown, hrun]
    rfl
  have hframe := respond_frame (show t.grd.responses.length < 32 by rwa [hkept.responses]) s.clearOut r 0 []
  refine ⟨_, hresponse.trans hframe, ?_⟩
  rw [← hframe]
  exact answers_respond hkept hhub (bounds_of_pass hpass).1 hroom (by decide) s.clearOut []

/-- A command that passes its check and is refused in its execution is counted and answered with result 8 (R464). -/
theorem guardRefused_result {reason : Nat} (hinbox : s.grd.inbox = r :: rest) (hroom : s.grd.responses.length < 32)
    (hpass : s.verdict r = .pass) (hown : own r = true) (hrun : run r (s.guardTaken r rest) = (.refused reason, s.guardTaken r rest)) :
    ∃ g, s.clearOut.guardRun own run = { (s.guardTaken r rest).countRefused with grd := g } ∧
      s.Answers r { (s.guardTaken r rest).countRefused with grd := g } 8 := by
  have hkept := ((governs_guardTaken (rest := rest) hpass).toPasses.trans (passes_countRefused _)).toServes
  have hresponse : s.clearOut.guardRun own run = (s.guardTaken r rest).countRefused.respond s.clearOut r 8 [byte reason] := by
    rw [guardRun_of_pass hinbox hpass hown, hrun]
    rfl
  have hframe := respond_frame (show (s.guardTaken r rest).countRefused.grd.responses.length < 32 by rwa [hkept.responses])
    s.clearOut r 8 [byte reason]
  refine ⟨_, hresponse.trans hframe, ?_⟩
  rw [← hframe]
  exact answers_respond hkept (by decide) (bounds_of_pass hpass).1 hroom (by decide) s.clearOut _

end

end Sys2Proof.Machine

end

section

/-! A bench goes out of service (R571). -/

namespace Sys2Proof.Machine

variable {s₀ s t u : State} {b k code : Nat}

theorem serviceAddr_bnchStatus (hb : b < 16) : serviceAddr (Reg.BNCH_STATUS.addr [b]) = true := by
  simp [serviceAddr, benchAddr, Reg.addr, Reg.desc, dimOffset]
  omega

theorem cmpStatus_passed (hb : b < 16) {m : Nat} (hm : m < 64) : passedAddr (Reg.DRS_CMP_STATUS.addr [b, m]) = true := by
  simp [passedAddr, benchAddr, Reg.addr, Reg.desc, dimOffset]
  omega

theorem portStat_passed (hb : b < 16) (hk : k < 64) : passedAddr (Reg.BNCH_PORT_STAT.addr [b, k]) = true := by
  simp [passedAddr, benchAddr, Reg.addr, Reg.desc, dimOffset]
  omega

theorem benchCtrl_passed (hb : b < 16) : passedAddr (Reg.BNCH_CTRL.addr [b]) = true := by
  simp [passedAddr, benchAddr, Reg.addr, Reg.desc, dimOffset]
  omega

theorem leafAssigned_benchLeaf (hb : b < 16) {i : Nat} (hi : i = 7 ∨ i = 8 ∨ i = 9) : leafAssigned (benchLeaf b i) = true := by
  unfold leafAssigned benchLeaf
  rw [if_pos (by omega)]
  exact decide_eq_true (by omega)

theorem State.Serves.foldl {α : Type} {xs : List α} {step : State → α → State} {f : Nat → Bool} (hs : s₀.Serves s f)
    (hstep : ∀ (u : State) x, x ∈ xs → u.Serves (step u x) f) : s₀.Serves (xs.foldl step s) f := by
  induction xs generalizing s with
  | nil => exact hs
  | cons x xs ih =>
    exact ih (hs.trans (hstep s x List.mem_cons_self)) fun u y hy => hstep u y (List.mem_cons_of_mem _ hy)

namespace State.Passes

theorem settLines {v : Nat} (hs : s₀.Passes s) : s₀.Passes (s.settLines b k v) :=
  hs.of_words (fun _ _ => rfl) rfl rfl rfl rfl fun _ _ => rfl

theorem comparatorLines {v : Nat} (hs : s₀.Passes s) : s₀.Passes (s.comparatorLines b k v) :=
  hs.of_words (fun _ _ => rfl) rfl rfl rfl rfl fun _ _ => rfl

/-- The conditions of the comparators of a bench end (R301). -/
theorem cmpEndAll (hb : b < 16) (hs : s₀.Passes s) : s₀.Passes (s.cmpEndAll b) :=
  .foldl hs fun hm hu => by
    have hlt := List.mem_range.mp hm
    exact .comparatorLines <| .set (h := cmpStatus_passed hb hlt) <| .setB (h := cmpStatus_passed hb hlt) <|
      .setB hu (cmpStatus_passed hb hlt)

/-- The instances of a bench stop. -/
theorem stopInstances (hb : b < 16) (hs : s₀.Passes s) : s₀.Passes (s.stopInstances b) :=
  .foldl hs fun hk hu => by
    have hlt := List.mem_range.mp (List.mem_filter.mp hk).1
    exact .set (.frame hu) (portStat_passed hb hlt)

end State.Passes

/-! What a bench is like out of service (R571). -/

/-- A sett that stops for service (R571) changes neither words nor the guarded engine. -/
theorem serves_serviceStop (s : State) (b k : Nat) (f : Nat → Bool) : s.Serves (s.serviceStop b k) f :=
  ⟨fun _ _ => rfl, fun _ _ h => h, rfl, rfl, rfl⟩

/-- A sett in neither of the two states in which it executes or waits. -/
def State.settRests (s : State) (b k : Nat) : Prop := (s.sett b k).phase ≠ .running ∧ (s.sett b k).phase ≠ .waiting

theorem settRests_serviceStop (s : State) (b k : Nat) : (s.serviceStop b k).settRests b k := by
  unfold State.settRests State.serviceStop
  rw [sett_settLines, State.sett_onSett]
  dsimp only
  split
  · next h => exact ⟨by rw [h]; nofun, by rw [h]; nofun⟩
  · exact ⟨nofun, nofun⟩

theorem sett_serviceStop_ne {m : Nat} (h : m ≠ k) (s : State) (b : Nat) : (s.serviceStop b k).sett b m = s.sett b m := by
  unfold State.serviceStop
  rw [sett_settLines]
  exact State.sett_setSett_ne _ _ _ _ _ _ (by omega)

/-- The setts of a bench stop (R571). -/
def State.settsStopped (s : State) (b : Nat) : State := s.each (List.range 64) fun s k => s.serviceStop b k

theorem settRests_settsStopped (hk : k < 64) (s : State) (b : Nat) : (s.settsStopped b).settRests b k := by
  have hother (u : State) (m : Nat) (_ : m ∈ List.range 64) (hm : m ≠ k) (h : u.settRests b k) : (u.serviceStop b m).settRests b k := by
    unfold State.settRests at h ⊢
    rwa [sett_serviceStop_ne hm.symm]
  unfold State.settsStopped State.each
  exact foldl_reaches (f := fun s k => s.serviceStop b k) (P := fun _ => True) (Q := fun u => u.settRests b k) (xs := List.range 64)
    List.nodup_range (List.mem_range.mpr hk) (fun _ _ _ _ _ => trivial) (fun u _ => settRests_serviceStop u b k) hother trivial

theorem regs_foldl {α : Type} {xs : List α} {f : State → α → State} (hf : ∀ u x, (f u x).regs = u.regs) (s : State) :
    (xs.foldl f s).regs = s.regs := by
  induction xs generalizing s with
  | nil => rfl
  | cons x xs ih => exact (ih (f s x)).trans (hf s x)

theorem regs_settsStopped (s : State) (b : Nat) : (s.settsStopped b).regs = s.regs := by
  unfold State.settsStopped State.each
  exact regs_foldl (f := fun s k => s.serviceStop b k) (fun _ _ => rfl) s

/-- The bench's units end, and leaf 8 is set. -/
def State.benchEnds (s : State) (b : Nat) : State :=
  (((s.settsStopped b).cmpEndAll b).stopInstances b).leaf (benchLeaf b 8) b 0 true

/-- The firmware is halted, the pins go to their safe states, and the permits go back. -/
def State.benchHalts (s : State) (b : Nat) : State := ((s.setB F.BNCH_STATUS_fw_running [b] false).safeBench b).burstGive b

/-- Both registers show the bench out of service. -/
def State.benchShowsOut (s : State) (b : Nat) : State :=
  (s.setB F.BNCH_STATUS_out_of_service [b] true).setB F.BNCH_CTRL_out_of_service [b] true

theorem benchOut_eq (h : s.is F.BNCH_STATUS_out_of_service [b] = false) : s.benchOut b = ((s.benchEnds b).benchHalts b).benchShowsOut b :=
  if_neg (by simp [h])

/-- A field of BNCH_STATUS is written. -/
theorem serves_setStatus {f : Fld} (hreg : f.reg = .BNCH_STATUS) (hb : b < 16) (s : State) (v : Nat) :
    s.Serves (s.set f [b] v) serviceAddr := by
  refine .wr (.refl s _) ?_ ?_
  · rw [hreg]
    exact serviceAddr_bnchStatus hb
  · rw [hreg]
    exact causeAddr_bnchStatus b

theorem serves_benchEnds (hb : b < 16) (s : State) : s.Serves (s.benchEnds b) serviceAddr := by
  have hstopped : s.Serves (s.settsStopped b) serviceAddr := .foldl (.refl s _) fun u k _ => serves_serviceStop u b k _
  have hends : (s.settsStopped b).Passes (s.benchEnds b) := .leaf <| .stopInstances hb <| .cmpEndAll hb (.refl _)
  exact hstopped.trans hends.toServes

theorem passes_benchEnds (hb : b < 16) (s : State) : (s.settsStopped b).Passes (s.benchEnds b) :=
  .leaf <| .stopInstances hb <| .cmpEndAll hb (.refl _)

theorem status_benchEnds (hb : b < 16) (s : State) {f : Fld} (hreg : f.reg = .BNCH_STATUS) (hlo : 16 ≤ f.lo) :
    (s.benchEnds b).get f [b] = s.get f [b] :=
  ((passes_benchEnds hb s).status_get hb hreg hlo).trans (State.get_of_regs (regs_settsStopped s b) f [b])

theorem leafSet_benchEnds (hb : b < 16) (s : State) : (s.benchEnds b).leafSet (benchLeaf b 8) = true :=
  State.leafSet_leaf _ _ _ _ _ (leafAssigned_benchLeaf hb (by omega))

theorem settRests_benchEnds (hb : b < 16) (hk : k < 64) (s : State) : (s.benchEnds b).settRests b k := by
  unfold State.settRests
  rw [(passes_benchEnds hb s).phases]
  exact settRests_settsStopped hk s b

theorem passes_safeAndGive (s : State) (b : Nat) : s.Passes ((s.safeBench b).burstGive b) :=
  (State.Passes.pads (.refl s) .safeBench).trans (State.Governs.burstGive (.refl _)).toPasses

theorem serves_benchHalts (hb : b < 16) (s : State) : s.Serves (s.benchHalts b) serviceAddr :=
  (serves_setStatus rfl hb s _).trans (passes_safeAndGive _ b).toServes

theorem passes_showsCtrl (hb : b < 16) (s : State) (v : Bool) : s.Passes (s.setB F.BNCH_CTRL_out_of_service [b] v) :=
  .setB (.refl s) (benchCtrl_passed hb)

theorem serves_benchShowsOut (hb : b < 16) (s : State) : s.Serves (s.benchShowsOut b) serviceAddr :=
  (serves_setStatus rfl hb s _).trans (passes_showsCtrl hb _ true).toServes

theorem serves_benchOut (hb : b < 16) (h : s.is F.BNCH_STATUS_out_of_service [b] = false) : s.Serves (s.benchOut b) serviceAddr := by
  rw [benchOut_eq h]
  exact ((serves_benchEnds hb s).trans (serves_benchHalts hb _)).trans (serves_benchShowsOut hb _)

/-- Bench b is out of service: halted, with its setts stopped. -/
def State.IsOut (u : State) (b : Nat) : Prop :=
  u.is F.BNCH_STATUS_out_of_service [b] = true ∧ u.is F.BNCH_STATUS_fw_running [b] = false ∧
    u.leafSet (benchLeaf b 8) = true ∧ ∀ k, k < 64 → u.settRests b k

theorem State.Passes.status_is (h : s.Passes u) (hb : b < 16) {f : Fld} (hreg : f.reg = .BNCH_STATUS) (hlo : 16 ≤ f.lo) :
    u.is f [b] = s.is f [b] := by
  unfold State.is
  rw [h.status_get hb hreg hlo]

theorem phase_setB (s : State) (f : Fld) (ix : List Nat) (v : Bool) (b k : Nat) :
    ((s.setB f ix v).sett b k).phase = (s.sett b k).phase := rfl

theorem benchHalts_result (hb : b < 16) (s : State) : (s.benchHalts b).is F.BNCH_STATUS_fw_running [b] = false ∧
    (s.benchHalts b).get F.BNCH_STATUS_fw_fault_code [b] = s.get F.BNCH_STATUS_fw_fault_code [b] ∧
    ∀ k, ((s.benchHalts b).sett b k).phase = (s.sett b k).phase := by
  have hpasses := passes_safeAndGive (s.setB F.BNCH_STATUS_fw_running [b] false) b
  refine ⟨?_, ?_, fun k => (hpasses.phases b k).trans (phase_setB ..)⟩
  · exact (hpasses.status_is hb rfl (by decide)).trans (State.is_setB s _ _ _ rfl (by decide))
  · exact (hpasses.status_get hb rfl (by decide)).trans
      (State.get_set_field s F.BNCH_STATUS_fw_running F.BNCH_STATUS_fw_fault_code [b] _ rfl (.inr (by decide)) (by decide))

theorem benchShowsOut_result (hb : b < 16) (s : State) : (s.benchShowsOut b).is F.BNCH_STATUS_out_of_service [b] = true ∧
    (s.benchShowsOut b).is F.BNCH_STATUS_fw_running [b] = s.is F.BNCH_STATUS_fw_running [b] ∧
    (s.benchShowsOut b).get F.BNCH_STATUS_fw_fault_code [b] = s.get F.BNCH_STATUS_fw_fault_code [b] ∧
    ∀ k, ((s.benchShowsOut b).sett b k).phase = (s.sett b k).phase := by
  have hpasses := passes_showsCtrl hb (s.setB F.BNCH_STATUS_out_of_service [b] true) true
  have hfield (f : Fld) (hreg : f.reg = .BNCH_STATUS) (hlo : 16 ≤ f.lo) (h : 25 < f.lo ∨ f.hi < 25) :
      (s.benchShowsOut b).get f [b] = s.get f [b] :=
    (hpasses.status_get hb hreg hlo).trans (State.get_set_field s F.BNCH_STATUS_out_of_service f [b] _ hreg h (by decide))
  refine ⟨?_, ?_, hfield _ rfl (by decide) (by decide), fun k => (hpasses.phases b k).trans (phase_setB ..)⟩
  · exact (hpasses.status_is hb rfl (by decide)).trans (State.is_setB s _ _ _ rfl (by decide))
  · unfold State.is
    rw [hfield F.BNCH_STATUS_fw_running rfl (by decide) (by decide)]

theorem isOut_benchOut (hb : b < 16) (h : s.is F.BNCH_STATUS_out_of_service [b] = false) : (s.benchOut b).IsOut b := by
  rw [benchOut_eq h]
  obtain ⟨hhalted, -, hphases⟩ := benchHalts_result hb (s.benchEnds b)
  obtain ⟨hout, hrunning, -, hphases'⟩ := benchShowsOut_result hb ((s.benchEnds b).benchHalts b)
  have hserves := (serves_benchHalts hb (s.benchEnds b)).trans (serves_benchShowsOut hb _)
  refine ⟨hout, hrunning.trans hhalted, hserves.leaves _ ?_ (leafSet_benchEnds hb s), fun k hk => ?_⟩
  · exact (leafAssigned_lt (leafAssigned_benchLeaf hb (by omega))).trans (by decide)
  · unfold State.settRests
    rw [hphases', hphases]
    exact settRests_benchEnds hb hk s

theorem faultCode_benchOut (hb : b < 16) (h : s.is F.BNCH_STATUS_out_of_service [b] = false) :
    (s.benchOut b).get F.BNCH_STATUS_fw_fault_code [b] = s.get F.BNCH_STATUS_fw_fault_code [b] := by
  rw [benchOut_eq h]
  obtain ⟨-, hhalts, -⟩ := benchHalts_result hb (s.benchEnds b)
  obtain ⟨-, -, hshows, -⟩ := benchShowsOut_result hb ((s.benchEnds b).benchHalts b)
  exact (hshows.trans hhalts).trans (status_benchEnds hb s rfl (by decide))

end Sys2Proof.Machine

end

section

/-! BENCH_WATCHDOG_EXPIRY and FIRMWARE_EXCEPTION (R202, R203). -/

namespace Sys2Proof.Machine

variable {s t u : State} {b k code : Nat}

/-! A firmware fault (R202). -/

/-- The code is recorded, and leaf 7 is set. -/
def State.faultNoted (s : State) (b code : Nat) : State := (s.set F.BNCH_STATUS_fw_fault_code [b] code).leaf (benchLeaf b 7) b

theorem firmwareFault_eq (s : State) (b code : Nat) : s.firmwareFault b code = (s.faultNoted b code).benchOut b := rfl

theorem faultNoted_result (hb : b < 16) (s : State) (code : Nat) : s.Serves (s.faultNoted b code) serviceAddr ∧
    (s.faultNoted b code).is F.BNCH_STATUS_out_of_service [b] = s.is F.BNCH_STATUS_out_of_service [b] ∧
    (s.faultNoted b code).get F.BNCH_STATUS_fw_fault_code [b] = code % 256 ∧ (s.faultNoted b code).leafSet (benchLeaf b 7) = true := by
  have hpasses : (s.set F.BNCH_STATUS_fw_fault_code [b] code).Passes (s.faultNoted b code) := .leaf (.refl _)
  refine ⟨(serves_setStatus rfl hb s code).trans hpasses.toServes, ?_, ?_,
    State.leafSet_leaf _ _ _ _ _ (leafAssigned_benchLeaf hb (by omega))⟩
  · refine (hpasses.status_is hb rfl (by decide)).trans ?_
    unfold State.is
    rw [State.get_set_field s F.BNCH_STATUS_fw_fault_code F.BNCH_STATUS_out_of_service [b] code rfl (.inl (by decide)) (by decide)]
  · exact (hpasses.status_get hb rfl (by decide)).trans
      (State.get_set s F.BNCH_STATUS_fw_fault_code [b] code (by decide) (by decide))

theorem firmwareFault_result (hb : b < 16) (h : s.is F.BNCH_STATUS_out_of_service [b] = false)
    (hplain : s.bitOf F.UPD_PROGRESS_benches [] b = false) : ((s.firmwareFault b code).updateFault b).leafSet (benchLeaf b 7) = true ∧
    ((s.firmwareFault b code).updateFault b).IsOut b ∧
    ((s.firmwareFault b code).updateFault b).get F.BNCH_STATUS_fw_fault_code [b] = code % 256 := by
  obtain ⟨hserves, hout, hcode, hleaf⟩ := faultNoted_result hb s code
  have hin : (s.faultNoted b code).is F.BNCH_STATUS_out_of_service [b] = false := hout.trans h
  have hkept := serves_benchOut hb hin
  have hprogress : (s.firmwareFault b code).bitOf F.UPD_PROGRESS_benches [] b = false := by
    have hword := State.wordsKept_get (hserves.trans hkept).words F.UPD_PROGRESS_benches [] (by decide)
    rw [firmwareFault_eq, State.bitOf, hword]
    exact hplain
  have hnone : (s.firmwareFault b code).updateFault b = s.firmwareFault b code := by
    unfold State.updateFault State.when
    rw [hprogress, Bool.and_false, if_neg Bool.false_ne_true]
  rw [hnone, firmwareFault_eq]
  exact ⟨hkept.leaves _ ((leafAssigned_lt (leafAssigned_benchLeaf hb (by omega))).trans (by decide)) hleaf, isOut_benchOut hb hin,
    (faultCode_benchOut hb hin).trans hcode⟩

theorem watchdogExpiry_result (hup : s.down .bench = false) (hb : b < 16) (h : s.is F.BNCH_STATUS_out_of_service [b] = false)
    (hplain : s.bitOf F.UPD_PROGRESS_benches [] b = false) : ∃ u, exec (.benchWatchdogExpiry b) s = .next u ∧
    u.leafSet (benchLeaf b 7) = true ∧ u.IsOut b := by
  have hfault := firmwareFault_result (s := (s.clearOut.drawWord 8).2) (code := (s.clearOut.drawWord 8).1) hb h hplain
  refine ⟨_, ?_, hfault.1, hfault.2.1⟩
  change execBenchWatchdogExpiry b s = _
  unfold execBenchWatchdogExpiry
  rw [if_neg (by simp [hup])]
  exact if_pos hb

theorem firmwareException_result (hup : s.down .bench = false) (hb : b < 16) (h : s.is F.BNCH_STATUS_out_of_service [b] = false)
    (hplain : s.bitOf F.UPD_PROGRESS_benches [] b = false) (code : Nat) : ∃ u, exec (.firmwareException b code) s = .next u ∧
    u.leafSet (benchLeaf b 7) = true ∧ u.IsOut b ∧ u.get F.BNCH_STATUS_fw_fault_code [b] = code % 256 := by
  refine ⟨_, ?_, firmwareFault_result (s := s.clearOut) (code := code) hb h hplain⟩
  change execFirmwareException b code s = _
  unfold execFirmwareException
  rw [if_neg (by simp [hup])]
  exact congrArg Host.Outcome.next (if_pos hb)

end Sys2Proof.Machine

end

section

/-! BENCH_OUT_OF_SERVICE and BENCH_RETURN_TO_SERVICE (R571, R572). -/

namespace Sys2Proof.Machine

variable {s t u : State} {b : Nat} {r : List Byte} {rest : List (List Byte)}

/-! What a response leaves (R462). -/

theorem isOut_grd (h : t.IsOut b) (g : GuardState) : ({ t with grd := g } : State).IsOut b := h

theorem benchOf_grd (t : State) (g : GuardState) (b : Nat) : ({ t with grd := g } : State).benchOf b = t.benchOf b := rfl

theorem permitKnown_grd (t : State) (g : GuardState) (k : PermitKind) (unit : Nat) :
    ({ t with grd := g } : State).permitKnown k unit = t.permitKnown k unit := rfl

theorem exec_benchOutOfService (hup : s.down .bench = false) : exec .benchOutOfService s =
    .next (s.clearOut.guardRun (serviceRecord 1) fun r s => (.executed, s.benchOut (byteAt r 16))) :=
  if_neg (by simp [down_hopper_of_bench hup])

/-- BENCH_OUT_OF_SERVICE (R571). -/
theorem outOfService_result (hup : s.down .bench = false) (hb : b < 16) (hinbox : s.grd.inbox = r :: rest)
    (hroom : s.grd.responses.length < 32) (hpass : s.verdict r = .pass) (hrec : serviceRecord 1 r = true) (hbench : byteAt r 16 = b)
    (hin : s.is F.BNCH_STATUS_out_of_service [b] = false) :
    ∃ u, exec .benchOutOfService s = .next u ∧ s.Answers r u 0 ∧ u.IsOut b := by
  have hin' : (s.guardTaken r rest).is F.BNCH_STATUS_out_of_service [b] = false :=
    ((governs_guardTaken hpass).toPasses.status_is hb rfl (by decide)).trans hin
  obtain ⟨g, hrun, hanswers⟩ := guardExecuted_result (own := serviceRecord 1)
    (run := fun r s => (.executed, s.benchOut (byteAt r 16))) (t := (s.guardTaken r rest).benchOut b) hinbox hroom hpass hrec
    (by rw [hbench]) (serves_benchOut hb hin') (fun _ => id) (by decide)
  exact ⟨_, (exec_benchOutOfService hup).trans (congrArg _ hrun), hanswers, isOut_grd (isOut_benchOut hb hin') g⟩

/-! BENCH_RETURN_TO_SERVICE (R572). -/

/-- A BIST of the bench waits or runs. -/
def State.bistOf (s : State) (b : Nat) : Bool :=
  s.get F.TST_BIST_STATUS_bench == b && (s.get F.TST_BIST_STATUS_state == 1 || s.get F.TST_BIST_STATUS_state == 2)

/-- The return to service is asked for. -/
def State.returnAsked (s : State) (b : Nat) : State :=
  (s.setBench b { s.benchOf b with returning := true }).permitAsk .settReload b

/-- The command as it is executed. -/
def State.returnRun (r : List Byte) (s : State) : GuardEnd × State :=
  if s.is F.BNCH_STATUS_out_of_service [byteAt r 16] && !s.bistOf (byteAt r 16) then (.executed, s.returnAsked (byteAt r 16))
  else (.refused 4, s)

theorem exec_benchReturnToService (hup : s.down .bench = false) :
    exec .benchReturnToService s = .next (s.clearOut.guardRun (serviceRecord 2) State.returnRun) :=
  if_neg (by simp [down_hopper_of_bench hup])

theorem serves_returnAsked (s : State) (b : Nat) : s.Serves (s.returnAsked b) serviceAddr :=
  have hset : s.Serves (s.setBench b { s.benchOf b with returning := true }) serviceAddr :=
    ⟨fun _ _ => rfl, fun _ _ h => h, rfl, rfl, rfl⟩
  hset.trans (State.Governs.permitAsk (.refl _)).toServes

theorem benchOf_returnAsked (s : State) (b : Nat) : ((s.returnAsked b).benchOf b).returning = true := by
  have hbenches : (s.returnAsked b).benches = _ := (State.Governs.permitAsk (.refl _)).benches
  unfold State.benchOf
  rw [hbenches]
  exact congrArg Bench.returning (benchOf_setBench s b _)

theorem returnRefused_result (hup : s.down .bench = false) (hb : b < 16) (hinbox : s.grd.inbox = r :: rest)
    (hroom : s.grd.responses.length < 32) (hpass : s.verdict r = .pass) (hrec : serviceRecord 2 r = true) (hbench : byteAt r 16 = b)
    (hin : s.is F.BNCH_STATUS_out_of_service [b] = false) : ∃ u, exec .benchReturnToService s = .next u ∧ s.Answers r u 8 := by
  have hin' : (s.guardTaken r rest).is F.BNCH_STATUS_out_of_service [b] = false :=
    ((governs_guardTaken hpass).toPasses.status_is hb rfl (by decide)).trans hin
  obtain ⟨g, hrun, hanswers⟩ := guardRefused_result (own := serviceRecord 2) (run := State.returnRun) hinbox hroom hpass hrec
    (if_neg (by simp [hbench, hin']))
  exact ⟨_, (exec_benchReturnToService hup).trans (congrArg _ hrun), hanswers⟩

theorem returnTaken_result (hup : s.down .bench = false) (hb : b < 16) (hinbox : s.grd.inbox = r :: rest)
    (hroom : s.grd.responses.length < 32) (hpass : s.verdict r = .pass) (hrec : serviceRecord 2 r = true) (hbench : byteAt r 16 = b)
    (hout : s.is F.BNCH_STATUS_out_of_service [b] = true) (hidle : s.get F.TST_BIST_STATUS_state = 0) :
    ∃ u, exec .benchReturnToService s = .next u ∧ s.Answers r u 0 ∧ (u.benchOf b).returning = true ∧
      u.permitKnown .settReload b = true := by
  have htaken := governs_guardTaken (rest := rest) hpass
  have hout' : (s.guardTaken r rest).is F.BNCH_STATUS_out_of_service [b] = true := (htaken.toPasses.status_is hb rfl (by decide)).trans hout
  have hnone : (s.guardTaken r rest).bistOf b = false := by simp [State.bistOf, htaken.idle hidle]
  obtain ⟨g, hrun, hanswers⟩ := guardExecuted_result (own := serviceRecord 2) (run := State.returnRun)
    (t := (s.guardTaken r rest).returnAsked b) hinbox hroom hpass hrec
    ((if_pos (by rw [hbench, hout', hnone]; rfl)).trans (by rw [hbench])) (serves_returnAsked _ b) (fun _ => id) (by decide)
  exact ⟨_, (exec_benchReturnToService hup).trans (congrArg _ hrun), hanswers,
    (congrArg Bench.returning (benchOf_grd ..)).trans (benchOf_returnAsked _ b),
    (permitKnown_grd ..).trans (permitKnown_permitAsk _ (by decide) b)⟩

end Sys2Proof.Machine

end

section

/-! BENCH_RESET (R505). -/

namespace Sys2Proof.Machine

/-- A key that a filter keeps reads as before. -/
theorem smGet_filter_of_kept {α : Type} {p : Nat × α → Bool} {k : Nat} (m : List (Nat × α)) (d : α) (h : ∀ v, p (k, v) = true) :
    smGet (m.filter p) k d = smGet m k d := by
  induction m with
  | nil => rfl
  | cons e m ih =>
    obtain ⟨a, v⟩ := e
    by_cases hp : p (a, v) = true
    · rw [List.filter_cons_of_pos hp]
      unfold smGet
      rw [ih]
    · have hne : a ≠ k := fun heq => hp (heq ▸ h v)
      rw [List.filter_cons_of_neg hp, ih]
      exact (if_neg hne).symm

/-- A key that a filter drops reads as the default. -/
theorem smGet_filter_of_dropped {α : Type} {p : Nat × α → Bool} {k : Nat} (m : List (Nat × α)) (d : α) (h : ∀ v, p (k, v) = false) :
    smGet (m.filter p) k d = d := by
  induction m with
  | nil => rfl
  | cons e m ih =>
    obtain ⟨a, v⟩ := e
    by_cases hp : p (a, v) = true
    · have hne : a ≠ k := fun heq => by simp [heq, h v] at hp
      rw [List.filter_cons_of_pos hp]
      exact (if_neg hne).trans ih
    · rw [List.filter_cons_of_neg hp, ih]

variable {s₀ s t u : State} {b k : Nat} {r : List Byte} {rest : List (List Byte)}

/-- The pins of a bench are safe, its setts and comparators assert no line, and its permits go back. -/
def State.islandQuiet (s : State) (b : Nat) : State :=
  ((((s.safeBench b).pinsRestart b true).each (List.range 64) fun s k => s.settLines b k 0).cmpEndAll b |>.burstGive b).permitGive
    .settReload b

/-- The registers and memories of a bench, its setts, controller, instances and dresser are as after a restart. -/
def State.islandCleared (s : State) (b : Nat) : State :=
  { s with
    regs := s.regs.filter fun e => !(e.1 / 0x100000 == 16 + b)
    setts := s.setts.filter fun e => e.1 / 64 != b
    benches := smSet s.benches b {} {}
    ports := s.ports.filter fun e => e.1 / 64 != b
    drs := { channels := s.drs.channels.filter fun e => e.1 / 32 != b
             groups := s.drs.groups.filter fun e => e.1 / 4 != b
             released := smSet s.drs.released b 0 0 } }

theorem benchRestart_eq (s : State) (b : Nat) : s.benchRestart b true = (s.islandQuiet b).islandCleared b := by
  unfold State.benchRestart
  rw [if_pos rfl]
  unfold State.islandCleared State.islandQuiet
  dsimp only

theorem passes_islandQuiet (hb : b < 16) (s : State) : s.Passes (s.islandQuiet b) := by
  have hsafe : s.Passes (s.safeBench b) := .pads (.refl s) .safeBench
  have hpins : s.Passes ((s.safeBench b).pinsRestart b true) := hsafe.of_words (fun _ _ => rfl) rfl rfl rfl rfl fun _ _ => rfl
  have hlines := State.Passes.foldl (xs := List.range 64) (f := fun s k => s.settLines b k 0) hpins fun _ hu => .settLines hu
  exact (hlines.cmpEndAll hb).trans (State.Governs.permitGive (.burstGive (.refl _))).toPasses

theorem serves_islandCleared (hb : b < 16) (s : State) : s.Serves (s.islandCleared b) serviceAddr := by
  have hwords : s.wordsKept (s.islandCleared b) serviceAddr := fun a ha => smGet_filter_of_kept _ _ fun _ => by
    simp only [serviceAddr, benchAddr, Bool.or_eq_false_iff] at ha
    obtain ⟨-, hbench⟩ := ha
    simp at hbench ⊢
    omega
  refine ⟨hwords, fun n hn h => ?_, rfl, rfl, rfl⟩
  have hleaf : (s.islandCleared b).leafSet n = s.leafSet n := by
    unfold State.leafSet State.rd State.rdw
    rw [show smGet (s.islandCleared b).regs _ 0 = _ from smGet_filter_of_kept _ _ fun _ => by
      simp [Reg.addr, Reg.desc, dimOffset]
      omega]
  rwa [hleaf]

theorem sett_islandCleared (hk : k < 64) (s : State) (b : Nat) : (s.islandCleared b).sett b k = {} :=
  smGet_filter_of_dropped _ _ fun _ => by
    simp
    omega

/-- A BIST of the bench is aborted (R575). -/
def State.bistAborted (s : State) (b : Nat) : State :=
  s.when (s.bistOf b) fun s => (s.set F.TST_BIST_STATUS_state [] 5).permitGive .bist 0

/-- The bench in reset as its own controller and BNCH_CTRL show it. -/
def State.resetShown (s : State) (b : Nat) (out back : Bool) : State :=
  ((s.setBench b { reloading := true, returning := back }).setB F.BNCH_STATUS_out_of_service [b] out).setB F.BNCH_CTRL_out_of_service [b] out

/-- The endpoints of the bench are frozen, and its reload asks for a permit. -/
def State.reloadAsked (s : State) (b : Nat) : State := (s.setB F.BNCH_STATUS_queues_frozen [b] true).permitAsk .settReload b

theorem benchResetBegin_eq (s : State) (b : Nat) : s.benchResetBegin b =
    (((s.bistAborted b).benchRestart b true).resetShown b ((s.bistAborted b).is F.BNCH_STATUS_out_of_service [b])
      ((s.bistAborted b).benchOf b).returning).reloadAsked b := rfl

theorem passes_bistAborted (s : State) (b : Nat) : s.Passes (s.bistAborted b) :=
  .when (.refl s) fun h => (State.Passes.set (f := F.TST_BIST_STATUS_state) (ix := []) h (by decide)).trans
    (State.Governs.permitGive (.refl _)).toPasses

theorem serves_resetShown (hb : b < 16) (s : State) (out back : Bool) : s.Serves (s.resetShown b out back) serviceAddr := by
  have hset : s.Serves (s.setBench b { reloading := true, returning := back }) serviceAddr :=
    ⟨fun _ _ => rfl, fun _ _ h => h, rfl, rfl, rfl⟩
  exact (hset.trans (serves_setStatus rfl hb _ _)).trans (passes_showsCtrl hb _ out).toServes

theorem governs_askReload (s : State) (b : Nat) : s.Governs (s.permitAsk .settReload b) := .permitAsk (.refl s)

theorem serves_benchResetBegin (hb : b < 16) (s : State) : s.Serves (s.benchResetBegin b) serviceAddr := by
  rw [benchResetBegin_eq, benchRestart_eq]
  exact (((((passes_bistAborted s b).trans (passes_islandQuiet hb _)).toServes.trans (serves_islandCleared hb _)).trans
    (serves_resetShown hb _ _ _)).trans (serves_setStatus rfl hb _ _)).trans (governs_askReload _ b).toServes

theorem benchOf_setB (s : State) (f : Fld) (ix : List Nat) (v : Bool) (b : Nat) : (s.setB f ix v).benchOf b = s.benchOf b := rfl

theorem sett_setB (s : State) (f : Fld) (ix : List Nat) (v : Bool) (b k : Nat) : (s.setB f ix v).sett b k = s.sett b k := rfl

theorem sett_setBench (s : State) (x : Bench) (b c k : Nat) : (s.setBench b x).sett c k = s.sett c k := rfl

theorem reloading_resetShown (s : State) (b : Nat) (out back : Bool) : ((s.resetShown b out back).benchOf b).reloading = true := by
  unfold State.resetShown
  rw [benchOf_setB, benchOf_setB, benchOf_setBench]

theorem sett_resetShown (s : State) (b : Nat) (out back : Bool) (k : Nat) : (s.resetShown b out back).sett b k = s.sett b k := by
  unfold State.resetShown
  rw [sett_setB, sett_setB, sett_setBench]

theorem sett_of_governs (h : s.Governs u) (b k : Nat) : u.sett b k = s.sett b k := by
  unfold State.sett
  rw [h.setts]

theorem benchOf_of_governs (h : s.Governs u) (b : Nat) : u.benchOf b = s.benchOf b := by
  unfold State.benchOf
  rw [h.benches]

theorem reloadAsked_result (hb : b < 16) (s : State) : (s.reloadAsked b).benchOf b = s.benchOf b ∧
    (s.reloadAsked b).is F.BNCH_STATUS_queues_frozen [b] = true ∧ (s.reloadAsked b).permitKnown .settReload b = true ∧
    ∀ k, (s.reloadAsked b).sett b k = s.sett b k := by
  have hasked := governs_askReload (s.setB F.BNCH_STATUS_queues_frozen [b] true) b
  refine ⟨(benchOf_of_governs hasked b).trans (benchOf_setB ..), ?_, permitKnown_permitAsk _ (by decide) b,
    fun k => (sett_of_governs hasked b k).trans (sett_setB ..)⟩
  exact (hasked.toPasses.status_is hb rfl (by decide)).trans (State.is_setB s _ _ _ rfl (by decide))

/-- A bench in reset (R505). -/
def State.InReset (u : State) (b : Nat) : Prop := (u.benchOf b).reloading = true ∧
  u.is F.BNCH_STATUS_queues_frozen [b] = true ∧ u.permitKnown .settReload b = true ∧ ∀ k, k < 64 → u.sett b k = {}

theorem inReset_benchResetBegin (hb : b < 16) (s : State) : (s.benchResetBegin b).InReset b := by
  rw [benchResetBegin_eq, benchRestart_eq]
  obtain ⟨hbench, hfrozen, hknown, hsetts⟩ := reloadAsked_result hb ((((s.bistAborted b).islandQuiet b).islandCleared b).resetShown b
    ((s.bistAborted b).is F.BNCH_STATUS_out_of_service [b]) ((s.bistAborted b).benchOf b).returning)
  refine ⟨?_, hfrozen, hknown, fun k hk => ?_⟩
  · rw [hbench]
    exact reloading_resetShown ..
  · rw [hsetts, sett_resetShown]
    exact sett_islandCleared hk _ b

theorem inReset_grd (h : t.InReset b) (g : GuardState) : ({ t with grd := g } : State).InReset b := h

/-- The command as it is executed (R505, R536). -/
def State.resetRun (r : List Byte) (s : State) : GuardEnd × State :=
  if s.benchTaken (byteAt r 16) then
    (.executed, { s with upd := { s.upd with benchResets := s.upd.benchResets ++ [byteAt r 16] } })
  else (.executed, s.benchResetBegin (byteAt r 16))

theorem exec_benchReset (hup : s.down .bench = false) :
    exec .benchReset s = .next (s.clearOut.guardRun (serviceRecord 3) State.resetRun) :=
  if_neg (by simp [down_hopper_of_bench hup])

theorem benchReset_result (hup : s.down .bench = false) (hb : b < 16) (hinbox : s.grd.inbox = r :: rest)
    (hroom : s.grd.responses.length < 32) (hpass : s.verdict r = .pass) (hrec : serviceRecord 3 r = true) (hbench : byteAt r 16 = b)
    (hfree : s.benchTaken b = false) : ∃ u, exec .benchReset s = .next u ∧ s.Answers r u 0 ∧ u.InReset b := by
  have hfree' : (s.guardTaken r rest).benchTaken b = false := (governs_guardTaken hpass).taken b hfree
  obtain ⟨g, hrun, hanswers⟩ := guardExecuted_result (own := serviceRecord 3) (run := State.resetRun)
    (t := (s.guardTaken r rest).benchResetBegin b) hinbox hroom hpass hrec
    ((if_neg (by rw [hbench, hfree']; exact Bool.false_ne_true)).trans (by rw [hbench])) (serves_benchResetBegin hb _) (fun _ => id)
    (by decide)
  exact ⟨_, (exec_benchReset hup).trans (congrArg _ hrun), hanswers, inReset_grd (inReset_benchResetBegin hb _) g⟩

end Sys2Proof.Machine

end

section

/-! FACE_RESET (R478, R479). -/

namespace Sys2Proof.Machine

variable {s₀ s t u : State} {f q : Nat} {r : List Byte} {rest : List (List Byte)}

/-- A bit of a field of bits just written. -/
theorem bitOf_setBitOf (s : State) (g : Fld) (ix : List Nat) (i j : Nat) (v : Bool) (hlo : g.lo ≤ g.hi) (h32 : g.hi < 32)
    (hj : j < g.hi + 1 - g.lo) : (s.setBitOf g ix i v).bitOf g ix j = if j = i then v else s.bitOf g ix j := by
  unfold State.bitOf State.setBitOf
  rw [State.get_set _ _ _ _ hlo h32, natBit, Nat.testBit_mod_two_pow, decide_eq_true hj, Bool.true_and]
  exact natBit_natSetBit _ i j v

/-! The begin of a face reset (R478, R479). -/

/-- The words that a face reset writes beside those of service. -/
def faceAddr (a : Nat) : Bool := serviceAddr a || a == 0x70014 || a == 0x70018

theorem faceAddr_of_serviceAddr (a : Nat) (h : serviceAddr a = true) : faceAddr a = true := by simp [faceAddr, h]

theorem passes_faceWindows (s : State) (f : Nat) : s.Passes (s.faceWindows f) :=
  .foldl (.refl s) fun hw hu => by
    have hlt := List.mem_range.mp (List.mem_filter.mp hw).1
    refine .leaf <| .set hu ?_
    simp [passedAddr, F.GRD_WIN_CTRL_state, Reg.addr, Reg.desc, dimOffset]
    omega

theorem serves_flushQueue (s : State) (q : Nat) : s.Serves (s.flushQueue q) faceAddr := by
  have hempty : s.Serves { s.setQueue q { s.queue q with cells := [] } with
      hop := { (s.setQueue q { s.queue q with cells := [] }).hop with
        order := (s.setQueue q { s.queue q with cells := [] }).hop.order.erase q } } faceAddr :=
    ⟨fun _ _ => rfl, fun _ _ h => h, rfl, rfl, rfl⟩
  exact .wr hempty (by decide) (by decide)

theorem queue_setQueue (s : State) (q : Nat) (x : Queue) : (s.setQueue q x).queue q = x := smGet_smSet_same ..

theorem queue_setQueue_ne {p : Nat} (h : p ≠ q) (s : State) (x : Queue) : (s.setQueue q x).queue p = s.queue p :=
  smGet_smSet_ne _ _ _ _ _ h

theorem queue_flushQueue (s : State) (q p : Nat) : (s.flushQueue q).queue p = (s.setQueue q { s.queue q with cells := [] }).queue p := rfl

theorem cells_flushQueue_of_empty (h : (s.queue q).cells = []) (p : Nat) : ((s.flushQueue p).queue q).cells = [] := by
  rw [queue_flushQueue]
  by_cases hqp : q = p
  · subst hqp
    rw [queue_setQueue]
  · rwa [queue_setQueue_ne hqp]

/-- A queue that is flushed, or that holds no cell, holds none in the end. -/
theorem cells_flushed (qs : List Nat) (h : q ∈ qs ∨ (s.queue q).cells = []) :
    ((qs.foldl (fun s q => s.flushQueue q) s).queue q).cells = [] := by
  induction qs generalizing s with
  | nil => exact h.resolve_left (by simp)
  | cons p qs ih =>
    refine ih ?_
    rcases h with hmem | hempty
    · rcases List.mem_cons.mp hmem with rfl | hmem
      · right
        rw [queue_flushQueue, queue_setQueue]
      · exact .inl hmem
    · exact .inr (cells_flushQueue_of_empty hempty p)

/-- A key that reads as something else than the default stands in the table. -/
theorem mem_keys_of_smGet_ne {α : Type} {m : List (Nat × α)} {k : Nat} {d : α} (h : smGet m k d ≠ d) : k ∈ m.map (·.1) := by
  induction m with
  | nil => exact absurd rfl h
  | cons e m ih =>
    obtain ⟨a, v⟩ := e
    by_cases hak : a = k
    · simp [hak]
    · unfold smGet at h
      rw [if_neg hak] at h
      exact List.mem_cons_of_mem _ (ih h)

theorem mem_faceQueues (hface : s.epFace (queueEp q) = f) (hcells : (s.queue q).cells ≠ []) : q ∈ s.faceQueues f := by
  have hkey : q ∈ s.hop.queues.map (·.1) := mem_keys_of_smGet_ne fun hnone => hcells (congrArg Queue.cells hnone)
  refine List.mem_filter.mpr ⟨hkey, ?_⟩
  simp [hface, hcells]

/-- The windows of the face time out under its busy bit (R479). -/
def State.faceStops (s : State) (f : Nat) : State := (s.setBitOf F.FACE_RESET_STATUS_busy [] f true).faceWindows f

theorem faceResetBegin_eq (s : State) (f : Nat) :
    s.faceResetBegin f = ((s.faceStops f).faceQueues f).foldl (fun s q => s.flushQueue q) (s.faceStops f) := rfl

theorem serves_faceStops (s : State) (f : Nat) : s.Serves (s.faceStops f) faceAddr := by
  have hbusy : s.Serves (s.setBitOf F.FACE_RESET_STATUS_busy [] f true) faceAddr := .wr (.refl s _) (by decide) (by decide)
  exact hbusy.trans ((passes_faceWindows _ f).toServes.mono faceAddr_of_serviceAddr)

theorem serves_faceResetBegin (s : State) (f : Nat) : s.Serves (s.faceResetBegin f) faceAddr := by
  rw [faceResetBegin_eq]
  exact .foldl (serves_faceStops s f) fun u q _ => serves_flushQueue u q

theorem faceAddr_faceEp (e : Nat) (h : e < 1024) : faceAddr (Reg.FACE_EP.addr [e / 8]) = false := by
  simp [faceAddr, serviceAddr, passedAddr, recordAddr, settErrAddr, causeAddr, benchAddr, Reg.addr, Reg.desc, dimOffset]
  omega

theorem queueEp_lt (q : Nat) : queueEp q < 1024 := Nat.mod_lt _ (by decide)

theorem epFace_of_wordsKept {g : Nat → Bool} (h : s.wordsKept u g) {e : Nat} (he : g (Reg.FACE_EP.addr [e / 8]) = false) :
    u.epFace e = s.epFace e := by
  unfold State.epFace
  rw [State.wordsKept_rd h _ _ he]

theorem faceBusy_faceStops (hf : f < 16) (s : State) : (s.faceStops f).faceBusy f = true := by
  have hword := State.wordsKept_get (passes_faceWindows (s.setBitOf F.FACE_RESET_STATUS_busy [] f true) f).words
    F.FACE_RESET_STATUS_busy [] (by decide)
  have hbit := bitOf_setBitOf s F.FACE_RESET_STATUS_busy [] f f true (by decide) (by decide) hf
  rw [if_pos rfl] at hbit
  unfold State.faceBusy State.bitOf State.faceStops
  rw [hword]
  exact hbit

theorem faceBusy_flushQueue (s : State) (q f : Nat) : (s.flushQueue q).faceBusy f = s.faceBusy f := by
  unfold State.faceBusy State.bitOf
  exact congrArg (natBit · f) (State.get_set_ne _ F.FACE_RESET_CNT_flushed F.FACE_RESET_STATUS_busy [] [] _ (by decide))

theorem faceResetBegin_result (hf : f < 16) (s : State) : (s.faceResetBegin f).faceBusy f = true ∧
    ∀ q, s.epFace (queueEp q) = f → ((s.faceResetBegin f).queue q).cells = [] := by
  rw [faceResetBegin_eq]
  constructor
  · generalize (s.faceStops f).faceQueues f = qs
    have hkept (v : State) : (qs.foldl (fun s q => s.flushQueue q) v).faceBusy f = v.faceBusy f := by
      induction qs generalizing v with
      | nil => rfl
      | cons q qs ih => exact (ih _).trans (faceBusy_flushQueue v q f)
    exact (hkept _).trans (faceBusy_faceStops hf s)
  · intro q hq
    have hface : (s.faceStops f).epFace (queueEp q) = f :=
      (epFace_of_wordsKept (serves_faceStops s f).words (faceAddr_faceEp _ (queueEp_lt q))).trans hq
    apply cells_flushed
    by_cases hcells : ((s.faceStops f).queue q).cells = []
    · exact .inr hcells
    · exact .inl (mem_faceQueues hface hcells)

/-! FACE_RESET (R478). -/

/-- The command as it is executed. -/
def State.faceRun (r : List Byte) (s : State) : GuardEnd × State :=
  if s.faceResetRefused (byteAt r 16) then (.refused 4, s) else (.executed, s.faceResetBegin (byteAt r 16))

/-- A record of a face reset. -/
def faceRecord (r : List Byte) : Bool := recType r == 6

theorem exec_faceReset (hup : s.down .bench = false) :
    exec .faceReset s = .next (s.clearOut.guardRun faceRecord State.faceRun) :=
  if_neg (by simp [down_hopper_of_bench hup])

theorem faceReset_guardTaken (hpass : s.verdict r = .pass) :
    (s.guardTaken r rest).rd .FACE_RESET_STATUS = s.rd .FACE_RESET_STATUS ∧
      ∀ g, (s.guardTaken r rest).faceResetRefused g = s.faceResetRefused g := by
  have hword := State.wordsKept_rd (governs_guardTaken (rest := rest) hpass).words .FACE_RESET_STATUS [] (by decide)
  refine ⟨hword, fun g => ?_⟩
  unfold State.faceResetRefused State.faceBusy State.bitOf State.get
  rw [show (s.guardTaken r rest).rd F.FACE_RESET_STATUS_busy.reg [] = _ from hword]
  rfl

theorem rd_grd (t : State) (g : GuardState) (x : Reg) (ix : List Nat) : ({ t with grd := g } : State).rd x ix = t.rd x ix := rfl

theorem faceBusy_grd (t : State) (g : GuardState) (f : Nat) : ({ t with grd := g } : State).faceBusy f = t.faceBusy f := rfl

theorem queue_grd (t : State) (g : GuardState) (q : Nat) : ({ t with grd := g } : State).queue q = t.queue q := rfl

theorem faceRefused_result (hup : s.down .bench = false) (hinbox : s.grd.inbox = r :: rest) (hroom : s.grd.responses.length < 32)
    (hpass : s.verdict r = .pass) (htype : recType r = 6) (hrefused : s.faceResetRefused (byteAt r 16) = true) :
    ∃ u, exec .faceReset s = .next u ∧ s.Answers r u 8 ∧ u.rd .FACE_RESET_STATUS = s.rd .FACE_RESET_STATUS := by
  obtain ⟨hword, hsame⟩ := faceReset_guardTaken (rest := rest) hpass
  obtain ⟨g, hrun, hanswers⟩ := guardRefused_result (own := faceRecord) (run := State.faceRun) hinbox hroom hpass (by simp [faceRecord, htype])
    (if_pos (by rw [hsame, hrefused]))
  refine ⟨_, (exec_faceReset hup).trans (congrArg _ hrun), hanswers, (rd_grd ..).trans ?_⟩
  exact (State.wordsKept_rd (passes_countRefused _).words .FACE_RESET_STATUS [] (by decide)).trans hword

theorem bodyOk_face (hpass : s.verdict r = .pass) (htype : recType r = 6) : byteAt r 16 < 16 := by
  have hbody := (bounds_of_pass hpass).2.2
  simp only [bodyOk, htype, Bool.and_eq_true, decide_eq_true_eq] at hbody
  exact hbody.1

theorem faceTaken_result (hup : s.down .bench = false) (hinbox : s.grd.inbox = r :: rest) (hroom : s.grd.responses.length < 32)
    (hpass : s.verdict r = .pass) (htype : recType r = 6) (hfree : s.faceResetRefused (byteAt r 16) = false) :
    ∃ u, exec .faceReset s = .next u ∧ s.Answers r u 0 ∧ u.faceBusy (byteAt r 16) = true ∧
      ∀ q, s.epFace (queueEp q) = byteAt r 16 → (u.queue q).cells = [] := by
  obtain ⟨-, hsame⟩ := faceReset_guardTaken (rest := rest) hpass
  obtain ⟨g, hrun, hanswers⟩ := guardExecuted_result (own := faceRecord) (run := State.faceRun)
    (t := (s.guardTaken r rest).faceResetBegin (byteAt r 16)) hinbox hroom hpass (by simp [faceRecord, htype])
    (if_neg (by rw [hsame, hfree]; exact Bool.false_ne_true)) (serves_faceResetBegin _ _) faceAddr_of_serviceAddr (by decide)
  obtain ⟨hbusy, hempty⟩ := faceResetBegin_result (bodyOk_face hpass htype) (s.guardTaken r rest)
  refine ⟨_, (exec_faceReset hup).trans (congrArg _ hrun), hanswers, (faceBusy_grd ..).trans hbusy, fun q hq => ?_⟩
  rw [queue_grd]
  refine hempty q ((epFace_of_wordsKept (governs_guardTaken (rest := rest) hpass).words ?_).trans hq)
  have hnot := faceAddr_faceEp _ (queueEp_lt q)
  cases hs : serviceAddr (Reg.FACE_EP.addr [queueEp q / 8]) with
  | false => rfl
  | true => rw [faceAddr_of_serviceAddr _ hs] at hnot; cases hnot

end Sys2Proof.Machine

end

section

/-! FACE_RESET_COMPLETE (R479; log entry 37). -/

namespace Sys2Proof.Machine

/-- The words that a turn of the bridge writes: its own block (and whatever number of a poll or a hub an offer bears, no word below it),
what a record counts, and the interrupt tree. -/
def turnAddr (a : Nat) : Bool := causeAddr a || recordAddr a || 0x400000 ≤ a

/-- From `s` to `u` a turn of the bridge has come (R345): it serves, with no more words written than its own. -/
abbrev State.Turns (s u : State) : Prop := s.Serves u turnAddr

theorem turnAddr_of_causeAddr {a : Nat} (h : causeAddr a = true) : turnAddr a = true := by simp [turnAddr, h]

theorem turnAddr_of_recordAddr {a : Nat} (h : recordAddr a = true) : turnAddr a = true := by simp [turnAddr, h]

namespace State.Turns

variable {s₀ s t u : State}

/-- Nothing but register words, the time and the guarded engine matters. -/
theorem frame {pending out line free faultPair shot permits ring twin hop brg setts pins benches drs ports can canT ethT hopT ringT sw
    edge chip upd} (hs : s₀.Turns s) :
    s₀.Turns ⟨pending, out, line, s.regs, free, faultPair, s.time, shot, permits, ring, twin, hop, brg, setts, pins, benches, drs,
      ports, can, canT, ethT, hopT, ringT, sw, s.grd, edge, chip, upd⟩ :=
  hs.trans ⟨fun _ _ => rfl, fun _ _ h => h, rfl, rfl, rfl⟩

theorem wr {r : Reg} {ix : List Nat} {v : Nat} (hs : s₀.Turns s) (h : 0x400000 ≤ r.desc.base := by decide) :
    s₀.Turns (s.wr r ix v) := by
  have haddr : 0x400000 ≤ r.addr ix := h.trans (Nat.le_add_right ..)
  exact Serves.wr hs (by simp [turnAddr, haddr]) (by simp [causeAddr]; omega)

theorem set {f : Fld} {ix : List Nat} {v : Nat} (hs : s₀.Turns s) (h : 0x400000 ≤ f.reg.desc.base := by decide) :
    s₀.Turns (s.set f ix v) := .wr hs h

theorem setB {f : Fld} {ix : List Nat} {v : Bool} (hs : s₀.Turns s) (h : 0x400000 ≤ f.reg.desc.base := by decide) :
    s₀.Turns (s.setB f ix v) := .wr hs h

theorem inc {f : Fld} {ix : List Nat} (hs : s₀.Turns s) (h : 0x400000 ≤ f.reg.desc.base := by decide) :
    s₀.Turns (s.inc f ix) := .wr hs h

theorem leaf {n unit code : Nat} {rec : Bool} (hs : s₀.Turns s) : s₀.Turns (s.leaf n unit code rec) := by
  have honly := s.leaf_regsOnly n unit code rec
  have hframe := honly.1
  refine hs.trans ⟨fun a ha => honly.2 a ?_, fun m hm h => State.leafSet_leaf_of hm h, by rw [hframe], by rw [hframe], by rw [hframe]⟩
  cases hc : causeAddr a with
  | false => rfl
  | true => rw [turnAddr_of_causeAddr hc] at ha; cases ha

theorem records (hs : s₀.Turns s) (h : s.Records u) : s₀.Turns u := by
  have hwords : s.wordsKept u recordAddr := h.words
  have hleaf (n : Nat) (hn : n < 896) : u.leafSet n = s.leafSet n := leafSet_of_wordsKept hwords (by
    simp [recordAddr, Reg.addr, Reg.desc, dimOffset]
    omega)
  have hserves : s.Serves u recordAddr := ⟨hwords, fun n hn h => by rwa [hleaf n hn], by rw [h.frame], by rw [h.frame], by rw [h.frame]⟩
  exact hs.trans (hserves.mono fun _ => turnAddr_of_recordAddr)

theorem ite {c : Prop} [Decidable c] {a b : State} (ha : s₀.Turns a) (hb : s₀.Turns b) : s₀.Turns (if c then a else b) := by
  split
  · exact ha
  · exact hb

theorem when {c : Bool} {f : State → State} (hs : s₀.Turns s) (hf : ∀ {u}, s₀.Turns u → s₀.Turns (f u)) : s₀.Turns (s.when c f) :=
  .ite (hf hs) hs

theorem foldl {α : Type} {xs : List α} {f : State → α → State} (hs : s₀.Turns s)
    (hf : ∀ {u x}, s₀.Turns u → s₀.Turns (f u x)) : s₀.Turns (xs.foldl f s) := by
  induction xs generalizing s with
  | nil => exact hs
  | cons x xs ih => exact ih (hf hs)

theorem addressLeaf {n : Option Nat} {addr : Nat} (hs : s₀.Turns s) : s₀.Turns (s.addressLeaf n addr) := by
  cases n with
  | none => exact hs
  | some n => exact .leaf hs

theorem accessRecord {reason hub : Nat} {remote : Bool} {face addr : Nat} (hs : s₀.Turns s) :
    s₀.Turns (s.accessRecord reason hub remote face addr) :=
  .ite (.addressLeaf <| .ite (.inc hs) (.wr <| .wr hs)) (.leaf <| .ite (.inc hs) (.wr <| .wr hs))

theorem setTag {n : Nat} {x : BridgeTag} (hs : s₀.Turns s) : s₀.Turns (s.setTag n x) := .frame hs

theorem readFails {o : ReadOrigin} {hub addr n : Nat} (hs : s₀.Turns s) : s₀.Turns (s.readFails o hub addr n) := by
  unfold State.readFails
  split
  · exact .foldl hs .frame
  · unfold State.pollFailed
    exact .leaf <| .inc <| .setB <| .setB hs

theorem offerOne {o : BridgeOffer} (hs : s₀.Turns s) : s₀.Turns (s.offerOne o).2 := by
  unfold State.offerOne
  split
  · next hq => exact .when (.frame <| .set <| .records hs (.enqueued hq)) .setTag
  · next hq => exact .records hs (.enqueued hq)
  · next hq =>
    have hrefused := records hs (.enqueued hq)
    split
    · dsimp only
      exact .accessRecord hrefused
    · exact .readFails <| .setTag hrefused

theorem offerList {kept os : List BridgeOffer} {stuck : Bool} (hs : s₀.Turns s) : s₀.Turns (s.offerList kept stuck os).2 := by
  induction os generalizing s kept stuck with
  | nil => exact hs
  | cons o rest ih =>
    unfold State.offerList
    split
    · exact ih hs
    · dsimp only
      split
      · exact ih (.offerOne hs)
      · exact ih (.offerOne hs)

theorem acceptAccess {x : BridgeOffer} (hs : s₀.Turns s) : s₀.Turns (s.acceptAccess x) := by
  unfold State.acceptAccess
  dsimp only
  split
  · exact .when (.frame hs) .setTag
  · exact .when (.frame hs) .setTag

theorem admitList {kept os : List BridgeOffer} (hs : s₀.Turns s) : s₀.Turns (s.admitList kept os) := by
  induction os generalizing s kept with
  | nil => exact .frame hs
  | cons o rest ih => exact .ite (ih hs) (ih (.acceptAccess hs))

theorem bridgeTurn {writes : Bool} (hs : s₀.Turns s) : s₀.Turns (s.bridgeTurn writes) := by
  unfold State.bridgeTurn
  exact .admitList <| .frame <| .offerList hs

end State.Turns

/-! FACE_RESET_COMPLETE (R479). -/

variable {s : State} {f : Nat}

/-- Bit f of the busy bits goes and that of the done bits is set. -/
def State.faceDone (s : State) (f : Nat) : State :=
  (s.setBitOf F.FACE_RESET_STATUS_busy [] f false).setBitOf F.FACE_RESET_STATUS_done [] f true

/-- The reset is counted, and leaf 5 of the guarded commands is set. -/
def State.faceCounted (s : State) (f : Nat) : State := (s.inc F.FACE_RESET_CNT_resets).leaf (guardLeaf 5) f

theorem faceDone_result (hf : f < 16) (s : State) : (s.faceDone f).faceBusy f = false ∧
    (s.faceDone f).bitOf F.FACE_RESET_STATUS_done [] f = true ∧
    (s.faceDone f).get F.FACE_RESET_CNT_resets = s.get F.FACE_RESET_CNT_resets := by
  have hdone := bitOf_setBitOf (s.setBitOf F.FACE_RESET_STATUS_busy [] f false) F.FACE_RESET_STATUS_done [] f f true (by decide)
    (by decide) hf
  have hbusy := bitOf_setBitOf s F.FACE_RESET_STATUS_busy [] f f false (by decide) (by decide) hf
  have hkept := State.get_set_field (s.setBitOf F.FACE_RESET_STATUS_busy [] f false) F.FACE_RESET_STATUS_done F.FACE_RESET_STATUS_busy []
    (natSetBit ((s.setBitOf F.FACE_RESET_STATUS_busy [] f false).get F.FACE_RESET_STATUS_done) f true) rfl (.inl (by decide)) (by decide)
  rw [if_pos rfl] at hdone hbusy
  refine ⟨(congrArg (natBit · f) hkept).trans hbusy, hdone, ?_⟩
  exact (State.get_set_ne _ F.FACE_RESET_STATUS_done F.FACE_RESET_CNT_resets [] [] _ (by decide)).trans
    (State.get_set_ne s F.FACE_RESET_STATUS_busy F.FACE_RESET_CNT_resets [] [] _ (by decide))

theorem faceCounted_result (s : State) (f : Nat) :
    (s.faceCounted f).rd .FACE_RESET_STATUS = s.rd .FACE_RESET_STATUS ∧
    (s.faceCounted f).get F.FACE_RESET_CNT_resets = satInc (s.get F.FACE_RESET_CNT_resets) 255 ∧
    (s.faceCounted f).leafSet (guardLeaf 5) = true := by
  have hbound : satInc (s.get F.FACE_RESET_CNT_resets) 255 < 256 := by
    unfold satInc
    split <;> omega
  refine ⟨(State.rd_leaf _ _ _ _ _ _ _ (by decide)).trans (State.rd_wr_ne _ _ _ _ _ _ (by decide)), ?_,
    State.leafSet_leaf _ _ _ _ _ (by decide)⟩
  exact ((State.get_leaf _ _ _ _ _ _ _ (by decide)).trans (State.get_set s F.FACE_RESET_CNT_resets [] _ (by decide) (by decide))).trans
    (Nat.mod_eq_of_lt hbound)

theorem exec_faceResetComplete (hup : s.down .bench = false) (hbusy : s.faceBusy f = true) (hreads : s.faceReads f = false) :
    exec (.faceResetComplete f) s = .next (((s.clearOut.faceDone f).faceCounted f).admitWaiting.bridgeTurn false) := by
  refine (if_neg (by simp [down_hopper_of_bench hup])).trans (if_pos ⟨hbusy, ?_⟩)
  exact congrArg (!·) hreads

theorem faceResetComplete_result (hup : s.down .bench = false) (hf : f < 16) (hbusy : s.faceBusy f = true) (hreads : s.faceReads f = false) :
    ∃ u, exec (.faceResetComplete f) s = .next u ∧ u.faceBusy f = false ∧ u.bitOf F.FACE_RESET_STATUS_done [] f = true ∧
      u.get F.FACE_RESET_CNT_resets = satInc (s.get F.FACE_RESET_CNT_resets) 255 ∧ u.leafSet (guardLeaf 5) = true := by
  refine ⟨_, exec_faceResetComplete hup hbusy hreads, ?_⟩
  obtain ⟨hidle, hdone, hresets⟩ := faceDone_result hf s.clearOut
  obtain ⟨hstatus, hcount, hleaf⟩ := faceCounted_result (s.clearOut.faceDone f) f
  have hturns : ((s.clearOut.faceDone f).faceCounted f).Turns (((s.clearOut.faceDone f).faceCounted f).admitWaiting.bridgeTurn false) :=
    .bridgeTurn <| .admitList (.refl _ _)
  have hword := (State.wordsKept_rd hturns.words .FACE_RESET_STATUS [] (by decide)).trans hstatus
  refine ⟨?_, ?_, ?_, hturns.leaves _ (by decide) hleaf⟩
  · unfold State.faceBusy State.bitOf State.get at hidle ⊢
    rw [show State.rd _ F.FACE_RESET_STATUS_busy.reg [] = _ from hword]
    exact hidle
  · unfold State.bitOf State.get at hdone ⊢
    rw [show State.rd _ F.FACE_RESET_STATUS_done.reg [] = _ from hword]
    exact hdone
  · exact ((State.wordsKept_get hturns.words F.FACE_RESET_CNT_resets [] (by decide)).trans hcount).trans (congrArg (satInc · 255) hresets)

theorem faceResetWaits_result (hup : s.down .bench = false) (hreads : s.faceReads f = true) :
    exec (.faceResetComplete f) s = .next s.clearOut :=
  (if_neg (by simp [down_hopper_of_bench hup])).trans (if_neg fun h => by
    have hnone : (!s.faceReads f) = true := h.2
    simp [hreads] at hnone)

end Sys2Proof.Machine

end

section

/-! BENCH_FREEZE_TIMEOUT (R491, R571). -/

namespace Sys2Proof.Machine

variable {s₀ s t u : State} {b : Nat}

/-- From `s` to `u` the conditions of the chip-fault state and the leaves that are set stay (R491). -/
structure State.Alarms (s u : State) : Prop where
  conditions : u.rd .CAUSE_FAULT_STATUS = s.rd .CAUSE_FAULT_STATUS
  leaves : ∀ n, n < 896 → s.leafSet n = true → u.leafSet n = true

theorem rd_journal_faultStatus (s : State) (leaf face w : Nat) : (s.journal leaf face w).rd .CAUSE_FAULT_STATUS = s.rd .CAUSE_FAULT_STATUS :=
  State.rd_journal _ _ _ _ _ _ (by decide) fun i k _ _ => by
    simp [Reg.addr, Reg.desc, dimOffset]
    omega

theorem leafSet_journal (s : State) (leaf face w : Nat) {n : Nat} (hn : n < 896) : (s.journal leaf face w).leafSet n = s.leafSet n := by
  unfold State.leafSet
  rw [State.rd_journal _ _ _ _ _ _ (by simp [Reg.addr, Reg.desc, dimOffset]; omega) fun i k _ _ => by
    simp [Reg.addr, Reg.desc, dimOffset]
    omega]

theorem rd_leaf_faultStatus (s : State) (n unit code : Nat) (rec : Bool) :
    (s.leaf n unit code rec).rd .CAUSE_FAULT_STATUS = s.rd .CAUSE_FAULT_STATUS := by
  have hleaf (t : State) (v : Nat) : (t.wr .CAUSE_LEAF [n / 32] v).rd .CAUSE_FAULT_STATUS = t.rd .CAUSE_FAULT_STATUS :=
    State.rd_wr_ne _ _ _ _ _ _ (by simp [Reg.addr, Reg.desc, dimOffset]; omega)
  have hrec (t : State) (v : Nat) : (t.wr .CAUSE_REC [n] v).rd .CAUSE_FAULT_STATUS = t.rd .CAUSE_FAULT_STATUS :=
    State.rd_wr_ne _ _ _ _ _ _ (by simp [Reg.addr, Reg.desc, dimOffset]; omega)
  unfold State.leaf
  split
  · dsimp only
    split
    · rw [rd_journal_faultStatus, hrec, hleaf]
    · unfold State.when
      split
      · exact (hrec _ _).trans ((hrec _ _).trans (hleaf _ _))
      · exact (hrec _ _).trans (hleaf _ _)
  · rfl

namespace State.Alarms

theorem refl (s : State) : s.Alarms s := ⟨rfl, fun _ _ h => h⟩

theorem trans (h : s.Alarms t) (h' : t.Alarms u) : s.Alarms u :=
  ⟨h'.conditions.trans h.conditions, fun n hn hset => h'.leaves n hn (h.leaves n hn hset)⟩

theorem of_serves {f : Nat → Bool} (h : s.Serves u f) (hf : f (Reg.CAUSE_FAULT_STATUS.addr []) = false) : s.Alarms u :=
  ⟨State.wordsKept_rd h.words _ _ hf, h.leaves⟩

theorem frame {pending out line free faultPair time shot permits ring twin hop brg setts pins benches drs ports can canT ethT hopT ringT
    sw grd edge chip upd} (hs : s₀.Alarms s) :
    s₀.Alarms ⟨pending, out, line, s.regs, free, faultPair, time, shot, permits, ring, twin, hop, brg, setts, pins, benches, drs,
      ports, can, canT, ethT, hopT, ringT, sw, grd, edge, chip, upd⟩ := hs.trans ⟨rfl, fun _ _ h => h⟩

theorem wr {r : Reg} {ix : List Nat} {v : Nat} (hs : s₀.Alarms s) (h : causeAddr (r.addr ix) = false) : s₀.Alarms (s.wr r ix v) := by
  have hfault : Reg.CAUSE_FAULT_STATUS.addr [] ≠ r.addr ix := fun heq => by
    rw [← heq] at h
    exact absurd h (by decide)
  have hserves : s.Serves (s.wr r ix v) fun a => a == r.addr ix := Serves.wr (.refl s _) (beq_self_eq_true _) h
  exact hs.trans (of_serves hserves (beq_eq_false_iff_ne.mpr hfault))

theorem set {f : Fld} {ix : List Nat} {v : Nat} (hs : s₀.Alarms s) (h : causeAddr (f.reg.addr ix) = false) : s₀.Alarms (s.set f ix v) :=
  .wr hs h

theorem setB {f : Fld} {ix : List Nat} {v : Bool} (hs : s₀.Alarms s) (h : causeAddr (f.reg.addr ix) = false) :
    s₀.Alarms (s.setB f ix v) := .wr hs h

theorem leaf {n unit code : Nat} {rec : Bool} (hs : s₀.Alarms s) : s₀.Alarms (s.leaf n unit code rec) :=
  hs.trans ⟨rd_leaf_faultStatus .., fun _ hm h => State.leafSet_leaf_of hm h⟩

theorem ite {c : Prop} [Decidable c] {a b : State} (ha : s₀.Alarms a) (hb : s₀.Alarms b) : s₀.Alarms (if c then a else b) := by
  split
  · exact ha
  · exact hb

theorem when {c : Bool} {f : State → State} (hs : s₀.Alarms s) (hf : ∀ {u}, s₀.Alarms u → s₀.Alarms (f u)) : s₀.Alarms (s.when c f) :=
  .ite (hf hs) hs

theorem foldl {α : Type} {xs : List α} {f : State → α → State} (hs : s₀.Alarms s)
    (hf : ∀ {u x}, x ∈ xs → s₀.Alarms u → s₀.Alarms (f u x)) : s₀.Alarms (xs.foldl f s) := by
  induction xs generalizing s with
  | nil => exact hs
  | cons x xs ih => exact ih (hf List.mem_cons_self hs) fun hx => hf (List.mem_cons_of_mem _ hx)

/-- A pair of twins is judged anew (R447). -/
theorem twinRefresh {k : Nat} (hk : k < 32) (hs : s₀.Alarms s) : s₀.Alarms (s.twinRefresh k) := by
  have hstatus : causeAddr (Reg.TWIN_PAIR_STATUS.addr [k]) = false := by
    simp [causeAddr, Reg.addr, Reg.desc, dimOffset]
    omega
  have hends : ∀ {u : State}, s₀.Alarms u → s₀.Alarms (u.endHoldoff k) := fun hu => .ite (.frame <| .setB hu hstatus) hu
  unfold State.twinRefresh
  exact .when (.set (h := hstatus) <| .set (h := hstatus) <| .setB (h := hstatus) <| .when hs hends) .leaf

theorem healthForcedNow (hs : s₀.Alarms s) : s₀.Alarms s.healthForcedNow :=
  .foldl (.leaf hs) fun hk => .twinRefresh (List.mem_range.mp hk)

end State.Alarms

/-- The condition is entered, with bit 31 (R491). -/
def State.faultEntered (s : State) (bit : Nat) : State :=
  s.wr .CAUSE_FAULT_STATUS [] (natSetBit (natSetBit (s.rd .CAUSE_FAULT_STATUS) bit true) 31 true)

theorem alarms_raiseFault (s : State) (bit : Nat) : (s.faultEntered bit).Alarms (s.raiseFault bit) := by
  have hentered : (s.faultEntered bit).Alarms (s.enterFault bit) := by
    have hjournal (w : Nat) : (s.faultEntered bit).Alarms ((s.faultEntered bit).journal 1023 0 w) :=
      ⟨rd_journal_faultStatus .., fun n hn h => by rwa [leafSet_journal _ _ _ _ hn]⟩
    exact .ite (.refl _) (.frame (hjournal _))
  exact .ite hentered (.healthForcedNow hentered)

theorem faultEntered_result (s : State) :
    (s.faultEntered 2).is F.CAUSE_FAULT_STATUS_fault = true ∧ (s.faultEntered 2).is F.CAUSE_FAULT_STATUS_freeze_failed = true ∧
    ∀ n, n < 896 → (s.faultEntered 2).leafSet n = s.leafSet n := by
  have hword : (s.faultEntered 2).rd .CAUSE_FAULT_STATUS = natSetBit (natSetBit (s.rd .CAUSE_FAULT_STATUS) 2 true) 31 true := by
    refine (State.rd_wr ..).trans (Nat.mod_eq_of_lt ?_)
    exact natSetBits_lt _ _ _ _ _ (by decide) (natSetBits_lt _ _ _ _ _ (by decide) (s.rd_lt _ _))
  have hfault : (s.faultEntered 2).get F.CAUSE_FAULT_STATUS_fault = 1 := by
    unfold State.get
    rw [show (s.faultEntered 2).rd F.CAUSE_FAULT_STATUS_fault.reg [] = _ from hword]
    exact natBits_natSetBits _ 31 31 1 (by decide)
  have hfreeze : (s.faultEntered 2).get F.CAUSE_FAULT_STATUS_freeze_failed = 1 := by
    unfold State.get
    rw [show (s.faultEntered 2).rd F.CAUSE_FAULT_STATUS_freeze_failed.reg [] = _ from hword]
    exact (natBits_natSetBits_ne _ 31 31 1 2 2 (by decide)).trans (natBits_natSetBits _ 2 2 1 (by decide))
  refine ⟨by simp [State.is, hfault], by simp [State.is, hfreeze], fun n hn => State.leafSet_wr_ne ?_⟩
  simp [Reg.addr, Reg.desc, dimOffset]
  omega

theorem freezeTimeout_result (hup : s.down .bench = false) (hb : b < 16) (hout : s.is F.BNCH_STATUS_out_of_service [b] = true)
    (hopen : s.is F.BNCH_STATUS_queues_frozen [b] = false) : ∃ u, exec (.benchFreezeTimeout b) s = .next u ∧
      u.leafSet (benchLeaf b 9) = true ∧ u.chipFault = true ∧ u.is F.CAUSE_FAULT_STATUS_freeze_failed = true := by
  obtain ⟨hfault, hfreeze, hleaves⟩ := faultEntered_result (s.clearOut.leaf (benchLeaf b 9) b)
  have halarms := alarms_raiseFault (s.clearOut.leaf (benchLeaf b 9) b) 2
  have hlt : benchLeaf b 9 < 896 := by
    unfold benchLeaf
    omega
  have his (f : Fld) (hreg : f.reg = .CAUSE_FAULT_STATUS) :
      ((s.clearOut.leaf (benchLeaf b 9) b).raiseFault 2).is f = ((s.clearOut.leaf (benchLeaf b 9) b).faultEntered 2).is f := by
    unfold State.is State.get
    rw [hreg, halarms.conditions]
  refine ⟨(s.clearOut.leaf (benchLeaf b 9) b).raiseFault 2, ?_, halarms.leaves _ hlt ?_, (his _ rfl).trans hfault, (his _ rfl).trans hfreeze⟩
  · exact (if_neg (by simp [hup])).trans (if_pos (by simp [hout, hopen]))
  · rw [hleaves _ hlt]
    exact State.leafSet_leaf _ _ _ _ _ (leafAssigned_benchLeaf hb (by omega))

end Sys2Proof.Machine

end

section

/-! The loader's writes of a bench (R505) leave the permits. -/

namespace Sys2Proof.Machine

variable {s₀ s t u : State} {b k : Nat}

theorem State.when_false (s : State) (f : State → State) : s.when false f = s := rfl

/-- From `s` to `u` the permits stay. -/
def State.Holds (s u : State) : Prop := u.permits = s.permits

namespace State.Holds

theorem refl (s : State) : s.Holds s := rfl

theorem trans (h : s.Holds t) (h' : t.Holds u) : s.Holds u := Eq.trans h' h

/-- Nothing but the permits matters. -/
theorem frame {pending out line regs free faultPair time shot ring twin hop brg setts pins benches drs ports can canT ethT hopT ringT sw
    grd edge chip upd} (hs : s₀.Holds s) :
    s₀.Holds ⟨pending, out, line, regs, free, faultPair, time, shot, s.permits, ring, twin, hop, brg, setts, pins, benches, drs, ports,
      can, canT, ethT, hopT, ringT, sw, grd, edge, chip, upd⟩ := hs

theorem wr {r : Reg} {ix : List Nat} {v : Nat} (hs : s₀.Holds s) : s₀.Holds (s.wr r ix v) := hs

theorem set {f : Fld} {ix : List Nat} {v : Nat} (hs : s₀.Holds s) : s₀.Holds (s.set f ix v) := hs

theorem setB {f : Fld} {ix : List Nat} {v : Bool} (hs : s₀.Holds s) : s₀.Holds (s.setB f ix v) := hs

theorem setSett {x : Sett} (hs : s₀.Holds s) : s₀.Holds (s.setSett b k x) := hs

theorem settLines {v : Nat} (hs : s₀.Holds s) : s₀.Holds (s.settLines b k v) := hs

theorem onSett {f : Sett → Sett} (hs : s₀.Holds s) : s₀.Holds (s.onSett b k f) := hs

theorem of_regsOnly {f : Nat → Bool} (hs : s₀.Holds s) (h : s.regsOnly u f) : s₀.Holds u := hs.trans (State.regsOnly_permits h)

theorem leaf {n unit code : Nat} {rec : Bool} (hs : s₀.Holds s) : s₀.Holds (s.leaf n unit code rec) :=
  hs.of_regsOnly (s.leaf_regsOnly n unit code rec)

theorem ite {c : Prop} [Decidable c] {a b : State} (ha : s₀.Holds a) (hb : s₀.Holds b) : s₀.Holds (if c then a else b) := by
  split
  · exact ha
  · exact hb

theorem when {c : Bool} {f : State → State} (hs : s₀.Holds s) (hf : ∀ {u}, s₀.Holds u → s₀.Holds (f u)) : s₀.Holds (s.when c f) :=
  .ite (hf hs) hs

theorem foldl {α : Type} {xs : List α} {f : State → α → State} (hs : s₀.Holds s)
    (hf : ∀ {u x}, x ∈ xs → s₀.Holds u → s₀.Holds (f u x)) : s₀.Holds (xs.foldl f s) := by
  induction xs generalizing s with
  | nil => exact hs
  | cons x xs ih => exact ih (hf List.mem_cons_self hs) fun hx => hf (List.mem_cons_of_mem _ hx)

/-! Pins and setts (R176 to R180, R186). -/

variable {p : Nat}

theorem settleBall (hs : s₀.Holds s) : s₀.Holds (s.settleBall b p) := by
  unfold State.settleBall
  split
  · refine hs.trans ?_
    unfold State.Holds
    rw [(ballTakes_ballLevel s b p _).frame]
  · exact hs

theorem output {x : Pin} (hs : s₀.Holds s) : s₀.Holds (s.output b p x) := .ite (.frame hs) (.settleBall <| .frame hs)

theorem safePin (hs : s₀.Holds s) : s₀.Holds (s.safePin b p) := by
  unfold State.safePin
  dsimp only
  split
  · exact .output hs
  · exact .output hs
  · exact .output hs
  · exact hs

theorem safeOwned (hs : s₀.Holds s) : s₀.Holds (s.safeOwned b k) := .foldl hs fun _ => .safePin

theorem startSett (hs : s₀.Holds s) : s₀.Holds (s.startSett b k) := by
  unfold State.startSett
  dsimp only
  split
  · exact .setSett hs
  · exact .setSett hs
  · exact hs

theorem stopCommand (hs : s₀.Holds s) : s₀.Holds (s.stopCommand b k) := by
  unfold State.stopCommand
  split
  · exact .onSett hs
  · exact .onSett hs
  · exact hs

theorem resetSett (hs : s₀.Holds s) : s₀.Holds (s.resetSett b k) := .safeOwned <| .settLines <| .setSett hs

theorem settCommand {bits : Nat} (hs : s₀.Holds s) : s₀.Holds (s.settCommand b k bits) :=
  .ite (.ite hs (.resetSett hs)) (.ite (.stopCommand hs) (.ite (.startSett hs) hs))

theorem groupWrite {val : Nat} (hs : s₀.Holds s) : s₀.Holds (s.groupWrite b val) :=
  .ite hs (.ite (.frame hs) (.foldl hs fun _ => .settCommand))

theorem ownersChanged {old : State} {q : Nat} (hs : s₀.Holds s) : s₀.Holds (s.ownersChanged old b q) :=
  .foldl hs fun _ h => .ite h (.onSett h)

theorem padWritten {old : State} (hs : s₀.Holds s) : s₀.Holds (s.padWritten old b p) :=
  .ite hs (.settleBall <| .when (.frame hs) .frame)

theorem injectWrite {val : Nat} (hs : s₀.Holds s) : s₀.Holds (s.injectWrite b k val) := .ite (.set hs) (.setSett hs)

theorem mboxAppend {val : Nat} (hs : s₀.Holds s) (hu : s.mboxAppend b k val = some u) : s₀.Holds u := by
  unfold State.mboxAppend at hu
  dsimp only at hu
  split at hu
  · cases hu
    exact .setSett hs
  · cases hu

/-! The dresser (R292 to R301). -/

theorem coefficientsApply (hs : s₀.Holds s) : s₀.Holds (s.coefficientsApply b k) := .frame hs

theorem clearFilter (hs : s₀.Holds s) : s₀.Holds (s.clearFilter b k) := .frame hs

theorem cmpFollow {old : State} (hs : s₀.Holds s) : s₀.Holds (s.cmpFollow old b k) :=
  .ite hs (.ite (.frame hs) (.when (.frame hs) .leaf))

theorem thresholdWrite {release : Bool} {v : Nat} (hs : s₀.Holds s) (hu : s.thresholdWrite b k release v = some u) : s₀.Holds u := by
  unfold State.thresholdWrite at hu
  obtain ⟨-, hu⟩ := Option.ite_none_right_eq_some.mp hu
  cases hu
  exact .set <| .ite (.frame <| .wr hs) (.wr hs)

/-! The loader's writes of a bench (R505). -/

theorem afterWrite {old : State} {r : Reg} {ix : List Nat} {w : Nat} (hbench : r.desc.island = .bench) (hs : s₀.Holds s) :
    s₀.Holds (s.afterWrite old .loader false r ix w) := by
  have hloader : (Path.loader != Path.loader) = false := rfl
  unfold State.afterWrite
  split
  case h_2 => exact .settCommand hs
  case h_3 => exact .groupWrite hs
  case h_4 => exact .ownersChanged hs
  case h_5 => exact .padWritten hs
  case h_6 =>
    simp only [hloader, Bool.false_and, State.when_false]
    exact .when (.when hs .clearFilter) .coefficientsApply
  case h_7 => exact .cmpFollow hs
  case h_8 => exact hs
  case h_37 => exact hs
  all_goals exact absurd hbench (by decide)

theorem storeWord {r : Reg} {ix : List Nat} {w : Nat} (hs : s₀.Holds s) : s₀.Holds (s.storeWord .loader false r ix w) :=
  hs.of_regsOnly (State.Marks.storeWord ..).1

theorem writeReg {r : Reg} {ix : List Nat} {w : Nat} (hbench : r.desc.island = .bench) (hs : s₀.Holds s)
    (hu : s.writeReg .loader r ix w = some u) : s₀.Holds u := by
  have hopen : s.lockedFor .loader = false := Bool.and_false _
  have hthreshold {release : Bool} : s₀.Holds (match s.thresholdWrite (ix.getD 0 0) (ix.getD 1 0) release w with
      | some t => t
      | none => s.leaf (benchLeaf (ix.getD 0 0) 15)) := by
    split
    · next ht => exact .thresholdWrite hs ht
    · exact .leaf hs
  have hstored {r : Reg} (hbench : r.desc.island = .bench) :
      s₀.Holds ((s.storeWord .loader false r ix w).afterWrite s .loader false r ix w) := .afterWrite hbench (.storeWord hs)
  unfold State.writeReg at hu
  dsimp only at hu
  rw [hopen] at hu
  split at hu
  case h_1 => exact .mboxAppend hs hu
  case h_2 =>
    cases hu
    exact .injectWrite hs
  case h_5 =>
    cases hu
    exact hthreshold
  case h_6 =>
    cases hu
    exact hthreshold
  case h_12 =>
    cases hu
    exact .ite (.leaf hs) (hstored hbench)
  case h_15 =>
    cases hu
    exact hstored hbench
  all_goals exact absurd hbench (by decide)

theorem inc {f : Fld} {ix : List Nat} (hs : s₀.Holds s) : s₀.Holds (s.inc f ix) := hs

theorem deny {addr : Nat} {write : Bool} {d : Denial} (hs : s₀.Holds s) : s₀.Holds (s.deny .loader addr write d) := by
  cases d with
  | shape =>
    have hleaf := hs.of_regsOnly ((State.Marks.refl s causeAddr).addressLeaf (n := refusedLeaf .loader) (addr := addr) fun _ h => h).1
    exact .ite hleaf hleaf
  | chapter => exact .ite hs hs
  | guarded => exact .ite hs hs
  | face owner => exact .leaf <| .ite (.inc hs) (.wr <| .wr hs)

theorem holeSeen {p : Path} {addr : Nat} (hs : s₀.Holds s) : s₀.Holds (s.holeSeen p addr) :=
  hs.of_regsOnly (State.Marks.holeSeen s p addr).1

end State.Holds

/-- Every register of a bench's blocks belongs to the bench island (R32). -/
theorem island_of_mem_inBlock {r : Reg} {n : Nat} (h : r ∈ Reg.inBlock true n) : r.desc.island = .bench := by
  have hlist {rs : List Reg} (hall : rs.all (fun q => decide (q.desc.island = .bench)) = true) (hr : r ∈ rs) : r.desc.island = .bench :=
    of_decide_eq_true (List.all_eq_true.mp hall r hr)
  unfold Reg.inBlock at h
  rw [if_pos rfl] at h
  split at h
  all_goals exact hlist (by decide) h

/-- A register found at an address is one of the address's block (R30). -/
theorem State.mem_of_regAt {a : Nat} {r : Reg} {ix : List Nat} (h : s.regAt a = some (r, ix)) : r ∈ blockRegs a := by
  have hlisted {q : Reg} {jx : List Nat} (hfound : ((blockRegs a).findSome? fun q => (q.indexAt a).map fun jx => (q, jx)) = some (q, jx)) :
      q ∈ blockRegs a := by
    obtain ⟨x, hx, heq⟩ := List.exists_of_findSome?_eq_some hfound
    obtain ⟨_, -, hpair⟩ := Option.map_eq_some_iff.mp heq
    cases hpair
    exact hx
  unfold State.regAt at h
  split at h
  · next hfound =>
    obtain ⟨-, h⟩ := Option.ite_none_right_eq_some.mp h
    cases h
    exact hlisted hfound
  · exact hlisted h

theorem State.island_of_regAt {a n : Nat} {r : Reg} {ix : List Nat} (hn : n < 16) (ha : a / 0x100000 = 16 + n)
    (h : s.regAt a = some (r, ix)) : r.desc.island = .bench := by
  have hblock : blockRegs a = Reg.inBlock true (a % 0x100000 / 0x10000) := blockRegs_of_bench (by omega) (by omega)
  exact island_of_mem_inBlock (hblock ▸ s.mem_of_regAt h)

namespace State.Holds

/-- The loader's write of a bench's word (R505). -/
theorem write32 {a n w : Nat} (hn : n < 16) (ha : a / 0x100000 = 16 + n) (hs : s₀.Holds s) : s₀.Holds (s.write32 .loader a w).2 := by
  unfold State.write32
  split
  · split
    · exact .deny hs
    · exact .holeSeen hs
  · next hreg =>
    split
    · exact .deny hs
    · split
      · next hu => exact .writeReg (State.island_of_regAt hn ha hreg) hs hu
      · exact .deny hs

/-! The reset of a bench ends, and its image is applied (R505). -/

theorem setBench {x : Bench} (hs : s₀.Holds s) : s₀.Holds (s.setBench b x) := hs

theorem drawnWord {n : Nat} (hs : s₀.Holds s) : s₀.Holds (s.drawWord n).2 := hs

theorem drawnLevel (hs : s₀.Holds s) : s₀.Holds s.drawLevel.2 := hs

theorem benchRelease (hs : s₀.Holds s) : s₀.Holds (s.benchRelease b) := by
  unfold State.benchRelease State.each
  have hstopped : s₀.Holds ((List.range 64).foldl (fun s k => s.onSett b k fun t => { t with phase := .stopped }) s) :=
    .foldl hs fun _ => .onSett
  exact .when (.setB <| .drawnLevel <| .set <| .set <| .drawnWord (n := 8) hstopped) .leaf

theorem loadBenchFirmware {img : List Byte} (hs : s₀.Holds s) : s₀.Holds (s.loadBenchFirmware img b) := .setBench hs

theorem applyTable {img : List Byte} (hs : s₀.Holds s) : s₀.Holds (s.applyTable img b) := .foldl hs fun _ => .wr

theorem coefficientsApplyAll (hs : s₀.Holds s) : s₀.Holds (s.coefficientsApplyAll b) := .foldl hs fun _ => .coefficientsApply

theorem benchApply {img : List Byte} (hb : b < 16) (hs : s₀.Holds s) : s₀.Holds (s.benchApply img b) := by
  unfold State.benchApply
  refine .coefficientsApplyAll <| .applyTable <| .foldl (.loadBenchFirmware hs) fun hx h => .write32 hb ?_ h
  simpa using (List.mem_filter.mp hx).2

end State.Holds

end Sys2Proof.Machine

end

section

/-! The start of the instances of a bench (R245, R505) leaves its service and the permits. -/

namespace Sys2Proof.Machine

variable {s₀ s t u : State} {b k p : Nat}

/-! The start of the instances of a bench (R245, R505). -/

/-- From `s` to `u` no more happens than the start of instances brings about, which asks for no permit. -/
structure State.Starts (s u : State) : Prop extends State.Passes s u where
  holds : s.Holds u

theorem pdtStatus_passed (hb : b < 16) : passedAddr (Reg.BNCH_PDT_STATUS.addr [b]) = true := by
  simp [passedAddr, benchAddr, Reg.addr, Reg.desc, dimOffset]
  omega

theorem rolePin_lt (s : State) (b k : Nat) {r : Nat} (hr : r < 4) : s.rolePin b k r < 64 := by
  have hquad := rolePin_div_four s b k hr
  omega

/-- A field of BNCH_STATUS among its contention bits is written. -/
theorem State.Passes.contended {f : Fld} {v : Nat} (hreg : f.reg = .BNCH_STATUS) (hhi : f.hi < 16) (hb : b < 16) (hs : s₀.Passes s) :
    s₀.Passes (s.set f [b] v) := by
  have hserves := serves_setStatus hreg hb s v
  refine hs.trans ⟨hserves, fun c hc => ?_, rfl, fun _ _ => rfl⟩
  rw [State.set, hreg]
  by_cases hcb : c = b
  · subst hcb
    have hlt := natSetBits_lt (s.rd .BNCH_STATUS [c]) f.hi f.lo v 32 (by omega) (s.rd_lt ..)
    rw [State.rd_wr, Nat.mod_eq_of_lt hlt]
    refine Nat.eq_of_testBit_eq fun i => ?_
    rw [Nat.testBit_div_two_pow, Nat.testBit_div_two_pow, testBit_natSetBits, if_neg (by omega)]
  · rw [State.rd_wr_ne]
    simp [Reg.addr, Reg.desc, dimOffset, hcb]

theorem phase_onSett {f : Sett → Sett} (hf : ∀ x, (f x).phase = x.phase) (s : State) (b k c m : Nat) :
    ((s.onSett b k f).sett c m).phase = (s.sett c m).phase := by
  unfold State.onSett State.setSett State.sett
  by_cases hsett : c * 64 + m = b * 64 + k
  · rw [hsett, smGet_smSet_same]
    exact hf _
  · rw [smGet_smSet_ne _ _ _ _ _ hsett]

namespace State.Starts

theorem refl (s : State) : s.Starts s := ⟨.refl s, .refl s⟩

theorem trans (h : s.Starts t) (h' : t.Starts u) : s.Starts u := ⟨h.toPasses.trans h'.toPasses, h.holds.trans h'.holds⟩

theorem wr {r : Reg} {ix : List Nat} {v : Nat} (hs : s₀.Starts s) (h : passedAddr (r.addr ix) = true) : s₀.Starts (s.wr r ix v) :=
  ⟨.wr hs.toPasses h, .wr hs.holds⟩

theorem setPort {x : Port} (hs : s₀.Starts s) : s₀.Starts (s.setPort b k x) := ⟨.frame hs.toPasses, .frame hs.holds⟩

theorem onPort {f : Port → Port} (hs : s₀.Starts s) : s₀.Starts (s.onPort b k f) := .setPort hs

theorem setPin {x : Pin} (hs : s₀.Starts s) : s₀.Starts (s.setPin b p x) := ⟨.frame hs.toPasses, .frame hs.holds⟩

theorem leaf {n unit code : Nat} {rec : Bool} (hs : s₀.Starts s) : s₀.Starts (s.leaf n unit code rec) :=
  ⟨.leaf hs.toPasses, .leaf hs.holds⟩

theorem ite {c : Prop} [Decidable c] {a b : State} (ha : s₀.Starts a) (hb : s₀.Starts b) : s₀.Starts (if c then a else b) := by
  split
  · exact ha
  · exact hb

theorem when {c : Bool} {f : State → State} (hs : s₀.Starts s) (hf : ∀ {u}, s₀.Starts u → s₀.Starts (f u)) : s₀.Starts (s.when c f) :=
  .ite (hf hs) hs

theorem foldl {α : Type} {xs : List α} {f : State → α → State} (hs : s₀.Starts s)
    (hf : ∀ {u x}, x ∈ xs → s₀.Starts u → s₀.Starts (f u x)) : s₀.Starts (xs.foldl f s) := by
  induction xs generalizing s with
  | nil => exact hs
  | cons x xs ih => exact ih (hf List.mem_cons_self hs) fun hx => hf (List.mem_cons_of_mem _ hx)

/-- Records of instances (R249). -/
theorem records (hs : s₀.Starts s) (h : s.Records u) : s₀.Starts u := by
  refine ⟨.records hs.toPasses h, hs.holds.trans ?_⟩
  unfold State.Holds
  rw [h.frame]

/-- A level put out at a pin (R182). -/
theorem output {x : Pin} (hp : p < 64) (hs : s₀.Starts s) : s₀.Starts (s.output b p x) :=
  ⟨.pads hs.toPasses (.output hp), .output hs.holds⟩

/-- A sett that has tried too often is seen to contend (R186). -/
theorem settContends (hs : s₀.Starts s) : s₀.Starts (s.onSett b k fun t => { t with contended := true }) :=
  have hphases := phase_onSett (f := fun t => { t with contended := true }) (fun _ => rfl) s b k
  ⟨hs.toPasses.of_words (fun _ _ => rfl) rfl rfl rfl rfl hphases, .onSett hs.holds⟩

/-- A drive of a pin that the sett does not own (R183). -/
theorem contention (hb : b < 16) (hs : s₀.Starts s) : s₀.Starts (s.contention b k p) := by
  have hmarked {u : State} {v : Nat} (hu : s₀.Starts u) : s₀.Starts (u.set F.BNCH_STATUS_contention [b] v) :=
    ⟨.contended rfl (by decide) hb hu.toPasses, .set hu.holds⟩
  unfold State.contention
  exact .when (.leaf <| hmarked <| .setPin hs) fun h => .settContends <| .leaf h

theorem drive {f : Pin → Pin} (hb : b < 16) (hp : p < 64) (hs : s₀.Starts s) : s₀.Starts (s.drive b k p f) :=
  .ite hs (.ite (.output hp hs) (.contention hb hs))

theorem driveOut {level : Bool → Bool} (hb : b < 16) (hp : p < 64) (hs : s₀.Starts s) : s₀.Starts (s.driveOut b k p level) :=
  .drive hb hp hs

theorem driveLevel {level : Bool} (hb : b < 16) (hp : p < 64) (hs : s₀.Starts s) : s₀.Starts (s.driveLevel b k p level) :=
  .driveOut hb hp hs

theorem driveEnable {on : Bool} (hb : b < 16) (hp : p < 64) (hs : s₀.Starts s) : s₀.Starts (s.driveEnable b k p on) :=
  .drive hb hp hs

theorem waveStart (hb : b < 16) (hs : s₀.Starts s) : s₀.Starts (s.waveStart b k) := by
  have hpin := rolePin_lt s b k (waveRole_lt s b k)
  exact .ite (.driveEnable hb hpin <| .driveLevel hb hpin <| .onPort hs) hs

theorem startInstance (hb : b < 16) (hk : k < 64) (hs : s₀.Starts s) : s₀.Starts (s.startInstance b k) := by
  have hshown {v : Nat} : s₀.Starts ((s.setPort b k {}).wr .BNCH_PORT_STAT [b, k] v) := .wr (.setPort hs) (portStat_passed hb hk)
  unfold State.startInstance
  exact .ite (.when (.onPort hshown) fun h => .records h (.portRecord hk)) (.waveStart hb hshown)

end State.Starts

/-- The instances in use start, and the others show that they are not. -/
def State.instancesStarted (s : State) (b : Nat) : State :=
  let ks := (List.range 64).filter (s.descInUse b)
  let s := s.wr .BNCH_PDT_STATUS [b] (2 * 2 ^ 8 + 2 ^ 7 + ks.length)
  let s := s.each ((List.range 64).filter fun k => !s.descInUse b k) fun s k => s.wr .BNCH_PORT_STAT [b, k] 0
  s.each ks fun s k => s.startInstance b k

theorem starts_instancesStarted (hb : b < 16) (s : State) : s.Starts (s.instancesStarted b) := by
  have hlt {q : Nat → Bool} {k : Nat} (hk : k ∈ (List.range 64).filter q) : k < 64 := List.mem_range.mp (List.mem_filter.mp hk).1
  unfold State.instancesStarted State.each
  exact .foldl (.foldl (.wr (.refl s) (pdtStatus_passed hb)) fun hk h => .wr h (portStat_passed hb (hlt hk)))
    fun hk h => .startInstance hb (hlt hk) h

end Sys2Proof.Machine

end

section

/-! BENCH_RELOAD_COMPLETE (R505, R572). -/

namespace Sys2Proof.Machine

variable {s₀ s t u : State} {b k n : Nat}

/-! The bursts of a reload's end, and the permit that goes back (R566, R571). -/

/-- Only dresser bursts wait, and the permit of the reload of a bench is held so many times. -/
structure State.Bursts (u : State) (b n : Nat) : Prop where
  held : u.permits.held.count (.settReload, b) = n
  waiting : ∀ w ∈ u.permits.waiting, w.kind = .dresserBurst

theorem mem_of_mem_insertWait {w x : PermitWait} {xs : List PermitWait} (h : x ∈ insertWait w xs) : x = w ∨ x ∈ xs := by
  induction xs with
  | nil => exact .inl (List.mem_singleton.mp h)
  | cons y ys ih =>
    unfold insertWait at h
    split at h
    · exact List.mem_cons.mp h
    · rcases List.mem_cons.mp h with rfl | h
      · exact .inr List.mem_cons_self
      · exact (ih h).imp_right (List.mem_cons_of_mem _)

namespace State.Bursts

theorem of_holds (hs : s.Bursts b n) (h : s.Holds u) : u.Bursts b n := by
  refine ⟨?_, ?_⟩
  · rw [h]
    exact hs.held
  · rw [h]
    exact hs.waiting

theorem ite {c : Prop} [Decidable c] {x y : State} (hx : x.Bursts b n) (hy : y.Bursts b n) : (if c then x else y).Bursts b n := by
  split
  · exact hx
  · exact hy

/-- A dresser burst is granted. -/
theorem permitGrant {w : PermitWait} (hw : w.kind = .dresserBurst) (hs : s.Bursts b n) : (s.permitGrant w).Bursts b n := by
  have hplain : s.permitGrant w =
      { s with permits := { held := s.permits.held ++ [(w.kind, w.unit)], waiting := s.permits.waiting.erase w } } := by
    unfold State.permitGrant
    rw [hw]
    rfl
  rw [hplain]
  refine ⟨?_, fun x hx => hs.waiting x (List.mem_of_mem_erase hx)⟩
  rw [List.count_append, hs.held, hw, List.count_singleton]
  simp

theorem permitScan {ws : List PermitWait} (hws : ∀ w ∈ ws, w.kind = .dresserBurst) (hs : s.Bursts b n) : (s.permitScan ws).Bursts b n := by
  induction ws generalizing s with
  | nil => exact hs
  | cons w ws ih =>
    have hrest {u : State} : u.Bursts b n → (u.permitScan ws).Bursts b n := ih fun x hx => hws x (List.mem_cons_of_mem _ hx)
    exact .ite (.ite (hrest hs) (hrest (hs.permitGrant (hws w List.mem_cons_self)))) hs

theorem permitExamine (hs : s.Bursts b n) : s.permitExamine.Bursts b n := by
  refine .ite hs (hs.permitScan fun w hw => ?_)
  obtain ⟨_, -, hmem⟩ := List.mem_flatMap.mp hw
  exact hs.waiting w (List.mem_filter.mp hmem).1

theorem permitAsk (hs : s.Bursts b n) (unit : Nat) : (s.permitAsk .dresserBurst unit).Bursts b n := by
  refine .ite hs (permitExamine ⟨hs.held, fun w hw => ?_⟩)
  rcases mem_of_mem_insertWait hw with rfl | hmem
  · rfl
  · exact hs.waiting w hmem

theorem permitGive (hs : s.Bursts b n) (unit : Nat) : (s.permitGive .dresserBurst unit).Bursts b n := by
  refine .ite (permitExamine ⟨?_, fun w hw => hs.waiting w (List.mem_filter.mp hw).1⟩) hs
  refine Eq.trans ?_ hs.held
  exact List.count_erase_of_ne (by simp)

theorem burstAsk (hs : s.Bursts b n) (c : Nat) : (s.burstAsk c).Bursts b n := by
  unfold State.burstAsk State.each
  generalize List.range 4 = gs
  induction gs generalizing s with
  | nil => exact hs
  | cons g gs ih => exact ih (.ite (hs.permitAsk _) (hs.permitGive _))

/-- The only permit of a reload goes back. -/
theorem reloadGiven (hs : s.Bursts b 1) : (s.permitGive .settReload b).permitHeld .settReload b = false := by
  have hmem : (PermitKind.settReload, b) ∈ s.permits.held := List.count_pos_iff.mp (by rw [hs.held]; decide)
  have hknown : s.permitKnown .settReload b = true := permitKnown_iff.mpr (.inl hmem)
  have hgiven : (s.permitGive .settReload b).Bursts b 0 := by
    unfold State.permitGive
    rw [if_pos hknown]
    refine permitExamine ⟨?_, fun w hw => hs.waiting w (List.mem_filter.mp hw).1⟩
    rw [List.count_erase_self, hs.held]
  have hnone := List.count_eq_zero.mp hgiven.held
  unfold State.permitHeld
  simpa using hnone

end State.Bursts

/-! The bench back in service (R505, R572). -/

/-- The end of a recovery of a leaf changes words of the interrupt tree alone (R490). -/
theorem regsOnly_recovered (hb : b < 16) (s : State) : s.regsOnly (s.recovered (benchLeaf b 8)) causeAddr := by
  have hlt : benchLeaf b 8 < 512 := by unfold benchLeaf; omega
  have hcontention : (decide (benchLeaf b 8 < 512) && benchLeaf b 8 % 32 == 3) = false := by simp [benchLeaf]
  generalize benchLeaf b 8 = n at *
  have hrec {u : State} {v : Nat} (hu : s.regsOnly u causeAddr) : s.regsOnly (u.wr .CAUSE_REC [n] v) causeAddr :=
    State.regsOnly_trans hu (State.regsOnly_wr _ _ _ _ _ (causeAddr_rec n (by omega)))
  have hmark : s.regsOnly (s.setB F.CAUSE_REC_recovering [n] false) causeAddr := hrec (s.regsOnly_refl _)
  have hword := State.regsOnly_trans hmark (State.regsOnly_wr _ .CAUSE_LEAF [n / 32]
    (natSetBit ((s.setB F.CAUSE_REC_recovering [n] false).rd .CAUSE_LEAF [n / 32]) (n % 32) false) _ (causeAddr_leaf (n / 32) (by omega)))
  unfold State.recovered State.leafClear
  rw [hcontention]
  dsimp only
  split
  · split
    · exact hmark
    · split
      · exact hword
      · split
        · next hk => exact State.regsOnly_trans (hrec hword) (State.regsOnly_wr _ _ _ _ _ (causeAddr_holeAddr (holeAddrIndex_lt hk)))
        · exact hrec hword
  · exact s.regsOnly_refl _

/-- What is shown of a bench back in service. -/
def State.showsBack (u : State) (b : Nat) : Prop := u.is F.BNCH_STATUS_out_of_service [b] = false ∧ u.leafSet (benchLeaf b 8) = true

theorem showsBack_of_passes (hb : b < 16) (h : s.Passes u) (hs : s.showsBack b) : u.showsBack b := by
  obtain ⟨hservice, hleaf⟩ := hs
  exact ⟨(h.status_is hb rfl (by decide)).trans hservice, h.leaves _ (by unfold benchLeaf; omega) hleaf⟩

/-- The words that show the bench back in service are written. -/
def State.serviceShown (s : State) (b : Nat) : State :=
  (s.setB F.BNCH_STATUS_out_of_service [b] false).setB F.BNCH_CTRL_out_of_service [b] false

theorem benchBack_eq (s : State) (b : Nat) :
    s.benchBack b = ((s.serviceShown b).recovered (benchLeaf b 8)).leaf (benchLeaf b 8) b := rfl

theorem benches_serviceShown (s : State) (b : Nat) : (s.serviceShown b).benches = s.benches := (State.benches_setB ..).trans (State.benches_setB ..)

theorem showsBack_benchBack (hb : b < 16) (s : State) : (s.benchBack b).showsBack b := by
  rw [benchBack_eq]
  have hshown : (s.serviceShown b).is F.BNCH_STATUS_out_of_service [b] = false :=
    ((passes_showsCtrl hb _ false).status_is hb rfl (by decide)).trans (State.is_setB s _ _ _ rfl (by decide))
  have hrecovered : ((s.serviceShown b).recovered (benchLeaf b 8)).is F.BNCH_STATUS_out_of_service [b] = false := by
    unfold State.is at hshown ⊢
    rwa [State.regsOnly_get (regsOnly_recovered hb _) _ _ (causeAddr_bnchStatus b)]
  exact ⟨((State.Passes.refl _).leaf.status_is hb rfl (by decide)).trans hrecovered,
    State.leafSet_leaf _ _ _ _ _ (leafAssigned_benchLeaf hb (by omega))⟩

theorem holds_benchBack (hb : b < 16) (s : State) : s.Holds (s.benchBack b) := by
  rw [benchBack_eq]
  exact .leaf <| .of_regsOnly (.setB <| .setB <| .refl s) (regsOnly_recovered hb _)

theorem benches_benchBack (hb : b < 16) (s : State) : (s.benchBack b).benches = s.benches := by
  rw [benchBack_eq, (State.Passes.refl _).leaf.benches, (regsOnly_recovered hb _).1, ← benches_serviceShown s b]

/-! The instances start and the firmware runs (R505). -/

/-- The words that show the firmware running are written. -/
def State.runningShown (s : State) (b : Nat) : State :=
  (s.setB F.BNCH_STATUS_fw_running [b] true).setB F.BNCH_STATUS_queues_frozen [b] false

theorem benchRuns_eq (s : State) (b : Nat) : s.benchRuns b = ((s.instancesStarted b).burstAsk b).runningShown b := rfl

theorem passes_startInstances (hb : b < 16) (s : State) : s.Passes ((s.instancesStarted b).burstAsk b) :=
  (starts_instancesStarted hb s).toPasses.trans (State.Governs.burstAsk (.refl _)).toPasses

theorem fwRunning_runningShown (s : State) (b : Nat) : (s.runningShown b).is F.BNCH_STATUS_fw_running [b] = true := by
  have hkept : (s.runningShown b).get F.BNCH_STATUS_fw_running [b] = _ :=
    State.get_set_field _ F.BNCH_STATUS_queues_frozen F.BNCH_STATUS_fw_running [b] _ rfl (.inl (by decide)) (by decide)
  unfold State.is
  rw [hkept]
  exact State.is_setB s _ _ _ rfl (by decide)

theorem showsBack_runningShown (hb : b < 16) (hs : s.showsBack b) : (s.runningShown b).showsBack b := by
  obtain ⟨hservice, hleaf⟩ := hs
  have hkept {f : Fld} {u : State} {v : Bool} (hreg : f.reg = .BNCH_STATUS) (hhi : f.hi < 25 ∨ 25 < f.lo) (h32 : f.hi < 32) :
      (u.setB f [b] v).is F.BNCH_STATUS_out_of_service [b] = u.is F.BNCH_STATUS_out_of_service [b] :=
    congrArg (· != 0) (State.get_set_field u f F.BNCH_STATUS_out_of_service [b] _ hreg.symm hhi h32)
  have hserves := (serves_setStatus (f := F.BNCH_STATUS_fw_running) rfl hb s (b2n true)).trans
    (serves_setStatus (f := F.BNCH_STATUS_queues_frozen) rfl hb _ (b2n false))
  refine ⟨?_, hserves.leaves _ (by unfold benchLeaf; omega) hleaf⟩
  unfold State.runningShown
  rw [hkept rfl (by decide) (by decide), hkept rfl (by decide) (by decide), hservice]

theorem showsBack_benchRuns (hb : b < 16) (hs : s.showsBack b) :
    (s.benchRuns b).showsBack b ∧ (s.benchRuns b).is F.BNCH_STATUS_fw_running [b] = true :=
  ⟨showsBack_runningShown hb (showsBack_of_passes hb (passes_startInstances hb s) hs), fwRunning_runningShown _ b⟩

theorem benches_runningShown (s : State) (b : Nat) : (s.runningShown b).benches = s.benches := (State.benches_setB ..).trans (State.benches_setB ..)

theorem benches_benchRuns (hb : b < 16) (s : State) : (s.benchRuns b).benches = s.benches := by
  rw [benchRuns_eq, benches_runningShown, (passes_startInstances hb s).benches]

theorem State.Bursts.benchRuns (hb : b < 16) (hs : s.Bursts b n) : (s.benchRuns b).Bursts b n := by
  rw [benchRuns_eq]
  exact ((hs.of_holds (starts_instancesStarted hb s).holds).burstAsk b).of_holds (.setB <| .setB <| .refl _)

/-! BENCH_RELOAD_COMPLETE (R505, R572). -/

/-- The reset of the bench has ended, its image is applied, and the reload is over. -/
def State.reloaded (s : State) (b : Nat) : State :=
  let s := s.benchRelease b
  let s := s.benchApply (s.benchImage b) b
  s.setBench b { s.benchOf b with reloading := false, returning := false }

/-- The bench as its service leaves it. -/
def State.reloadedRuns (s : State) (b : Nat) : State :=
  if (s.benchOf b).returning then ((s.reloaded b).benchBack b).benchRuns b
  else if (s.reloaded b).is F.BNCH_STATUS_out_of_service [b] then s.reloaded b else (s.reloaded b).benchRuns b

theorem exec_benchReloadComplete (hup : s.down .bench = false) (hb : b < 16) (hreloading : (s.benchOf b).reloading = true)
    (hheld : s.permitHeld .settReload b = true) :
    exec (.benchReloadComplete b) s = .next ((s.clearOut.reloadedRuns b).permitGive .settReload b) := by
  have hreloading' : (s.clearOut.benchOf b).reloading = true := hreloading
  have hguard : b < 16 ∧ ((s.clearOut.benchOf b).reloading = true ∨ (s.clearOut.benchOf b).returning = true) ∧
      s.clearOut.permitHeld .settReload b = true := ⟨hb, .inl hreloading, hheld⟩
  have hrelease : s.clearOut.when (s.clearOut.benchOf b).reloading (fun s => s.benchRelease b) = s.clearOut.benchRelease b := if_pos hreloading'
  change execBenchReloadComplete b s = _
  unfold execBenchReloadComplete
  rw [if_neg (by simp [hup])]
  dsimp only
  rw [if_pos hguard, hrelease]
  rfl

theorem reloading_reloaded (s : State) (b : Nat) : ((s.reloaded b).benchOf b).reloading = false := by
  unfold State.reloaded
  rw [benchOf_setBench]

theorem benches_reloadedRuns (hb : b < 16) (s : State) : (s.reloadedRuns b).benches = (s.reloaded b).benches := by
  unfold State.reloadedRuns
  split
  · rw [benches_benchRuns hb, benches_benchBack hb]
  · split
    · rfl
    · rw [benches_benchRuns hb]

theorem State.Bursts.reloadedRuns (hb : b < 16) (hs : s.Bursts b n) : (s.reloadedRuns b).Bursts b n := by
  have hreloaded : (s.reloaded b).Bursts b n := hs.of_holds (.setBench <| .benchApply hb <| .benchRelease <| .refl s)
  exact .ite ((hreloaded.of_holds (holds_benchBack hb _)).benchRuns hb) (.ite hreloaded (hreloaded.benchRuns hb))

theorem benchReloadComplete_result (hup : s.down .bench = false) (hb : b < 16) (hreloading : (s.benchOf b).reloading = true)
    (hheld : s.permitHeld .settReload b = true) (hwaiting : s.permits.waiting = []) :
    ∃ u, exec (.benchReloadComplete b) s = .next u ∧ (u.benchOf b).reloading = false ∧
      (s.permits.held.count (.settReload, b) = 1 → u.permitHeld .settReload b = false) ∧
      ((s.benchOf b).returning = true → u.is F.BNCH_STATUS_out_of_service [b] = false ∧ u.is F.BNCH_STATUS_fw_running [b] = true ∧
        u.leafSet (benchLeaf b 8) = true) := by
  have hgiven : (s.clearOut.reloadedRuns b).Governs ((s.clearOut.reloadedRuns b).permitGive .settReload b) := .permitGive (.refl _)
  refine ⟨_, exec_benchReloadComplete hup hb hreloading hheld, ?_, fun hcount => ?_, fun hreturning => ?_⟩
  · rw [benchOf_of_governs hgiven]
    unfold State.benchOf
    rw [benches_reloadedRuns hb]
    exact reloading_reloaded s.clearOut b
  · have hbursts : s.clearOut.Bursts b 1 := ⟨hcount, fun w hw => by rw [show s.clearOut.permits.waiting = [] from hwaiting] at hw; cases hw⟩
    exact (hbursts.reloadedRuns hb).reloadGiven
  · have hruns : s.clearOut.reloadedRuns b = ((s.clearOut.reloaded b).benchBack b).benchRuns b := if_pos hreturning
    obtain ⟨hback, hrunning⟩ := showsBack_benchRuns hb (showsBack_benchBack hb (s.clearOut.reloaded b))
    rw [← hruns] at hback hrunning
    obtain ⟨hservice, hleaf⟩ := showsBack_of_passes hb hgiven.toPasses hback
    exact ⟨hservice, (hgiven.toPasses.status_is hb rfl (by decide)).trans hrunning, hleaf⟩

end Sys2Proof.Machine

end

section

/-! Benches out of service, reset and reloaded; face resets. -/

namespace Sys2Proof.Machine

/-- Settles O39: each instruction by the lemma that says what it leaves. The answers to guarded commands, and what stands before them,
rest on what the engine keeps as it takes a command (`governs_guardTaken`); the end of a reload on the permits it holds
(`State.Bursts`). -/
theorem benchService : Obligations.BenchService := by
  unfold Obligations.BenchService
  intro s r rest b hup hb answered outOf
  refine ⟨fun hinbox hroom hpass => ⟨?_, ?_, ?_, ?_, ?_, ?_⟩, freezeTimeout_result hup hb, benchReloadComplete_result hup hb,
    fun hin hplain => ⟨watchdogExpiry_result hup hb hin hplain, firmwareException_result hup hb hin hplain⟩,
    fun f hf => faceResetComplete_result hup hf, fun f => faceResetWaits_result hup⟩
  · exact outOfService_result hup hb hinbox hroom hpass
  · exact returnRefused_result hup hb hinbox hroom hpass
  · exact returnTaken_result hup hb hinbox hroom hpass
  · exact benchReset_result hup hb hinbox hroom hpass
  · exact faceRefused_result hup hinbox hroom hpass
  · exact faceTaken_result hup hinbox hroom hpass

end Sys2Proof.Machine

end
